-- ==== Sys2Proof/Word.lean ====
section
/-! DEFINITION. The word types of the Caord and the index types of its units. -/

namespace Sys2Proof

/-- One byte of memory (R54). -/
abbrev Byte := BitVec 8
/-- A 32-bit register or lane value. -/
abbrev W32 := BitVec 32
/-- A 64-bit register or memory word. -/
abbrev W64 := BitVec 64
/-- The 64 data bytes of a fabric, queue or bucket word; byte j at bits [8j+7:8j] (R54). -/
abbrev Line := BitVec 512
/-- A 128-bit schedule word (R194). -/
abbrev W128 := BitVec 128

/-- Physical wells W0 to W7 (R18). -/
abbrev WellIx := Fin 8
/-- Matrix engines: ME w north of well w, ME w+8 south of it (R18). -/
abbrev MeIx := Fin 16
/-- Slices S0 to S3 of a matrix engine (R99). -/
abbrev SlIx := Fin 4
/-- Fabric unit numbers: CU k is k, MU k is 48 + k (R157). -/
abbrev UnitIx := Fin 96
/-- Stored contexts of a well or thread (R126, R172). -/
abbrev CtxIx := Fin 4
/-- Pumps 0 to 31; pump p of cluster n is 4n + p (R238). -/
abbrev PumpIx := Fin 32
/-- Stream contexts of a pump (R238). -/
abbrev StreamIx := Fin 64
/-- Pipelines, numbered by their home well (R272). -/
abbrev PipeIx := Fin 8

/-- Bit n of a bit vector, as a truth value. -/
def bitAt {w : Nat} (v : BitVec w) (n : Nat) : Bool := v.getLsbD n

/-- Bits [lo + len - 1 : lo] of a bit vector, as a number. -/
def bits {w : Nat} (v : BitVec w) (lo len : Nat) : Nat := (v.toNat >>> lo) % 2 ^ len

/-- A truth value as 0 or 1. -/
def b2n (b : Bool) : Nat := if b then 1 else 0

/-- The sixteen number formats (R53). -/
inductive Fmt where
  | int8 | uint8 | int4 | int16 | int32 | fp8e4 | fp8e5 | fp6e3 | fp6e2 | fp4
  | bf16 | fp16 | fp32 | bell4 | bell6 | e8m0
  deriving DecidableEq, Repr

/-- The 4-bit code of a format (R53). -/
def Fmt.code : Fmt → Nat
  | .int8 => 0 | .uint8 => 1 | .int4 => 2 | .int16 => 3 | .int32 => 4 | .fp8e4 => 5 | .fp8e5 => 6
  | .fp6e3 => 7 | .fp6e2 => 8 | .fp4 => 9 | .bf16 => 10 | .fp16 => 11 | .fp32 => 12 | .bell4 => 13
  | .bell6 => 14 | .e8m0 => 15

/-- The format a 4-bit code names; every code is defined (R53). -/
def Fmt.ofCode (c : Nat) : Fmt :=
  match c % 16 with
  | 0 => .int8 | 1 => .uint8 | 2 => .int4 | 3 => .int16 | 4 => .int32 | 5 => .fp8e4 | 6 => .fp8e5
  | 7 => .fp6e3 | 8 => .fp6e2 | 9 => .fp4 | 10 => .bf16 | 11 => .fp16 | 12 => .fp32 | 13 => .bell4
  | 14 => .bell6 | _ => .e8m0

/-- The sideband a word carries beside its 64 data bytes, VALID apart (R163). -/
structure Sideband where
  marker : Bool
  bs : Bool
  btag : BitVec 6
  ctag : BitVec 2
  deriving DecidableEq, Repr

/-- The all-zero sideband. -/
def Sideband.zero : Sideband := ⟨false, false, 0, 0⟩

/-- A word on a link, in a port FIFO, in a crossing or in a stage queue (R163). -/
structure Word where
  data : Line
  sb : Sideband
  deriving DecidableEq, Repr

/-- A word of zeros. -/
def Word.zero : Word := ⟨0, .zero⟩

end Sys2Proof
end

