-- ==== Sys2Proof/Machine/Formats.lean ====
section
/-! DEFINITION. The sixteen number formats: the exact value of a code, one rounding into a code with
its saturation event, and the arithmetic that chapter 2 fixes (R53 to R74). -/

namespace Sys2Proof

/-- A value before rounding. `fin neg m e` is (−1)^neg · m · 2^e exactly; zero keeps its sign. -/
inductive FVal where
  | nan (neg : Bool)
  | nav
  | inf (neg : Bool)
  | fin (neg : Bool) (m : Nat) (e : Int)
  deriving DecidableEq, Repr

/-- Positive zero. -/
def FVal.zero : FVal := .fin false 0 0

/-- The exact value of an integer. -/
def FVal.ofInt (i : Int) : FVal := .fin (decide (i < 0)) i.natAbs 0

/-- m / 2^k to nearest, ties to even (R67). -/
def rneShr (m k : Nat) : Nat :=
  if k = 0 then m
  else
    let q := m >>> k
    let r := m % 2 ^ k
    let h := 2 ^ (k - 1)
    if h < r || (r == h && q % 2 == 1) then q + 1 else q

/-- m · 2^e in whole multiples of 2^q, to nearest, ties to even (R67). -/
def rneAt (m : Nat) (e q : Int) : Nat :=
  if q ≤ e then m <<< (e - q).toNat else rneShr m (q - e).toNat

/-- n / d to nearest, ties to even (R67). -/
def rneDiv (n d : Nat) : Nat :=
  if d = 0 then 0
  else
    let q := n / d
    let r := n % d
    if d < 2 * r || (2 * r == d && q % 2 == 1) then q + 1 else q

/-- Exponent and mantissa widths, bias and code of the largest finite magnitude of a float format
(R57). -/
structure FloatSpec where
  eb : Nat
  mb : Nat
  bias : Nat
  maxFin : Nat
  deriving DecidableEq, Repr

/-- The float formats of R57. -/
def floatSpec : Fmt → Option FloatSpec
  | .fp4 => some ⟨2, 1, 1, 0x7⟩
  | .fp6e2 => some ⟨2, 3, 1, 0x1F⟩
  | .fp6e3 => some ⟨3, 2, 3, 0x1F⟩
  | .fp8e4 => some ⟨4, 3, 7, 0x7E⟩
  | .fp8e5 => some ⟨5, 2, 15, 0x7B⟩
  | .fp16 => some ⟨5, 10, 15, 0x7BFF⟩
  | .bf16 => some ⟨8, 7, 127, 0x7F7F⟩
  | .fp32 => some ⟨8, 23, 127, 0x7F7FFFFF⟩
  | _ => none

/-- Width of an element in bits (R53). -/
def Fmt.width : Fmt → Nat
  | .int8 | .uint8 | .fp8e4 | .fp8e5 | .e8m0 => 8
  | .int4 | .fp4 | .bell4 => 4
  | .fp6e3 | .fp6e2 | .bell6 => 6
  | .int16 | .bf16 | .fp16 => 16
  | .int32 | .fp32 => 32

/-- Bits an element takes on chip: 6-bit elements stand in a byte of their own (R55). -/
def Fmt.slot (f : Fmt) : Nat := if f.width = 6 then 8 else f.width

/-- The integer formats. -/
def Fmt.isInt : Fmt → Bool
  | .int8 | .uint8 | .int4 | .int16 | .int32 => true
  | _ => false

/-- Least and greatest value of an integer format (R56). -/
def intRange : Fmt → Int × Int
  | .int4 => (-8, 7)
  | .int8 => (-128, 127)
  | .uint8 => (0, 255)
  | .int16 => (-32768, 32767)
  | _ => (-2147483648, 2147483647)

/-- A w-bit code read as two's complement. -/
def signedOf (w c : Nat) : Int := if c < 2 ^ (w - 1) then (c : Int) else (c : Int) - 2 ^ w

/-- The w-bit two's complement code of an integer. -/
def codeOfInt (w : Nat) (i : Int) : Nat := (i % 2 ^ w).toNat

/-- BELL4 magnitudes as FP32 codes, index 0 to 7 (R65). -/
def bell4Mag : List Nat :=
  [0, 0x3DBB98C8, 0x3E3E5C92, 0x3E924745, 0x3ECB4396, 0x3F06FD22, 0x3F32F1AA, 0x3F800000]

/-- BELL6 magnitudes as FP32 codes, index 0 to 31: the formula of R65 rounded to FP32. -/
def bell6Mag : List Nat :=
  [0, 0x3C872DC7, 0x3D07493D, 0x3D4B32D1, 0x3D87B801, 0x3DAA0F15, 0x3DCCADF8, 0x3DEFA4DB,
    0x3E098284, 0x3E1B7090, 0x3E2DA6B9, 0x3E40302D, 0x3E53195B, 0x3E66703D, 0x3E7A44B1, 0x3E87547A]
  ++ [0x3E91D91B, 0x3E9CBCB2, 0x3EA80E19, 0x3EB3DF4C, 0x3EC04668, 0x3ECD5F22, 0x3EDB4CF6,
    0x3EEA3E7F, 0x3EFA72DC, 0x3F06216B, 0x3F1018BE, 0x3F1B8687, 0x3F291C3D, 0x3F3A377F, 0x3F523E9E,
    0x3F800000]

/-- Value of a float code by its fields (R57, R58). -/
def decodeFloat (sp : FloatSpec) (hasInf : Bool) (c : Nat) : FVal :=
  let neg := (c >>> (sp.eb + sp.mb)) % 2 == 1
  let mag := c % 2 ^ (sp.eb + sp.mb)
  let ex := mag >>> sp.mb
  let mn := mag % 2 ^ sp.mb
  if sp.maxFin < mag then
    if hasInf && mn == 0 then .inf neg else .nan neg
  else if ex = 0 then .fin neg mn (1 - (sp.bias : Int) - sp.mb)
  else .fin neg (mn + 2 ^ sp.mb) ((ex : Int) - sp.bias - sp.mb)

/-- Formats that have infinity and a canonical NaN (R57, R70). -/
def Fmt.ieee : Fmt → Bool
  | .fp8e5 | .fp16 | .bf16 | .fp32 => true
  | _ => false

/-- FP32 from its code. -/
def f32 (c : Nat) : FVal := decodeFloat ⟨8, 23, 127, 0x7F7FFFFF⟩ true c

/-- Value of a BELL code before scaling (R65). -/
def decodeBell (mags : List Nat) (n c : Nat) : FVal :=
  let neg := decide (n < c)
  let k := c % (n + 1)
  if k = 0 then (if neg then .nav else .zero)
  else match f32 (mags.getD k 0) with
    | .fin _ m e => .fin neg m e
    | v => v

/-- The exact value a code stands for; a UINT8 code is taken at its stored value (R56). -/
def decodeFmt (f : Fmt) (c : Nat) : FVal :=
  match f with
  | .int8 => .ofInt (signedOf 8 c)
  | .uint8 => .ofInt c
  | .int4 => .ofInt (signedOf 4 c)
  | .int16 => .ofInt (signedOf 16 c)
  | .int32 => .ofInt (signedOf 32 c)
  | .bell4 => decodeBell bell4Mag 7 c
  | .bell6 => decodeBell bell6Mag 31 c
  | .e8m0 => if c = 255 then .nan false else .fin false 1 ((c : Int) - 127)
  | .fp4 => decodeFloat ⟨2, 1, 1, 0x7⟩ false c
  | .fp6e2 => decodeFloat ⟨2, 3, 1, 0x1F⟩ false c
  | .fp6e3 => decodeFloat ⟨3, 2, 3, 0x1F⟩ false c
  | .fp8e4 => decodeFloat ⟨4, 3, 7, 0x7E⟩ false c
  | .fp8e5 => decodeFloat ⟨5, 2, 15, 0x7B⟩ true c
  | .fp16 => decodeFloat ⟨5, 10, 15, 0x7BFF⟩ true c
  | .bf16 => decodeFloat ⟨8, 7, 127, 0x7F7F⟩ true c
  | .fp32 => f32 c

/-- Rounds a finite value into a float format: its code and whether it saturated (R67, R68). -/
def roundFloat (sp : FloatSpec) (neg : Bool) (m : Nat) (e : Int) : Nat × Bool :=
  let sgn := b2n neg <<< (sp.eb + sp.mb)
  if m = 0 then (sgn, false)
  else
    let top : Int := (Nat.log2 m : Int) + e
    let lo : Int := 1 - (sp.bias : Int)
    let q : Int := (if top < lo then lo else top) - sp.mb
    let n := rneAt m e q
    let mag := if top < lo then n else (top + sp.bias - 1).toNat * 2 ^ sp.mb + n
    if sp.maxFin < mag then (sgn + sp.maxFin, true) else (sgn + mag, false)

/-- The nearest integer to a finite value, ties to even (R67). -/
def nearInt (neg : Bool) (m : Nat) (e : Int) : Int :=
  let n : Int := (rneAt m e 0 : Nat)
  if neg then -n else n

/-- An integer saturated into a range, and whether it lay outside (R68). -/
def satInt (lo hi i : Int) : Int × Bool :=
  if i < lo then (lo, true) else if hi < i then (hi, true) else (i, false)

/-- The E8M0 code of a finite value (R72). -/
def roundE8m0 (neg : Bool) (m : Nat) (e : Int) : Nat × Bool :=
  if m = 0 || neg then (0, true)
  else
    let l := Nat.log2 m
    let top : Int := (l : Int) + e + 127
    let k : Int :=
      if 2 * m < 3 * 2 ^ l then top
      else if 3 * 2 ^ l < 2 * m then top + 1
      else if top % 2 = 0 then top else top + 1
    if k < 0 then (0, false) else if 254 < k then (0xFE, true) else (k.toNat, false)

/-- Compares finite values: a < b for non-negative m·2^e. -/
def finLt (m : Nat) (e : Int) (m' : Nat) (e' : Int) : Bool :=
  if e ≤ e' then decide (m < m' <<< (e' - e).toNat) else decide (m <<< (e - e').toNat < m')

/-- Equality of non-negative m·2^e. -/
def finEq (m : Nat) (e : Int) (m' : Nat) (e' : Int) : Bool :=
  !finLt m e m' e' && !finLt m' e' m e

/-- Sum of two FP32 magnitudes, exactly: mantissa and exponent. -/
def magAdd (a b : Nat) : Nat × Int :=
  match f32 a, f32 b with
  | .fin _ m e, .fin _ m' e' =>
    if e ≤ e' then (m + m' <<< (e' - e).toNat, e) else (m <<< (e - e').toNat + m', e')
  | _, _ => (0, 0)

/-- The index whose magnitude is nearest t, the even one midway (R66), from a list of magnitudes
that starts at index k. -/
def bellIndex (m : Nat) (e : Int) : Nat → List Nat → Nat
  | k, a :: b :: r =>
    let s := magAdd a b
    if finLt (2 * m) e s.1 s.2 || (finEq (2 * m) e s.1 s.2 && k % 2 == 0) then k
    else bellIndex m e (k + 1) (b :: r)
  | k, _ => k

/-- A BELL code of a value already divided by its scale (R66, R68). -/
def roundBell (mags : List Nat) (n : Nat) (neg : Bool) (m : Nat) (e : Int) : Nat × Bool :=
  let k := bellIndex m e 0 mags
  (if k = 0 then 0 else k + (if neg then n + 1 else 0), finLt 1 0 m e)

/-- The minimum of an integer format as a code. -/
def intMinCode (f : Fmt) : Nat := codeOfInt f.width (intRange f).1

/-- Canonical NaN of the formats that have one (R70). -/
def canonNan : Fmt → Nat
  | .fp32 => 0x7FC00000
  | .bf16 => 0x7FC0
  | .fp16 => 0x7E00
  | _ => 0x7E

/-- NaN into a format (R70). -/
def encodeNan (f : Fmt) (neg : Bool) : Nat × Bool :=
  match f with
  | .fp32 | .bf16 | .fp16 | .fp8e5 => (canonNan f, false)
  | .fp8e4 => (if neg then 0xFF else 0x7F, false)
  | .fp6e3 | .fp6e2 => (0x3F, true)
  | .fp4 => (0xF, true)
  | .bell4 => (0x8, false)
  | .bell6 => (0x20, false)
  | .e8m0 => (0xFF, false)
  | .int8 | .uint8 | .int4 | .int16 | .int32 => (intMinCode f, true)

/-- NaV into a format (R70). -/
def encodeNav (f : Fmt) : Nat × Bool :=
  if f.isInt then (intMinCode f, false) else encodeNan f false

/-- Infinity into a format (R70). -/
def encodeInf (f : Fmt) (neg : Bool) : Nat × Bool :=
  match f with
  | .e8m0 => (0xFE, true)
  | .bell4 => (7 + 8 * b2n neg, true)
  | .bell6 => (31 + 32 * b2n neg, true)
  | .fp32 => (0x7F800000 + b2n neg <<< 31, false)
  | .bf16 => (0x7F80 + b2n neg <<< 15, false)
  | .fp16 => (0x7C00 + b2n neg <<< 15, false)
  | .fp8e5 => (0x7C + b2n neg <<< 7, false)
  | .fp8e4 => (0x7E + b2n neg <<< 7, true)
  | .fp6e3 | .fp6e2 => (0x1F + b2n neg <<< 5, true)
  | .fp4 => (0x7 + b2n neg <<< 3, true)
  | .int8 | .uint8 | .int4 | .int16 | .int32 =>
    (codeOfInt f.width (if neg then (intRange f).1 else (intRange f).2), true)

/-- A finite value into a format, rounded once (R67, R68, R72). -/
def encodeFin (f : Fmt) (neg : Bool) (m : Nat) (e : Int) : Nat × Bool :=
  match f with
  | .int8 | .uint8 | .int4 | .int16 | .int32 =>
    let r := satInt (intRange f).1 (intRange f).2 (nearInt neg m e)
    (codeOfInt f.width r.1, r.2)
  | .bell4 => roundBell bell4Mag 7 neg m e
  | .bell6 => roundBell bell6Mag 31 neg m e
  | .e8m0 => roundE8m0 neg m e
  | .fp4 => roundFloat ⟨2, 1, 1, 0x7⟩ neg m e
  | .fp6e2 => roundFloat ⟨2, 3, 1, 0x1F⟩ neg m e
  | .fp6e3 => roundFloat ⟨3, 2, 3, 0x1F⟩ neg m e
  | .fp8e4 => roundFloat ⟨4, 3, 7, 0x7E⟩ neg m e
  | .fp8e5 => roundFloat ⟨5, 2, 15, 0x7B⟩ neg m e
  | .fp16 => roundFloat ⟨5, 10, 15, 0x7BFF⟩ neg m e
  | .bf16 => roundFloat ⟨8, 7, 127, 0x7F7F⟩ neg m e
  | .fp32 => roundFloat ⟨8, 23, 127, 0x7F7FFFFF⟩ neg m e

/-- A value into a format: its code, and whether a saturation event is counted (R67 to R72). -/
def encodeFmt (f : Fmt) (v : FVal) : Nat × Bool :=
  match v with
  | .nan neg => encodeNan f neg
  | .nav => encodeNav f
  | .inf neg => encodeInf f neg
  | .fin neg m e => encodeFin f neg m e

/-- One conversion between formats: the source taken as exact, rounded once (R74). -/
def convertCode (sf df : Fmt) (c : Nat) : Nat × Bool := encodeFmt df (decodeFmt sf c)

/-- The value with its sign dropped. -/
def FVal.abs : FVal → FVal
  | .nan _ => .nan false
  | .nav => .nav
  | .inf _ => .inf false
  | .fin _ m e => .fin false m e

/-- The value with its sign turned. -/
def FVal.neg : FVal → FVal
  | .nan n => .nan n
  | .nav => .nav
  | .inf n => .inf (!n)
  | .fin n m e => .fin (!n) m e

/-- NaN or NaV. -/
def FVal.isNan : FVal → Bool
  | .nan _ | .nav => true
  | _ => false

/-- The exact sum of finite values; a zero sum of unlike signs is +0 (IEEE 754, R71). -/
def finAdd (n1 : Bool) (m1 : Nat) (e1 : Int) (n2 : Bool) (m2 : Nat) (e2 : Int) : FVal :=
  let e := if e1 ≤ e2 then e1 else e2
  let a := m1 <<< (e1 - e).toNat
  let b := m2 <<< (e2 - e).toNat
  if n1 == n2 then .fin n1 (a + b) e
  else if b < a then .fin n1 (a - b) e
  else if a < b then .fin n2 (b - a) e
  else .fin false 0 0

/-- The exact sum (R71). -/
def FVal.add (a b : FVal) : FVal :=
  match a, b with
  | .fin n1 m1 e1, .fin n2 m2 e2 => finAdd n1 m1 e1 n2 m2 e2
  | .inf n1, .inf n2 => if n1 == n2 then .inf n1 else .nan false
  | .inf n, .fin _ _ _ => .inf n
  | .fin _ _ _, .inf n => .inf n
  | _, _ => .nan false

/-- The exact product (R71). The sign of a NaN that it gives is not stated; it is positive. DESIGN CHOICE:
log 162. -/
def FVal.mul (a b : FVal) : FVal :=
  match a, b with
  | .fin n1 m1 e1, .fin n2 m2 e2 => .fin (n1 != n2) (m1 * m2) (e1 + e2)
  | .inf n1, .inf n2 => .inf (n1 != n2)
  | .inf n1, .fin n2 m _ => if m = 0 then .nan false else .inf (n1 != n2)
  | .fin n1 m _, .inf n2 => if m = 0 then .nan false else .inf (n1 != n2)
  | _, _ => .nan false

/-- Order on values with neither NaN nor NaV; −0 equals +0. -/
def FVal.lt (a b : FVal) : Bool :=
  match a, b with
  | .fin n1 m1 e1, .fin n2 m2 e2 =>
    if m1 = 0 && m2 = 0 then false
    else if n1 && !n2 then true
    else if !n1 && n2 then false
    else if n1 then finLt m2 e2 m1 e1 else finLt m1 e1 m2 e2
  | .inf n1, .inf n2 => n1 && !n2
  | .inf n1, .fin _ _ _ => n1
  | .fin _ _ _, .inf n2 => !n2
  | _, _ => false

/-- A value times a power of two. -/
def FVal.scale2 (k : Int) : FVal → FVal
  | .fin n m e => .fin n m (e + k)
  | v => v

/-- Bits [w·i + w − 1 : w·i] of a number. -/
def laneOf (v w i : Nat) : Nat := (v >>> (w * i)) % 2 ^ w

/-- A number from its w-bit lanes, lane 0 lowest. -/
def ofLanes (w : Nat) : List Nat → Nat
  | [] => 0
  | c :: r => c % 2 ^ w + (ofLanes w r) <<< w

/-- Elements of a format in a 64-byte word (R54, R55). -/
def Fmt.perWord (f : Fmt) : Nat := 512 / f.slot

/-- Element i of a 64-byte word; bits [7:6] of a 6-bit container are ignored (R54, R55). -/
def elemCode (f : Fmt) (l : Line) (i : Nat) : Nat := laneOf l.toNat f.slot i % 2 ^ f.width

/-- A 64-byte word from element codes; container bits above a 6-bit code are zero (R55). -/
def lineOfCodes (f : Fmt) (cs : List Nat) : Line := BitVec.ofNat 512 (ofLanes f.slot cs)

/-- The codes of a 64-byte word. -/
def lineCodes (f : Fmt) (l : Line) : List Nat := (List.range f.perWord).map (elemCode f l)

/-- BELL4, BELL6: the encoder's t = |x| / s in FP32, then the nearest index (R66). A zero is index 0; a
negative t lies nearest to index 0 as well, and a scale of zero makes t infinite. NaN divided by, or by NaN,
is NaN. DEDUCED: log 184. -/
def bellEncode (f : Fmt) (s : FVal) (x : FVal) : Nat × Bool :=
  match s, x with
  | _, .nav => encodeNav f
  | .nan _, .fin _ 0 _ | .nav, .fin _ 0 _ => (0, false)
  | .nan _, _ | .nav, _ | _, .nan _ | .inf _, .inf _ => encodeNan f false
  | .inf _, .fin _ _ _ => (0, false)
  | .fin _ _ _, .inf neg => encodeInf f neg
  | .fin ns ms es, .fin neg m e =>
    if m = 0 then (0, false)
    else if ms = 0 then encodeInf f neg
    else if ns then (0, false)
    else
      -- the quotient with 64 bits below the FP32 result, a sticky bit for the remainder
      let sh := Nat.log2 ms + 64
      let q := (m <<< sh) / ms
      let st := if (m <<< sh) % ms = 0 then 0 else 1
      match f32 (roundFloat ⟨8, 23, 127, 0x7F7FFFFF⟩ false (2 * q + st) (e - es - sh - 1)).1 with
      | .fin _ tm te => encodeFin f neg tm te
      | _ => encodeInf f neg

end Sys2Proof
end

