-- ==== Sys2Proof/Syntax.lean ====
section
/-! DEFINITION. The commands of the block: one constructor of `Instr` for each row of the opcode
table, with its operands. An operand names the unit that takes the step, the field values of the
instruction word it issues, or what the outside world supplies in the step (host data, sensor
readings, test outcomes). -/

namespace Sys2Proof

/-- An MSQ thread: slice `sl` of matrix engine `me` (R125). -/
structure Thread where
  me : MeIx
  sl : SlIx
  deriving DecidableEq, Repr

/-- Fields of `WLD` (R132, R137, R138). Count fields hold the count minus one. -/
structure WldF where
  dfirst : BitVec 8
  dcnt1 : BitVec 8
  row : BitVec 7
  lines1 : BitVec 6
  side : BitVec 2
  fwd : Bool
  nst : Bool
  ch : BitVec 2
  deriving DecidableEq, Repr

/-- Fields of `WRELAY` (R132, R138). -/
structure WrelayF where
  dfirst : BitVec 8
  dcnt1 : BitVec 8
  row : BitVec 7
  lines1 : BitVec 6
  side : BitVec 2
  mode : BitVec 2
  deriving DecidableEq, Repr

/-- Fields of `WDYN` (R132, R138). -/
structure WdynF where
  dfirst : BitVec 8
  dcnt1 : BitVec 8
  row : BitVec 7
  lines1 : BitVec 6
  side : BitVec 2
  ch : BitVec 2
  deriving DecidableEq, Repr

/-- Fields of `MMA` and `MMAZ` (R132, R139). -/
structure MmaF where
  afmt : Fmt
  wfmt : Fmt
  bank : BitVec 2
  p1 : BitVec 3
  c1 : BitVec 9
  cfirst : BitVec 9
  amx : Bool
  wmx : Bool
  ch : BitVec 2
  deriving DecidableEq, Repr

/-- Fields of `DRAIN` (R132, R142, R143). -/
structure DrainF where
  ofmt : Fmt
  bank : BitVec 2
  p1 : BitVec 3
  n1 : BitVec 8
  mark : Bool
  monly : Bool
  deriving DecidableEq, Repr

/-- Fields of `SCL` (R144). -/
structure SclF where
  first : BitVec 8
  count1 : BitVec 8
  ch : BitVec 2
  deriving DecidableEq, Repr

/-- Fields of `ZPC` (R144). -/
structure ZpcF where
  first : BitVec 8
  count1 : BitVec 8
  nozp : Bool
  ch : BitVec 2
  deriving DecidableEq, Repr

/-- The semaphore reference and count of `QWAIT`, `SEMSIG` and `SEMWAIT` (R146). -/
structure SemF where
  well : BitVec 3
  sq : BitVec 10
  sel : Bool
  n : BitVec 16
  deriving DecidableEq, Repr

/-- An MSQ instruction, decoded (R132). -/
inductive MsqOp where
  | nop
  | halt (code : BitVec 16)
  | loop (lvl : BitVec 2) (count1 : BitVec 16) (last : BitVec 8)
  | jmp (target : BitVec 8)
  | brc (cond : BitVec 4) (neg : Bool) (lvl : BitVec 2) (target : BitVec 8)
  | wld (f : WldF)
  | wrelay (f : WrelayF)
  | wdyn (f : WdynF)
  | mma (f : MmaF)
  | mmaz (f : MmaF)
  | drain (f : DrainF)
  | scl (f : SclF)
  | scls (kind : Bool) (ch : BitVec 2)
  | zpc (f : ZpcF)
  | qwait (f : SemF)
  | semsig (f : SemF)
  | semwait (f : SemF)
  | bar (bid : BitVec 4)
  | fence
  | ctxsw (ctx : BitVec 2) (force : Bool) (mask : BitVec 4)
  | drainall (mask : BitVec 4)
  | ptok (duty : BitVec 7)
  | stat (perTensor unit : Bool) (winLen : BitVec 16)
  | tag (l1 : BitVec 12)
  | trap (code : BitVec 16)
  deriving DecidableEq, Repr

/-- The header of a schedule word less OP (R194). -/
structure SwHead where
  pen : Bool
  pneg : Bool
  psel : BitVec 4
  cx : BitVec 2
  rep : BitVec 16
  deriving DecidableEq, Repr

/-- The compute operations of a CU (R195). -/
inductive CuOp where
  | mov | cvt | add | sub | mul | fma | min | max | cmp | sel | and | or | xor | shl | shr
  | exp2 | log2 | rcp | rsq | rsum | rmax
  deriving DecidableEq, Repr

/-- The fields of a CU operation word (R202). -/
structure CuF where
  route : BitVec 4
  ch : BitVec 2
  blk : BitVec 2
  dreg : Bool
  dst : BitVec 4
  srca : BitVec 6
  srcb : BitVec 6
  srcc : BitVec 6
  fmt : Fmt
  ofmt : Fmt
  chn : BitVec 2
  fn : BitVec 4
  imm : BitVec 32
  deriving DecidableEq, Repr

/-- A read slot A or B of a `MEM` word (R209). -/
structure RSlotF where
  en : Bool
  q : Bool
  qn : BitVec 4
  route : BitVec 4
  ch : BitVec 2
  blk : BitVec 2
  qop : BitVec 2
  nord : Bool
  deriving DecidableEq, Repr

/-- The write slot W of a `MEM` word (R209). -/
structure WSlotF where
  en : Bool
  q : Bool
  qn : BitVec 4
  src : BitVec 3
  deriving DecidableEq, Repr

/-- The three slots of a `MEM` word (R209). -/
structure MemF where
  a : RSlotF
  b : RSlotF
  w : WSlotF
  deriving DecidableEq, Repr

/-- A schedule word's operation, decoded (R195). -/
inductive SwOp where
  | nop
  | loop (lvl : BitVec 2) (count1 : BitVec 16) (last : BitVec 9)
  | jmp (target : BitVec 9)
  | pset (pd cond arg : BitVec 4) (neg : Bool)
  | switch (force : Bool) (mask : BitVec 7) (qna qnb : BitVec 4)
  | tagset (t : BitVec 6)
  | cu (op : CuOp) (f : CuF)
  | mem (f : MemF)
  | agset (ag part : Nat) (payload : BitVec 64)
  deriving DecidableEq, Repr

/-- The path a host or service-core transaction takes (R339). -/
inductive Path where
  | u0 | u1 | sideband | mp | sc (c : Fin 4) | tap
  deriving DecidableEq, Repr

/-- The units that keep saturation statistics (R91). -/
inductive StatUnit where
  | slice (t : Thread)
  | cu (w : WellIx) (k : Fin 48)
  | link (port : Fin 6)
  deriving DecidableEq, Repr

/-- What a schedule-memory or program write names (R126, R178). -/
inductive SmwTarget where
  | word (f : UnitIx) (i : Fin 512) (high : Bool)
  | switch (f : UnitIx)
  | program (south : Bool) (sl : SlIx) (ctx : CtxIx) (i : Fin 256)
  deriving DecidableEq, Repr

/-- A mailbox channel: the two host channels and those of the service cores (R341, R433). -/
inductive MbChan where
  | main | side | core (c : Fin 4) (n : Fin 8)
  deriving DecidableEq, Repr

/-- A packet on a chip link (R386): header fields, the words DW1 to DW4 and the data slots. -/
structure Packet where
  kind : BitVec 4
  vc : Bool
  dst : BitVec 10
  src : BitVec 10
  dw1 : W64
  dw2 : W64
  dw3 : W64
  dw4 : W64
  data : List Line
  deriving DecidableEq, Repr

/-- A flit as the receiver sees it after FEC (R383, R384). -/
structure Flit where
  kind : BitVec 2
  seq : BitVec 9
  ack : BitVec 9
  corrected : Bool
  uncorrectable : Bool
  slots : List Line
  deriving DecidableEq, Repr

/-- A MEMB HELLO (R390). -/
structure Hello where
  id : BitVec 10
  serial : W64
  port : BitVec 3
  variant : BitVec 8
  epoch : BitVec 16
  deriving DecidableEq, Repr

/-- A MEMB link-state update (R391): its originator, sequence number, neighbours by port with the
port's direction code (dimension doubled, plus 1 for the positive direction), and its leave mark. -/
structure LinkState where
  origin : BitVec 10
  seq : BitVec 32
  serial : W64
  nbrs : List (Nat × BitVec 10)
  leave : Bool
  deriving DecidableEq, Repr

/-- The topology part of a MEMBERSHIP request (R391): dimension sizes, whether the dimensions close
into rings, own coordinates and the port of each direction (2d for descending, 2d+1 for ascending). -/
structure Topology where
  sizes : List Nat
  wrap : Bool
  coords : List Nat
  ports : List (Option (Fin 6))
  deriving DecidableEq, Repr

/-- A sensor reading of one sampling round (R454): valid, passes its check, value in 1/16 degree. -/
structure Reading where
  ok : Bool
  t : BitVec 16
  deriving DecidableEq, Repr

/-- The outcome of an SRAM access under SECDED, as the array gives it (R423). -/
inductive EccSeen where
  | clean | corrected | uncorrectable
  deriving DecidableEq, Repr

/-- A repair or fail entry of R519, as its fields. -/
structure RepairEntry where
  kind : BitVec 4
  part : BitVec 8
  mem : BitVec 12
  addr : BitVec 22
  bit : BitVec 9
  spare : BitVec 9
  deriving DecidableEq, Repr

/-- What the boot flow meets outside the device in a phase of a start (R502). -/
structure StartEnv where
  /-- wells whose crossings fail to calibrate (R25) -/
  calFail : List WellIx
  /-- first failing channel at each data rate, highest first; `none` where the rate trains (R365) -/
  train : List (Option (Fin 32))
  /-- duration of the start so far, ms (R510) -/
  ms : BitVec 16
  deriving DecidableEq, Repr

/-- What a partition test reports (R515): logic BIST result and failing memory words. -/
structure BistResult where
  logicFail : Bool
  words : List RepairEntry
  ms : BitVec 16
  deriving DecidableEq, Repr

/-- The hard serial blocks of the Rim (R444). -/
inductive SerialBlock where
  | uart (u : Fin 4) | spi (s : Fin 2) | i3c (i : Fin 2)
  deriving DecidableEq, Repr

/-- Pins that hold a reset level (R497). -/
inductive ResetPin where
  | porst | wrst
  deriving DecidableEq, Repr

/-- What ends a wake state (R475). -/
inductive WakeEvent where
  | chp | doorbell | rimIrq | linkPacket | pps | lattol
  deriving DecidableEq, Repr

/-- A fault as a detector reports it (R483, R493). -/
structure FaultInfo where
  status : BitVec 8
  cls : BitVec 4
  unit : BitVec 16
  addr : BitVec 48
  detail : W64
  deriving DecidableEq, Repr

/-- A service-core load or store (R422, R423). -/
structure ScAccess where
  store : Bool
  addr : BitVec 48
  size : BitVec 2
  value : W64
  /-- the load extends with zeros and not with the sign -/
  unsigned : Bool
  atomic : Bool
  ecc : EccSeen
  deriving DecidableEq, Repr

/-- The commands of the block: one constructor per row of the opcode table. -/
inductive Instr where
  -- wells and registers
  | stroke (w : WellIx)
  | crossingWordArrival (w : WellIx) (row : Fin 24) (east express : Bool)
  | sidePortWrite (w : WellIx) (e : Fin 768) (wd : Word)
  | semaphorePortUpdate (w : WellIx) (e : Fin 768) (sel : Bool) (n : BitVec 16)
  | registerWrite (off : BitVec 26) (wide : Bool) (v : W64)
  -- matrix sequencer instructions
  | msqNop (t : Thread)
  | halt (t : Thread) (code : BitVec 16)
  | msqLoop (t : Thread) (lvl : BitVec 2) (count1 : BitVec 16) (last : BitVec 8)
  | msqJmp (t : Thread) (target : BitVec 8)
  | brc (t : Thread) (cond : BitVec 4) (neg : Bool) (lvl : BitVec 2) (target : BitVec 8)
  | wld (t : Thread) (f : WldF)
  | wrelay (t : Thread) (f : WrelayF)
  | wdyn (t : Thread) (f : WdynF)
  | mma (t : Thread) (f : MmaF)
  | mmaz (t : Thread) (f : MmaF)
  | drain (t : Thread) (f : DrainF)
  | scl (t : Thread) (f : SclF)
  | scls (t : Thread) (kind : Bool) (ch : BitVec 2)
  | zpc (t : Thread) (f : ZpcF)
  | qwait (t : Thread) (f : SemF)
  | semsig (t : Thread) (f : SemF)
  | semwait (t : Thread) (f : SemF)
  | bar (t : Thread) (bid : BitVec 4)
  | fence (t : Thread)
  | drainall (t : Thread) (mask : BitVec 4)
  | ctxsw (t : Thread) (ctx : BitVec 2) (force : Bool) (mask : BitVec 4)
  | threadWaitEnd (t : Thread)
  | threadContextSwitch (t : Thread)
  | ptok (t : Thread) (duty : BitVec 7)
  | stat (t : Thread) (perTensor unit : Bool) (winLen : BitVec 16)
  | tag (t : Thread) (l1 : BitVec 12)
  | trap (t : Thread) (code : BitVec 16)
  | wsEccWriteback (t : Thread)
  | relayLineArrival (t : Thread)
  | msqStart (t : Thread) (ctx : BitVec 2) (swflag : Bool)
  | msqStop (t : Thread) (ctx : BitVec 2) (swflag start : Bool)
  | meScaleWrite (t : Thread) (n : Fin 256) (v : W32)
  | statCtrlWrite (u : StatUnit) (v : W32)
  | statWindowEnd (u : StatUnit)
  -- schedule words
  | swNop (w : WellIx) (f : UnitIx) (h : SwHead)
  | swLoop (w : WellIx) (f : UnitIx) (h : SwHead) (lvl : BitVec 2) (count1 : BitVec 16) (last : BitVec 9)
  | swJmp (w : WellIx) (f : UnitIx) (h : SwHead) (target : BitVec 9)
  | pset (w : WellIx) (f : UnitIx) (h : SwHead) (pd cond arg : BitVec 4) (neg : Bool)
  | switch (w : WellIx) (f : UnitIx) (h : SwHead) (force : Bool) (mask : BitVec 7) (qna qnb : BitVec 4)
  | tagset (w : WellIx) (f : UnitIx) (h : SwHead) (t : BitVec 6)
  | mov (w : WellIx) (k : Fin 48) (h : SwHead) (c : CuF)
  | cvt (w : WellIx) (k : Fin 48) (h : SwHead) (c : CuF)
  | add (w : WellIx) (k : Fin 48) (h : SwHead) (c : CuF)
  | sub (w : WellIx) (k : Fin 48) (h : SwHead) (c : CuF)
  | mul (w : WellIx) (k : Fin 48) (h : SwHead) (c : CuF)
  | fma (w : WellIx) (k : Fin 48) (h : SwHead) (c : CuF)
  | min (w : WellIx) (k : Fin 48) (h : SwHead) (c : CuF)
  | max (w : WellIx) (k : Fin 48) (h : SwHead) (c : CuF)
  | cmp (w : WellIx) (k : Fin 48) (h : SwHead) (c : CuF)
  | sel (w : WellIx) (k : Fin 48) (h : SwHead) (c : CuF)
  | and (w : WellIx) (k : Fin 48) (h : SwHead) (c : CuF)
  | or (w : WellIx) (k : Fin 48) (h : SwHead) (c : CuF)
  | xor (w : WellIx) (k : Fin 48) (h : SwHead) (c : CuF)
  | shl (w : WellIx) (k : Fin 48) (h : SwHead) (c : CuF)
  | shr (w : WellIx) (k : Fin 48) (h : SwHead) (c : CuF)
  | exp2 (w : WellIx) (k : Fin 48) (h : SwHead) (c : CuF)
  | log2 (w : WellIx) (k : Fin 48) (h : SwHead) (c : CuF)
  | rcp (w : WellIx) (k : Fin 48) (h : SwHead) (c : CuF)
  | rsq (w : WellIx) (k : Fin 48) (h : SwHead) (c : CuF)
  | rsum (w : WellIx) (k : Fin 48) (h : SwHead) (c : CuF)
  | rmax (w : WellIx) (k : Fin 48) (h : SwHead) (c : CuF)
  | mem (w : WellIx) (k : Fin 48) (h : SwHead) (m : MemF)
  | agset (w : WellIx) (k : Fin 48) (h : SwHead) (ag : BitVec 2) (part : BitVec 3) (payload : W64)
  -- fabric control
  | cisternEccWriteback (w : WellIx) (k : Fin 48)
  | wellSwitch (w : WellIx)
  | sfStart (w : WellIx) (ctx : BitVec 2)
  | sfStop (w : WellIx) (ctx : BitVec 2) (start : Bool)
  | smwWrite (w : WellIx) (a : SmwTarget) (v : W64)
  | sfCommitGo (w : WellIx) (ctx : BitVec 2)
  | commitComplete (w : WellIx)
  | sfCommitUnload (w : WellIx) (ctx : BitVec 2)
  | unloadComplete (w : WellIx)
  | sfCaptureArm (w : WellIx) (at_ : W64) (onStall : Bool)
  | sfCaptureNow (w : WellIx)
  | captureTaken (w : WellIx)
  -- stage queues
  | sqEnable (w : WellIx) (e : Fin 768) (cfg : W32)
  | sqSemWrite (w : WellIx) (e : Fin 768) (v : W32)
  | spillWrite (w : WellIx) (e : Fin 768)
  | refillRead (w : WellIx) (e : Fin 768)
  | refillLanded (w : WellIx) (e : Fin 768)
  | freezeWatchExpiry (w : WellIx)
  | waitWatchExpiry (w : WellIx)
  -- pumps
  | pmpArm (p : PumpIx) (c : StreamIx)
  | pmpCancel (p : PumpIx) (c : StreamIx)
  | pmpFlush (p : PumpIx) (c : StreamIx)
  | descriptorCheck (p : PumpIx) (c : StreamIx) (host : Line) (hostErr : Bool)
  | pumpReadIssue (p : PumpIx)
  | pumpWriteIssue (p : PumpIx)
  | readBucketReturn (p : PumpIx) (c : StreamIx)
  | writeBucketComplete (p : PumpIx) (c : StreamIx) (i : Nat)
  | cancelComplete (p : PumpIx) (c : StreamIx)
  | tteSample (p : PumpIx) (c : StreamIx)
  -- pipelines
  | barrierComplete (p : PipeIx) (b : Fin 16)
  | segmentContextLoad (p : PipeIx) (seg : Fin 16)
  -- host transactions
  | regrd (path : Path) (off : BitVec 26) (wide : Bool)
  | regwr (path : Path) (off : BitVec 26) (wide : Bool) (v : W64)
  | memrd (path : Path) (addr : BitVec 48) (len : Nat)
  | memwr (path : Path) (addr : BitVec 48) (data : List Byte)
  | dbell (path : Path) (ring : BitVec 8) (tail : W32)
  | hrdCompletion (id : Nat) (data : Line) (err : Bool)
  | hwrCompletion (id : Nat) (err : Bool)
  | ucieModuleDown (m : Fin 2)
  | ucieModuleTrained (m : Fin 2) (rate : BitVec 3)
  | hostAccessTimeout (id : Nat)
  -- mailbox
  | mailboxDoorbell (ch : MbChan)
  | mailboxResponse
  | mbRstatRead (ch : MbChan)
  | load (base : W64) (p0 : WellIx) (reversed : Bool) (task : W64)
  | unload (p : PipeIx)
  | reload (p : PipeIx)
  | setMode (mode : BitVec 2)
  | setCap (watts : BitVec 9)
  | setLattol (us : W32)
  | telemetry (selector : W64)
  | logRead (n : W32)
  | membershipJoin (id : BitVec 10) (topo : Topology)
  | membershipLeave
  -- data ports
  | dpDataWrite (path : Path) (n : Fin 4) (data : List Byte)
  | dpDataRead (path : Path) (n : Fin 4) (len : Nat)
  | dpAddrWrite (path : Path) (n : Fin 4) (addr : BitVec 48)
  | dpLockWrite (path : Path) (n : Fin 4) (owner : BitVec 16)
  | dpLockRelease (path : Path) (n : Fin 4) (owner : BitVec 16)
  -- dispatch controller
  | dcRingTailWrite (n : Fin 256) (v : W32)
  | dcCringHeadWrite (n : Fin 256) (v : W32)
  | intakeDescriptorFetch (host : Line) (hostErr : Bool)
  | taskAdmit (p : PipeIx)
  | markerReport (p : PumpIx) (c : StreamIx) (wd : Word)
  | completionRecordWrite (n : Fin 256)
  | completionRecordWritten (n : Fin 256)
  | coalesceTimeout (n : Fin 256)
  | hiIntMaskWrite (v : W64)
  | sourceMap (s : Fin 4096) (v : W64)
  | sourceUpdate (s : Fin 4096) (v : W64)
  | sourceDrain (s : Fin 4096)
  | sourceFreed (s : Fin 4096)
  | ringEnable (n : Fin 256) (cfg : W32)
  | ringDisable (n : Fin 256) (cfg : W32)
  | admitControl (p : PipeIx) (admitting throughput : Bool)
  | frameIntake (u : Fin 2)
  -- DRAM
  | ceWriteback (n : Fin 8)
  | patrolScrubRead (n : Fin 8)
  | refresh (n : Fin 8) (ch : Fin 4) (bank : Fin 16) (hot : Bool)
  -- chip links
  | linkEnable (n : Fin 6) (v : W32)
  | linkTrained (n : Fin 6) (lanes : BitVec 8)
  | linkTrainRetry (n : Fin 6)
  | flitReceive (n : Fin 6) (f : Flit)
  | nakReceive (n : Fin 6) (seq : BitVec 9)
  | linkAckTimeout (n : Fin 6)
  | linkLockLoss (n : Fin 6)
  | packetForward (n : Fin 6) (pk : Packet)
  | membHello (n : Fin 6) (h : Hello)
  | membUpdate (n : Fin 6) (u : LinkState)
  | joinAck
  | leaveComplete
  | peerLoss (id : BitVec 10)
  | streamPacketArrival (pk : Packet)
  | creditRequest (pk : Packet)
  | creditReply (pk : Packet)
  | complArrival (pk : Packet)
  | pwrArrival (pk : Packet)
  | prdArrival (pk : Packet)
  | sterrArrival (pk : Packet)
  | e2eTimeout (p : PumpIx) (c : StreamIx)
  | linkScaleWindowEnd (n : Fin 6) (p : PumpIx) (c : StreamIx)
  -- device time
  | tbrefLoss
  | tbrefReturn
  | ppsEdge (offset : Int)
  | ppsHoldover
  | timeExchange
  | timePacketArrival (n : Fin 6) (pk : Packet)
  | tbSet (v : W64)
  | tbTrimWrite (v : W32)
  | tbDtRead (path : Path) (half : Option Bool)
  | tsyncEdge
  | triggerArm (k : Fin 8) (v : W32)
  | triggerEdge (k : Fin 8)
  -- service cores and the management processor
  | csqWait (c : Fin 4) (n : Fin 8) (try_ : Bool) (rd : Fin 32) (rs1 rs2 : W64)
  | csqSig (c : Fin 4) (n : Fin 8) (rs1 rs2 : W64)
  | csqPeek (c : Fin 4) (n : Fin 8) (rd : Fin 32) (rs1 : W64)
  | csqPush (c : Fin 4) (n : Fin 8) (try_ : Bool) (rd : Fin 32) (rs1 : W64) (vs2 : Fin 32)
  | csqPop (c : Fin 4) (n : Fin 8) (try_ : Bool) (vd : Fin 32) (rs1 : W64)
  | csqBar (c : Fin 4) (n : Fin 8) (rs1 : W64)
  | scRun (c : Fin 4) (n : Fin 8)
  | scHalt (c : Fin 4) (n : Fin 8)
  | scAccess (c : Fin 4) (n : Fin 8) (rd : Fin 32) (a : ScAccess)
  | mpWatchdogExpiry
  | telemetrySample
  | mpBusyMeasure (busy : BitVec 8)
  -- the Rim
  | rimCellCycle (c : Fin 64) (pins : BitVec 32) (hard : W64)
  | rimWindowWrite (off : BitVec 15) (v : W64)
  | rimCommitGo (slot : Bool)
  | rimCommitComplete
  | rimCommitUnload (slot : Bool)
  | rimSelect (slot : Bool)
  | rimDeselect
  | rimCaptureArm (v : W64)
  | rimCaptureNow
  | rimCaptureTaken
  | rimStampEdge (k : Fin 8)
  | rimStampRead (k : Fin 8)
  | rimIrqEdge
  -- power, thermal and wake control
  | modeRequest (mode : BitVec 2)
  | frequencyStep
  | regulatorSettled
  | droopTrip (w : WellIx) (d : Fin 16)
  | droopClear (w : WellIx)
  | droopMarginWindow (w : WellIx)
  | sensorSample (r : List Reading)
  | powerMeasure (mv ma : Nat)
  | thermalUpdate
  | limiterStep (t : Thread)
  | operatingPointDecision
  | capUnmetDetect
  | thermalTrip (sensor : Fin 64) (t : BitVec 16)
  | wakeEntry
  | wakeExit (e : WakeEvent)
  | lattolWrite (v : W32)
  -- faults, reset and start
  | taskFaultReport (task : Fin 1024) (f : FaultInfo)
  | pipelineReset (p : PipeIx) (f : FaultInfo)
  | pipelineReload (p : PipeIx)
  | deviceFault (f : FaultInfo)
  | powerOnReset
  | warmReset
  | hiResetWarm (key : BitVec 16) (cold : Bool)
  | hiResetMp (key : BitVec 16)
  | warmResetEffect (confirmed : Bool)
  | supplyOutOfRange
  | startPhase (env : StartEnv)
  | partitionTestDone (part : Fin 143) (r : BistResult)
  -- security
  | attestGo
  | attestDone
  | rngRead
  | rngHealthFail
  | otpProgram (path : Path)
  | debugChallenge
  | debugSubmit (level : BitVec 2)
  | debugClose
  | keyEngineFault (complement : Bool)
  -- performance monitoring
  | pmuEnable (en : Bool)
  | pmuClear
  | counterOverflow (n : Fin 32)
  | bwWindowEnd
  | queueProbeSample (k : Fin 16)
  | tagSelect
  | tagRecordWrite
  -- rows added at the end of the table
  | resetRisingEdge (pin : ResetPin)
  | mpRestartComplete
  | sstCommitComplete (powerGood : Bool)
  | dataPortBucketComplete (n : Fin 4)
  | hardSerialBlockTransfer (b : SerialBlock) (rx : List Byte)
  deriving DecidableEq, Repr

end Sys2Proof
end

