-- ==== Sys2Proof/WellFormed.lean ====
section
/-! DEFINITION. The field checks of the instruction words: the values the specification calls out
of range in an MSQ instruction (R132) or a schedule word (R196). A word that fails one is refused at
commit and never issues. -/

namespace Sys2Proof

/-- An operand pair of R102: elements per vector, bytes of a weight chunk, strokes per vector and
whether it accumulates in INT32. -/
structure Pair where
  elems : Nat
  chunk : Nat
  strokes : Nat
  int32 : Bool
  deriving DecidableEq, Repr

/-- The formats that R62 block-scales. -/
def Fmt.blockScaled : Fmt → Bool
  | .fp8e4 | .fp8e5 | .fp6e3 | .fp6e2 | .fp4 => true
  | _ => false

/-- The operand pairs of R102; `none` for a pair the table lacks (R103). -/
def pairOf (a w : Fmt) : Option Pair :=
  match a, w with
  | .int8, .int8 | .uint8, .int8 => some ⟨32, 32, 1, true⟩
  | .int8, .int4 | .uint8, .int4 => some ⟨32, 16, 1, true⟩
  | .int4, .int4 => some ⟨64, 32, 1, true⟩
  | .int16, .int16 => some ⟨16, 32, 2, true⟩
  | .fp8e4, .fp8e4 | .fp8e4, .fp8e5 | .fp8e5, .fp8e4 | .fp8e5, .fp8e5 => some ⟨32, 32, 1, false⟩
  | .fp6e3, .fp6e3 | .fp6e3, .fp6e2 | .fp6e2, .fp6e3 | .fp6e2, .fp6e2 => some ⟨32, 32, 1, false⟩
  | .fp8e4, .fp4 | .fp8e5, .fp4 => some ⟨32, 16, 1, false⟩
  | .fp4, .fp4 => some ⟨64, 32, 1, false⟩
  | .bf16, .bf16 | .fp16, .fp16 => some ⟨16, 32, 1, false⟩
  | .bf16, .int4 | .bf16, .fp4 => some ⟨16, 8, 1, false⟩
  | _, _ => none

/-- The bank fields of `WLD`, `WDYN` and a storing `WRELAY` (R116, R137). -/
def loadOk (dfirst dcnt1 row lines1 side : Nat) : Bool :=
  row % 2 == 0 && decide (dfirst + dcnt1 + 1 ≤ 256) && decide (row + 2 * (lines1 + 1) ≤ 128)
    && side != 3

/-- `WLD` (R137, R138). -/
def WldF.ok (f : WldF) : Bool :=
  loadOk f.dfirst.toNat f.dcnt1.toNat f.row.toNat f.lines1.toNat f.side.toNat && (!f.nst || f.fwd)

/-- `WRELAY`: a PASS ignores every field but MODE (R138). -/
def WrelayF.ok (f : WrelayF) : Bool :=
  f.mode != 3 && (f.mode == 1
    || loadOk f.dfirst.toNat f.dcnt1.toNat f.row.toNat f.lines1.toNat f.side.toNat)

/-- `WDYN` (R137). -/
def WdynF.ok (f : WdynF) : Bool :=
  loadOk f.dfirst.toNat f.dcnt1.toNat f.row.toNat f.lines1.toNat f.side.toNat

/-- `MMA` and `MMAZ`: a pair of R102, chunks within the bank, scaled formats only where R62 allows
(R103, R139). -/
def MmaF.ok (f : MmaF) : Bool :=
  match pairOf f.afmt f.wfmt with
  | none => false
  | some p =>
    decide (f.cfirst.toNat + f.c1.toNat + 1 ≤ 4096 / p.chunk)
      && (!f.wmx || f.wfmt.blockScaled) && (!f.amx || f.afmt.blockScaled)

/-- `DRAIN`: an output format of R60, not both MARK and MONLY (R61, R143). -/
def DrainF.ok (f : DrainF) : Bool :=
  (match f.ofmt with
   | .bell4 | .bell6 | .e8m0 => false
   | _ => true) && !(f.mark && f.monly)

/-- `SCL` (R144). -/
def SclF.ok (f : SclF) : Bool := decide (f.first.toNat + f.count1.toNat + 1 ≤ 256)

/-- `ZPC` (R144). -/
def ZpcF.ok (f : ZpcF) : Bool := decide (f.first.toNat + f.count1.toNat + 1 ≤ 256)

/-- A semaphore reference: entry within the table, count not zero (R146). -/
def SemF.ok (f : SemF) : Bool := decide (f.sq.toNat ≤ 767) && f.n != 0

/-- No field of an MSQ instruction is out of range (R132). -/
def MsqOp.ok : MsqOp → Bool
  | .brc cond _ _ _ => decide (cond.toNat ≤ 5)
  | .wld f => f.ok
  | .wrelay f => f.ok
  | .wdyn f => f.ok
  | .mma f | .mmaz f => f.ok
  | .drain f => f.ok
  | .scl f => f.ok
  | .zpc f => f.ok
  | .qwait f | .semsig f | .semwait f => f.ok
  | .ptok duty => decide (duty.toNat ≤ 64)
  | .tag l1 => decide (3 ≤ l1.toNat)
  | .nop | .halt _ | .loop _ _ _ | .jmp _ | .scls _ _ | .bar _ | .fence | .ctxsw _ _ _ | .drainall _
  | .stat _ _ _ | .trap _ => true

/-- Column and row of fabric unit f (R19, R157). -/
def unitCoord (f : Nat) : Nat × Nat :=
  let k := f % 48
  let r := k / 2
  (2 * (k % 2) + (if f < 48 then r % 2 else (r + 1) % 2), r)

/-- The fabric unit at column c, row r (R19). -/
def unitAt (c r : Nat) : Nat := (if (c + r) % 2 = 0 then 0 else 48) + 2 * r + c / 2

/-- A slice attaches at rows 23 and 0 (R20). -/
def isAttach (f : Nat) : Bool := (unitCoord f).2 == 23 || (unitCoord f).2 == 0

/-- The output that faces the slice at an attach cell: N (0) for row 23, S (2) for row 0 (R162). -/
def sliceSide (f : Nat) : Nat := if (unitCoord f).2 = 23 then 0 else 2

/-- An input number 0 to 4; X only at an attach cell (R199). -/
def inputOk (f i : Nat) : Bool := decide (i < 4) || (i == 4 && isAttach f)

/-- ROUTE as a list over outputs N, E, S, W: [3] N, [2] E, [1] S, [0] W (R202). -/
def routeHas (route : BitVec 4) (dir : Nat) : Bool := bitAt route (3 - dir)

/-- CH is zero unless the word writes the slice-side output of an attach cell (R202). -/
def chOk (f : Nat) (route : BitVec 4) (ch : BitVec 2) : Bool :=
  ch == 0 || (isAttach f && routeHas route (sliceSide f))

/-- How many sources an operation uses (R206). -/
def CuOp.sources : CuOp → Nat
  | .mov | .cvt | .exp2 | .log2 | .rcp | .rsq | .rsum | .rmax => 1
  | .fma | .sel => 3
  | _ => 2

/-- The formats an operation accepts (R60, R206, R207). -/
def CuOp.fmtOk (op : CuOp) (fmt ofmt : Fmt) : Bool :=
  match op with
  | .mov | .sel | .and | .or | .xor => fmt == .int8 || fmt == .int32
  | .cvt =>
    let bell := fun (x : Fmt) => x == .bell4 || x == .bell6
    !bell fmt && !bell ofmt
      && (fmt != .e8m0 || ofmt == .e8m0 || ofmt == .fp32)
      && (ofmt != .e8m0 || fmt == .e8m0 || fmt == .fp32)
  | .add | .sub | .mul | .fma | .min | .max | .cmp =>
    fmt == .int8 || fmt == .int32 || fmt == .bf16 || fmt == .fp32
  | .shl | .shr => fmt == .int8 || fmt == .int32
  | .exp2 | .log2 | .rcp | .rsq => fmt == .fp32
  | .rsum | .rmax => fmt == .int32 || fmt == .fp32

/-- Lane chaining allowed for an operation (R208). -/
def CuOp.chnOk (op : CuOp) (chn : Nat) (fmt : Fmt) : Bool :=
  match op with
  | .add | .sub | .min | .max | .cmp | .shl | .shr | .mov | .and | .or | .xor =>
    chn == 0 || (decide (chn ≤ 2) && fmt == .int32)
  | .mul => chn == 0 || (chn == 1 && fmt == .int32)
  | _ => chn == 0

/-- FMT 0 is required of the bitwise operations unless the lanes chain, which needs INT32 (R206,
R208). -/
def CuOp.bitFmtOk (op : CuOp) (chn : Nat) (fmt : Fmt) : Bool :=
  match op with
  | .mov | .sel | .and | .or | .xor => if chn = 0 then fmt == .int8 else fmt == .int32
  | _ => true

/-- Function modifiers (R206). -/
def CuOp.fnOk (op : CuOp) (fn : Nat) : Bool :=
  match op with
  | .cmp => decide (fn ≤ 5)
  | .shr => decide (fn ≤ 1)
  | _ => fn == 0

/-- Source codes in range at unit f (R203). -/
def srcOk (f s : Nat) : Bool :=
  decide (s < 16) || (decide (0x10 ≤ s) && decide (s ≤ 0x14) && inputOk f (s - 0x10))
    || (decide (0x18 ≤ s) && decide (s ≤ 0x1C) && inputOk f (s - 0x18))
    || (decide (0x20 ≤ s) && decide (s ≤ 0x22))

/-- A source that is an input, kept or removed (R203). -/
def srcInput (s : Nat) : Option Nat :=
  if 0x10 ≤ s ∧ s ≤ 0x14 then some (s - 0x10)
  else if 0x18 ≤ s ∧ s ≤ 0x1C then some (s - 0x18) else none

/-- No field of a CU operation is out of range at unit f (R202 to R208). -/
def CuF.ok (f : Nat) (op : CuOp) (c : CuF) : Bool :=
  (c.route != 0 || c.dreg) && c.blk != 3 && chOk f c.route c.ch
    && (c.blk != 2 || (srcInput c.srca.toNat).isSome)
    && srcOk f c.srca.toNat
    && (if 2 ≤ op.sources then srcOk f c.srcb.toNat else c.srcb == 0)
    && (if 3 ≤ op.sources then srcOk f c.srcc.toNat else c.srcc == 0)
    && op.fmtOk c.fmt c.ofmt && (op == .cvt || c.ofmt == .int8)
    && op.chnOk c.chn.toNat c.fmt && op.bitFmtOk c.chn.toNat c.fmt && op.fnOk c.fn.toNat

/-- A read slot reads a word in this issue (R209). -/
def RSlotF.reads (r : RSlotF) : Bool := r.en && !(r.q && r.nord)

/-- A read slot at unit f (R209). -/
def RSlotF.ok (f : Nat) (r : RSlotF) : Bool :=
  r.blk != 3 && chOk f r.route r.ch && (r.q || (!r.nord && r.qop == 0))

/-- The slots' route fields share an output (R209). -/
def MemF.conflict (m : MemF) : Bool := (m.a.route &&& m.b.route) != 0

/-- No field of a `MEM` word is out of range at unit f (R209). -/
def MemF.ok (f : Nat) (m : MemF) : Bool :=
  m.a.ok f && m.b.ok f
    && !(m.a.en && m.b.en && m.a.q && m.b.q && m.a.qn == m.b.qn)
    && (match m.w.src.toNat with
        | 5 => m.a.reads
        | 6 => m.b.reads
        | 7 => false
        | i => inputOk f i)

/-- Bits [hi:lo] of a payload are zero. -/
def bitsZero (v : W64) (lo len : Nat) : Bool := bits v lo len == 0

/-- A dimension word: [31:28] reserved, a POS dimension steps forward (R213). -/
def dimOk (v : Nat) : Bool :=
  v >>> 28 == 0 && ((v >>> 26) % 4 != 3 || (decide (1 ≤ (v >>> 12) % 16384)
    && decide ((v >>> 12) % 16384 < 8192)))

/-- A descriptor part (R213). -/
def agPartOk (part : Nat) (v : W64) : Bool :=
  match part with
  | 0 | 1 => dimOk (bits v 0 32) && dimOk (bits v 32 32)
  | 2 => dimOk (bits v 0 32) && decide (bits v 32 14 ≤ 12287) && decide (bits v 46 2 ≤ 1)
      && bitsZero v 48 16
  | 3 => true
  | 4 => decide (1 ≤ bits v 12 4) && decide (1 ≤ bits v 16 4) && bitsZero v 21 11
  | _ => false

/-- A `PSET` condition at unit f (R199). -/
def psetOk (f cond arg : Nat) : Bool :=
  match cond with
  | 0 | 1 | 2 => inputOk f arg
  | 3 => decide (arg ≤ 3)
  | 4 => decide (f < 48)
  | 5 => decide (48 ≤ f) && decide (arg ≤ 2)
  | 6 => decide (48 ≤ f)
  | 7 => arg == 0
  | _ => false

/-- A `SWITCH` mask at unit f: bits N, E, S, W, X, QA, QB from the top (R217). -/
def switchOk (f : Nat) (force : Bool) (mask : BitVec 7) : Bool :=
  (decide (48 ≤ f) || (!bitAt mask 0 && !bitAt mask 1)) && (!bitAt mask 2 || isAttach f)
    && (!force || mask != 0)

/-- No field of a schedule word is out of range at unit f, its CX apart (R196). -/
def SwOp.ok (f : Nat) (h : SwHead) : SwOp → Bool
  | .nop => true
  | .loop _ _ _ => h.rep == 0
  | .jmp _ => h.rep == 0
  | .pset _ cond arg _ => h.rep == 0 && psetOk f cond.toNat arg.toNat
  | .switch force mask _ _ => h.rep == 0 && switchOk f force mask
  | .tagset _ => h.rep == 0
  | .cu op c => decide (f < 48) && c.ok f op
  | .mem m => decide (48 ≤ f) && m.ok f
  | .agset ag part v => h.rep == 0 && decide (48 ≤ f) && decide (ag ≤ 2) && agPartOk part v

/-- A command is well formed: an instruction word it carries has no field out of range. Commands
that carry no instruction word always are. -/
def Instr.ok : Instr → Bool
  | .brc _ cond neg lvl target => (MsqOp.brc cond neg lvl target).ok
  | .wld _ f => f.ok
  | .wrelay _ f => f.ok
  | .wdyn _ f => f.ok
  | .mma _ f => f.ok
  | .mmaz _ f => f.ok
  | .drain _ f => f.ok
  | .scl _ f => f.ok
  | .zpc _ f => f.ok
  | .qwait _ f => f.ok
  | .semsig _ f => f.ok
  | .semwait _ f => f.ok
  | .ptok _ duty => (MsqOp.ptok duty).ok
  | .tag _ l1 => (MsqOp.tag l1).ok
  | .swLoop _ f h lvl count1 last => (SwOp.loop lvl count1 last).ok f.val h
  | .swJmp _ f h target => (SwOp.jmp target).ok f.val h
  | .pset _ f h pd cond arg neg => (SwOp.pset pd cond arg neg).ok f.val h
  | .switch _ f h force mask qna qnb => (SwOp.switch force mask qna qnb).ok f.val h
  | .tagset _ f h t => (SwOp.tagset t).ok f.val h
  | .mov _ k h c => (SwOp.cu .mov c).ok k.val h
  | .cvt _ k h c => (SwOp.cu .cvt c).ok k.val h
  | .add _ k h c => (SwOp.cu .add c).ok k.val h
  | .sub _ k h c => (SwOp.cu .sub c).ok k.val h
  | .mul _ k h c => (SwOp.cu .mul c).ok k.val h
  | .fma _ k h c => (SwOp.cu .fma c).ok k.val h
  | .min _ k h c => (SwOp.cu .min c).ok k.val h
  | .max _ k h c => (SwOp.cu .max c).ok k.val h
  | .cmp _ k h c => (SwOp.cu .cmp c).ok k.val h
  | .sel _ k h c => (SwOp.cu .sel c).ok k.val h
  | .and _ k h c => (SwOp.cu .and c).ok k.val h
  | .or _ k h c => (SwOp.cu .or c).ok k.val h
  | .xor _ k h c => (SwOp.cu .xor c).ok k.val h
  | .shl _ k h c => (SwOp.cu .shl c).ok k.val h
  | .shr _ k h c => (SwOp.cu .shr c).ok k.val h
  | .exp2 _ k h c => (SwOp.cu .exp2 c).ok k.val h
  | .log2 _ k h c => (SwOp.cu .log2 c).ok k.val h
  | .rcp _ k h c => (SwOp.cu .rcp c).ok k.val h
  | .rsq _ k h c => (SwOp.cu .rsq c).ok k.val h
  | .rsum _ k h c => (SwOp.cu .rsum c).ok k.val h
  | .rmax _ k h c => (SwOp.cu .rmax c).ok k.val h
  | .mem _ k h m => (SwOp.mem m).ok (48 + k.val) h
  | .agset _ k h ag part v => (SwOp.agset ag.toNat part.toNat v).ok (48 + k.val) h
  | _ => true

end Sys2Proof
end

