-- ==== Sys2Proof/Decode.lean ====
section
/-! DEFINITION. Decoders of the two instruction words the block holds in its own memories: the 64-bit
MSQ instruction (R132) and the 128-bit schedule word (R194 to R217). The command table gives no
row any bits, so no number spells a command. -/

namespace Sys2Proof

/-- Every bit of w outside the named mask is zero (R132, R196). -/
def onlyBits (v mask : Nat) : Bool := v &&& mask == v

/-- A field of a word as a bit vector of its own width. -/
def fld {w : Nat} (v : BitVec w) (lo len : Nat) : BitVec len := BitVec.ofNat len (bits v lo len)

/-- The bank-load fields shared by `WLD`, `WRELAY` and `WDYN` (R132). -/
def msqWld (v : W64) : WldF :=
  ⟨fld v 48 8, fld v 40 8, fld v 33 7, fld v 27 6, fld v 25 2, bitAt v 24, bitAt v 23, fld v 21 2⟩

/-- The fields of `MMA` and `MMAZ` (R132). -/
def msqMma (v : W64) : MmaF :=
  ⟨.ofCode (bits v 52 4), .ofCode (bits v 48 4), fld v 46 2, fld v 43 3, fld v 34 9, fld v 25 9,
    bitAt v 24, bitAt v 23, fld v 21 2⟩

/-- The fields of `QWAIT`, `SEMSIG` and `SEMWAIT` (R132, R146). -/
def msqSem (v : W64) : SemF := ⟨fld v 52 3, fld v 42 10, bitAt v 41, fld v 16 16⟩

/-- The operation of an opcode with the bits its fields take (R132). -/
def msqFields (v : W64) : Option (Nat × MsqOp) :=
  match bits v 56 8 with
  | 0x00 => some (0, .nop)
  | 0x01 => some (0xFFFF, .halt (fld v 0 16))
  | 0x02 => some (0xC0FFFF000000FF, .loop (fld v 54 2) (fld v 32 16) (fld v 0 8))
  | 0x03 => some (0xFF, .jmp (fld v 0 8))
  | 0x04 => some (0xFB0000000000FF, .brc (fld v 52 4) (bitAt v 51) (fld v 48 2) (fld v 0 8))
  | 0x08 => some (0xFFFFFFFFE00000, .wld (msqWld v))
  | 0x09 =>
    let f := msqWld v
    some (0xFFFFFFFF800000, .wrelay ⟨f.dfirst, f.dcnt1, f.row, f.lines1, f.side, fld v 23 2⟩)
  | 0x0A =>
    let f := msqWld v
    some (0xFFFFFFFE600000, .wdyn ⟨f.dfirst, f.dcnt1, f.row, f.lines1, f.side, f.ch⟩)
  | 0x10 => some (0xFFFFFFFFE00000, .mma (msqMma v))
  | 0x11 => some (0xFFFFFFFFE00000, .mmaz (msqMma v))
  | 0x12 =>
    some (0xFFFFE000000000, .drain ⟨.ofCode (bits v 52 4), fld v 50 2, fld v 47 3, fld v 39 8,
      bitAt v 38, bitAt v 37⟩)
  | 0x18 => some (0xFFFF0000600000, .scl ⟨fld v 48 8, fld v 40 8, fld v 21 2⟩)
  | 0x19 => some (0x80000000600000, .scls (bitAt v 55) (fld v 21 2))
  | 0x1A => some (0xFFFF8000600000, .zpc ⟨fld v 48 8, fld v 40 8, bitAt v 39, fld v 21 2⟩)
  | 0x20 => some (0x7FFE00FFFF0000, .qwait (msqSem v))
  | 0x21 => some (0x7FFE00FFFF0000, .semsig (msqSem v))
  | 0x22 => some (0x7FFE00FFFF0000, .semwait (msqSem v))
  | 0x23 => some (0xF0000000000000, .bar (fld v 52 4))
  | 0x24 => some (0, .fence)
  | 0x28 => some (0xEF000000000000, .ctxsw (fld v 54 2) (bitAt v 53) (fld v 48 4))
  | 0x29 => some (0x0F000000000000, .drainall (fld v 48 4))
  | 0x30 => some (0x7F000000000000, .ptok (fld v 48 7))
  | 0x31 => some (0xC0FFFF00000000, .stat (bitAt v 55) (bitAt v 54) (fld v 32 16))
  | 0x38 => some (0xFFF00000000000, .tag (fld v 44 12))
  | 0x3F => some (0xFFFF, .trap (fld v 0 16))
  | _ => none

/-- An MSQ instruction: `none` for an unknown opcode, a reserved bit set or a field out of range
(R132). -/
def decodeMsq (v : W64) : Option MsqOp :=
  match msqFields v with
  | none => none
  | some (mask, op) => if onlyBits (bits v 0 56) mask && op.ok then some op else none

/-- The operation codes of compute operations (R195). -/
def cuOpOf (op : Nat) : Option CuOp :=
  match op with
  | 0x10 => some .mov | 0x11 => some .cvt | 0x12 => some .add | 0x13 => some .sub
  | 0x14 => some .mul | 0x15 => some .fma | 0x16 => some .min | 0x17 => some .max
  | 0x18 => some .cmp | 0x19 => some .sel | 0x1A => some .and | 0x1B => some .or
  | 0x1C => some .xor | 0x1D => some .shl | 0x1E => some .shr | 0x20 => some .exp2
  | 0x21 => some .log2 | 0x22 => some .rcp | 0x23 => some .rsq | 0x28 => some .rsum
  | 0x29 => some .rmax
  | _ => none

/-- The header of a schedule word (R194). -/
def swHead (v : W128) : SwHead := ⟨bitAt v 119, bitAt v 118, fld v 114 4, fld v 112 2, fld v 96 16⟩

/-- A CU operation's fields (R202). -/
def swCu (v : W128) : CuF :=
  ⟨fld v 92 4, fld v 90 2, fld v 88 2, bitAt v 87, fld v 83 4, fld v 77 6, fld v 71 6, fld v 65 6,
    .ofCode (bits v 61 4), .ofCode (bits v 57 4), fld v 55 2, fld v 51 4, fld v 0 32⟩

/-- A read slot whose top bit is `hi` (R209). -/
def swSlot (v : W128) (hi : Nat) : RSlotF :=
  ⟨bitAt v hi, bitAt v (hi - 1), fld v (hi - 5) 4, fld v (hi - 9) 4, fld v (hi - 11) 2,
    fld v (hi - 13) 2, fld v (hi - 15) 2, bitAt v (hi - 16)⟩

/-- A `MEM` word's slots (R209). -/
def swMem (v : W128) : MemF :=
  ⟨swSlot v 95, swSlot v 71, ⟨bitAt v 47, bitAt v 46, fld v 42 4, fld v 39 3⟩⟩

/-- The operation of a schedule word with the bits its fields take (R195 to R217). -/
def swFields (v : W128) : Option (Nat × SwOp) :=
  match bits v 120 8 with
  | 0x00 => some (0, .nop)
  | 0x01 => some (0xC000FFFF00000000000001FF,
      .loop (fld v 94 2) (fld v 64 16) (fld v 0 9))
  | 0x02 => some (0x1FF, .jmp (fld v 0 9))
  | 0x03 => some (0xFFF8 <<< 80, .pset (fld v 92 4) (fld v 88 4) (fld v 84 4) (bitAt v 83))
  | 0x04 => some (0xFFFF <<< 80, .switch (bitAt v 95) (fld v 88 7) (fld v 84 4) (fld v 80 4))
  | 0x05 => some (0x3F, .tagset (fld v 0 6))
  | 0x40 => some (0xFFFF80FFFF80FF8000000000, .mem (swMem v))
  | 0x41 =>
    some (0xF8000000FFFFFFFFFFFFFFFF, .agset (bits v 94 2) (bits v 91 3) (fld v 0 64))
  | o => (cuOpOf o).map fun op => (0xFFFFFFFFFFF80000FFFFFFFF, .cu op (swCu v))

/-- A schedule word of unit f: `none` for an OP that is absent or of the other kind of unit, a
reserved bit set or a field out of range (R196). The CX rule needs the context and is checked at
commit. -/
def decodeSw (f : Nat) (v : W128) : Option (SwHead × SwOp) :=
  match swFields v with
  | none => none
  | some (mask, op) =>
    if onlyBits (bits v 0 96) mask && op.ok f (swHead v) then some (swHead v, op) else none

/-- The command that a word spells by the table's bits. The opcode table gives no row any bits, so
no word spells one. -/
def decodeTableWord (_nbits _w : Nat) : Option Instr := none

end Sys2Proof
end

