-- ==== Sys2Proof/Machine/Store.lean ====
section
/-! DEFINITION. Sparse stores: a list of (key, value) pairs with strictly rising keys and no value
equal to what an unlisted key reads as. Every array of the block is held in this one form. -/

namespace Sys2Proof.Machine

/-- A sparse array: keys and the values that differ from the default. -/
abbrev SMap (α : Type) := List (Nat × α)

/-- The value at a key; `d` gives what an unlisted key reads as. -/
def SMap.get {α : Type} (d : Nat → α) (m : SMap α) (k : Nat) : α :=
  match m with
  | [] => d k
  | (j, v) :: r => if j = k then v else SMap.get d r k

/-- The store without a key. -/
def SMap.erase {α : Type} (m : SMap α) (k : Nat) : SMap α :=
  match m with
  | [] => []
  | (j, v) :: r => if j = k then SMap.erase r k else (j, v) :: SMap.erase r k

/-- Puts an entry in its place among rising keys. -/
def SMap.insert {α : Type} (m : SMap α) (k : Nat) (x : α) : SMap α :=
  match m with
  | [] => [(k, x)]
  | (j, v) :: r => if k < j then (k, x) :: (j, v) :: r else (j, v) :: SMap.insert r k x

/-- Writes a key; writing the default removes the entry, so equal arrays are equal data. -/
def SMap.set {α : Type} [DecidableEq α] (d : Nat → α) (m : SMap α) (k : Nat) (x : α) : SMap α :=
  if x = d k then SMap.erase m k else SMap.insert (SMap.erase m k) k x

/-- Keys rise strictly from `lo` on and no entry holds its default. -/
def SMap.wfFrom {α : Type} [DecidableEq α] (d : Nat → α) (lo : Nat) (m : SMap α) : Bool :=
  match m with
  | [] => true
  | (j, v) :: r => decide (lo ≤ j) && decide (v ≠ d j) && SMap.wfFrom d (j + 1) r

/-- The canonical form. -/
def SMap.wf {α : Type} [DecidableEq α] (d : Nat → α) (m : SMap α) : Bool := SMap.wfFrom d 0 m

/-- Bytes at device addresses: DRAM and every on-chip SRAM window (R40, R45). -/
abbrev Memory := SMap Byte

/-- What an unlisted byte of memory reads as: SRAMs hold zero after reset (R107), DRAM after its
zero fill (R503). DESIGN CHOICE: log 6. -/
def Memory.unlisted (_ : Nat) : Byte := 0

/-- One byte of memory. -/
def Memory.byte (m : Memory) (a : Nat) : Byte := SMap.get Memory.unlisted m a

/-- Writes one byte of memory. -/
def Memory.setByte (m : Memory) (a : Nat) (b : Byte) : Memory := SMap.set Memory.unlisted m a b

/-- The canonical form of memory. -/
def Memory.wf (m : Memory) : Bool := SMap.wf Memory.unlisted m

/-- Bytes a to a + n − 1, lowest address first. -/
def Memory.read (m : Memory) (a : Nat) : Nat → List Byte
  | 0 => []
  | n + 1 => m.byte a :: Memory.read m (a + 1) n

/-- Writes bytes at rising addresses from a. -/
def Memory.write (m : Memory) (a : Nat) : List Byte → Memory
  | [] => m
  | b :: r => Memory.write (m.setByte a b) (a + 1) r

/-- A little-endian number from its bytes (R54). -/
def leNat : List Byte → Nat
  | [] => 0
  | b :: r => b.toNat + 256 * leNat r

/-- The n low bytes of a number, little-endian (R54). -/
def leBytes (v : Nat) : Nat → List Byte
  | 0 => []
  | n + 1 => BitVec.ofNat 8 v :: leBytes (v / 256) n

/-- A 64-byte line from its bytes. -/
def lineOf (bs : List Byte) : Line := BitVec.ofNat 512 (leNat bs)

/-- The bytes of a line. -/
def lineBytes (l : Line) : List Byte := leBytes l.toNat 64

/-- The line at an address. -/
def Memory.line (m : Memory) (a : Nat) : Line := lineOf (m.read a 64)

/-- Writes a line at an address. -/
def Memory.setLine (m : Memory) (a : Nat) (l : Line) : Memory := m.write a (lineBytes l)

/-- The 8-byte word at an address. -/
def Memory.w64 (m : Memory) (a : Nat) : W64 := BitVec.ofNat 64 (leNat (m.read a 8))

/-- Writes an 8-byte word. -/
def Memory.setW64 (m : Memory) (a : Nat) (v : W64) : Memory := m.write a (leBytes v.toNat 8)

/-- Writes those bytes of a line whose mask bit is set (R240). -/
def Memory.writeMasked (m : Memory) (a : Nat) (mask : BitVec 64) (i : Nat) : List Byte → Memory
  | [] => m
  | b :: r =>
    Memory.writeMasked (if mask.getLsbD i then m.setByte (a + i) b else m) a mask (i + 1) r

/-- A list with its element at an index removed. -/
def removeAt {α : Type} (l : List α) (i : Nat) : List α := l.take i ++ l.drop (i + 1)

end Sys2Proof.Machine
end

