-- ==== Sys2Proof/Machine/WellState.lean ====
section
/-! DEFINITION. The state of one well: its fabric units, its eight matrix-engine slices with their
sequencer threads, its stage queues, crossings, barriers and control block (chapters 3 to 8, 10). -/

namespace Sys2Proof.Machine

/-- A loop level of a thread or unit (R127, R220): body first to last, iterations left counting the
present one. -/
structure Loop where
  active : Bool
  first : Nat
  last : Nat
  left : Nat
  deriving DecidableEq, Repr

/-- An unused loop level. -/
def Loop.none : Loop := ⟨false, 0, 0, 0⟩

/-- Four unused loop levels. -/
def noLoops : List Loop := [.none, .none, .none, .none]

/-- Statistics of a slice, CU or link encoder (R89 to R94). -/
structure StatBlk where
  /-- `ME_STAT_CTRL` -/
  ctrl : W32
  seq : Nat
  nanSnap : Nat
  satSnap : Nat
  maxSnap : SMap Nat
  liveMax : SMap Nat
  liveNan : Nat
  satCount : Nat
  units : Nat
  /-- sticky `SCALE_SAT` -/
  flag : Bool
  deriving DecidableEq, Repr

/-- Statistics after reset. -/
def StatBlk.reset : StatBlk := ⟨0, 0, 0, 0, [], [], 0, 0, 0, false⟩

/-- A result in a unit's pipeline: it is written `due` strokes after the present one (R204). DEDUCED: log 18. -/
structure Result where
  due : Nat
  dst : Option Nat
  route : BitVec 4
  ch : BitVec 2
  word : Word
  deriving DecidableEq, Repr

/-- Where a write slot puts its word (R209). -/
inductive WDest where
  /-- half-word addresses of the low and high half; `none` drops the half (R214) -/
  | walk (halves : List (Nat × Nat))
  | queue (qn : Nat)
  deriving DecidableEq, Repr

/-- A read slot's access: the halves still to fetch as (half-word address, half of the word), the
word so far, and where it goes (R210, R212, R215). -/
structure RPend where
  todo : List (Nat × Nat)
  data : Line
  sb : Sideband
  route : BitVec 4
  ch : BitVec 2
  toW : Option WDest
  deriving DecidableEq, Repr

/-- A write slot's access, made from the stroke after its issue on (R210). -/
structure WPend where
  dest : WDest
  word : Word
  /-- the access has lost its stroke -/
  late : Bool
  deriving DecidableEq, Repr

/-- An address generator: descriptor parts, indices, walk-end flag (R213). -/
structure Ag where
  parts : List W64
  idx : List Nat
  ended : Bool
  deriving DecidableEq, Repr

/-- A generator with no descriptor. -/
def Ag.reset : Ag := ⟨[0, 0, 0, 0, 0], [0, 0, 0, 0, 0], false⟩

/-- A unit's wait in `SWITCH` (R174). -/
structure SwWait where
  ctx : Nat
  force : Bool
  mask : BitVec 7
  qna : Nat
  qnb : Nat
  /-- strokes waited, for the wait watch (R177, R234) -/
  strokes : Nat
  deriving DecidableEq, Repr

/-- A fabric unit: CU or MU (R158, R159, R218, R220). -/
structure FUnit where
  pc : Nat
  /-- issues of the present word already made -/
  reps : Nat
  preds : BitVec 16
  loops : List Loop
  /-- block-tag counter T -/
  tagT : BitVec 6
  /-- a0 to a15, keyed by number -/
  regs : SMap Line
  results : List Result
  /-- port FIFOs N, E, S, W, X, keyed 0 to 4 -/
  ports : SMap (List Word)
  /-- output registers N, E, S, W: the last word put on each link, keyed 0 to 3 -/
  outs : SMap Word
  wait : Option SwWait
  /-- `CVT`: issues since the word began, bytes packed so far, word being widened -/
  cvtPhase : Nat
  /-- channel and max-abs of the values that a narrowing `CVT` has put into the output word so far (R91) -/
  cvtStats : List (Nat × Option Nat)
  cvtAcc : Nat
  cvtHold : Word
  agA : Ag
  agB : Ag
  agW : Ag
  rOwedA : Option RPend
  rOwedB : Option RPend
  wPend : List WPend
  deriving DecidableEq, Repr

/-- A unit after reset (R179, R218). -/
def FUnit.reset : FUnit :=
  { pc := 0, reps := 0, preds := 0, loops := noLoops, tagT := 0, regs := [], results := [],
    ports := [], outs := [], wait := none, cvtPhase := 0, cvtStats := [], cvtAcc := 0, cvtHold := .zero,
    agA := .reset, agB := .reset, agW := .reset, rOwedA := none, rOwedB := none, wPend := [] }

/-- Run state of a thread (R155). -/
inductive ThState where
  | notStarted | issuing | hold | threadWait | freezing | halted | faulted
  deriving DecidableEq, Repr

/-- What a thread waits for (R155 WAIT). -/
inductive ThWait where
  | none | inChannel | outPort | qwait | semwait | bar | marker | thread
  deriving DecidableEq, Repr

/-- A bank-engine operation in progress (R128). -/
inductive BankOp where
  /-- `MMA`/`MMAZ`: fields, bank, cleared at first update, next chunk, next position, and the stroke
  within a vector -/
  | mma (f : MmaF) (bank : Nat) (zero : Bool) (c p sub : Nat)
  /-- `WLD`: lines and sidecar words taken so far -/
  | wld (f : WldF) (taken : Nat)
  | wdyn (f : WdynF) (taken : Nat)
  /-- `WRELAY` STORE or END -/
  | relay (f : WrelayF) (taken : Nat)
  deriving DecidableEq, Repr

/-- A side-engine operation in progress: `SCL` or `ZPC`, halves of side words read (R144). -/
inductive SideOp where
  | scl (f : SclF) (halves : Nat)
  | zpc (f : ZpcF) (halves : Nat)
  deriving DecidableEq, Repr

/-- A word, or the oldest marker, that a drain puts into a port at a given stroke (R142, R143). -/
structure OutWord where
  tick : Nat
  port : Nat
  /-- `none`: the oldest pending marker -/
  word : Option Word
  /-- saturation events of the word (R69) -/
  sats : Nat
  /-- channel and max-abs of each value as FP32 code; `none` for NaN or NaV (R91) -/
  stats : List (Nat × Option Nat)
  /-- last word of its drain -/
  last : Bool
  deriving DecidableEq, Repr

/-- A word of a bank load that has been read and is written in stroke `due` (R112): the load's DPUs, row,
lines and side words, and the word's number in it. -/
structure BankLoad where
  due : Nat
  dfirst : Nat
  dcnt1 : Nat
  row : Nat
  lines1 : Nat
  side : Nat
  n : Nat
  line : Line
  deriving DecidableEq, Repr

/-- A matrix-engine slice and its MSQ thread (R99, R127). -/
structure Slice where
  /-- program words, keyed context · 256 + index (R126) -/
  prog : SMap W64
  pc : Nat
  ctx : Nat
  st : ThState
  wait : ThWait
  code : Nat
  /-- `MSQ_CTRL` CTX and SWFLAG -/
  ctlCtx : Nat
  swflag : Bool
  loops : List Loop
  /-- executions of each alternating word, modulo 2: keyed by instruction index -/
  toggles : SMap Bool
  markers : List Word
  /-- strokes waited in a thread wait (R151) -/
  waited : Nat
  /-- the present `BAR` has issued, its arrival has been counted, its barrier has completed (R279, R281) -/
  arrived : Bool
  counted : Bool
  released : Bool
  /-- barrier of the present `BAR`, or context a waiting `CTXSW` goes to -/
  barId : Nat
  /-- the `CTXSW` condition holds; the thread switches in the next stroke -/
  switching : Bool
  relayPass : Bool
  relayFifo : List Line
  /-- relay lines on their way here with strokes left -/
  relayIn : List (Nat × Line)
  /-- input channels CH0 to CH3 -/
  chans : SMap (List Word)
  /-- low half of the head word already read -/
  half : SMap Bool
  bankOp : Option BankOp
  sideOp : Option SideOp
  outQ : List OutWord
  /-- stroke of the last word of the latest drain, and of the latest drain of each bank -/
  drainEnd : Nat
  drainEndA : Nat
  drainEndB : Nat
  /-- stroke from which the last update of each bank is visible to `DRAIN` -/
  updA : Nat
  updB : Nat
  /-- stroke in which the last bank line is written -/
  lineTick : Nat
  /-- words of a bank load on their way into the bank, oldest first (R112) -/
  loads : List BankLoad
  /-- the bank served an ECC write-back in the last stroke (R123) -/
  wbNow : Bool
  /-- accumulators, keyed DPU · 16 + index -/
  acc : SMap W32
  accKind : Bool
  /-- column sums and element counts of the 16 accumulators (R86, R88) -/
  colsum : SMap Int
  kcount : SMap Nat
  /-- accumulators filled from UINT8 activations (R86) -/
  accU8 : SMap Bool
  sidecar : SMap Byte
  /-- wrong bits of sidecar words of 8 bytes, keyed 32 · DPU + word: 1 correctable, more not (R108) -/
  sideErr : SMap Nat
  scale : SMap W32
  rowsum : SMap W32
  zp : W32
  streamed : Bool
  mx : Bool
  sideCh : Nat
  /-- scale words taken, and whether the first half of the next has been -/
  scaleBuf : List Word
  scaleHalf : Bool
  tagL : Nat
  /-- vectors of the present MX data block read (R82) -/
  mxPos : Nat
  /-- codes of the present MX scale block -/
  mxCodes : List Nat
  /-- tag of the data block being accumulated, and of the latest one of each accumulator bank -/
  dataTag : BitVec 6
  tagA : BitVec 6
  tagB : BitVec 6
  tagErr : Bool
  tagExp : BitVec 6
  tagGot : BitVec 6
  /-- discarding to the next frame marker after TAG_MISMATCH (R84) -/
  discard : Bool
  /-- channels whose words are being discarded up to the next frame marker -/
  discCh : BitVec 4
  /-- channel of the latest MMA run -/
  dataCh : Nat
  stat : StatBlk
  /-- `ME_WS_ERR` fields -/
  wsCe : Bool
  wsUe : Bool
  wsCount : Nat
  wsDpu : Nat
  wsLine : Nat
  /-- corrected lines (DPU · 64 + line) waiting for write-back (R108) -/
  wb : List Nat
  wsDyn : Bool
  failed : Bool
  spares : Nat
  disc : Nat
  duty : Nat
  /-- ceiling in force: the duty of the latest MMA run (R152) -/
  limCeil : Nat
  /-- duty that the image declares for the slice (R328, R329) -/
  declared : Nat
  /-- limiter: effective duty E and credit in sixty-fourths, activity level of the multipliers, and
  ns since the last MMA stroke (R461 to R463) -/
  limE : Nat
  limCredit : Nat
  limAct : Nat
  limIdle : Nat
  /-- hold strokes, thread-wait strokes and frozen cycles since the present instruction became the
  next one (R548) -/
  nextHold : Nat
  nextWait : Nat
  nextFrozen : Nat
  deriving DecidableEq, Repr

/-- A slice after reset. -/
def Slice.reset : Slice :=
  { prog := [], pc := 0, ctx := 0, st := .notStarted, wait := .none, code := 0, ctlCtx := 0,
    swflag := false, loops := noLoops, toggles := [], markers := [], waited := 0, arrived := false,
    counted := false, released := false, barId := 0, switching := false, relayPass := false, relayFifo := [], relayIn := [],
    chans := [], half := [], bankOp := none, sideOp := none, outQ := [], drainEnd := 0,
    drainEndA := 0, drainEndB := 0, updA := 0, updB := 0, lineTick := 0, loads := [], wbNow := false, acc := [],
    accKind := false, colsum := [], kcount := [], accU8 := [], sidecar := [], sideErr := [], scale := [], rowsum := [],
    zp := 0, streamed := false, mx := false, sideCh := 0, scaleBuf := [], scaleHalf := false,
    tagL := 4, mxPos := 0, mxCodes := [], dataTag := 0, tagA := 0, tagB := 0, tagErr := false, tagExp := 0, tagGot := 0,
    discard := false, discCh := 0, dataCh := 0, stat := .reset, wsCe := false, wsUe := false, wsCount := 0, wsDpu := 0,
    wsLine := 0, wb := [], wsDyn := false, failed := false, spares := 0, disc := 0, duty := 64, limCeil := 64, declared := 64,
    limE := 64, limCredit := 0, limAct := 0, limIdle := 65536, nextHold := 0, nextWait := 0, nextFrozen := 0 }

/-- A word of a data queue waiting outside its ring, or a stage-queue entry's whole state
(R221 to R236). DEDUCED: log 49. -/
structure SqEntry where
  cfg : W32
  wm : W32
  ovfBase : W64
  ovfSize : W32
  /-- W: words written; T: words that have entered the ring; R, F, M of R224 -/
  w : Nat
  t : Nat
  r : Nat
  f : Nat
  m : Nat
  armed : Bool
  /-- the 16-word staging (R232) -/
  staging : List Word
  /-- region words written and read back so far -/
  regW : Nat
  regR : Nat
  /-- refill reads under way, oldest first, as region word numbers -/
  refills : List Nat
  spilling : Bool
  /-- counters of a semaphore entry (R226) -/
  filled : Nat
  free : Nat
  valve : Bool
  semOvf : Bool
  nomark : Bool
  /-- words reserved by streams and ingress entries (R251, R397) -/
  resv : Nat
  deriving DecidableEq, Repr

/-- An entry after reset. -/
def SqEntry.reset : SqEntry :=
  { cfg := 0, wm := 0, ovfBase := 0, ovfSize := 0, w := 0, t := 0, r := 0, f := 0, m := 0,
    armed := false, staging := [], regW := 0, regR := 0, refills := [], spilling := false,
    filled := 0, free := 0, valve := false, semOvf := false, nomark := false, resv := 0 }

/-- The receiver of a word in flight inside a well. -/
inductive Dest where
  | port (f i : Nat)
  | chan (sl ch : Nat)
  deriving DecidableEq, Repr

/-- A word on its way: it lands after `left` strokes. DEDUCED: log 12. -/
structure Flight where
  left : Nat
  dest : Dest
  word : Word
  deriving DecidableEq, Repr

/-- A barrier's configuration and arrivals (R279, R292). -/
structure Barrier where
  cfg : W32
  arrived : Nat
  /-- arrivals that belong to the generation after the present one -/
  next : Nat
  gen : Nat
  deriving DecidableEq, Repr

/-- A barrier after reset. -/
def Barrier.reset : Barrier := ⟨0, 0, 0, 0⟩

/-- `MU_ERR` of an MU (R192) and its words waiting for write-back (R161). -/
structure MuErr where
  ce : Bool
  ue : Bool
  count : Nat
  word : Nat
  wb : List Nat
  deriving DecidableEq, Repr

/-- No error. -/
def MuErr.reset : MuErr := ⟨false, false, 0, 0, []⟩

/-- State of a stored context (R179). -/
inductive CtxState where
  | empty | loading | committing | committed
  deriving DecidableEq, Repr

/-- Run state of a well (R187). -/
inductive RunState where
  | notStarted | running | stopped | failed
  deriving DecidableEq, Repr

/-- A well. -/
structure Well where
  run : RunState
  frozen : Bool
  cause : Nat
  ctx : Nat
  /-- `SF_STROKE`, `SF_FROZEN` -/
  strokes : Nat
  frozenCount : Nat
  /-- completed strokes since reset, the clock of the slices' latencies -/
  tick : Nat
  ctlCtx : Nat
  smwSel : W32
  commitCrc : W32
  /-- the three values `SF_COMMIT_CRC` held before, newest first: the loader's CRCs of the well's earlier
  segments (R321) -/
  oldCrcs : List W32
  /-- commit engine: unloading?, context -/
  busy : Option (Bool × Nat)
  result : Nat
  resUnit : Nat
  resDir : Nat
  capAt : W64
  capArm : Bool
  capOnStall : Bool
  capValid : Bool
  capLost : Bool
  capCause : Nat
  capStroke : Nat
  /-- a capture asked for at the end of the present stroke -/
  capNow : Bool
  /-- capture records, keyed unit · 256 + offset/8 -/
  cap : SMap W64
  discUnit : Nat
  discCount : Nat
  /-- context states, keyed by context -/
  ctxs : SMap CtxState
  repairUsed : Bool
  repairCol : Nat
  dld : W32
  dldCause : Nat
  /-- consecutive frozen cycles counted by the freeze watch (R234) -/
  watch : Nat
  vtap : SMap W32
  pipe : W32
  seg : Nat
  /-- a failed crossing calibration or repair (R25, R170) -/
  failedWell : Bool
  bars : SMap Barrier
  muErr : SMap MuErr
  /-- statistics blocks of the CUs -/
  cuStat : SMap StatBlk
  units : SMap FUnit
  /-- slices 0–3 of ME w, 4–7 of ME w+8 -/
  slices : SMap Slice
  /-- schedule words, keyed ((context·96 + f)·512 + i)·2 + half -/
  sw : SMap W64
  /-- switch settings, keyed context·96 + f -/
  switches : SMap W64
  queues : SMap SqEntry
  /-- sideband of ring words, keyed MU · 6144 + word address (R223) -/
  qsb : SMap Sideband
  /-- wrong bits of stored sidebands, keyed as they are: 1 correctable, more not (R223) -/
  qsbErr : SMap Nat
  flights : List Flight
  /-- words towards this well with strokes left, keyed row·4 + 2·(east edge) + (express) -/
  cross : SMap (List (Nat × Word))
  /-- banks used by the schedule in the last stroke, MU · 16 + bank (R29) -/
  banks : List Nat
  /-- side-port writes that lost their bank and retry: entry and word (R29) -/
  retry : List (Nat × Word)
  /-- elastic semaphore updates that become visible at the next stroke (R30) -/
  semNext : List (Nat × Bool × Nat)
  /-- droop detectors tripped, and trips in the present 1 ms window (R468, R469) -/
  droop : BitVec 16
  droopCycles : Nat
  trips : Nat
  deriving DecidableEq, Repr

/-- A well after reset. -/
def Well.reset : Well :=
  { run := .notStarted, frozen := false, cause := 0, ctx := 0, strokes := 0,
    frozenCount := 0, tick := 0, ctlCtx := 0, smwSel := 0, commitCrc := 0, oldCrcs := [], busy := none,
    result := 0, resUnit := 0, resDir := 0, capAt := 0, capArm := false, capOnStall := true,
    capValid := false, capLost := false, capCause := 0, capStroke := 0, capNow := false, cap := [],
    discUnit := 0, discCount := 0, ctxs := [], repairUsed := false, repairCol := 0,
    dld := 0x80000014, dldCause := 0, watch := 0, vtap := [], pipe := 1, seg := 0,
    failedWell := false, bars := [], muErr := [], cuStat := [], units := [], slices := [],
    sw := [], switches := [], queues := [], qsb := [], qsbErr := [], flights := [], cross := [], banks := [],
    retry := [], semNext := [], droop := 0, droopCycles := 0, trips := 0 }

/-- Unit f of a well. -/
def Well.unit (w : Well) (f : Nat) : FUnit := SMap.get (fun _ => FUnit.reset) w.units f
/-- Writes unit f. -/
def Well.setUnit (w : Well) (f : Nat) (u : FUnit) : Well :=
  { w with units := SMap.set (fun _ => FUnit.reset) w.units f u }
/-- Slice i of a well: 0–3 north, 4–7 south. -/
def Well.slice (w : Well) (i : Nat) : Slice := SMap.get (fun _ => Slice.reset) w.slices i
/-- Writes slice i. -/
def Well.setSlice (w : Well) (i : Nat) (x : Slice) : Well :=
  { w with slices := SMap.set (fun _ => Slice.reset) w.slices i x }
/-- Stage-queue entry e. -/
def Well.sq (w : Well) (e : Nat) : SqEntry := SMap.get (fun _ => SqEntry.reset) w.queues e
/-- Writes entry e. -/
def Well.setSq (w : Well) (e : Nat) (x : SqEntry) : Well :=
  { w with queues := SMap.set (fun _ => SqEntry.reset) w.queues e x }
/-- Barrier b. -/
def Well.bar (w : Well) (b : Nat) : Barrier := SMap.get (fun _ => Barrier.reset) w.bars b
/-- Writes barrier b. -/
def Well.setBar (w : Well) (b : Nat) (x : Barrier) : Well :=
  { w with bars := SMap.set (fun _ => Barrier.reset) w.bars b x }
/-- Context state. -/
def Well.ctxState (w : Well) (x : Nat) : CtxState := SMap.get (fun _ => CtxState.empty) w.ctxs x
/-- Writes a context's state. -/
def Well.setCtx (w : Well) (x : Nat) (c : CtxState) : Well :=
  { w with ctxs := SMap.set (fun _ => CtxState.empty) w.ctxs x c }
/-- Statistics block of CU k. -/
def Well.cuStats (w : Well) (k : Nat) : StatBlk := SMap.get (fun _ => StatBlk.reset) w.cuStat k
/-- Writes a CU's statistics. -/
def Well.setCuStats (w : Well) (k : Nat) (b : StatBlk) : Well :=
  { w with cuStat := SMap.set (fun _ => StatBlk.reset) w.cuStat k b }
/-- Error record of MU k. -/
def Well.mu (w : Well) (k : Nat) : MuErr := SMap.get (fun _ => MuErr.reset) w.muErr k
/-- Writes MU k's error record. -/
def Well.setMu (w : Well) (k : Nat) (x : MuErr) : Well :=
  { w with muErr := SMap.set (fun _ => MuErr.reset) w.muErr k x }
/-- Words crossing into the well at a key. -/
def Well.crossing (w : Well) (k : Nat) : List (Nat × Word) := SMap.get (fun _ => []) w.cross k
/-- Writes a crossing. -/
def Well.setCrossing (w : Well) (k : Nat) (l : List (Nat × Word)) : Well :=
  { w with cross := SMap.set (fun _ => []) w.cross k l }

/-- Port FIFO i of a unit. -/
def FUnit.port (u : FUnit) (i : Nat) : List Word := SMap.get (fun _ => []) u.ports i
/-- Writes port FIFO i. -/
def FUnit.setPort (u : FUnit) (i : Nat) (l : List Word) : FUnit :=
  { u with ports := SMap.set (fun _ => []) u.ports i l }
/-- Register a_j. -/
def FUnit.reg (u : FUnit) (j : Nat) : Line := SMap.get (fun _ => 0) u.regs j
/-- Writes register a_j. -/
def FUnit.setReg (u : FUnit) (j : Nat) (l : Line) : FUnit :=
  { u with regs := SMap.set (fun _ => 0) u.regs j l }
/-- Input channel of a slice. -/
def Slice.chan (s : Slice) (c : Nat) : List Word := SMap.get (fun _ => []) s.chans c
/-- Writes an input channel. -/
def Slice.setChan (s : Slice) (c : Nat) (l : List Word) : Slice :=
  { s with chans := SMap.set (fun _ => []) s.chans c l }
/-- The low half of the head word of a channel has been read. -/
def Slice.halfOf (s : Slice) (c : Nat) : Bool := SMap.get (fun _ => false) s.half c
/-- Writes that mark. -/
def Slice.setHalf (s : Slice) (c : Nat) (b : Bool) : Slice :=
  { s with half := SMap.set (fun _ => false) s.half c b }

end Sys2Proof.Machine
end

