-- ==== Sys2Proof/Machine/PumpState.lean ====
section
/-! DEFINITION. The state of the pumps (chapter 9), the host interface, the data ports and the
dispatch controller (chapter 13). -/

namespace Sys2Proof.Machine

/-- A stream slot: descriptor-list head and `PMP_SC_CFG` (R239). -/
structure StrSlot where
  head : W64
  cfg : W32
  deriving DecidableEq, Repr

/-- State of a stream context (R267). -/
inductive StrState where
  | idle | running | cancelling | faulting
  deriving DecidableEq, Repr

/-- A word of a descriptor's output before it is written: its value (a line, or the FP32 codes of a
word bound for a peer), the sideband it keeps from a source queue, and whether it begins a block. -/
structure OWord where
  data : Nat
  sb : Option Sideband
  start : Bool
  deriving DecidableEq, Repr

/-- A fetched descriptor (R255) and its progress. -/
structure FDesc where
  /-- count of descriptors fetched by the stream before it -/
  k : Nat
  addr : Nat
  dw : List W64
  /-- bytes of source asked for by read buckets -/
  rdPos : Nat
  /-- every source byte or word has been asked for, or a marker ended it (R247) -/
  rdDone : Bool
  /-- source bytes arrived and not yet converted, as a little-endian number with their count -/
  raw : Nat
  rawLen : Nat
  /-- source bytes converted so far -/
  taken : Nat
  /-- output bits converted and not yet packed into a word or bucket, with their count -/
  out : Nat
  outLen : Nat
  /-- output words ready to be written into a queue, a peer or the sink -/
  words : List OWord
  /-- data words issued, for BLEN (R246) and the fill (R485) -/
  nWords : Nat
  /-- output bytes issued in write buckets -/
  wrPos : Nat
  /-- leading marker written; everything converted; trailing marker written -/
  started : Bool
  converted : Bool
  trailed : Bool
  /-- the end-of-stream marker of a micro-batch has been written -/
  eosDone : Bool
  /-- the second descriptor of a frame: its chroma plane (R359) -/
  chroma : Bool
  deriving DecidableEq, Repr

/-- What answers an outstanding read bucket. -/
inductive RdKind where
  | mem
  /-- a device-initiated host read by its id; data once it has completed -/
  | host (id : Nat)
  | peer (tag : Nat)
  /-- a word taken from the source queue -/
  | queue (w : Word)
  deriving DecidableEq, Repr

/-- An outstanding read bucket (R240). -/
structure RdOut where
  k : Nat
  kind : RdKind
  addr : Nat
  len : Nat
  deadline : Nat
  data : Option Line
  /-- status of a failed completion; zero when it succeeded -/
  err : Nat
  deriving DecidableEq, Repr

/-- What an outstanding write bucket writes. -/
inductive WrKind where
  | mem | host (id : Nat) | peerMem (tag : Nat) | queue (w : Word) | peerQueue (seq peer : Nat)
  deriving DecidableEq, Repr

/-- An outstanding write bucket (R240). -/
structure WrOut where
  k : Nat
  kind : WrKind
  addr : Nat
  data : Line
  mask : BitVec 64
  deadline : Nat
  /-- address of its descriptor, and the byte offset of that descriptor's output it begins at (R263) -/
  desc : Nat
  pos : Nat
  deriving DecidableEq, Repr

/-- A stream context of a pump (R238 to R268). -/
structure Stream where
  /-- staging registers and `PMP_SC_LINK` -/
  head : W64
  cfg : W32
  link : W64
  act : StrSlot
  shadow : Option StrSlot
  st : StrState
  ovr : Bool
  code : Nat
  descs : Nat
  disc : Nat
  bytes : Nat
  /-- next descriptor address to read; none at the end of the list -/
  next : Option Nat
  nFetched : Nat
  fetched : List FDesc
  /-- descriptors all of whose writes are issued but not all visible: number, and whether it
  signals -/
  sigs : List (Nat × Bool)
  reads : List RdOut
  writes : List WrOut
  tag : BitVec 6
  /-- a cancel under BOUNDARY waits for the end of this descriptor -/
  boundary : Option Nat
  /-- bytes dropped so far by the cancel or fault in progress -/
  sunk : Nat
  /-- fill in progress with its fault status (R485); in a cancelling stream the code a pipeline reset ends
  it with (R264) -/
  fill : Option Nat
  /-- words reserved in destination queues (R251), keyed 1024 · well + entry -/
  resv : SMap Nat
  /-- the queue that the rate is measured at: whether the stream writes it, and its number -/
  tteQueue : Option (Bool × Nat)
  /-- words last counted at the queue, start of the rate window, rate, time to empty (R253) -/
  tteLast : Nat
  tteWin : Nat
  tteRate : Nat
  tte : Nat
  valve : Bool
  /-- peer streams: credit words, next packet sequence, credit asked for (R397) -/
  credit : Nat
  pseq : Nat
  asked : Bool
  /-- route the stream's packets take (R389) -/
  route : Option Nat
  /-- device times at which packets awaiting COMPL were sent, with their sequence (R401) -/
  sent : List (Nat × Nat)
  deriving DecidableEq, Repr

/-- A stream context after reset. -/
def Stream.reset : Stream :=
  { head := 0, cfg := 0, link := 0x000014003F800000, act := ⟨0, 0⟩, shadow := none, st := .idle,
    ovr := false, code := 0, descs := 0, disc := 0, bytes := 0, next := none, nFetched := 0,
    fetched := [], sigs := [], reads := [], writes := [], tag := 0,
    boundary := none, sunk := 0, fill := none, resv := [], tteQueue := none, tteLast := 0, tteWin := 0, tteRate := 0, tte := 0,
    valve := false, credit := 0, pseq := 0, asked := false, route := none, sent := [] }

/-- Whose device-initiated host access it is (R337, R338). -/
inductive Owner where
  | pump (p c : Nat)
  | ring (n : Nat)
  /-- a service core's load or store: hart, destination, size in bytes, extension with zeros -/
  | hart (i rd size : Nat) (uns : Bool)
  /-- a pump's descriptor read that found both mainbands down -/
  | desc (p c : Nat)
  /-- an access of the DC at admission that found both mainbands down -/
  | dc
  deriving DecidableEq, Repr

/-- A device-initiated access to host memory (R337). -/
structure HostAcc where
  id : Nat
  wr : Bool
  addr : Nat
  data : Line
  mask : BitVec 64
  owner : Owner
  /-- module it is issued on; `none` while it is held (R338) -/
  module : Option Nat
  /-- device time from which it has been held -/
  since : Nat
  deriving DecidableEq, Repr

/-- State of a mailbox channel (R341). -/
inductive MbState where
  | idle | queued | done | busy
  deriving DecidableEq, Repr

/-- A mailbox channel. -/
structure Mbox where
  req : SMap W64
  rsp : SMap W64
  st : MbState
  deriving DecidableEq, Repr

/-- An idle channel. -/
def Mbox.reset : Mbox := ⟨[], [], .idle⟩

/-- A response the device gives to a transaction. DEDUCED: log 76. -/
structure Response where
  path : Path
  ok : Bool
  data : List Byte
  deriving DecidableEq, Repr

/-- The host interface beside its registers (R335 to R345, R352). -/
structure HostIf where
  up0 : Bool
  up1 : Bool
  rate0 : Nat
  rate1 : Nat
  pend : W64
  /-- interrupt messages sent, oldest first -/
  sent : List Nat
  accs : List HostAcc
  nextId : Nat
  /-- an access has timed out in the present outage (R338) -/
  timedOut : Bool
  mboxes : SMap Mbox
  /-- the last read's response -/
  resp : Option Response
  deriving DecidableEq, Repr

/-- The host interface after reset. -/
def HostIf.reset : HostIf :=
  { up0 := false, up1 := false, rate0 := 0, rate1 := 0, pend := 0, sent := [], accs := [],
    nextId := 0, timedOut := false, mboxes := [], resp := none }

/-- A data port (R343 to R345). -/
structure Dp where
  owner : Nat
  path : Option Path
  addr : Nat
  dir : Bool
  err : Bool
  intrude : Bool
  errAddr : Nat
  /-- prefetched bytes from the current address onward -/
  pref : List Byte
  /-- writes taken and not yet visible: address and bytes -/
  wbuf : List (Nat × List Byte)
  deriving DecidableEq, Repr

/-- A data port after reset. -/
def Dp.reset : Dp := ⟨0, none, 0, false, false, false, 0, [], []⟩

/-- A descriptor in a ring's window (R347). -/
structure WinDesc where
  dw : List W64
  /-- intake count at which it stood -/
  count : Nat
  /-- completed without admission: status and device time (R560) -/
  done : Option (Nat × Nat)
  deriving DecidableEq, Repr

/-- A completion record that is due (R350). -/
structure DoneRec where
  status : Nat
  source : Nat
  task : Nat
  user : Nat
  inDt : Nat
  seq : Nat
  rbytes : Nat
  irq : Bool
  /-- pipeline of the task; `none` when completed without admission -/
  pipe : Option Nat
  deriving DecidableEq, Repr

/-- An intake ring with its completion ring (R346). -/
structure Ring where
  base : W64
  cfg : W32
  tail : Nat
  head : Nat
  cbase : W64
  chead : Nat
  ctail : Nat
  ovr : Bool
  stop : Bool
  window : List WinDesc
  /-- intake counts whose records are not yet written, oldest first, with their source (4096 for a
  NOP) -/
  open_ : List (Nat × Nat)
  /-- records due, in completion order -/
  due : List DoneRec
  /-- records issued whose write has not completed -/
  writing : List DoneRec
  /-- records written and not signalled, and the device time of the oldest -/
  unsig : Nat
  oldest : Nat
  deriving DecidableEq, Repr

/-- A ring after reset. -/
def Ring.reset : Ring :=
  { base := 0, cfg := 0x04000000, tail := 0, head := 0, cbase := 0, chead := 0, ctail := 0,
    ovr := false, stop := false, window := [], open_ := [], due := [], writing := [], unsig := 0,
    oldest := 0 }

/-- A task in flight (R274, R355, R484). -/
structure Task where
  pipe : Nat
  ring : Nat
  desc : WinDesc
  source : Nat
  inDt : Nat
  abort : Bool
  /-- first task-scoped status reported -/
  status : Option Nat
  /-- streams armed with this task that have not ended -/
  streams : List Nat
  /-- bytes of its output stream -/
  rbytes : Nat
  reissues : Nat
  /-- its record is due or being written -/
  ended : Bool
  deriving DecidableEq, Repr

/-- A finalised record held behind reissued tasks of its source (R491). -/
structure Held where
  ring : Nat
  record : DoneRec
  /-- intake counts of the descriptors whose records it waits for -/
  after : List Nat
  /-- flushed streams of its task that have not ended -/
  streams : List Nat
  deriving DecidableEq, Repr

/-- The DC's view of a pipeline (R358, R363). -/
structure DcPipe where
  en : Bool
  admitting : Bool
  throughput : Bool
  inn : W64
  out : W64
  act : W64
  /-- tasks in flight, in admission order -/
  flight : List Nat
  /-- descriptors to be admitted again: ring, descriptor, times reissued (R491) -/
  reissue : List (Nat × WinDesc × Nat)
  held : List Held
  /-- weighted round robin: one more than the source last offered, and admissions left (R354) -/
  rrSource : Nat
  rrLeft : Nat
  /-- last task of the present micro-batch: its intake is followed by the end-of-stream marker
  (R284, R286) -/
  eos : Option Nat
  /-- queue that the last intake list armed feeds, well and entry, and its context tag -/
  intakeQ : Option (Nat × Nat × BitVec 2)
  deriving DecidableEq, Repr

/-- A pipeline after reset. -/
def DcPipe.reset : DcPipe :=
  { en := false, admitting := false, throughput := false, inn := 0, out := 0, act := 0, flight := [],
    reissue := [], held := [], rrSource := 0, rrLeft := 0, eos := none, intakeQ := none }

/-- The dispatch controller (R346 to R358). -/
structure Dc where
  en : Bool
  srcErr : Bool
  taskmem : W64
  rings : SMap Ring
  pipes : SMap DcPipe
  tasks : SMap Task
  /-- `DC_SRC_s` fields STATE to WEIGHT, and updates waiting for the next admission (R353) -/
  srcs : SMap W64
  srcNext : SMap W64
  /-- ring last fetched from (R347) -/
  rr : Nat
  /-- arms that wait for a shadow slot: stream, task, list head -/
  armq : List (Nat × Nat × Nat)
  deriving DecidableEq, Repr

/-- The idle task record. -/
def Task.none_ : Task := ⟨0, 0, ⟨[], 0, none⟩, 0, 0, false, none, [], 0, 0, false⟩

/-- Ring n. -/
def Dc.ring (d : Dc) (n : Nat) : Ring := SMap.get (fun _ => Ring.reset) d.rings n
/-- Writes ring n. -/
def Dc.setRing (d : Dc) (n : Nat) (r : Ring) : Dc :=
  { d with rings := SMap.set (fun _ => Ring.reset) d.rings n r }
/-- Pipeline p. -/
def Dc.pipe (d : Dc) (p : Nat) : DcPipe := SMap.get (fun _ => DcPipe.reset) d.pipes p
/-- Writes pipeline p. -/
def Dc.setPipe (d : Dc) (p : Nat) (x : DcPipe) : Dc :=
  { d with pipes := SMap.set (fun _ => DcPipe.reset) d.pipes p x }
/-- Task t, if in flight. -/
def Dc.task (d : Dc) (t : Nat) : Task := SMap.get (fun _ => Task.none_) d.tasks t
/-- Writes task t. -/
def Dc.setTask (d : Dc) (t : Nat) (x : Task) : Dc :=
  { d with tasks := SMap.set (fun _ => Task.none_) d.tasks t x }
/-- Source register s. -/
def Dc.src (d : Dc) (i : Nat) : W64 := SMap.get (fun _ => 0) d.srcs i
/-- Writes source register s. -/
def Dc.setSrc (d : Dc) (i : Nat) (v : W64) : Dc := { d with srcs := SMap.set (fun _ => 0) d.srcs i v }

/-- The dispatch controller after reset. -/
def Dc.reset : Dc :=
  { en := false, srcErr := false, taskmem := 0, rings := [], pipes := [], tasks := [], srcs := [],
    srcNext := [], rr := 0, armq := [] }

end Sys2Proof.Machine
end

