-- ==== Sys2Proof/Machine/ChipState.lean ====
section
/-! DEFINITION. The state of the units around the wells and pumps: memory controllers (chapter 14),
chip links (15), device time (16), service cores and management processor (17), Rim (18), power
manager (19), fault containment (20), start and reset (21), self-test (22), security (23) and the
performance monitor (24). Their registers stand in `State.regs`; here stands what no register
holds. -/

namespace Sys2Proof.Machine

/-- A memory controller beside its registers (R373 to R379). -/
structure Mc where
  /-- lines queued for write-back, oldest first, as local channel and device line number -/
  wbq : List (Nat × Nat)
  /-- check lines held by the check cache, as channel · 2^32 + chunk; newest first -/
  cache : List Nat
  /-- those of them that are not yet written back -/
  dirty : List Nat
  /-- next line of the patrol scrub, counted over the controller's channels and check lines -/
  scrubPos : Nat
  /-- channels whose first correctable error of the scrub period has been logged -/
  ceLogged : BitVec 4
  /-- channels that report the hot refresh range -/
  hot : BitVec 4
  deriving DecidableEq, Repr

/-- A controller after reset. -/
def Mc.reset : Mc := ⟨[], [], [], 0, 0, 0⟩

/-- A chip link port beside its registers (R381 to R391). -/
structure LinkPort where
  txSeq : Nat
  rxExp : Nat
  /-- last data flit received in order: the ACK this port sends -/
  rxAck : Nat
  /-- a NAK has been sent for the expected flit and no expected flit has come since -/
  nakSent : Bool
  /-- NAKs received for one SEQ: that SEQ and the run -/
  nakSeq : Nat
  nakRun : Nat
  /-- device time at which ACK last advanced while flits were unacknowledged -/
  ackDt : Nat
  /-- retry buffer: unacknowledged data flits, oldest first (R384) -/
  retry : List (Nat × List Line)
  /-- packets waiting for credit, oldest first -/
  txq : List Packet
  /-- slots of packets sent and not yet in a flit, and how many of the first continue a packet that is in flits -/
  slots : List Line
  cut : Nat
  /-- hop credits per VC in slots (R387) -/
  credit0 : Nat
  credit1 : Nat
  /-- slots received that do not make a whole packet yet -/
  rxSlots : List Line
  /-- packets received and not yet forwarded or delivered, oldest first (R387) -/
  rx : List Packet
  /-- flits put on the wire since reset, oldest first, as their 5,140 bits (R383) -/
  wire : List (BitVec 5140)
  /-- statistics of the encoder (R404), escape blocks of the window and of the last complete one -/
  stat : StatBlk
  escLive : Nat
  escSnap : Nat
  /-- blocks encoded since the last unit of 1,024 -/
  blocks : Nat
  /-- statistics stream selection: `LK_STAT_CTRL` fields PUMP and CTX -/
  statSel : Nat
  deriving DecidableEq, Repr

/-- A port after reset. -/
def LinkPort.reset : LinkPort :=
  { txSeq := 0, rxExp := 0, rxAck := 511, nakSent := false, nakSeq := 0, nakRun := 0, ackDt := 0,
    retry := [], txq := [], slots := [], cut := 0, credit0 := 64, credit1 := 64, rxSlots := [], rx := [], wire := [],
    stat := .reset, escLive := 0, escSnap := 0, blocks := 0, statSel := 0 }

/-- An ingress entry of a destination port (R397). -/
structure Ingress where
  used : Bool
  well : Nat
  entry : Nat
  /-- words reserved of the queue's FREE -/
  resv : Nat
  /-- next packet sequence -/
  seq : Nat
  /-- words last counted at the queue, start of the rate window, rate (R253) -/
  tteLast : Nat
  tteWin : Nat
  tteRate : Nat
  deriving DecidableEq, Repr

/-- A free entry. -/
def Ingress.none_ : Ingress := ⟨false, 0, 0, 0, 0, 0, 0, 0⟩

/-- An encoder entry of a sending port (R399): window adjustment, maximum as FP32 code, blocks. -/
structure Encoder where
  used : Bool
  port : Nat
  a : Int
  max : Nat
  blocks : Nat
  deriving DecidableEq, Repr

/-- A free entry. -/
def Encoder.none_ : Encoder := ⟨false, 0, 0, 0, 0⟩

/-- The device-wide link state (R390 to R402). -/
structure LinkDev where
  ports : SMap LinkPort
  /-- keyed source id · 2048 + 64 · pump + context -/
  ingress : SMap Ingress
  /-- keyed 64 · pump + context -/
  encoders : SMap Encoder
  /-- topology of the last MEMBERSHIP join -/
  topo : Option Topology
  /-- last link-state update of each originator -/
  states : SMap LinkState
  /-- die serials known in the membership -/
  serials : SMap W64
  /-- sequence number of the device's own updates -/
  ownSeq : Nat
  /-- device time from which a member has had no route (R393) -/
  noRoute : SMap Nat
  /-- members whose leave has been received -/
  left : List Nat
  /-- next request tag of PWR and PRD packets -/
  reqTag : Nat
  deriving DecidableEq, Repr

/-- Link state after reset. -/
def LinkDev.reset : LinkDev := ⟨[], [], [], none, [], [], 0, [], [], 0⟩

/-- Port n. -/
def LinkDev.port (l : LinkDev) (n : Nat) : LinkPort := SMap.get (fun _ => LinkPort.reset) l.ports n
/-- Writes port n. -/
def LinkDev.setPort (l : LinkDev) (n : Nat) (p : LinkPort) : LinkDev :=
  { l with ports := SMap.set (fun _ => LinkPort.reset) l.ports n p }

/-- A trigger channel beside its registers (R418). -/
structure Trig where
  next : Nat
  /-- device time at which its output falls; zero when low -/
  fall : Nat
  deriving DecidableEq, Repr

/-- The time base beside its registers (R406 to R420). -/
structure Tb where
  /-- device time in units of 2^−32 ns -/
  dt : Nat
  /-- cycles of the count clock since power-on; what the device times by itself counts these, and a step of
  device time does not move them (R406, R410) -/
  clk : Nat
  /-- the count clock runs from the internal oscillator -/
  internal : Bool
  /-- correction still to be slewed, in units of 2^−32 ns -/
  slew : Int
  /-- updates within 100 ns in a row -/
  inRange : Nat
  /-- last TRIM updates, newest first, at most 16 -/
  trims : List Int
  /-- count-clock cycle of the last PPS edge -/
  ppsDt : Nat
  /-- t1 of the exchange in progress and the port it left on -/
  exch : Option (Nat × Nat)
  /-- last measured offset in 1/256 ns: the CORR this device hands on -/
  corr : Int
  trigs : SMap Trig
  /-- device time of the next due multiple of TSYNC, and at which the output falls -/
  tsyncNext : Nat
  tsyncFall : Nat
  /-- high half latched per path -/
  latch : SMap W32
  deriving DecidableEq, Repr

/-- The time base after power-on. -/
def Tb.reset : Tb :=
  { dt := 0, clk := 0, internal := false, slew := 0, inRange := 0, trims := [], ppsDt := 0, exch := none,
    corr := 0, trigs := [], tsyncNext := 1000000000, tsyncFall := 0, latch := [] }

/-- Trigger channel k. -/
def Tb.trig (t : Tb) (k : Nat) : Trig := SMap.get (fun _ => ⟨0, 0⟩) t.trigs k
/-- Writes trigger channel k. -/
def Tb.setTrig (t : Tb) (k : Nat) (x : Trig) : Tb :=
  { t with trigs := SMap.set (fun _ => ⟨0, 0⟩) t.trigs k x }

/-- What a core does (R436). -/
inductive HartRun where
  | halted | running | held | bucket
  deriving DecidableEq, Repr

/-- A hart of a service-core cluster: the registers of R422 and its machine state. -/
structure Hart where
  run : HartRun
  pc : W64
  /-- machine mode -/
  m : Bool
  x : SMap W64
  f : SMap W64
  v : SMap Line
  /-- control and status registers, keyed by CSR number -/
  csr : SMap W64
  /-- the barrier arrival of a held `CSQ.BAR` has been counted -/
  arrived : Bool
  /-- the barrier of that arrival, and whether it has completed since -/
  barId : Nat
  released : Bool
  /-- reservation of a load-reserved: its address -/
  resv : Option Nat
  deriving DecidableEq, Repr

/-- A hart after reset. -/
def Hart.reset : Hart := ⟨.halted, 0, true, [], [], [], [], false, 0, false, none⟩

/-- Register x_r; x0 reads zero. -/
def Hart.getX (h : Hart) (r : Nat) : W64 := if r = 0 then 0 else SMap.get (fun _ => 0) h.x r
/-- Writes x_r; a write of x0 is discarded. -/
def Hart.setX (h : Hart) (r : Nat) (v : W64) : Hart :=
  if r = 0 then h else { h with x := SMap.set (fun _ => 0) h.x r v }
/-- Vector register v_r. -/
def Hart.getV (h : Hart) (r : Nat) : Line := SMap.get (fun _ => 0) h.v r
/-- Writes v_r. -/
def Hart.setV (h : Hart) (r : Nat) (l : Line) : Hart := { h with v := SMap.set (fun _ => 0) h.v r l }
/-- A control and status register. -/
def Hart.getCsr (h : Hart) (n : Nat) : W64 := SMap.get (fun _ => 0) h.csr n
/-- Writes a control and status register. -/
def Hart.setCsr (h : Hart) (n : Nat) (v : W64) : Hart :=
  { h with csr := SMap.set (fun _ => 0) h.csr n v }

/-- A queued mailbox request (R341, R433). -/
structure MbReq where
  chan : Nat
  words : List W64
  deriving DecidableEq, Repr

/-- A resident image, or one being committed (R321 to R333). -/
structure Image where
  base : W64
  p0 : Nat
  reversed : Bool
  task : W64
  /-- physical wells of its run -/
  wells : List Nat
  resident : Bool
  /-- declared tokens in sixty-fourths (R328) -/
  tokens : Nat
  /-- weight bytes (R474) -/
  weightBytes : Nat
  clusters : List Nat
  /-- CRCs kept with the cached copy, keyed 16 · well + segment (R321) -/
  crcs : SMap W32
  /-- the segments of the rotation that stand in contexts 0 to 3 (R289) -/
  held : List Nat
  deriving DecidableEq, Repr

/-- No image. -/
def Image.none_ : Image := ⟨0, 0, false, 0, [], false, 0, 0, [], [], [0, 1, 2, 3]⟩

/-- The management processor (R431 to R435). -/
structure Mp where
  queue : List MbReq
  /-- answer of the head request once its command has been carried out: status and payload -/
  answer : Option (Nat × List W64)
  /-- the head request's command has been begun and is not over (SET_MODE waits for its mode) -/
  begun : Bool
  /-- images keyed by pipeline number -/
  images : SMap Image
  /-- an MP-only reset is in progress -/
  restarting : Bool
  /-- samples of telemetry taken -/
  samples : Nat
  deriving DecidableEq, Repr

/-- The MP after reset. -/
def Mp.reset : Mp := ⟨[], none, false, [], false, 0⟩

/-- Image of pipeline p. -/
def Mp.image (m : Mp) (p : Nat) : Image := SMap.get (fun _ => Image.none_) m.images p
/-- Writes the image of pipeline p. -/
def Mp.setImage (m : Mp) (p : Nat) (i : Image) : Mp :=
  { m with images := SMap.set (fun _ => Image.none_) m.images p i }

/-- State of a Rim slot (R446). -/
inductive SlotState where
  | empty | loading | committing | committed
  deriving DecidableEq, Repr

/-- The flip-flops of a Rim cell (R437). -/
structure RimCell where
  q : BitVec 16
  c : Bool
  deriving DecidableEq, Repr

/-- A hard serial block (R444): its FIFOs and control registers, CTRL, STATUS and DIV keyed 0, 1, 4. -/
structure Serial where
  tx : List Byte
  rx : List Byte
  regs : SMap W64
  deriving DecidableEq, Repr

/-- An idle block. -/
def Serial.reset : Serial := ⟨[], [], []⟩

/-- The Rim (R437 to R452) beside its registers. -/
structure Rim where
  /-- slot images as 64-bit words, keyed slot · 2432 + word -/
  image : SMap W64
  slotA : SlotState
  slotB : SlotState
  /-- cells, keyed by number -/
  cells : SMap RimCell
  /-- selected cells have left reset -/
  live : Bool
  /-- oscillator phases -/
  osc : SMap W32
  /-- levels last seen on the pins and on the outputs of the hard blocks -/
  pinsIn : BitVec 32
  hardOut : W64
  stamps : SMap (List Nat)
  serials : SMap Serial
  deriving DecidableEq, Repr

/-- The Rim after reset. -/
def Rim.reset : Rim :=
  { image := [], slotA := .empty, slotB := .empty, cells := [], live := false, osc := [],
    pinsIn := 0, hardOut := 0, stamps := [], serials := [] }

/-- Cell c. -/
def Rim.cell (r : Rim) (c : Nat) : RimCell := SMap.get (fun _ => ⟨0, false⟩) r.cells c
/-- Writes cell c. -/
def Rim.setCell (r : Rim) (c : Nat) (x : RimCell) : Rim :=
  { r with cells := SMap.set (fun _ => ⟨0, false⟩) r.cells c x }
/-- Stamp FIFO k. -/
def Rim.stamp (r : Rim) (k : Nat) : List Nat := SMap.get (fun _ => []) r.stamps k
/-- Writes stamp FIFO k. -/
def Rim.setStamp (r : Rim) (k : Nat) (l : List Nat) : Rim :=
  { r with stamps := SMap.set (fun _ => []) r.stamps k l }
/-- Serial block j: UART 0–3, SPI 4–5, I3C 6–7. -/
def Rim.serial (r : Rim) (j : Nat) : Serial := SMap.get (fun _ => Serial.reset) r.serials j
/-- Writes serial block j. -/
def Rim.setSerial (r : Rim) (j : Nat) (x : Serial) : Rim :=
  { r with serials := SMap.set (fun _ => Serial.reset) r.serials j x }

/-- The power manager beside its registers (R453 to R475). -/
structure Pwr where
  /-- rate and voltage moved toward, MHz and mV; the voltage margin added for droop (R469) -/
  tgtMhz : Nat
  tgtMv : Nat
  margin : Nat
  /-- the regulator has reported its output settled at the target -/
  settled : Bool
  /-- device time until which frequency steps wait after a droop (R459) -/
  droopHold : Nat
  /-- last power values, newest first, for the 1 ms average -/
  samples : List Nat
  /-- device time from which g has stood below 64 -/
  gLowSince : Option Nat
  /-- device time from which g has stood at 64 with average power below 0.9 of the cap -/
  gFullSince : Option Nat
  /-- device time of the last droop margin added (R469) -/
  marginDt : Option Nat
  /-- device time from which the cap has been unmet at the floor, and met -/
  unmetSince : Option Nat
  metSince : Option Nat
  /-- sensors whose last reading was 125 degrees or more -/
  hotOnce : BitVec 64
  /-- sensors that have failed their check -/
  failed : BitVec 64
  /-- device time from which the device has been idle -/
  idleSince : Option Nat
  /-- THERMTRIP_N and PWROFF_REQ_N levels -/
  tripPin : Bool
  offPin : Bool
  deriving DecidableEq, Repr

/-- The power manager after reset. DEDUCED: log 153. -/
def Pwr.reset : Pwr :=
  { tgtMhz := 0, tgtMv := 0, margin := 0, settled := false, droopHold := 0, samples := [],
    gLowSince := none, gFullSince := none, marginDt := none, unmetSince := none, metSince := none, hotOnce := 0,
    failed := 0, idleSince := none, tripPin := true, offPin := true }

/-- Fault containment (R478 to R494): the error log and the resets in progress. -/
structure Err where
  /-- entries as four words each, keyed index · 4 + word -/
  log : SMap W64
  /-- pipelines with a pipeline-scoped fault whose reset has not begun: its status and place -/
  pending : SMap (Option FaultInfo)
  /-- pipelines whose reset is in progress (R489) -/
  resetting : List Nat
  deriving DecidableEq, Repr

/-- Fault containment after power-on. -/
def Err.reset : Err := ⟨[], [], []⟩

/-- What requested a warm reset. -/
inductive WarmCause where
  | pin | register | security
  deriving DecidableEq, Repr

/-- A copy of the saved training results in the boot NOR (R366): its sequence number, the package density
code and data rate it was made for, the rate trained, the die temperature in 1/16 °C, and whether its
CRC-32C matches; the results themselves have no effect that the specification gives. -/
structure TrainCopy where
  seq : Nat
  size : Nat
  grade : Nat
  rate : Nat
  temp : Int
  good : Bool
  deriving DecidableEq, Repr

/-- Reset and start (R496 to R510), with the boot configuration. -/
structure Boot where
  /-- levels of PORST_N and WRST_N; supplies in range -/
  porst : Bool
  wrst : Bool
  supply : Bool
  /-- a warm reset is requested and has not taken effect: cause, cold -/
  warm : Option (WarmCause × Bool)
  /-- a reset has taken effect and the start waits to begin, or is running -/
  starting : Bool
  /-- the start begins at phase 1 and not at phase 0 -/
  fromOne : Bool
  coldAsked : Bool
  devReady : Bool
  /-- watchdog expiries in the present start -/
  expiries : Nat
  /-- level 2 opens at phase 5 (R538) -/
  openL2 : Bool
  /-- boot configuration: FULLSTART, REF25, highest data rate, ECC, granule, package size code and
  count -/
  fullStart : Bool
  ref25 : Bool
  maxRate : Nat
  eccOn : Bool
  ilv : Nat
  pkgSize : Nat
  pkgCount : Nat
  /-- boot NOR: firmware image bytes, and the two repair record copies -/
  fw : SMap Byte
  recA : List Byte
  recB : List Byte
  /-- boot NOR: the two copies of the saved training results, and the copy being written (R366) -/
  trainA : Option TrainCopy
  trainB : Option TrainCopy
  trainWrite : Option Bool
  /-- die-test fuses: `CAP_ID` and `CAP_UNITS`, which fix the variant and its well run (R1, R3, R529) -/
  fuseId : W64
  fuseUnits : W64
  /-- die-test fuse: offset of the voltage curve in mV, 0 to 30 (R457) -/
  fuseMv : Nat
  deriving DecidableEq, Repr

/-- The boot part after power-on: the start waits in phase 0. -/
def Boot.reset : Boot :=
  { porst := true, wrst := true, supply := true, warm := none, starting := true, fromOne := false,
    coldAsked := false, devReady := false, expiries := 0, openL2 := false,
    fullStart := false, ref25 := false, maxRate := 10667, eccOn := true, ilv := 0, pkgSize := 4,
    pkgCount := 8, fw := [], recA := [], recB := [], trainA := none, trainB := none, trainWrite := none,
    fuseId := 0x0216A100, fuseUnits := 0xFF3FFFFF, fuseMv := 0 }

/-- The self-test controller (R511 to R524) beside its registers. -/
structure Sst where
  /-- the pass runs before W5 rather than at a cold start -/
  shutdown : Bool
  /-- partitions under test, and those still to be tested, in the order of R513 -/
  testing : List Nat
  todo : List Nat
  done : List Nat
  /-- entries of this pass: repairs, and fail entries in order of detection -/
  repairs : List W64
  fails : List W64
  exhausted : Bool
  ms : Nat
  /-- the record in force: sequence, source copy (0 none, 1 A, 2 B), repair entries, fail entries -/
  seq : Nat
  src : Nat
  entries : List W64
  lastFails : List W64
  /-- a record is being written -/
  committing : Bool
  deriving DecidableEq, Repr

/-- The self-test controller after reset. -/
def Sst.reset : Sst :=
  { shutdown := false, testing := [], todo := [], done := [], repairs := [], fails := [],
    exhausted := false, ms := 0, seq := 0, src := 0, entries := [], lastFails := [],
    committing := false }

/-- Security and debug (R525 to R541) beside its registers. -/
structure Sec where
  /-- OTP bytes -/
  otp : SMap Byte
  /-- OTP repair row valid fuses that are consumed though not valid -/
  consumed : List Nat
  /-- response window and attestation window bytes -/
  resp : SMap Byte
  att : SMap Byte
  /-- the FAK seed of the present start and the certificate over its key -/
  fakSeed : List Byte
  fakCert : List Byte
  deriving DecidableEq, Repr

/-- Security after power-on. -/
def Sec.reset : Sec := ⟨[], [], [], [], [], []⟩

/-- A tagged instruction in progress (R548, R549). -/
structure TagRun where
  slice : Nat
  dw0 : W64
  dt : Nat
  stroke : Nat
  holdCnt : Nat
  waitCnt : Nat
  frozenCnt : Nat
  run : Nat
  /-- the instruction has completed -/
  finished : Bool
  deriving DecidableEq, Repr

/-- The performance monitor (R542 to R550) beside its registers. -/
structure Pmu where
  /-- live bandwidth counts, keyed port · 2 + (0 RD, 1 WR) -/
  bw : SMap Nat
  /-- live probe values: keyed probe · 16 + (0 max, 1 min, 2 count, 4 + bin) -/
  probe : SMap Nat
  /-- issues left to the next tag; the tag is due at the next issue; the run followed -/
  left : Nat
  due : Bool
  run : Option TagRun
  deriving DecidableEq, Repr

/-- The performance monitor after reset. -/
def Pmu.reset : Pmu := ⟨[], [], 0, false, none⟩

end Sys2Proof.Machine
end

