-- ==== Sys2Proof/Machine/State.lean ====
section
/-! DEFINITION. The state of the whole block, the reasons a step can stop, and the state right after
power-on reset. State is plain data; its parts are defined in Store.lean, WellState.lean,
PumpState.lean and ChipState.lean. -/

namespace Sys2Proof.Machine

/-- Why a step stops. -/
inductive Fault where
  /-- Raised by the commands that issue one MSQ instruction or schedule word when a field of the word
  holds a value that R132 or R196 calls out of range: such a word is refused at commit, never issues,
  and the specification gives it no effect. Safe: the machine stops where the hardware never goes. -/
  | outOfRange (mnemonic : String)
  deriving DecidableEq, Repr

/-- Why a command has no meaning. -/
inductive Refusal where
  /-- Raised by an arm of `exec` for a command without a meaning yet. Safe: nothing can be proved of
  a command that is refused. -/
  | notModelled (mnemonic : String)
  deriving DecidableEq, Repr

/-- The state of the block. DESIGN CHOICE: log 151. -/
structure State where
  /-- commands that wait, first in, first out -/
  pending : List Instr
  /-- the model's own: how many free values have been drawn -/
  freeCtr : Nat
  /-- bytes at device addresses: DRAM, cisterns, weight banks, service-core SRAM (R40, R45) -/
  mem : Memory
  /-- check bits of each 64-byte line as the difference from the code of its data, keyed by device
  address div 64: zero is a valid line (R370, R371) -/
  ecc : SMap (BitVec 16)
  /-- registers of every block that no record below holds, keyed by register-space offset -/
  regs : SMap W64
  wells : SMap Well
  /-- stream contexts, keyed 64 · pump + context -/
  strs : SMap Stream
  hi : HostIf
  dps : SMap Dp
  dc : Dc
  /-- streams that wait for frame intake unit u, in first-bucket order -/
  fiq : SMap (List Nat)
  mcs : SMap Mc
  lk : LinkDev
  tb : Tb
  /-- harts, keyed 8 · cluster + core -/
  harts : SMap Hart
  mp : Mp
  rim : Rim
  pwr : Pwr
  err : Err
  boot : Boot
  sst : Sst
  sec : Sec
  pmu : Pmu
  deriving DecidableEq, Repr

/-- The block right after power-on reset, at phase 0 of its start (R496, R502): every array at its
reset value, so nothing listed. DESIGN CHOICE: log 5. DESIGN CHOICE: log 152. -/
def State.reset : State :=
  { pending := [], freeCtr := 0, mem := [], ecc := [], regs := [], wells := [], strs := [],
    hi := .reset, dps := [], dc := .reset, fiq := [], mcs := [], lk := .reset, tb := .reset,
    harts := [], mp := .reset, rim := .reset, pwr := .reset, err := .reset, boot := .reset,
    sst := .reset, sec := .reset, pmu := .reset }

end Sys2Proof.Machine
end

