-- ==== Sys2Proof/Config.lean ====
section
/-! DEFINITION. What the specification leaves open: free values, each an opaque constant about which
nothing can be proved. `ctr` is `State.freeCtr`, which a step that draws a value advances. -/

namespace Sys2Proof.Config

/-- A number an implementation is free to choose; `what` tells the uses apart. -/
opaque pick (what ctr : Nat) : Nat

/-- Bytes of host memory that a step reads whole. -/
opaque hostByte (ctr addr : Nat) : BitVec 8

/-- The host ends an access with an error completion (R337, R561). -/
opaque hostFails (ctr addr : Nat) : Bool

/-- Random bits (R535). -/
opaque random (ctr i : Nat) : BitVec 64

/-- SHA3-512 (FIPS 202), 64 bytes. -/
opaque sha3 (m : List (BitVec 8)) : List (BitVec 8)

/-- ML-DSA-87 (FIPS 204): public key of a seed. -/
opaque dsaPublic (seed : List (BitVec 8)) : List (BitVec 8)

/-- ML-DSA-87: signature of a message under a seed. -/
opaque dsaSign (ctr : Nat) (seed m : List (BitVec 8)) : List (BitVec 8)

/-- ML-DSA-87: does a signature verify? -/
opaque dsaVerify (pk m sig : List (BitVec 8)) : Bool

/-- Candidates for the transcendental operations, by operation and FP32 code (R206); the bound that
the specification sets is applied to them. -/
opaque approx (op code : Nat) : Nat

/-- TRIM that the servo sets after an offset (R409). -/
opaque servoTrim (ctr : Nat) (offset trim : Int) : Int

/-- Built-in resize filter tap (R360). -/
opaque filterTap (phase tap : Nat) : Int

/-- Telemetry words a selector names (R342). -/
opaque telemetry (selector ctr i : Nat) : BitVec 64

/-- Result a specification leaves unstated for some operand values. -/
opaque unstated (what a b : Nat) : Nat

end Sys2Proof.Config
end

