-- ==== Sys2Proof/Machine/Flags.lean ====
section
/-! DEFINITION. Saturation counters and statistics windows of slices, CUs and link encoders (R69, R89
to R94, R193). -/

namespace Sys2Proof.Machine

/-- n saturation events: the counter stops at its greatest value, the sticky flag stays set (R89). -/
def StatBlk.sats (b : StatBlk) (n : Nat) : StatBlk :=
  if n = 0 then b else { b with satCount := Nat.min (b.satCount + n) 0xFFFFFFFF, flag := true }

/-- `WIN_LEN`; zero disables gathering (R92). -/
def StatBlk.winLen (b : StatBlk) : Nat := bits b.ctrl 0 16

/-- Max-abs of a value as an FP32 code, `none` for NaN and NaV (R91). -/
def maxAbs (v : FVal) : Option Nat :=
  if v.isNan then none else some (encodeFmt .fp32 v.abs).1

/-- One value passes the gathering point on channel ch (R91, R92). -/
def StatBlk.note (b : StatBlk) (ch : Nat) (v : Option Nat) : StatBlk :=
  if b.winLen = 0 then b
  else
    match v with
    | none => { b with liveNan := Nat.min (b.liveNan + 1) 0xFFFFFFFF }
    | some m =>
      let c := if bitAt b.ctrl 31 then 0 else ch
      { b with liveMax := SMap.set (fun _ => 0) b.liveMax c
                (Nat.max m (SMap.get (fun _ => 0) b.liveMax c)) }

/-- A list of values passes. -/
def StatBlk.noteAll (b : StatBlk) (l : List (Nat × Option Nat)) : StatBlk :=
  l.foldl (fun b p => b.note p.1 p.2) b

/-- A window ends: maxima and counts are copied, `SEQ` increments, live values clear; the sticky flag
stays (R90, R92). DEDUCED: log 39. -/
def StatBlk.windowEnd (b : StatBlk) : StatBlk :=
  { b with maxSnap := b.liveMax, satSnap := b.satCount, nanSnap := Nat.min b.liveNan 0xFFFF,
           seq := (b.seq + 1) % 65536, liveMax := [], liveNan := 0, satCount := 0, units := 0 }

/-- A window unit passes; the last one of a window ends it (R92). -/
def StatBlk.unit (b : StatBlk) : StatBlk :=
  if b.winLen = 0 then b
  else if b.winLen ≤ b.units + 1 then b.windowEnd
  else { b with units := b.units + 1 }

/-- A write of the statistics control: live values clear and a window begins; the snapshot, `SEQ` and
the flag stay (R94). -/
def StatBlk.write (b : StatBlk) (v : W32) : StatBlk :=
  { b with ctrl := v &&& 0xC000FFFF, liveMax := [], liveNan := 0, satCount := 0, units := 0 }

/-- The window unit is drains, or words leaving a CU, and not frame markers (R92, R193). -/
def StatBlk.perUnit (b : StatBlk) : Bool := bitAt b.ctrl 30

end Sys2Proof.Machine
end

