-- ==== Sys2Proof/Machine/Regs.lean ====
section
/-! DEFINITION. The registers that `State.regs` holds: their places in register space (R47), reset
values and access types as the register tables of each chapter give them, and the field accessors.
Registers whose value stands in a record of State are not listed here. -/

namespace Sys2Proof.Machine

/-- A register, or an array of them at a stride: base offset, stride, count, 64-bit, reset value,
RW bits, W1C bits. -/
structure RegDef where
  base : Nat
  stride : Nat
  count : Nat
  wide : Bool
  reset : W64
  rw : W64
  w1c : W64
  deriving DecidableEq, Repr

/-- Offset of `CAP_ID`. -/
abbrev rCapId : Nat := 0x0
/-- Offset of `CAP_UNITS`. -/
abbrev rCapUnits : Nat := 0x8
/-- Offset of `CAP_REPAIR`. -/
abbrev rCapRepair : Nat := 0x10
/-- Offset of `CAP_STROKE`. -/
abbrev rCapStroke : Nat := 0x18
/-- Offset of `CAP_MEM`. -/
abbrev rCapMem : Nat := 0x20
/-- Offset of `CAP_MEM_USABLE`. -/
abbrev rCapMemUsable : Nat := 0x28
/-- Offset of `HI_CTRL`. -/
abbrev rHiCtrl : Nat := 0x10008
/-- Offset of `HI_INT_MASK`. -/
abbrev rHiIntMask : Nat := 0x10010
/-- Offset of `HI_ERR`. -/
abbrev rHiErr : Nat := 0x10020
/-- Offset of `HI_ERR_ADDR`. -/
abbrev rHiErrAddr : Nat := 0x10028
/-- Offset of `HI_MP_STATUS`. -/
abbrev rHiMpStatus : Nat := 0x10400
/-- Offset of `HI_MP_WDT`. -/
abbrev rHiMpWdt : Nat := 0x10408
/-- Offset of `HI_MP_TELEM`. -/
abbrev rHiMpTelem : Nat := 0x10410
/-- Offset of `HI_TRIP`. -/
abbrev rHiTrip : Nat := 0x10500
/-- Offset of `HI_START`. -/
abbrev rHiStart : Nat := 0x10608
/-- Offset of `FI_STATUS` number n. -/
abbrev rFiStatus (n : Nat) : Nat := 0x30800 + n * 0x1000
/-- Offset of `PWR_MODE`. -/
abbrev rPwrMode : Nat := 0x40000
/-- Offset of `PWR_CAP`. -/
abbrev rPwrCap : Nat := 0x40008
/-- Offset of `PWR_STATUS`. -/
abbrev rPwrStatus : Nat := 0x40010
/-- Offset of `PWR_POWER`. -/
abbrev rPwrPower : Nat := 0x40018
/-- Offset of `PWR_SLOPE`. -/
abbrev rPwrSlope : Nat := 0x40020
/-- Offset of `PWR_LATTOL`. -/
abbrev rPwrLattol : Nat := 0x40028
/-- Offset of `PWR_WAKE`. -/
abbrev rPwrWake : Nat := 0x40030
/-- Offset of `PWR_THROT`. -/
abbrev rPwrThrot : Nat := 0x40038
/-- Offset of `PWR_DROOP`. -/
abbrev rPwrDroop : Nat := 0x40040
/-- Offset of `PWR_TMAX`. -/
abbrev rPwrTmax : Nat := 0x40048
/-- Offset of `PWR_DROOP_CNT_w` number n. -/
abbrev rPwrDroopCnt (n : Nat) : Nat := 0x40100 + n * 0x8
/-- Offset of `PWR_TEMP_n` number n. -/
abbrev rPwrTemp (n : Nat) : Nat := 0x40200 + n * 0x8
/-- Offset of `TB_CTRL`. -/
abbrev rTbCtrl : Nat := 0x50000
/-- Offset of `TB_STATUS`. -/
abbrev rTbStatus : Nat := 0x50008
/-- Offset of `TB_TRIM`. -/
abbrev rTbTrim : Nat := 0x50018
/-- Offset of `TB_OFFSET`. -/
abbrev rTbOffset : Nat := 0x50028
/-- Offset of `TB_PPS_CAP`. -/
abbrev rTbPpsCap : Nat := 0x50030
/-- Offset of `TB_TSYNC`. -/
abbrev rTbTsync : Nat := 0x50038
/-- Offset of `TB_ASYM_n` number n. -/
abbrev rTbAsym (n : Nat) : Nat := 0x50040 + n * 0x8
/-- Offset of `TB_TRG_START_k` number n. -/
abbrev rTbTrgStart (n : Nat) : Nat := 0x50100 + n * 0x20
/-- Offset of `TB_TRG_PERIOD_k` number n. -/
abbrev rTbTrgPeriod (n : Nat) : Nat := 0x50108 + n * 0x20
/-- Offset of `TB_TRG_CTRL_k` number n. -/
abbrev rTbTrgCtrl (n : Nat) : Nat := 0x50110 + n * 0x20
/-- Offset of `TB_TRG_STATUS_k` number n. -/
abbrev rTbTrgStatus (n : Nat) : Nat := 0x50118 + n * 0x20
/-- Offset of `ERR_CTRL`. -/
abbrev rErrCtrl : Nat := 0x60000
/-- Offset of `ERR_STATUS`. -/
abbrev rErrStatus : Nat := 0x60008
/-- Offset of `ERR_HEAD`. -/
abbrev rErrHead : Nat := 0x60010
/-- Offset of `ERR_TAIL`. -/
abbrev rErrTail : Nat := 0x60018
/-- Offset of `SST_STATUS`. -/
abbrev rSstStatus : Nat := 0x70000
/-- Offset of `SST_SUMMARY`. -/
abbrev rSstSummary : Nat := 0x70008
/-- Offset of `SST_SLICE_FAIL`. -/
abbrev rSstSliceFail : Nat := 0x70010
/-- Offset of `SST_UNIT_FAIL`. -/
abbrev rSstUnitFail : Nat := 0x70018
/-- Offset of `SST_COL_FAIL`. -/
abbrev rSstColFail : Nat := 0x70020
/-- Offset of `SST_FAIL_i` number n. -/
abbrev rSstFail (n : Nat) : Nat := 0x70100 + n * 0x8
/-- Offset of `SEC_STATUS`. -/
abbrev rSecStatus : Nat := 0x80000
/-- Offset of `SEC_SVN`. -/
abbrev rSecSvn : Nat := 0x80008
/-- Offset of `SEC_SERIAL`. -/
abbrev rSecSerial : Nat := 0x80010
/-- Offset of `SEC_FW_DIGEST_i` number n. -/
abbrev rSecFwDigest (n : Nat) : Nat := 0x80040 + n * 0x8
/-- Offset of `SEC_NONCE_i` number n. -/
abbrev rSecNonce (n : Nat) : Nat := 0x80080 + n * 0x8
/-- Offset of `SEC_ATTEST`. -/
abbrev rSecAttest : Nat := 0x800C0
/-- Offset of `SEC_PROV_ADDR`. -/
abbrev rSecProvAddr : Nat := 0x80100
/-- Offset of `SEC_PROV_DATA`. -/
abbrev rSecProvData : Nat := 0x80108
/-- Offset of `SEC_PROV_CTRL`. -/
abbrev rSecProvCtrl : Nat := 0x80110
/-- Offset of `DBG_CTRL`. -/
abbrev rDbgCtrl : Nat := 0x80200
/-- Offset of `DBG_STATUS`. -/
abbrev rDbgStatus : Nat := 0x80208
/-- Offset of `DBG_CHAL_i` number n. -/
abbrev rDbgChal (n : Nat) : Nat := 0x80240 + n * 0x8
/-- Offset of `RIM_CTRL`. -/
abbrev rRimCtrl : Nat := 0x90000
/-- Offset of `RIM_STATUS`. -/
abbrev rRimStatus : Nat := 0x90008
/-- Offset of `RIM_COMMIT_CRC`. -/
abbrev rRimCommitCrc : Nat := 0x90018
/-- Offset of `RIM_CAP`. -/
abbrev rRimCap : Nat := 0x90020
/-- Offset of `RIM_CAP_STATUS`. -/
abbrev rRimCapStatus : Nat := 0x90028
/-- Offset of `RIM_GPIO_OUT`. -/
abbrev rRimGpioOut : Nat := 0x90038
/-- Offset of `RIM_OSC_k` number n. -/
abbrev rRimOsc (n : Nat) : Nat := 0x90100 + n * 0x8
/-- Offset of `RIM_STAMP_CFG_k` number n. -/
abbrev rRimStampCfg (n : Nat) : Nat := 0x90240 + n * 0x8
/-- Offset of `RIM_CAPCELL` number n. -/
abbrev rRimCapCell (n : Nat) : Nat := 0x90400 + n * 0x8
/-- Offset of `RIM_CAPPIN` number n. -/
abbrev rRimCapPin (n : Nat) : Nat := 0x90600 + n * 0x8
/-- Offset of `PMU_CTRL`. -/
abbrev rPmuCtrl : Nat := 0xA0000
/-- Offset of `PMU_OVF`. -/
abbrev rPmuOvf : Nat := 0xA0008
/-- Offset of `PMU_BW_CTRL`. -/
abbrev rPmuBwCtrl : Nat := 0xA0010
/-- Offset of `PMU_BW_SEQ`. -/
abbrev rPmuBwSeq : Nat := 0xA0018
/-- Offset of `PMU_TAG_CTRL`. -/
abbrev rPmuTagCtrl : Nat := 0xA0020
/-- Offset of `PMU_TAG_BASE`. -/
abbrev rPmuTagBase : Nat := 0xA0028
/-- Offset of `PMU_TAG_HEAD`. -/
abbrev rPmuTagHead : Nat := 0xA0030
/-- Offset of `PMU_TAG_TAIL`. -/
abbrev rPmuTagTail : Nat := 0xA0038
/-- Offset of `PMU_QP_CTRL`. -/
abbrev rPmuQpCtrl : Nat := 0xA0040
/-- Offset of `PMU_SEL_n` number n. -/
abbrev rPmuSel (n : Nat) : Nat := 0xA0100 + n * 0x8
/-- Offset of `PMU_CNT_n` number n. -/
abbrev rPmuCnt (n : Nat) : Nat := 0xA0200 + n * 0x8
/-- Offset of `PMU_BW_i` number n. -/
abbrev rPmuBw (n : Nat) : Nat := 0xA0400 + n * 0x8
/-- Offset of `PMU_QP_k` number n. -/
abbrev rPmuQp (n : Nat) : Nat := 0xA0600 + n * 0x8
/-- Offset of `PMU_QP_MM_k` number n. -/
abbrev rPmuQpMm (n : Nat) : Nat := 0xA0800 + n * 0x40
/-- Offset of `PMU_QP_N_k` number n. -/
abbrev rPmuQpN (n : Nat) : Nat := 0xA0808 + n * 0x40
/-- Offset of `MC_STATUS` number n. -/
abbrev rMcStatus (n : Nat) : Nat := 0x100000 + n * 0x10000
/-- Offset of `MC_ERR_ADDR` number n. -/
abbrev rMcErrAddr (n : Nat) : Nat := 0x100028 + n * 0x10000
/-- Offset of `MC_SCRUB` number n. -/
abbrev rMcScrub (n : Nat) : Nat := 0x100030 + n * 0x10000
/-- Offset of `MEM_CFG`. -/
abbrev rMemCfg : Nat := 0x108000
/-- Offset of `LK_STATUS` number n. -/
abbrev rLkStatus (n : Nat) : Nat := 0x200000 + n * 0x10000
/-- Offset of `LK_CFG` number n. -/
abbrev rLkCfg (n : Nat) : Nat := 0x200008 + n * 0x10000
/-- Offset of `LK_FEC` number n. -/
abbrev rLkFec (n : Nat) : Nat := 0x200010 + n * 0x10000
/-- Offset of `LK_RETRY` number n. -/
abbrev rLkRetry (n : Nat) : Nat := 0x200018 + n * 0x10000
/-- Offset of `LK_PEER` number n. -/
abbrev rLkPeer (n : Nat) : Nat := 0x200020 + n * 0x10000
/-- Offset of `LK_PEER_SERIAL` number n. -/
abbrev rLkPeerSerial (n : Nat) : Nat := 0x200028 + n * 0x10000
/-- Offset of `LK_ID`. -/
abbrev rLkId : Nat := 0x208000
/-- Offset of `LK_EPOCH`. -/
abbrev rLkEpoch : Nat := 0x208008
/-- Offset of `LK_TIMEOUT`. -/
abbrev rLkTimeout : Nat := 0x208010
/-- Offset of `LK_PW_BASE`. -/
abbrev rLkPwBase : Nat := 0x208018
/-- Offset of `LK_PW_SIZE`. -/
abbrev rLkPwSize : Nat := 0x208020
/-- Offset of `LK_PW_CTRL`. -/
abbrev rLkPwCtrl : Nat := 0x208028
/-- Offset of `LK_MEMBER_k` number n. -/
abbrev rLkMember (n : Nat) : Nat := 0x208100 + n * 0x8
/-- Offset of `LK_RT_i` number n. -/
abbrev rLkRt (n : Nat) : Nat := 0x209000 + n * 0x8
/-- Offset of `PMP_CL_FIXED` number n. -/
abbrev rPmpClFixed (n : Nat) : Nat := 0x308000 + n * 0x10000
/-- Offset of `PMP_CL_HORIZON` number n. -/
abbrev rPmpClHorizon (n : Nat) : Nat := 0x308008 + n * 0x10000
/-- Offset of `PMP_CL_SAT` number n. -/
abbrev rPmpClSat (n : Nat) : Nat := 0x308010 + n * 0x10000
/-- Offset of `SC_CL_CTRL` number n. -/
abbrev rScClCtrl (n : Nat) : Nat := 0xC00000 + n * 0x100000
/-- Offset of `SC_CL_STATUS` number n. -/
abbrev rScClStatus (n : Nat) : Nat := 0xC00008 + n * 0x100000
/-- Offset of `SC_CL_MAP` number n. -/
abbrev rScClMap (n : Nat) : Nat := 0xC00010 + n * 0x100000
/-- Offset of `FI_PROF_CTRL` of profile p of unit u. -/
abbrev rFiProfCtrl (u p : Nat) : Nat := 0x30000 + u * 0x1000 + p * 0x40
/-- Offset of `FI_PROF_CROP`. -/
abbrev rFiProfCrop (u p : Nat) : Nat := 0x30008 + u * 0x1000 + p * 0x40
/-- Offset of `FI_PROF_OUT`. -/
abbrev rFiProfOut (u p : Nat) : Nat := 0x30010 + u * 0x1000 + p * 0x40
/-- Offset of `FI_PROF_NORM_c`. -/
abbrev rFiProfNorm (u p c : Nat) : Nat := 0x30018 + u * 0x1000 + p * 0x40 + c * 8
/-- Offset of `FI_COEF_k`. -/
abbrev rFiCoef (u k : Nat) : Nat := 0x30C00 + u * 0x1000 + k * 8
/-- Offset of `MC_ERR_CH_c` of controller n. -/
abbrev rMcErrCh (n c : Nat) : Nat := 0x100008 + n * 0x10000 + c * 8
/-- Offset of `PMU_QP_BIN_k_j`. -/
abbrev rPmuQpBin (k j : Nat) : Nat := 0xA0810 + k * 0x40 + j * 8
/-- Offset of `SC_CORE_PC` of core n of cluster c. -/
abbrev rScCorePc (c n : Nat) : Nat := 0xC01008 + c * 0x100000 + n * 0x40
/-- Offset of `SC_CORE_CAUSE`. -/
abbrev rScCoreCause (c n : Nat) : Nat := 0xC01018 + c * 0x100000 + n * 0x40

/-- Registers of the CAP block. -/
def regsCap : List RegDef :=
  [
    ⟨0x0, 0x0, 1, false, 0x216A100, 0x0, 0x0⟩,  -- CAP_ID
    ⟨0x8, 0x0, 1, false, 0xFF3FFFFF, 0x0, 0x0⟩,  -- CAP_UNITS
    ⟨0x10, 0x0, 1, false, 0x0, 0x0, 0x0⟩,  -- CAP_REPAIR
    ⟨0x18, 0x0, 1, false, 0x4B00190, 0x0, 0x0⟩,  -- CAP_STROKE
    ⟨0x20, 0x0, 1, false, 0x0, 0x0, 0x0⟩,  -- CAP_MEM
    ⟨0x28, 0x0, 1, false, 0x0, 0x0, 0x0⟩  -- CAP_MEM_USABLE
  ]

/-- Registers of the HI block. -/
def regsHi : List RegDef :=
  [
    ⟨0x10008, 0x0, 1, false, 0x3F3E00, 0xC03F3F00, 0x0⟩,  -- HI_CTRL
    ⟨0x10010, 0x0, 1, true, 0xFFFFFFFFFFFFFFFF, 0xFFFFFFFFFFFFFFFF, 0x0⟩,  -- HI_INT_MASK
    ⟨0x10020, 0x0, 1, false, 0x0, 0x0, 0x80000000⟩,  -- HI_ERR
    ⟨0x10028, 0x0, 1, true, 0x0, 0x0, 0x0⟩,  -- HI_ERR_ADDR
    ⟨0x10400, 0x0, 1, false, 0x10000000, 0x0, 0x0⟩,  -- HI_MP_STATUS
    ⟨0x10408, 0x0, 1, false, 0x64, 0x0, 0x0⟩,  -- HI_MP_WDT
    ⟨0x10410, 0x0, 1, false, 0xA, 0xFFFF, 0x0⟩,  -- HI_MP_TELEM
    ⟨0x10500, 0x0, 1, false, 0x0, 0x0, 0x0⟩,  -- HI_TRIP
    ⟨0x10608, 0x0, 1, false, 0x0, 0x0, 0x0⟩  -- HI_START
  ]

/-- Registers of the FI block. -/
def regsFi : List RegDef :=
  [
    ⟨0x30000, 0x40, 16, false, 0x400, 0xFFFF, 0x0⟩,  -- FI_PROF_CTRL
    ⟨0x30008, 0x40, 16, true, 0x0, 0xFFFFFFFFFFFFFFFF, 0x0⟩,  -- FI_PROF_CROP
    ⟨0x30010, 0x40, 16, true, 0x0, 0xFFFFFFFFFFFFFF, 0x0⟩,  -- FI_PROF_OUT
    ⟨0x30018, 0x40, 16, true, 0x3F800000, 0xFFFFFFFFFFFFFFFF, 0x0⟩,  -- FI_PROF_NORM_c
    ⟨0x30020, 0x40, 16, true, 0x3F800000, 0xFFFFFFFFFFFFFFFF, 0x0⟩,  -- FI_PROF_NORM_c
    ⟨0x30028, 0x40, 16, true, 0x3F800000, 0xFFFFFFFFFFFFFFFF, 0x0⟩,  -- FI_PROF_NORM_c
    ⟨0x31000, 0x40, 16, false, 0x400, 0xFFFF, 0x0⟩,  -- FI_PROF_CTRL
    ⟨0x31008, 0x40, 16, true, 0x0, 0xFFFFFFFFFFFFFFFF, 0x0⟩,  -- FI_PROF_CROP
    ⟨0x31010, 0x40, 16, true, 0x0, 0xFFFFFFFFFFFFFF, 0x0⟩,  -- FI_PROF_OUT
    ⟨0x31018, 0x40, 16, true, 0x3F800000, 0xFFFFFFFFFFFFFFFF, 0x0⟩,  -- FI_PROF_NORM_c
    ⟨0x31020, 0x40, 16, true, 0x3F800000, 0xFFFFFFFFFFFFFFFF, 0x0⟩,  -- FI_PROF_NORM_c
    ⟨0x31028, 0x40, 16, true, 0x3F800000, 0xFFFFFFFFFFFFFFFF, 0x0⟩,  -- FI_PROF_NORM_c
    ⟨0x30800, 0x1000, 2, false, 0x0, 0x0, 0x80000000⟩,  -- FI_STATUS
    ⟨0x30C00, 0x8, 128, true, 0x0, 0xFFFFFFFFFFFFFFFF, 0x0⟩,  -- FI_COEF
    ⟨0x31C00, 0x8, 128, true, 0x0, 0xFFFFFFFFFFFFFFFF, 0x0⟩  -- FI_COEF
  ]

/-- Registers of the PWR block. -/
def regsPwr : List RegDef :=
  [
    ⟨0x40000, 0x0, 1, false, 0x50000000, 0xC0000000, 0x0⟩,  -- PWR_MODE
    ⟨0x40008, 0x0, 1, false, 0x292C, 0x8000FFFF, 0x0⟩,  -- PWR_CAP
    ⟨0x40010, 0x0, 1, false, 0x404040, 0x0, 0x48000000⟩,  -- PWR_STATUS
    ⟨0x40018, 0x0, 1, false, 0x0, 0x0, 0x0⟩,  -- PWR_POWER
    ⟨0x40020, 0x0, 1, false, 0x10004, 0xFFFF7F, 0x0⟩,  -- PWR_SLOPE
    ⟨0x40028, 0x0, 1, false, 0x3C, 0xFFFFFFFF, 0x0⟩,  -- PWR_LATTOL
    ⟨0x40030, 0x0, 1, false, 0x2000064, 0x300FFFF, 0x0⟩,  -- PWR_WAKE
    ⟨0x40038, 0x0, 1, false, 0x69000003, 0xFF00000F, 0x0⟩,  -- PWR_THROT
    ⟨0x40040, 0x0, 1, false, 0x28, 0xFF, 0x0⟩,  -- PWR_DROOP
    ⟨0x40048, 0x0, 1, false, 0x0, 0x0, 0x0⟩,  -- PWR_TMAX
    ⟨0x40100, 0x8, 8, false, 0x0, 0x0, 0x0⟩,  -- PWR_DROOP_CNT_w
    ⟨0x40200, 0x8, 64, false, 0x0, 0x0, 0x0⟩  -- PWR_TEMP_n
  ]

/-- Registers of the TB block. -/
def regsTb : List RegDef :=
  [
    ⟨0x50000, 0x0, 1, false, 0x0, 0xE3FF0000, 0x0⟩,  -- TB_CTRL
    ⟨0x50008, 0x0, 1, false, 0x0, 0x0, 0x18000000⟩,  -- TB_STATUS
    ⟨0x50018, 0x0, 1, false, 0x0, 0xFFFFFFFF, 0x0⟩,  -- TB_TRIM
    ⟨0x50028, 0x0, 1, false, 0x0, 0x0, 0x0⟩,  -- TB_OFFSET
    ⟨0x50030, 0x0, 1, true, 0x0, 0x0, 0x0⟩,  -- TB_PPS_CAP
    ⟨0x50038, 0x0, 1, false, 0x3E8, 0xFFFF, 0x0⟩,  -- TB_TSYNC
    ⟨0x50040, 0x8, 6, false, 0x0, 0xFFFF, 0x0⟩,  -- TB_ASYM_n
    ⟨0x50100, 0x20, 8, true, 0x0, 0xFFFFFFFFFFFFFFFF, 0x0⟩,  -- TB_TRG_START_k
    ⟨0x50108, 0x20, 8, true, 0x0, 0xFFFFFFFFFFFFFFFF, 0x0⟩,  -- TB_TRG_PERIOD_k
    ⟨0x50110, 0x20, 8, false, 0x3E80000, 0xFFFFFFFF, 0x0⟩,  -- TB_TRG_CTRL_k
    ⟨0x50118, 0x20, 8, false, 0x0, 0x0, 0x0⟩  -- TB_TRG_STATUS_k
  ]

/-- Registers of the ERR block. -/
def regsErr : List RegDef :=
  [
    ⟨0x60000, 0x0, 1, false, 0x1, 0xFF, 0x0⟩,  -- ERR_CTRL
    ⟨0x60008, 0x0, 1, false, 0x0, 0x0, 0x40000000⟩,  -- ERR_STATUS
    ⟨0x60010, 0x0, 1, false, 0x0, 0x0, 0x0⟩,  -- ERR_HEAD
    ⟨0x60018, 0x0, 1, false, 0x0, 0xFFFFFFFF, 0x0⟩  -- ERR_TAIL
  ]

/-- Registers of the SST block. -/
def regsSst : List RegDef :=
  [
    ⟨0x70000, 0x0, 1, false, 0x0, 0x0, 0x0⟩,  -- SST_STATUS
    ⟨0x70008, 0x0, 1, false, 0x0, 0x0, 0x0⟩,  -- SST_SUMMARY
    ⟨0x70010, 0x0, 1, true, 0x0, 0x0, 0x0⟩,  -- SST_SLICE_FAIL
    ⟨0x70018, 0x0, 1, true, 0x0, 0x0, 0x0⟩,  -- SST_UNIT_FAIL
    ⟨0x70020, 0x0, 1, true, 0x0, 0x0, 0x0⟩,  -- SST_COL_FAIL
    ⟨0x70100, 0x8, 64, true, 0x0, 0x0, 0x0⟩  -- SST_FAIL_i
  ]

/-- Registers of the SEC block. -/
def regsSec : List RegDef :=
  [
    ⟨0x80000, 0x0, 1, false, 0x0, 0x0, 0x0⟩,  -- SEC_STATUS
    ⟨0x80008, 0x0, 1, false, 0x0, 0x0, 0x0⟩,  -- SEC_SVN
    ⟨0x80010, 0x0, 1, true, 0x0, 0x0, 0x0⟩,  -- SEC_SERIAL
    ⟨0x80040, 0x8, 8, true, 0x0, 0x0, 0x0⟩,  -- SEC_FW_DIGEST_i
    ⟨0x80080, 0x8, 8, true, 0x0, 0xFFFFFFFFFFFFFFFF, 0x0⟩,  -- SEC_NONCE_i
    ⟨0x800C0, 0x0, 1, false, 0x0, 0x0, 0x20000000⟩,  -- SEC_ATTEST
    ⟨0x80100, 0x0, 1, false, 0x0, 0xFFF8, 0x0⟩,  -- SEC_PROV_ADDR
    ⟨0x80108, 0x0, 1, true, 0x0, 0xFFFFFFFFFFFFFFFF, 0x0⟩,  -- SEC_PROV_DATA
    ⟨0x80110, 0x0, 1, false, 0x0, 0x0, 0x0⟩,  -- SEC_PROV_CTRL
    ⟨0x80200, 0x0, 1, false, 0x0, 0x3, 0x0⟩,  -- DBG_CTRL
    ⟨0x80208, 0x0, 1, false, 0x20000000, 0x0, 0x0⟩,  -- DBG_STATUS
    ⟨0x80240, 0x8, 8, true, 0x0, 0x0, 0x0⟩  -- DBG_CHAL_i
  ]

/-- Registers of the RIM block. -/
def regsRim : List RegDef :=
  [
    ⟨0x90000, 0x0, 1, false, 0x7FE, 0xE03F07FF, 0x0⟩,  -- RIM_CTRL
    ⟨0x90008, 0x0, 1, false, 0x0, 0x0, 0x0⟩,  -- RIM_STATUS
    ⟨0x90018, 0x0, 1, false, 0x0, 0xFFFFFFFF, 0x0⟩,  -- RIM_COMMIT_CRC
    ⟨0x90020, 0x0, 1, true, 0x20000000, 0xFFFFBE0007FF, 0x0⟩,  -- RIM_CAP
    ⟨0x90028, 0x0, 1, false, 0x0, 0x0, 0xC0000000⟩,  -- RIM_CAP_STATUS
    ⟨0x90038, 0x0, 1, false, 0x0, 0xFFFFFFFF, 0x0⟩,  -- RIM_GPIO_OUT
    ⟨0x90100, 0x8, 4, true, 0x10C7, 0x1FFFFFFFF, 0x0⟩,  -- RIM_OSC_k
    ⟨0x90240, 0x8, 8, false, 0x20000000, 0xE00007FF, 0x0⟩,  -- RIM_STAMP_CFG_k
    ⟨0x90400, 0x8, 64, true, 0x0, 0x0, 0x0⟩,  -- RIM_CAPCELL
    ⟨0x90600, 0x8, 3, true, 0x0, 0x0, 0x0⟩  -- RIM_CAPPIN
  ]

/-- Registers of the PMU block. -/
def regsPmu : List RegDef :=
  [
    ⟨0xA0000, 0x0, 1, false, 0x3D0000, 0xC03F0000, 0x0⟩,  -- PMU_CTRL
    ⟨0xA0008, 0x0, 1, false, 0x0, 0x0, 0xFFFFFFFF⟩,  -- PMU_OVF
    ⟨0xA0010, 0x0, 1, false, 0x3E8, 0x8000FFFF, 0x0⟩,  -- PMU_BW_CTRL
    ⟨0xA0018, 0x0, 1, false, 0x0, 0x0, 0x0⟩,  -- PMU_BW_SEQ
    ⟨0xA0020, 0x0, 1, false, 0x8100000, 0xFF1F0000, 0x0⟩,  -- PMU_TAG_CTRL
    ⟨0xA0028, 0x0, 1, true, 0x0, 0xFFFFFFFFF000, 0x0⟩,  -- PMU_TAG_BASE
    ⟨0xA0030, 0x0, 1, false, 0x0, 0x0, 0x0⟩,  -- PMU_TAG_HEAD
    ⟨0xA0038, 0x0, 1, false, 0x0, 0xFFFFFFFF, 0x0⟩,  -- PMU_TAG_TAIL
    ⟨0xA0040, 0x0, 1, false, 0x10, 0x8000FFFF, 0x0⟩,  -- PMU_QP_CTRL
    ⟨0xA0100, 0x8, 32, false, 0x0, 0x1FFFFFFC, 0x0⟩,  -- PMU_SEL_n
    ⟨0xA0200, 0x8, 32, true, 0x0, 0xFFFFFFFFFFFF, 0x0⟩,  -- PMU_CNT_n
    ⟨0xA0400, 0x8, 56, true, 0x0, 0x0, 0x0⟩,  -- PMU_BW_i
    ⟨0xA0600, 0x8, 16, false, 0x0, 0x80001FFF, 0x0⟩,  -- PMU_QP_k
    ⟨0xA0800, 0x40, 16, true, 0xFFFFFFFF, 0x0, 0x0⟩,  -- PMU_QP_MM_k
    ⟨0xA0808, 0x40, 16, false, 0x0, 0x0, 0x0⟩,  -- PMU_QP_N_k
    ⟨0xA0810, 0x40, 16, true, 0x0, 0x0, 0x0⟩,  -- PMU_QP_BIN_k_j
    ⟨0xA0818, 0x40, 16, true, 0x0, 0x0, 0x0⟩,  -- PMU_QP_BIN_k_j
    ⟨0xA0820, 0x40, 16, true, 0x0, 0x0, 0x0⟩,  -- PMU_QP_BIN_k_j
    ⟨0xA0828, 0x40, 16, true, 0x0, 0x0, 0x0⟩  -- PMU_QP_BIN_k_j
  ]

/-- Registers of the MC block. -/
def regsMc : List RegDef :=
  [
    ⟨0x100000, 0x10000, 8, false, 0x0, 0x0, 0x0⟩,  -- MC_STATUS
    ⟨0x100008, 0x10000, 8, false, 0x0, 0x0, 0x3⟩,  -- MC_ERR_CH_c
    ⟨0x100010, 0x10000, 8, false, 0x0, 0x0, 0x3⟩,  -- MC_ERR_CH_c
    ⟨0x100018, 0x10000, 8, false, 0x0, 0x0, 0x3⟩,  -- MC_ERR_CH_c
    ⟨0x100020, 0x10000, 8, false, 0x0, 0x0, 0x3⟩,  -- MC_ERR_CH_c
    ⟨0x100028, 0x10000, 8, true, 0x0, 0x0, 0x0⟩,  -- MC_ERR_ADDR
    ⟨0x100030, 0x10000, 8, false, 0x80180000, 0x80FF0000, 0x40000000⟩,  -- MC_SCRUB
    ⟨0x108000, 0x0, 1, false, 0x0, 0x0, 0x0⟩  -- MEM_CFG
  ]

/-- Registers of the LK block. -/
def regsLk : List RegDef :=
  [
    ⟨0x200000, 0x10000, 6, false, 0x0, 0x0, 0x0⟩,  -- LK_STATUS
    ⟨0x200008, 0x10000, 6, false, 0x38000000, 0xF8000000, 0x0⟩,  -- LK_CFG
    ⟨0x200010, 0x10000, 6, true, 0x0, 0x0, 0x0⟩,  -- LK_FEC
    ⟨0x200018, 0x10000, 6, false, 0x0, 0x0, 0x0⟩,  -- LK_RETRY
    ⟨0x200020, 0x10000, 6, false, 0x0, 0x0, 0x0⟩,  -- LK_PEER
    ⟨0x200028, 0x10000, 6, true, 0x0, 0x0, 0x0⟩,  -- LK_PEER_SERIAL
    ⟨0x208000, 0x0, 1, false, 0x0, 0x0, 0x0⟩,  -- LK_ID
    ⟨0x208008, 0x0, 1, false, 0x0, 0x0, 0x0⟩,  -- LK_EPOCH
    ⟨0x208010, 0x0, 1, false, 0x3207D0, 0xFFFFFFFF, 0x0⟩,  -- LK_TIMEOUT
    ⟨0x208018, 0x0, 1, true, 0x0, 0xFFFFFFFFF000, 0x0⟩,  -- LK_PW_BASE
    ⟨0x208020, 0x0, 1, true, 0x0, 0x1FFFFFF000, 0x0⟩,  -- LK_PW_SIZE
    ⟨0x208028, 0x0, 1, false, 0x0, 0xC0000000, 0x0⟩,  -- LK_PW_CTRL
    ⟨0x208100, 0x8, 16, true, 0x0, 0x0, 0x0⟩,  -- LK_MEMBER_k
    ⟨0x209000, 0x8, 1024, false, 0x7, 0x0, 0x0⟩  -- LK_RT_i
  ]

/-- Registers of the PMP block. -/
def regsPmp : List RegDef :=
  [
    ⟨0x308000, 0x10000, 8, false, 0x2710, 0xFFFFF, 0x0⟩,  -- PMP_CL_FIXED
    ⟨0x308008, 0x10000, 8, false, 0xC350, 0xFFFFF, 0x0⟩,  -- PMP_CL_HORIZON
    ⟨0x308010, 0x10000, 8, false, 0x0, 0x0, 0x80000000⟩  -- PMP_CL_SAT
  ]

/-- Registers of the SC block. -/
def regsSc : List RegDef :=
  [
    ⟨0xC00000, 0x100000, 4, false, 0x0, 0x0, 0x0⟩,  -- SC_CL_CTRL
    ⟨0xC00008, 0x100000, 4, false, 0x0, 0x0, 0x0⟩,  -- SC_CL_STATUS
    ⟨0xC00010, 0x100000, 4, false, 0x0, 0x0, 0x0⟩,  -- SC_CL_MAP
    ⟨0xC01008, 0x40, 8, true, 0x0, 0xFFFFFFFFFFFF, 0x0⟩,  -- SC_CORE_PC
    ⟨0xC01018, 0x40, 8, false, 0x0, 0x0, 0x1⟩,  -- SC_CORE_CAUSE
    ⟨0xD01008, 0x40, 8, true, 0x0, 0xFFFFFFFFFFFF, 0x0⟩,  -- SC_CORE_PC
    ⟨0xD01018, 0x40, 8, false, 0x0, 0x0, 0x1⟩,  -- SC_CORE_CAUSE
    ⟨0xE01008, 0x40, 8, true, 0x0, 0xFFFFFFFFFFFF, 0x0⟩,  -- SC_CORE_PC
    ⟨0xE01018, 0x40, 8, false, 0x0, 0x0, 0x1⟩,  -- SC_CORE_CAUSE
    ⟨0xF01008, 0x40, 8, true, 0x0, 0xFFFFFFFFFFFF, 0x0⟩,  -- SC_CORE_PC
    ⟨0xF01018, 0x40, 8, false, 0x0, 0x0, 0x1⟩  -- SC_CORE_CAUSE
  ]

/-- The registers of the block that holds an offset (R47). -/
def regBlock (off : Nat) : List RegDef :=
  match off / 0x10000 with
  | 0 => regsCap
  | 1 => regsHi
  | 3 => regsFi
  | 4 => regsPwr
  | 5 => regsTb
  | 6 => regsErr
  | 7 => regsSst
  | 8 => regsSec
  | 9 => regsRim
  | 10 => regsPmu
  | b => if b < 0x10 then [] else if b < 0x20 then regsMc else if b < 0x30 then regsLk
    else if b < 0x40 then regsPmp else regsSc

/-- Does a register definition cover an offset? -/
def RegDef.covers (d : RegDef) (off : Nat) : Bool :=
  decide (d.base ≤ off) && (if d.stride = 0 then off == d.base
    else (off - d.base) % d.stride == 0 && decide ((off - d.base) / d.stride < d.count))

/-- The register at an offset, if `State.regs` holds one there. -/
def regDef (off : Nat) : Option RegDef := (regBlock off).find? fun d => d.covers off

/-- The reset value of the register at an offset; reserved and unlisted offsets read zero (R17). -/
def regReset (off : Nat) : W64 :=
  match regDef off with
  | some d => d.reset
  | none => 0

/-- The value of a register. -/
def State.rd (s : State) (off : Nat) : W64 := SMap.get regReset s.regs off

/-- Sets the value of a register. -/
def State.wr (s : State) (off : Nat) (v : W64) : State :=
  { s with regs := SMap.set regReset s.regs off v }

/-- A field of len bits from bit lo. -/
def State.fld (s : State) (off lo len : Nat) : Nat := bits (s.rd off) lo len

/-- One bit of a register. -/
def State.bit (s : State) (off lo : Nat) : Bool := bitAt (s.rd off) lo

/-- A 64-bit value with a field replaced. -/
def putBits (v : W64) (lo len x : Nat) : W64 :=
  let m : W64 := (BitVec.ofNat 64 (2 ^ len - 1)) <<< lo
  (v &&& ~~~m) ||| (((BitVec.ofNat 64 (x % 2 ^ len)) <<< lo) &&& m)

/-- Sets a field. -/
def State.setFld (s : State) (off lo len x : Nat) : State := s.wr off (putBits (s.rd off) lo len x)

/-- Sets one bit. -/
def State.setBit (s : State) (off lo : Nat) (b : Bool) : State := s.setFld off lo 1 (b2n b)

/-- Adds to a field, saturating at its greatest value. -/
def State.addSat (s : State) (off lo len n : Nat) : State :=
  s.setFld off lo len (Nat.min (s.fld off lo len + n) (2 ^ len - 1))

/-- Adds one to a field, wrapping. -/
def State.addWrap (s : State) (off lo len : Nat) : State :=
  s.setFld off lo len ((s.fld off lo len + 1) % 2 ^ len)

/-- The value a register takes when software writes v: RW bits take it, each W1C bit written 1
clears, other bits stay (R16, R17). -/
def RegDef.apply (d : RegDef) (old v : W64) : W64 :=
  let kept := old &&& ~~~(d.rw ||| d.w1c)
  kept ||| (v &&& d.rw) ||| (old &&& d.w1c &&& ~~~v)

/-- A software write to a register of the table by its access types alone (R16, R48). -/
def State.plainWrite (s : State) (off : Nat) (v : W64) : State :=
  match regDef off with
  | some d => s.wr off (d.apply (s.rd off) (if d.wide then v else v &&& 0xFFFFFFFF))
  | none => s

end Sys2Proof.Machine
end

