-- ==== Sys2Proof/Machine/Ops.lean ====
section
/-! DEFINITION. The operations every chapter shares: access to the parts of the state, free values,
the performance counters (R542 to R546), interrupt messages (R352), the error log (R492), and the
raising of faults by scope (R479 to R483). -/

namespace Sys2Proof.Machine

/-- The outcome of a command that completes. -/
abbrev Out := Host.Outcome State Fault Refusal

/-- A thermal trip is held (R471). -/
def State.tripped (s : State) : Bool := s.bit rHiTrip 31
/-- Outside the power-on reset level: PORST_N is high and the supplies are in range (R497, R553). -/
def State.powerUp (s : State) : Bool := s.boot.porst && s.boot.supply
/-- The clocks outside the always-on island run: no trip is held, and no reset level but a warm reset
that waits for its effect (R471, R497, R499). -/
def State.clocksRun (s : State) : Bool :=
  s.powerUp && !s.tripped && (s.boot.wrst || s.boot.warm.isSome)

/-- A command to a part outside the always-on island: without its clock nothing changes. DESIGN CHOICE: log 1.
DEDUCED: log 4. -/
def clocked (s : State) (o : Out) : Out := if s.clocksRun then o else .next s
/-- A command to the always-on island (R38): under the power-on reset level nothing changes. -/
def powered (s : State) (o : Out) : Out := if s.powerUp then o else .next s

@[simp] theorem clocked_run {s : State} (h : s.clocksRun = true) (o : Out) : clocked s o = o := by
  simp [clocked, h]
@[simp] theorem powered_run {s : State} (h : s.powerUp = true) (o : Out) : powered s o = o := by
  simp [powered, h]

/-- Well w. -/
def State.well (s : State) (w : Nat) : Well := SMap.get (fun _ => Well.reset) s.wells w
/-- Writes well w. -/
def State.setWell (s : State) (w : Nat) (x : Well) : State :=
  { s with wells := SMap.set (fun _ => Well.reset) s.wells w x }
/-- Stream context i = 64 · pump + context. -/
def State.str (s : State) (i : Nat) : Stream := SMap.get (fun _ => Stream.reset) s.strs i
/-- Writes a stream context. -/
def State.setStr (s : State) (i : Nat) (x : Stream) : State :=
  { s with strs := SMap.set (fun _ => Stream.reset) s.strs i x }
/-- Data port n. -/
def State.dp (s : State) (n : Nat) : Dp := SMap.get (fun _ => Dp.reset) s.dps n
/-- Writes data port n. -/
def State.setDp (s : State) (n : Nat) (x : Dp) : State :=
  { s with dps := SMap.set (fun _ => Dp.reset) s.dps n x }
/-- Memory controller n. -/
def State.mc (s : State) (n : Nat) : Mc := SMap.get (fun _ => Mc.reset) s.mcs n
/-- Writes memory controller n. -/
def State.setMc (s : State) (n : Nat) (x : Mc) : State :=
  { s with mcs := SMap.set (fun _ => Mc.reset) s.mcs n x }
/-- Hart i = 8 · cluster + core. -/
def State.hart (s : State) (i : Nat) : Hart := SMap.get (fun _ => Hart.reset) s.harts i
/-- Writes a hart. -/
def State.setHart (s : State) (i : Nat) (x : Hart) : State :=
  { s with harts := SMap.set (fun _ => Hart.reset) s.harts i x }
/-- Link port n. -/
def State.port (s : State) (n : Nat) : LinkPort := s.lk.port n
/-- Writes link port n. -/
def State.setPort (s : State) (n : Nat) (x : LinkPort) : State :=
  { s with lk := s.lk.setPort n x }

/-- Device time in ns, as a read returns it (R406). -/
def State.dt (s : State) : Nat := s.tb.dt / 2 ^ 32 % 2 ^ 64

/-- Cycles of the 1 GHz count clock, by which the device times what takes so many ns (R406). DEDUCED: log 179. -/
def State.clk (s : State) : Nat := s.tb.clk

/-- One free value has been drawn. -/
def State.drawn (s : State) : State := { s with freeCtr := s.freeCtr + 1 }

/-- Units present, from `CAP_UNITS` (R9). -/
def State.hasWell (s : State) (w : Nat) : Bool := decide (w < 8) && s.bit rCapUnits (24 + w)
/-- Link port n is present. -/
def State.hasLink (s : State) (n : Nat) : Bool := decide (n < 6) && s.bit rCapUnits (16 + n)
/-- Memory controller n is present. -/
def State.hasMc (s : State) (n : Nat) : Bool := decide (n < 8) && s.bit rCapUnits (8 + n)
/-- Service-core cluster c is present. -/
def State.hasSc (s : State) (c : Nat) : Bool := decide (c < 4) && s.bit rCapUnits (4 + c)
/-- Frame intake unit u is present. -/
def State.hasFi (s : State) (u : Nat) : Bool := decide (u < 2) && s.bit rCapUnits (2 + u)
/-- UCIe module m is present. -/
def State.hasUcie (s : State) (m : Nat) : Bool := decide (m < 2) && s.bit rCapUnits m

/-! ### Interrupt messages -/

/-- A mainband is trained. -/
def State.mainbandUp (s : State) : Bool := s.hi.up0 || s.hi.up1

/-- Sends one message for vector v if its bit is pending, it is unmasked and a mainband is trained;
the bit clears when the message is sent (R352). -/
def sendPending (s : State) (v : Nat) : State :=
  if bitAt s.hi.pend v && !s.bit rHiIntMask v && s.mainbandUp then
    { s with hi := { s.hi with pend := putBits s.hi.pend v 1 0, sent := s.hi.sent ++ [v] } }
  else s

/-- Signals vector v (R352). -/
def signalVec (s : State) (v : Nat) : State :=
  sendPending { s with hi := { s.hi with pend := putBits s.hi.pend v 1 1 } } v

/-- Sends the message of every vector that can go now. -/
def sendAllPending (s : State) : State := (List.range 64).foldl sendPending s

/-! ### Performance counters -/

/-- Counter n takes one count; a wrap sets its overflow bit, may signal, may freeze every counter,
and is counted by an odd neighbour that chains (R544, R545). -/
def countUp (s : State) (n : Nat) : State :=
  let c := s.fld (rPmuCnt n) 0 48
  if c + 1 < 2 ^ 48 then s.setFld (rPmuCnt n) 0 48 (c + 1)
  else
    let s := s.setFld (rPmuCnt n) 0 48 0
    if n % 2 = 0 && s.bit (rPmuSel (n + 1)) 7 then
      let d := s.fld (rPmuCnt (n + 1)) 0 48
      if d + 1 < 2 ^ 48 then s.setFld (rPmuCnt (n + 1)) 0 48 (d + 1)
      else
        let s := (s.setFld (rPmuCnt (n + 1)) 0 48 0).setBit rPmuOvf (n + 1) true
        let s := if s.bit rPmuCtrl 30 then s.setBit rPmuCtrl 31 false else s
        if s.bit (rPmuSel (n + 1)) 6 then signalVec s (s.fld rPmuCtrl 16 6) else s
    else
      let s := s.setBit rPmuOvf n true
      let s := if s.bit rPmuCtrl 30 then s.setBit rPmuCtrl 31 false else s
      if s.bit (rPmuSel n) 6 then signalVec s (s.fld rPmuCtrl 16 6) else s

/-- Does `PMU_SEL_n` name an event (R542)? A pump code with 0x10 added ignores the context. -/
def selMatches (s : State) (cls unit ev n : Nat) : Bool :=
  let u := s.fld (rPmuSel n) 16 13
  let e := s.fld (rPmuSel n) 8 8
  !(n % 2 == 1 && s.bit (rPmuSel n) 7) && s.fld (rPmuSel n) 2 4 == cls && ev != 0
    && ((e == ev && u == unit) || (cls == 1 && e == ev + 0x10 && u / 64 == unit / 64))

/-- One occurrence of an event (R542). Counting stops with `EN` at once (R543, R544). -/
def event (s : State) (cls unit ev : Nat) : State :=
  if s.bit rPmuCtrl 31 then
    (List.range 32).foldl
      (fun s n => if s.bit rPmuCtrl 31 && selMatches s cls unit ev n then countUp s n else s) s
  else s

/-- A bucket crosses bandwidth port i; `dir` 0 is RD, 1 WR (R546). -/
def bwCount (s : State) (i dir : Nat) : State :=
  if s.bit rPmuBwCtrl 31 then
    let k := 2 * i + dir
    let v := SMap.get (fun _ => 0) s.pmu.bw k
    { s with pmu := { s.pmu with bw := SMap.set (fun _ => 0) s.pmu.bw k (v + 1) } }
  else s

/-! ### The error log -/

/-- Status codes (R478). -/
abbrev stAborted : Nat := 0x01
abbrev stSkipped : Nat := 0x02
abbrev stCancelled : Nat := 0x03
abbrev stStreamOob : Nat := 0x10
abbrev stDescInvalid : Nat := 0x11
abbrev stDescOverrun : Nat := 0x12
abbrev stHostReadErr : Nat := 0x13
abbrev stTagMismatch : Nat := 0x18
abbrev stWireConflict : Nat := 0x20
abbrev stCtxInvalid : Nat := 0x21
abbrev stStallCycle : Nat := 0x22
abbrev stSpillFull : Nat := 0x23
abbrev stTravelMismatch : Nat := 0x24
abbrev stEccUe : Nat := 0x28
abbrev stSramUe : Nat := 0x29
abbrev stEccCe : Nat := 0x2A
abbrev stDramTrain : Nat := 0x2B
abbrev stLinkDown : Nat := 0x30
abbrev stPeerLost : Nat := 0x31
abbrev stWatchdog : Nat := 0x38
abbrev stThermalTrip : Nat := 0x39
abbrev stCapUnmet : Nat := 0x3A
abbrev stRefLost : Nat := 0x3C
abbrev stSensorFail : Nat := 0x3D
abbrev stSecViolation : Nat := 0x40

/-- Number of unread entries: a difference of 2³¹ or more counts as none (R492). -/
def unreadEntries (s : State) : Nat :=
  let d := (s.fld rErrHead 0 32 + 2 ^ 32 - s.fld rErrTail 0 32) % 2 ^ 32
  if d < 2 ^ 31 then d else 0

/-- DW0 of an entry (R493). -/
def entryDw0 (f : FaultInfo) (scope : Nat) (task pipe : Option Nat) : W64 :=
  BitVec.ofNat 64 (f.status.toNat <<< 56 + (scope % 16) <<< 52 + f.cls.toNat <<< 48
    + f.unit.toNat <<< 32 + (task.getD 0 % 1024) <<< 22 + b2n task.isSome <<< 21
    + (pipe.getD 0 % 8) <<< 18 + b2n pipe.isSome <<< 17)

/-- Writes an error-log entry, overwriting the oldest when the ring is full, and signals the error
vector (R492, R493). -/
def logEntry (s : State) (f : FaultInfo) (scope : Nat) (task pipe : Option Nat) : State :=
  let n := s.fld rErrHead 0 32
  let i := n % 1024
  let full := decide (1024 ≤ unreadEntries s)
  let z : Nat → W64 := fun _ => 0
  let log := SMap.set z s.err.log (4 * i) (entryDw0 f scope task pipe)
  let log := SMap.set z log (4 * i + 1) (BitVec.ofNat 64 s.dt)
  let log := SMap.set z log (4 * i + 2) (BitVec.ofNat 64 f.addr.toNat)
  let log := SMap.set z log (4 * i + 3) f.detail
  let s := { s with err := { s.err with log := log } }
  let s := s.addWrap rErrHead 0 32
  let s := if full then (s.setBit rErrStatus 30 true).addSat rErrStatus 0 16 1 else s
  signalVec s (s.fld rHiCtrl 16 6)

/-- A fault's fields from numbers. -/
def mkFault (status cls unit : Nat) (addr : Nat := 0) (detail : Nat := 0) : FaultInfo :=
  ⟨BitVec.ofNat 8 status, BitVec.ofNat 4 cls, BitVec.ofNat 16 unit, BitVec.ofNat 48 addr,
    BitVec.ofNat 64 detail⟩

/-- A log-only entry (SCOPE 0). -/
def logOnly (s : State) (f : FaultInfo) : State := logEntry s f 0 none none

/-! ### Raising faults -/

/-- The pipeline a well belongs to: its home well (R22, R272, R290). -/
def State.pipeOf (s : State) (w : Nat) : Option Nat :=
  let v := (s.well w).pipe
  if bitAt v 31 then some (bits v 24 3) else none

/-- The clocks of a well run: a well of no pipeline is held in W1, and the others follow the device's
wake state (R22, R183, R472). DEDUCED: log 47. -/
def State.wellClock (s : State) (w : Nat) : Bool := (s.pipeOf w).isSome && s.fld rPwrWake 29 3 == 0

/-- A well that takes strokes. -/
def State.running (s : State) (w : Nat) : Bool :=
  s.hasWell w && (s.well w).run == .running && s.wellClock w

/-- The wells of pipeline p. -/
def State.pipeWells (s : State) (p : Nat) : List Nat :=
  (List.range 8).filter fun w => s.pipeOf w == some p

/-- Reports a task-scoped status to the DC: the abort bit is set and the first status kept (R483,
R487). -/
def reportTask (s : State) (t status : Nat) : State :=
  let k := s.dc.task t
  if k.desc.dw.isEmpty then s
  else
    { s with dc := s.dc.setTask t { k with abort := true, status := some (k.status.getD status) } }

/-- The pipeline of a task in flight. -/
def State.taskPipe (s : State) (t : Nat) : Option Nat :=
  let k := s.dc.task t
  if k.desc.dw.isEmpty then none else some k.pipe

/-- A task-scoped fault: the entry is written, then the fault is reported (R483). -/
def taskFault (s : State) (t : Nat) (f : FaultInfo) : State :=
  reportTask (logEntry s f 1 (some t) (s.taskPipe t)) t f.status.toNat

/-- A pipeline-scoped fault: its entry is written; unless a reset of the pipeline is in progress,
one is now due (R480, R489). -/
def pipeFault (s : State) (p : Nat) (f : FaultInfo) (task : Option Nat := none) : State :=
  let s := logEntry s f 2 task (some p)
  if s.err.resetting.contains p || (SMap.get (fun _ => none) s.err.pending p).isSome then s
  else { s with err := { s.err with
    pending := SMap.set (fun _ => none) s.err.pending p (some f) } }

/-- A fault raised in a well: pipeline-scoped where the well belongs to a pipeline, else logged. -/
def wellFault (s : State) (w : Nat) (f : FaultInfo) : State :=
  match s.pipeOf w with
  | some p => pipeFault s p f
  | none => logOnly s f

/-- A device-scoped fault: its entry is written, `DEVFAULT` is set and the first code kept (R481). -/
def devFault (s : State) (f : FaultInfo) : State :=
  let s := logEntry s f 3 none none
  if s.bit rErrStatus 31 then s
  else (s.setBit rErrStatus 31 true).setFld rErrStatus 16 8 f.status.toNat

/-! ### The management processor's order of work (R432) -/

/-- The MP has a step to take on the head mailbox request: its response stands ready, or its command can be
carried out now. SET_MODE waits for its mode, MEMBERSHIP for its own rows, an image command for the commit
engines; with the other clocks stopped only TELEMETRY and LOG_READ are served. -/
def State.mailboxStep (s : State) : Bool :=
  match s.mp.queue with
  | [] => false
  | q :: _ =>
    let cmd := bits (q.words.getD 0 0) 0 16
    s.mp.answer.isSome || (!s.mp.begun && cmd != 0x40 && (s.clocksRun || cmd == 0x20 || cmd == 0x30)
      && (decide (3 < cmd) || s.wells.all fun e => e.2.busy.isNone))

/-- Level `l` has work that stands waiting: 1 an error event, 2 a mailbox request, 3 a membership packet that has
arrived. Levels 4 and 5 hold nothing waiting: their work is due when their commands say so (R432). DEDUCED: log
169. -/
def State.mpWork (s : State) (l : Nat) : Bool :=
  match l with
  | 1 => !s.bit rErrStatus 31 && s.err.pending.any fun e => e.2.isSome
  | 2 => s.mailboxStep
  | 3 => (List.range 6).any fun n => (s.port n).rx.any fun p => p.kind.toNat == 8
  | _ => false

/-- The MP may take a step of level l: no higher level has work, and it is not restarting (R432, R435). -/
def State.mpTurn (s : State) (l : Nat) : Bool :=
  !s.mp.restarting && (List.range l).all fun k => !s.mpWork k

end Sys2Proof.Machine
end

