-- ==== Sys2Proof/Machine/Operands.lean ====
section
/-! DEFINITION. The element operations of a compute unit: lane packing, chaining, saturation and
rounding (R54, R67 to R74, R206 to R208). Each result comes with its saturation events and the values
its statistics see. -/

namespace Sys2Proof

/-- Latency L in strokes (R206, R208). -/
def CuOp.latency (op : CuOp) (fmt : Fmt) (chn : Nat) : Nat :=
  let float := !fmt.isInt
  match op with
  | .mov | .sel | .and | .or | .xor | .shl | .shr => 1 + chn
  | .cvt => 2
  | .add | .sub | .min | .max | .cmp => if float then 3 else 1 + chn
  | .mul => if float then 4 else if chn = 1 then 6 else 3
  | .fma => 4
  | .exp2 | .log2 | .rcp | .rsq => 6
  | .rsum => if float then 6 else 3
  | .rmax => 3

end Sys2Proof

namespace Sys2Proof.Machine

/-- A word computed by a CU: data, saturation events, and per value its lane and max-abs. -/
structure AluOut where
  line : Line
  sats : Nat
  stats : List (Nat × Option Nat)
  deriving DecidableEq, Repr

/-- One element computed: its code, an event, and the value before its final conversion. -/
structure Elem where
  code : Nat
  sat : Bool
  val : FVal
  deriving DecidableEq, Repr

/-- Bits of an element with lane chaining CHN (R208). -/
def elemWidth (fmt : Fmt) (chn : Nat) : Nat :=
  match chn with
  | 1 => 64
  | 2 => 128
  | _ => fmt.slot

/-- An element of an integer operation: saturated to w bits (R68). -/
def intElem (w : Nat) (i : Int) : Elem :=
  let r := satInt (-(2 ^ (w - 1) : Int)) (2 ^ (w - 1) - 1) i
  ⟨codeOfInt w r.1, r.2, .ofInt i⟩

/-- An element that is bits, with the value a w-bit integer has. -/
def bitElem (w c : Nat) : Elem := ⟨c % 2 ^ w, false, .ofInt (signedOf w (c % 2 ^ w))⟩

/-- An element of a float operation: rounded once (R67, R68, R70). -/
def floatElem (fmt : Fmt) (v : FVal) : Elem :=
  let r := encodeFmt fmt v
  ⟨r.1, r.2, v⟩

/-! ### Transcendental operations -/

/-- Fixed-point one of the working precision. -/
abbrev fxOne : Nat := 2 ^ 160

/-- 2^(2^−k) for k = 1, 2, … times the chosen bits of a 64-bit fraction, from constant c. -/
def exp2Bits (f : Nat) : Nat → Nat → Nat → Nat
  | 0, _, acc => acc
  | n + 1, c, acc =>
    let c' := Nat.sqrt (c * fxOne)
    exp2Bits f n c' (if f / 2 ^ n % 2 = 1 then acc * c' / fxOne else acc)

/-- 2^(f / 2^64) in fixed point. -/
def exp2Frac (f : Nat) : Nat := exp2Bits f 64 (2 * fxOne) fxOne

/-- Bits of log₂ y, y in [1, 2) in fixed point, most significant first. -/
def log2Bits : Nat → Nat → Nat → Nat
  | 0, _, acc => acc
  | n + 1, y, acc =>
    let y2 := y * y / fxOne
    if 2 * fxOne ≤ y2 then log2Bits n (y2 / 2) (2 * acc + 1) else log2Bits n y2 (2 * acc)

/-- The result of a transcendental operation whose exact value is near n · 2^e: some rounding of an
internal value within 2^−22 of it. Which one is the device's fixed function, left free (R206). -/
def enclosed (op code : Nat) (neg : Bool) (n : Nat) (e : Int) : Elem :=
  let sp : FloatSpec := ⟨8, 23, 127, 0x7F7FFFFF⟩
  let lo := roundFloat sp false (n * (2 ^ 40 - 2 ^ 18 - 1)) (e - 40)
  let hi := roundFloat sp false (n * (2 ^ 40 + 2 ^ 18 + 1)) (e - 40)
  let c := lo.1 + Config.approx op code % (hi.1 - lo.1 + 1)
  ⟨b2n neg <<< 31 + c, lo.2, .fin neg n e⟩

/-- A result the specification states for no operand of the kind: left free. -/
def unstatedElem (op code : Nat) : Elem :=
  let c := Config.unstated (0x100 + op) code 0 % 2 ^ 32
  ⟨c, Config.unstated (0x200 + op) code 0 % 2 == 1, f32 c⟩

/-- `EXP2` of an FP32 code (R71, R206). DESIGN CHOICE: log 27. -/
def exp2Elem (code : Nat) : Elem :=
  match f32 code with
  | .fin neg m e =>
    if m = 0 then ⟨0x3F800000, false, .fin false 1 0⟩
    else if finLt 256 0 m e then
      if neg then ⟨0, false, .zero⟩ else floatElem .fp32 (.fin false 1 300)
    else
      let a := rneAt m e (-64)
      let i : Int := (a / 2 ^ 64 : Nat)
      let f := a % 2 ^ 64
      if neg then
        let k : Int := -i - (if f = 0 then 0 else 1)
        enclosed 0x20 code false (exp2Frac ((2 ^ 64 - f) % 2 ^ 64)) (k - 160)
      else enclosed 0x20 code false (exp2Frac f) (i - 160)
  | .inf neg => if neg then ⟨0, false, .zero⟩ else floatElem .fp32 (.inf false)
  | _ => floatElem .fp32 (.nan false)

/-- `LOG2` of an FP32 code; the logarithm of zero and of a negative number is not stated (R206). -/
def log2Elem (code : Nat) : Elem :=
  match f32 code with
  | .fin neg m e =>
    if m = 0 || neg then unstatedElem 0x21 code
    else
      let l := Nat.log2 m
      let fr := log2Bits 80 (m * fxOne / 2 ^ l) 0
      let v : Int := ((l : Int) + e) * 2 ^ 80 + fr
      if v = 0 then ⟨0, false, .zero⟩ else enclosed 0x21 code (decide (v < 0)) v.natAbs (-80)
  | .inf neg => floatElem .fp32 (if neg then .nan false else .inf false)
  | _ => floatElem .fp32 (.nan false)

/-- `RCP` of an FP32 code; the reciprocal of zero is not stated (R206). -/
def rcpElem (code : Nat) : Elem :=
  match f32 code with
  | .fin neg m e =>
    if m = 0 then unstatedElem 0x22 code else enclosed 0x22 code neg (2 ^ 120 / m) (-120 - e)
  | .inf neg => ⟨b2n neg <<< 31, false, .fin neg 0 0⟩
  | _ => floatElem .fp32 (.nan false)

/-- `RSQ` of an FP32 code; that of zero and of a negative number is not stated (R206). -/
def rsqElem (code : Nat) : Elem :=
  match f32 code with
  | .fin neg m e =>
    if m = 0 || neg then unstatedElem 0x23 code
    else
      let me := if e % 2 = 0 then (m, e) else (2 * m, e - 1)
      enclosed 0x23 code false (Nat.sqrt (2 ^ 200 / me.1)) (-100 - me.2 / 2)
  | .inf neg => if neg then floatElem .fp32 (.nan false) else ⟨0, false, .zero⟩
  | _ => floatElem .fp32 (.nan false)

/-! ### Element operations -/

/-- Comparison by FN (R206). -/
def cmpFn (fn : Nat) (lt eq : Bool) : Bool :=
  match fn with
  | 0 => eq
  | 1 => !eq
  | 2 => lt
  | 3 => lt || eq
  | 4 => !lt && !eq
  | _ => !lt

/-- One integer element of w bits (R206, R208). DEDUCED: log 24. -/
def intOp (op : CuOp) (fn w : Nat) (a b c : Nat) : Elem :=
  let x := signedOf w a
  let y := signedOf w b
  match op with
  | .add => intElem w (x + y)
  | .sub => intElem w (x - y)
  | .mul => intElem w (x * y)
  | .fma => intElem w (x * y + signedOf w c)
  | .min => intElem w (if x ≤ y then x else y)
  | .max => intElem w (if x ≤ y then y else x)
  | .cmp => bitElem w (if cmpFn fn (decide (x < y)) (x == y) then 2 ^ w - 1 else 0)
  | .shl => bitElem w (a <<< (b % 2 ^ 32 % w))
  | .shr =>
    let k := b % 2 ^ 32 % w
    bitElem w (if fn = 1 then codeOfInt w (x / 2 ^ k) else a >>> k)
  | .and => bitElem w (a &&& b)
  | .or => bitElem w (a ||| b)
  | .xor => bitElem w (a ^^^ b)
  | .sel => bitElem w ((c &&& a) ||| ((2 ^ w - 1 - c) &&& b))
  | _ => bitElem w a

/-- The smaller or larger of two values; zeros of unlike sign compare equal, and which is taken is not
stated (R71, R206). DESIGN CHOICE: log 26. -/
def pickElem (big : Bool) (a b : Nat) (x y : FVal) : FVal :=
  if x.isNan || y.isNan then .nan false
  else if FVal.lt x y then (if big then y else x)
  else if FVal.lt y x then (if big then x else y)
  else if Config.unstated 3 a b % 2 = 1 then x else y

/-- One float element (R71, R206). -/
def floatOp (op : CuOp) (fmt : Fmt) (fn : Nat) (a b c : Nat) : Elem :=
  let x := decodeFmt fmt a
  let y := decodeFmt fmt b
  match op with
  | .add => floatElem fmt (x.add y)
  | .sub => floatElem fmt (x.add y.neg)
  | .mul => floatElem fmt (x.mul y)
  | .fma => floatElem fmt ((x.mul y).add (decodeFmt fmt c))
  | .min => floatElem fmt (pickElem false a b x y)
  | .max => floatElem fmt (pickElem true a b x y)
  | .cmp =>
    let t := if x.isNan || y.isNan then fn == 1
      else cmpFn fn (FVal.lt x y) (!FVal.lt x y && !FVal.lt y x)
    let k := if t then 2 ^ fmt.width - 1 else 0
    ⟨k, false, decodeFmt fmt k⟩
  | .exp2 => exp2Elem a
  | .log2 => log2Elem a
  | .rcp => rcpElem a
  | .rsq => rsqElem a
  | _ => ⟨a, false, x⟩

/-- The elements of a word from its computed elements, lowest first. -/
def packElems (w : Nat) (l : List Elem) : AluOut :=
  { line := BitVec.ofNat 512 (ofLanes w (l.map (·.code)))
    sats := (l.filter (·.sat)).length
    stats := (List.range l.length).map fun i => (i * w / 32, maxAbs (l.getD i ⟨0, false, .zero⟩).val) }

/-- Adjacent pairs summed, each addition rounded once (R206). -/
def pairSums : List Elem → List Elem
  | a :: b :: r => floatElem .fp32 ((f32 a.code).add (f32 b.code)) :: pairSums r
  | l => l

/-- A float `RSUM`: four levels of pairs; events of every addition count (R206). -/
def floatSum (l : List Nat) : Elem × Nat :=
  let e0 := l.map fun c => (⟨c, false, f32 c⟩ : Elem)
  let e1 := pairSums e0
  let e2 := pairSums e1
  let e3 := pairSums e2
  let e4 := pairSums e3
  (e4.headD ⟨0, false, .zero⟩, ((e1 ++ e2 ++ e3 ++ e4).filter (·.sat)).length)

/-- One element in every lane. -/
def splat (e : Elem) (sats : Nat) : AluOut :=
  { packElems 32 (List.replicate 16 { e with sat := false }) with sats := sats }

/-- `RSUM` and `RMAX` over the 16 lanes (R206). DEDUCED: log 25. -/
def reduceOp (op : CuOp) (fmt : Fmt) (l : List Nat) : AluOut :=
  if op = .rsum then
    if fmt = .fp32 then
      let r := floatSum l
      splat r.1 r.2
    else
      let e := intElem 32 ((l.map (signedOf 32)).sum)
      splat e (b2n e.sat)
  else if fmt = .fp32 then
    splat (floatElem .fp32 (l.tail.foldl (fun v c =>
      pickElem true (encodeFmt .fp32 v).1 c v (f32 c)) (f32 (l.headD 0)))) 0
  else splat (intElem 32 ((l.map (signedOf 32)).foldl max (signedOf 32 (l.headD 0)))) 0

/-- A CU operation on whole words, `CVT` apart (R206, R208). -/
def aluOp (op : CuOp) (fmt : Fmt) (chn fn : Nat) (a b c : Line) : AluOut :=
  let w := elemWidth fmt chn
  let n := 512 / w
  let lane := fun (l : Line) i => laneOf l.toNat w i
  match op with
  | .rsum | .rmax => reduceOp op fmt ((List.range 16).map (lane a))
  | _ =>
    packElems w ((List.range n).map fun i =>
      if fmt.isInt then intOp op fn w (lane a i) (lane b i) (lane c i)
      else floatOp op fmt fn (lane a i) (lane b i) (lane c i))

/-! ### CVT -/

/-- Issues per output word when narrowing, per input word when widening (R207). -/
def cvtRatio (f o : Fmt) : Nat × Nat :=
  if o.slot < f.slot then (f.slot / o.slot, 1)
  else if f.slot < o.slot then (1, o.slot / f.slot) else (1, 1)

/-- One issue converts: the elements of the next part of the word, as codes with their events; `part`
counts the issues since the word was read (R207, R74). -/
def cvtPart (f o : Fmt) (l : Line) (part : Nat) : List Elem :=
  let r := (cvtRatio f o).2
  let n := f.perWord / r
  (List.range n).map fun i =>
    let c := elemCode f l (part % r * n + i)
    let e := convertCode f o c
    ⟨e.1, e.2, decodeFmt f c⟩

end Sys2Proof.Machine
end

