-- ==== Sys2Proof/Machine/Dram.lean ====
section
/-! DEFINITION. The address map (R40 to R46) and the DRAM subsystem (chapter 14): the channel
interleave, the inline ECC, reads and writes of a line, write-back, scrub and refresh. -/

namespace Sys2Proof.Machine

/-- What a device address names (R40, R45). -/
inductive Region where
  | dram
  | cistern (w k off : Nat)
  | weight (w sl dpu off : Nat)
  | scSram (c off : Nat)
  | regs (off : Nat)
  | host (h : Nat)
  | peer (id off : Nat)
  | unmapped
  deriving DecidableEq, Repr

/-- Usable DRAM bytes (R41, R52). -/
def State.dramSize (s : State) : Nat := s.fld rCapMemUsable 0 32 * 2 ^ 20

/-- The on-chip SRAM windows of R45, by offset from 0x1000_0000_0000. -/
def sramRegion (s : State) (o : Nat) : Region :=
  if o < 0x80000000 then
    let w := o / 0x10000000
    let p := o % 0x10000000
    if !s.hasWell w then .unmapped
    else if p < 0x1800000 then
      if p % 0x80000 < 0x60000 then .cistern w (p / 0x80000) (p % 0x80000) else .unmapped
    else if 0x2000000 ≤ p ∧ p < 0x4000000 ∧ p % 0x1000000 < 0x400000 then
      let q := p % 0x1000000
      .weight w (q / 0x100000 + (if p < 0x3000000 then 0 else 4)) (q % 0x100000 / 0x1000)
        (q % 0x1000)
    else .unmapped
  else
    let c := (o - 0x80000000) / 0x1000000
    let p := o % 0x1000000
    if s.hasSc c && (decide (p < 0x200000) || (decide (0x400000 ≤ p) && decide (p < 0x800000))) then
      .scSram c p
    else .unmapped

/-- The address map (R40, R41, R44). -/
def regionOf (s : State) (a : Nat) : Region :=
  if a / 2 ^ 20 < s.fld rCapMemUsable 0 32 ∧ a < 0x2000000000 then .dram
  else if a < 0x100000000000 then .unmapped
  else if a < 0x100100000000 then sramRegion s (a - 0x100000000000)
  else if 0x200000000000 ≤ a ∧ a < 0x200004000000 then .regs (a - 0x200000000000)
  else if 0x300000000000 ≤ a ∧ a < 0x400000000000 then .host (a - 0x300000000000)
  else if 0x400000000000 ≤ a ∧ a < 0x800000000000 ∧ s.fld rCapUnits 16 6 ≠ 0 then
    .peer ((a - 0x400000000000) / 2 ^ 36) (a % 2 ^ 36)
  else .unmapped

/-- Device address of a cistern word (R45). -/
def cisternAddr (w k off : Nat) : Nat := 0x100000000000 + w * 0x10000000 + k * 0x80000 + off
/-- Device address of a weight-bank byte of slice sl (0–3 north, 4–7 south) of well w (R45). -/
def weightAddr (w sl dpu off : Nat) : Nat :=
  0x100000000000 + w * 0x10000000 + (if sl < 4 then 0x2000000 else 0x3000000)
    + (sl % 4) * 0x100000 + dpu * 0x1000 + off

/-! ### Channel interleave -/

/-- Inline ECC is on (R368). -/
def State.eccOn (s : State) : Bool := s.bit rMemCfg 31

/-- The interleave granule in bytes (R367, R380). DEDUCED: log 95. -/
def granule (s : State) : Nat :=
  match s.fld rMemCfg 28 2 with
  | 1 => 1024
  | 2 => 4096
  | _ => 256

/-- Channels in use; at least one, so that the mapping is total. -/
def channels (s : State) : Nat := Nat.max 1 (s.fld rMemCfg 0 6)

/-- Channel and local address of a DRAM data address (R367). -/
def chanOf (s : State) (a : Nat) : Nat × Nat :=
  let g := a / granule s
  (g % channels s, g / channels s * granule s + a % granule s)

/-- The DRAM data address of a channel's local address: the mapping of R367 turned round. -/
def addrOfLocal (s : State) (ch l : Nat) : Nat :=
  (l / granule s * channels s + ch) * granule s + l % granule s

/-- Physical channel address of a local address with ECC on (R369). -/
def physAddr (l : Nat) : Nat :=
  let n := l / 64
  n / 31 * 2048 + n % 31 * 64 + l % 64

/-! ### The code over GF(16) -/

/-- Product in GF(16) with x⁴ + x + 1 (R370). -/
def gfMul (a b : Nat) : Nat :=
  let p := (if b % 2 = 1 then a else 0) ^^^ (if b / 2 % 2 = 1 then 2 * a else 0)
    ^^^ (if b / 4 % 2 = 1 then 4 * a else 0) ^^^ (if b / 8 % 2 = 1 then 8 * a else 0)
  let p := if p / 64 % 2 = 1 then p ^^^ 0x4C else p
  let p := if p / 32 % 2 = 1 then p ^^^ 0x26 else p
  if p / 16 % 2 = 1 then p ^^^ 0x13 else p

/-- Inverse in GF(16): the fourteenth power. -/
def gfInv (a : Nat) : Nat :=
  let a2 := gfMul a a
  let a4 := gfMul a2 a2
  let a8 := gfMul a4 a4
  gfMul a8 (gfMul a4 a2)

/-- Coordinate of the quadric: a² + ab + μb², μ = 8 (R370). -/
def gfQuad (a b : Nat) : Nat := gfMul a a ^^^ gfMul a b ^^^ gfMul 8 (gfMul b b)

/-- Column (1, a, b, q) of data symbol j (R370). -/
def symbolPair (j : Nat) : Nat × Nat :=
  let n := if j ≤ 13 then j + 2 else j + 3
  (n % 16, n / 16)

/-- Check symbols of a line (R371). -/
def encodeLine (l : Line) : BitVec 16 :=
  let z := (List.range 128).foldl
    (fun (t : Nat × Nat × Nat × Nat) j =>
      let d := laneOf l.toNat 4 j
      let p := symbolPair j
      (t.1 ^^^ d, t.2.1 ^^^ gfMul d p.1, t.2.2.1 ^^^ gfMul d p.2,
        t.2.2.2 ^^^ gfMul d (gfQuad p.1 p.2))) (0, 0, 0, 0)
  let c2 := z.2.1
  let c3 := z.2.2.1
  let c1 := z.1 ^^^ z.2.1 ^^^ z.2.2.1
  let c0 := z.2.2.2 ^^^ z.2.1 ^^^ gfMul 8 z.2.2.1
  BitVec.ofNat 16 (c0 + 16 * c1 + 256 * c2 + 4096 * c3)

/-- Outcome of decoding a line (R372). -/
inductive EccResult where
  | ok
  /-- the line after correction -/
  | corrected (l : Line)
  | uncorrectable
  deriving DecidableEq, Repr

/-- Syndrome of a line whose check bits differ from its code by `d`: data symbols cancel, so only
the check symbols of the difference remain (R370, R371). -/
def syndromeOf (d : BitVec 16) : Nat × Nat × Nat × Nat :=
  let e0 := laneOf d.toNat 4 0
  let e1 := laneOf d.toNat 4 1
  let e2 := laneOf d.toNat 4 2
  let e3 := laneOf d.toNat 4 3
  (e1 ^^^ e2 ^^^ e3, e2, e3, e0 ^^^ e2 ^^^ gfMul 8 e3)

/-- Decodes a line (R372). -/
def decodeLine (l : Line) (d : BitVec 16) : EccResult :=
  let s := syndromeOf d
  if d = 0 then .ok
  else if s.1 ≠ 0 then
    let i := gfInv s.1
    let a := gfMul s.2.1 i
    let b := gfMul s.2.2.1 i
    let q := gfMul s.2.2.2 i
    let n := 16 * b + a
    if q ≠ gfQuad a b then
      -- the column of check symbol c1, c2 or c3 also lies on the quadric
      .uncorrectable
    else if n = 0 ∨ n = 1 ∨ n = 16 then .corrected l
    else if n ≤ 130 then
      let j := if n ≤ 15 then n - 2 else n - 3
      .corrected (l ^^^ BitVec.ofNat 512 (s.1 <<< (4 * j)))
    else .uncorrectable
  else if s.2.1 = 0 ∧ s.2.2.1 = 0 then .corrected l
  else .uncorrectable

/-- The poison pattern of R376 as a difference from the correct check bits. -/
def poison : BitVec 16 := 0x0111

/-- Check-bit difference of the line at an address. DESIGN CHOICE: log 7. -/
def State.delta (s : State) (a : Nat) : BitVec 16 := SMap.get (fun _ => 0) s.ecc (a / 64)

/-- Sets a line with a given check-bit difference. -/
def State.putLine (s : State) (a : Nat) (l : Line) (d : BitVec 16) : State :=
  { s with mem := s.mem.setLine (a / 64 * 64) l, ecc := SMap.set (fun _ => 0) s.ecc (a / 64) d }

/-! ### The memory controllers -/

/-- Key of the check line that covers local address l of channel ch (R369). -/
def checkKey (ch l : Nat) : Nat := ch * 2 ^ 32 + l / 64 / 31

/-- A dirty check line is written back: a line written on its channel (R373). -/
def checkOut (s : State) (key : Nat) : State :=
  let ch := key / 2 ^ 32
  let m := s.mc (ch / 4)
  if m.dirty.contains key then
    bwCount (event (s.setMc (ch / 4) { m with dirty := m.dirty.erase key }) 5 ch 2) ch 1
  else s

/-- The check line of channel ch at local address l is looked up; a miss reads it and puts it in the
place of one the cache gives up, which is written back if it is dirty (R373). Which one goes is left open. DESIGN
CHOICE: log 92. -/
def cacheTouch (s : State) (ch l : Nat) : State :=
  let n := ch / 4
  let m := s.mc n
  let key := checkKey ch l
  if m.cache.contains key then s
  else
    let j := Config.pick 0 s.freeCtr % 1024
    let s := bwCount (event (event s 5 ch 3) 5 ch 1) ch 0
    let s := if m.cache.length < 1024 then s else checkOut s (m.cache.getD j 0)
    let m := s.mc n
    let keep := if m.cache.length < 1024 then m.cache else removeAt m.cache j
    (s.setMc n { m with cache := key :: keep }).drawn

/-- A data write updates the cached check line, which is then dirty (R373). -/
def cacheWrite (s : State) (ch l : Nat) : State :=
  let s := cacheTouch s ch l
  let m := s.mc (ch / 4)
  if m.dirty.contains (checkKey ch l) then s
  else s.setMc (ch / 4) { m with dirty := checkKey ch l :: m.dirty }

/-- The check cache of controller n is flushed: its dirty lines are written back and it holds none (R373). -/
def cacheFlush (s : State) (n : Nat) : State :=
  let s := (s.mc n).dirty.foldl checkOut s
  s.setMc n { s.mc n with cache := [], dirty := [] }

/-- Records an error in the controller's registers (R375, R376, R380). -/
def noteError (s : State) (ch a kind : Nat) : State :=
  s.wr (rMcErrAddr (ch / 4))
    (BitVec.ofNat 64 (kind <<< 62 + (ch % 4) <<< 60 + a / 64 * 64 % 2 ^ 48))

/-- A correctable error: counted, logged once per channel and scrub period, and the line queued for
write-back. One in a check symbol stands in the check line, which LINE gives as 0 (R375, R380). DEDUCED: log
93. -/
def noteCorrected (s : State) (ch a : Nat) (inCheck : Bool) : State :=
  let n := ch / 4
  let s := noteError s ch (if inCheck then 0 else a) 0
  let s := (s.addSat (rMcErrCh n (ch % 4)) 16 16 1).setBit (rMcErrCh n (ch % 4)) 0 true
  let m := s.mc n
  let first := !bitAt m.ceLogged (ch % 4)
  let q := if m.wbq.length < 32 && !m.wbq.contains (ch % 4, a / 64) then m.wbq ++ [(ch % 4, a / 64)]
    else m.wbq
  let s := s.setMc n { m with wbq := q, ceLogged := m.ceLogged ||| (1 : BitVec 4) <<< (ch % 4) }
  if first then logOnly s (mkFault stEccCe 5 ch (a / 64 * 64)) else s

/-- An uncorrectable read: counted and logged by the controller (R376). -/
def noteUncorrectable (s : State) (ch a kind : Nat) : State :=
  let s := noteError s ch a kind
  let s := (s.addSat (rMcErrCh (ch / 4) (ch % 4)) 8 8 1).setBit (rMcErrCh (ch / 4) (ch % 4)) 1 true
  logOnly s (mkFault stEccUe 5 ch (a / 64 * 64))

/-- The line a reader gets, whether it is uncorrectable, and the state after (R372 to R377). `count`
is false for the read of a write-back, which does not count its correctable error again. -/
def dramRead (s : State) (a : Nat) (count : Bool := true) : Line × Bool × State :=
  let c := chanOf s (a / 64 * 64)
  let l := s.mem.line (a / 64 * 64)
  let s := bwCount (event s 5 c.1 1) c.1 0
  if s.eccOn then
    let s := cacheTouch s c.1 c.2
    match decodeLine l (s.delta a) with
    | .ok => (l, false, s)
    | .corrected l' => (l', false, if count then noteCorrected s c.1 a (l' == l) else s)
    | .uncorrectable => (l, true, noteUncorrectable s c.1 a 1)
  else (l, false, s)

/-- A line with the bytes of a mask replaced. -/
def mergeLine (old new : Line) (mask : BitVec 64) : Line :=
  BitVec.ofNat 512 (leNat ((List.range 64).map fun i =>
    BitVec.ofNat 8 (laneOf (if bitAt mask i then new.toNat else old.toNat) 8 i)))

/-- All bytes of a bucket. -/
def fullMask : BitVec 64 := 0xFFFFFFFFFFFFFFFF

/-- A write bucket: a whole line is encoded from its own data; a partial mask is an atomic
read-modify-write that poisons a line it cannot correct (R374, R376, R377). -/
def dramWrite (s : State) (a : Nat) (new : Line) (mask : BitVec 64) : State :=
  let c := chanOf s (a / 64 * 64)
  if mask = fullMask then
    let s := if s.eccOn then cacheWrite s c.1 c.2 else s
    bwCount (event (s.putLine a new 0) 5 c.1 2) c.1 1
  else if s.eccOn then
    let r := dramRead s a
    let s := event (cacheWrite r.2.2 c.1 c.2) 5 c.1 4
    let s := if r.2.1 then (noteError (s.putLine a (mergeLine r.1 new mask) poison) c.1 a 2)
      else s.putLine a (mergeLine r.1 new mask) 0
    bwCount (event s 5 c.1 2) c.1 1
  else
    let s := event s 5 c.1 4
    bwCount (event (s.putLine a (mergeLine (s.mem.line (a / 64 * 64)) new mask) 0) 5 c.1 2) c.1 1

/-- `CE_WRITEBACK`: the oldest queued line is read, merged with nothing and written back, atomically;
its own read is not counted again (R374, R375). -/
def execCeWriteback (n : Fin 8) (s : State) : Out := clocked s <|
  let m := s.mc n.val
  match m.wbq with
  | [] => .next s
  | (c, line) :: rest =>
    let s := s.setMc n.val { m with wbq := rest }
    let r := dramRead s (line * 64) false
    let ch := 4 * n.val + c
    let s := event (cacheWrite r.2.2 ch (chanOf s (line * 64)).2) 5 ch 4
    let s := if r.2.1 then noteError (s.putLine (line * 64) r.1 poison) ch (line * 64) 2
      else s.putLine (line * 64) r.1 0
    .next (bwCount (event s 5 ch 2) ch 1)

/-- Bytes fitted on one channel (R51, R364). -/
def channelBytes (s : State) : Nat := s.fld rCapMem 20 4 * 2 ^ 30

/-- The scrub counter moves on; at the end of a pass `PASSES` and `PASS_DONE` follow and the next
scrub period begins (R375, R378). DEDUCED: log 94. -/
def scrubAdvance (s : State) (n : Nat) : State :=
  let m := s.mc n
  if m.scrubPos + 1 < channelBytes s / 64 * 4 then s.setMc n { m with scrubPos := m.scrubPos + 1 }
  else
    let s := s.setMc n { m with scrubPos := 0, ceLogged := 0 }
    (s.addWrap (rMcScrub n) 0 16).setBit (rMcScrub n) 30 true

/-- `PATROL_SCRUB_READ`: the next line of the pass is read, check lines included; an uncorrectable
line is logged and left as it is (R376, R378). Nothing happens with ECC off or scrubbing disabled. -/
def execPatrolScrubRead (n : Fin 8) (s : State) : Out := clocked s <|
  if s.eccOn && s.bit (rMcScrub n.val) 31 && s.bit (rMcStatus n.val) 31
      && !s.bit (rMcStatus n.val) 30 then
    let per := Nat.max 1 (channelBytes s / 64)
    let pos := (s.mc n.val).scrubPos
    let ch := 4 * n.val + pos / per
    let pl := pos % per
    -- a check line has no check bits of its own and decodes with the lines it covers
    let s := if pl % 32 = 31 then bwCount (event s 5 ch 1) ch 0
      else (dramRead s (addrOfLocal s ch ((pl / 32 * 31 + pl % 32) * 64))).2.2
    .next (scrubAdvance s n.val)
  else .next s

/-- `REFRESH`: one per-bank refresh command at the rate MR4 reports; it changes no data (R379). -/
def execRefresh (n : Fin 8) (ch : Fin 4) (_bank : Fin 16) (hot : Bool) (s : State) : Out := clocked s <|
  if s.bit (rMcStatus n.val) 31 && !s.bit (rMcStatus n.val) 30 then
    let m := s.mc n.val
    let one : BitVec 4 := (1 : BitVec 4) <<< ch.val
    let h := if hot then m.hot ||| one else m.hot &&& ~~~one
    let s := s.setMc n.val { m with hot := h }
    let s := s.setBit (rMcStatus n.val) 28 (h != 0)
    .next (event s 5 (4 * n.val + ch.val) 5)
  else .next s

end Sys2Proof.Machine
end

