-- ==== Sys2Proof/Machine/Links.lean ====
section
/-! DEFINITION. The chip links below the streams (R381 to R393): ports, flits and retry, packets and
routing, membership and routes. -/

namespace Sys2Proof.Machine

/-! ### TRIM and HOLDOVER of the time base (R406, R411) -/

/-- Greatest magnitude of TRIM, and of the slew beyond it: 200 ppm in units of 2⁻³² (R406, R410). -/
abbrev trimMax : Int := 858993

/-- A value held within bounds. -/
def clampInt (lo hi v : Int) : Int := if v < lo then lo else if hi < v then hi else v

/-- TRIM as a signed number (R406). -/
def trimOf (s : State) : Int := signedOf 32 (s.fld rTbTrim 0 32)
/-- Sets TRIM, clamped (R406, R421). -/
def setTrim (s : State) (t : Int) : State :=
  s.setFld rTbTrim 0 32 (codeOfInt 32 (clampInt (-trimMax) trimMax t))

/-- The mean of the last TRIM updates (R411). -/
def trimMean (s : State) : Int :=
  if s.tb.trims.isEmpty then trimOf s else s.tb.trims.sum / (s.tb.trims.length : Int)

/-- The time base enters HOLDOVER: TRIM stays at the mean of its last 16 updates, and an exchange in progress is
dropped (R411). -/
def enterHoldover (s : State) : State :=
  let s := setTrim (s.setFld rTbStatus 29 3 3) (trimMean s)
  { s with tb := { s.tb with exch := none } }

/-- Port states (R403). -/
abbrev lkDown : Nat := 0
abbrev lkTraining : Nat := 1
abbrev lkUp : Nat := 2
abbrev lkAttached : Nat := 3
abbrev lkIsolated : Nat := 4

/-- State of port n. -/
def portState (s : State) (n : Nat) : Nat := s.fld (rLkStatus n) 29 3
/-- Sets the state of port n. -/
def setPortState (s : State) (n x : Nat) : State := s.setFld (rLkStatus n) 29 3 x
/-- The port carries flits. -/
def portLive (s : State) (n : Nat) : Bool := s.hasLink n && decide (2 ≤ portState s n)
/-- Membership state (R392): 0 ALONE, 1 JOINING, 2 MEMBER, 3 LEAVING. -/
def dstate (s : State) : Nat := s.fld rLkEpoch 29 3
/-- This device's id. -/
def ownId (s : State) : Nat := s.fld rLkId 0 10
/-- Device i is a member (R405). -/
def isMember (s : State) (i : Nat) : Bool := s.bit (rLkMember (i / 64)) (i % 64)
/-- Sets device i's membership bit. -/
def setMember (s : State) (i : Nat) (b : Bool) : State := s.setBit (rLkMember (i / 64)) (i % 64) b
/-- The route to device i: 0–5 a port, 6 local, 7 none (R405). -/
def routeTo (s : State) (i : Nat) : Nat := s.fld (rLkRt i) 0 3

/-! ### Packets and flits -/

/-- Header word DW0 (R386). -/
def packetDw0 (p : Packet) : Nat :=
  p.kind.toNat + b2n p.vc * 2 ^ 4 + p.dst.toNat * 2 ^ 5 + p.src.toNat * 2 ^ 15
    + (p.data.length % 64) * 2 ^ 25

/-- A packet as slots: the header slot, then its data slots (R386). -/
def packetSlots (p : Packet) : List Line :=
  BitVec.ofNat 512 (packetDw0 p + p.dw1.toNat <<< 64 + p.dw2.toNat <<< 128 + p.dw3.toNat <<< 192
    + p.dw4.toNat <<< 256) :: p.data

/-- The packet at the head of a slot list, if it is whole, and the slots after it (R386). -/
def parsePacket (l : List Line) : Option (Packet × List Line) :=
  match l with
  | [] => none
  | h :: r =>
    let d := bits h 0 64
    let len := (d >>> 25) % 64
    if r.length < len then none
    else some (⟨BitVec.ofNat 4 d, (d >>> 4) % 2 == 1, BitVec.ofNat 10 (d >>> 5),
      BitVec.ofNat 10 (d >>> 15), BitVec.ofNat 64 (bits h 64 64), BitVec.ofNat 64 (bits h 128 64),
      BitVec.ofNat 64 (bits h 192 64), BitVec.ofNat 64 (bits h 256 64), r.take len⟩, r.drop len)

/-- Every whole packet at the head of a slot list; `fuel` bounds their number. -/
def parsePackets : Nat → List Line → List Packet × List Line
  | 0, l => ([], l)
  | n + 1, l =>
    match parsePacket l with
    | none => ([], l)
    | some (p, r) =>
      let q := parsePackets n r
      (p :: q.1, q.2)

/-- Packets that have the credit they need move into the slot stream (R387). DEDUCED: log 97. -/
def takeCredit (x : LinkPort) : Nat → LinkPort
  | 0 => x
  | n + 1 =>
    match x.txq with
    | [] => x
    | p :: r =>
      let need := 1 + p.data.length
      if p.vc then
        if need ≤ x.credit1 then
          takeCredit { x with txq := r, credit1 := x.credit1 - need, slots := x.slots ++ packetSlots p } n
        else x
      else if need ≤ x.credit0 then
        takeCredit { x with txq := r, credit0 := x.credit0 - need, slots := x.slots ++ packetSlots p } n
      else x

/-- The 5,140 bits of a flit: CTL with KIND, SEQ and ACK above ten slots (R383). -/
def flitBits (kind seq ack : Nat) (slots : List Line) : BitVec 5140 :=
  BitVec.ofNat 5140 (ofLanes 512 ((slots.take 10).map (·.toNat))
    + ((kind % 4) <<< 18 + (seq % 512) <<< 9 + ack % 512) <<< 5120)

/-- A flit goes out on port n, with the last data flit received in order as its ACK (R383). -/
def putFlit (s : State) (n kind seq : Nat) (slots : List Line) : State :=
  let x := s.port n
  s.setPort n { x with wire := x.wire ++ [flitBits kind seq x.rxAck slots] }

/-- An idle flit: it carries an ACK (R383, R384). -/
def putIdle (s : State) (n : Nat) : State := putFlit s n 1 0 []

/-- Of the slots after the first n, how many continue a packet begun before, when the first c of all do. -/
def cutAfter (l : List Line) (n : Nat) : Nat → Nat → Nat
  | 0, c => c - n
  | k + 1, c =>
    if n ≤ c then c - n
    else match l[c]? with
      | none => 0
      | some h => cutAfter l n k (c + 1 + bits h 25 6)

/-- Forms data flits of up to ten slots while the retry buffer has room; an idle flit when it is full (R383,
R384). -/
def formFlits (s : State) (n : Nat) : Nat → State
  | 0 => s
  | k + 1 =>
    let x := s.port n
    if x.slots.isEmpty then s
    else if 256 ≤ x.retry.length then putIdle s n
    else
      let f := x.slots.take 10
      let s := s.setPort n { x with
        slots := x.slots.drop 10
        cut := cutAfter x.slots f.length f.length x.cut
        retry := x.retry ++ [(x.txSeq, f)]
        ackDt := if x.retry.isEmpty then s.clk else x.ackDt
        txSeq := (x.txSeq + 1) % 512 }
      let s := (List.range f.length).foldl (fun s _ => bwCount s (34 + n) 1) (putFlit s n 0 x.txSeq f)
      formFlits (event s 6 n 1) n k

/-- Sends what a port can send now. -/
def runPort (s : State) (n : Nat) : State :=
  if portLive s n then
    let x := s.port n
    let s := s.setPort n (takeCredit x x.txq.length)
    formFlits s n ((s.port n).slots.length + 1)
  else s

/-- Hands a packet to an output port (R387). -/
def sendPacket (s : State) (n : Nat) (p : Packet) : State :=
  let x := s.port n
  runPort (s.setPort n { x with txq := x.txq ++ [p] }) n

/-- A packet from this device to device i by its route, on VC0, or on VC1 where it leaves through a dateline;
without a route it is discarded (R388). -/
def sendTo (s : State) (i : Nat) (p : Packet) : State :=
  let r := routeTo s i
  if r < 6 then sendPacket s r { p with vc := s.bit (rLkCfg r) 30 } else s

/-- A hop-local packet of the given kind (R386). -/
def hopPacket (s : State) (kind : Nat) (dw1 dw2 dw3 dw4 : Nat) : Packet :=
  ⟨BitVec.ofNat 4 kind, false, 0, BitVec.ofNat 10 (ownId s), BitVec.ofNat 64 dw1,
    BitVec.ofNat 64 dw2, BitVec.ofNat 64 dw3, BitVec.ofNat 64 dw4, []⟩

/-- Variant number of a HELLO: `CAP_ID.PART`. DESIGN CHOICE: log 96. -/
def helloPacket (s : State) (n : Nat) : Packet :=
  hopPacket s 8 (ownId s + n <<< 10 + s.fld rCapId 16 8 <<< 13 + s.fld rLkEpoch 0 16 <<< 21)
    (s.rd rSecSerial).toNat 0 0

/-! ### Membership and routes -/

/-- This device's neighbours by direction code, over its ATTACHED ports (R391). -/
def ownNbrs (s : State) : List (Nat × BitVec 10) :=
  match s.lk.topo with
  | none => []
  | some t =>
    (List.range t.ports.length).filterMap fun c =>
      match t.ports.getD c none with
      | none => none
      | some p => if portState s p.val = lkAttached then some (c, BitVec.ofNat 10 (s.fld (rLkPeer p.val) 6 10))
        else none

/-- Neighbour of device x in direction c. -/
def nbrOf (st : SMap LinkState) (x c : Nat) : Option Nat :=
  match st.find? fun e => e.1 == x with
  | none => none
  | some e => (e.2.nbrs.find? fun q => q.1 == c).map fun q => q.2.toNat

/-- The device m links away from x in direction c, when every link of the way is up. DEDUCED: log 98. -/
def walk (st : SMap LinkState) (x c : Nat) : Nat → Option Nat
  | 0 => some x
  | m + 1 =>
    match nbrOf st x c with
    | none => none
    | some y => walk st y c m

/-- Coordinates one link away in direction c. -/
def stepCoord (t : Topology) (co : List Nat) (c : Nat) : List Nat :=
  let d := c / 2
  let n := Nat.max 1 (t.sizes.getD d 1)
  let v := co.getD d 0
  co.set d (if c % 2 = 1 then (if t.wrap then (v + 1) % n else v + 1)
    else if t.wrap then (v + n - 1) % n else v - 1)

/-- Coordinates of every device reached, found by walking the graph outwards. -/
def spreadCoords (t : Topology) (st : SMap LinkState) : Nat → List (Nat × List Nat) →
    List (Nat × List Nat)
  | 0, known => known
  | n + 1, known =>
    let more := known.flatMap fun e =>
      match st.find? fun q => q.1 == e.1 with
      | none => []
      | some q => q.2.nbrs.map fun b => (b.2.toNat, stepCoord t e.2 b.1)
    spreadCoords t st n (more.foldl
      (fun k e => if k.any (fun q => q.1 == e.1) then k else k ++ [e]) known)

/-- Directions in which dimension d can be travelled by the remaining difference, with their link
counts, descending direction first. -/
def dirsOf (t : Topology) (d here there : Nat) : List (Nat × Nat) :=
  let n := Nat.max 1 (t.sizes.getD d 1)
  if t.wrap then [(2 * d, (here + n - there % n) % n), (2 * d + 1, (there + n - here % n) % n)]
  else if there < here then [(2 * d, here - there)] else [(2 * d + 1, there - here)]

/-- Number of the port that serves a direction; 7 where none does. -/
def portOf (t : Topology) (c : Nat) : Nat :=
  match t.ports.getD c none with
  | some p => p.val
  | none => 7

/-- The shorter direction whose links are all up, the lower port on a tie (R391): its code, and the
device at its end. -/
def chooseDir (t : Topology) (st : SMap LinkState) (x d here there : Nat) : Option (Nat × Nat) :=
  let ok := (dirsOf t d here there).filterMap fun q =>
    (walk st x q.1 q.2).map fun y => (q.1, q.2, y)
  match ok with
  | [] => none
  | [a] => some (a.1, a.2.2)
  | a :: b :: _ =>
    if b.2.1 < a.2.1 || (b.2.1 == a.2.1 && portOf t b.1 < portOf t a.1) then some (b.1, b.2.2)
    else some (a.1, a.2.2)

/-- The dimension-ordered way from x: the first direction taken, if every dimension can be
travelled. `dims` lists the dimensions still to go. -/
def dimRoute (t : Topology) (st : SMap LinkState) (src dst : List Nat) (x : Nat) :
    List Nat → Option (Option Nat)
  | [] => some none
  | d :: r =>
    if src.getD d 0 = dst.getD d 0 then dimRoute t st src dst x r
    else
      match chooseDir t st x d (src.getD d 0) (dst.getD d 0) with
      | none => none
      | some (c, y) =>
        match dimRoute t st src dst y r with
        | none => none
        | some _ => some (some c)

/-- Devices of the system (R14). -/
def maxDevices : Nat := 1024

/-- The routes of R391, for the devices whose state is known; every other is unreachable. -/
def computeRoutes (s : State) : List (Nat × Nat) :=
  match s.lk.topo with
  | none => []
  | some t =>
    let st := s.lk.states
    let known := spreadCoords t st (st.length + 1) [(ownId s, t.coords)]
    known.map fun e =>
      if e.1 = ownId s then (e.1, 6)
      else match dimRoute t st t.coords e.2 (ownId s) (List.range t.sizes.length) with
        | some (some c) => (e.1, portOf t c)
        | _ => (e.1, 7)

/-- A member under LINK that is not the wellhead has no route to it (R411, R413). -/
def parentLost (s : State) : Bool :=
  s.fld rTbCtrl 30 2 == 2 && dstate s == 2 && ownId s != s.fld rTbCtrl 16 10 && routeTo s (s.fld rTbCtrl 16 10) == 7

/-- Writes the route table; each table change increments `EPOCH` (R391). Members without a route are
noted with the time they lost it (R393). -/
def installRoutes (s : State) : State :=
  let rs := computeRoutes s
  let new := fun i => ((rs.find? fun e => e.1 == i).map fun e => e.2).getD 7
  let ids := (List.range maxDevices).filter fun i => routeTo s i != new i
  let s := ids.foldl (fun s i => s.setFld (rLkRt i) 0 3 (new i)) s
  let s := if ids.isEmpty then s else s.addWrap rLkEpoch 0 16
  let gone := (List.range maxDevices).filter fun i => isMember s i && routeTo s i == 7
  let nr := (s.lk.noRoute.filter fun e => gone.contains e.1)
  let nr := gone.foldl (fun (m : SMap Nat) i =>
    if m.any (fun e => e.1 == i) then m else SMap.set (fun _ => 0) m i (s.clk + 1)) nr
  let s := { s with lk := { s.lk with noRoute := nr } }
  -- a member whose parent route is gone is in HOLDOVER at once (R411, R413)
  if parentLost s && s.fld rTbStatus 29 3 != 3 then enterHoldover s else s

/-- Sends a link-state update on every ATTACHED port but one (R391). -/
def floodState (s : State) (u : LinkState) (not_ : Option Nat) : State :=
  (List.range 6).foldl (fun s n =>
    if portState s n = lkAttached && some n != not_ then
      sendPacket s n (hopPacket s 8 (u.origin.toNat + b2n u.leave <<< 10 + 1 <<< 11) u.serial.toNat
        u.seq.toNat 0)
    else s) s

/-- Stores a link state. -/
def storeState (s : State) (u : LinkState) : State :=
  { s with lk := { s.lk with
    states := SMap.set (fun _ => ⟨0, 0, 0, [], false⟩) s.lk.states u.origin.toNat u
    serials := SMap.set (fun _ => 0) s.lk.serials u.origin.toNat u.serial } }

/-- The device's own link state changes: a new update is stored, flooded, and the routes follow while
it is a member (R391, R392). -/
def ownUpdate (s : State) (leave : Bool) : State :=
  let q := s.lk.ownSeq + 1
  let u : LinkState := ⟨BitVec.ofNat 10 (ownId s), BitVec.ofNat 32 q, s.rd rSecSerial, ownNbrs s, leave⟩
  let s := storeState { s with lk := { s.lk with ownSeq := q } } u
  let s := floodState s u none
  if dstate s = 2 then installRoutes s else s

/-- A port goes DOWN: the flits of its retry buffer are lost, and with them the packets they cut in two. Packets
not begun wait for the port again, packets received stay (R385). DEDUCED: log 168. -/
def portClose (s : State) (n : Nat) : State :=
  let was := portState s n
  let x := s.port n
  let whole := (parsePackets x.slots.length (x.slots.drop x.cut)).1
  let s := s.setPort n { x with retry := [], slots := [], cut := 0, rxSlots := [], txq := whole ++ x.txq }
  let s := setPortState s n lkDown
  if was = lkAttached && dstate s != 0 then ownUpdate s false else s

/-- A port goes DOWN by itself, with a LINK_DOWN entry (R385). -/
def portDown (s : State) (n : Nat) : State := portClose (logOnly s (mkFault stLinkDown 6 n)) n

/-! ### Commands -/

/-- A write of `LK_CFG`: setting EN makes the MP train the port, clearing it takes it down (R382).
DEDUCED: log 99. -/
def linkCfgWrite (s : State) (n : Nat) (v : W64) : State :=
  if s.hasLink n then
    let s := s.plainWrite (rLkCfg n) v
    if s.bit (rLkCfg n) 31 then (if portState s n = lkDown then setPortState s n lkTraining else s)
    else if portState s n = lkDown then s else portClose s n
  else s

/-- `LINK_ENABLE` (R382). -/
def execLinkEnable (n : Fin 6) (v : W32) (s : State) : Out := clocked s <|
  .next (linkCfgWrite s n.val (v.setWidth 64))

/-- `LINK_TRAINED`: eight lanes, or either half when `ALLOW_X4` is set; a port that trains at neither
width is DOWN (R381, R382). A port that reaches UP starts its sequence numbers and credits anew and
sends its HELLO (R390). -/
def execLinkTrained (n : Fin 6) (lanes : BitVec 8) (s : State) : Out := clocked s <|
  let i := n.val
  if s.hasLink i && s.bit (rLkCfg i) 31 && portState s i == lkTraining then
    let x4 := lanes == 0x0F || lanes == 0xF0
    if lanes == 0xFF || (x4 && s.bit (rLkCfg i) 27) then
      let s := (s.setFld (rLkStatus i) 20 8 lanes.toNat).setBit (rLkStatus i) 28 x4
      let s := setPortState s i lkUp
      let x := s.port i
      let s := s.setPort i { LinkPort.reset with
        stat := x.stat, escLive := x.escLive, escSnap := x.escSnap, blocks := x.blocks, statSel := x.statSel
        txq := x.txq, rx := x.rx, wire := x.wire }
      .next (if dstate s = 0 then s else sendPacket s i (helloPacket s i))
    else .next (setPortState s i lkDown)
  else .next s

/-- `LINK_TRAIN_RETRY`: an enabled port that is DOWN trains again (R382). -/
def execLinkTrainRetry (n : Fin 6) (s : State) : Out := clocked s <|
  if s.hasLink n.val && s.bit (rLkCfg n.val) 31 && portState s n.val == lkDown then
    .next (setPortState s n.val lkTraining)
  else .next s

/-- An acknowledgement frees the flits up to the named one (R383, R384). -/
def ackTo (s : State) (n ack : Nat) : State :=
  let x := s.port n
  match x.retry.findIdx? fun e => e.1 == ack with
  | none => s
  | some i => runPort (s.setPort n { x with retry := x.retry.drop (i + 1), ackDt := s.clk }) n

/-- A NAK: the sender resends from the named flit; sixteen in a row for one SEQ take the port down
(R384, R385). -/
def nakAt (s : State) (n seq : Nat) : State :=
  let x := s.port n
  let run := if x.nakSeq = seq ∧ x.nakRun ≠ 0 then x.nakRun + 1 else 1
  let s := s.setPort n { x with nakSeq := seq, nakRun := run }
  let s := s.addSat (rLkRetry n) 16 16 1
  let s := if s.fld (rLkRetry n) 0 8 < run then s.setFld (rLkRetry n) 0 8 run else s
  if 16 ≤ run then portDown s n
  else
    match x.retry.findIdx? fun e => e.1 == seq with
    | none => s
    | some i => (x.retry.drop i).foldl (fun s f => event (putFlit s n 0 f.1 f.2) 6 n 2) s

/-- The expected flit has not come: one NAK flit names it. `again` says that another goes out although one has
been sent: the resent flit may be the one that failed (R384, R385). DEDUCED: log 168. -/
def sendNak (s : State) (n : Nat) (again : Bool) : State :=
  let x := s.port n
  if x.nakSent && !again then s
  else putFlit (s.setPort n { x with nakSent := true }) n 2 0 [BitVec.ofNat 512 x.rxExp]

/-- Hop credits go back for n slots that have left the input buffer of a VC (R383, R387). DEDUCED: log 97. -/
def putCredit (s : State) (i : Nat) (vc : Bool) (n : Nat) : State :=
  putFlit s i 3 0 [BitVec.ofNat 512 (if vc then n <<< 8 else n)]

/-- A data flit: the expected one is delivered and its packets wait in the input buffer, any other is discarded with
one NAK (R384, R386). -/
def flitData (s : State) (i : Nat) (f : Flit) : State :=
  let x := s.port i
  if f.seq.toNat = x.rxExp then
    let p := parsePackets (x.rxSlots.length + f.slots.length) (x.rxSlots ++ f.slots)
    let s := s.setPort i { x with
      rxExp := (x.rxExp + 1) % 512, rxAck := x.rxExp, nakSent := false
      rx := x.rx ++ p.1, rxSlots := p.2 }
    (List.range f.slots.length).foldl (fun s _ => bwCount s (34 + i) 0) (putIdle s i)
  else sendNak s i false

/-- A credit flit returns what it carries, and packets that waited go out (R387). -/
def flitCredit (s : State) (i : Nat) (f : Flit) : State :=
  let x := s.port i
  let h := f.slots.headD 0
  runPort (s.setPort i { x with
    credit0 := Nat.min 64 (x.credit0 + bits h 0 7)
    credit1 := Nat.min 64 (x.credit1 + bits h 8 7) }) i

/-- A flit has arrived at live port i: an uncorrectable codeword is discarded with one NAK, and any other does what
its kind says (R383, R384). -/
def flitTaken (s : State) (i : Nat) (f : Flit) : State :=
  if f.uncorrectable then sendNak (s.addSat (rLkFec i) 0 32 1) i true
  else
    let s := if f.corrected then s.addSat (rLkFec i) 32 32 1 else s
    let s := ackTo s i f.ack.toNat
    match f.kind.toNat with
    | 0 => flitData s i f
    | 1 => s
    | 2 => nakAt s i (bits (f.slots.headD 0) 0 9)
    | _ => flitCredit s i f

/-- `NAK_RECEIVE` (R384). -/
def execNakReceive (n : Fin 6) (seq : BitVec 9) (s : State) : Out := clocked s <|
  if portLive s n.val then .next (nakAt s n.val seq.toNat) else .next s

/-- `LINK_ACK_TIMEOUT`: no ACK has advanced for 20 µs while data flits are unacknowledged (R385). -/
def execLinkAckTimeout (n : Fin 6) (s : State) : Out := clocked s <|
  let x := s.port n.val
  if portLive s n.val && !x.retry.isEmpty && decide (x.ackDt + 20000 ≤ s.clk) then
    .next (portDown s n.val)
  else .next s

/-- `LINK_LOCK_LOSS` (R385). -/
def execLinkLockLoss (n : Fin 6) (s : State) : Out := clocked s <|
  if portLive s n.val then .next (portDown s n.val) else .next s

/-- A packet discarded where it stands is counted (R386). -/
def dropPacket (s : State) (n : Nat) : State := s.addSat (rLkStatus n) 0 16 1

/-- `PACKET_FORWARD`: the packet leaves the input buffer of port n and goes out through the routed
port with its VC updated, or is delivered here, or is discarded (R386, R388). Delivery hands it to
the unit whose arrival command follows. DEDUCED: log 102. -/
def execPacketForward (n : Fin 6) (pk : Packet) (s : State) : Out := clocked s <|
  let i := n.val
  if portLive s i then
    let x := s.port i
    let s := match x.rx with
      | p :: r =>
        if p = pk then putCredit (s.setPort i { x with rx := r }) i pk.vc (1 + pk.data.length) else s
      | [] => s
    let k := pk.kind.toNat
    let r := routeTo s pk.dst.toNat
    if k = 0 ∨ 9 < k then .next (dropPacket s i)
    else if portState s i = lkIsolated ∧ k ≠ 8 then .next (dropPacket s i)
    else if k = 8 ∨ k = 9 then .next s
    else if r = 6 then .next s
    else if r < 6 then
      let vc := if s.fld (rLkCfg r) 28 2 ≠ s.fld (rLkCfg i) 28 2 then false else pk.vc
      let vc := if s.bit (rLkCfg r) 30 then true else vc
      .next (sendPacket s r { pk with vc := vc })
    else .next (dropPacket s i)
  else .next s

/-- `MEMB_HELLO`: the port becomes ATTACHED, or ISOLATED when the partner bears this device's id or a
known id with another serial (R390). -/
def execMembHello (n : Fin 6) (h : Hello) (s : State) : Out := clocked s <|
  let i := n.val
  if s.hasLink i && (portState s i == lkUp || portState s i == lkAttached) then
    let known := s.lk.serials.find? fun e => e.1 == h.id.toNat
    let clash := (s.bit rLkId 31 && h.id.toNat == ownId s)
      || (isMember s h.id.toNat && (match known with
          | some e => e.2 != h.serial
          | none => false))
    if clash then .next (logOnly (setPortState s i lkIsolated) (mkFault stLinkDown 6 i))
    else
      let s := setPortState s i lkAttached
      let s := s.wr (rLkPeer i) (BitVec.ofNat 64 (h.id.toNat <<< 6 + h.port.toNat))
      let s := s.wr (rLkPeerSerial i) h.serial
      .next (if dstate s = 0 then s else ownUpdate s false)
  else .next s

/-- `MEMB_UPDATE`: an update not seen before is stored, forwarded once, and the routes are recomputed
(R391, R392, R393). -/
def execMembUpdate (n : Fin 6) (u : LinkState) (s : State) : Out := clocked s <|
  let o := u.origin.toNat
  let old := s.lk.states.find? fun e => e.1 == o
  let fresh := match old with
    | some e => decide (e.2.seq.toNat < u.seq.toNat)
    | none => true
  if portState s n.val == lkAttached && fresh && o != ownId s then
    let s := storeState s u
    let s := floodState s u (some n.val)
    let s := if u.leave then { s with lk := { s.lk with left := s.lk.left ++ [o] } }
      else setMember { s with lk := { s.lk with left := s.lk.left.filter (· != o) } } o true
    .next (if dstate s = 2 then installRoutes s else s)
  else .next s

/-- `JOIN_ACK`: a peer has acknowledged a joining device's link state (R392). DEDUCED: log 101. -/
def execJoinAck (s : State) : Out := clocked s <|
  if dstate s = 1 && (List.range 6).any (fun n => portState s n == lkAttached) then
    let s := setMember s (ownId s) true
    .next (installRoutes (s.setFld rLkEpoch 29 3 2))
  else .next s

end Sys2Proof.Machine
end

