-- ==== Sys2Proof/Machine/Time.lean ====
section
/-! DEFINITION. Device time (chapter 16): the counter, its discipline, distribution over links, PPS
and TSYNC, and the trigger channels. -/

namespace Sys2Proof.Machine

/-- One cycle of the 1 GHz count clock: DT moves on by 1 + TRIM · 2⁻³² ns, and what is left of a slew
by up to 200 ppm more (R406, R410). -/
def tbTick (s : State) : State :=
  let d := clampInt (-trimMax) trimMax s.tb.slew
  let inc : Int := 2 ^ 32 + trimOf s + d
  { s with tb := { s.tb with dt := s.tb.dt + inc.toNat, clk := s.tb.clk + 1, slew := s.tb.slew - d } }

/-! ### Triggers -/

/-- Device time of edge j of channel k, rounded to the nearest ns (R418). -/
def edgeDt (s : State) (k j : Nat) : Nat :=
  (s.rd (rTbTrgStart k)).toNat + (j * (s.rd (rTbTrgPeriod k)).toNat + 2 ^ 15) / 2 ^ 16

/-- Index of the first edge at or after device time d (R419); with a period of zero every edge stands
at START. -/
def firstEdge (s : State) (k d : Nat) : Nat :=
  let st := (s.rd (rTbTrgStart k)).toNat
  let p := (s.rd (rTbTrgPeriod k)).toNat
  if d ≤ st then 0
  else if p = 0 then s.fld (rTbTrgCtrl k) 0 16
  else ((d - st) * 2 ^ 16 - 2 ^ 15 + p - 1) / p

/-- The sequence of channel k goes on at index j; after the last edge ARM clears (R418, R421). -/
def trigAdvance (s : State) (k j : Nat) : State :=
  let s := { s with tb := s.tb.setTrig k { s.tb.trig k with next := j } }
  let c := s.fld (rTbTrgCtrl k) 0 16
  if c ≠ 0 ∧ c ≤ j then s.setBit (rTbTrgCtrl k) 31 false else s

/-- Edges of channel k that device time d has passed are skipped and counted (R419). -/
def trigSkip (s : State) (k d : Nat) : State :=
  let j := (s.tb.trig k).next
  let c := s.fld (rTbTrgCtrl k) 0 16
  let n := firstEdge s k d
  let n := if c ≠ 0 ∧ c < n then c else n
  if j < n then trigAdvance (s.addSat (rTbTrgStatus k) 16 16 (n - j)) k n else s

/-- A write of `TB_TRG_CTRL_k`: arming starts the sequence at edge 0 and skips what has passed; a
channel already armed keeps its WIDTH and its index (R418 to R421). -/
def trgCtrlWrite (s : State) (k : Nat) (v : W64) : State :=
  let armed := s.bit (rTbTrgCtrl k) 31
  let width := if armed then s.fld (rTbTrgCtrl k) 16 15 else bits v 16 15
  let s := s.wr (rTbTrgCtrl k)
    (BitVec.ofNat 64 (b2n (bitAt v 31) <<< 31 + width <<< 16 + bits v 0 16))
  if !armed && bitAt v 31 then
    trigSkip { s with tb := s.tb.setTrig k { s.tb.trig k with next := 0 } } k s.dt
  else s

/-- `TRIGGER_ARM` (R418). -/
def execTriggerArm (k : Fin 8) (v : W32) (s : State) : Out := clocked s <|
  .next (trgCtrlWrite s k.val (v.setWidth 64))

/-- `TRIGGER_EDGE`: device time has reached the next edge of an armed channel; its output goes high
for WIDTH ns (R418). -/
def execTriggerEdge (k : Fin 8) (s : State) : Out := clocked s <|
  let i := k.val
  let t := s.tb.trig i
  if s.bit (rTbTrgCtrl i) 31 && decide (edgeDt s i t.next ≤ s.dt) then
    let s := { s with tb := s.tb.setTrig i { t with fall := s.dt + s.fld (rTbTrgCtrl i) 16 15 } }
    .next (trigAdvance (s.addWrap (rTbTrgStatus i) 0 16) i (t.next + 1))
  else .next s

/-- The output of trigger channel k is high (R418). -/
def trigHigh (s : State) (k : Nat) : Bool := decide (s.dt < (s.tb.trig k).fall)

/-! ### TSYNC -/

/-- The first multiple of the TSYNC period after device time d. DEDUCED: log 113. -/
def tsyncAfter (s : State) (d : Nat) : Nat :=
  let p := s.fld rTbTsync 0 16 * 1000000
  if p = 0 then 0 else (d / p + 1) * p

/-- `TSYNC_EDGE`: device time has reached the next due multiple; the output is high for 100 µs (R416,
R420). -/
def execTsyncEdge (s : State) : Out := clocked s <|
  if s.fld rTbTsync 0 16 ≠ 0 ∧ s.tb.tsyncNext ≤ s.dt ∧ s.fld rHiStart 29 3 ≠ 0 then
    .next { s with tb := { s.tb with tsyncFall := s.dt + 100000, tsyncNext := tsyncAfter s s.dt } }
  else .next s

/-- A write of `TB_TSYNC` sets the period and the next due multiple (R416). -/
def tsyncWrite (s : State) (v : W64) : State :=
  let s := s.plainWrite rTbTsync v
  { s with tb := { s.tb with tsyncNext := tsyncAfter s s.dt } }

/-! ### Steps and the servo -/

/-- Device time moves by a whole number of ns. A forward step skips trigger edges inside it; a
backward step sets `BACK` and moves no index (R410, R419, R420). DEDUCED: log 111. -/
def dtStep (s : State) (d : Int) : State :=
  let t : Int := (s.tb.dt : Int) + d * 2 ^ 32
  let s := { s with tb := { s.tb with dt := t.toNat, slew := 0 } }
  if d < 0 then s.setBit rTbStatus 27 true
  else
    let s : State := (List.range 8).foldl
      (fun (s : State) k => if s.bit (rTbTrgCtrl k) 31 then trigSkip s k s.dt else s) s
    if s.tb.tsyncNext < s.dt then { s with tb := { s.tb with tsyncNext := tsyncAfter s (s.dt - 1) } }
    else s

/-- Tasks in flight, as `DC_STATUS.INFLIGHT` counts them (R355, R410). -/
def tasksInFlight (s : State) : Nat := s.dc.tasks.length

/-- A correction of `off` ns (source minus DT): a step when DT lags by more than 1 ms, or leads by
more than 1 ms where a backward step is allowed and nothing is in flight; otherwise a slew (R410). -/
def correct (s : State) (off : Int) : State :=
  if 1000000 < off then dtStep s off
  else if off < -1000000 ∧ s.bit rTbCtrl 29 ∧ tasksInFlight s = 0 then dtStep s off
  else { s with tb := { s.tb with slew := off * 2 ^ 32 } }

/-- The servo takes an offset in 1/256 ns: DT is corrected, TRIM updated by a law the specification
leaves open, and the state follows (R409 to R411). DESIGN CHOICE: log 112. -/
def servo (s : State) (off : Int) : State :=
  let ns := off / 256
  let s := s.setFld rTbOffset 0 32 (codeOfInt 32 ns)
  let s := correct s ns
  let t := clampInt (-trimMax) trimMax (Config.servoTrim s.freeCtr off (trimOf s))
  let s := setTrim s.drawn t
  let near := decide (off.natAbs ≤ 100 * 256)
  let n := if near then Nat.min 8 (s.tb.inRange + 1) else 0
  let s := { s with tb := { s.tb with trims := (t :: s.tb.trims).take 16, inRange := n } }
  let st := s.fld rTbStatus 29 3
  let st' := if st = 2 then (if 1000 * 256 < off.natAbs then 1 else 2)
    else if st = 3 then 1
    else if n = 8 then 2 else 1
  s.setFld rTbStatus 29 3 st'

/-- A PPS edge is stamped; under SRC 1 the servo takes the measured offset (R409, R416). -/
def ppsEdge (s : State) (offset : Int) : State :=
  let s := s.wr rTbPpsCap (BitVec.ofNat 64 s.dt)
  let s := { s with tb := { s.tb with ppsDt := s.clk } }
  if s.fld rTbCtrl 30 2 = 1 then servo s (offset * 256) else s

/-- `PPS_HOLDOVER`: no PPS edge for 2 s under SRC 1 (R411). -/
def execPpsHoldover (s : State) : Out := powered s <|
  if s.fld rTbCtrl 30 2 = 1 ∧ s.tb.ppsDt + 2000000000 ≤ s.clk ∧ s.fld rTbStatus 29 3 ≠ 3 then
    .next (enterHoldover s)
  else .next s

/-- `TBREF_LOSS`: the count clock moves to the internal oscillator with the last TRIM (R408). -/
def execTbrefLoss (s : State) : Out := powered s <|
  if s.tb.internal then .next s
  else
    let s := { s with tb := { s.tb with internal := true } }
    .next (logOnly (s.setBit rTbStatus 28 true) (mkFault stRefLost 0xC 0))

/-- `TBREF_RETURN`: the count clock moves back; `REF_LOST` stays set (R408). -/
def execTbrefReturn (s : State) : Out := powered s <|
  .next { s with tb := { s.tb with internal := false } }

/-- A host write of `TB_SET` steps DT under the rule of R410, or slews it. -/
def tbSetWrite (s : State) (v : W64) : State := correct s ((v.toNat : Int) - (s.dt : Int))

/-- `TB_SET` (R410). -/
def execTbSet (v : W64) (s : State) : Out := clocked s <| .next (tbSetWrite s v)

/-- A write of `TB_TRIM` is taken under SRC 0 and discarded otherwise (R409). -/
def tbTrimWrite (s : State) (v : W64) : State :=
  if s.fld rTbCtrl 30 2 = 0 then setTrim s (signedOf 32 (bits v 0 32)) else s

/-- `TB_TRIM_WRITE` (R409, R421). -/
def execTbTrimWrite (v : W32) (s : State) : Out := clocked s <| .next (tbTrimWrite s (v.setWidth 64))

/-- A write of `TB_CTRL`: under FREE the state is FREE; a member that is to follow a wellhead to which it has no
route is in HOLDOVER (R409, R411, R413). DEDUCED: log 180. -/
def tbCtrlWrite (s : State) (v : W64) : State :=
  let s := s.plainWrite rTbCtrl v
  if s.fld rTbCtrl 30 2 = 0 then
    let s := s.setFld rTbStatus 29 3 0
    { s with tb := { s.tb with exch := none } }
  else if parentLost s then enterHoldover s else s

/-- A number for each path (R339). -/
def pathNum : Path → Nat
  | .u0 => 0 | .u1 => 1 | .sideband => 2 | .mp => 3 | .sc c => 4 + c.val | .tap => 8

/-- The device answers a transaction. -/
def respond (s : State) (p : Path) (ok : Bool) (data : List Byte) : State :=
  { s with hi := { s.hi with resp := some ⟨p, ok, data⟩ } }

/-- The value a 4-byte read of `TB_DT` returns and the state after: the low half latches the high
half, which the next read of the high half on that path returns (R421). -/
def tbDtHalf (s : State) (p : Path) (high : Bool) : Nat × State :=
  let k := pathNum p
  if high then
    match s.tb.latch.find? fun e => e.1 == k with
    | some e => (e.2.toNat, { s with tb := { s.tb with latch := SMap.erase s.tb.latch k } })
    | none => (s.dt / 2 ^ 32, s)
  else
    (s.dt % 2 ^ 32, { s with tb := { s.tb with
      latch := SMap.insert (SMap.erase s.tb.latch k) k (BitVec.ofNat 32 (s.dt / 2 ^ 32)) } })

/-- `TB_DT_READ`: 4 bytes of the high or low half, or 8 bytes at once (R421). -/
def execTbDtRead (path : Path) (half : Option Bool) (s : State) : Out := clocked s <|
  match half with
  | none => .next (respond s path true (leBytes s.dt 8))
  | some h =>
    let r := tbDtHalf s path h
    .next (respond r.2 path true (leBytes r.1 4))

/-! ### Distribution over links -/

/-- A TIME packet (R414). -/
def timePacket (s : State) (msg t2 t3 corr : Nat) : Packet :=
  hopPacket s 9 (msg + s.fld rTbCtrl 16 10 <<< 2 + s.fld rTbStatus 16 5 <<< 12) t2 t3 corr

/-- `TIME_EXCHANGE`: a member other than the wellhead sends DELAY_REQ on the port of its route to the
wellhead; without a route it is in HOLDOVER and the exchange is dropped (R411, R413, R414). -/
def execTimeExchange (s : State) : Out := clocked s <|
  if s.fld rTbCtrl 30 2 = 2 ∧ dstate s = 2 ∧ ownId s ≠ s.fld rTbCtrl 16 10 then
    let r := routeTo s (s.fld rTbCtrl 16 10)
    if r < 6 then
      let s := sendPacket s r (timePacket s 0 0 0 0)
      .next { s with tb := { s.tb with exch := some (s.dt, r) } }
    else .next (enterHoldover s)
  else .next s

/-- The offset of a completed exchange in 1/256 ns (R414). -/
def exchangeOffset (s : State) (n t1 t2 t3 t4 : Nat) (corr : Int) : Int :=
  (((t2 : Int) - t1) - ((t4 : Int) - t3)) * 128
    - signedOf 16 (s.fld (rTbAsym n) 0 16) * 256 / 1000 + corr

/-- `TIME_PACKET_ARRIVAL`: DELAY_REQ is answered with the stamps and this device's own offset, zero at
the wellhead; DELAY_RESP of the exchange in progress goes to the servo (R414). -/
def execTimePacketArrival (n : Fin 6) (pk : Packet) (s : State) : Out := clocked s <|
  let i := n.val
  if portState s i == lkAttached && pk.kind == 9 then
    match bits pk.dw1 0 2 with
    | 0 =>
      let corr := if ownId s = s.fld rTbCtrl 16 10 then 0 else codeOfInt 32 s.tb.corr
      .next (sendPacket s i (timePacket s 1 s.dt s.dt corr))
    | 1 =>
      match s.tb.exch with
      | some (t1, p) =>
        if p = i ∧ s.fld rTbCtrl 30 2 = 2 then
          let off := exchangeOffset s i t1 pk.dw2.toNat pk.dw3.toNat s.dt
            (signedOf 32 (bits pk.dw4 0 32))
          let s := { s with tb := { s.tb with exch := none, corr := off } }
          .next (servo (s.setFld rTbStatus 16 5 ((bits pk.dw1 12 5 + 1) % 32)) off)
        else .next s
      | none => .next s
    | _ => .next s
  else .next s

end Sys2Proof.Machine
end

