-- ==== Sys2Proof/Machine/Rim.lean ====
section
/-! DEFINITION. The Rim (chapter 18): word cells, routing, pins, hard serial blocks, configuration
slots, capture and stamps. -/

namespace Sys2Proof.Machine

/-! ### CRC-32C -/

/-- One byte into a reflected CRC-32C register (R180). -/
def crcByte (c : Nat) (b : Byte) : Nat :=
  let x := c ^^^ b.toNat
  (List.range 8).foldl (fun x _ => if x % 2 = 1 then (x / 2) ^^^ 0x82F63B78 else x / 2) x

/-- CRC-32C of bytes: initial value and final XOR all ones (R180). -/
def crc32c (bs : List Byte) : Nat := (bs.foldl crcByte 0xFFFFFFFF) ^^^ 0xFFFFFFFF

/-- CRC-32C of a list of 64-bit words, low byte first. -/
def crcWords (ws : List W64) : Nat :=
  (ws.foldl (fun c w => (leBytes w.toNat 8).foldl crcByte c) 0xFFFFFFFF) ^^^ 0xFFFFFFFF

/-! ### The image of a slot -/

/-- 64-bit word i of a slot's image (R446); slot A is false. -/
def rimWord (s : State) (slot : Bool) (i : Nat) : W64 :=
  SMap.get (fun _ => 0) s.rim.image (b2n slot * 2432 + i)

/-- A field of len bits at a byte offset of a slot's image. -/
def rimField (s : State) (slot : Bool) (off lo len : Nat) : Nat :=
  bits (rimWord s slot (off / 8)) (off % 8 * 8 + lo) len

/-- Entry e of cell c (R438). -/
def rimEntry (s : State) (slot : Bool) (c e : Nat) : Nat := rimField s slot (c * 32 + e * 4) 0 32
/-- The settings word of cell c (R446). -/
def rimCellSet (s : State) (slot : Bool) (c : Nat) : W64 := rimWord s slot (0x800 / 8 + c)
/-- The settings word of pin p (R443). -/
def rimPinSet (s : State) (slot : Bool) (p : Nat) : W64 := rimWord s slot (0xA00 / 8 + p)
/-- The source code of wire w (R440). -/
def rimRoute (s : State) (slot : Bool) (w : Nat) : Nat := rimField s slot (0xC00 + 16 * w) 0 11

/-- The slot selected (R448). -/
def rimSel (s : State) : Bool := s.bit rRimCtrl 30
/-- A committed slot drives the pins. -/
def rimActive (s : State) : Bool := s.bit rRimStatus 31

/-! ### Cells and wires -/

/-- Result and carry-out of an instruction entry (R438). -/
def rimAlu (op a b k : Nat) (cin : Bool) (q : Nat) : Nat × Bool :=
  match op with
  | 0x00 => (a, false)
  | 0x01 => ((a + b + b2n cin) % 65536, decide (65536 ≤ a + b + b2n cin))
  | 0x02 => ((a + 65536 - b - (1 - b2n cin)) % 65536, decide (b + (1 - b2n cin) ≤ a))
  | 0x03 => ((a + k + b2n cin) % 65536, decide (65536 ≤ a + k + b2n cin))
  | 0x04 => (a &&& b, false)
  | 0x05 => (a ||| b, false)
  | 0x06 => (a ^^^ b, false)
  | 0x07 => ((a <<< (k % 16)) % 65536, k % 16 != 0 && (a >>> (16 - k % 16)) % 2 == 1)
  | 0x08 => (a >>> (k % 16), k % 16 != 0 && (a >>> (k % 16 - 1)) % 2 == 1)
  | 0x09 => (if a % 2 = 1 then b else k, false)
  | 0x0A => (b2n (decide (a < b)), a == b)
  | 0x0B => ((q + 1) % 65536, q == 65535)
  | _ => (k, false)

/-- Valve line v: the tap of well v div 4 (R230). -/
def valveLine (s : State) (v : Nat) : Bool :=
  let w := s.well (v / 4)
  let t := SMap.get (fun _ => 0) w.vtap (v % 4)
  let e := w.sq (bits t 0 10)
  bitAt t 31 && bitAt e.cfg 31 && (e.valve != bitAt t 30)

/-- The value of a routing source, given the outputs of the cells (R440). DESIGN CHOICE: log 126. -/
def rimSource (s : State) (cell : Nat → Nat × Bool) (code : Nat) : Bool :=
  if code = 0 then false
  else if code < 0x401 then (cell ((code - 1) / 16)).1 / 2 ^ ((code - 1) % 16) % 2 == 1
  else if code < 0x441 then (cell (code - 0x401)).2
  else if code < 0x461 then bitAt s.rim.pinsIn (code - 0x441)
  else if code < 0x481 then valveLine s (code - 0x461)
  else if code < 0x489 then trigHigh s (code - 0x481)
  else if code < 0x48D then
    s.bit (rRimOsc (code - 0x489)) 32
      && bitAt (SMap.get (fun _ => (0 : W32)) s.rim.osc (code - 0x489)) 31
  else if code < 0x4CD then bitAt s.rim.hardOut (code - 0x48D)
  else Config.unstated 1 code 0 % 2 == 1

/-- Value of the wire a select names; 0x7FF names constant 1, and 0x7FE the value given (R440). -/
def rimWire (s : State) (slot : Bool) (cell : Nat → Nat × Bool) (sel : Nat) (reg : Bool) : Bool :=
  if sel = 0x7FF then true
  else if sel = 0x7FE then reg
  else if sel < 1024 then rimSource s cell (rimRoute s slot sel)
  else Config.unstated 1 sel 1 % 2 == 1

/-- The 16 wires of a bus as a number (R440). -/
def rimBus (wire : Nat → Bool) (b : Nat) : Nat :=
  (List.range 16).foldl (fun t i => t + b2n (wire (16 * b + i)) <<< i) 0

/-- The select input of a cell: three wires from the one that its setting names; 0x7FF makes every line 1, and
0x7FE, which names no wire, reads 0 (R437, R440, R446). DEDUCED: log 182. -/
def rimSelect3 (wire : Nat → Bool) (base : Nat) : Nat :=
  if base = 0x7FF then 7 else if base = 0x7FE then 0
  else b2n (wire base) + 2 * b2n (wire (base + 1)) + 4 * b2n (wire (base + 2))

/-- The clock of a cell: an oscillator or the base clock, or a wire with its edge (R441, R446). -/
def rimClock (set : W64) : Nat × Nat × Nat :=
  if bits set 34 3 = 5 then (5, bits set 37 1, bits set 38 11) else (bits set 34 3, 0, 0)

/-- What the entry of a cell does in a cycle: the entry, the result and its carry-out (R437, R438). -/
def rimCompute (s : State) (slot : Bool) (cell : Nat → Nat × Bool) (c : Nat) : Nat × Nat × Bool :=
  let set := rimCellSet s slot c
  let wire := fun w => rimWire s slot cell w false
  let base := bits set 12 11
  let sel := rimSelect3 wire base
  let e := rimEntry s slot c sel
  let f := s.rim.cell c
  let cin := match (e >>> 23) % 4 with
    | 0 => false
    | 1 => true
    | 2 => f.c
    | _ => (cell (c - 1)).2
  let r := rimAlu ((e >>> 27) % 32) (rimBus wire (bits set 0 6)) (rimBus wire (bits set 6 6))
    (e % 65536) cin f.q.toNat
  (e, r.1, r.2)

/-- Y and carry-out of a cell. `fuel` bounds the length of a combinational path; a committed image
has none that returns to its start, so none passes more than 64 cells by Y and carry (R442). -/
def rimCellOut (s : State) (slot : Bool) : Nat → Nat → Nat × Bool
  | 0, _ => (0, false)
  | n + 1, c =>
    let r := rimCompute s slot (rimCellOut s slot n) c
    (if (r.1 >>> 25) % 2 = 1 then (s.rim.cell c).q.toNat else r.2.1, r.2.2)

/-- Outputs of the cells of the selected slot. -/
def rimOut (s : State) : Nat → Nat × Bool := rimCellOut s (rimSel s) 130

/-- Value of wire w of the running configuration. -/
def rimWireNow (s : State) (w : Nat) : Bool :=
  rimActive s && rimWire s (rimSel s) (rimOut s) w false

/-- Cell c takes the clock edge: its enable select is 1 (R441). -/
def rimEnabled (s : State) (c : Nat) : Bool :=
  rimWire s (rimSel s) (rimOut s) (bits (rimCellSet s (rimSel s) c) 23 11) false

/-- The flip-flops of cell c after an edge that finds state s: with REGQ the result goes to Q and the carry-out
to C (R437, R438). -/
def rimNext (s : State) (c : Nat) : RimCell :=
  let r := rimCompute s (rimSel s) (rimOut s) c
  if (r.1 >>> 26) % 2 = 1 then ⟨BitVec.ofNat 16 r.2.1, r.2.2⟩ else s.rim.cell c

/-- The cells that the clock of cell c clocks. -/
def rimClocked (s : State) (c : Nat) : List Nat :=
  (List.range 64).filter fun d =>
    rimClock (rimCellSet s (rimSel s) d) == rimClock (rimCellSet s (rimSel s) c) && rimEnabled s d

/-- `RIM_CELL_CYCLE`: an edge of the clock of cell c. Every enabled cell on that clock takes it at once, each from
what stood before the edge (R437, R438, R441). A cell given no clock holds its state. `pins` and `hard`
are the levels on the pins and on the hard blocks' outputs at the edge (R440, R443). DESIGN CHOICE: log 124. -/
def execRimCellCycle (c : Fin 64) (pins : BitVec 32) (hard : W64) (s : State) : Out := clocked s <|
  let s := { s with rim := { s.rim with pinsIn := pins, hardOut := hard } }
  if rimActive s && s.rim.live && bits (rimCellSet s (rimSel s) c.val) 34 3 != 6 then
    .next ((rimClocked s c.val).foldl (fun (t : State) d => { t with rim := t.rim.setCell d (rimNext s d) }) s)
  else .next s

/-! ### Pins -/

/-- The OTP safe state of a pin: 0 high impedance, 1 low, 2 high, 3 high impedance with pull-down
(R447, R529). -/
def pinSafe (s : State) (p : Nat) : Nat :=
  let b := SMap.get (fun _ => (0 : Byte)) s.sec.otp (0x2098 + p / 4)
  bits b (p % 4 * 2) 2

/-- What drives pin p: `none` when nothing does (R443, R447). -/
def pinDrive (s : State) (p : Nat) : Option Bool :=
  if rimActive s then
    let t := rimPinSet s (rimSel s) p
    let out := rimWire s (rimSel s) (rimOut s) (bits t 0 11) (s.bit rRimGpioOut p) != bitAt t 24
    let oe := rimWire s (rimSel s) (rimOut s) (bits t 11 11) false
    if !oe then none
    else match bits t 22 2 with
      | 1 => some out
      | 2 => if out then none else some false
      | _ => none
  else match pinSafe s p with
    | 1 => some false
    | 2 => some true
    | _ => none

/-- Level of pin p as `RIM_GPIO_IN` reads it: its own drive, else what stands outside. -/
def pinLevel (s : State) (p : Nat) : Bool := (pinDrive s p).getD (bitAt s.rim.pinsIn p)

/-- `RIM_GPIO_IN` (R443). -/
def gpioIn (s : State) : Nat := (List.range 32).foldl (fun t p => t + b2n (pinLevel s p) <<< p) 0

/-! ### Configurations -/

/-- State of a slot. -/
def slotState (s : State) (slot : Bool) : SlotState := if slot then s.rim.slotB else s.rim.slotA

/-- Code of a slot state (R452). -/
def slotCode : SlotState → Nat
  | .empty => 0 | .loading => 1 | .committing => 2 | .committed => 3

/-- Sets a slot's state, in the record and in `RIM_STATUS`. -/
def setSlot (s : State) (slot : Bool) (x : SlotState) : State :=
  let s := { s with rim := if slot then { s.rim with slotB := x } else { s.rim with slotA := x } }
  s.setFld rRimStatus (2 * b2n slot) 2 (slotCode x)

/-- A write of a word of the image window: discarded while the slot is COMMITTING or COMMITTED; the
first write of an EMPTY slot makes it LOADING (R179, R446). -/
def rimWindow (s : State) (off : Nat) (v : W64) : State :=
  let slot := s.bit rRimCtrl 29
  if 19456 ≤ off then s
  else match slotState s slot with
    | .committing | .committed => s
    | _ =>
      let s := setSlot s slot .loading
      { s with rim := { s.rim with
        image := SMap.set (fun _ => 0) s.rim.image (b2n slot * 2432 + off / 8) v } }

/-- `RIM_WINDOW_WRITE` (R446). -/
def execRimWindowWrite (off : BitVec 15) (v : W64) (s : State) : Out := clocked s <| .next (rimWindow s off.toNat v)

/-- A write of `RIM_COMMIT.GO`: a LOADING slot becomes COMMITTING (R179, R446). -/
def rimCommitGo (s : State) (slot : Bool) : State :=
  if s.bit rRimStatus 29 then s
  else match slotState s slot with
    | .empty | .loading => (setSlot s slot .committing).setBit rRimStatus 29 true
    | _ => s

/-- `RIM_COMMIT_GO`. -/
def execRimCommitGo (slot : Bool) (s : State) : Out := clocked s <| .next (rimCommitGo s slot)

/-- An instruction entry the commit accepts in cell c (R438). -/
def rimEntryOk (c e : Nat) : Bool :=
  decide ((e >>> 27) % 32 ≤ 0xC) && (e >>> 16) % 128 == 0 && !(c == 0 && (e >>> 23) % 4 == 3)

/-- Cells joined by CIN 3 share one clock (R439). -/
def rimChainOk (s : State) (slot : Bool) (c : Nat) : Bool :=
  !((List.range 8).any fun e => (rimEntry s slot c e >>> 23) % 4 == 3)
    || rimClock (rimCellSet s slot c) == rimClock (rimCellSet s slot (c - 1))

/-- Wires cell c looks at: its two buses and its select wires. -/
def rimReads (s : State) (slot : Bool) (c : Nat) : List Nat :=
  let t := rimCellSet s slot c
  (List.range 16).map (16 * bits t 0 6 + ·) ++ (List.range 16).map (16 * bits t 6 6 + ·)
    ++ (List.range 3).map (bits t 12 11 + ·)

/-- Cells whose outputs cell c's result depends on without a flip-flop between: a Y with OUTQ 0 in
some entry, a carry-out, or the chain (R442). -/
def rimDeps (s : State) (slot : Bool) (c : Nat) : List Nat :=
  let chain := if (List.range 8).any (fun e => (rimEntry s slot c e >>> 23) % 4 == 3)
    then [c - 1] else []
  chain ++ (rimReads s slot c).filterMap fun w =>
    if 1024 ≤ w then none
    else
      let code := rimRoute s slot w
      if 1 ≤ code ∧ code < 0x401 then
        let d := (code - 1) / 16
        if (List.range 8).any (fun e => (rimEntry s slot d e >>> 25) % 2 == 0) then some d else none
      else if 0x401 ≤ code ∧ code < 0x441 then some (code - 0x401) else none

/-- Cells left after those that depend on none of the remaining are taken away, n times. -/
def rimPrune (deps : Nat → List Nat) : Nat → List Nat → List Nat
  | 0, l => l
  | n + 1, l => rimPrune deps n (l.filter fun c => (deps c).any fun d => l.contains d)

/-- The checks of a commit (R438, R439, R442). -/
def rimChecks (s : State) (slot : Bool) : Bool :=
  (List.range 64).all (fun c => (List.range 8).all (fun e => rimEntryOk c (rimEntry s slot c e))
    && rimChainOk s slot c)
    && (rimPrune (rimDeps s slot) 64 (List.range 64)).isEmpty

/-- CRC-32C of a slot's image (R446). -/
def rimCrc (s : State) (slot : Bool) : Nat := crcWords ((List.range 2432).map (rimWord s slot))

/-- `RIM_COMMIT_COMPLETE`: the slot becomes COMMITTED, or returns to LOADING with RESULT 0x21
(R446). -/
def execRimCommitComplete (s : State) : Out := clocked s <|
  let done := fun (slot : Bool) =>
    let s := s.setBit rRimStatus 29 false
    if rimCrc s slot == s.fld rRimCommitCrc 0 32 && rimChecks s slot then
      (setSlot s slot .committed).setFld rRimStatus 16 8 0
    else (setSlot s slot .loading).setFld rRimStatus 16 8 stCtxInvalid
  match s.rim.slotA, s.rim.slotB with
  | .committing, _ => .next (done false)
  | _, .committing => .next (done true)
  | _, _ => .next s

/-- A write of `RIM_COMMIT.UNLOAD`: an unselected slot is emptied (R448). -/
def rimUnload (s : State) (slot : Bool) : State :=
  if rimActive s && rimSel s == slot then s
  else match slotState s slot with
    | .committing => s
    | _ =>
      let keep := s.rim.image.filter fun e => (decide (e.1 < 2432)) == slot
      let s := { s with rim := { s.rim with image := keep } }
      (setSlot s slot .empty).setFld rRimStatus 16 8 0

/-- `RIM_COMMIT_UNLOAD`. -/
def execRimCommitUnload (slot : Bool) (s : State) : Out := clocked s <| .next (rimUnload s slot)

/-- Selects a slot: discarded with a CTX_INVALID entry unless it is COMMITTED; else every pin moves to
its drive in the slot and the cells start from reset (R448). -/
def rimSelect (s : State) (slot : Bool) : State :=
  if rimActive s && rimSel s == slot then s
  else match slotState s slot with
    | .committed =>
      let s := ((s.setBit rRimCtrl 31 true).setBit rRimCtrl 30 slot).setBit rRimStatus 31 true
      { s with rim := { s.rim with cells := [], live := true } }
    | _ => logOnly s (mkFault stCtxInvalid 0xD 0)

/-- `RIM_SELECT`. -/
def execRimSelect (slot : Bool) (s : State) : Out := clocked s <| .next (rimSelect s slot)

/-- Writing SELV 0: pins to their safe state, cells to reset (R448). -/
def rimDeselect (s : State) : State :=
  let s := (s.setBit rRimCtrl 31 false).setBit rRimStatus 31 false
  { s with rim := { s.rim with cells := [], live := false } }

/-- `RIM_DESELECT`. -/
def execRimDeselect (s : State) : Out := clocked s <| .next (rimDeselect s)

/-- A whole write of `RIM_CTRL` (R448, R452). -/
def rimCtrlWrite (s : State) (v : W64) : State :=
  let s := ((s.setBit rRimCtrl 29 (bitAt v 29)).setFld rRimCtrl 16 6 (bits v 16 6)).setFld
    rRimCtrl 0 11 (bits v 0 11)
  if bitAt v 31 then rimSelect s (bitAt v 30) else rimDeselect s

/-! ### Capture and stamps -/

/-- A Rim capture: not taken while the record is valid, which counts it lost (R184, R450). -/
def rimCapture (s : State) : State :=
  if s.bit rRimCapStatus 31 then s.setBit rRimCapStatus 30 true
  else
    let out := rimOut s
    let rec_ := fun c =>
      let f := s.rim.cell c
      let base := bits (rimCellSet s (rimSel s) c) 12 11
      let y := if rimActive s then (out c).1 else 0
      BitVec.ofNat 64 (f.q.toNat + b2n f.c <<< 16 + rimSelect3 (rimWireNow s) base <<< 17 + y <<< 20)
    let ins := BitVec.ofNat 64 (gpioIn s)
    let outs := BitVec.ofNat 64 ((List.range 32).foldl
      (fun t p => t + b2n ((pinDrive s p).getD false) <<< p) 0)
    let s' := (List.range 64).foldl (fun (t : State) c => t.wr (rRimCapCell c) (rec_ c)) s
    let s' := ((s'.wr (rRimCapPin 0) ins).wr (rRimCapPin 1) outs).wr (rRimCapPin 2)
      (BitVec.ofNat 64 s.dt)
    s'.setBit rRimCapStatus 31 true

/-- A write of `RIM_CAP` without NOW: the fields are taken
(R450, R452). -/
def rimCapWrite (s : State) (v : W64) : State :=
  s.plainWrite rRimCap v

/-- `RIM_CAPTURE_ARM`: a write of `RIM_CAP` with ARM set. -/
def execRimCaptureArm (v : W64) (s : State) : Out := clocked s <|
  .next (rimCapWrite s (putBits (putBits v 31 1 1) 30 1 0))

/-- `RIM_CAPTURE_NOW` (R450). -/
def execRimCaptureNow (s : State) : Out := clocked s <| .next (rimCapture s)

/-- `RIM_CAPTURE_TAKEN`: the edge or the wire an armed capture waits for has come. ARM clears when the capture is
taken; one that finds the record valid is lost (R450, R452). DEDUCED: log 125. -/
def execRimCaptureTaken (s : State) : Out := clocked s <|
  if s.bit rRimCap 31 && (!s.bit rRimCap 25 || rimWireNow s (s.fld rRimCap 0 11)) then
    .next (if s.bit rRimCapStatus 31 then rimCapture s else rimCapture (s.setBit rRimCap 31 false))
  else .next s

/-- `RIM_STAMP_EDGE`: an edge of an enabled channel pushes device time, or is dropped and counted when
sixteen stamps stand (R451). DESIGN CHOICE: log 124. -/
def execRimStampEdge (k : Fin 8) (s : State) : Out := clocked s <|
  if s.bit (rRimStampCfg k.val) 31 then
    let l := s.rim.stamp k.val
    if l.length < 16 then .next { s with rim := s.rim.setStamp k.val (l ++ [s.dt]) }
    else .next (s.addSat (rRimStampCfg k.val) 12 16 1)
  else .next s

/-- A read of `RIM_STAMP_k`: the oldest stamp, removed, or all ones (R452). -/
def rimStampRead (s : State) (k : Nat) : Nat × State :=
  match s.rim.stamp k with
  | [] => (2 ^ 64 - 1, s)
  | t :: r => (t, { s with rim := s.rim.setStamp k r })

/-- `RIM_STAMP_READ`. -/
def execRimStampRead (k : Fin 8) (s : State) : Out := clocked s <|
  let r := rimStampRead s k.val
  .next (respond r.2 .u0 true (leBytes r.1 8))

/-- A rising edge on the wire that IRQW names signals the vector (R449). -/
def rimIrq (s : State) : State :=
  if rimActive s && s.fld rRimCtrl 0 11 != 0x7FE then signalVec s (s.fld rRimCtrl 16 6) else s

/-! ### Hard serial blocks -/

/-- Number of a hard block: UART 0–3, SPI 4–5, I3C 6–7. -/
def serialIx : SerialBlock → Nat
  | .uart u => u.val
  | .spi x => 4 + x.val
  | .i3c x => 6 + x.val

/-- FIFO depth of a block (R444); the specification names none for I3C. DEDUCED: log 127. -/
def serialDepth : SerialBlock → Nat
  | .uart _ => 64
  | .spi _ => 256
  | .i3c _ => 256

/-- `HARD_SERIAL_BLOCK_TRANSFER`: the oldest character to send goes out, and what the wires brought
enters the receive FIFO as far as it has room. The blocks are idle while no slot is selected (R444,
R447). -/
def execHardSerialBlockTransfer (b : SerialBlock) (rx : List Byte) (s : State) : Out := clocked s <|
  if rimActive s then
    let j := serialIx b
    let x := s.rim.serial j
    .next { s with rim := s.rim.setSerial j { x with
      tx := x.tx.drop 1
      rx := x.rx ++ rx.take (serialDepth b - x.rx.length) } }
  else .next s

/-- One count-clock cycle moves the phase of every running oscillator by its clamped increment
(R445). -/
def oscTick (s : State) : State :=
  (List.range 4).foldl (fun (s : State) k =>
    if s.bit (rRimOsc k) 32 then
      let inc := Nat.min 858993459 (Nat.max 4295 (s.fld (rRimOsc k) 0 32))
      let p := SMap.get (fun _ => (0 : W32)) s.rim.osc k
      { s with rim := { s.rim with
        osc := SMap.set (fun _ => (0 : W32)) s.rim.osc k (p + BitVec.ofNat 32 inc) } }
    else s) s

end Sys2Proof.Machine
end

