-- ==== Sys2Proof/Machine/Pmu.lean ====
section
/-! DEFINITION. Performance monitoring (chapter 24): the counters' controls, bandwidth windows,
queue-depth probes and instruction tagging. Counting itself is in Ops.lean. -/

namespace Sys2Proof.Machine

/-- A semaphore entry has SIZE 0 (R221). -/
def SqEntry.isSem (e : SqEntry) : Bool := bits e.cfg 0 13 == 0
/-- The entry is enabled. -/
def SqEntry.enabled (e : SqEntry) : Bool := bitAt e.cfg 31
/-- The full FILLED count (R225), or the counter of a semaphore entry (R226). -/
def SqEntry.filledCount (e : SqEntry) : Nat := if e.isSem then e.filled else e.w - e.r

/-- Clears every counter and `PMU_OVF` (R550). -/
def pmuClear (s : State) : State :=
  (List.range 32).foldl (fun (s : State) n => s.setFld (rPmuCnt n) 0 48 0) (s.wr rPmuOvf 0)

/-- A write of `PMU_CTRL` (R550). -/
def pmuCtrlWrite (s : State) (v : W64) : State :=
  let s := if bitAt v 29 then pmuClear s else s
  s.plainWrite rPmuCtrl v

/-- `PMU_ENABLE`: every counter starts or stops together (R543). -/
def execPmuEnable (en : Bool) (s : State) : Out := clocked s <| .next (s.setBit rPmuCtrl 31 en)

/-- `PMU_CLEAR` (R550). -/
def execPmuClear (s : State) : Out := clocked s <| .next (pmuClear s)

/-- `COUNTER_OVERFLOW`: a running counter at its greatest value takes one more count (R544). -/
def execCounterOverflow (n : Fin 32) (s : State) : Out := clocked s <|
  if s.bit rPmuCtrl 31 && s.fld (rPmuCnt n.val) 0 48 == 2 ^ 48 - 1 then .next (countUp s n.val)
  else .next s

/-- A write of `PMU_SEL_n`, taken only while the counters are stopped; CHAIN is ignored on an even
counter (R545, R550). -/
def pmuSelWrite (s : State) (n : Nat) (v : W64) : State :=
  if s.bit rPmuCtrl 31 then s
  else s.plainWrite (rPmuSel n) (if n % 2 = 0 then putBits v 7 1 0 else v)

/-- Live value of probe k: 0 maximum, 1 minimum, 2 samples, 4 + j bin j. -/
def probeVal (s : State) (k f : Nat) : Nat :=
  SMap.get (fun i => if i % 16 = 1 then 2 ^ 32 - 1 else 0) s.pmu.probe (16 * k + f)
/-- Sets a live value of a probe. -/
def setProbe (s : State) (k f v : Nat) : State :=
  { s with pmu := { s.pmu with
    probe := SMap.set (fun i => if i % 16 = 1 then 2 ^ 32 - 1 else 0) s.pmu.probe (16 * k + f) v } }

/-- The bin of a FILLED count (R547). -/
def probeBin (f : Nat) : Nat :=
  if f = 0 then 0 else if f < 16 then 1 else if f < 64 then 2 else if f < 256 then 3
  else if f < 1024 then 4 else if f < 4096 then 5 else if f < 16384 then 6 else 7

/-- The snapshot of probe k at a window end (R547). -/
def probeSnap (s : State) (k : Nat) : State :=
  let sat := fun (x : Nat) => Nat.min x (2 ^ 32 - 1)
  let s := s.wr (rPmuQpMm k) (BitVec.ofNat 64 (probeVal s k 0 <<< 32 + probeVal s k 1))
  let s := s.wr (rPmuQpN k) (BitVec.ofNat 64 (probeVal s k 2))
  (List.range 4).foldl (fun (s : State) j => s.wr (rPmuQpBin k j)
    (BitVec.ofNat 64 (sat (probeVal s k (5 + 2 * j)) <<< 32 + sat (probeVal s k (4 + 2 * j))))) s

/-- `BW_WINDOW_END`: counts and probes are snapshotted and cleared, and `SEQ` increments (R546,
R547). -/
def execBwWindowEnd (s : State) : Out := clocked s <|
  if s.bit rPmuBwCtrl 31 then
    let c := fun i => Nat.min (SMap.get (fun _ => 0) s.pmu.bw i) (2 ^ 32 - 1)
    let s := (List.range 56).foldl (fun (t : State) i =>
      t.wr (rPmuBw i) (BitVec.ofNat 64 (c (2 * i) <<< 32 + c (2 * i + 1)))) s
    let s := (List.range 16).foldl probeSnap s
    let s := { s with pmu := { s.pmu with bw := [], probe := [] } }
    .next (s.addWrap rPmuBwSeq 16 16)
  else .next s

/-- `QUEUE_PROBE_SAMPLE`: an enabled probe reads the FILLED count of its enabled entry (R547). -/
def execQueueProbeSample (k : Fin 16) (s : State) : Out := clocked s <|
  let q := s.rd (rPmuQp k.val)
  let e := (s.well (bits q 10 3)).sq (bits q 0 10)
  if s.bit rPmuQpCtrl 31 && bitAt q 31 && decide (bits q 0 10 ≤ 767) && e.enabled then
    let f := e.filledCount
    let i := k.val
    let s := setProbe s i 0 (Nat.max (probeVal s i 0) f)
    let s := setProbe s i 1 (Nat.min (probeVal s i 1) f)
    let s := setProbe s i 2 ((probeVal s i 2 + 1) % 2 ^ 32)
    .next (setProbe s i (4 + probeBin f) (probeVal s i (4 + probeBin f) + 1))
  else .next s

/-- Records in the tag ring (R550). -/
def tagRing (s : State) : Nat := 2 ^ Nat.min 15 (Nat.max 4 (s.fld rPmuTagCtrl 24 4))

/-- Draws the next sampling interval, uniform over the range of R548. DEDUCED: log 145. -/
def tagDraw (s : State) : State :=
  let l := Nat.min 24 (Nat.max 4 (s.fld rPmuTagCtrl 16 5))
  let n := 2 ^ (l - 1) + Config.pick 1 s.freeCtr % 2 ^ l
  { s.drawn with pmu := { s.pmu with left := n, due := false } }

/-- A write of `PMU_TAG_CTRL`: the other fields are taken only while EN is 0; enabling draws the first
interval (R548, R550). -/
def tagCtrlWrite (s : State) (v : W64) : State :=
  if s.bit rPmuTagCtrl 31 then s.setBit rPmuTagCtrl 31 (bitAt v 31)
  else
    let s := s.plainWrite rPmuTagCtrl v
    if bitAt v 31 then tagDraw s else s

/-- `TAG_SELECT`: the interval has run out, so the next issue of the pipeline is tagged (R548). -/
def execTagSelect (s : State) : Out := clocked s <|
  if s.bit rPmuTagCtrl 31 && s.pmu.left == 0 && s.pmu.run.isNone then
    .next { s with pmu := { s.pmu with due := true } }
  else .next s

/-- An MSQ issue of slice i of well w, seen by the tagger: opcode word DW0 as R549 lays it out. -/
def tagIssue (s : State) (w i : Nat) (dw0 : Nat) : State :=
  if s.bit rPmuTagCtrl 31 && s.pipeOf w == some (s.fld rPmuTagCtrl 28 3) then
    if s.pmu.due && s.pmu.run.isNone then
      let x := (s.well w).slice i
      { s with pmu := { s.pmu with
        due := false
        run := some ⟨8 * w + i, BitVec.ofNat 64 dw0, s.dt, (s.well w).strokes,
          x.nextHold, x.nextWait, x.nextFrozen, 0, false⟩ } }
    else { s with pmu := { s.pmu with left := s.pmu.left - 1 } }
  else s

/-- A stroke after the tagged issue: counted until the instruction has completed (R548). -/
def tagStroke (s : State) (w i : Nat) (busy : Bool) : State :=
  match s.pmu.run with
  | some r =>
    if r.slice = 8 * w + i && !r.finished then
      { s with pmu := { s.pmu with run := some { r with run := r.run + 1, finished := !busy } } }
    else s
  | none => s

end Sys2Proof.Machine
end

