-- ==== Sys2Proof/Machine/Power.lean ====
section
/-! DEFINITION. The power manager (R453 to R471): operating points, the issue-rate limiter, the power
cap, droop, temperature and the thermal trip. Wake states are in Manage.lean. -/

namespace Sys2Proof.Machine


/-- Stroke rate of a performance mode in MHz (R456). -/
def modeRate (m : Nat) : Nat :=
  match m % 4 with
  | 0 => 1200
  | 1 => 1000
  | 2 => 700
  | _ => 450

/-- Variant by part number: 0 CA1600, 1 CA1200, 2 CA0800 (R8). -/
def variantIx (s : State) : Nat :=
  match s.fld rCapId 16 8 with
  | 0x12 => 1
  | 0x08 => 2
  | _ => 0

/-- Planning figures of R330: envelope and p_base in W, p_tok in hundredths of a W. -/
def planning (variant mode : Nat) : Nat × Nat × Nat :=
  match variant, mode % 4 with
  | 0, 0 => (300, 110, 275)
  | 0, 1 => (220, 79, 200)
  | 0, 2 => (120, 47, 100)
  | 0, _ => (60, 27, 50)
  | 1, 0 => (230, 95, 275)
  | 1, 1 => (170, 62, 200)
  | 1, 2 => (93, 38, 100)
  | 1, _ => (47, 22, 50)
  | _, 0 => (155, 66, 275)
  | _, 1 => (115, 45, 200)
  | _, 2 => (63, 27, 100)
  | _, _ => (32, 16, 50)

/-- Mode in force. -/
def modeCur (s : State) : Nat := s.fld rPwrMode 28 2

/-- The cap C in W: the lower of `PWR_CAP.W`, clamped to 40–300, and the mode's envelope (R464). -/
def capWatts (s : State) : Nat :=
  Nat.min (Nat.min 300 (Nat.max 40 (s.fld rPwrCap 0 9))) (planning (variantIx s) (modeCur s)).1

/-- Voltage of a stroke rate in mV: rounded up to 5 mV, and the die's fused offset (R457). DESIGN CHOICE:
log 132. -/
def voltOf (s : State) (mhz : Nat) : Nat :=
  550 + (3125 * (mhz - 400) + 49999) / 50000 * 5 + Nat.min 30 s.boot.fuseMv

/-- Some droop detector of some well is tripped. -/
def anyDroop (s : State) : Bool := (List.range 8).any fun w => (s.well w).droop != 0

/-- No detector is tripped, nor has one been within the last 1 µs (R459). -/
def droopCalm (s : State) : Bool := !anyDroop s && decide (s.pwr.droopHold ≤ s.clk)

/-- The change is over: the target's voltage, with margin added since it began, is in force, and the mode
requested (R458, R469). -/
def changeDone (s : State) : State :=
  ((s.setFld rPwrMode 0 16 (s.pwr.tgtMv + s.pwr.margin)).setBit rPwrMode 27 false).setFld rPwrMode 28 2
    (s.fld rPwrMode 30 2)

/-- The operating point starts to move toward a rate: when raising, the voltage is written first
(R458). The droop margin clears (R469). A request during a change replaces the target. A lower voltage is not
sent before the detectors are calm (R459). -/
def startChange (s : State) (mhz : Nat) : State :=
  let v := voltOf s mhz
  let now := s.fld rPwrMode 16 11
  let s := { s with pwr := { s.pwr with tgtMhz := mhz, tgtMv := v, margin := 0 } }
  if mhz = now && (decide (s.fld rPwrMode 0 16 ≤ v) || droopCalm s) then changeDone s
  else
    let s := s.setBit rPwrMode 27 true
    if now < mhz then
      let s := s.setFld rPwrMode 0 16 (Nat.max v (s.fld rPwrMode 0 16))
      { s with pwr := { s.pwr with settled := false } }
    else s

/-- A write of `PWR_MODE.REQ` (R456, R458). -/
def modeRequest (s : State) (m : Nat) : State :=
  startChange (s.setFld rPwrMode 30 2 m) (modeRate m)

/-- `MODE_REQUEST`. -/
def execModeRequest (mode : BitVec 2) (s : State) : Out := clocked s <| .next (modeRequest s mode.toNat)

/-- `FREQUENCY_STEP`: the loops of every well step 25 MHz toward the target; the step waits while a
droop detector is tripped and for 1 µs after the last clears, and when raising until the regulator has
settled. After the last step the voltage of a lowered point is written and the mode is in force (R458,
R459). -/
def execFrequencyStep (s : State) : Out := clocked s <|
  let now := s.fld rPwrMode 16 11
  let t := s.pwr.tgtMhz
  if s.bit rPwrMode 27 && droopCalm s && (decide (t ≤ now) || s.pwr.settled) then
    let f := if now < t then Nat.min t (now + 25) else Nat.max t (now - 25)
    let s := s.setFld rPwrMode 16 11 f
    .next (if f = t then changeDone s else s)
  else .next s

/-- `REGULATOR_SETTLED` (R458). -/
def execRegulatorSettled (s : State) : Out := clocked s <|
  .next { s with pwr := { s.pwr with settled := true } }

/-! ### Droop -/

/-- `DROOP_TRIP`: the trip is counted, the well stretches its clock and its cycles are frozen with
cause 4 (R468, R469). -/
def execDroopTrip (w : WellIx) (d : Fin 16) (s : State) : Out := clocked s <|
  if s.hasWell w.val then
    let x := s.well w.val
    let s := s.setWell w.val { x with
      droop := x.droop ||| (1 : BitVec 16) <<< d.val
      droopCycles := if x.droop = 0 then 0 else x.droopCycles
      trips := x.trips + 1, frozen := true, cause := 4 }
    .next ((s.addSat (rPwrDroopCnt w.val) 0 32 1).setBit rPwrStatus 28 true)
  else .next s

/-- `DROOP_CLEAR`: after a stretch of at least 32 cycles the detectors clear; the interrupted stroke
completes in the next full cycle (R459, R468). -/
def execDroopClear (w : WellIx) (s : State) : Out := clocked s <|
  let x := s.well w.val
  if x.droop ≠ 0 ∧ 32 ≤ x.droopCycles then
    let s := s.setWell w.val { x with droop := 0, droopCycles := 0 }
    let s := s.setBit rPwrStatus 28 (anyDroop s)
    .next { s with pwr := { s.pwr with droopHold := s.clk + 1000 } }
  else .next s

/-- `DROOP_MARGIN_WINDOW`: a 1 ms window ends; after more than 1,000 trips 10 mV are added to the
target, once per window, up to 30 mV (R469). -/
def execDroopMarginWindow (w : WellIx) (s : State) : Out := clocked s <|
  let x := s.well w.val
  let fresh := match s.pwr.marginDt with
    | some t => decide (t + 1000000 ≤ s.clk)
    | none => true
  let s' := s.setWell w.val { x with trips := 0 }
  if decide (1000 < x.trips) && decide (s.pwr.margin < 30) && fresh then
    let s' := s'.setFld rPwrMode 0 16 (s.fld rPwrMode 0 16 + 10)
    .next { s' with pwr := { s'.pwr with margin := s.pwr.margin + 10, marginDt := some s.clk } }
  else .next s'

/-! ### g, sensors and power -/

/-- g = min(g_cap, g_therm) is written back, with the times the operating-point rule asks for (R461,
R466). -/
def gUpdate (s : State) : State :=
  let g := Nat.min (s.fld rPwrStatus 8 7) (s.fld rPwrStatus 0 7)
  let s := s.setFld rPwrStatus 16 7 g
  let cool := !s.bit rPwrCap 31 || decide (s.fld rPwrPower 16 16 * 10 < 90 * capWatts s)
  { s with pwr := { s.pwr with
    gLowSince := if g < 64 then some (s.pwr.gLowSince.getD s.clk) else none
    gFullSince := if g = 64 ∧ cool then some (s.pwr.gFullSince.getD s.clk) else none } }

/-- The unit that carries sensor n is present (R454). -/
def sensorFitted (s : State) (n : Nat) : Bool :=
  if n < 48 then s.hasWell (n / 6)
  else if n < 56 then s.hasMc (n - 48)
  else if n < 60 then s.hasSc (n - 56)
  else if n < 62 then s.hasUcie (n - 60)
  else s.fld rCapUnits 16 6 != 0

/-- One sensor's reading (R454). DEDUCED: log 129. -/
def takeReading (s : State) (n : Nat) (r : Reading) : State :=
  if !sensorFitted s n then s.wr (rPwrTemp n) 0
  else if r.ok then
    let s := s.wr (rPwrTemp n) (BitVec.ofNat 64 (1 <<< 31 + r.t.toNat))
    let hot := decide (2000 ≤ signedOf 16 r.t.toNat)
    { s with pwr := { s.pwr with
      failed := putBits s.pwr.failed n 1 0, hotOnce := putBits s.pwr.hotOnce n 1 (b2n hot) } }
  else
    let was := bitAt s.pwr.failed n
    let s := (s.setBit (rPwrTemp n) 31 false).setBit rPwrStatus 27 true
    let s := { s with pwr := { s.pwr with
      failed := putBits s.pwr.failed n 1 1, hotOnce := putBits s.pwr.hotOnce n 1 0 } }
    if was then s else logOnly s (mkFault stSensorFail 0xB n)

/-- The hottest valid sensor: number and reading. -/
def hottest (s : State) : Option (Nat × Int) :=
  (List.range 64).foldl (fun best n =>
    if s.bit (rPwrTemp n) 31 then
      let t := signedOf 16 (s.fld (rPwrTemp n) 0 16)
      match best with
      | none => some (n, t)
      | some (_, b) => if b < t then some (n, t) else best
    else best) none

/-- `SENSOR_SAMPLE`: every sensor is read; one that fails its check is left out (R454). -/
def execSensorSample (r : List Reading) (s : State) : Out := powered s <|
  let s := (List.range 64).foldl (fun s n => takeReading s n (r.getD n ⟨false, 0⟩)) s
  match hottest s with
  | some (n, t) => .next (s.wr rPwrTmax (BitVec.ofNat 64 (n <<< 16 + codeOfInt 16 t)))
  | none => .next s

/-- `POWER_MEASURE`: P from the regulator's voltage and current and `PWR_CAP.FIXED`, in 0.1 W, its
1 ms average, and g_cap, which stays at its floor while the cap is unmet (R464, R465, R467). DEDUCED: log 130. DEDUCED: log 181. -/
def execPowerMeasure (mv ma : Nat) (s : State) : Out := clocked s <|
  let p := Nat.min 65535 (mv * ma / 100000 + s.fld rPwrCap 9 7 * 10)
  let l := (p :: s.pwr.samples).take 31
  let s := { s with pwr := { s.pwr with samples := l } }
  let s := (s.setFld rPwrPower 0 16 p).setFld rPwrPower 16 16 (l.sum / l.length)
  let c := capWatts s * 10
  let g := s.fld rPwrStatus 8 7
  let g' := if !s.bit rPwrCap 31 then 64
    else if c < p then Nat.max 1 (g - 4)
    else if s.bit rPwrStatus 31 then g
    else if 100 * p < 97 * c then Nat.min 64 (g + 1) else g
  let s := gUpdate (s.setFld rPwrStatus 8 7 g')
  let floor_ := s.bit rPwrCap 31 && g' == 1 && s.fld rPwrMode 16 11 == 400 && decide (c < p)
  let s := { s with pwr := { s.pwr with
    unmetSince := if floor_ then some (s.pwr.unmetSince.getD s.clk) else none
    metSince := if p ≤ c then some (s.pwr.metSince.getD s.clk) else none } }
  match s.pwr.metSince with
  | some t =>
    .next (if s.bit rPwrStatus 31 && decide (t + 10000000 ≤ s.clk) then s.setBit rPwrStatus 31 false
      else s)
  | none => .next s

/-- `THERMAL_UPDATE`: g_therm follows Tmax (R470). -/
def execThermalUpdate (s : State) : Out := clocked s <|
  let tc := Nat.min 115 (Nat.max 60 (s.fld rPwrThrot 24 8))
  let t := signedOf 16 (s.fld rPwrTmax 0 16)
  let g := s.fld rPwrStatus 0 7
  let g' := if (tc : Int) * 16 ≤ t then Nat.max 1 (g - 2)
    else if t ≤ ((tc : Int) - s.fld rPwrThrot 0 4) * 16 then Nat.min 64 (g + 1) else g
  .next (gUpdate ((s.setFld rPwrStatus 0 7 g').setBit rPwrStatus 29 (decide (g' < 64))))

/-- `OPERATING_POINT_DECISION`: one point down after 10 ms below 64, one up after 100 ms at 64 with
power to spare; none while the MP restarts or a change is in progress (R466). DEDUCED: log 131. -/
def execOperatingPointDecision (s : State) : Out := clocked s <|
  if !s.mpTurn 4 || s.bit rPwrMode 27 then .next s
  else
    let f := s.fld rPwrMode 16 11
    let low := match s.pwr.gLowSince with
      | some t => decide (t + 10000000 ≤ s.clk)
      | none => false
    let full := match s.pwr.gFullSince with
      | some t => decide (t + 100000000 ≤ s.clk)
      | none => false
    if low && decide (400 < f) then .next (startChange s (Nat.max 400 (f - 50)))
    else if full && decide (f < modeRate (modeCur s)) && !s.bit rPwrStatus 31 then
      .next (startChange s (Nat.min (modeRate (modeCur s)) (f + 50)))
    else .next s

/-- `CAP_UNMET_DETECT`: the cap has been unmet at the floor for 10 ms (R467). -/
def execCapUnmetDetect (s : State) : Out := clocked s <|
  match s.pwr.unmetSince with
  | some t =>
    if t + 10000000 ≤ s.clk ∧ !s.bit rPwrStatus 31 then
      .next (logOnly ((s.setBit rPwrStatus 31 true).setBit rPwrStatus 30 true)
        (mkFault stCapUnmet 0xB 0 0 (s.fld rPwrPower 0 16)))
    else .next s
  | none => .next s

/-- A write of `PWR_THROT`: T_C outside 60 to 115 °C is clamped (R470). -/
def throtWrite (s : State) (v : W64) : State :=
  s.plainWrite rPwrThrot (putBits v 24 8 (Nat.min 115 (Nat.max 60 (bits v 24 8))))

/-- A write of `PWR_CAP`, clamped; a raised cap clears an unmet one and its timer (R464, R467). -/
def pwrCapWrite (s : State) (v : W64) : State :=
  let old := capWatts s
  let s := s.plainWrite rPwrCap (putBits v 0 9 (Nat.min 300 (Nat.max 40 (bits v 0 9))))
  if old < capWatts s then
    let s := s.setBit rPwrStatus 31 false
    { s with pwr := { s.pwr with unmetSince := none } }
  else s

/-- `THERMAL_TRIP`: a sensor that read 125 °C or more reads so again; the trip is latched,
THERMTRIP_N goes low and a device-scoped fault is held (R471, R481). -/
def execThermalTrip (sensor : Fin 64) (t : BitVec 16) (s : State) : Out := powered s <|
  let n := sensor.val
  if !s.tripped && sensorFitted s n && bitAt s.pwr.hotOnce n
      && decide (2000 ≤ signedOf 16 t.toNat) then
    let s := s.wr rHiTrip (BitVec.ofNat 64 (1 <<< 31 + stThermalTrip <<< 16 + n <<< 10
      + (t.toNat / 4) % 1024))
    let s := { s with pwr := { s.pwr with tripPin := false } }
    .next (devFault s (mkFault stThermalTrip 0xB n))
  else .next s

/-! ### The issue-rate limiter -/

/-- The duty a slice's limiter moves toward (R461). -/
def limTarget (ceiling g : Nat) : Nat := if ceiling = 0 then 0 else Nat.max 1 (ceiling * g / 64)

/-- `PWR_SLOPE.STEP`; zero is taken as 1 (R463, R476). -/
def slopeStep (s : State) : Nat := Nat.max 1 (s.fld rPwrSlope 0 7)

/-- One value moved toward another by at most n. -/
def toward (a b n : Nat) : Nat := if a ≤ b then Nat.min b (a + n) else Nat.max b (a - n)

/-- `LIMITER_STEP`: 64 ns pass; E moves toward its target, and the activity of a slice that issues no
MMA strokes falls once the filler hold is over (R463). -/
def execLimiterStep (t : Thread) (s : State) : Out := clocked s <|
  let w := t.me.val % 8
  let i := t.sl.val + (if t.me.val < 8 then 0 else 4)
  let x := s.well w
  let y := x.slice i
  let st := slopeStep s
  let e := toward y.limE (limTarget y.limCeil (s.fld rPwrStatus 16 7)) st
  let idle := Nat.min 65536 (y.limIdle + 64)
  let act := if y.limIdle ≤ s.fld rPwrSlope 8 16 then (if y.limIdle = 0 then e else y.limAct)
    else y.limAct - st
  .next (s.setWell w (x.setSlice i { y with limE := e, limIdle := idle, limAct := act }))

end Sys2Proof.Machine
end

