-- ==== Sys2Proof/Machine/Security.lean ====
section
/-! DEFINITION. Security and debug (chapter 23): the OTP, firmware verification, attestation, the
random source and debug levels. SHA3-512 and ML-DSA-87 are the free functions of Config. -/

namespace Sys2Proof.Machine

/-! ### OTP -/

/-- OTP byte at an offset (R529). -/
def otpByte (s : State) (a : Nat) : Byte := SMap.get (fun _ => 0) s.sec.otp a
/-- n OTP bytes from an offset. -/
def otpBytes (s : State) (a n : Nat) : List Byte := (List.range n).map fun i => otpByte s (a + i)
/-- A little-endian OTP number. -/
def otpNat (s : State) (a n : Nat) : Nat := leNat (otpBytes s a n)
/-- Programs bits: programming only sets them (R529). -/
def otpOr (s : State) (a : Nat) (bs : List Byte) : State :=
  let o := (List.range bs.length).foldl (fun (m : SMap Byte) i =>
    SMap.set (fun _ => 0) m (a + i) (SMap.get (fun _ => 0) m (a + i) ||| bs.getD i 0)) s.sec.otp
  { s with sec := { s.sec with otp := o } }

/-- Bits set in a number of n bits. -/
def popcount (v n : Nat) : Nat := (List.range n).foldl (fun t i => t + v / 2 ^ i % 2) 0

/-- The SVN counter: its bits set (R529). -/
def otpSvn (s : State) : Nat := popcount (otpNat s 0x2090 8) 64
/-- The fuse word at 0x20A0 (R529). -/
def otpFuses (s : State) : Nat := otpNat s 0x20A0 8
/-- Highest debug level the fuses allow (R529, R541). -/
def debugCap (s : State) : Nat :=
  if otpFuses s / 128 % 2 = 1 then 0 else if otpFuses s / 64 % 2 = 1 then 1 else 2

/-! ### Firmware -/

/-- Byte of the firmware image in the boot NOR (R525). -/
def fwByte (s : State) (a : Nat) : Byte := SMap.get (fun _ => 0) s.boot.fw a
/-- n bytes of the image. -/
def fwBytes (s : State) (a n : Nat) : List Byte := (List.range n).map fun i => fwByte s (a + i)
/-- A little-endian field of the image header (R526). -/
def fwNat (s : State) (a n : Nat) : Nat := leNat (fwBytes s a n)

/-- The digest D: SHA3-512 over the header and the body (R527). -/
def fwDigest (s : State) : List Byte :=
  Config.sha3 (fwBytes s 0 0x40 ++ fwBytes s 0x1C80 (fwNat s 0x0C 4))

/-- The six checks of R527, in order. DESIGN CHOICE: log 142. -/
def fwVerify (s : State) : Bool :=
  let slot := fwNat s 6 1
  fwNat s 0 4 == 0x46574143 && fwNat s 4 2 == 1 && (fwBytes s 0x10 48).all (· == 0)
    && fwNat s 0x0C 4 % 64 == 0 && decide (fwNat s 0x0C 4 ≤ 393216)
    && decide (slot ≤ 3) && otpNat s (0x2100 + slot * 64) 64 != 0
    && otpFuses s / 2 ^ slot % 2 == 0
    && Config.sha3 (fwBytes s 0x40 2592) == otpBytes s (0x2100 + slot * 64) 64
    && decide (otpSvn s ≤ fwNat s 8 4)
    && Config.dsaVerify (fwBytes s 0x40 2592) (fwDigest s) (fwBytes s 0xA60 4627)

/-- Is the power-good guard of R507 satisfied? -/
def powerGood (s : State) : Bool := s.boot.supply

/-- FLAGS of a verified image: the SVN counter is blown up to SVN, flagged slots are revoked (R528). -/
def fwFlags (s : State) : State :=
  let f := fwNat s 7 1
  let svn := fwNat s 8 4
  let s := if f % 2 = 1 && powerGood s then otpOr s 0x2090 (leBytes (2 ^ svn - 1) 8) else s
  let rev := (f / 2) % 16 &&& (15 - 2 ^ (fwNat s 6 1))
  if powerGood s then otpOr s 0x20A0 [BitVec.ofNat 8 rev] else s

/-- Bytes of a text. -/
def asciiBytes (t : List Nat) : List Byte := t.map (BitVec.ofNat 8)

/-- The seeds of the device identity key and the firmware alias key (R532): "CAORD-DIK" in ASCII
follows the UDS for the first. -/
def dikSeed (s : State) : List Byte :=
  (Config.sha3 (otpBytes s 0x2400 32
    ++ asciiBytes [0x43, 0x41, 0x4F, 0x52, 0x44, 0x2D, 0x44, 0x49, 0x4B])).take 32
/-- The seed of the firmware key. -/
def fakSeedOf (s : State) : List Byte :=
  (Config.sha3 (otpBytes s 0x2400 32 ++ fwDigest s ++ leBytes (fwNat s 8 4) 4)).take 32

/-- The certificate over the firmware key, signed by the device identity key (R532, R533). -/
def certOf (s : State) : List Byte :=
  let body := leBytes 2 4 ++ leBytes (fwNat s 8 4) 4 ++ otpBytes s 0x2080 8 ++ fwDigest s
    ++ Config.dsaPublic (fakSeedOf s)
  body ++ Config.dsaSign s.freeCtr (dikSeed s) (Config.sha3 body)

/-- A verified image: its digest, version and slot are reported, the keys derived, the flags acted on
(R527, R528, R532). With the UDS closed no key exists (R538). -/
def fwAccept (s : State) : State :=
  let d := fwDigest s
  let closed := s.bit rSecStatus 27
  let s := { s with sec := { s.sec with
    fakSeed := if closed then [] else fakSeedOf s, fakCert := if closed then [] else certOf s } }
  let s := s.drawn
  let s := (List.range 8).foldl (fun (t : State) i =>
    t.wr (rSecFwDigest i) (BitVec.ofNat 64 (leNat ((d.drop (8 * i)).take 8)))) s
  let s := (s.setBit rSecStatus 31 true).setFld rSecStatus 24 2 (fwNat s 6 1)
  let s := s.setFld rSecSvn 16 7 (fwNat s 8 4)
  let s := fwFlags s
  s.setFld rSecSvn 0 7 (otpSvn s)

/-! ### Attestation and the random source -/

/-- A write of `SEC_ATTEST.GO`: discarded while BUSY is set (R534). -/
def attestGo (s : State) : State :=
  if s.bit rSecAttest 30 then s
  else s.wr rSecAttest (BitVec.ofNat 64 (1 <<< 30))

/-- `ATTEST_GO`. -/
def execAttestGo (s : State) : Out := clocked s <| .next (attestGo s)

/-- The first 0xA0 bytes of the report (R534). -/
def reportBody (s : State) : List Byte :=
  (List.range 8).flatMap (fun i => leBytes (s.rd (rSecNonce i)).toNat 8)
    ++ (List.range 8).flatMap (fun i => leBytes (s.rd (rSecFwDigest i)).toNat 8)
    ++ otpBytes s 0x2080 8 ++ leBytes s.dt 8 ++ leBytes (s.rd rCapId).toNat 4
    ++ leBytes (s.rd rCapUnits).toNat 4 ++ leBytes (s.fld rSecSvn 16 7) 4
    ++ [BitVec.ofNat 8 (s.fld rDbgStatus 30 2), 0, 0, 0]

/-- Bytes put into the attestation window from an offset. -/
def attPut (m : SMap Byte) (a : Nat) (bs : List Byte) : SMap Byte :=
  (List.range bs.length).foldl (fun m i => SMap.set (fun _ => 0) m (a + i) (bs.getD i 0)) m

/-- `ATTEST_DONE`: the report is signed and shown with both certificates, or the attestation completes
with SEC_VIOLATION while the UDS is closed or the random source has failed (R534). -/
def execAttestDone (s : State) : Out := clocked s <|
  if s.bit rSecAttest 30 then
    if s.bit rSecStatus 27 || s.bit rSecStatus 30 then
      .next (s.wr rSecAttest (BitVec.ofNat 64 (stSecViolation <<< 16)))
    else
      let b := reportBody s
      let sig := Config.dsaSign s.freeCtr s.sec.fakSeed (Config.sha3 b)
      let m := attPut [] 0x8000 (otpBytes s 0x3000 7299)
      let m := attPut m 0xA000 s.sec.fakCert
      let m := attPut m 0xC000 (b ++ sig)
      let s := { s.drawn with sec := { s.sec with att := m } }
      .next (s.wr rSecAttest (BitVec.ofNat 64 (1 <<< 29)))
  else .next s

/-- The value a read of `SEC_RNG` returns: 64 fresh bits, or zero after a health failure (R535). -/
def rngValue (s : State) : Nat × State :=
  if s.bit rSecStatus 30 then (0, s) else ((Config.random s.freeCtr 0).toNat, s.drawn)

/-- `RNG_READ`. -/
def execRngRead (s : State) : Out := clocked s <|
  let r := rngValue s
  .next (respond r.2 .u0 true (leBytes r.1 8))

/-- `RNG_HEALTH_FAIL` (R535). DEDUCED: log 143. -/
def execRngHealthFail (s : State) : Out := clocked s <|
  .next (logOnly (s.setBit rSecStatus 30 true) (mkFault stSecViolation 0xE 0))

/-! ### Provisioning -/

/-- May this OTP word be programmed over a path (R531)? -/
def otpAllowed (s : State) (p : Path) (a : Nat) : Bool :=
  let host := match p with
    | .u0 | .u1 | .sideband => true
    | _ => false
  host && ((decide (0x2098 ≤ a) && decide (a < 0x20A8))
    || (decide (0x2200 ≤ a) && decide (a < 0x2280) && otpNat s (a / 64 * 64) 64 == 0))

/-- A write of `SEC_PROV_CTRL.GO` (R531). -/
def otpProgram (s : State) (p : Path) : State :=
  let a := s.fld rSecProvAddr 3 13 * 8
  if otpAllowed s p a then
    let s := if powerGood s then otpOr s a (leBytes (s.rd rSecProvData).toNat 8) else s
    (s.setFld rSecProvCtrl 16 8 0).setFld rDbgStatus 28 2 (debugCap s)
  else s.setFld rSecProvCtrl 16 8 stSecViolation

/-- `OTP_PROGRAM`. -/
def execOtpProgram (path : Path) (s : State) : Out := clocked s <| .next (otpProgram s path)

/-! ### Debug -/

/-- A write of `DBG_CTRL.CHAL`: a fresh challenge, unless sixteen tokens have been refused or the
random source has failed (R535, R537). -/
def debugChallenge (s : State) : State :=
  if 16 ≤ s.fld rDbgStatus 0 5 || s.bit rSecStatus 30 then s
  else
    let s' := (List.range 8).foldl
      (fun (t : State) i => t.wr (rDbgChal i) (Config.random s.freeCtr (i + 1))) s
    s'.drawn.setBit rDbgStatus 27 true

/-- `DEBUG_CHALLENGE`. -/
def execDebugChallenge (s : State) : Out := clocked s <| .next (debugChallenge s)

/-- Bytes of the response window (R537). -/
def respBytes (s : State) (a n : Nat) : List Byte :=
  (List.range n).map fun i => SMap.get (fun _ => 0) s.sec.resp (a + i)

/-- The message a token signs (R537). -/
def tokenMessage (s : State) (level : Nat) : List Byte :=
  Config.sha3 ((List.range 8).flatMap (fun i => leBytes (s.rd (rDbgChal i)).toNat 8)
    ++ otpBytes s 0x2080 8 ++ [BitVec.ofNat 8 level])

/-- Is the token accepted (R537)? DEDUCED: log 144. -/
def tokenOk (s : State) (level : Nat) : Bool :=
  let pk := respBytes s 0x4000 2592
  let h := Config.sha3 pk
  let slot := fun i => otpFuses s / 2 ^ (4 + i) % 2 == 0 && otpNat s (0x2200 + 64 * i) 64 != 0
    && h == otpBytes s (0x2200 + 64 * i) 64
  s.bit rDbgStatus 27 && (slot 0 || slot 1)
    && Config.dsaVerify pk (tokenMessage s level) (respBytes s 0x4A20 4627)
    && decide (s.fld rDbgStatus 30 2 < level) && decide (level ≤ debugCap s)

/-- A write of `DBG_CTRL.SUBMIT`: the challenge is consumed; a level-1 token opens level 1; a level-2
token stops the DC, erases every secret, closes the UDS and requests a security reset after which the
level opens; a refusal is logged and counted (R537, R538). -/
def debugSubmit (s : State) (level : Nat) : State :=
  let ok := tokenOk s level
  let s := s.setBit rDbgStatus 27 false
  if !ok then
    let s := s.setFld rDbgStatus 16 8 stSecViolation
    let s := s.setFld rDbgStatus 0 5 (Nat.min 16 (s.fld rDbgStatus 0 5 + 1))
    logOnly s (mkFault stSecViolation 0xE 0)
  else
    let s := s.setFld rDbgStatus 16 8 0
    if level = 1 then s.setFld rDbgStatus 30 2 1
    else
      let s := (s.setBit rErrStatus 31 true).setBit rSecStatus 27 true
      { s with
        sec := { s.sec with fakSeed := [], fakCert := [] }
        boot := { s.boot with warm := some (.security, false), openL2 := true, devReady := false } }

/-- `DEBUG_SUBMIT`. -/
def execDebugSubmit (level : BitVec 2) (s : State) : Out := clocked s <|
  .next (debugSubmit (s.setFld rDbgCtrl 0 2 level.toNat) level.toNat)

/-- `DEBUG_CLOSE`: the level returns to 0 at once (R539). -/
def execDebugClose (s : State) : Out := clocked s <| .next (s.setFld rDbgStatus 30 2 0)

/-- A whole write of `DBG_CTRL` (R541). -/
def dbgCtrlWrite (s : State) (v : W64) : State :=
  let s := s.setFld rDbgCtrl 0 2 (bits v 0 2)
  let s := if bitAt v 31 then debugChallenge s else s
  let s := if bitAt v 30 then debugSubmit s (bits v 0 2) else s
  if bitAt v 29 then s.setFld rDbgStatus 30 2 0 else s

/-- `KEY_ENGINE_FAULT`: a device-scoped SEC_VIOLATION (R540). -/
def execKeyEngineFault (complement : Bool) (s : State) : Out := clocked s <|
  .next (devFault (s.setBit rSecStatus (if complement then 29 else 28) true)
    (mkFault stSecViolation 0xE 0))

end Sys2Proof.Machine
end

