-- ==== Sys2Proof/Machine/SelfTest.lean ====
section
/-! DEFINITION. Shutdown self-test and repair (chapter 22): partitions, repair entries, the two record
copies of the boot NOR, OTP rows, and the application of a repair at phase 2 of a start. -/

namespace Sys2Proof.Machine

/-! ### Partitions -/

/-- The unit masks as fused, which a repair does not change (R1, R3, R4, R9, R512). -/
def fusedUnits (s : State) : W64 := s.boot.fuseUnits

/-- Is partition n fitted on the die (R512)? -/
def partFitted (s : State) (n : Nat) : Bool :=
  let fused := fusedUnits s
  let well := fun w => bitAt fused (24 + w)
  if n < 64 then well (n / 4 % 8)
  else if n < 104 then well ((n - 64) / 5)
  else if n < 112 then well (n - 104)
  else if n < 120 then bitAt fused (8 + (n - 112))
  else if n < 128 then true
  else if n < 134 then bitAt fused (16 + (n - 128))
  else if n < 138 then bitAt fused (4 + (n - 134))
  else if n < 140 then bitAt fused (n - 138)
  else if n < 142 then bitAt fused (2 + (n - 140))
  else n == 142

/-- The numbers lo to lo + n − 1. -/
def numbers (lo n : Nat) : List Nat := (List.range n).map (lo + ·)

/-- Partitions in the order of R513: longest budget first, memory controllers last. -/
def partOrder (s : State) : List Nat :=
  (numbers 134 4 ++ numbers 64 40 ++ [142] ++ numbers 104 8 ++ numbers 120 8 ++ numbers 0 64
    ++ numbers 128 6 ++ numbers 138 2 ++ numbers 140 2 ++ numbers 112 8).filter (partFitted s)

/-- `SST_STATUS.PART`: the lowest partition under test. -/
def lowest (l : List Nat) : Nat := l.foldl Nat.min 255

/-- `SST_STATUS` is brought up to date. -/
def sstStatus (s : State) (st : Nat) : State :=
  let s := s.setFld rSstStatus 29 3 st
  let s := s.setFld rSstStatus 16 8 (if s.sst.testing.isEmpty then 0 else lowest s.sst.testing)
  s.setFld rSstStatus 0 16 (Nat.min 65535 s.sst.ms)

/-- SST_PASS_START (R511, R513): four partitions at once. -/
def sstStart (s : State) (shutdown : Bool) : State :=
  let s := { s with sst := { s.sst with
    shutdown := shutdown, testing := (partOrder s).take 4, todo := (partOrder s).drop 4, done := [],
    repairs := [], fails := [], exhausted := false, ms := 0, committing := false } }
  sstStatus (s.setBit rSstStatus 28 (!shutdown)) 1

/-- A pass is testing or committing. -/
def sstBusy (s : State) : Bool := s.fld rSstStatus 29 3 == 1 || s.fld rSstStatus 29 3 == 2

/-! ### Entries -/

/-- Fields of an entry (R519). -/
def eKind (e : W64) : Nat := bits e 60 4
/-- PART. -/
def ePart (e : W64) : Nat := bits e 52 8
/-- MEM. DEDUCED: log 139. -/
def eMem (e : W64) : Nat := bits e 40 12
/-- ADDR. -/
def eAddr (e : W64) : Nat := bits e 18 22
/-- SPARE. -/
def eSpare (e : W64) : Nat := bits e 0 9

/-- An entry from its fields (R519). -/
def mkEntry (kind part mem addr bit spare : Nat) : W64 :=
  BitVec.ofNat 64 ((kind % 16) <<< 60 + (part % 256) <<< 52 + (mem % 4096) <<< 40
    + (addr % 2 ^ 22) <<< 18 + (bit % 512) <<< 9 + spare % 512)

/-- Two entries name the same site: KIND, PART and MEM agree, and ADDR for a spare row (R521). -/
def sameSite (a b : W64) : Bool :=
  eKind a == eKind b && ePart a == ePart b && eMem a == eMem b
    && (eKind a != 3 || eAddr a == eAddr b)

/-- Entries of a kind and partition. -/
def countKind (l : List W64) (kind part : Nat) : Nat :=
  (l.filter fun e => eKind e == kind && ePart e == part).length

/-- The first free spare DPU of a slice, given the entries in force (R121, R517). -/
def freeSpare (l : List W64) (part : Nat) : Option Nat :=
  (numbers 256 8).find? fun d =>
    !l.any fun e => ePart e == part
      && ((eKind e == 1 && eSpare e == d) || (eKind e == 5 && eMem e == d))

/-- The well whose column partition this is, and the hub partition of that well. -/
def colWell (part : Nat) : Nat := (part - 64) / 5

/-- Some repair entry retires a column of the well, and a spare-column failure is listed. -/
def wellColumns (l : List W64) (w : Nat) : List Nat :=
  (l.filter fun e => eKind e == 2 && decide (64 ≤ ePart e) && decide (ePart e < 104)
    && colWell (ePart e) == w).map fun e => (ePart e - 64) % 5

/-- The spare column of a well has failed. -/
def spareColFailed (l : List W64) (w : Nat) : Bool :=
  l.any fun e => eKind e == 5 && ePart e == 64 + 5 * w + 4

/-- A column of part `part` fails: the spare column takes it, or nothing covers it (R169, R170,
R517). -/
def columnEntry (l : List W64) (part mem addr bit : Nat) : W64 :=
  let w := colWell part
  if (part - 64) % 5 = 4 then mkEntry 5 part mem addr bit 4
  else if (wellColumns l w).isEmpty && !spareColFailed l w then mkEntry 2 part mem addr bit 4
  else mkEntry 4 part mem addr bit 0

/-- The entry for a failing logic part, given the entries in force (R517). -/
def logicEntry (l : List W64) (part : Nat) : W64 :=
  if 64 ≤ part ∧ part < 104 then columnEntry l part 0 0 0 else mkEntry 4 part 0 0 0 0

/-- The entry for a failing memory word, given the entries in force (R517). -/
def wordEntry (l : List W64) (part mem addr bit : Nat) : W64 :=
  let rows := (l.filter fun e => eKind e == 3 && ePart e == part && eMem e == mem).length
  if part < 64 ∧ mem < 256 then
    match freeSpare l part with
    | some d => mkEntry 1 part mem addr bit d
    | none => mkEntry 4 part mem addr bit 0
  else if part < 64 ∧ mem < 264 then mkEntry 5 part mem addr bit mem
  else if 104 ≤ part ∧ part < 112 then mkEntry 4 part mem addr bit 0
  else if rows < 2 then mkEntry 3 part mem addr bit rows
  else if 64 ≤ part ∧ part < 104 then columnEntry l part mem addr bit
  else mkEntry 4 part mem addr bit 0

/-- The site of a failure is covered by an entry already in force. -/
def covered (l : List W64) (part mem addr : Nat) : Option W64 :=
  l.find? fun e => ePart e == part && eMem e == mem && (eKind e != 3 || eAddr e == addr)

/-! ### OTP rows -/

/-- Row i's valid fuse is blown (R507, R529). -/
def rowValid (s : State) (i : Nat) : Bool := bitAt (otpByte s (0x2000 + i / 8)) (i % 8)
/-- Row i (R521). -/
def rowEntry (s : State) (i : Nat) : W64 := BitVec.ofNat 64 (otpNat s (8 * i) 8)
/-- Row i can still be programmed: no valid fuse, no bit set, not cut off while it was programmed
(R507). -/
def rowFree (s : State) (i : Nat) : Bool :=
  !rowValid s i && rowEntry s i == 0 && !s.sec.consumed.contains i
/-- The entries of the valid rows, in row order. -/
def otpEntries (s : State) : List W64 :=
  ((List.range 1024).filter (rowValid s)).map (rowEntry s)
/-- The first free row. -/
@[irreducible] def firstFree (s : State) : Option Nat := (List.range 1024).find? (rowFree s)
/-- Rows free. -/
def rowsFree (s : State) : Nat := ((List.range 1024).filter (rowFree s)).length

/-- Every repair entry in force: OTP rows first, then those of the record not listed there, each once
(R522). -/
def allEntries (s : State) : List W64 :=
  let o := otpEntries s
  o ++ s.sst.entries.filter fun e => !o.any (sameSite e)

/-- One failure found: the repair it gets, its fail entry, and whether nothing covers it (R517, R519,
R520). -/
def takeFailure (s : State) (part mem addr bit : Nat) (logic : Bool) : State :=
  let l := allEntries s ++ s.sst.repairs
  let s' : State := match covered l part mem addr with
    | some e => { s with sst := { s.sst with fails := s.sst.fails ++ [e] } }
    | none =>
      let e := if logic then logicEntry l part else wordEntry l part mem addr bit
      { s with sst := { s.sst with
        repairs := s.sst.repairs ++ [e], fails := s.sst.fails ++ [e],
        exhausted := s.sst.exhausted || eKind e == 4 } }
  if 64 < s'.sst.fails.length then
    { s' with sst := { s'.sst with fails := s'.sst.fails.take 64, exhausted := true } }
  else s'

/-! ### Re-initialisation (R516) -/

/-- SRAM bytes from lo to hi − 1 hold zero with valid check symbols. -/
def clearMem (s : State) (lo hi : Nat) : State :=
  { s with mem := s.mem.filter fun e => decide (e.1 < lo) || decide (hi ≤ e.1)
           ecc := s.ecc.filter fun e => decide (64 * e.1 < lo) || decide (hi ≤ 64 * e.1) }

/-- Slice i of well w: weight bank, sidecar, accumulators, scale and row-sum registers, programs. -/
def slicePart (s : State) (w i : Nat) : State :=
  let x := s.well w
  let y := x.slice i
  let s := s.setWell w { x.setSlice i { y with
    prog := [], acc := [], colsum := [], kcount := [], accU8 := [], sidecar := [], scale := [], rowsum := [] } with
    ctxs := [] }
  clearMem s (weightAddr w i 0 0) (weightAddr w i 256 0)

/-- Logical column that physical column p of well w serves; none for an unused one (R169). DEDUCED: log 141. -/
def servedColumn (s : State) (w p : Nat) : Option Nat :=
  let x := s.well w
  if p = 4 then (if x.repairUsed then some x.repairCol else none)
  else if x.repairUsed && x.repairCol == p then none else some p

/-- Units of logical column c. -/
def columnUnits (c : Nat) : List Nat := (List.range 96).filter fun f => (unitCoord f).1 == c

/-- A logical column of well w: cisterns with sideband, port FIFOs, schedule memories. -/
def columnPart (s : State) (w c : Nat) : State :=
  let us := columnUnits c
  let x := s.well w
  let x := us.foldl (fun (x : Well) f => x.setUnit f { x.unit f with ports := [] }) x
  let s := s.setWell w { x with
    ctxs := []
    sw := x.sw.filter fun e => !us.contains (e.1 / 1024 % 96)
    switches := x.switches.filter fun e => !us.contains (e.1 % 96)
    qsb := x.qsb.filter fun e => !us.contains (48 + e.1 / 6144) }
  us.foldl (fun s f => if f < 48 then s
    else clearMem s (cisternAddr w (f - 48) 0) (cisternAddr w (f - 48) 0x80000)) s

/-- A well's hub: crossing, express-track and relay FIFOs. -/
def hubPart (s : State) (w : Nat) : State :=
  let x := s.well w
  let x := (List.range 8).foldl (fun (x : Well) i =>
    x.setSlice i { x.slice i with relayFifo := [], relayIn := [] }) x
  s.setWell w { x with cross := [] }

/-- A tested partition writes every SRAM it holds with zero and valid check symbols (R512, R516).
DEDUCED: log 140. -/
def partReset (s : State) (p : Nat) : State :=
  if p < 64 then slicePart s (p / 4 % 8) (p % 4 + (if p < 32 then 0 else 4))
  else if p < 104 then
    match servedColumn s ((p - 64) / 5) ((p - 64) % 5) with
    | some c => columnPart s ((p - 64) / 5) c
    | none => s
  else if p < 112 then hubPart s (p - 104)
  else if p < 120 then s.setMc (p - 112) { s.mc (p - 112) with cache := [], wbq := [] }
  else if p < 128 then
    (List.range 256).foldl (fun s i => s.setStr (256 * (p - 120) + i) Stream.reset) s
  else if p < 134 then s.setPort (p - 128) { s.port (p - 128) with retry := [] }
  else if p < 138 then
    clearMem s (0x100080000000 + (p - 134) * 0x1000000) (0x100080000000 + (p - 133) * 0x1000000)
  else if p < 140 then s
  else if p < 142 then
    let lo := rFiProfCtrl (p - 140) 0
    { s with regs := s.regs.filter fun e => decide (e.1 < lo) || decide (lo + 0x400 ≤ e.1) }
  else
    { s with dc := s.dc.rings.foldl (fun (d : Dc) e => d.setRing e.1 { e.2 with window := [] }) s.dc
             rim := { s.rim with image := [] } }

/-- `PARTITION_TEST_DONE`: a partition under test reports; it is re-initialised with zeros, and the
next one begins, or the record is committed after the last (R513 to R517, R520). -/
def execPartitionTestDone (part : Fin 143) (r : BistResult) (s : State) : Out := clocked s <|
  if s.fld rSstStatus 29 3 == 1 && s.sst.testing.contains part.val then
    let p := part.val
    let s := if r.logicFail then takeFailure s p 0 0 0 true else s
    let s := r.words.foldl
      (fun s e => takeFailure s p e.mem.toNat e.addr.toNat e.bit.toNat false) s
    let rest := s.sst.testing.filter (· != p)
    let s := partReset s p
    let s := { s with sst := { s.sst with
      testing := rest ++ s.sst.todo.take 1, todo := s.sst.todo.drop 1,
      done := s.sst.done ++ [p], ms := s.sst.ms + r.ms.toNat } }
    if s.sst.testing.isEmpty then
      .next (sstStatus { s with sst := { s.sst with committing := true } } 2)
    else .next (sstStatus s 1)
  else .next s

/-! ### Records -/

/-- A record's bytes before its CRC (R520). -/
def recordBody (seq : Nat) (cold : Bool) (reps fails : List W64) : List Byte :=
  leBytes 0x53545351 4 ++ leBytes seq 4 ++ leBytes reps.length 2
    ++ [BitVec.ofNat 8 fails.length, BitVec.ofNat 8 (b2n cold)] ++ leBytes 0 4
    ++ (reps ++ fails).flatMap fun e => leBytes e.toNat 8

/-- A whole record (R520). -/
def recordBytes (seq : Nat) (cold : Bool) (reps fails : List W64) : List Byte :=
  let b := recordBody seq cold reps fails
  b ++ leBytes (crc32c b) 4

/-- A little-endian field of a record copy. -/
def recNat (r : List Byte) (off n : Nat) : Nat := leNat ((r.drop off).take n)
/-- Bytes before the CRC. -/
def recLen (r : List Byte) : Nat := 16 + 8 * (recNat r 8 2 + recNat r 10 1)
/-- A copy is valid when its CRC matches (R506). -/
def recValid (r : List Byte) : Bool :=
  decide (recLen r + 4 ≤ r.length) && recNat r 0 4 == 0x53545351
    && crc32c (r.take (recLen r)) == recNat r (recLen r) 4
/-- n entries from an offset. -/
def recEntries (r : List Byte) (off n : Nat) : List W64 :=
  (List.range n).map fun i => BitVec.ofNat 64 (recNat r (off + 8 * i) 8)

/-- Sequence number a comes after b, modulo 2³² (R506). -/
def seqAfter (a b : Nat) : Bool :=
  let d := (a + 2 ^ 32 - b) % 2 ^ 32
  decide (0 < d) && decide (d < 2 ^ 31)

/-- The record the MP selects: 0 none, 1 copy A, 2 copy B (R506). -/
def selectCopy (s : State) : Nat :=
  match recValid s.boot.recA, recValid s.boot.recB with
  | true, true => if seqAfter (recNat s.boot.recB 4 4) (recNat s.boot.recA 4 4) then 2 else 1
  | true, false => 1
  | false, true => 2
  | false, false => 0

/-- REPAIR_SELECT: `SST_STATUS.COLD` tells whether the record's pass was made at a cold start (R506, R520, R523). -/
def repairSelect (s : State) : State :=
  let c := selectCopy s
  let r := if c = 1 then s.boot.recA else s.boot.recB
  if c = 0 then
    { s with sst := { s.sst with seq := 0, src := 0, entries := [], lastFails := [] } }
  else
    let n := recNat r 8 2
    let s := s.setBit rSstStatus 28 (recNat r 0xB 1 % 2 == 1)
    { s with sst := { s.sst with
      seq := recNat r 4 4, src := c, entries := recEntries r 16 n,
      lastFails := recEntries r (16 + 8 * n) (recNat r 10 1) } }

/-- Failed physical DPUs of a slice that the entries name: those replaced and failed spares (R121, R517). -/
def failedDpus (l : List W64) (p : Nat) : List Nat :=
  ((l.filter fun e => (eKind e == 1 || eKind e == 5) && ePart e == p).map eMem).eraseDups

/-- Kinds that leave a whole unit failed. -/
def unitFailed (l : List W64) (part : Nat) : Bool := l.any fun e => eKind e == 4 && ePart e == part

/-- Well w cannot be used: its hub failed, a column failed with no spare, or the spare failed while it
serves a column (R170, R517). -/
def wellFailedBy (l : List W64) (w : Nat) : Bool :=
  unitFailed l (104 + w) || (List.range 5).any (fun c => unitFailed l (64 + 5 * w + c))
    || decide (1 < (wellColumns l w).length) || (!(wellColumns l w).isEmpty && spareColFailed l w)

/-- Slice partition p cannot be used: its logic failed, or more than 8 of its DPUs (R122, R517). -/
def sliceFailedBy (l : List W64) (p : Nat) : Bool := unitFailed l p || decide (8 < (failedDpus l p).length)

/-- Some failure is not covered by a spare (R122, R517). -/
def uncovered (l : List W64) : Bool :=
  (l.any fun e => eKind e == 4) || (List.range 64).any (sliceFailedBy l) || (List.range 8).any (wellFailedBy l)

/-- A mask of n bits from a predicate. -/
def maskOf (n : Nat) (p : Nat → Bool) : Nat :=
  (List.range n).foldl (fun t i => t + b2n (p i) <<< i) 0

/-- The repair of one slice is applied: spares in use and failed (R121 to R123, R522). -/
def applySlice (l : List W64) (s : State) (p : Nat) : State :=
  let w := p / 4 % 8
  let i := p % 4 + (if p < 32 then 0 else 4)
  let x := s.well w
  let n := countKind l 1 p
  let f := sliceFailedBy l p
  if n = 0 ∧ f = false then s
  else s.setWell w (x.setSlice i { x.slice i with spares := Nat.min 8 n, failed := f })

/-- A well is marked failed: it is held in reset, and `SF_STATUS.STATE` says so (R25, R170, R187). -/
def wellMarkFailed (s : State) (w : Nat) : State :=
  s.setWell w { s.well w with run := .failed, failedWell := true }

/-- The repair of one well's columns is applied (R169, R170, R191). -/
def applyWell (l : List W64) (s : State) (w : Nat) : State :=
  let c := wellColumns l w
  if c.isEmpty && !wellFailedBy l w then s
  else
    let x := s.well w
    let s := s.setWell w { x with repairUsed := !c.isEmpty, repairCol := c.headD 0 }
    if wellFailedBy l w then wellMarkFailed s w else s

/-- The repair in force is applied to the units and reported (R49, R518, R522, R523). -/
def repairApply (s : State) : State :=
  let l := allEntries s
  let s := (List.range 64).foldl (applySlice l) s
  let s := (List.range 8).foldl (applyWell l) s
  let gone := fun lo n base => maskOf n (fun i => unitFailed l (lo + i)) <<< base
  let units := BitVec.ofNat 64 (gone 138 2 0 + gone 140 2 2 + gone 134 4 4 + gone 128 6 16)
  let s := s.wr rCapUnits (fusedUnits s &&& ~~~units)
  let dpu := (List.range 64).foldl (fun t p => t + Nat.min 8 (countKind l 1 p)) 0
  let s := s.wr rCapRepair (BitVec.ofNat 64
    (maskOf 8 (fun w => !(wellColumns l w).isEmpty) <<< 24 + (s.sst.seq % 256) <<< 16
      + s.sst.src <<< 14 + b2n (s.sst.exhausted || uncovered l) <<< 13
      + Nat.min 512 dpu))
  let s := s.wr rSstSliceFail (BitVec.ofNat 64 (maskOf 64 fun p => sliceFailedBy l p))
  let s := s.wr rSstUnitFail (BitVec.ofNat 64 (maskOf 39 fun p => unitFailed l (104 + p)))
  let s := s.wr rSstColFail (BitVec.ofNat 64 (maskOf 40 fun p =>
    unitFailed l (64 + p) || decide (0 < countKind l 2 (64 + p)) || decide (0 < countKind l 5 (64 + p))))
  let s := (List.range 64).foldl
    (fun (t : State) i => t.wr (rSstFail i) (s.sst.lastFails.getD i 0)) s
  let s := s.setFld rSstSummary 25 7 s.sst.lastFails.length
  s.setFld rSstSummary 10 11 (rowsFree s)

/-! ### Commit -/

/-- Entries of the record being replaced that were found again, in entry order (R521). -/
def hardenList (s : State) : List W64 :=
  (s.sst.entries.filter fun e => s.sst.fails.any (sameSite e)).take 15

/-- OTP_HARDEN: entries go into free rows, fuse last, while the supply is good; answers those
programmed (R507, R521). -/
def hardenAll (s : State) : List W64 → List W64 × State
  | [] => ([], s)
  | e :: r =>
    match firstFree s with
    | none => ([], s)
    | some i =>
      let s := otpOr (otpOr s (8 * i) (leBytes e.toNat 8)) (0x2000 + i / 8)
        [BitVec.ofNat 8 (2 ^ (i % 8))]
      let t := hardenAll s r
      (e :: t.1, t.2)

/-- SST_RECORD_COMMIT: the record is written into the copy not selected (R507, R520). -/
def writeRecord (s : State) (reps : List W64) : State :=
  let seq := (s.sst.seq + 1) % 2 ^ 32
  let b := recordBytes seq (!s.sst.shutdown) (reps.take 4096) (s.sst.fails.take 64)
  { s with boot := if s.sst.src = 1 then { s.boot with recB := b } else { s.boot with recA := b } }

/-- `SST_COMMIT_COMPLETE` (R507, R520, R521): the pass is done; before W5 the device asks for its
power to be cut, at a cold start it applies the new record. -/
def execSstCommitComplete (powerGood : Bool) (s : State) : Out := clocked s <|
  if s.fld rSstStatus 29 3 == 2 then
    let before := allEntries s
    let fresh := (s.sst.fails.filter fun e => !before.any (sameSite e)).length
    let h := if powerGood then hardenAll s (hardenList s) else ([], s)
    let reps := (s.sst.entries.filter fun e => !h.1.contains e) ++ s.sst.repairs
    let s := writeRecord h.2 reps
    let s := (s.setFld rSstSummary 21 4 h.1.length).setFld rSstSummary 0 10 (Nat.min 1023 fresh)
    let s := s.setFld rSstSummary 10 11 (rowsFree s)
    let s := sstStatus { s with sst := { s.sst with committing := false, testing := [] } } 3
    if s.sst.shutdown then
      .next { s.setFld rPwrWake 29 3 5 with pwr := { s.pwr with offPin := false } }
    else .next (repairApply (repairSelect s))
  else .next s

/-- A reset or power loss during a commit: the copy being written may be torn and the next OTP row
cut off; which is open. The record in force stays (R507, R524). -/
def tearCommit (s : State) : State :=
  if s.sst.committing then
    let k := Config.pick 2 s.freeCtr
    let s := if k % 2 = 1 then
        { s with boot := if s.sst.src = 1 then { s.boot with recB := [] }
                         else { s.boot with recA := [] } }
      else s
    let s := if k / 2 % 2 = 1 ∧ hardenList s ≠ [] then
        match (List.range 1024).find? (rowFree s) with
        | some i => { s with sec := { s.sec with consumed := i :: s.sec.consumed } }
        | none => s
      else s
    s.drawn
  else s

end Sys2Proof.Machine
end

