-- ==== Sys2Proof/Machine/Boot.lean ====
section
/-! DEFINITION. Reset and start (chapter 21): power-on and warm reset, what survives them, and the
phases of a start. MP-only resets are in Manage.lean. -/

namespace Sys2Proof.Machine

/-- Fields of `HI_START`. -/
def startPhase (s : State) : Nat := s.fld rHiStart 29 3
/-- Sets `HI_START.PHASE`. -/
def setPhase (s : State) (p : Nat) : State := s.setFld rHiStart 29 3 p
/-- Phase READY has been reached. -/
def State.ready (s : State) : Bool := startPhase s == 5

/-! ### Reset levels -/

/-- The boot part after a reset: boot NOR, straps and saved training stay. -/
def bootKept (b : Boot) : Boot :=
  { b with warm := none, starting := true, fromOne := false, coldAsked := false,
           devReady := false, expiries := 0, openL2 := false }

/-- `CAP_ID` and `CAP_UNITS` read what die test has fused (R1, R3, R8, R9). -/
def fuseRegs (s : State) : State := (s.wr rCapId s.boot.fuseId).wr rCapUnits s.boot.fuseUnits

/-- A reset while a copy of the training results is being written may leave it torn, which is open; the
other copy stays (R366, R507). -/
def tearTraining (s : State) : State :=
  match s.boot.trainWrite with
  | none => s
  | some b =>
    let torn := fun (c : TrainCopy) => { c with good := Config.pick 3 s.freeCtr % 2 = 0 }
    { s.drawn with boot := { s.boot with
        trainWrite := none
        trainA := if b then s.boot.trainA else s.boot.trainA.map torn
        trainB := if b then s.boot.trainB.map torn else s.boot.trainB } }

/-- Every block at its reset value; boot NOR, OTP and a held thermal trip survive (R496, R471).
Commands waiting outside the block are not part of it. -/
def powerOn (s : State) : State :=
  let s := tearTraining (tearCommit s)
  let woke := s.fld rPwrWake 29 3 == 5
  let r := { State.reset with
    pending := s.pending, freeCtr := s.freeCtr
    sec := { Sec.reset with otp := s.sec.otp, consumed := s.sec.consumed }
    boot := bootKept s.boot
    pwr := { Pwr.reset with tripPin := s.pwr.tripPin } }
  let r := fuseRegs (r.wr rHiTrip (s.rd rHiTrip))
  (r.setFld rHiStart 26 3 (b2n woke)).setBit rTbCtrl 28 s.boot.ref25

/-- `POWER_ON_RESET`: PORST_N goes low; the level holds while it stays low (R496, R497). -/
def execPowerOnReset (s : State) : Out :=
  let s := powerOn s
  .next { s with boot := { s.boot with porst := false, starting := false } }

/-- `SUPPLY_OUT_OF_RANGE`: the power-on level, until the supply is back; a thermal trip held by
the power that is gone ends with it (R471, R553). DEDUCED: log 138. -/
def execSupplyOutOfRange (s : State) : Out :=
  let s := (powerOn s).wr rHiTrip 0
  .next { s with
    boot := { s.boot with supply := false, starting := false }
    pwr := { s.pwr with tripPin := true } }

/-- `RESET_RISING_EDGE`: the start begins at phase 0; WRST_N counts for nothing while PORST_N is low
(R497). A supply is back in range when PORST_N rises. -/
def execResetRisingEdge (pin : ResetPin) (s : State) : Out :=
  match pin with
  | .porst =>
    if s.boot.porst && s.boot.supply then .next s
    else .next { s with boot := { s.boot with porst := true, supply := true, starting := true } }
  | .wrst => .next { s with boot := { s.boot with wrst := true } }

/-- A warm reset is requested: ignored while a trip is held; the first request gives the cause
(R498). -/
def warmRequest (s : State) (c : WarmCause) (cold : Bool) : State :=
  if s.tripped || !s.boot.porst || !s.boot.supply then s
  else
    match s.boot.warm with
    | some _ => { s with boot := { s.boot with devReady := false } }
    | none => { s with boot := { s.boot with warm := some (c, cold), devReady := false } }

/-- `WARM_RESET`: WRST_N goes low (R496, R497). -/
def execWarmReset (s : State) : Out :=
  .next (warmRequest { s with boot := { s.boot with wrst := false } } .pin false)

/-- The key of `HI_RESET` (R498). -/
abbrev resetKey : Nat := 0xA5C3

/-- `HI_RESET_WARM`: taken only with the key (R498). -/
def execHiResetWarm (key : BitVec 16) (cold : Bool) (s : State) : Out :=
  .next (if key.toNat = resetKey then warmRequest s .register cold else s)

/-- DRAM bytes and check bits that a warm reset keeps: SRAM windows return to zero. -/
def keepDram (s r : State) : State :=
  { r with mem := s.mem.filter (fun e => decide (e.1 < 0x100000000000)),
           ecc := s.ecc.filter (fun e => decide (e.1 < 0x4000000000)) }

/-- Registers that a warm reset leaves (R496, R538, R539). -/
def keepRegs (s r : State) : State :=
  let r := [rErrHead, rHiTrip, rPwrTmax].foldl (fun (t : State) o => t.wr o (s.rd o)) r
  let r := (List.range 64).foldl (fun (t : State) n => t.wr (rPwrTemp n) (s.rd (rPwrTemp n))) r
  let r := r.setFld rHiMpStatus 0 15 (s.fld rHiMpStatus 0 15)
  let r := r.setFld rDbgStatus 30 2 (s.fld rDbgStatus 30 2)
  let r := r.setFld rDbgStatus 0 5 (s.fld rDbgStatus 0 5)
  r.setBit rSecStatus 27 (s.bit rSecStatus 27)

/-- `HI_START.CAUSE` of a warm reset (R510). -/
def causeCode : WarmCause → Nat
  | .pin => 2
  | .register => 3
  | .security => 4

/-- Every block at its reset value beside what no register holds and a warm reset keeps (R496, R500).
DEDUCED: log 114. -/
def warmBase (s : State) (cold inStart : Bool) : State :=
  { State.reset with
    pending := s.pending, freeCtr := s.freeCtr
    tb := { Tb.reset with dt := s.tb.dt, clk := s.tb.clk, internal := s.tb.internal }
    err := { Err.reset with log := s.err.log }
    sec := { Sec.reset with otp := s.sec.otp, consumed := s.sec.consumed }
    pwr := { Pwr.reset with
      hotOnce := s.pwr.hotOnce, failed := s.pwr.failed, tripPin := s.pwr.tripPin }
    boot := { bootKept s.boot with
      coldAsked := cold, openL2 := s.boot.openL2, fromOne := inStart } }

/-- What the reset leaves in the time base's outputs and in `HI_START` and `TB_CTRL` (R407, R510). -/
def warmMark (r : State) (c : WarmCause) (kept inStart : Bool) : State :=
  let r := { r with tb := { r.tb with tsyncNext := tsyncAfter r r.dt } }
  let r := (r.setFld rHiStart 26 3 (causeCode c)).setBit rHiStart 24 kept
  let r := r.setBit rTbCtrl 28 r.boot.ref25
  if inStart then setPhase r 1 else r

/-- A warm reset takes effect: every block outside the always-on island returns to reset, device
time, sensors, the trip, the error log and kept DRAM survive (R496, R499, R500). A start that it
interrupts begins again at phase 1. -/
def warmEffect (s : State) (c : WarmCause) (cold kept : Bool) : State :=
  let s := tearTraining (tearCommit s)
  let inStart := s.boot.starting && startPhase s != 0
  let r := keepRegs s (fuseRegs (warmBase s cold inStart))
  warmMark (if kept then keepDram s r else r) c kept inStart

/-- `WARM_RESET_EFFECT`: every controller has confirmed self-refresh, or 200 µs have passed; a security
reset never keeps DRAM, nor does one before DRAM has been trained (R499, R538). -/
def execWarmResetEffect (confirmed : Bool) (s : State) : Out := clocked s <|
  match s.boot.warm with
  | some (c, cold) =>
    .next (warmEffect s c cold (confirmed && decide (c ≠ .security) && s.bit rCapMem 31))
  | none => .next s

/-! ### The phases of a start -/

/-- The start stops in FAILED (R505). -/
def startFail (s : State) (status : Nat) : State :=
  let s := (setPhase s 6).setFld rHiStart 16 8 status
  { s with boot := { s.boot with starting := false } }

/-- Phase 1 FIRMWARE: the image is verified and the OTP's identity fields are shown (R502, R505,
R527). -/
def phaseFirmware (s : State) : State :=
  let s := { setPhase s 1 with boot := { s.boot with fromOne := false } }
  let s := s.wr rSecSerial (BitVec.ofNat 64 (otpNat s 0x2080 8))
  let s := (s.setFld rSecSvn 0 7 (otpSvn s)).setFld rDbgStatus 28 2 (debugCap s)
  if fwVerify s then fwAccept s
  else startFail (logOnly s (mkFault stSecViolation 0xE 0)) stSecViolation

/-- A failed pump cluster or core-elastic partition stops the start (R518). -/
def repairCheck (s : State) : State :=
  let l := allEntries s
  if (numbers 120 8).any (unitFailed l) || unitFailed l 142 then startFail s stSramUe else s

/-- Phase 2 REPAIR: the record is selected; a cold start begins its self-test, a quick one applies the
record (R501, R502, R506). -/
def phaseRepair (s : State) : State :=
  let s := repairSelect (setPhase s 2)
  let cold := s.sst.src == 0 || s.boot.fullStart || s.boot.coldAsked
  let s := s.setBit rHiStart 25 cold
  if cold then sstStart s false else repairCheck (repairApply s)

/-- Phase 3 INIT: the BALANCED point, SRAMs at zero, crossings calibrated, wells in W1; a well whose
crossings fail is marked failed (R25, R502). -/
def phaseInit (s : State) (fail : List WellIx) : State :=
  let v := voltOf s 1000
  let s := (setPhase s 3).setFld rPwrMode 0 27 (1000 <<< 16 + v)
  let s := { s with pwr := { s.pwr with tgtMhz := 1000, tgtMv := v } }
  fail.foldl (fun s w =>
    if s.hasWell w.val then
      logOnly (wellMarkFailed s w.val) (mkFault stTravelMismatch 0x3 w.val)
    else s) s

/-- Data rates in MT/s that the boot configuration allows, highest first (R364, R365). -/
def dataRates (s : State) : List Nat :=
  [10667, 9600, 8533, 7500, 6400].filter fun r => decide (r ≤ s.boot.maxRate)

/-- Channels of the variant (R1, R367). -/
def fittedChannels (s : State) : Nat :=
  4 * (List.range 8).foldl (fun t n => t + b2n (bitAt (fusedUnits s) (8 + n))) 0

/-- A failed memory controller, as its first channel (R518). -/
def failedChannel (s : State) : Option Nat :=
  ((numbers 112 8).find? (unitFailed (allEntries s))).map fun p => 4 * (p - 112)

/-- The first rate at which every channel trains, and the first failing channel met (R365). -/
def trainAt (bad : Option Nat) : List Nat → List (Option (Fin 32)) → Option Nat × Nat
  | [], _ => (none, bad.getD 0)
  | r :: rs, t =>
    match bad, t.headD none with
    | none, none => (some r, 0)
    | some c, _ => (none, c)
    | none, some c =>
      let x := trainAt none rs t.tail
      if x.1.isSome then x else (none, c.val)

/-- Usable MiB (R52, R369). -/
def usableMib (s : State) : Nat :=
  let m := s.boot.pkgCount * s.boot.pkgSize * 4096
  if s.boot.eccOn then m * 31 / 32 else m

/-- Training has succeeded at a rate: `CAP_MEM` and the controllers report it (R51, R365, R368,
R380). -/
def trained (s : State) (rate : Nat) (saved : Bool) : State :=
  let s := s.wr rCapMem (BitVec.ofNat 64 (1 <<< 31 + s.boot.pkgCount <<< 24 + s.boot.pkgSize <<< 20
    + b2n s.boot.eccOn <<< 16 + rate))
  let s := s.wr rCapMemUsable (BitVec.ofNat 64 (usableMib s))
  let s := s.wr rMemCfg (BitVec.ofNat 64
    (b2n s.boot.eccOn <<< 31 + (s.boot.ilv % 4) <<< 28 + fittedChannels s))
  (List.range 8).foldl (fun (t : State) n =>
    if t.hasMc n then
      t.wr (rMcStatus n) (BitVec.ofNat 64 (1 <<< 31 + b2n saved <<< 29 + rate))
    else t) s

/-- Die temperature in 1/16 °C: the highest reading (R454). -/
def dieTemp (s : State) : Int := signedOf 16 (s.fld rPwrTmax 0 16)

/-- A copy of saved results may be taken: CRC good, density and data rate those of the packages, the die
within 20 °C of the temperature recorded with it (R366). -/
def copyFits (s : State) (c : TrainCopy) : Bool :=
  c.good && c.size == s.boot.pkgSize && c.grade == s.boot.maxRate
    && decide (dieTemp s - c.temp ≤ 320) && decide (c.temp - dieTemp s ≤ 320)

/-- The later of two copies by sequence number. -/
def laterCopy (a b : Option TrainCopy) : Option TrainCopy :=
  match a, b with
  | some x, some y => if seqAfter y.seq x.seq then some y else some x
  | some x, none => some x
  | none, y => y

/-- The saved results that a quick start takes: the later copy with a good CRC, where it fits (R366). -/
def savedTraining (s : State) : Option TrainCopy :=
  if s.bit rHiStart 25 then none
  else (laterCopy (s.boot.trainA.filter (·.good)) (s.boot.trainB.filter (·.good))).filter (copyFits s)

/-- The results of a full training at a rate are written over the older copy, a torn or missing one before a
good one (R366). -/
def writeTraining (s : State) (rate : Nat) : State :=
  let a := s.boot.trainA.filter (·.good)
  let b := s.boot.trainB.filter (·.good)
  let toB := match a, b with
    | some x, some y => seqAfter x.seq y.seq
    | some _, none => true
    | none, _ => false
  let seq := ((laterCopy a b).map fun c => (c.seq + 1) % 2 ^ 32).getD 0
  let c : TrainCopy := ⟨seq, s.boot.pkgSize, s.boot.maxRate, rate, dieTemp s, true⟩
  { s with boot := if toB then { s.boot with trainB := some c, trainWrite := some true }
                   else { s.boot with trainA := some c, trainWrite := some false } }

/-- DRAM_TRAINING and the zero fill of phase 4: from saved results where a copy may be taken, else, and where
those do not train every channel, in full (R365, R366, R502, R503). -/
def phaseDram (s : State) (env : StartEnv) : State :=
  let s := setPhase s 4
  let from_ := savedTraining s
  let rates := match from_ with
    | some c => c.rate :: (dataRates s).filter (fun r => decide (r < c.rate))
    | none => dataRates s
  match trainAt (failedChannel s) rates env.train with
  | (some rate, _) =>
    let saved := from_.any fun c => c.rate == rate
    let s := trained s rate saved
    let s := if saved then s else writeTraining s rate
    if s.bit rHiStart 24 then s else { s with mem := [], ecc := [] }
  | (none, ch) => logOnly s (mkFault stDramTrain 0x5 ch)

/-- Phase 5 READY: `DC_CTRL.EN`, DEVREADY, and debug level 2 where a security reset opens it (R502,
R510, R538). -/
def phaseReady (s : State) (env : StartEnv) : State :=
  let s := (setPhase s 5).setFld rHiStart 0 16 env.ms.toNat
  let s := if s.boot.openL2 then s.setFld rDbgStatus 30 2 2 else s
  { s with dc := { s.dc with en := true },
           boot := { s.boot with devReady := true, starting := false, openL2 := false, trainWrite := none } }

/-- A start can go on: out of every reset level, no trip, the MP up. -/
def startGoes (s : State) : Bool :=
  s.boot.starting && s.boot.porst && s.boot.supply && s.boot.wrst && s.boot.warm.isNone
    && !s.tripped && !s.mp.restarting

/-- `START_PHASE`: the next phase of the start begins, once the phase before it is complete (R502). -/
def execStartPhase (env : StartEnv) (s : State) : Out :=
  if startGoes s then
    match startPhase s with
    | 0 => .next (phaseFirmware s)
    | 1 => .next (if s.boot.fromOne then phaseFirmware s else phaseRepair s)
    | 2 => if sstBusy s then .next s
           else
             let s := repairCheck s
             .next (if startPhase s = 6 then s else phaseInit s env.calFail)
    | 3 => .next (phaseDram s env)
    | 4 => .next (phaseReady s env)
    | _ => .next s
  else .next s

end Sys2Proof.Machine
end

