-- ==== Sys2Proof/Machine/Queues.lean ====
section
/-! DEFINITION. Stage queues (chapter 8) and the cistern words they stand in: pointers, semaphores,
side ports, float valves, spill and refill. -/

namespace Sys2Proof.Machine

/-! ### Cistern words -/

/-- Error-log and counter UNIT of a fabric unit (R493). -/
def unitNo (w f : Nat) : Nat := 128 * w + f
/-- UNIT of a stage queue. -/
def queueNo (w e : Nat) : Nat := 1024 * w + e

/-- An access reads word a of the cistern of MU k: the word delivered, whether it is uncorrectable, and
the state with the error recorded (R161, R192). -/
def cisternRead (s : State) (w k a : Nat) : Line × Bool × State :=
  let ad := cisternAddr w k (64 * a)
  let l := s.mem.line ad
  match decodeLine l (s.delta ad) with
  | .ok => (l, false, s)
  | .corrected l' =>
    let x := s.well w
    let m := x.mu k
    let wb := if m.wb.contains a then m.wb else m.wb ++ [a]
    (l', false, s.setWell w (x.setMu k
      { m with ce := true, count := Nat.min (m.count + 1) 0xFFFF, word := a, wb := wb }))
  | .uncorrectable =>
    let x := s.well w
    let s := s.setWell w (x.setMu k { x.mu k with ue := true, word := a })
    (l, true, wellFault s w (mkFault stSramUe 3 (unitNo w (48 + k))))

/-- Writes word a of a cistern with valid check symbols; a write-back of the old word lapses. -/
def cisternWrite (s : State) (w k a : Nat) (l : Line) : State :=
  let s := s.putLine (cisternAddr w k (64 * a)) l 0
  let x := s.well w
  let m := x.mu k
  if m.wb.contains a then s.setWell w (x.setMu k { m with wb := m.wb.filter (· != a) }) else s

/-- The corrected word is written back; a second error since then is SRAM_UE. The error itself is not
counted again (R161). -/
def cisternWriteback (s : State) (w k a : Nat) : State :=
  let ad := cisternAddr w k (64 * a)
  match decodeLine (s.mem.line ad) (s.delta ad) with
  | .ok => cisternWrite s w k a (s.mem.line ad)
  | .corrected l => cisternWrite s w k a l
  | .uncorrectable => (cisternRead s w k a).2.2

/-- `CISTERN_ECC_WRITEBACK`: the oldest corrected word whose bank the last stroke left idle is written
back (R161). -/
def execCisternEccWriteback (w : WellIx) (k : Fin 48) (s : State) : Out := clocked s <|
  let x := s.well w.val
  match (x.mu k.val).wb.find? fun a => !x.banks.contains (16 * k.val + a % 16) with
  | some a => .next (cisternWriteback s w.val k.val a)
  | none => .next s

/-! ### Pointers and semaphores -/

/-- Fields of `SQ_CFG` (R235). -/
def SqEntry.size (e : SqEntry) : Nat := bits e.cfg 0 13
/-- BASE. -/
def SqEntry.base (e : SqEntry) : Nat := bits e.cfg 16 13
/-- An overflow region is declared. -/
def SqEntry.ovf (e : SqEntry) : Bool := bitAt e.cfg 30
/-- CAP: data words of the region (R233). -/
def SqEntry.cap (e : SqEntry) : Nat := if e.ovf then 62 * bits e.ovfSize 0 16 else 0
/-- Words in the region, those being read back included. -/
def SqEntry.regionUsed (e : SqEntry) : Nat := e.regW - e.regR + e.refills.length
/-- FREE (R225, R226). -/
def SqEntry.freeCount (e : SqEntry) : Nat := if e.isSem then e.free else e.size + e.cap - (e.w - e.f)
/-- FREE that no stream or ingress entry has reserved (R251, R397). -/
def SqEntry.freeOpen (e : SqEntry) : Nat := e.freeCount - e.resv
/-- A ring word is free (R232). -/
def SqEntry.ringFree (e : SqEntry) : Bool := decide (e.t - e.f < e.size)
/-- A write now would find a place, with n words already on their way to it, words reserved by others
counted in (R211, R232, R251). -/
def SqEntry.canPush (e : SqEntry) (n : Nat := 0) : Bool :=
  e.enabled && !e.isSem && decide (n < e.freeOpen)
    && (if e.spilling then decide (e.staging.length + n < 16)
        else decide (e.t + n + e.resv - e.f < e.size) || (e.ovf && decide (e.staging.length + n < 16)))
/-- The ring holds an unread word (R211). -/
def SqEntry.canPop (e : SqEntry) : Bool := e.enabled && !e.isSem && decide (e.r < e.t)

/-- The count a semaphore reference names: false filled, true free (R146). -/
def SqEntry.semCount (e : SqEntry) (sel : Bool) : Nat := if sel then e.freeCount else e.filledCount

/-- The float valve follows FILLED (R229). -/
def SqEntry.valveNow (e : SqEntry) : Bool :=
  let hi := bits e.wm 16 16
  if hi = 0 then false
  else if hi ≤ e.filledCount then true
  else if e.filledCount ≤ bits e.wm 0 16 then false else e.valve

/-- The entry emptied: pointers zero, mark disarmed, staging and region empty, counters zero, valve
open (R224, R226, R229). -/
def SqEntry.emptied (e : SqEntry) : SqEntry :=
  { e with w := 0, t := 0, r := 0, f := 0, m := 0, armed := false, staging := [], regW := 0,
           regR := 0, refills := [], spilling := false, filled := 0, free := 0, valve := false,
           resv := 0 }

/-- Adds to a counter of a semaphore entry, saturating (R226). -/
def SqEntry.semAdd (e : SqEntry) (sel : Bool) (n : Nat) : SqEntry :=
  let c := if sel then e.free else e.filled
  let v := Nat.min (c + n) 0xFFFF
  let e := { e with semOvf := e.semOvf || decide (0xFFFF < c + n) }
  if sel then { e with free := v } else { e with filled := v }

/-- Subtracts from a counter of a semaphore entry. -/
def SqEntry.semSub (e : SqEntry) (sel : Bool) (n : Nat) : SqEntry :=
  if sel then { e with free := e.free - n } else { e with filled := e.filled - n }

/-- An entry of the table. -/
def State.sq (s : State) (w e : Nat) : SqEntry := (s.well w).sq e
/-- Sets an entry as it is. -/
def State.setSq (s : State) (w e : Nat) (x : SqEntry) : State := s.setWell w ((s.well w).setSq e x)

/-- Sets an entry whose counts or enable have moved: the valve follows, and closings and assertions of valve
lines are counted (R229, R230, R542). -/
def sqPut (s : State) (w e : Nat) (x : SqEntry) : State :=
  let old := s.sq w e
  let x := { x with valve := x.valveNow }
  let t := s.setSq w e x
  if x.valve = old.valve ∧ x.enabled = old.enabled then t
  else
    let t := if x.valve && !old.valve then event t 4 (queueNo w e) 3 else t
    (List.range 4).foldl (fun (u : State) k =>
      if valveLine u (4 * w + k) && !valveLine s (4 * w + k) then event u 0 (4 * w + k) 5 else u) t

/-- SPILL_FULL (R232). -/
def spillFull (s : State) (w e : Nat) : State := wellFault s w (mkFault stSpillFull 4 (queueNo w e))

/-- Sideband of a ring word (R223). -/
def ringSb (s : State) (w k a : Nat) : Sideband :=
  SMap.get (fun _ => Sideband.zero) (s.well w).qsb (k * 6144 + a)
/-- Sets it, with valid check bits. -/
def setRingSb (s : State) (w k a : Nat) (b : Sideband) : State :=
  let x := s.well w
  s.setWell w { x with qsb := SMap.set (fun _ => Sideband.zero) x.qsb (k * 6144 + a) b
                       qsbErr := SMap.set (fun _ => 0) x.qsbErr (k * 6144 + a) 0 }

/-- A queue read takes the sideband of a ring word through its SECDED: a single wrong bit is corrected and
counted as an error of the MU, more are uncorrectable (R161, R223). DEDUCED: log 159. -/
def ringSbRead (s : State) (w k a : Nat) : Sideband × Bool × State :=
  let b := ringSb s w k a
  let x := s.well w
  match SMap.get (fun _ => 0) x.qsbErr (k * 6144 + a) with
  | 0 => (b, false, s)
  | 1 =>
    let m := x.mu k
    (b, false, setRingSb (s.setWell w (x.setMu k
      { m with ce := true, count := Nat.min (m.count + 1) 0xFFFF, word := a })) w k a b)
  | _ =>
    let s := s.setWell w (x.setMu k { x.mu k with ue := true, word := a })
    (b, true, wellFault s w (mkFault stSramUe 3 (unitNo w (48 + k))))

/-- A word enters the ring at T (R227). -/
def ringEnter (s : State) (w e : Nat) (wd : Word) : State :=
  let x := s.sq w e
  let a := x.base + x.t % Nat.max 1 x.size
  let s := setRingSb (cisternWrite s w (e / 16) a wd.data) w (e / 16) a wd.sb
  s.setSq w e { s.sq w e with t := x.t + 1 }

/-- A word is written into a data queue that has a place for it, words up to F `f0` counted as freed: into
the ring, or into staging, which meets a full region with SPILL_FULL (R227, R232). -/
def sqPushAt (s : State) (w e f0 : Nat) (wd : Word) : State :=
  let x := s.sq w e
  let s := event s 4 (queueNo w e) 1
  if !x.spilling && decide (x.t - f0 < x.size) then
    let s := ringEnter s w e wd
    let y := s.sq w e
    sqPut s w e { y with w := y.w + 1 }
  else
    let s := sqPut s w e { x with w := x.w + 1, staging := x.staging ++ [wd], spilling := true }
    if x.staging.isEmpty && decide (x.cap ≤ x.regionUsed) then spillFull s w e else s

/-- A word is written into a data queue, as its pointers stand. -/
def sqPush (s : State) (w e : Nat) (wd : Word) : State := sqPushAt s w e (s.sq w e).f wd

/-- The word at R, with its sideband and whether it is uncorrectable; no pointer moves. -/
def sqHead (s : State) (w e : Nat) : Word × Bool × State :=
  let x := s.sq w e
  let a := x.base + x.r % Nat.max 1 x.size
  let r := cisternRead s w (e / 16) a
  let b := ringSbRead r.2.2 w (e / 16) a
  (⟨r.1, b.1⟩, r.2.1 || b.2.1, b.2.2)

/-- A queue read: R + 1 (R227). -/
def sqPop (s : State) (w e : Nat) : Word × State :=
  let r := sqHead s w e
  let s := event r.2.2 4 (queueNo w e) 2
  let y := s.sq w e
  (r.1, sqPut s w e { y with r := y.r + 1 })

/-- A side-port read: R + 1, then F ← R (R227). DEDUCED: log 50. -/
def sqSidePop (s : State) (w e : Nat) : Word × State :=
  let r := sqPop s w e
  let y := r.2.sq w e
  (r.1, r.2.setSq w e { y with f := y.r, m := y.r, armed := false })

/-- QUEUE_MARK (R227). -/
def sqMark (s : State) (w e : Nat) : State :=
  let y := s.sq w e
  s.setSq w e { y with m := y.r, armed := true }

/-- QUEUE_REWIND; with the mark disarmed nothing moves and NOMARK is set (R227, R228). -/
def sqRewind (s : State) (w e : Nat) : State :=
  let y := s.sq w e
  if y.armed then sqPut (event s 4 (queueNo w e) 6) w e { y with r := y.m }
  else s.setSq w e { y with nomark := true }

/-- QUEUE_RELEASE (R227). -/
def sqRelease (s : State) (w e : Nat) : State :=
  let y := s.sq w e
  s.setSq w e { y with f := if y.armed then y.m else y.r, armed := false }

/-! ### Side ports and the semaphore port -/

/-- Words waiting at the side ports for a bank of entry e. -/
def retriesOf (x : Well) (e : Nat) : Nat := (x.retry.filter fun p => p.1 == e).length
/-- Words of write slots on their way to entry e (R210). -/
def slotsComing (x : Well) (e : Nat) : Nat :=
  ((x.unit (48 + e / 16)).wPend.filter fun p => p.dest == .queue (e % 16)).length

/-- The bank of the next word that entry e reads: a side-port read waits while the schedule uses it
(R29). -/
def sideReadFree (s : State) (w e : Nat) : Bool :=
  let x := s.well w
  let q := x.sq e
  !x.banks.contains (16 * (e / 16) + (q.base + q.r % Nat.max 1 q.size) % 16)

/-- A word waits at the side port for the next stroke. -/
def sideWait (s : State) (w e : Nat) (wd : Word) : State :=
  let x := s.well w
  s.setWell w { x with retry := x.retry ++ [(e, wd)] }

/-- A word reaches a cistern through its side port: it is written in a bank cycle the schedule leaves
free, else it waits for the next stroke, behind words that wait already (R29). -/
def sideEnter (s : State) (w e : Nat) (wd : Word) : State :=
  let x := s.well w
  let q := x.sq e
  let bank := 16 * (e / 16) + (q.base + q.t % Nat.max 1 q.size) % 16
  if !q.canPush (retriesOf x e + slotsComing x e) || retriesOf x e != 0 || (x.banks.contains bank && !q.spilling && q.ringFree) then
    sideWait s w e wd
  else sqPush s w e wd

/-- A word is offered to the side port: a producer does not write without FREE (R228). -/
def sidePush (s : State) (w e : Nat) (wd : Word) : State :=
  if (s.sq w e).canPush (retriesOf (s.well w) e + slotsComing (s.well w) e) then sideEnter s w e wd else s

/-- SIDE_PORT_RETRY: the words waiting try again, in order; those that lose again stay (R29). -/
def retryAll (s : State) (w : Nat) : State :=
  let l := (s.well w).retry
  l.foldl (fun s p => sideEnter s w p.1 p.2) (s.setWell w { s.well w with retry := [] })

/-- `SIDE_PORT_WRITE`: an elastic producer writes a word against FREE (R29, R228). -/
def execSidePortWrite (w : WellIx) (e : Fin 768) (wd : Word) (s : State) : Out := clocked s <|
  .next (if s.hasWell w.val then sidePush s w.val e.val wd else s)

/-- A signal to a semaphore entry; a data queue's counts change only through its traffic (R225,
R226). -/
def semSignal (s : State) (w e : Nat) (sel : Bool) (n : Nat) : State :=
  let x := s.sq w e
  if x.enabled && x.isSem then sqPut s w e (x.semAdd sel n) else s

/-- An elastic signal reaches a semaphore port: visible from the following stroke of a running well
(R30). -/
def semPort (s : State) (w e : Nat) (sel : Bool) (n : Nat) : State :=
  let x := s.well w
  if x.run = .running && s.wellClock w then s.setWell w { x with semNext := x.semNext ++ [(e, sel, n)] }
  else semSignal s w e sel n

/-- The updates that have waited for the stroke to end become visible; they add to what the schedule
side did (R30). -/
def semArrive (s : State) (w : Nat) : State :=
  let l := (s.well w).semNext
  l.foldl (fun s p => semSignal s w p.1 p.2.1 p.2.2) (s.setWell w { s.well w with semNext := [] })

/-- `SEMAPHORE_PORT_UPDATE` (R30). -/
def execSemaphorePortUpdate (w : WellIx) (e : Fin 768) (sel : Bool) (n : BitVec 16) (s : State) : Out := clocked s <|
  .next (if s.hasWell w.val then semPort s w.val e.val sel n.toNat else s)

/-- The image that holds a well is committed, so its RWL fields are locked (R16, R222). -/
def wellLocked (s : State) (w : Nat) : Bool :=
  (List.range 8).any fun p => (s.mp.image p).resident && (s.mp.image p).wells.contains w

/-- A write of `SQ_CFG`: discarded while locked; EN from 0 to 1 empties the entry (R222, R224, R235). -/
def sqCfgWrite (s : State) (w e : Nat) (v : W32) : State :=
  if wellLocked s w then s
  else
    let x := s.sq w e
    let y := { x with cfg := v &&& 0xDFFF1FFF }
    if bitAt v 31 && !x.enabled then sqPut s w e y.emptied else sqPut s w e y

/-- `SQ_ENABLE`. -/
def execSqEnable (w : WellIx) (e : Fin 768) (cfg : W32) (s : State) : Out := clocked s <|
  .next (if s.hasWell w.val then sqCfgWrite s w.val e.val cfg else s)

/-- A write of `SQ_SEM`: taken for a semaphore entry, before any signal of the stroke (R236). -/
def sqSemWrite (s : State) (w e : Nat) (v : W32) : State :=
  let x := s.sq w e
  if x.isSem then sqPut s w e { x with filled := bits v 16 16, free := bits v 0 16 } else s

/-- `SQ_SEM_WRITE`. -/
def execSqSemWrite (w : WellIx) (e : Fin 768) (v : W32) (s : State) : Out := clocked s <|
  .next (if s.hasWell w.val then sqSemWrite s w.val e.val v else s)

/-! ### Spill and refill -/

/-- Device address of region word j (R233). -/
def regionAddr (x : SqEntry) (j : Nat) : Nat :=
  let i := j % Nat.max 1 x.cap
  x.ovfBase.toNat + i / 62 * 4096 + i % 62 * 64
/-- Address of the sideband of region word j: two bytes of slots 62 and 63 of its page (R233). -/
def regionSbAddr (x : SqEntry) (j : Nat) : Nat :=
  let i := j % Nat.max 1 x.cap
  x.ovfBase.toNat + i / 62 * 4096 + 62 * 64 + 2 * (i % 62)

/-- A stored sideband: CTAG, BTAG, BS and MK as in R163 without VALID, MK lowest. -/
def sbBits (b : Sideband) : Nat :=
  b2n b.marker + 2 * b2n b.bs + 4 * b.btag.toNat + 256 * b.ctag.toNat
/-- A sideband from its bits. -/
def sbOf (v : Nat) : Sideband :=
  ⟨v % 2 == 1, v / 2 % 2 == 1, BitVec.ofNat 6 (v / 4), BitVec.ofNat 2 (v / 256)⟩

/-- The first word of a page finds the last four bytes of its sideband slots zero (R233). -/
def pageStart (s : State) (x : SqEntry) (j : Nat) : State :=
  let i := j % Nat.max 1 x.cap
  if i % 62 = 0 then
    dramWrite s (x.ovfBase.toNat + i / 62 * 4096 + 63 * 64) 0 (BitVec.ofNat 64 (15 <<< 60))
  else s

/-- Two bytes written at a device DRAM address. -/
def dramWrite16 (s : State) (a v : Nat) : State :=
  let sh := a % 64
  dramWrite s (a / 64 * 64) (BitVec.ofNat 512 ((v % 65536) <<< (8 * sh))) (BitVec.ofNat 64 (3 <<< sh))

/-- The queue may return to NORMAL (R232). -/
def sqSettle (x : SqEntry) : SqEntry :=
  if x.spilling && x.staging.isEmpty && x.regionUsed == 0 then { x with spilling := false } else x

/-- `SPILL_WRITE`: the oldest staged word goes to the region; a further staged word that finds it full
raises SPILL_FULL (R231 to R233). -/
def execSpillWrite (w : WellIx) (e : Fin 768) (s : State) : Out := clocked s <|
  let x := s.sq w.val e.val
  match x.staging with
  | wd :: rest =>
    if x.enabled && x.ovf && decide (x.regionUsed < x.cap) then
      let s := dramWrite s (regionAddr x x.regW) wd.data fullMask
      let s := dramWrite16 (pageStart s x x.regW) (regionSbAddr x x.regW) (sbBits wd.sb)
      let s := event s 4 (queueNo w.val e.val) 4
      let s := sqPut s w.val e.val { x with staging := rest, regW := x.regW + 1 }
      .next (if !rest.isEmpty && decide (x.cap ≤ x.regionUsed + 1) then spillFull s w.val e.val else s)
    else .next s
  | [] => .next s

/-- `REFILL_READ`: with a ring word free, the oldest region word is asked for (R232). -/
def execRefillRead (w : WellIx) (e : Fin 768) (s : State) : Out := clocked s <|
  let x := s.sq w.val e.val
  if x.enabled && x.spilling && decide (x.regR < x.regW)
      && decide (x.t + x.refills.length - x.f < x.size) then
    .next (s.setSq w.val e.val { x with refills := x.refills ++ [x.regR], regR := x.regR + 1 })
  else .next s

/-- `REFILL_LANDED`: the word enters the ring tail with its sideband; an uncorrectable line is a
pipeline-scoped ECC_UE (R232, R233, R478). -/
def execRefillLanded (w : WellIx) (e : Fin 768) (s : State) : Out := clocked s <|
  let x := s.sq w.val e.val
  match x.refills with
  | j :: rest =>
    let r := dramRead s (regionAddr x j)
    let a := regionSbAddr x j
    let q := dramRead r.2.2 (a / 64 * 64)
    let s := q.2.2
    if r.2.1 || q.2.1 then
      .next (wellFault s w.val (mkFault stEccUe 4 (queueNo w.val e.val) (regionAddr x j)))
    else
      let sb := sbOf (laneOf q.1.toNat 16 (a % 64 / 2))
      let s := event (ringEnter s w.val e.val ⟨r.1, sb⟩) 4 (queueNo w.val e.val) 5
      .next (sqPut s w.val e.val (sqSettle { s.sq w.val e.val with refills := rest }))
  | [] => .next s

end Sys2Proof.Machine
end

