-- ==== Sys2Proof/Machine/Fabric.lean ====
section
/-! DEFINITION. Fabric units (chapters 6 and 7): links and switch settings, the issue of one schedule
word by a CU or MU, address generators, results in flight, pass-throughs and switch wait. -/

namespace Sys2Proof.Machine

/-! ### Schedule memory -/

/-- Key of a half of schedule word i of unit f in context x. -/
def swKey (x f i half : Nat) : Nat := ((96 * x + f) * 512 + i) * 2 + half
/-- A half of a schedule word. -/
def Well.swHalf (y : Well) (x f i half : Nat) : W64 := SMap.get (fun _ => 0) y.sw (swKey x f i half)
/-- Schedule word i of unit f in context x (R219). -/
def Well.swWord (y : Well) (x f i : Nat) : W128 := (y.swHalf x f i 1) ++ (y.swHalf x f i 0)

/-! ### Program flow, shared with the MSQ threads -/

/-- The active loop that ends at pc, innermost first: the one that begins latest. -/
def loopAt (ls : List Loop) (pc : Nat) : Option Nat :=
  (List.range ls.length).foldl (fun best i =>
    let l := ls.getD i .none
    if l.active && l.last == pc then
      match best with
      | none => some i
      | some j => if (ls.getD j .none).first < l.first then some i else best
    else best) none

/-- The step past word pc: an iteration of a loop that ends there begins again, or the loop is over and
the next outer one is asked (R133, R200). -/
def stepPast (ls : List Loop) (pc size : Nat) : Nat → List Loop × Nat
  | 0 => (ls, (pc + 1) % size)
  | n + 1 =>
    match loopAt ls pc with
    | none => (ls, (pc + 1) % size)
    | some i =>
      let l := ls.getD i .none
      if 1 < l.left then (ls.set i { l with left := l.left - 1 }, l.first)
      else stepPast (ls.set i { l with active := false }) pc size n

/-- Loops that a jump to target leaves are over (R134). -/
def leaveLoops (ls : List Loop) (target : Nat) : List Loop :=
  ls.map fun l => if l.active && (decide (target < l.first) || decide (l.last < target))
    then { l with active := false } else l

/-! ### Links -/

/-- Where an output leads. -/
inductive OutDest where
  | inside (d : Dest)
  /-- a crossing or express track: receiving well and key, and nominal strokes -/
  | across (w key strokes : Nat)
  | nowhere
  deriving DecidableEq, Repr

/-- Switch setting of unit f in the running context (R166). -/
def switchOf (x : Well) (f : Nat) : W64 := SMap.get (fun _ => 0) x.switches (96 * x.ctx + f)

/-- Driver code of output d: 0 the unit's own words, 1 to 5 an input (R166). -/
def srcCode (v : W64) (d : Nat) : Nat := bits v (3 * d) 3

/-- Where output d of unit f of well w leads, for channel ch on a slice side (R162, R166, R168,
R324). -/
def outDest (s : State) (w f d ch : Nat) : OutDest :=
  let c := (unitCoord f).1
  let r := (unitCoord f).2
  let v := switchOf (s.well w) f
  match d with
  | 0 => if r = 23 then .inside (.chan c ch) else .inside (.port (unitAt c (r + 1)) 2)
  | 2 => if r = 0 then .inside (.chan (4 + c) ch) else .inside (.port (unitAt c (r - 1)) 0)
  | 1 =>
    if c < 3 then .inside (.port (unitAt (c + 1) r) 3)
    else if bitAt v 13 then
      let t := bits v 20 3
      .across t (4 * r + 1) (9 + (if t < w then w - t else t - w))
    else if w < 7 then .across (w + 1) (4 * r) 4 else .nowhere
  | _ =>
    if 0 < c then .inside (.port (unitAt (c - 1) r) 1)
    else if bitAt v 12 then
      let t := bits v 16 3
      .across t (4 * r + 3) (9 + (if t < w then w - t else t - w))
    else if 0 < w then .across (w - 1) (4 * r + 2) 4 else .nowhere

/-- Words a crossing holds at most, those on their way counted: 8, or two FIFOs of 16 (R32, R33).
DEDUCED: log 14. -/
def crossDepth (key : Nat) : Nat := if key % 2 = 1 then 32 else 8

/-- Words held by and on their way to a place inside a well. DEDUCED: log 13. -/
def loadOf (x : Well) (d : Dest) : Nat :=
  let held := match d with
    | .port f i => ((x.unit f).port i).length
    | .chan sl ch => ((x.slice sl).chan ch).length
  held + (x.flights.filter fun g => g.dest == d).length

/-- The occupied bit of output d of unit f (R163). -/
def occupied (s : State) (w f d ch : Nat) : Bool :=
  match outDest s w f d ch with
  | .inside t => decide (8 ≤ loadOf (s.well w) t)
  | .across t k _ => decide (crossDepth k ≤ ((s.well t).crossing k).length)
  | .nowhere => false

/-- A word leaves unit f on output d; inside the well it lands after `n` strokes (R164, R167). -/
def putOut (s : State) (w f d ch n : Nat) (wd : Word) : State :=
  let x := s.well w
  let u := x.unit f
  let x := x.setUnit f { u with outs := SMap.set (fun _ => Word.zero) u.outs d wd }
  match outDest s w f d ch with
  | .inside t => s.setWell w { x with flights := x.flights ++ [⟨n, t, wd⟩] }
  | .across t k m =>
    let s := s.setWell w x
    let y := s.well t
    s.setWell t (y.setCrossing k (y.crossing k ++ [(m - 2 + n, wd)]))
  | .nowhere => s.setWell w x

/-- A word leaves on every output of a route (R202). -/
def putRoute (s : State) (w f : Nat) (route : BitVec 4) (ch : Nat) (wd : Word) : State :=
  (List.range 4).foldl (fun s d => if routeHas route d then putOut s w f d ch 2 wd else s) s

/-- Some output of a route is occupied. -/
def routeOccupied (s : State) (w f : Nat) (route : BitVec 4) (ch : Nat) : Bool :=
  (List.range 4).any fun d => routeHas route d && occupied s w f d ch

/-! ### Sideband and sources of CU words -/

/-- The sideband BLK asks for and the block-tag counter after it (R205). DEDUCED: log 22. -/
def blkSideband (u : FUnit) (blk : BitVec 2) (src : Sideband) (ctx : Nat) : Sideband × BitVec 6 :=
  match blk.toNat with
  | 1 => (⟨false, true, u.tagT + 1, BitVec.ofNat 2 ctx⟩, u.tagT + 1)
  | 2 => (⟨src.marker, src.bs, src.btag, BitVec.ofNat 2 ctx⟩, u.tagT)
  | _ => (⟨false, false, u.tagT, BitVec.ofNat 2 ctx⟩, u.tagT)

/-- A result for register j is still in the pipeline (R205). -/
def FUnit.pendingReg (u : FUnit) (j : Nat) : Bool := u.results.any fun r => r.dst == some j

/-- The value of a source (R203). -/
def sourceLine (u : FUnit) (c : CuF) (src : Nat) : Line :=
  if src < 16 then u.reg src
  else match srcInput src with
    | some i => ((u.port i).headD Word.zero).data
    | none =>
      if src = 0x21 then BitVec.ofNat 512 (ofLanes 32 (List.replicate 16 c.imm.toNat))
      else if src = 0x22 then BitVec.ofNat 512 (ofLanes 32 (List.range 16))
      else 0

/-- The sources an operation uses. -/
def usedSources (op : CuOp) (c : CuF) : List Nat :=
  [c.srca.toNat, c.srcb.toNat, c.srcc.toNat].take op.sources

/-- Inputs removed by the sources of a word, each once (R203). -/
def removedInputs (srcs : List Nat) : List Nat :=
  (List.range 5).filter fun i => srcs.contains (0x10 + i)

/-- Heads of inputs are removed. -/
def FUnit.dropHeads (u : FUnit) (l : List Nat) : FUnit :=
  l.foldl (fun u i => u.setPort i (u.port i).tail) u

/-- This issue of a `CVT` reads a word: every issue but the widening ones between reads (R207). -/
def cvtReads (u : FUnit) (c : CuF) : Bool :=
  let k := (cvtRatio c.fmt c.ofmt).2
  (if u.reps = 0 then 0 else u.cvtPhase) % k == 0

/-- This issue of a `CVT` writes a word: every issue but the narrowing ones between writes (R207). -/
def cvtWrites (u : FUnit) (rep : Nat) (c : CuF) : Bool :=
  let r := (cvtRatio c.fmt c.ofmt).1
  (if u.reps = 0 then 0 else u.cvtPhase) % r + 1 == r || u.reps == rep

/-- Why a CU operation cannot issue: 1 a clear valid bit, 2 an occupied output (R171, R205). -/
def cuBlocks (s : State) (w k rep : Nat) (op : CuOp) (c : CuF) : Option Nat :=
  let u := (s.well w).unit k
  let reads := if op = .cvt ∧ cvtReads u c = false then [] else usedSources op c
  let empty := fun src =>
    if src < 16 then u.pendingReg src
    else match srcInput src with
      | some i => (u.port i).isEmpty
      | none => false
  if reads.any empty then some 1
  else if c.dreg && u.pendingReg c.dst.toNat && (op != .cvt || cvtWrites u rep c) then some 2
  else if op.latency c.fmt c.chn.toNat = 1 ∧ routeOccupied s w k c.route c.ch.toNat then some 2
  else none

/-- The statistics of CU k after a word: events, and values of words that leave its outputs (R91,
R193). DEDUCED: log 23. -/
def cuStatNote (x : Well) (k : Nat) (routed : Bool) (sb : Sideband) (a : AluOut) : Well :=
  let b := x.cuStats k
  let b := if routed && !sb.marker then b.noteAll a.stats else b
  let b := if routed && (if b.perUnit then true else sb.marker) then b.unit else b
  x.setCuStats k (b.sats a.sats)

/-- A computed word goes into the pipeline with its sideband (R204, R205). -/
def cuResult (s : State) (w k : Nat) (op : CuOp) (c : CuF) (u : FUnit) (src : Sideband) (a : AluOut) :
    State :=
  let x := s.well w
  let b := blkSideband u c.blk src x.ctx
  let r : Result := {
    due := op.latency c.fmt c.chn.toNat - 1
    dst := if c.dreg then some c.dst.toNat else none
    route := c.route, ch := c.ch, word := ⟨a.line, b.1⟩ }
  let u := { u with tagT := b.2, results := u.results ++ [r] }
  s.setWell w (cuStatNote (x.setUnit k u) k (c.route != 0) b.1 a)

/-- One issue of `CVT` (R207). `rep` is the word's REP. Saturation events count as they happen; the values
of an output word pass the gathering point with the issue that writes it (R91, R193). -/
def cvtIssue (s : State) (w k rep : Nat) (c : CuF) : State :=
  let x := s.well w
  let u := x.unit k
  let phase := if u.reps = 0 then 0 else u.cvtPhase
  let ratio := cvtRatio c.fmt c.ofmt
  let reads := cvtReads u c
  let head := match srcInput c.srca.toNat with
    | some i => (u.port i).headD Word.zero
    | none => ⟨sourceLine u c c.srca.toNat, .zero⟩
  let hold := if reads then head else u.cvtHold
  let es := cvtPart c.fmt c.ofmt hold.data phase
  let part := ofLanes c.ofmt.slot (es.map (·.code))
  let a := packElems 32 es
  let pos := phase % ratio.1
  let stats := (if pos = 0 then [] else u.cvtStats) ++ (List.range es.length).map fun i =>
    ((512 / ratio.1 * pos + i * c.ofmt.slot) / 32 % 16, maxAbs (es.getD i ⟨0, false, .zero⟩).val)
  let acc := (if pos = 0 then 0 else u.cvtAcc) + part <<< (512 / ratio.1 * pos)
  let u := u.dropHeads (if reads then removedInputs [c.srca.toNat] else [])
  let full := cvtWrites u rep c
  let u := { u with cvtPhase := phase + 1, cvtAcc := acc, cvtHold := hold, cvtStats := stats }
  if full then
    cuResult (s.setWell w (x.setUnit k u)) w k .cvt c u hold.sb ⟨BitVec.ofNat 512 acc, a.sats, stats⟩
  else
    let x := x.setUnit k u
    s.setWell w (x.setCuStats k ((x.cuStats k).sats a.sats))

/-- One issue of a CU operation that nothing blocks (R197, R203 to R208). -/
def cuIssue (s : State) (w k rep : Nat) (op : CuOp) (c : CuF) : State :=
  match op with
  | .cvt => cvtIssue s w k rep c
  | _ =>
    let x := s.well w
    let u := x.unit k
    let line := fun (i : BitVec 6) => sourceLine u c i.toNat
    let srcs := usedSources op c
    let sb := match srcInput c.srca.toNat with
      | some i => ((u.port i).headD Word.zero).sb
      | none => .zero
    let a := aluOp op c.fmt c.chn.toNat c.fn.toNat (line c.srca) (line c.srcb) (line c.srcc)
    let u := u.dropHeads (removedInputs srcs)
    cuResult (s.setWell w (x.setUnit k u)) w k op c u sb a

/-! ### Address generators -/

/-- A 32-bit dimension word: count, step and role (R213). -/
def dimOf (g : Ag) (d : Nat) : Nat × Int × Nat :=
  let v := bits (g.parts.getD (d / 2) 0) (32 * (d % 2)) 32
  (v % 4096 + 1, signedOf 14 (v / 4096 % 16384), v / 2 ^ 26 % 4)

/-- Sum of index times step over the dimensions of a role (R214). -/
def dimSum (g : Ag) (role : Nat) : Int :=
  (List.range 5).foldl (fun t d =>
    if (dimOf g d).2.2 = role then t + (g.idx.getD d 0 : Int) * (dimOf g d).2.1 else t) 0

/-- Fields of parts 2 to 4 (R213). -/
def agEsz (g : Ag) : Nat := bits (g.parts.getD 2 0) 46 2
/-- PADVAL. -/
def agPad (g : Ag) : Nat := bits (g.parts.getD 4 0) 32 32

/-- The half-word address the indices reach; `none` outside a guarded map (R214). -/
def agAddr (g : Ag) : Option Nat :=
  let p3 := g.parts.getD 3 0
  let p4 := g.parts.getD 4 0
  let q := (dimSum g 3).toNat
  let ow := bits p4 0 12 + 1
  let x := signedOf 13 (bits p3 38 13) + (q % ow : Nat) * (bits p4 12 4 : Nat) + dimSum g 1
  let y := signedOf 13 (bits p3 51 13) + (q / ow : Nat) * (bits p4 16 4 : Nat) + dimSum g 2
  let e : Int := if agEsz g = 0 then 2 else 1
  let a := (bits (g.parts.getD 2 0) 32 14 : Int) + dimSum g 0 + y * (bits p3 24 14 : Nat) + x * e
  if bitAt p4 20 && (decide (x < 0) || decide ((bits p3 0 12 : Int) ≤ x) || decide (y < 0)
      || decide ((bits p3 12 12 : Int) ≤ y)) then none
  else some (a % 12288).toNat

/-- Indices from level d on advance by one, with carry (R214). -/
def agCarry (g : Ag) : Nat → Nat → Ag
  | _, 0 => { g with ended := true }
  | d, n + 1 =>
    let i := g.idx.getD d 0 + 1
    if i < (dimOf g d).1 then { g with idx := g.idx.set d i }
    else agCarry { g with idx := g.idx.set d 0 } (d + 1) n

/-- The generator moves to the next element; past the last it starts again and sets its flag. -/
def agStep (g : Ag) : Ag := agCarry g 0 5

/-- The half-words one issue moves, as (half of the word, address or pad), and the generator after
(R215). A whole word at an odd address is its half-word and the next one. DESIGN CHOICE: log 177. -/
def agIssue (g : Ag) : List (Nat × Option Nat) × Ag :=
  if agEsz g = 0 then
    match agAddr g with
    | some a => ([(0, some a), (1, some (a + 1))], agStep g)
    | none => ([(0, none), (1, none)], agStep g)
  else
    let g1 := agStep g
    ([(0, agAddr g), (1, agAddr g1)], agStep g1)

/-- Generator number g of a unit. -/
def FUnit.ag (u : FUnit) (g : Nat) : Ag := if g = 0 then u.agA else if g = 1 then u.agB else u.agW
/-- Sets generator g. -/
def FUnit.setAg (u : FUnit) (g : Nat) (a : Ag) : FUnit :=
  if g = 0 then { u with agA := a } else if g = 1 then { u with agB := a } else { u with agW := a }

/-- `AGSET`: one part is written; indices and flag clear (R213). -/
def agSet (s : State) (w f ag part : Nat) (v : W64) : State :=
  let x := s.well w
  let u := x.unit f
  let g := u.ag ag
  s.setWell w (x.setUnit f (u.setAg ag ⟨g.parts.set part v, [0, 0, 0, 0, 0], false⟩))

/-! ### Bank accesses -/

/-- Half h of a word replaced by half o of another. -/
def setHalfOf (l : Line) (h : Nat) (m : Line) (o : Nat) : Line :=
  let v := laneOf m.toNat 256 o
  if h = 0 then BitVec.ofNat 512 (v + (laneOf l.toNat 256 1) <<< 256)
  else BitVec.ofNat 512 (laneOf l.toNat 256 0 + v <<< 256)

/-- The bank of a half-word of MU k, as the list of used banks names it. -/
def bankOf (k a : Nat) : Nat := 16 * k + a / 2 % 16

/-- A bank serves this stroke's access. -/
def useBank (s : State) (w b : Nat) : State :=
  let x := s.well w
  s.setWell w { x with banks := b :: x.banks }

/-- A read access does what the banks allow in this stroke: each word of the cistern it needs is read
if its bank is free (R160, R212, R215). -/
def readAccess (s : State) (w k : Nat) : RPend → Nat → RPend × State
  | p, 0 => (p, s)
  | p, n + 1 =>
    match p.todo with
    | [] => (p, s)
    | (a, _) :: _ =>
      if (s.well w).banks.contains (bankOf k a) then (p, s)
      else
        let r := cisternRead (useBank s w (bankOf k a)) w k (a / 2)
        let d := (p.todo.filter fun t => t.1 / 2 == a / 2).foldl
          (fun d t => setHalfOf d t.2 r.1 (t.1 % 2)) p.data
        readAccess r.2.2 w k
          { p with data := d, todo := p.todo.filter fun t => t.1 / 2 != a / 2 } n

/-- A read access runs; once whole, its word goes to the outputs one stroke later, and to the write slot
that takes it (R210). A rest stays owed; a write slot that waits for the word has not issued yet and owes nothing
(R212). DEDUCED: log 176. -/
def readRun (s : State) (w f : Nat) (isB : Bool) (p : RPend) : State :=
  let r := readAccess s w (f - 48) p 3
  let s := r.2
  let x := s.well w
  let u := x.unit f
  if r.1.todo.isEmpty then
    let wd : Word := ⟨r.1.data, r.1.sb⟩
    let u := if isB then { u with rOwedB := none } else { u with rOwedA := none }
    let u := if p.route = 0 then u
      else { u with results := u.results ++ [⟨1, none, p.route, p.ch, wd⟩] }
    let u := match p.toW with
      | some d => { u with wPend := u.wPend ++ [⟨d, wd, false⟩] }
      | none => u
    s.setWell w (x.setUnit f u)
  else
    let s := event s 3 (unitNo w 127) 0x0A
    let x := s.well w
    let u := x.unit f
    s.setWell w (x.setUnit f
      (if isB then { u with rOwedB := some r.1 } else { u with rOwedA := some r.1 }))

/-- Half-words of a write that can be stored in this stroke: (address, half) list, what is left, and
the state. -/
def writeHalves (s : State) (w k : Nat) (wd : Line) : List (Nat × Nat) → Nat →
    List (Nat × Nat) × State
  | l, 0 => (l, s)
  | [], _ => ([], s)
  | (a, h) :: r, n + 1 =>
    let b := bankOf k a
    if (s.well w).banks.contains b then ((a, h) :: r, s)
    else
      let same := ((a, h) :: r).filter fun t => t.1 / 2 == a / 2
      let rest := r.filter fun t => t.1 / 2 != a / 2
      let s := useBank s w b
      let old := if same.any (fun t => t.1 % 2 == 0) && same.any (fun t => t.1 % 2 == 1) then (0, false, s)
        else cisternRead s w k (a / 2)
      let line := same.foldl (fun d t => setHalfOf d (t.1 % 2) wd t.2) old.1
      writeHalves (cisternWrite old.2.2 w k (a / 2) line) w k wd rest n

/-- The oldest write of an MU runs; it stays, late, when its bank is taken. A queue sees the F that `s0`
shows: a RELEASE of this stroke frees words for the next (R160, R210, R212, R227). -/
def writeRun (s0 s : State) (w f : Nat) (p : WPend) (rest : List WPend) : State :=
  let k := f - 48
  let put := fun (s : State) (l : List WPend) =>
    let x := s.well w
    s.setWell w (x.setUnit f { x.unit f with wPend := l })
  match p.dest with
  | .walk hs =>
    let r := writeHalves s w k p.word.data hs 3
    if r.1.isEmpty then put r.2 rest
    else put (event r.2 3 (unitNo w 127) 0x0A) ({ p with dest := .walk r.1, late := true } :: rest)
  | .queue qn =>
    let e := 16 * k + qn
    let q := s.sq w e
    let b := 16 * k + (q.base + q.t % Nat.max 1 q.size) % 16
    let f0 := (s0.sq w e).f
    let ring := !q.spilling && decide (q.t - f0 < q.size)
    if ring && (s.well w).banks.contains b then
      put (event s 3 (unitNo w 127) 0x0A) ({ p with late := true } :: rest)
    else put (sqPushAt (if ring then useBank s w b else s) w e f0 p.word) rest

/-! ### MEM -/

/-- The entry a queue slot names. -/
def slotEntry (f : Nat) (qn : BitVec 4) : Nat := 16 * (f - 48) + qn.toNat

/-- A queue read slot finds a word, after its REWIND (R211). -/
def slotHasWord (q : SqEntry) (qop : Nat) : Bool :=
  if qop = 2 ∧ q.armed then q.enabled && decide (q.m < q.t) else q.canPop

/-- Why a `MEM` word cannot issue (R171, R211, R212). -/
def memBlocks (s : State) (w f : Nat) (m : MemF) : Option Nat :=
  let x := s.well w
  let u := x.unit f
  let readEmpty := fun (r : RSlotF) =>
    r.reads && r.q && !slotHasWord (x.sq (slotEntry f r.qn)) r.qop.toNat
  let wIn := m.w.src.toNat
  if readEmpty m.a || readEmpty m.b || (m.w.en && decide (wIn < 5) && (u.port wIn).isEmpty) then some 1
  else
    let e := slotEntry f m.w.qn
    let coming := (u.wPend.filter fun p => p.dest == .queue m.w.qn.toNat).length
    if (m.a.reads && u.rOwedA.isSome) || (m.b.reads && u.rOwedB.isSome)
        || (m.w.en && u.wPend.any (·.late))
        || (m.w.en && m.w.q && !(x.sq e).canPush coming) then some 2
    else none

/-- Where the write slot puts a word, and the unit with AG-W advanced (R209, R214). -/
def writeDest (u : FUnit) (wf : WSlotF) : WDest × FUnit :=
  if wf.q then (.queue wf.qn.toNat, u)
  else
    let r := agIssue u.agW
    (.walk (r.1.filterMap fun p => p.2.map fun a => (a, p.1)), { u with agW := r.2 })

/-- A read slot issues: the access it asks for, with its sideband (R209 to R215). DESIGN CHOICE: log 28. -/
def slotIssue (s : State) (w f : Nat) (r : RSlotF) (isB : Bool) (toW : Option WDest) : State :=
  if !r.en then s
  else if r.q then
    let e := slotEntry f r.qn
    let s := if r.qop = 2 then sqRewind s w e else s
    let s := if r.nord then s
      else
        let q := s.sq w e
        let a := 2 * (q.base + q.r % Nat.max 1 q.size)
        let g := ringSbRead s w (f - 48) (a / 2)
        let sb := g.1
        let s := g.2.2
        let x := s.well w
        let u := x.unit f
        let b := if r.blk = 0 then (sb, u.tagT) else blkSideband u r.blk sb x.ctx
        let s := s.setWell w (x.setUnit f { u with tagT := b.2 })
        let s := event s 4 (queueNo w e) 2
        let s := sqPut s w e { s.sq w e with r := (s.sq w e).r + 1 }
        readRun s w f isB ⟨[(a, 0), (a + 1, 1)], 0, b.1, r.route, r.ch, toW⟩
    let s := if r.qop = 1 then sqMark s w e else s
    if r.qop = 3 then sqRelease s w e else s
  else
    let x := s.well w
    let u := x.unit f
    let g := if isB then u.agB else u.agA
    let i := agIssue g
    -- BLK 0b10 names a source word that a walk read does not have
    let b := if r.blk = 2 then (sbOf (Config.unstated 4 w f), u.tagT)
      else blkSideband u r.blk .zero x.ctx
    let pad := ofLanes 32 (List.replicate 8 (agPad g))
    let data := i.1.foldl (fun d p =>
      if p.2.isNone then setHalfOf d p.1 (BitVec.ofNat 512 pad) 0 else d) (0 : Line)
    let u := { u with tagT := b.2 }
    let u := if isB then { u with agB := i.2 } else { u with agA := i.2 }
    readRun (s.setWell w (x.setUnit f u)) w f isB
      ⟨i.1.filterMap fun p => p.2.map fun a => (a, p.1), data, b.1, r.route, r.ch, toW⟩

/-- One issue of a `MEM` word that nothing blocks: AG-A, AG-B, then the write slot takes its source
word (R160, R209, R210). DEDUCED: log 19. -/
def memIssue (s : State) (w f : Nat) (m : MemF) : State :=
  let x := s.well w
  let d := if m.w.en then writeDest (x.unit f) m.w else (WDest.walk [], x.unit f)
  let s := if m.w.en then s.setWell w (x.setUnit f d.2) else s
  let src := m.w.src.toNat
  let s := slotIssue s w f m.a false (if m.w.en && src == 5 then some d.1 else none)
  let s := slotIssue s w f m.b true (if m.w.en && src == 6 then some d.1 else none)
  if m.w.en && decide (src < 5) then
    let x := s.well w
    let u := x.unit f
    let wd := (u.port src).headD Word.zero
    s.setWell w (x.setUnit f { u.dropHeads [src] with wPend := u.wPend ++ [⟨d.1, wd, false⟩] })
  else s

/-! ### Control words -/

/-- A `PSET` condition's value; `none` where its source is empty, or a register whose result is pending, and
freezes the well (R199, R205). -/
def psetValue (s : State) (w f cond arg : Nat) : Option Bool :=
  let u := (s.well w).unit f
  match cond with
  | 0 => (u.port arg).head?.map (·.sb.marker)
  | 1 => (u.port arg).head?.map (·.sb.bs)
  | 2 => some (!(u.port arg).isEmpty)
  | 3 => some ((u.loops.getD arg .none).active && (u.loops.getD arg .none).left == 1)
  | 4 => if u.pendingReg arg then none else some (laneOf (u.reg arg).toNat 32 0 != 0)
  | 5 => some (u.ag arg).ended
  | 6 =>
    let e := 16 * (f - 48) + arg
    let q := s.sq w e
    if q.canPop then some (ringSb s w (f - 48) (q.base + q.r % Nat.max 1 q.size)).marker else none
  | _ => some true

/-- `PSET` (R199): the walk-end test clears its flag. -/
def psetIssue (s : State) (w f : Nat) (pd cond arg : Nat) (neg : Bool) : State :=
  match psetValue s w f cond arg with
  | none => s
  | some v =>
    let x := s.well w
    let u := x.unit f
    let bit : BitVec 16 := (1 : BitVec 16) <<< pd
    let u := { u with preds := if v != neg then u.preds ||| bit else u.preds &&& ~~~bit }
    let u := if cond = 5 then u.setAg arg { u.ag arg with ended := false } else u
    s.setWell w (x.setUnit f u)

/-- Every earlier word of the unit has written its result (R217). -/
def FUnit.settled (u : FUnit) : Bool :=
  u.results.isEmpty && u.wPend.isEmpty && u.rOwedA.isNone && u.rOwedB.isNone

/-- `SWITCH`: the unit enters switch wait, or its well faults where the context is not committed, and every
unit stops where it stands (R174, R177, R217). DEDUCED: log 160. -/
def switchIssue (s : State) (w f ctx : Nat) (force : Bool) (mask : BitVec 7) (qna qnb : Nat) : State :=
  let x := s.well w
  if x.ctxState ctx = .committed then
    s.setWell w (x.setUnit f { x.unit f with wait := some ⟨ctx, force, mask, qna, qnb, 0⟩ })
  else wellFault (s.setWell w { x with run := .stopped, frozen := false, banks := [] }) w
    (mkFault stCtxInvalid 3 (unitNo w f))

/-! ### One schedule word -/

/-- The word executes: predicate off, or p[PSEL] XOR PNEG, tested at its first issue (R198). -/
def wordRuns (u : FUnit) (h : SwHead) : Bool :=
  u.reps != 0 || !h.pen || (bitAt u.preds h.psel.toNat != h.pneg)

/-- Why the unit's next word freezes the well. -/
def unitBlocks (s : State) (w f : Nat) (h : SwHead) (op : SwOp) : Option Nat :=
  let u := (s.well w).unit f
  if u.wait.isSome || !wordRuns u h then none
  else
    match op with
    | .cu o c => cuBlocks s w f h.rep.toNat o c
    | .mem m => memBlocks s w f m
    | .pset _ cond arg _ => if (psetValue s w f cond.toNat arg.toNat).isNone then some 1 else none
    | _ => none

/-- The unit moves on after an issue: again the same word, or past it (R197). -/
def unitNext (s : State) (w f rep : Nat) : State :=
  let x := s.well w
  let u := x.unit f
  if u.reps < rep then s.setWell w (x.setUnit f { u with reps := u.reps + 1 })
  else
    let r := stepPast u.loops u.pc 512 5
    s.setWell w (x.setUnit f { u with reps := 0, loops := r.1, pc := r.2 })

/-- One issue of a schedule word by a unit that nothing blocks (R197 to R201). A `SWITCH` waits for
earlier results and then leaves the unit in switch wait. -/
def unitIssue (s : State) (w f : Nat) (h : SwHead) (op : SwOp) : State :=
  let x := s.well w
  let u := x.unit f
  if u.wait.isSome then s
  else if !wordRuns u h then unitNext s w f 0
  else
    match op with
    | .nop => unitNext s w f h.rep.toNat
    | .loop lvl c1 last =>
      let l : Loop := ⟨true, (u.pc + 1) % 512, last.toNat, c1.toNat + 1⟩
      s.setWell w (x.setUnit f { u with loops := u.loops.set lvl.toNat l, pc := (u.pc + 1) % 512 })
    | .jmp t => s.setWell w (x.setUnit f { u with loops := leaveLoops u.loops t.toNat, pc := t.toNat })
    | .pset pd cond arg neg =>
      unitNext (psetIssue s w f pd.toNat cond.toNat arg.toNat neg) w f 0
    | .switch force mask qna qnb =>
      if u.settled then switchIssue s w f h.cx.toNat force mask qna.toNat qnb.toNat else s
    | .tagset t => unitNext (s.setWell w (x.setUnit f { u with tagT := t })) w f 0
    | .cu o c => unitNext (cuIssue s w f h.rep.toNat o c) w f h.rep.toNat
    | .mem m => unitNext (memIssue s w f m) w f h.rep.toNat
    | .agset ag part v => unitNext (agSet s w f ag part v) w f 0

/-! ### Results, pass-throughs and arrivals -/

/-- A result about to be written meets an occupied output (R205). -/
def resultBlocked (s : State) (w f : Nat) : Bool :=
  ((s.well w).unit f).results.any fun r => r.due == 0 && routeOccupied s w f r.route r.ch.toNat

/-- Results that are due are written, to outputs that `s0` shows free and to registers; the others
move on by one stroke (R204, R205). Two that are due on one output in one stroke both go out on it. DESIGN CHOICE:
log 175. -/
def resultsMove (s0 s : State) (w f : Nat) : State :=
  let rs := ((s.well w).unit f).results
  let goes := fun (r : Result) => r.due == 0 && !routeOccupied s0 w f r.route r.ch.toNat
  let x := s.well w
  let u := x.unit f
  let u := { u with results := (rs.filter fun r => !goes r).map fun r => { r with due := r.due - 1 } }
  let s := s.setWell w (x.setUnit f u)
  rs.foldl (fun (s : State) r =>
    if goes r then
      let s := putRoute s w f r.route r.ch.toNat r.word
      match r.dst with
      | some j =>
        let x := s.well w
        s.setWell w (x.setUnit f ((x.unit f).setReg j r.word.data))
      | none => s
    else s) s

/-- A pass-through may take the head of input i in switch wait: only words of the running context,
never a masked input under FORCE (R174, R176). DEDUCED: log 20. -/
def passAllowed (x : Well) (u : FUnit) (i : Nat) (wd : Word) : Bool :=
  match u.wait with
  | none => true
  | some t => wd.sb.ctag.toNat == x.ctx && !(t.force && bitAt t.mask (6 - i))

/-- Outputs of unit f that pass input i on (R166). -/
def passOutputs (x : Well) (f i : Nat) : List Nat :=
  (List.range 4).filter fun d => srcCode (switchOf x f) d == i + 1

/-- Every pass-through of unit f moves its head word, if `s0` shows it present and its outputs free
(R167). `gone` lists the inputs whose head the unit's own word has taken. -/
def passMove (s0 s : State) (w f : Nat) : State :=
  (List.range 5).foldl (fun (s : State) i =>
    let x0 := s0.well w
    let ds := passOutputs x0 f i
    match ds, ((x0.unit f).port i).head? with
    | [], _ | _, none => s
    | ds, some wd =>
      if passAllowed x0 (x0.unit f) i wd && !ds.any fun d => occupied s0 w f d 0 then
        let x := s.well w
        let u := x.unit f
        -- a word that the unit's schedule removed in the same stroke is removed once
        let u := if (u.port i).length = ((x0.unit f).port i).length then u.dropHeads [i] else u
        ds.foldl (fun s d => putOut s w f d 0 1 wd) (s.setWell w (x.setUnit f u))
      else s) s

/-- A word lands at its place. -/
def landWord (x : Well) (g : Flight) : Well :=
  match g.dest with
  | .port f i => x.setUnit f ((x.unit f).setPort i ((x.unit f).port i ++ [g.word]))
  | .chan sl ch => x.setSlice sl ((x.slice sl).setChan ch ((x.slice sl).chan ch ++ [g.word]))

/-- Words on their way come one stroke nearer; those that arrive land in order. -/
def flightsMove (s : State) (w : Nat) : State :=
  let x := s.well w
  let l := x.flights.map fun g => { g with left := g.left - 1 }
  let x := { x with flights := l.filter fun g => g.left != 0 }
  s.setWell w ((l.filter fun g => g.left == 0).foldl landWord x)

/-- Unit and input that a crossing key feeds. -/
def crossPlace (key : Nat) : Nat × Nat :=
  if key / 2 % 2 = 1 then (unitAt 3 (key / 4), 1) else (unitAt 0 (key / 4), 3)

/-- The edge unit takes its word from this crossing and not from the other track (R168). -/
def crossTaken (x : Well) (key : Nat) : Bool :=
  let v := switchOf x (crossPlace key).1
  bitAt v (if key / 2 % 2 = 1 then 13 else 12) == (key % 2 == 1)

/-- Unit f of a frozen well is to take the next word of its input i from a crossing: its own word waits for
it, or a pass-through leads it on to a unit inside (R21, R167). -/
def crossWanted (s : State) (w f i : Nat) : Bool :=
  let x := s.well w
  let u := x.unit f
  (u.port i).isEmpty && (!(passOutputs x f i).isEmpty
    || (match decodeSw f (x.swWord x.ctx f u.pc) with
        | some (h, op) => unitBlocks s w f h op == some 1
        | none => false))

/-- The head word of a crossing enters the port FIFO, if there is room. While the well is frozen words wait
in the crossing, but for one that the well is frozen for (R21, R32). DEDUCED: log 15. -/
def crossEnter (s : State) (w key : Nat) (frozen : Bool) : State :=
  let x := s.well w
  let p := crossPlace key
  match x.crossing key with
  | (_, wd) :: r =>
    let n := ((x.unit p.1).port p.2).length
    if crossTaken x key && decide (n < 8) && (!frozen || crossWanted s w p.1 p.2) then
      s.setWell w (landWord (x.setCrossing key r) ⟨0, .port p.1 p.2, wd⟩)
    else s
  | [] => s

/-- Words in the crossings of a well come one stroke nearer, and heads that have arrived enter. -/
def crossingsMove (s : State) (w : Nat) (frozen : Bool) : State :=
  (List.range 96).foldl (fun (s : State) k =>
    let x := s.well w
    match x.crossing k with
    | [] => s
    | l =>
      let l := l.map fun p => (p.1 - 1, p.2)
      let s := s.setWell w (x.setCrossing k l)
      if (l.headD (1, Word.zero)).1 = 0 then crossEnter s w k frozen else s) s

/-- The word sent longest ago stands at most one stroke before its nominal time (R324). -/
def crossDue (x : Well) (key : Nat) : Bool :=
  match x.crossing key with
  | (n, _) :: _ => decide (n ≤ 1)
  | [] => false

/-- `CROSSING_WORD_ARRIVAL`: the word sent longest ago enters its receiving FIFO, at most a stroke before
its nominal time, and never during a droop of the receiver (R32 to R34, R324). -/
def execCrossingWordArrival (w : WellIx) (row : Fin 24) (east express : Bool) (s : State) : Out := clocked s <|
  let k := 4 * row.val + 2 * b2n east + b2n express
  let x := s.well w.val
  .next (if s.hasWell w.val && x.droop == 0 && crossDue x k then crossEnter s w.val k x.frozen else s)

/-! ### Switch wait -/

/-- The head word of a masked input, by mask bit 6 to 0: N, E, S, W, X, QA, QB (R217). -/
def maskedHead (s : State) (w f : Nat) (t : SwWait) (b : Nat) : Option Word :=
  if 2 ≤ b then (((s.well w).unit f).port (6 - b)).head?
  else
    let e := 16 * (f - 48) + (if b = 1 then t.qna else t.qnb)
    let q := s.sq w e
    if q.canPop then some ⟨0, ringSb s w (f - 48) (q.base + q.r % Nat.max 1 q.size)⟩ else none

/-- The unit waits for context x with its condition met (R174). -/
def unitReady (s : State) (w f : Nat) : Option Nat :=
  match ((s.well w).unit f).wait with
  | none => none
  | some t =>
    if (List.range 7).all fun b => !bitAt t.mask b ||
        ((maskedHead s w f t b).map (·.sb.ctag.toNat) == some t.ctx) then some t.ctx
    else none

/-- Every unit is ready for one context (R175). -/
def wellReady (s : State) (w : Nat) : Option Nat :=
  match unitReady s w 0 with
  | none => none
  | some x => if (List.range 96).all fun f => unitReady s w f == some x then some x else none

/-- FORCE_DISCARD at one input of a waiting unit (R176). DEDUCED: log 21. -/
def discardAt (s : State) (w f : Nat) (t : SwWait) (b : Nat) : State :=
  match maskedHead s w f t b with
  | some wd =>
    if bitAt t.mask b && wd.sb.ctag.toNat != t.ctx then
      let s := if 2 ≤ b then
          let x := s.well w
          s.setWell w (x.setUnit f ((x.unit f).dropHeads [6 - b]))
        else (sqSidePop s w (16 * (f - 48) + (if b = 1 then t.qna else t.qnb))).2
      let x := s.well w
      event (s.setWell w { x with discCount := Nat.min (x.discCount + 1) (2 ^ 25 - 1), discUnit := f })
        3 (unitNo w 127) 9
    else s
  | none => s

/-- A stroke of switch wait: it is counted, and FORCE discards (R176, R177). -/
def waitStroke (s : State) (w f : Nat) : State :=
  let x := s.well w
  match (x.unit f).wait with
  | none => s
  | some t =>
    let s := s.setWell w (x.setUnit f { x.unit f with wait := some { t with strokes := t.strokes + 1 } })
    if t.force then (List.range 7).foldl (fun s b => discardAt s w f t b) s else s

/-- What a unit clears at a switch and at a start (R218). -/
def FUnit.cleared (u : FUnit) : FUnit :=
  { u with pc := 0, reps := 0, preds := 0, loops := noLoops, tagT := 0, wait := none, cvtPhase := 0,
           cvtStats := [], cvtAcc := 0, cvtHold := .zero, agA := .reset, agB := .reset, agW := .reset }

/-- The segment that context x begins, when it is the next one (R286). DEDUCED: log 48. -/
def nextSeg (x : Well) (ctx : Nat) : Nat :=
  let n := if x.seg = bits x.pipe 8 4 then 0 else x.seg + 1
  if n % 4 = ctx then n else x.seg

/-- The well switches: every unit goes to word 0 of context x (R175, R218). -/
def wellSwitch (s : State) (w ctx : Nat) : State :=
  let x := s.well w
  let x := (List.range 96).foldl (fun (x : Well) f => x.setUnit f (x.unit f).cleared) x
  s.setWell w { x with ctx := ctx, seg := nextSeg x ctx }

/-- `WELL_SWITCH` (R175). -/
def execWellSwitch (w : WellIx) (s : State) : Out := clocked s <|
  match wellReady s w.val with
  | some x => .next (if s.running w.val then wellSwitch s w.val x else s)
  | none => .next s

end Sys2Proof.Machine
end

