-- ==== Sys2Proof/Machine/FabricOps.lean ====
section
/-! DEFINITION. The schedule-word commands: one issue of a schedule word by one unit of a running well
(chapter 7). A word with a field out of range never issues (R196); a word whose source is empty or whose
output is occupied freezes the well (R171); else the unit issues it. -/

namespace Sys2Proof.Machine

/-- The well does not complete its stroke for a cause (R171). -/
def freezeWell (s : State) (w cause : Nat) : State :=
  s.setWell w { s.well w with frozen := true, cause := cause }

/-- One issue of a word by a unit that is not in switch wait. -/
def unitStep (s : State) (w f : Nat) (h : SwHead) (op : SwOp) : State :=
  match unitBlocks s w f h op with
  | some c => freezeWell s w c
  | none => unitIssue s w f h op

/-- A schedule word of unit f of well w, by its mnemonic. -/
def unitRow (s : State) (w f : Nat) (h : SwHead) (op : SwOp) (name : String) : Out :=
  if op.ok f h then .next (if s.running w then unitStep s w f h op else s)
  else .fault (.outOfRange name)

/-- `NOP` (R201). -/
def execSwNop (w : WellIx) (f : UnitIx) (h : SwHead) (s : State) : Out := clocked s <|
  unitRow s w.val f.val h .nop "SW_NOP"

/-- `LOOP` (R200). -/
def execSwLoop (w : WellIx) (f : UnitIx) (h : SwHead) (lvl : BitVec 2) (count1 : BitVec 16)
    (last : BitVec 9) (s : State) : Out := clocked s <|
  unitRow s w.val f.val h (.loop lvl count1 last) "SW_LOOP"

/-- `JMP` (R200). -/
def execSwJmp (w : WellIx) (f : UnitIx) (h : SwHead) (target : BitVec 9) (s : State) : Out := clocked s <|
  unitRow s w.val f.val h (.jmp target) "SW_JMP"

/-- `PSET` (R199). -/
def execPset (w : WellIx) (f : UnitIx) (h : SwHead) (pd cond arg : BitVec 4) (neg : Bool)
    (s : State) : Out := clocked s <|
  unitRow s w.val f.val h (.pset pd cond arg neg) "PSET"

/-- `SWITCH` (R217). -/
def execSwitch (w : WellIx) (f : UnitIx) (h : SwHead) (force : Bool) (mask : BitVec 7)
    (qna qnb : BitVec 4) (s : State) : Out := clocked s <|
  unitRow s w.val f.val h (.switch force mask qna qnb) "SWITCH"

/-- `TAGSET` (R201). -/
def execTagset (w : WellIx) (f : UnitIx) (h : SwHead) (t : BitVec 6) (s : State) : Out := clocked s <|
  unitRow s w.val f.val h (.tagset t) "TAGSET"

/-- `MOV`: the source, unchanged (R206). -/
def execMov (w : WellIx) (k : Fin 48) (h : SwHead) (c : CuF) (s : State) : Out := clocked s <|
  unitRow s w.val k.val h (.cu .mov c) "MOV"

/-- `CVT`: conversion between formats, packing or widening over repeated issues (R207). -/
def execCvt (w : WellIx) (k : Fin 48) (h : SwHead) (c : CuF) (s : State) : Out := clocked s <|
  unitRow s w.val k.val h (.cu .cvt c) "CVT"

/-- `ADD`: A + B (R206). -/
def execAdd (w : WellIx) (k : Fin 48) (h : SwHead) (c : CuF) (s : State) : Out := clocked s <|
  unitRow s w.val k.val h (.cu .add c) "ADD"

/-- `SUB`: A − B (R206). -/
def execSub (w : WellIx) (k : Fin 48) (h : SwHead) (c : CuF) (s : State) : Out := clocked s <|
  unitRow s w.val k.val h (.cu .sub c) "SUB"

/-- `MUL`: A · B (R206). -/
def execMul (w : WellIx) (k : Fin 48) (h : SwHead) (c : CuF) (s : State) : Out := clocked s <|
  unitRow s w.val k.val h (.cu .mul c) "MUL"

/-- `FMA`: A · B + C, rounded once (R206). -/
def execFma (w : WellIx) (k : Fin 48) (h : SwHead) (c : CuF) (s : State) : Out := clocked s <|
  unitRow s w.val k.val h (.cu .fma c) "FMA"

/-- `MIN`: the lesser (R206). -/
def execMin (w : WellIx) (k : Fin 48) (h : SwHead) (c : CuF) (s : State) : Out := clocked s <|
  unitRow s w.val k.val h (.cu .min c) "MIN"

/-- `MAX`: the greater (R206). -/
def execMax (w : WellIx) (k : Fin 48) (h : SwHead) (c : CuF) (s : State) : Out := clocked s <|
  unitRow s w.val k.val h (.cu .max c) "MAX"

/-- `CMP`: the comparison FN, all ones or zero (R206). -/
def execCmp (w : WellIx) (k : Fin 48) (h : SwHead) (c : CuF) (s : State) : Out := clocked s <|
  unitRow s w.val k.val h (.cu .cmp c) "CMP"

/-- `SEL`: A where C is not zero, else B (R206). -/
def execSel (w : WellIx) (k : Fin 48) (h : SwHead) (c : CuF) (s : State) : Out := clocked s <|
  unitRow s w.val k.val h (.cu .sel c) "SEL"

/-- `AND`: bitwise and (R206). -/
def execAnd (w : WellIx) (k : Fin 48) (h : SwHead) (c : CuF) (s : State) : Out := clocked s <|
  unitRow s w.val k.val h (.cu .and c) "AND"

/-- `OR`: bitwise or (R206). -/
def execOr (w : WellIx) (k : Fin 48) (h : SwHead) (c : CuF) (s : State) : Out := clocked s <|
  unitRow s w.val k.val h (.cu .or c) "OR"

/-- `XOR`: bitwise exclusive or (R206). -/
def execXor (w : WellIx) (k : Fin 48) (h : SwHead) (c : CuF) (s : State) : Out := clocked s <|
  unitRow s w.val k.val h (.cu .xor c) "XOR"

/-- `SHL`: shift left (R206). -/
def execShl (w : WellIx) (k : Fin 48) (h : SwHead) (c : CuF) (s : State) : Out := clocked s <|
  unitRow s w.val k.val h (.cu .shl c) "SHL"

/-- `SHR`: shift right, logical or arithmetic (R206). -/
def execShr (w : WellIx) (k : Fin 48) (h : SwHead) (c : CuF) (s : State) : Out := clocked s <|
  unitRow s w.val k.val h (.cu .shr c) "SHR"

/-- `EXP2`: 2 to the power of A, within the bound of R206. -/
def execExp2 (w : WellIx) (k : Fin 48) (h : SwHead) (c : CuF) (s : State) : Out := clocked s <|
  unitRow s w.val k.val h (.cu .exp2 c) "EXP2"

/-- `LOG2`: logarithm to base 2, within the bound of R206. -/
def execLog2 (w : WellIx) (k : Fin 48) (h : SwHead) (c : CuF) (s : State) : Out := clocked s <|
  unitRow s w.val k.val h (.cu .log2 c) "LOG2"

/-- `RCP`: reciprocal, within the bound of R206. -/
def execRcp (w : WellIx) (k : Fin 48) (h : SwHead) (c : CuF) (s : State) : Out := clocked s <|
  unitRow s w.val k.val h (.cu .rcp c) "RCP"

/-- `RSQ`: reciprocal square root, within the bound of R206. -/
def execRsq (w : WellIx) (k : Fin 48) (h : SwHead) (c : CuF) (s : State) : Out := clocked s <|
  unitRow s w.val k.val h (.cu .rsq c) "RSQ"

/-- `RSUM`: the sum of the lanes (R206). -/
def execRsum (w : WellIx) (k : Fin 48) (h : SwHead) (c : CuF) (s : State) : Out := clocked s <|
  unitRow s w.val k.val h (.cu .rsum c) "RSUM"

/-- `RMAX`: the greatest lane (R206). -/
def execRmax (w : WellIx) (k : Fin 48) (h : SwHead) (c : CuF) (s : State) : Out := clocked s <|
  unitRow s w.val k.val h (.cu .rmax c) "RMAX"

/-- `MEM` (R209 to R212). -/
def execMem (w : WellIx) (k : Fin 48) (h : SwHead) (m : MemF) (s : State) : Out := clocked s <|
  unitRow s w.val (48 + k.val) h (.mem m) "MEM"

/-- `AGSET` (R213). -/
def execAgset (w : WellIx) (k : Fin 48) (h : SwHead) (ag : BitVec 2) (part : BitVec 3) (payload : W64)
    (s : State) : Out := clocked s <|
  unitRow s w.val (48 + k.val) h (.agset ag.toNat part.toNat payload) "AGSET"

end Sys2Proof.Machine
end

