-- ==== Sys2Proof/Machine/Slices.lean ====
section
/-! DEFINITION. The engines of a matrix-engine slice (chapters 3 and 4): input channels, dot products,
zero points, scaled drains, scale streams, weight loading and the relay chain. -/

namespace Sys2Proof.Machine

/-! ### Names -/

/-- ME of slice i of well w (R18). -/
def meOf (w i : Nat) : Nat := w + (if i < 4 then 0 else 8)
/-- UNIT of a slice in the error log and the counters (R493). -/
def sliceNo (w i : Nat) : Nat := 4 * meOf w i + i % 4
/-- Slice i of well w. -/
def State.slc (s : State) (w i : Nat) : Slice := (s.well w).slice i
/-- Writes slice i of well w. -/
def State.setSlc (s : State) (w i : Nat) (y : Slice) : State := s.setWell w ((s.well w).setSlice i y)

/-- Scale register n; reset value 1.0 (R79). -/
def Slice.scaleOf (y : Slice) (n : Nat) : W32 := SMap.get (fun _ => 0x3F800000) y.scale n
/-- Writes a scale register. -/
def Slice.setScale (y : Slice) (n : Nat) (v : W32) : Slice :=
  { y with scale := SMap.set (fun _ => 0x3F800000) y.scale n v }
/-- Row sum n (R88). -/
def Slice.rowOf (y : Slice) (n : Nat) : W32 := SMap.get (fun _ => 0) y.rowsum n
/-- Writes a row sum. -/
def Slice.setRow (y : Slice) (n : Nat) (v : W32) : Slice :=
  { y with rowsum := SMap.set (fun _ => 0) y.rowsum n v }
/-- Accumulator a of DPU d (R100). -/
def Slice.accOf (y : Slice) (d a : Nat) : W32 := SMap.get (fun _ => 0) y.acc (16 * d + a)
/-- Sidecar byte b of DPU d (R106). -/
def Slice.sideOf (y : Slice) (d b : Nat) : Byte := SMap.get (fun _ => 0) y.sidecar (256 * d + b)

/-! ### Markers -/

/-- DW0 of a marker word (R482). -/
def markDw0 (wd : Word) : Nat := laneOf wd.data.toNat 64 0
/-- Task a marker names. -/
def markTask (wd : Word) : Option Nat :=
  if markDw0 wd / 2 ^ 32 % 2 = 1 then some (markDw0 wd / 2 ^ 34 % 1024) else none
/-- KIND of a marker: 1 frame, 2 end of stream. -/
def markKind (wd : Word) : Nat := markDw0 wd % 256
/-- A marker with ABT and a status set (R482, R485). -/
def markAbort (wd : Word) (status : Nat) : Word :=
  let d := wd.data.toNat
  let dw0 := markDw0 wd % 2 ^ 56 / 2 ^ 34 * 2 ^ 34 + 2 ^ 33 + markDw0 wd % 2 ^ 33 + status % 256 * 2 ^ 56
  { wd with data := BitVec.ofNat 512 (d / 2 ^ 64 * 2 ^ 64 + dw0) }

/-- Markers at the head of a channel move into the marker FIFO while it has room (R131). -/
def pullMarkers : List Word → List Word → List Word × List Word
  | [], ms => ([], ms)
  | wd :: r, ms =>
    if wd.sb.marker && decide (ms.length < 4) then pullMarkers r (ms ++ [wd]) else (wd :: r, ms)

/-- MARKER_TO_FIFO on channel c; a discard after TAG_MISMATCH ends with the marker (R84, R131). -/
def Slice.markersOf (y : Slice) (c : Nat) : Slice :=
  let r := pullMarkers (y.chan c) y.markers
  let got := decide (r.2.length ≠ y.markers.length)
  let y := { y.setChan c r.1 with markers := r.2 }
  if got then { y with discCh := y.discCh &&& ~~~((1 : BitVec 4) <<< c) } else y

/-- One data word is discarded at the head of a channel that is being skipped (R84). -/
def Slice.skipHead (y : Slice) (c : Nat) : Slice :=
  if bitAt y.discCh c then
    match y.chan c with
    | wd :: r => if wd.sb.marker then y else { y.setChan c r with half := (y.setHalf c false).half }
    | [] => y
  else y

/-- What the heads of the channels do at the end of a stroke. -/
def Slice.headsMove (y : Slice) : Slice :=
  (List.range 4).foldl (fun y c => ((y.markersOf c).skipHead c).markersOf c) y

/-! ### Reading IN -/

/-- The data word at the head of a channel; a marker that waits for the marker FIFO hides what is
behind it (R131). -/
def Slice.headData (y : Slice) (c : Nat) : Option Word :=
  match y.chan c with
  | wd :: _ => if wd.sb.marker then none else some wd
  | [] => none

/-- A read of channel c finds something: after a tag fault every read gives a zero word (R485). -/
def Slice.readable (y : Slice) (c : Nat) : Bool := y.discard || (y.headData c).isSome

/-- A whole word is taken from channel c. DEDUCED: log 34. -/
def Slice.takeWord (y : Slice) (c : Nat) : Word × Slice :=
  if y.discard then (Word.zero, y)
  else ((y.headData c).getD Word.zero, (y.setChan c (y.chan c).tail).setHalf c false)

/-- A 32-byte half is taken from channel c, low half first (R130). -/
def Slice.takeHalf (y : Slice) (c : Nat) : Nat × Sideband × Slice :=
  if y.discard then (0, .zero, y)
  else
    let wd := (y.headData c).getD Word.zero
    if y.halfOf c then (laneOf wd.data.toNat 256 1, wd.sb, (y.setChan c (y.chan c).tail).setHalf c false)
    else (laneOf wd.data.toNat 256 0, wd.sb, y.setHalf c true)

/-! ### Faults of a slice -/

/-- TAG_MISMATCH: tags recorded, entry written, the task of the oldest pending marker aborted, input and
scale words skipped to the next frame marker (R83 to R85, R485). DEDUCED: log 35. -/
def tagMismatch (s : State) (w i exp got : Nat) : State :=
  let y := s.slc w i
  let one : Nat → BitVec 4 := fun c => (1 : BitVec 4) <<< c
  let s := s.setSlc w i { y with
    tagErr := true, tagExp := BitVec.ofNat 6 exp, tagGot := BitVec.ofNat 6 got, discard := true
    discCh := y.discCh ||| one y.dataCh ||| one y.sideCh, scaleBuf := [], scaleHalf := false
    mxPos := 0, mxCodes := [] }
  let f := mkFault stTagMismatch 2 (sliceNo w i) 0 (exp * 64 + got)
  match y.markers.head?.bind markTask with
  | some t => taskFault s t f
  | none => logEntry s f 1 none (s.pipeOf w)

/-- n saturation events of a slice (R69, R89). -/
def sliceSats (s : State) (w i n : Nat) : State :=
  let y := s.slc w i
  (List.range n).foldl (fun (s : State) _ => event s 2 (sliceNo w i) 7)
    (s.setSlc w i { y with stat := y.stat.sats n })

/-! ### Weight bank -/

/-- Bank line `line` of DPU d: the data, whether it is uncorrectable, and the state with a correctable
error counted and the line queued for write-back (R108, R124). -/
def weightLine (s : State) (w i d line : Nat) : Line × Bool × State :=
  let a := weightAddr w i d (64 * line)
  let l := s.mem.line a
  match decodeLine l (s.delta a) with
  | .ok => (l, false, s)
  | .corrected l' =>
    let y := s.slc w i
    let q := 64 * d + line
    (l', false, s.setSlc w i { y with
      wsCe := true, wsCount := Nat.min (y.wsCount + 1) 0xFFFF, wsDpu := d, wsLine := line
      wb := if y.wb.contains q then y.wb else y.wb ++ [q] })
  | .uncorrectable =>
    let y := s.slc w i
    let s := s.setSlc w i { y with wsUe := true, wsDpu := d, wsLine := line, st := .faulted }
    (l, true, wellFault s w (mkFault stSramUe 2 (sliceNo w i)))

/-- A bank line is written with valid check symbols; a write-back of the old line lapses. -/
def weightWrite (s : State) (w i d line : Nat) (l : Line) : State :=
  let s := s.putLine (weightAddr w i d (64 * line)) l 0
  let y := s.slc w i
  event (s.setSlc w i { y with wb := y.wb.filter (· != 64 * d + line) }) 2 (sliceNo w i) 6

/-- The oldest corrected line is written back; a second error since then is SRAM_UE. The error itself is not
counted again (R108, R124). -/
def weightWriteback (s : State) (w i : Nat) : State :=
  match (s.slc w i).wb with
  | [] => s
  | q :: _ =>
    let a := weightAddr w i (q / 64) (64 * (q % 64))
    match decodeLine (s.mem.line a) (s.delta a) with
    | .ok => weightWrite s w i (q / 64) (q % 64) (s.mem.line a)
    | .corrected l => weightWrite s w i (q / 64) (q % 64) l
    | .uncorrectable =>
      let s := (weightLine s w i (q / 64) (q % 64)).2.2
      let y := s.slc w i
      s.setSlc w i { y with wb := y.wb.filter (· != q) }

/-- The bank is neither read nor written in the present stroke: no operation runs, and the last line of a
load is in (R108, R112, R115). -/
def bankIdle (s : State) (w i : Nat) : Bool :=
  (s.slc w i).bankOp.isNone && decide ((s.slc w i).lineTick < (s.well w).tick)

/-- The oldest write-back takes an idle stroke of the bank (R108, R123). -/
def idleWriteback (s : State) (w i : Nat) : State :=
  if bankIdle s w i && !(s.slc w i).wb.isEmpty then
    let s := weightWriteback s w i
    s.setSlc w i { s.slc w i with wbNow := true }
  else s

/-! ### Dot products and accumulators -/

/-- The integer a code of an integer format stands for, as stored (R56). -/
def intVal (f : Fmt) (c : Nat) : Int := if f = .uint8 then (c : Int) else signedOf f.width c

/-- Codes of the first n elements of a run of bits (R54, R55). -/
def codesOf (f : Fmt) (v n : Nat) : List Nat :=
  (List.range n).map fun j => laneOf v f.slot j % 2 ^ f.width

/-- The exact dot product of integer codes (R101). -/
def dotInt (fa fw : Fmt) : List Nat → List Nat → Int
  | a :: r, b :: t => intVal fa a * intVal fw b + dotInt fa fw r t
  | _, _ => 0

/-- The exact dot product of float codes, term after term (R101). -/
def dotFloat (fa fw : Fmt) : List Nat → List Nat → FVal → FVal
  | a :: r, b :: t, v => dotFloat fa fw r t (v.add ((decodeFmt fa a).mul (decodeFmt fw b)))
  | _, _, v => v

/-- Exact dot product of lists of codes; its first term stands alone so that a zero keeps its sign. -/
def dotFloats (fa fw : Fmt) : List Nat → List Nat → FVal
  | a :: r, b :: t => dotFloat fa fw r t ((decodeFmt fa a).mul (decodeFmt fw b))
  | _, _ => .zero

/-- A block product times its pair of scale codes; code 0xFF gives NaN (R64, R562). -/
def blockScale (v : FVal) (ca cw : Nat) : FVal :=
  if ca = 255 ∨ cw = 255 then .nan false else v.scale2 ((ca : Int) + cw - 254)

/-- Accumulator bank and position of an update: index 0–15 (R100). -/
def accIx (bank p : Nat) : Nat := 8 * bank + p

/-- Weight scale codes of a chunk: one per 32 reduction elements it covers (R106, R139). -/
def weightCodes (y : Slice) (f : MmaF) (elems d c : Nat) : List Nat :=
  (List.range (if elems = 64 then 2 else 1)).map fun b =>
    if f.wmx then (y.sideOf d (c * elems / 32 + b)).toNat else 127

/-- Words of the sidecar that chunk c of DPU d reads pass their SECDED: a single wrong bit is corrected and
counted, more are SRAM_UE (R108). DEDUCED: log 159. -/
def sidecarCheck (s : State) (w i : Nat) (f : MmaF) (elems d c : Nat) : State :=
  if !f.wmx then s
  else
    let y := s.slc w i
    let q := 32 * d + c * elems / 256
    match SMap.get (fun _ => 0) y.sideErr q with
    | 0 => s
    | 1 => s.setSlc w i { y with
        sideErr := SMap.set (fun _ => 0) y.sideErr q 0, wsCe := true
        wsCount := Nat.min (y.wsCount + 1) 0xFFFF, wsDpu := d }
    | _ => wellFault (s.setSlc w i { y with wsUe := true, wsDpu := d, st := .faulted }) w
        (mkFault stSramUe 2 (sliceNo w i))

/-- Activation scale codes of a vector (R82, R139). -/
def vectorCodes (y : Slice) (f : MmaF) (elems : Nat) : List Nat :=
  let n := if elems = 64 then 2 else 1
  (List.range n).map fun b =>
    if f.amx && y.mx then y.mxCodes.getD (y.mxPos * n + b) 127 else 127

/-- New code of one accumulator after a float update, with its event (R63, R67, R104, R562). -/
def accFloat (f : MmaF) (old : FVal) (as ws : List Nat) (ca cw : List Nat) : Nat × Bool :=
  let n := ca.length
  let k := as.length / n
  let v := (List.range n).foldl (fun (v : FVal) b =>
    v.add (blockScale (dotFloats f.afmt f.wfmt ((as.drop (k * b)).take k) ((ws.drop (k * b)).take k))
      (ca.getD b 127) (cw.getD b 127))) old
  encodeFmt .fp32 v

/-- One DPU takes one vector: chunk c of its bank, accumulator a (R101, R104, R139). DEDUCED: log 38. -/
def dpuStep (s : State) (w i : Nat) (f : MmaF) (p : Pair) (as : List Nat) (zero : Bool) (c a d : Nat) :
    State × Nat :=
  let off := p.chunk * c
  let r := weightLine s w i d (off / 64)
  let s := sidecarCheck r.2.2 w i f p.elems d c
  let y := s.slc w i
  let ws := codesOf f.wfmt (r.1.toNat >>> (8 * (off % 64))) p.elems
  let old := if zero then 0 else (y.accOf d a).toNat
  let res := if p.int32 then
      let t := satInt (-2147483648) 2147483647 (signedOf 32 old + dotInt f.afmt f.wfmt as ws)
      (codeOfInt 32 t.1, t.2)
    else accFloat f (f32 old) as ws (vectorCodes y f p.elems) (weightCodes y f p.elems d c)
  (s.setSlc w i { y with acc := SMap.set (fun _ => 0) y.acc (16 * d + a) (BitVec.ofNat 32 res.1) },
    b2n res.2)

/-- The sum lane: column sum and element count of accumulator a (R86, R88). -/
def sumLane (y : Slice) (f : MmaF) (p : Pair) (as : List Nat) (zero : Bool) (a : Nat) : Slice :=
  if p.int32 then
    let z : Nat → Int := fun _ => 0
    let c := (if zero then 0 else SMap.get z y.colsum a) + (as.map (intVal f.afmt)).sum
    let k := (if zero then 0 else SMap.get (fun _ => 0) y.kcount a) + p.elems
    { y with colsum := SMap.set z y.colsum a (satInt (-2147483648) 2147483647 c).1
             kcount := SMap.set (fun _ => 0) y.kcount a k
             accU8 := SMap.set (fun _ => false) y.accU8 a (f.afmt == .uint8) }
  else y

/-- A vector is broadcast to all 256 DPUs (R101). -/
def broadcast (s : State) (w i : Nat) (f : MmaF) (p : Pair) (v : Nat) (zero : Bool) (c a : Nat) :
    State :=
  let as := codesOf f.afmt v p.elems
  let r := (List.range 256).foldl (fun (t : State × Nat) d =>
    let u := dpuStep t.1 w i f p as zero c a d
    (u.1, t.2 + u.2)) (s, 0)
  let s := r.1
  let s := s.setSlc w i (sumLane (s.slc w i) f p as zero a)
  event (sliceSats s w i r.2) 2 (sliceNo w i) 1

/-! ### Scale streams -/

/-- Words of the scale block of an MX data block (R82). -/
def mxNeed (y : Slice) (elems : Nat) : Nat := (y.tagL * (if elems = 64 then 2 else 1) + 63) / 64

/-- Words the scale buffer may hold: one block. -/
def scaleCap (y : Slice) : Nat := if y.mx then 128 else 16

/-- The side engine takes one half of a scale word: of the block that comes next, never past the word
that begins the block after it (R80, R82, R85). DEDUCED: log 32. -/
def scaleStep (y : Slice) : Slice :=
  if y.streamed && !y.discard && decide (y.scaleBuf.length < scaleCap y) && y.sideOp.isNone then
    match y.headData y.sideCh with
    | some wd =>
      if y.scaleBuf.isEmpty || !wd.sb.bs then
        let r := y.takeHalf y.sideCh
        if y.scaleHalf then { r.2.2 with scaleHalf := false, scaleBuf := y.scaleBuf ++ [wd] }
        else { r.2.2 with scaleHalf := true }
      else y
    | none => y
  else y

/-- The block's later words end here: a word with a block start stands next (R83). -/
def scaleCut (y : Slice) : Bool :=
  match y.headData y.sideCh with
  | some wd => wd.sb.bs && !y.scaleBuf.isEmpty
  | none => false

/-- A scale block of n words can be judged: it is here, or it ends too early. -/
def scaleReady (y : Slice) (n : Nat) : Bool := decide (n ≤ y.scaleBuf.length) || scaleCut y

/-- The block of n words is in order and carries the data block's tag (R83). -/
def scaleMatches (y : Slice) (n : Nat) : Bool :=
  let l := y.scaleBuf.take n
  decide (n ≤ y.scaleBuf.length)
    && (match l with
        | wd :: r => wd.sb.bs && wd.sb.btag == y.dataTag && r.all fun x => !x.sb.bs
        | [] => true)

/-- Tag of the scale block next in line. -/
def scaleTag (y : Slice) : Nat :=
  match y.scaleBuf with
  | wd :: _ => wd.sb.btag.toNat
  | [] => 0

/-! ### Drains -/

/-- Step 1 of R76: the zero-point correction of accumulator a of DPU d, saturated once. -/
def corrected (y : Slice) (d a : Nat) : Int × Bool :=
  let acc := signedOf 32 (y.accOf d a).toNat
  let za : Int := if SMap.get (fun _ => false) y.accU8 a then (bits y.zp 0 8 : Int) else 0
  let zw := signedOf 8 (bits y.zp 8 8)
  let k : Int := (SMap.get (fun _ => 0) y.kcount a : Nat)
  satInt (-2147483648) 2147483647
    (acc - za * signedOf 32 (y.rowOf d).toNat - zw * SMap.get (fun _ => (0 : Int)) y.colsum a + k * za * zw)

/-- A drained value: its code, its events and its max-abs (R76, R91). -/
def drainValue (y : Slice) (ofmt : Fmt) (scale : FVal) (d a : Nat) : Nat × Nat × Option Nat :=
  let c := corrected y d a
  let v := if y.accKind then (f32 (y.accOf d a).toNat).mul scale
    else match scale with
      | .fin _ _ _ => if c.1 = 0 then .zero else (FVal.ofInt c.1).mul scale
      | _ => (FVal.ofInt c.1).mul scale
  let v := if ofmt = .uint8 then v.add (.ofInt (bits y.zp 16 8)) else v
  let e := encodeFmt ofmt v
  (e.1, (if y.accKind then 0 else b2n c.2) + b2n e.2, maxAbs v)

/-- The scale of channel d: native, from the streamed block, or none in MX mode, which streams no
channel scale (R75, R80, R82). -/
def channelScale (y : Slice) (block : List Word) (d : Nat) : FVal :=
  if y.mx then .ofInt 1
  else if y.streamed then
    f32 (laneOf ((block.getD (d / 16) Word.zero).data.toNat) 32 (d % 16))
  else f32 (y.scaleOf d).toNat

/-- The sideband of a drained word: its thread's context (R173); a drain is no producer of blocks (R81),
and no rule names its block tag. DEDUCED: log 33. -/
def drainSb (y : Slice) (w i : Nat) : Sideband :=
  ⟨false, false, BitVec.ofNat 6 (Config.unstated 5 (8 * w + i) y.pc), BitVec.ofNat 2 y.ctx⟩

/-- Word j of position p of a drain: channels 64/B·j on, zero beyond channel n − 1 (R113). -/
def drainWord (y : Slice) (w i : Nat) (f : DrainF) (block : List Word) (bank p j : Nat) :
    Word × Nat × List (Nat × Option Nat) :=
  let per := f.ofmt.perWord
  let n := f.n1.toNat + 1
  if y.discard then (⟨0, drainSb y w i⟩, 0, [])
  else
    let ch := (List.range per).filterMap fun k => if per * j + k < n then some (per * j + k) else none
    let vs := ch.map fun d => (d, drainValue y f.ofmt (channelScale y block d) d (accIx bank p))
    (⟨lineOfCodes f.ofmt (vs.map fun v => v.2.1), drainSb y w i⟩,
      (vs.map fun v => v.2.2.1).sum, vs.map fun v => (v.1, v.2.2.2))

/-- All words of a drain issued in stroke t, two per stroke from t + 6, and its marker (R112, R113,
R142, R143). -/
def drainWords (y : Slice) (w i t : Nat) (f : DrainF) (block : List Word) (bank : Nat) : List OutWord :=
  if f.monly then [⟨t + 1, 0, none, 0, [], true⟩]
  else
    let per := (f.n1.toNat + f.ofmt.perWord) / f.ofmt.perWord
    let tot := per * (f.p1.toNat + 1)
    let ws := (List.range tot).map fun g =>
      let r := drainWord y w i f block bank (g / per) (g % per)
      (⟨t + 6 + g / 2, g % 2, some r.1, r.2.1, r.2.2, g + 1 == tot⟩ : OutWord)
    if f.mark then ws ++ [⟨t + 6 + (tot - 1) / 2 + 1, 0, none, 0, [], false⟩] else ws

/-- The port FIFO of the attach cell that an output port feeds: OUT0 the slice-side input, OUT1 input X
(R162, R325). -/
def outPort (i p : Nat) : Dest :=
  let f := unitAt (i % 4) (if i < 4 then 23 else 0)
  .port f (if p = 0 then sliceSide f else 4)

/-- Words of the drain engine due in the present stroke. -/
def Slice.dueWords (y : Slice) (now : Nat) : List OutWord := y.outQ.filter fun o => o.tick == now

/-- One word or marker enters its port; the word's values, and the unit that it ends, are counted (R142, R143,
R91, R92, R485). -/
def emitWord (s : State) (w i : Nat) (o : OutWord) : State :=
  let x := s.well w
  let y := x.slice i
  match o.word with
  | some wd =>
    let st := y.stat.noteAll o.stats
    let st := if o.last && y.stat.perUnit then st.unit else st
    let x := x.setSlice i { y with stat := st }
    let s := s.setWell w { x with flights := x.flights ++ [⟨2, outPort i o.port, wd⟩] }
    event s 2 (sliceNo w i) 5
  | none =>
    match y.markers with
    | [] => s
    | m :: r =>
      let wd := if y.discard then markAbort m stTagMismatch else m
      let wd : Word := { wd with sb := { wd.sb with marker := true, ctag := BitVec.ofNat 2 y.ctx } }
      let st := if y.stat.perUnit then (if o.last then y.stat.unit else y.stat) else y.stat.unit
      let x := x.setSlice i { y with markers := r, discard := false, stat := st }
      let s := s.setWell w { x with flights := x.flights ++ [⟨2, outPort i o.port, wd⟩] }
      if y.discard then
        match markTask m with
        | some t => reportTask s t stTagMismatch
        | none => s
      else s

/-- The drain engine's stroke: the events of its words count after a window that ends in the stroke (R90). -/
def drainStroke (s : State) (w i : Nat) : State :=
  let now := (s.well w).tick
  let due := (s.slc w i).dueWords now
  let s := sliceSats (due.foldl (fun s o => emitWord s w i o) s) w i (due.map (·.sats)).sum
  let y := s.slc w i
  s.setSlc w i { y with outQ := y.outQ.filter fun o => o.tick != now }

/-! ### Relay -/

/-- The next slice of the relay chain and the strokes of the hop; `none` at the end of the pipeline's run
(R112, R117). DEDUCED: log 36. -/
def relayNext (s : State) (w i : Nat) : Option (Nat × Nat × Nat) :=
  let rev := match s.pipeOf w with
    | some p => (s.mp.image p).reversed
    | none => false
  let far := if rev then w - 1 else w + 1
  if (if rev then i = 0 else i = 7) then
    if (if rev then 0 < w else w < 7) && s.pipeOf far == s.pipeOf w && (s.pipeOf w).isSome then
      some (far, if rev then 7 else 0, 3)
    else none
  else
    let j := if rev then i - 1 else i + 1
    some (w, j, if i / 4 = j / 4 then 1 else 2)

/-- The receiving relay FIFO has no place: 8 lines, and 8 more in a crossing (R119). -/
def relayFull (s : State) (w i : Nat) : Bool :=
  match relayNext s w i with
  | none => false
  | some (v, j, hop) =>
    let y := s.slc v j
    decide ((if hop = 3 then 16 else 8) ≤ y.relayFifo.length + y.relayIn.length)

/-- A line goes out on the relay, `late` strokes after the present one (R138). At the last slice of the chain it goes
nowhere (R118). DESIGN CHOICE: log 171. -/
def relaySend (s : State) (w i late : Nat) (l : Line) : State :=
  match relayNext s w i with
  | none => s
  | some (v, j, hop) =>
    let y := s.slc v j
    s.setSlc v j { y with relayIn := y.relayIn ++ [(hop + late, l)] }

/-- The line that has come nearest enters the relay FIFO once it has arrived (R119). -/
def relayEnter (y : Slice) : Slice :=
  match y.relayIn with
  | (n, l) :: r =>
    if n = 0 && decide (y.relayFifo.length < 8) then
      { y with relayIn := r, relayFifo := y.relayFifo ++ [l] }
    else y
  | [] => y

/-- Relay lines on their way come one stroke nearer. -/
def relayMove (y : Slice) : Slice :=
  relayEnter { y with relayIn := y.relayIn.map fun p => (p.1 - 1, p.2) }

/-! ### Bank loads -/

/-- Codes per DPU that SIDE asks for (R137). -/
def sideCodes (side lines : Nat) : Nat :=
  match side with
  | 1 => 2 * lines
  | 2 => 4 * lines
  | _ => 0

/-- Lines, and words in all, of a bank load (R137). -/
def loadTotal (dcnt1 lines1 side : Nat) : Nat :=
  (dcnt1 + 1) * (lines1 + 1) + ((dcnt1 + 1) * sideCodes side (lines1 + 1) + 63) / 64

/-- The n-th word of a bank load is stored: a bank line, or 64 sidecar codes (R116, R137). -/
def loadStore (s : State) (w i dfirst dcnt1 row lines1 side n : Nat) (l : Line) : State :=
  let lines := lines1 + 1
  let d := (dcnt1 + 1) * lines
  if n < d then weightWrite s w i (dfirst + n / lines) (row / 2 + n % lines) l
  else
    let cnt := sideCodes side lines
    let base := if side = 1 then row else 2 * row
    let y := s.slc w i
    let sc := (List.range 64).foldl (fun (m : SMap Byte) j =>
      let q := 64 * (n - d) + j
      if q < (dcnt1 + 1) * cnt then
        SMap.set (fun _ => 0) m (256 * (dfirst + q / cnt) + base + q % cnt)
          (BitVec.ofNat 8 (laneOf l.toNat 8 j))
      else m) y.sidecar
    let er := (List.range 64).foldl (fun (m : SMap Nat) j =>
      let q := 64 * (n - d) + j
      if q < (dcnt1 + 1) * cnt then
        SMap.set (fun _ => 0) m (32 * (dfirst + q / cnt) + (base + q % cnt) / 8) 0
      else m) y.sideErr
    s.setSlc w i { y with sidecar := sc, sideErr := er }

/-- Word n of a bank load, read in the present stroke, is written two strokes on (R112). -/
def lineDue (s : State) (w i dfirst dcnt1 row lines1 side n : Nat) (l : Line) : State :=
  let y := s.slc w i
  let t := (s.well w).tick + 2
  s.setSlc w i { y with lineTick := t, loads := y.loads ++ [⟨t, dfirst, dcnt1, row, lines1, side, n, l⟩] }

/-- The words of a load that are due are written. -/
def linesLand (s : State) (w i : Nat) : State :=
  let now := (s.well w).tick
  let y := s.slc w i
  let s := s.setSlc w i { y with loads := y.loads.filter fun b => decide (now < b.due) }
  (y.loads.filter fun b => decide (b.due ≤ now)).foldl (fun s b =>
    loadStore s w i b.dfirst b.dcnt1 b.row b.lines1 b.side b.n b.line) s

/-! ### The bank engine -/

/-- One vector of a run is read and all DPUs take it; MX blocks are checked at their first vector (R83,
R109, R139). DEDUCED: log 31. -/
def mmaVector (s : State) (w i : Nat) (f : MmaF) (p : Pair) (bank : Nat) (zero : Bool) (c pos : Nat) :
    State :=
  let y := s.slc w i
  let r := y.takeHalf f.ch.toNat
  let y := r.2.2
  let tag := if y.discard then y.dataTag else if r.2.1.bs then r.2.1.btag else y.dataTag
  let y := if bank = 0 then { y with dataTag := tag, tagA := tag } else { y with dataTag := tag, tagB := tag }
  let mx := f.amx && y.mx && !y.discard
  let need := mxNeed y p.elems
  if mx && y.mxPos == 0 && !scaleMatches { y with dataTag := r.2.1.btag } need then
    let s := tagMismatch (s.setSlc w i y) w i r.2.1.btag.toNat (scaleTag y)
    -- the vector of the faulting block counts as zero
    broadcast s w i f p 0 zero (f.cfirst.toNat + c) (accIx bank pos)
  else
    let y := if mx && y.mxPos == 0 then
        { y with dataTag := r.2.1.btag
                 mxCodes := (y.scaleBuf.take need).flatMap fun wd => codesOf .e8m0 wd.data.toNat 64
                 scaleBuf := y.scaleBuf.drop need }
      else y
    let s := broadcast (s.setSlc w i y) w i f p r.1 zero (f.cfirst.toNat + c) (accIx bank pos)
    let y := s.slc w i
    if mx then s.setSlc w i { y with mxPos := if y.mxPos + 1 < y.tagL then y.mxPos + 1 else 0 } else s

/-- The limiter at an MMA stroke: E restarts from the activity level after a long idle, credit is added
and one stroke taken from it (R462, R463). DEDUCED: log 41. -/
def limiterTake (s : State) (y : Slice) : Slice :=
  let e := if s.fld rPwrSlope 8 16 < y.limIdle then Nat.min y.limE y.limAct else y.limE
  { y with limE := e, limIdle := 0, limCredit := Nat.min 64 (y.limCredit + e) - 64 }

/-- The credit does not cover an MMA stroke (R462). -/
def limiterHolds (s : State) (y : Slice) : Bool :=
  let e := if s.fld rPwrSlope 8 16 < y.limIdle then Nat.min y.limE y.limAct else y.limE
  decide (Nat.min 64 (y.limCredit + e) < 64)

/-- The credit of a withheld stroke stays for the next one. -/
def limiterSave (s : State) (y : Slice) : Slice :=
  let e := if s.fld rPwrSlope 8 16 < y.limIdle then Nat.min y.limE y.limAct else y.limE
  { y with limE := e, limIdle := 0, limCredit := Nat.min 64 (y.limCredit + e) }

/-- The update of a bank is visible five strokes after the vector read (R112). -/
def updVisible (y : Slice) (bank now : Nat) : Slice :=
  if bank = 0 then { y with updA := now + 5 } else { y with updB := now + 5 }

/-- A stroke of an MMA run (R102, R109). -/
def mmaStroke (s : State) (w i : Nat) (f : MmaF) (bank : Nat) (zero : Bool) (c p sub : Nat) : State :=
  match pairOf f.afmt f.wfmt with
  | none => s.setSlc w i { s.slc w i with bankOp := none }
  | some pr =>
    let s := s.setSlc w i (limiterTake s (s.slc w i))
    let s := if sub = 0 then mmaVector s w i f pr bank (zero && c == 0) c p else s
    let y := s.slc w i
    let y := if sub = 0 then updVisible y bank (s.well w).tick else y
    let next : Option BankOp :=
      if sub + 1 < pr.strokes then some (.mma f bank zero c p (sub + 1))
      else if p + 1 < f.p1.toNat + 1 then some (.mma f bank zero c (p + 1) 0)
      else if c + 1 < f.c1.toNat + 1 then some (.mma f bank zero (c + 1) 0 0)
      else none
    s.setSlc w i { y with bankOp := if y.st = .faulted then none else next, accKind := !pr.int32 }

/-- A stroke of `WLD` or `WDYN`: one word read, to be stored, and forwarded (R116, R137, R138). -/
def wldStroke (s : State) (w i : Nat) (f : WldF) (dyn : Bool) (n : Nat) : State :=
  let y := s.slc w i
  let r := y.takeWord f.ch.toNat
  let s := s.setSlc w i r.2
  let s := if f.nst then s
    else lineDue s w i f.dfirst.toNat f.dcnt1.toNat f.row.toNat f.lines1.toNat f.side.toNat n r.1.data
  let s := if f.fwd then relaySend s w i 1 r.1.data else s
  let fin := decide (loadTotal f.dcnt1.toNat f.lines1.toNat f.side.toNat ≤ n + 1)
  let next : Option BankOp := if fin then none
    else if dyn then some (.wdyn ⟨f.dfirst, f.dcnt1, f.row, f.lines1, f.side, f.ch⟩ (n + 1))
    else some (.wld f (n + 1))
  s.setSlc w i { s.slc w i with bankOp := next }

/-- A stroke of `WRELAY` STORE or END: the line at the relay FIFO's head, if one has come (R118). -/
def relayStroke (s : State) (w i : Nat) (f : WrelayF) (n : Nat) : State :=
  let y := s.slc w i
  match y.relayFifo with
  | [] => s
  | l :: r =>
    let s := s.setSlc w i { y with relayFifo := r }
    let s := lineDue s w i f.dfirst.toNat f.dcnt1.toNat f.row.toNat f.lines1.toNat f.side.toNat n l
    let s := if f.mode = 0 then relaySend s w i 0 l else s
    let fin := decide (loadTotal f.dcnt1.toNat f.lines1.toNat f.side.toNat ≤ n + 1)
    s.setSlc w i { s.slc w i with bankOp := if fin then none else some (.relay f (n + 1)) }

/-- A line passes through on a PASS route (R118). -/
def passStroke (s : State) (w i : Nat) : State :=
  let y := s.slc w i
  match y.relayFifo with
  | l :: r => if y.relayPass then relaySend (s.setSlc w i { y with relayFifo := r }) w i 0 l else s
  | [] => s

/-- The bank engine's stroke; an idle stroke of the bank serves a write-back. A forwarding `WLD` has the hop
for its own lines, and lines of a PASS route wait (R108, R117, R128). -/
def bankStroke (s : State) (w i : Nat) : State :=
  match (s.slc w i).bankOp with
  | some (.mma f bank zero c p sub) => passStroke (mmaStroke s w i f bank zero c p sub) w i
  | some (.wld f n) => wldStroke (if f.fwd then s else passStroke s w i) w i f false n
  | some (.wdyn f n) =>
    wldStroke (passStroke s w i) w i ⟨f.dfirst, f.dcnt1, f.row, f.lines1, f.side, false, false, f.ch⟩
      true n
  | some (.relay f n) => relayStroke s w i f n
  | none => passStroke (idleWriteback s w i) w i

/-- The bank operation reads IN in this stroke: channel, and whether it takes all of IN (R130). -/
def bankReads : BankOp → Option (Nat × Bool)
  | .mma f _ _ _ _ sub => if sub = 0 then some (f.ch.toNat, false) else none
  | .wld f _ => some (f.ch.toNat, true)
  | .wdyn f _ => some (f.ch.toNat, true)
  | .relay _ _ => none

/-- The bank engine takes all of IN. -/
def Slice.wholeIn (y : Slice) : Bool := ((y.bankOp.bind bankReads).map (·.2)).getD false

/-! ### The side engine -/

/-- Eight values of a half word, as (index, value), those below the count (R144). -/
def sideValues (v h count : Nat) : List (Nat × W32) :=
  (List.range 8).filterMap fun j =>
    if 8 * h + j < count then some (8 * h + j, BitVec.ofNat 32 (laneOf v 32 j)) else none

/-- A stroke of `SCL` or `ZPC`: one half of a side word (R144). -/
def sideStroke (s : State) (w i : Nat) : State :=
  let y := s.slc w i
  if y.wholeIn then s
  else
    match y.sideOp with
    | none => s.setSlc w i (scaleStep y)
    | some (.scl f h) =>
      let r := y.takeHalf f.ch.toNat
      let y := (sideValues r.1 h (f.count1.toNat + 1)).foldl
        (fun y p => y.setScale (f.first.toNat + p.1) p.2) r.2.2
      let more := decide (h + 1 < 2 * ((f.count1.toNat + 16) / 16))
      s.setSlc w i { y with sideOp := if more then some (.scl f (h + 1)) else none }
    | some (.zpc f h) =>
      let r := y.takeHalf f.ch.toNat
      let skip := if f.nozp then 0 else 2
      let y := if h < skip then
          (if h = 0 then { r.2.2 with zp := BitVec.ofNat 32 (r.1 % 2 ^ 24) } else r.2.2)
        else (sideValues r.1 (h - skip) (f.count1.toNat + 1)).foldl
          (fun y p => y.setRow (f.first.toNat + p.1) p.2) r.2.2
      let more := decide (h + 1 < skip + 2 * ((f.count1.toNat + 16) / 16))
      s.setSlc w i { y with sideOp := if more then some (.zpc f (h + 1)) else none }

/-! ### What freezes a slice -/

/-- The run's next vector begins an MX block whose scale words are not all here (R82, R85). -/
def mxWaits (y : Slice) : Bool :=
  match y.bankOp with
  | some (.mma f _ _ _ _ 0) =>
    f.amx && y.mx && !y.discard && y.mxPos == 0
      && !scaleReady y (mxNeed y (((pairOf f.afmt f.wfmt).map (·.elems)).getD 32))
  | _ => false

/-- Why the slice's engines cannot take this stroke: freeze cause and what the thread waits for (R111,
R119, R129, R143, R462). -/
def engineBlocks (s : State) (w i : Nat) : Option (Nat × ThWait) :=
  let x := s.well w
  let y := x.slice i
  let due := y.dueWords x.tick
  let portFull := due.any fun o => decide (8 ≤ loadOf x (outPort i o.port))
  let noMarker := due.any (fun o => o.word.isNone) && y.markers.isEmpty
  let inEmpty := match y.bankOp.bind bankReads with
    | some (c, _) => !y.readable c
    | none => false
  let sideEmpty := !y.wholeIn && (match y.sideOp with
    | some (.scl f _) => !y.readable f.ch.toNat
    | some (.zpc f _) => !y.readable f.ch.toNat
    | none => false)
  let passes := y.relayPass && !y.relayFifo.isEmpty
  let sends := match y.bankOp with
    | some (.wld f _) => f.fwd || passes
    | some (.relay f _) => f.mode == 0 && !y.relayFifo.isEmpty
    | _ => passes
  let limited := match y.bankOp with
    | some (.mma _ _ _ _ _ _) => limiterHolds s y
    | _ => false
  if inEmpty || sideEmpty || mxWaits y then some (1, .inChannel)
  else if portFull then some (2, .outPort)
  else if noMarker then some (3, .marker)
  else if sends && relayFull s w i then some (3, .none)
  else if limited then some (5, .none)
  else none

/-- The slice's engines take a stroke: drain, side engine, bank engine, after the loads that are due. -/
def engineStroke (s : State) (w i : Nat) : State :=
  let s := linesLand (s.setSlc w i { s.slc w i with wbNow := false }) w i
  bankStroke (sideStroke (drainStroke s w i) w i) w i

end Sys2Proof.Machine
end

