-- ==== Sys2Proof/Machine/Msq.lean ====
section
/-! DEFINITION. The MSQ threads (chapter 5): when an instruction issues, holds, waits or freezes its
well, and what it does; barriers; thread starts, stops and switches; the commands that issue one
instruction. -/

namespace Sys2Proof.Machine

/-! ### Names -/

/-- Well of a thread. -/
def thWell (t : Thread) : Nat := t.me.val % 8
/-- Slice index of a thread in its well. -/
def thIx (t : Thread) : Nat := t.sl.val + (if t.me.val < 8 then 0 else 4)

/-- A thread that runs its program. -/
def Slice.active (y : Slice) : Bool :=
  match y.st with
  | .issuing | .hold | .threadWait | .freezing => true
  | .notStarted | .halted | .faulted => false

/-- Opcode of an instruction (R132). -/
def opcodeOf : MsqOp → Nat
  | .nop => 0x00 | .halt _ => 0x01 | .loop _ _ _ => 0x02 | .jmp _ => 0x03 | .brc _ _ _ _ => 0x04
  | .wld _ => 0x08 | .wrelay _ => 0x09 | .wdyn _ => 0x0A | .mma _ => 0x10 | .mmaz _ => 0x11
  | .drain _ => 0x12 | .scl _ => 0x18 | .scls _ _ => 0x19 | .zpc _ => 0x1A | .qwait _ => 0x20
  | .semsig _ => 0x21 | .semwait _ => 0x22 | .bar _ => 0x23 | .fence => 0x24 | .ctxsw _ _ _ => 0x28
  | .drainall _ => 0x29 | .ptok _ => 0x30 | .stat _ _ _ => 0x31 | .tag _ => 0x38 | .trap _ => 0x3F

/-- The bank a BANK field selects at this execution of the instruction (R140). -/
def bankSel (y : Slice) (b : Nat) : Nat :=
  if b < 2 then b else (b % 2 + b2n (SMap.get (fun _ => false) y.toggles y.pc)) % 2

/-- The toggle of an alternating instruction turns (R140). -/
def bankTurn (y : Slice) (b : Nat) : Slice :=
  if b < 2 then y
  else { y with toggles := SMap.set (fun _ => false) y.toggles y.pc
                             (!SMap.get (fun _ => false) y.toggles y.pc) }

/-! ### Barriers; their completion is in Dc.lean -/

/-- Arrivals that complete barrier b (R278, R292). -/
def barCount (b : Barrier) : Nat := bits b.cfg 16 7 + 1

/-- BARRIER_ARRIVAL at barrier b of pipeline p: in the present generation until its count is reached,
then in the next (R279). -/
def barArrive (s : State) (p b : Nat) : State :=
  let x := s.well p
  let k := x.bar b
  let k' := if k.arrived < barCount k then { k with arrived := k.arrived + 1 }
    else { k with next := k.next + 1 }
  s.setWell p (x.setBar b k')

/-- A word carries the running context of well x. -/
def oldWord (x : Well) (wd : Word) : Bool := wd.sb.ctag.toNat == x.ctx

/-- PORTS of `SF_QUIET` (R283, R291). -/
def quietPorts (x : Well) : Bool :=
  (x.flights.all fun g => !oldWord x g.word)
    && (List.range 96).all fun f => (List.range 5).all fun i =>
      ((x.unit f).port i).all fun wd => !oldWord x wd
/-- XING. -/
def quietXing (x : Well) : Bool :=
  (List.range 96).all fun k => (x.crossing k).all fun p => !oldWord x p.2
/-- The words that a data queue holds, those read but not released among them, carry no running-context tag;
region words by their stored sideband. -/
def quietQueue (s : State) (w e : Nat) : Bool :=
  let x := s.well w
  let q := x.sq e
  q.isSem || (
    ((List.range (q.t - q.f)).all fun j =>
      (ringSb s w (e / 16) (q.base + (q.f + j) % Nat.max 1 q.size)).ctag.toNat != x.ctx)
    && (q.staging.all fun wd => !oldWord x wd)
    && ((q.refills ++ (List.range (q.regW - q.regR)).map (· + q.regR)).all fun j =>
      (sbOf (leNat (s.mem.read (regionSbAddr q j) 2))).ctag.toNat != x.ctx))
/-- QUEUES. -/
def quietQueues (s : State) (w : Nat) : Bool :=
  ((s.well w).retry.all fun p => !oldWord (s.well w) p.2)
    && (List.range 768).all fun e => quietQueue s w e
/-- Every engine of a slice is free (R128). -/
def Slice.enginesFree (y : Slice) : Bool := y.bankOp.isNone && y.sideOp.isNone && y.outQ.isEmpty
/-- SLICES. -/
def quietSlices (x : Well) : Bool :=
  (List.range 8).all fun i =>
    let y := x.slice i
    y.enginesFree && (List.range 4).all fun c => (y.chan c).all fun wd => !oldWord x wd
/-- A well is quiet; one that does not run reports so (R283, R291). -/
def wellQuiet (s : State) (w : Nat) : Bool :=
  let x := s.well w
  x.run != .running || (quietPorts x && quietXing x && quietQueues s w && quietSlices x)

/-- Barrier b of pipeline p completes now (R280). -/
def barReady (s : State) (p b : Nat) : Bool :=
  let k := (s.well p).bar b
  bitAt k.cfg 31 && decide (barCount k ≤ k.arrived)
    && (!bitAt k.cfg 30 || (s.pipeWells p).all (wellQuiet s))
    && (!bitAt k.cfg 28 || (s.pipeWells p).all fun w =>
      (s.well w).ctxState (bits k.cfg 26 2) == .committed)

/-- The MSQ instruction at a thread's program counter. -/
def thInstr (y : Slice) : Option MsqOp :=
  decodeMsq (SMap.get (fun _ => 0) y.prog (256 * y.ctx + y.pc))

/-- The threads of a well held in `BAR` b are released (R281). -/
def barRelease (s : State) (w b : Nat) : State :=
  let x := s.well w
  s.setWell w ((List.range 8).foldl (fun (x : Well) i =>
    let y := x.slice i
    if y.active && y.arrived && y.barId == b then x.setSlice i { y with released := true } else x)
    x)

/-! ### When an instruction issues -/

/-- What a thread can do with its next instruction in a stroke (R129). -/
inductive Verdict where
  | issue | hold | wait
  | freeze (cause : Nat) (why : ThWait)
  deriving DecidableEq, Repr

/-- The conditions of `FENCE` in stroke now (R148). -/
def fenceMet (y : Slice) (now : Nat) : Bool :=
  y.enginesFree && decide (y.updA ≤ now) && decide (y.updB ≤ now) && decide (y.lineTick ≤ now)
    && (y.drainEnd == 0 || decide (y.drainEnd < now))

/-- Every channel of a mask meets a test. -/
def maskAll (mask : BitVec 4) (p : Nat → Bool) : Bool := (List.range 4).all fun c => !bitAt mask c || p c

/-- The head of channel c carries tag x. -/
def headTag (y : Slice) (c x : Nat) : Bool :=
  match y.chan c with
  | wd :: _ => wd.sb.ctag.toNat == x
  | [] => false

/-- The thread's wait is over (R148 to R150). -/
def waitMet (y : Slice) (now : Nat) (op : MsqOp) : Bool :=
  match op with
  | .fence => fenceMet y now
  | .drainall mask => fenceMet y now && y.markers.isEmpty && maskAll mask fun c => (y.chan c).isEmpty
  | .ctxsw ctx _ mask => fenceMet y now && maskAll mask fun c => headTag y c ctx.toNat
  | _ => true

/-- Last word, and update, of a bank (R110, R141, R142). -/
def drainEndOf (y : Slice) (b : Nat) : Nat := if b = 0 then y.drainEndA else y.drainEndB
/-- Stroke from which a bank's updates are visible. -/
def updOf (y : Slice) (b : Nat) : Nat := if b = 0 then y.updA else y.updB

/-- The running bank operation is an MMA run into bank b. -/
def runsInto (y : Slice) (b : Nat) : Bool :=
  match y.bankOp with
  | some (.mma _ k _ _ _ _) => k == b
  | _ => false

/-- An MMA run may issue (R110, R115, R141). DEDUCED: log 30. -/
def mmaVerdict (y : Slice) (now b : Nat) : Verdict :=
  if y.bankOp.isNone && decide (drainEndOf y b ≤ now + 11) && decide (y.lineTick ≤ now) then .issue
  else .hold

/-- A drain may issue; a streamed one first waits for its scale block (R85, R110, R142, R143). DEDUCED: log 29. -/
def drainVerdict (y : Slice) (now : Nat) (f : DrainF) : Verdict :=
  let b := bankSel y f.bank.toNat
  if runsInto y b || decide (now < updOf y b) then .hold
  else if f.monly then (if y.drainEnd ≤ now || y.outQ.isEmpty then .issue else .hold)
  else if !y.outQ.isEmpty && decide (now + 5 < y.drainEnd) then .hold
  else if y.streamed && !y.mx && !y.discard && !scaleReady y ((f.n1.toNat + 16) / 16) then
    .freeze 1 .inChannel
  else .issue

/-- The count a semaphore instruction names (R146). -/
def semOf (s : State) (f : SemF) : Nat := (s.sq f.well.toNat f.sq.toNat).semCount f.sel

/-- The last output word of every drain has left the slice (R77, R148). -/
def drained (y : Slice) (now : Nat) : Bool :=
  y.outQ.isEmpty && (y.drainEnd == 0 || decide (y.drainEnd < now))

/-- What the next instruction of slice i of well w can do now. -/
def verdict (s : State) (w i : Nat) (op : MsqOp) : Verdict :=
  let x := s.well w
  let y := x.slice i
  let now := x.tick
  match op with
  | .halt _ | .trap _ => if y.enginesFree then .issue else .hold
  | .brc cond _ _ _ =>
    if (cond == 1 || cond == 2) && y.markers.isEmpty then .freeze 3 .marker else .issue
  | .wld _ | .wdyn _ => if y.bankOp.isNone && y.sideOp.isNone then .issue else .hold
  | .wrelay f => if f.mode == 1 || y.bankOp.isNone then .issue else .hold
  | .mma f | .mmaz f => mmaVerdict y now (bankSel y f.bank.toNat)
  | .drain f => drainVerdict y now f
  | .scl _ | .zpc _ =>
    if y.sideOp.isNone && drained y now && !y.wholeIn then .issue else .hold
  | .scls _ _ => if y.sideOp.isNone then .issue else .hold
  | .qwait f => if f.n.toNat ≤ semOf s f then .issue else .freeze 3 .qwait
  | .semwait f => if f.n.toNat ≤ semOf s f then .issue else .freeze 3 .semwait
  | .bar _ => if y.released then .issue else .freeze 3 .bar
  | .fence | .drainall _ => if waitMet y now op then .issue else .wait
  | .ctxsw ctx _ _ =>
    if x.ctxState ctx.toNat != .committed || waitMet y now op then .issue else .wait
  | .stat _ _ _ => if y.outQ.isEmpty then .issue else .hold
  | .nop | .loop _ _ _ | .jmp _ | .semsig _ | .ptok _ | .tag _ => .issue

/-- A `BAR` issues: its thread stands in it, and the arrival is counted in the next stroke (R147, R279).
DEDUCED: log 17. -/
def barIssue (y : Slice) (bid : Nat) : Slice := { y with arrived := true, counted := false, barId := bid }

/-- The arrival of a thread whose `BAR` has issued is counted, once (R279). -/
def barCounted (s : State) (w i : Nat) : State :=
  let y := s.slc w i
  if y.active && y.arrived && !y.counted then
    let s := s.setSlc w i { y with counted := true }
    match s.pipeOf w with
    | some p => barArrive s p y.barId
    | none => s
  else s

/-- Before the verdict of a lone instruction: a `BAR` issues, and the next time is counted. -/
def threadArrive (s : State) (w i : Nat) (op : MsqOp) : State :=
  match op with
  | .bar bid =>
    if (s.slc w i).arrived then barCounted s w i
    else s.setSlc w i (barIssue (s.slc w i) bid.toNat)
  | _ => s

/-- `SEMWAIT` takes its count (R146). -/
def semTake (s : State) (f : SemF) : State :=
  let v := f.well.toNat
  let e := f.sq.toNat
  if (s.sq v e).isSem then sqPut s v e ((s.sq v e).semSub f.sel f.n.toNat) else s

/-! ### What an instruction does -/

/-- The thread moves past its instruction (R125, R133). -/
def Slice.past (y : Slice) : Slice :=
  let r := stepPast y.loops y.pc 256 5
  { y with pc := r.2, loops := r.1, st := .issuing, wait := .none, arrived := false, counted := false
           released := false, waited := 0, nextHold := 0, nextWait := 0, nextFrozen := 0 }

/-- The thread goes to an instruction (R134). -/
def Slice.goto (y : Slice) (t : Nat) : Slice :=
  { y.past with pc := t, loops := leaveLoops y.loops t }

/-- The thread stands halted or faulted with a code (R136, R150). -/
def Slice.stand (y : Slice) (st : ThState) (code : Nat) : Slice :=
  { y with st := st, code := code, wait := .none, relayPass := false, arrived := false
           counted := false, released := false, switching := false, waited := 0 }

/-- The condition of a `BRC` (R135). -/
def brcHolds (y : Slice) (cond lvl : Nat) : Bool :=
  let oldest := (y.markers.head?.map markKind).getD 0
  match cond with
  | 0 => !y.markers.isEmpty
  | 1 => oldest == 2
  | 2 => oldest == 1
  | 3 => y.swflag
  | 4 => (y.loops.getD lvl .none).active && (y.loops.getD lvl .none).left == 1
  | _ =>
    match y.chan lvl with
    | wd :: _ => wd.sb.ctag.toNat != y.ctx
    | [] => false

/-- `MMA` and `MMAZ` issue: the run's first read falls in the next stroke; the limiter's ceiling follows
the latest `PTOK` (R109, R139, R152). DEDUCED: log 11. DEDUCED: log 42. -/
def mmaIssue (s : State) (w i : Nat) (f : MmaF) (zero : Bool) : State :=
  let y := s.slc w i
  let b := bankSel y f.bank.toNat
  s.setSlc w i { (bankTurn y f.bank.toNat).past with
    bankOp := some (.mma f b zero 0 0 0), dataCh := f.ch.toNat, limCeil := y.duty }

/-- `DRAIN` issues: in streamed channel mode its scale block is taken and its tag checked (R80, R83,
R142). Every scale, zero point and row sum is taken as it stands at issue, also while an earlier `SCL` or `ZPC`
loads (R77). DEDUCED: log 170. -/
def drainIssue (s : State) (w i : Nat) (f : DrainF) : State :=
  let y := s.slc w i
  let b := bankSel y f.bank.toNat
  let n := (f.n1.toNat + 16) / 16
  let stream := y.streamed && !y.mx && !y.discard && !f.monly
  let tag := if b = 0 then y.tagA else y.tagB
  let bad := stream && !scaleMatches { y with dataTag := tag } n
  let s := if bad then tagMismatch s w i tag.toNat (scaleTag y) else s
  let t := (s.well w).tick
  let y := s.slc w i
  let block := if stream && !bad then y.scaleBuf.take n else []
  let ws := drainWords y w i t f block b
  let last := ws.foldl (fun m o => Nat.max m o.tick) 0
  let data := ws.foldl (fun m o => if o.word.isSome then Nat.max m o.tick else m) 0
  let y := { (bankTurn y f.bank.toNat).past with
    outQ := y.outQ ++ ws, drainEnd := last
    scaleBuf := if stream && !bad then y.scaleBuf.drop n else y.scaleBuf }
  let y := if f.monly then y
    else if b = 0 then { y with drainEndA := data } else { y with drainEndB := data }
  s.setSlc w i y

/-- The effect of an instruction that issues. WS_DYN stays set by a `WLD` with NST 1 and by a `WRELAY` (R120, R123).
DEDUCED: log 172. -/
def threadIssue (s : State) (w i : Nat) (op : MsqOp) : State :=
  let y := s.slc w i
  let put := fun (z : Slice) => s.setSlc w i z
  match op with
  | .nop | .qwait _ | .bar _ | .fence | .drainall _ => put y.past
  | .semwait f => semTake (put y.past) f
  | .halt c => put (y.stand .halted c.toNat)
  | .trap c =>
    let s := put (y.stand .halted c.toNat)
    wellFault s w (mkFault stAborted 2 (sliceNo w i) 0 c.toNat)
  | .loop lvl c1 last =>
    let l : Loop := ⟨true, (y.pc + 1) % 256, last.toNat, c1.toNat + 1⟩
    put { y.past with pc := (y.pc + 1) % 256, loops := y.loops.set lvl.toNat l }
  | .jmp t => put (y.goto t.toNat)
  | .brc cond neg lvl t =>
    if brcHolds y cond.toNat lvl.toNat != neg then put (y.goto t.toNat) else put y.past
  | .wld f => put { y.past with bankOp := some (.wld f 0), wsDyn := if f.nst then y.wsDyn else false }
  | .wdyn f => put { y.past with bankOp := some (.wdyn f 0), wsDyn := true }
  | .wrelay f =>
    if f.mode == 1 then put { y.past with relayPass := true }
    else put { y.past with bankOp := some (.relay f 0), relayPass := false }
  | .mma f => mmaIssue s w i f false
  | .mmaz f => mmaIssue s w i f true
  | .drain f => drainIssue s w i f
  | .scl f =>
    put { y.past with sideOp := some (.scl f 0), streamed := false, mx := false, scaleBuf := []
                      scaleHalf := false }
  | .zpc f => put { y.past with sideOp := some (.zpc f 0) }
  | .scls kind ch =>
    put { y.past with streamed := true, mx := kind, sideCh := ch.toNat, scaleBuf := [], scaleHalf := false
                      mxPos := 0, mxCodes := [] }
  | .semsig f =>
    let s := put y.past
    if f.well.toNat = w then semSignal s w f.sq.toNat f.sel f.n.toNat
    else semPort s f.well.toNat f.sq.toNat f.sel f.n.toNat
  | .ctxsw ctx _ _ =>
    if (s.well w).ctxState ctx.toNat = .committed then
      put { y with switching := true, wait := .thread, waited := 0, barId := ctx.toNat }
    else
      wellFault (put (y.stand .faulted 0x21)) w (mkFault stCtxInvalid 2 (sliceNo w i))
  | .ptok d => put (if d.toNat ≤ y.declared then { y.past with duty := d.toNat } else y.past)
  | .stat pt unit len =>
    let v := BitVec.ofNat 32 (b2n pt <<< 31 + b2n unit <<< 30 + len.toNat)
    put { y.past with stat := y.stat.write v }
  | .tag l1 => put { y.past with tagL := l1.toNat + 1 }

/-- `CTXSW` with FORCE discards what stands at a masked head without the target tag (R150). -/
def forceHeads (y : Slice) (ctx : Nat) (mask : BitVec 4) : Slice :=
  (List.range 4).foldl (fun (y : Slice) c =>
    match y.chan c with
    | wd :: r =>
      if bitAt mask c && wd.sb.ctag.toNat != ctx then
        { (y.setChan c r).setHalf c false with disc := Nat.min (y.disc + 1) 0xFFFFFFFF }
      else y
    | [] => y) y

/-- What a thread wait does to the heads that a forced `CTXSW` discards (R150). -/
def waitHeads (y : Slice) (op : MsqOp) : Slice :=
  match op with
  | .ctxsw ctx true mask => forceHeads y ctx.toNat mask
  | _ => y

/-- A stroke in which the instruction does not issue (R129, R151). -/
def threadStay (s : State) (w i : Nat) (op : MsqOp) (v : Verdict) : State :=
  let y := s.slc w i
  match v with
  | .issue => s
  | .hold =>
    event (s.setSlc w i { y with st := .hold, wait := .none, nextHold := y.nextHold + 1 }) 2
      (sliceNo w i) 3
  | .wait =>
    let y := waitHeads y op
    event (s.setSlc w i { y with st := .threadWait, wait := .thread, waited := y.waited + 1
                                 nextWait := y.nextWait + 1 }) 2 (sliceNo w i) 4
  | .freeze _ why => s.setSlc w i { y with st := .freezing, wait := why }

/-- DW0 of a tag record (R549). -/
def tagDw0 (y : Slice) (w i : Nat) (op : MsqOp) : Nat :=
  let t := y.markers.head?
  opcodeOf op * 2 ^ 56 + y.pc * 2 ^ 48 + meOf w i * 2 ^ 44 + (i % 4) * 2 ^ 42 + y.ctx * 2 ^ 40
    + ((t.bind markTask).getD 0) * 2 ^ 30 + b2n t.isSome * 2 ^ 29

/-- The thread switches to its new context (R127, R150). -/
def threadSwitch (y : Slice) : Slice :=
  { y with pc := 0, ctx := y.barId, loops := noLoops, toggles := [], relayPass := true, st := .issuing
           wait := .none, waited := 0, arrived := false, counted := false, released := false, switching := false
           nextHold := 0, nextWait := 0, nextFrozen := 0 }

/-- One instruction offered to a thread of a running well, alone: the well freezes for it, or it issues,
holds or waits. -/
def threadStep (s : State) (w i : Nat) (op : MsqOp) : State :=
  let s := threadArrive s w i op
  match verdict s w i op with
  | .issue => threadIssue (tagIssue s w i (tagDw0 (s.slc w i) w i op)) w i op
  | .freeze c why => freezeWell (threadStay s w i op (.freeze c why)) w c
  | v => threadStay s w i op v

/-- A thread can take instructions: its well runs, and it is neither unstarted nor halted nor faulted. -/
def State.threadRuns (s : State) (t : Thread) : Bool :=
  let y := s.slc (thWell t) (thIx t)
  s.running (thWell t) && y.active && !y.switching

/-- An instruction of thread t, by its mnemonic (R132). DESIGN CHOICE: log 9. DEDUCED: log 10. -/
def threadRow (s : State) (t : Thread) (op : MsqOp) (name : String) : Out :=
  if op.ok then .next (if s.threadRuns t then threadStep s (thWell t) (thIx t) op else s)
  else .fault (.outOfRange name)

/-- `NOP`. -/
def execMsqNop (t : Thread) (s : State) : Out := clocked s <| threadRow s t .nop "MSQ_NOP"
/-- `HALT` (R136). -/
def execHalt (t : Thread) (code : BitVec 16) (s : State) : Out := clocked s <| threadRow s t (.halt code) "HALT"
/-- `LOOP` (R133). -/
def execMsqLoop (t : Thread) (lvl : BitVec 2) (count1 : BitVec 16) (last : BitVec 8) (s : State) : Out := clocked s <|
  threadRow s t (.loop lvl count1 last) "MSQ_LOOP"
/-- `JMP` (R134). -/
def execMsqJmp (t : Thread) (target : BitVec 8) (s : State) : Out := clocked s <| threadRow s t (.jmp target) "MSQ_JMP"
/-- `BRC` (R135). -/
def execBrc (t : Thread) (cond : BitVec 4) (neg : Bool) (lvl : BitVec 2) (target : BitVec 8)
    (s : State) : Out := clocked s <|
  threadRow s t (.brc cond neg lvl target) "BRC"
/-- `WLD` (R116, R137, R138). -/
def execWld (t : Thread) (f : WldF) (s : State) : Out := clocked s <| threadRow s t (.wld f) "WLD"
/-- `WRELAY` (R118, R138). -/
def execWrelay (t : Thread) (f : WrelayF) (s : State) : Out := clocked s <| threadRow s t (.wrelay f) "WRELAY"
/-- `WDYN` (R120). -/
def execWdyn (t : Thread) (f : WdynF) (s : State) : Out := clocked s <| threadRow s t (.wdyn f) "WDYN"
/-- `MMA` (R139). -/
def execMma (t : Thread) (f : MmaF) (s : State) : Out := clocked s <| threadRow s t (.mma f) "MMA"
/-- `MMAZ` (R139). -/
def execMmaz (t : Thread) (f : MmaF) (s : State) : Out := clocked s <| threadRow s t (.mmaz f) "MMAZ"
/-- `DRAIN` (R142, R143). -/
def execDrain (t : Thread) (f : DrainF) (s : State) : Out := clocked s <| threadRow s t (.drain f) "DRAIN"
/-- `SCL` (R144). -/
def execScl (t : Thread) (f : SclF) (s : State) : Out := clocked s <| threadRow s t (.scl f) "SCL"
/-- `SCLS` (R144). -/
def execScls (t : Thread) (kind : Bool) (ch : BitVec 2) (s : State) : Out := clocked s <|
  threadRow s t (.scls kind ch) "SCLS"
/-- `ZPC` (R144). -/
def execZpc (t : Thread) (f : ZpcF) (s : State) : Out := clocked s <| threadRow s t (.zpc f) "ZPC"
/-- `QWAIT` (R146). -/
def execQwait (t : Thread) (f : SemF) (s : State) : Out := clocked s <| threadRow s t (.qwait f) "QWAIT"
/-- `SEMSIG` (R146). -/
def execSemsig (t : Thread) (f : SemF) (s : State) : Out := clocked s <| threadRow s t (.semsig f) "SEMSIG"
/-- `SEMWAIT` (R146). -/
def execSemwait (t : Thread) (f : SemF) (s : State) : Out := clocked s <| threadRow s t (.semwait f) "SEMWAIT"
/-- `BAR` (R147). -/
def execBar (t : Thread) (bid : BitVec 4) (s : State) : Out := clocked s <| threadRow s t (.bar bid) "BAR"
/-- `FENCE` (R148). -/
def execFence (t : Thread) (s : State) : Out := clocked s <| threadRow s t .fence "FENCE"
/-- `DRAINALL` (R149). -/
def execDrainall (t : Thread) (mask : BitVec 4) (s : State) : Out := clocked s <|
  threadRow s t (.drainall mask) "DRAINALL"
/-- `CTXSW` (R150). -/
def execCtxsw (t : Thread) (ctx : BitVec 2) (force : Bool) (mask : BitVec 4) (s : State) : Out := clocked s <|
  threadRow s t (.ctxsw ctx force mask) "CTXSW"
/-- `PTOK` (R152). -/
def execPtok (t : Thread) (duty : BitVec 7) (s : State) : Out := clocked s <| threadRow s t (.ptok duty) "PTOK"
/-- `STAT` (R145). -/
def execStat (t : Thread) (perTensor unit : Bool) (winLen : BitVec 16) (s : State) : Out := clocked s <|
  threadRow s t (.stat perTensor unit winLen) "STAT"
/-- `TAG` (R145). -/
def execTag (t : Thread) (l1 : BitVec 12) (s : State) : Out := clocked s <| threadRow s t (.tag l1) "TAG"
/-- `TRAP` (R136). -/
def execTrap (t : Thread) (code : BitVec 16) (s : State) : Out := clocked s <| threadRow s t (.trap code) "TRAP"

/-! ### Events of a thread -/

/-- `THREAD_WAIT_END`: the wait the thread stands in is over, and the instruction completes (R148 to
R150). -/
def execThreadWaitEnd (t : Thread) (s : State) : Out := clocked s <|
  let w := thWell t
  let i := thIx t
  let y := s.slc w i
  match thInstr y with
  | some op =>
    if s.threadRuns t && y.st == .threadWait && waitMet y (s.well w).tick op then
      .next (threadIssue s w i op)
    else .next s
  | none => .next s

/-- `THREAD_CONTEXT_SWITCH` (R150). -/
def execThreadContextSwitch (t : Thread) (s : State) : Out := clocked s <|
  let w := thWell t
  let i := thIx t
  let y := s.slc w i
  .next (if s.running w && y.active && y.switching then s.setSlc w i (threadSwitch y) else s)

/-- `WS_ECC_WRITEBACK`: in a stroke in which the bank is neither read nor written (R108, R115). -/
def execWsEccWriteback (t : Thread) (s : State) : Out := clocked s <|
  let w := thWell t
  let i := thIx t
  .next (if s.hasWell w && bankIdle s w i then weightWriteback s w i else s)

/-- `RELAY_LINE_ARRIVAL`: the relay line sent longest ago enters the slice's FIFO (R119). -/
def execRelayLineArrival (t : Thread) (s : State) : Out := clocked s <|
  let w := thWell t
  let i := thIx t
  .next (if s.hasWell w then s.setSlc w i (relayEnter (s.slc w i)) else s)

/-- A thread starts (R127, R153, R156). DEDUCED: log 37. -/
def threadStart (s : State) (w i : Nat) : State :=
  let y := s.slc w i
  if y.active || (s.well w).run == .failed || (s.well w).ctxState y.ctlCtx != .committed then s
  else
    s.setSlc w i { y with
      pc := 0, ctx := y.ctlCtx, loops := noLoops, toggles := [], markers := [], relayPass := true
      st := .issuing, wait := .none, waited := 0, arrived := false, counted := false, released := false
      switching := false, disc := 0, nextHold := 0, nextWait := 0, nextFrozen := 0 }

/-- A thread stops: issue ends at once and every engine ends its operation, so nothing waits for an ended
drain or run; a line that has been read is still written whole (R154). -/
def threadStop (s : State) (w i : Nat) : State :=
  let y := s.slc w i
  s.setSlc w i { y.stand .halted 0xFFFF with
    bankOp := none, sideOp := none, outQ := [], drainEnd := 0, drainEndA := 0, drainEndB := 0
    updA := 0, updB := 0 }

/-- A write of `MSQ_CTRL` (R153, R154). -/
def msqCtrlWrite (s : State) (w i : Nat) (v : W32) : State :=
  let y := s.slc w i
  let s := s.setSlc w i { y with ctlCtx := bits v 28 2, swflag := bitAt v 27 }
  if bitAt v 30 then threadStop s w i else if bitAt v 31 then threadStart s w i else s

/-- The slice is there. -/
def State.hasSlice (s : State) (t : Thread) : Bool := s.hasWell (thWell t)

/-- `MSQ_START`. -/
def execMsqStart (t : Thread) (ctx : BitVec 2) (swflag : Bool) (s : State) : Out := clocked s <|
  .next (if s.hasSlice t then
      msqCtrlWrite s (thWell t) (thIx t)
        (BitVec.ofNat 32 (1 <<< 31 + ctx.toNat <<< 28 + b2n swflag <<< 27))
    else s)

/-- `MSQ_STOP`; written with START it leaves the thread halted (R154). -/
def execMsqStop (t : Thread) (ctx : BitVec 2) (swflag start : Bool) (s : State) : Out := clocked s <|
  .next (if s.hasSlice t then
      msqCtrlWrite s (thWell t) (thIx t)
        (BitVec.ofNat 32 (b2n start <<< 31 + 1 <<< 30 + ctx.toNat <<< 28 + b2n swflag <<< 27))
    else s)

/-- The register network may write the slice's scales and statistics control: its thread is halted or has
not been started (R78). -/
def Slice.quietThread (y : Slice) : Bool := y.st == .notStarted || y.st == .halted

/-- A write of `ME_SCALE_n` (R78). -/
def meScaleWrite (s : State) (w i n : Nat) (v : W32) : State :=
  let y := s.slc w i
  if y.quietThread then s.setSlc w i (y.setScale n v) else s

/-- `ME_SCALE_WRITE`. -/
def execMeScaleWrite (t : Thread) (n : Fin 256) (v : W32) (s : State) : Out := clocked s <|
  .next (if s.hasSlice t then meScaleWrite s (thWell t) (thIx t) n.val v else s)

/-- A write of a statistics control: of a slice under R78, of a CU or link at any time (R92 to R94,
R193). -/
def statCtrlWrite (s : State) (u : StatUnit) (v : W32) : State :=
  match u with
  | .slice t =>
    let y := s.slc (thWell t) (thIx t)
    if y.quietThread then s.setSlc (thWell t) (thIx t) { y with stat := y.stat.write v } else s
  | .cu w k =>
    let x := s.well w.val
    s.setWell w.val (x.setCuStats k.val ((x.cuStats k.val).write v))
  | .link n =>
    let p := s.port n.val
    s.setPort n.val { p with stat := p.stat.write (v ||| 0x80000000), escLive := 0, blocks := 0
                             statSel := (v &&& 0x1F3F0000).toNat }

/-- The unit is there. -/
def State.hasStat (s : State) : StatUnit → Bool
  | .slice t => s.hasSlice t
  | .cu w _ => s.hasWell w.val
  | .link n => s.hasLink n.val

/-- `STAT_CTRL_WRITE`. -/
def execStatCtrlWrite (u : StatUnit) (v : W32) (s : State) : Out := clocked s <|
  .next (if s.hasStat u then statCtrlWrite s u v else s)

/-- The window's last unit has passed. -/
def StatBlk.due (b : StatBlk) : Bool := b.winLen != 0 && decide (b.winLen ≤ b.units + 1)

/-- `STAT_WINDOW_END`: the unit that ends the window passes (R90, R92). -/
def execStatWindowEnd (u : StatUnit) (s : State) : Out := clocked s <|
  match u with
  | .slice t =>
    let y := s.slc (thWell t) (thIx t)
    .next (if s.hasSlice t && y.stat.due then
      s.setSlc (thWell t) (thIx t) { y with stat := y.stat.windowEnd } else s)
  | .cu w k =>
    let x := s.well w.val
    .next (if s.hasWell w.val && (x.cuStats k.val).due then
      s.setWell w.val (x.setCuStats k.val (x.cuStats k.val).windowEnd) else s)
  | .link n =>
    let p := s.port n.val
    .next (if s.hasLink n.val && p.stat.due then
      s.setPort n.val { p with stat := p.stat.windowEnd, escSnap := p.escLive, escLive := 0 } else s)

end Sys2Proof.Machine
end

