-- ==== Sys2Proof/Machine/Tasks.lean ====
section
/-! DEFINITION. Tasks of the dispatch controller (chapter 13, R274 to R276, R484 to R487): fields of an
intake descriptor, the completion of tasks in admission order, and of descriptors that complete
without admission. -/

namespace Sys2Proof.Machine

/-- Word j of an eight-word block. -/
def dwOf (l : List W64) (j : Nat) : W64 := l.getD j 0

/-! ### Fields of an intake descriptor (R348) -/

/-- OPC. -/
def WinDesc.opc (d : WinDesc) : Nat := bits (dwOf d.dw 0) 56 8
/-- SOURCE. -/
def WinDesc.source (d : WinDesc) : Nat := bits (dwOf d.dw 0) 44 12
/-- REPLAY. -/
def WinDesc.replay (d : WinDesc) : Bool := bitAt (dwOf d.dw 0) 43
/-- FENCE. -/
def WinDesc.fence (d : WinDesc) : Bool := bitAt (dwOf d.dw 0) 42
/-- IRQ. -/
def WinDesc.irq (d : WinDesc) : Bool := bitAt (dwOf d.dw 0) 41
/-- USER. -/
def WinDesc.user (d : WinDesc) : Nat := bits (dwOf d.dw 0) 0 32
/-- FRAME. -/
def WinDesc.frame (d : WinDesc) : Nat := bits (dwOf d.dw 1) 0 48
/-- WIDTH. -/
def WinDesc.width (d : WinDesc) : Nat := bits (dwOf d.dw 2) 0 16
/-- HEIGHT. -/
def WinDesc.height (d : WinDesc) : Nat := bits (dwOf d.dw 2) 16 16
/-- PITCH. -/
def WinDesc.pitch (d : WinDesc) : Nat := bits (dwOf d.dw 2) 32 24
/-- CHROMA; zero means FRAME + PITCH × HEIGHT. -/
def WinDesc.chroma (d : WinDesc) : Nat :=
  let c := bits (dwOf d.dw 3) 0 48
  if c = 0 then (d.frame + d.pitch * d.height) % 2 ^ 48 else c
/-- RESULT. -/
def WinDesc.result (d : WinDesc) : Nat := bits (dwOf d.dw 4) 0 48
/-- RSIZE. -/
def WinDesc.rsize (d : WinDesc) : Nat := bits (dwOf d.dw 5) 0 32
/-- NROI. -/
def WinDesc.nroi (d : WinDesc) : Nat := bits (dwOf d.dw 5) 32 7
/-- ROILIST. -/
def WinDesc.roilist (d : WinDesc) : Nat := bits (dwOf d.dw 6) 0 48
/-- The source as the order among descriptors sees it: a NOP's is not looked at. DEDUCED: log 85. -/
def WinDesc.orderKey (d : WinDesc) : Nat := if d.opc = 0 then 4096 else d.source

/-! ### Completion -/

/-- Bits of DW0 to DW6 of an intake descriptor that R348 leaves reserved. -/
def intakeReserved : List W64 :=
  [0x000001FF00000000, 0xFFFF000000000000, 0xFF00000000000000, 0xFFFF000000000000,
    0xFFFF000000000000, 0xFFFFFF8000000000, 0xFFFF000000000000, 0xFFFFFFFFFFFFFFFF]

/-- The record of a task in flight (R350). -/
def recordOf (t : Nat) (k : Task) : DoneRec :=
  { status := k.status.getD 0, source := k.source, task := t, user := k.desc.user, inDt := k.inDt,
    seq := k.desc.count, rbytes := k.rbytes % 2 ^ 32, irq := k.desc.irq, pipe := some k.pipe }

/-- Tasks at the head of a pipeline whose streams have all ended: their records are due, in admission
order (R276, R357). -/
def settleTasks (d : Dc) : List Nat → Dc
  | [] => d
  | t :: r =>
    let k := d.task t
    if k.ended then settleTasks d r
    else if k.streams.isEmpty then
      let g := d.ring k.ring
      settleTasks ((d.setTask t { k with ended := true }).setRing k.ring
        { g with due := g.due ++ [recordOf t k] }) r
    else d

/-- Settles pipeline p. -/
def dcSettle (s : State) (p : Nat) : State :=
  { s with dc := settleTasks s.dc (s.dc.pipe p).flight }

/-- The record of a descriptor that completes without admission (R560). -/
def plainRecord (d : WinDesc) (status dt : Nat) : DoneRec :=
  { status := status, source := d.source, task := 0, user := d.user, inDt := dt, seq := d.count,
    rbytes := 0, irq := d.irq, pipe := none }

/-- Descriptors of a window that complete without admission and whose turn has come: records of the
earlier descriptors of the source, or for a NOP of the ring, have been written (R348, R560). -/
def settleWindow (opens : List (Nat × Nat)) (now : Nat) : List WinDesc → List WinDesc × List DoneRec
  | [] => ([], [])
  | d :: r =>
    let rest := settleWindow opens now r
    let before := opens.takeWhile fun o => o.1 != d.count
    match d.done with
    | some (st, dt) =>
      if (if d.opc = 0 then before.isEmpty else before.all fun o => o.2 != d.source) then (rest.1, plainRecord d st dt :: rest.2)
      else (d :: rest.1, rest.2)
    | none =>
      if d.opc = 0 && before.isEmpty then (rest.1, plainRecord d 0 now :: rest.2)
      else (d :: rest.1, rest.2)

/-- Settles ring n. -/
def ringSettle (s : State) (n : Nat) : State :=
  let g := s.dc.ring n
  let r := settleWindow g.open_ s.dt g.window
  { s with dc := s.dc.setRing n { g with window := r.1, due := g.due ++ r.2 } }

/-- Place of an intake count among those of a ring whose records are not yet written. -/
def Ring.place (g : Ring) (seq : Nat) : Nat := g.open_.findIdx fun o => o.1 == seq

/-- A record becomes due on ring n, ahead of those of later descriptors of its source (OP1, R15). -/
def pushRecord (s : State) (n : Nat) (r : DoneRec) : State :=
  let g := s.dc.ring n
  let late := fun (q : DoneRec) => q.source == r.source && decide (g.place r.seq < g.place q.seq)
  { s with dc := s.dc.setRing n { g with
    due := g.due.takeWhile (fun q => !late q) ++ r :: g.due.dropWhile fun q => !late q } }

/-- Held records of a pipeline change; those that wait for nothing more are due (R491). -/
def heldMap (s : State) (p : Nat) (f : Held → Held) : State :=
  let x := s.dc.pipe p
  let l := x.held.map f
  let ready := fun (h : Held) => h.after.isEmpty && h.streams.isEmpty
  let s := { s with dc := s.dc.setPipe p { x with held := l.filter fun h => !ready h } }
  (l.filter ready).foldl (fun s h => pushRecord s h.ring h.record) s

/-- Records held behind a descriptor of ring n that now has its own are due (R491, R560). -/
def heldRelease (s : State) (n seq : Nat) : State :=
  (List.range 8).foldl (fun (s : State) p => heldMap s p fun h =>
    if h.ring = n then { h with after := h.after.erase seq } else h) s

/-- Tasks in flight of a source (R353, R363). -/
def inFlightOf (s : State) (src : Nat) : Nat :=
  (s.dc.tasks.filter fun k => k.2.source == src).length

/-- A reset of pipeline p holds its admission (R488, R489). -/
def State.pipeResetting (s : State) (p : Nat) : Bool :=
  s.err.resetting.contains p || (SMap.get (fun _ => none) s.err.pending p).isSome

/-- Payload of the marker the DC assigns to a stream's task, as a line (R246, R482). -/
def markerLine (s : State) (task : Option Nat) (status : Nat) : Line :=
  match task with
  | none => BitVec.ofNat 512 ((status % 256) <<< 56 + b2n (status != 0) <<< 33 + 1)
  | some t =>
    let k := s.dc.task t
    let dw0 := (status % 256) <<< 56 + (k.source % 4096) <<< 44 + (t % 1024) <<< 34
      + b2n (status != 0) <<< 33 + 1 <<< 32 + 1
    BitVec.ofNat 512 (dw0 + (k.inDt % 2 ^ 64) <<< 64 + (k.desc.count % 2 ^ 64) <<< 128)

/-- A marker payload of KIND 2: the end-of-stream marker of a micro-batch carries its task's fields
(R284, R482). -/
def eosLine (s : State) (task : Option Nat) (status : Nat) : Line := markerLine s task status + 1

end Sys2Proof.Machine
end

