-- ==== Sys2Proof/Machine/Intake.lean ====
section
/-! DEFINITION. What a frame intake unit makes of a frame (R359 to R362): chroma upsampling, the colour
matrix, crop, resize, letterbox, normalisation and the planar output words. -/

namespace Sys2Proof.Machine

/-! ### Device-initiated host accesses (R337, R338) -/

/-- Module m's mainband is trained. -/
def moduleUp (s : State) (m : Nat) : Bool := if m = 0 then s.hi.up0 else s.hi.up1

/-- The module ROUTE selects for a host address (R337). -/
def hostWant (s : State) (addr : Nat) : Nat :=
  if s.fld rHiCtrl 30 2 = 1 then 0 else if s.fld rHiCtrl 30 2 = 2 then 1 else addr / 4096 % 2

/-- The module that carries an access to a host address; none while both mainbands are down. -/
def hostRoute (s : State) (addr : Nat) : Option Nat :=
  if moduleUp s (hostWant s addr) then some (hostWant s addr)
  else if moduleUp s (1 - hostWant s addr) then some (1 - hostWant s addr) else none

/-- Issues an access; it waits in the host interface while no mainband is up. -/
def hostIssue (s : State) (wr : Bool) (addr : Nat) (data : Line) (mask : BitVec 64) (o : Owner) :
    Nat × State :=
  let m := hostRoute s addr
  let a : HostAcc := ⟨s.hi.nextId, wr, addr, data, mask, o, m, s.clk⟩
  let s := { s with hi := { s.hi with accs := s.hi.accs ++ [a], nextId := s.hi.nextId + 1 } }
  let s := match m with
    | some k => bwCount s (32 + k) (b2n wr)
    | none => s
  (a.id, s)

/-- Records an error of the host link (`HI_ERR`): 0 unmapped host access, 1 failed device access, 2
malformed transaction. -/
def hiError (s : State) (kind addr : Nat) : State :=
  ((s.setBit rHiErr 31 true).setFld rHiErr 28 3 kind).setFld rHiErrAddr 0 48 addr

/-- A device read or write of host memory waits: both mainbands are down, and no access that waited so has
reached 10 ms (R338). -/
def hostHolds (s : State) (a : Nat) : Bool :=
  match regionOf s a with
  | .host _ => !s.mainbandUp && !s.hi.timedOut
  | _ => false

/-- An access of the DC to host memory that is carried out at once: it is routed and counted as an `HRD` or
`HWR`, and it may fail, which a read records in `HI_ERR`; with both mainbands down it fails (R337, R338, R561).
Whether the host fails it is a free value. DEDUCED: log 60. -/
def hostTry (s : State) (wr : Bool) (h : Nat) : Bool × State :=
  let s := s.drawn
  match hostRoute s h with
  | none => (true, if wr then s else hiError s 1 h)
  | some m =>
    let s := bwCount s (32 + m) (b2n wr)
    if Config.hostFails s.freeCtr h then (true, if wr then s else hiError s 1 h) else (false, s)

/-! ### Profile fields (R362) -/

/-- `FI_PROF_CTRL`. -/
def fiCtrl (s : State) (u p : Nat) : W64 := s.rd (rFiProfCtrl u p)
/-- IN is P010. -/
def fiP010 (s : State) (u p : Nat) : Bool := bits (fiCtrl s u p) 0 4 == 1
/-- Bytes per sample. -/
def fiBps (s : State) (u p : Nat) : Nat := if fiP010 s u p then 2 else 1
/-- OUT: 0 RGB, 1 BGR, 2 LUMA. -/
def fiOut (s : State) (u p : Nat) : Nat := bits (fiCtrl s u p) 4 2
/-- OFMT. -/
def fiFmt (s : State) (u p : Nat) : Fmt := Fmt.ofCode (bits (fiCtrl s u p) 6 4)
/-- Region-of-interest mode. -/
def fiRoi (s : State) (u p : Nat) : Bool := bitAt (fiCtrl s u p) 15
/-- Channels in plane order: 0 R, 1 G, 2 B, or 3 for Y alone. -/
def fiPlanes (s : State) (u p : Nat) : List Nat :=
  match fiOut s u p with
  | 2 => [3]
  | 1 => [2, 1, 0]
  | _ => [0, 1, 2]

/-- The profile is one that R359 to R362 allow. -/
def fiProfileOk (s : State) (u p : Nat) : Bool :=
  decide (bits (fiCtrl s u p) 0 4 ≤ 1) && fiOut s u p != 3 && bits (fiCtrl s u p) 10 2 != 3
    && [Fmt.int8, .uint8, .fp16, .bf16].contains (fiFmt s u p)
    && decide (1 ≤ s.fld (rFiProfOut u p) 0 16) && decide (s.fld (rFiProfOut u p) 0 16 ≤ 4096)
    && decide (1 ≤ s.fld (rFiProfOut u p) 16 16) && decide (s.fld (rFiProfOut u p) 16 16 ≤ 4096)

/-- A crop of the frame and the image made of it. -/
structure FiGeom where
  x0 : Nat
  y0 : Nat
  w : Nat
  h : Nat
  ow : Nat
  oh : Nat
  deriving DecidableEq, Repr

/-- The profile's crop of a frame; a size of zero takes the whole frame. -/
def fiCrop (s : State) (u p fw fh : Nat) : FiGeom :=
  let w := s.fld (rFiProfCrop u p) 32 16
  let h := s.fld (rFiProfCrop u p) 48 16
  let whole := w = 0 || h = 0
  { x0 := if whole then 0 else s.fld (rFiProfCrop u p) 0 16
    y0 := if whole then 0 else s.fld (rFiProfCrop u p) 16 16
    w := if whole then fw else w
    h := if whole then fh else h
    ow := s.fld (rFiProfOut u p) 0 16
    oh := s.fld (rFiProfOut u p) 16 16 }

/-- The crop lies inside the frame. -/
def FiGeom.inside (g : FiGeom) (fw fh : Nat) : Bool :=
  decide (g.x0 + g.w ≤ fw) && decide (g.y0 + g.h ≤ fh)

/-- A byte of a task's region list: DRAM as the controller decodes it, other device memory, or a free value from
outside it, one for the whole task (R361, R372). -/
def listByte (s : State) (task a : Nat) : Byte :=
  match regionOf s a with
  | .dram =>
    let l := s.mem.line (a / 64 * 64)
    let l := match (if s.eccOn then decodeLine l (s.delta a) else .ok) with
      | .corrected l' => l'
      | .ok | .uncorrectable => l
    BitVec.ofNat 8 (laneOf l.toNat 8 (a % 64))
  | .cistern _ _ _ | .weight _ _ _ _ | .scSram _ _ => s.mem.byte a
  | .regs _ | .host _ | .peer _ _ | .unmapped => Config.hostByte (s.dc.task task).inDt a

/-- A 16-bit field of the list. -/
def list16 (s : State) (task a : Nat) : Nat :=
  (listByte s task a).toNat + 256 * (listByte s task (a + 1)).toNat

/-- The DRAM lines of n bytes from an address are read, with what their reads count and log; the address of the
first uncorrectable one (R372, R375, R376). -/
def listRead (s : State) (a : Nat) : Nat → Option Nat × State
  | 0 => (none, s)
  | n + 1 =>
    let q := match regionOf s a with
      | .dram =>
        let r := dramRead s a
        (if r.2.1 then some a else none, r.2.2)
      | _ => (none, s)
    let r := listRead q.2 (a + 64) n
    (q.1.orElse fun _ => r.1, r.2)

/-- Region j of a region list, clipped to the frame, its output within 4,096 × 4,096 (R361, R362). DEDUCED:
log 165. -/
def fiRegionAt (s : State) (u p fw fh task list j : Nat) : FiGeom :=
  let a := list + 16 * j
  let x0 := list16 s task a
  let y0 := list16 s task (a + 2)
  let ow := list16 s task (a + 8)
  let oh := list16 s task (a + 10)
  { x0 := x0
    y0 := y0
    w := Nat.min (x0 + list16 s task (a + 4)) fw - x0
    h := Nat.min (y0 + list16 s task (a + 6)) fh - y0
    ow := Nat.min 4096 (if ow = 0 then s.fld (rFiProfOut u p) 0 16 else ow)
    oh := Nat.min 4096 (if oh = 0 then s.fld (rFiProfOut u p) 16 16 else oh) }

/-- The crops of a frame in output order: one, or the regions of the task's list (R361). -/
def fiGeoms (s : State) (u p fw fh : Nat) (task : Option Nat) : List FiGeom :=
  if fiRoi s u p then
    match task with
    | none => []
    | some t =>
      let d := (s.dc.task t).desc
      (List.range d.nroi).map (fiRegionAt s u p fw fh t d.roilist)
  else [fiCrop s u p fw fh]

/-- The region list of a task is read, where the profile uses one: the address of an uncorrectable line (R361,
R372). DEDUCED: log 167. -/
def fiListRead (s : State) (u p : Nat) (task : Option Nat) : Option Nat × State :=
  match fiRoi s u p, task with
  | true, some t =>
    let d := (s.dc.task t).desc
    if d.nroi = 0 then (none, s)
    else listRead s (d.roilist / 64 * 64) ((d.roilist % 64 + 16 * d.nroi + 63) / 64)
  | _, _ => (none, s)

/-- Words of one output row (R361). -/
def fiRowWords (s : State) (u p : Nat) (g : FiGeom) : Nat := (g.ow * (fiFmt s u p).width / 8 + 63) / 64

/-- Output words of a crop; one clipped to nothing yields one (R361). -/
def fiGeomWords (s : State) (u p : Nat) (g : FiGeom) : Nat :=
  if g.w = 0 || g.h = 0 then 1 else (fiPlanes s u p).length * g.oh * fiRowWords s u p g

/-- Output words of a frame. -/
def fiTotal (s : State) (u p fw fh : Nat) (task : Option Nat) : Nat :=
  ((fiGeoms s u p fw fh task).map (fiGeomWords s u p)).foldl (· + ·) 0

/-! ### Samples -/

/-- A frame as it stands in the unit: width, height, bytes per sample, and the bytes of both planes. -/
structure FiFrame where
  fw : Nat
  fh : Nat
  bps : Nat
  luma : Nat
  chroma : Nat
  deriving DecidableEq, Repr

/-- Sample i of a plane: P010 samples stand in the upper ten of their sixteen bits. -/
def FiFrame.sample (f : FiFrame) (plane i : Nat) : Nat :=
  if f.bps = 2 then laneOf plane 16 i / 64 else laneOf plane 8 i

/-- Luma at a column and row. -/
def FiFrame.y (f : FiFrame) (x r : Nat) : Nat := f.sample f.luma (r * f.fw + x)

/-- Chroma sample of component k (0 Cb, 1 Cr) at chroma column c and row j, edges replicated. -/
def FiFrame.ch (f : FiFrame) (k c j : Nat) : Nat :=
  f.sample f.chroma (Nat.min j (f.fh / 2 - 1) * f.fw + 2 * Nat.min c (f.fw / 2 - 1) + k)

/-- Chroma of component k at luma column x, chroma row j, times two: co-sited with even columns (R359). -/
def FiFrame.chCol (f : FiFrame) (k x j : Nat) : Nat :=
  if x % 2 = 0 then 2 * f.ch k (x / 2) j else f.ch k (x / 2) j + f.ch k (x / 2 + 1) j

/-- Chroma at a luma column and row, times eight: midway between luma rows (R359). -/
def FiFrame.ch8 (f : FiFrame) (k x r : Nat) : Nat :=
  let j := r / 2
  3 * f.chCol k x j + (if r % 2 = 0 then f.chCol k x (j - 1) else f.chCol k x (j + 1))

/-- A rational n/d, d > 0, rounded once to FP32. -/
def ratF32 (n : Int) (d : Nat) : FVal :=
  let q := n.natAbs * 2 ^ 64 / d
  let st := if n.natAbs * 2 ^ 64 % d = 0 then 0 else 1
  f32 (roundFloat ⟨8, 23, 127, 0x7F7FFFFF⟩ (decide (n < 0)) (2 * q + st) (-65)).1

/-- Kr and Kb of BT.601, BT.709 and BT.2020 in ten-thousandths. PRESUMED: log 89. -/
def lumaWeights : Nat → Int × Int
  | 0 => (2990, 1140)
  | 1 => (2126, 722)
  | _ => (2627, 593)

/-- A channel of a pixel in FP32 on the scale 0 to 255, by the ITU-R matrix (R359). The numerators are
over 8 · range · 10⁸. -/
def fiRgb (s : State) (u p : Nat) (f : FiFrame) (x r c : Nat) : FVal :=
  let full := bitAt (fiCtrl s u p) 12
  let one : Int := if f.bps = 2 then 4 else 1
  let k := lumaWeights (bits (fiCtrl s u p) 10 2)
  let kg := 10000 - k.1 - k.2
  let yr : Int := if full then (if f.bps = 2 then 1023 else 255) else 219 * one
  let cr : Int := if full then yr else 224 * one
  let y8 : Int := 8 * ((f.y x r : Int) - (if full then 0 else 16 * one))
  let cb8 : Int := (f.ch8 0 x r : Int) - 8 * 128 * one
  let cr8 : Int := (f.ch8 1 x r : Int) - 8 * 128 * one
  -- over 8 · yr · cr · 10000 · kg
  let yy := y8 * cr * 10000 * kg
  let n : Int :=
    if c = 0 then yy + 2 * (10000 - k.1) * cr8 * yr * kg
    else if c = 2 then yy + 2 * (10000 - k.2) * cb8 * yr * kg
    else yy - 2 * k.2 * (10000 - k.2) * cb8 * yr - 2 * k.1 * (10000 - k.1) * cr8 * yr
  ratF32 (255 * n) (8 * yr * cr * 10000 * kg).toNat

/-- A channel of a pixel: 0 to 2 the colours, 3 the luma as it stands. -/
def fiPixel (s : State) (u p : Nat) (f : FiFrame) (c x r : Nat) : FVal :=
  if c = 3 then .ofInt (f.y x r) else fiRgb s u p f x r c

/-! ### Resize, letterbox, normalisation -/

/-- Tap t of a phase: the built-in table, or `FI_COEF` (R360, R362). DEDUCED: log 88. -/
def fiTap (s : State) (u p ph t : Nat) : Int :=
  if bitAt (fiCtrl s u p) 14 then signedOf 16 (s.fld (rFiCoef u (2 * ph + t / 4)) (16 * (t % 4)) 16)
  else Config.filterTap ph t

/-- Input position of output o: floor of the coordinate, and its phase in sixty-fourths (R360). -/
def fiMap (o inn out : Nat) : Int × Nat :=
  -- (o + 1/2) · in/out − 1/2 in sixty-fourths
  let n : Int := (64 * (2 * o + 1) * inn : Nat)
  let v := (n - 64 * (out : Int)) / (2 * (out : Int))
  (v / 64, (v % 64).toNat)

/-- An index held inside 0 to n − 1. -/
def clampIx (i : Int) (n : Nat) : Nat := if i < 0 then 0 else Nat.min i.toNat (n - 1)

/-- Eight taps over a line of samples, rounded to FP32 (R67, R74, R360). DEDUCED: log 164. -/
def fiFilter (s : State) (u p : Nat) (inn out o : Nat) (get : Nat → FVal) : FVal :=
  let m := fiMap o inn out
  f32 (encodeFmt .fp32 ((List.range 8).foldl (fun (a : FVal) t =>
    let k := fiTap s u p m.2 t
    a.add (FVal.mul ((FVal.ofInt k).scale2 (-14)) (get (clampIx (m.1 - 3 + t) inn)))) .zero)).1

/-- Size and offset of the image inside the output, for a letterboxed or stretched crop (R360). -/
def fiBox (s : State) (u p : Nat) (g : FiGeom) : Nat × Nat × Nat × Nat :=
  if bitAt (fiCtrl s u p) 13 then
    let byW := decide (g.ow * g.h ≤ g.oh * g.w)
    let rw := if byW then g.ow else rneDiv (g.w * g.oh) g.h
    let rh := if byW then rneDiv (g.h * g.ow) g.w else g.oh
    (rw, rh, (g.ow - rw) / 2, (g.oh - rh) / 2)
  else (g.ow, g.oh, 0, 0)

/-- The pad colour of a channel (R362). For luma the specification names none. DESIGN CHOICE: log 90. -/
def fiPad (s : State) (u p c : Nat) : Nat :=
  if c = 3 then Config.unstated 6 (s.fld (rFiProfOut u p) 32 24) 0 % 256
  else s.fld (rFiProfOut u p) (48 - 8 * c) 8

/-- An output element before rounding (R359 steps 1 to 6). -/
def fiValue (s : State) (u p : Nat) (f : FiFrame) (g : FiGeom) (c o row : Nat) : FVal :=
  let b := fiBox s u p g
  let inX := decide (b.2.2.1 ≤ o) && decide (o < b.2.2.1 + b.1)
  let inY := decide (b.2.2.2 ≤ row) && decide (row < b.2.2.2 + b.2.1)
  let v :=
    if inX && inY then
      fiFilter s u p g.h b.2.1 (row - b.2.2.2) fun y =>
        fiFilter s u p g.w b.1 (o - b.2.2.1) fun x => fiPixel s u p f c (g.x0 + x) (g.y0 + y)
    else .ofInt (fiPad s u p c)
  let n := s.rd (rFiProfNorm u p (if c = 3 then 0 else c))
  (v.mul (f32 (bits n 0 32))).add (f32 (bits n 32 32))

/-- The words of one crop and its saturations (R359 step 7, R361). -/
def fiGeomOut (s : State) (u p : Nat) (f : FiFrame) (g : FiGeom) : List Nat × Nat :=
  if g.w = 0 || g.h = 0 then ([0], 0)
  else
    let fm := fiFmt s u p
    let per := fm.perWord
    let rows := (fiPlanes s u p).flatMap fun c => (List.range g.oh).map fun r => (c, r)
    let words := rows.flatMap fun cr => (List.range (fiRowWords s u p g)).map fun j =>
      (List.range per).map fun i =>
        if per * j + i < g.ow then encodeFmt fm (fiValue s u p f g cr.1 (per * j + i) cr.2)
        else (0, false)
    (words.map fun w => ofLanes fm.width (w.map (·.1)),
      (words.map fun w => (w.filter (·.2)).length).foldl (· + ·) 0)

/-- The output of a frame: its words, with block starts at the regions of ROI mode, and its
saturations. -/
def fiFrameOut (s : State) (u p : Nat) (f : FiFrame) (task : Option Nat) : List OWord × Nat :=
  let parts := (fiGeoms s u p f.fw f.fh task).map (fiGeomOut s u p f)
  let roi := fiRoi s u p
  (parts.flatMap fun q => (List.range q.1.length).map fun j =>
      ⟨q.1.getD j 0, none, roi && j == 0⟩,
    (parts.map (·.2)).foldl (· + ·) 0)

/-- A profile write: discarded while a stream of the unit uses the profile (R362). -/
def fiProfileBusy (s : State) (u p : Nat) : Bool :=
  s.strs.any fun e => e.2.st != .idle && e.2.fetched.any fun d =>
    bitAt (dwOf d.dw 6) 52 && bits (dwOf d.dw 6) 54 4 == p && b2n (bitAt (dwOf d.dw 6) 53) == u

end Sys2Proof.Machine
end

