-- ==== Sys2Proof/Machine/Streams.lean ====
section
/-! DEFINITION. Streams (chapter 9): the descriptor fields and address walk, the checks R248 and R249,
arming, completion, cancel and faults. -/

namespace Sys2Proof.Machine

/-! ### Descriptor fields (R241) -/

/-- SIG. -/
def FDesc.sig (d : FDesc) : Bool := bitAt (dwOf d.dw 0) 63
/-- FENCE. -/
def FDesc.fence (d : FDesc) : Bool := bitAt (dwOf d.dw 0) 62
/-- DCLS. -/
def FDesc.dcls (d : FDesc) : Nat := bits (dwOf d.dw 0) 60 2
/-- PACK. -/
def FDesc.pack (d : FDesc) : Nat := bits (dwOf d.dw 0) 58 2
/-- DFMT. -/
def FDesc.dfmt (d : FDesc) : Fmt := Fmt.ofCode (bits (dwOf d.dw 0) 54 4)
/-- SFMT. -/
def FDesc.sfmt (d : FDesc) : Fmt := Fmt.ofCode (bits (dwOf d.dw 0) 50 4)
/-- BASE. -/
def FDesc.base (d : FDesc) : Nat := bits (dwOf d.dw 0) 0 48
/-- STRIDE_j. -/
def FDesc.stride (d : FDesc) (j : Nat) : Int := signedOf 40 (bits (dwOf d.dw (1 + j)) 20 40)
/-- COUNT_j. -/
def FDesc.count (d : FDesc) (j : Nat) : Nat := bits (dwOf d.dw (1 + j)) 0 20 + 1
/-- CXL. -/
def FDesc.cxl (d : FDesc) : Nat := bits (dwOf d.dw 6) 62 2
/-- CTAG. -/
def FDesc.ctag (d : FDesc) : BitVec 2 := BitVec.ofNat 2 (bits (dwOf d.dw 6) 60 2)
/-- MARK before the first word. -/
def FDesc.markFirst (d : FDesc) : Bool := bitAt (dwOf d.dw 6) 58
/-- MARK after the last word. -/
def FDesc.markLast (d : FDesc) : Bool := bitAt (dwOf d.dw 6) 59
/-- FIPROF. -/
def FDesc.fiprof (d : FDesc) : Nat := bits (dwOf d.dw 6) 54 4
/-- FIU. -/
def FDesc.fiu (d : FDesc) : Nat := bits (dwOf d.dw 6) 53 1
/-- VIAFI. -/
def FDesc.viafi (d : FDesc) : Bool := bitAt (dwOf d.dw 6) 52
/-- SKIND: 0 address, 1 local queue. -/
def FDesc.skind (d : FDesc) : Nat := bits (dwOf d.dw 6) 50 2
/-- DKIND: 0 address, 1 local queue, 2 peer queue, 3 sink. -/
def FDesc.dkind (d : FDesc) : Nat := bits (dwOf d.dw 6) 48 2
/-- DEST. -/
def FDesc.dest (d : FDesc) : Nat := bits (dwOf d.dw 6) 0 48
/-- BLKEN. -/
def FDesc.blken (d : FDesc) : Bool := bitAt (dwOf d.dw 7) 60
/-- BLEN. -/
def FDesc.blen (d : FDesc) : Nat := bits (dwOf d.dw 7) 48 12 + 1
/-- NEXT. -/
def FDesc.nextA (d : FDesc) : Nat := bits (dwOf d.dw 7) 0 48

/-- Well and entry of a queue reference (R242). -/
def refWell (r : Nat) : Nat := r / 1024 % 8
/-- Its entry. -/
def refEntry (r : Nat) : Nat := r % 1024
/-- Its device. -/
def refPeer (r : Nat) : Nat := r / 8192 % 1024

/-- The local queue a descriptor writes. -/
def FDesc.destQueue (d : FDesc) : Option (Nat × Nat) :=
  if d.dkind = 1 then some (refWell d.dest, refEntry d.dest) else none
/-- The local queue it reads. -/
def FDesc.srcQueue (d : FDesc) : Option (Nat × Nat) :=
  if d.skind = 1 then some (refWell d.base, refEntry d.base) else none

/-- A descriptor just read. -/
def FDesc.fresh (k addr : Nat) (dw : List W64) : FDesc :=
  { k := k, addr := addr, dw := dw, rdPos := 0, rdDone := false, raw := 0,
    rawLen := 0, taken := 0, out := 0, outLen := 0, words := [], nWords := 0, wrPos := 0,
    started := false, converted := false, trailed := false,
    eosDone := false, chroma := false }

/-! ### The address walk (R243) -/

/-- The product of the counts: bytes the walk moves. -/
def FDesc.walkBytes (d : FDesc) : Nat := d.count 0 * d.count 1 * d.count 2 * d.count 3 * d.count 4

/-- Address of byte `pos` of the walk from `addr0`. -/
def FDesc.walkAddr (d : FDesc) (addr0 pos : Nat) : Int :=
  let r := pos / d.count 0
  (addr0 + pos % d.count 0 : Nat) + (r % d.count 1 : Nat) * d.stride 1
    + (r / d.count 1 % d.count 2 : Nat) * d.stride 2
    + (r / d.count 1 / d.count 2 % d.count 3 : Nat) * d.stride 3
    + (r / d.count 1 / d.count 2 / d.count 3 : Nat) * d.stride 4

/-- What a dimension adds at its far end, where that lies below (`down`) or above its near end. -/
def FDesc.reach (d : FDesc) (down : Bool) (j : Nat) : Int :=
  let v := ((d.count j : Int) - 1) * d.stride j
  if down then (if v < 0 then v else 0) else (if v < 0 then 0 else v)

/-- Lowest and highest byte of the walk (R249). -/
def FDesc.extent (d : FDesc) (addr0 : Nat) : Int × Int :=
  ((addr0 : Int) + d.reach true 1 + d.reach true 2 + d.reach true 3 + d.reach true 4,
    (addr0 : Int) + (d.count 0 : Int) - 1 + d.reach false 1 + d.reach false 2 + d.reach false 3
      + d.reach false 4)

/-! ### Formats on the way (R244, R245) -/

/-- A 6-bit source in packed form. -/
def FDesc.srcPacked (d : FDesc) : Bool := d.pack = 1
/-- A 6-bit destination in packed form. -/
def FDesc.dstPacked (d : FDesc) : Bool := d.pack = 2
/-- Bytes and elements of a source element group. -/
def FDesc.group (d : FDesc) : Nat × Nat :=
  match d.sfmt.width with
  | 16 => (2, 1)
  | 32 => (4, 1)
  | 6 => if d.srcPacked then (3, 4) else (1, 1)
  | 4 => (1, 2)
  | _ => (1, 1)
/-- Elements that n source bytes hold. -/
def FDesc.elems (d : FDesc) (n : Nat) : Nat := n / d.group.1 * d.group.2
/-- Bytes that n output elements take. -/
def FDesc.outBytes (d : FDesc) (n : Nat) : Nat :=
  if d.dstPacked then (n + 3) / 4 * 3 else (n * d.dfmt.slot + 7) / 8
/-- Bytes the descriptor writes to an address from an address. -/
def FDesc.outTotal (d : FDesc) : Nat := d.outBytes (d.elems d.walkBytes)

/-- Bits an element takes in the source's memory form (R55, R244). -/
def srcBits (d : FDesc) : Nat := if d.srcPacked && d.sfmt.width == 6 then 6 else d.sfmt.slot
/-- Bits an element takes in the output. Words for a peer hold FP32 codes until they are encoded
(R394). -/
def dstBits (d : FDesc) : Nat :=
  if d.dkind = 2 then 32 else if d.dstPacked && d.dfmt.width == 6 then 6 else d.dfmt.slot

/-- Format of the words a stream makes for a queue: the decoded format for a peer (R394). -/
def wordFmt (x : Stream) (d : FDesc) : Fmt :=
  if d.dkind = 2 then Fmt.ofCode (bits x.link 41 4) else d.dfmt

/-- Words that n elements begin (R245). -/
def wordsFor (x : Stream) (d : FDesc) (n : Nat) : Nat :=
  (n + (wordFmt x d).perWord - 1) / (wordFmt x d).perWord

/-- Output words of one source word of a stream between queues (R247). -/
def wordsPerWord (x : Stream) (d : FDesc) : Nat := Nat.max 1 (d.sfmt.perWord / (wordFmt x d).perWord)

/-! ### The check (R248, R249) -/

/-- R60: formats a pump may convert. -/
def pumpFmt (f : Fmt) : Bool := f != .bell4 && f != .bell6

/-- The format pair is allowed (R60, R61, R244, R394). -/
def pairAllowed (x : Stream) (d : FDesc) : Bool :=
  if d.dkind = 2 then
    let dec := Fmt.ofCode (bits x.link 41 4)
    pumpFmt d.sfmt && d.sfmt != .int32 && d.sfmt != .e8m0
      && (([Fmt.bell4, .bell6, .fp8e4].contains d.dfmt && (dec == .bf16 || dec == .fp8e4))
        || (d.dfmt == .bf16 && dec == .bf16))
  else
    pumpFmt d.sfmt && pumpFmt d.dfmt
      && (d.sfmt != .e8m0 || d.dfmt == .e8m0 || d.dfmt == .fp32)
      && (d.dfmt != .e8m0 || d.sfmt == .e8m0 || d.sfmt == .fp32)

/-- A local queue reference names an enabled data queue of a present well (R248). -/
def queueOk (s : State) (r : Nat) : Bool :=
  let e := s.sq (refWell r) (refEntry r)
  decide (r < 8192) && decide (refEntry r < 768) && s.hasWell (refWell r) && e.enabled && !e.isSem

/-- A reserved bit is set, or a field is out of range (R241, R242). -/
def fieldsOk (d : FDesc) : Bool :=
  bits (dwOf d.dw 0) 48 2 == 0
    && (List.range 5).all (fun j => bits (dwOf d.dw (1 + j)) 60 4 == 0)
    && bits (dwOf d.dw 7) 61 3 == 0
    && d.dcls != 3 && d.pack != 3 && decide (d.cxl ≤ 1) && decide (d.skind ≤ 1)
    && (d.dkind != 2 || decide (d.dest < 2 ^ 23))

/-- R248. -/
def descValid (s : State) (x : Stream) (d : FDesc) : Bool :=
  fieldsOk d && d.stride 0 == 0 && pairAllowed x d
    && !(d.pack == 1 && (d.sfmt.width != 6 || d.skind == 1))
    && !(d.pack == 2 && (d.dfmt.width != 6 || d.dkind == 1 || d.dkind == 2))
    && d.count 0 % d.group.1 == 0
    && !(d.viafi && (bits (dwOf d.dw 0) 50 8 != 0 || d.pack != 0 || d.skind != 0 || d.dkind != 1
      || !s.hasFi d.fiu))
    && !(d.dkind == 2 && s.fld rCapUnits 16 6 == 0)
    && (d.skind != 1 || queueOk s d.base) && (d.dkind != 1 || queueOk s d.dest)
    && !((d.markFirst || d.markLast || d.blken) && d.dkind != 1 && d.dkind != 2)
    && d.nextA % 64 == 0

/-- Range of R40 an address lies in; none where it is unmapped. -/
def rangeNo (s : State) (a : Int) : Option Nat :=
  if a < 0 then none
  else match regionOf s a.toNat with
    | .dram => some 0
    | .cistern _ _ _ | .weight _ _ _ _ | .scSram _ _ => some 1
    | .regs _ => some 2
    | .host _ => some 3
    | .peer _ _ => some 4
    | .unmapped => none

/-- Both extremes are mapped and lie in one range (R249). -/
def extentOk (s : State) (e : Int × Int) : Bool :=
  match rangeNo s e.1, rangeNo s e.2 with
  | some a, some b => a == b
  | _, _ => false

/-- R249. -/
def rangesOk (s : State) (d : FDesc) : Bool :=
  if d.skind = 0 then
    extentOk s (d.extent d.base)
      && (d.dkind != 0 || extentOk s ((d.dest : Int), (d.dest + d.outTotal : Nat) - 1))
  else d.dkind != 0 || extentOk s (d.extent d.dest)

/-- Device id of a peer-window address. -/
def peerOf (s : State) (a : Nat) : Option Nat :=
  match regionOf s a with
  | .peer i _ => some i
  | _ => none

/-- Device ids a descriptor names (R401). -/
def peersNamed (s : State) (d : FDesc) : List Nat :=
  (if d.dkind = 2 then [refPeer d.dest] else [])
    ++ (if d.skind = 0 then (peerOf s d.base).toList else [])
    ++ (if d.dkind = 0 then (peerOf s d.dest).toList else [])

/-- The check of a descriptor: the failing status, or zero (R248, R249, R401). -/
def descStatus (s : State) (x : Stream) (d : FDesc) : Nat :=
  if !descValid s x d then stDescInvalid
  else if !rangesOk s d then stStreamOob
  else if (peersNamed s d).any fun i => !isMember s i && !(s.bit rLkId 31 && i == ownId s) then stPeerLost
  else 0

/-! ### Fields of the active slot -/

/-- Task of a stream configuration (R266). -/
def cfgTask (c : W32) : Option Nat := if bitAt c 31 then some (bits c 21 10) else none
/-- Task of the active stream. -/
def Stream.task (x : Stream) : Option Nat := cfgTask x.act.cfg
/-- Pump and context of a stream index. -/
def pumpOf (i : Nat) : Nat := i / 64

/-- Local queues a descriptor names. -/
def FDesc.queues (d : FDesc) : List (Nat × Nat) := d.destQueue.toList ++ d.srcQueue.toList

/-- Queues of a stream: those its descriptors held name, those its words on the way are bound for, and those
it has reserved places of. -/
def strQueues (x : Stream) : List (Nat × Nat) :=
  x.fetched.flatMap FDesc.queues
    ++ x.writes.filterMap (fun w => match w.kind with
      | .queue _ => some (w.addr / 1024, w.addr % 1024)
      | _ => none)
    ++ x.resv.map fun r => (r.1 / 1024, r.1 % 1024)

/-- Pipeline in whose wells one of some queues lies (R263). -/
def pipeOfQueues (s : State) (l : List (Nat × Nat)) : Option Nat := l.findSome? fun q => s.pipeOf q.1

/-- A report of the stream's fault or rejected arm by scope (R257, R259, R263). -/
def strReport (s : State) (i status addr off : Nat) (task pipe : Option Nat) : State :=
  let f := mkFault status 1 i addr off
  match task with
  | some t => if (s.dc.task t).desc.dw.isEmpty then logEntry s f 1 (some t) none else taskFault s t f
  | none => match pipe with
    | some p => pipeFault s p f
    | none => logOnly s f

/-! ### Start and end -/

/-- The active stream starts: counters clear, the block-tag counter takes BTAG0 − 1 (R246, R258,
R267). -/
def strStart (x : Stream) (a : StrSlot) : Stream :=
  { x with act := a, st := .running, descs := 0, bytes := 0, next := some (bits a.head 6 42 * 64),
           nFetched := 0, fetched := [], sigs := [], reads := [], writes := [],
           tag := BitVec.ofNat 6 (bits a.cfg 0 6 + 63), boundary := none, sunk := 0, fill := none,
           resv := [], tteQueue := none, tteLast := 0, tteWin := 0, tteRate := 0, tte := 0, valve := false, credit := 0,
           pseq := 0, asked := false, sent := [] }

/-- The completion semaphore a configuration names: well, entry, counter (R266). -/
def cfgSem (c : W32) : Option (Nat × Nat × Bool) :=
  if bitAt c 20 then some (bits c 17 3, bits c 7 10, bitAt c 6) else none

/-- A named semaphore is a semaphore entry (R257). -/
def semOk (s : State) (c : W32) : Bool :=
  match cfgSem c with
  | none => true
  | some (w, e, _) => decide (e < 768) && s.hasWell w && (s.sq w e).enabled && (s.sq w e).isSem

/-- The outcome of an arm. -/
inductive ArmOut where
  | started | shadowed | overrun | invalid
  deriving DecidableEq, Repr

/-- A stream armed with a task in flight belongs to it until it ends (R487). -/
def taskJoin (s : State) (t : Option Nat) (i : Nat) : State :=
  match t with
  | none => s
  | some t =>
    let k := s.dc.task t
    if k.desc.dw.isEmpty || k.streams.contains i then s
    else { s with dc := s.dc.setTask t { k with streams := k.streams ++ [i] } }

/-- Tasks that can complete now do. -/
def taskSettle (s : State) (t : Option Nat) : State :=
  match t.bind s.taskPipe with
  | some p => dcSettle s p
  | none => s

/-- `ARM` of a slot value: the active or shadow slot takes it, or it is discarded with DESC_OVERRUN or
DESC_INVALID (R257 to R259). -/
def strArm (s : State) (i : Nat) (a : StrSlot) : ArmOut × State :=
  let x := s.str i
  let t := cfgTask a.cfg
  let at_ := bits a.head 6 42 * 64
  if !semOk s a.cfg then (.invalid, taskSettle (strReport s i stDescInvalid at_ 0 t none) t)
  else if x.shadow.isSome then
    (.overrun, taskSettle (strReport (s.setStr i { x with ovr := true }) i stDescOverrun at_ 0 t none) t)
  else if x.st = .idle then (.started, taskJoin (s.setStr i (strStart x a)) t i)
  else (.shadowed, taskJoin (s.setStr i { x with shadow := some a }) t i)

/-- A stream of a task has ended or was never started: it leaves the task's list. -/
def taskDrop (s : State) (t i : Nat) : State :=
  let k := s.dc.task t
  if k.desc.dw.isEmpty then s
  else dcSettle { s with dc := s.dc.setTask t { k with streams := k.streams.erase i } } k.pipe

/-- The DC's arms that waited for this stream's shadow slot (R355): the oldest is made once the slot is
free. DEDUCED: log 56. -/
def dcArmNext (s : State) (i : Nat) : State :=
  match s.dc.armq.find? fun q => q.1 == i with
  | none => s
  | some (_, t, head) =>
    if (s.str i).shadow.isSome then s
    else
      let s := { s with dc := { s.dc with armq := s.dc.armq.erase (i, t, head) } }
      let r := strArm s i ⟨BitVec.ofNat 64 head, BitVec.ofNat 32 (1 <<< 31 + (t % 1024) <<< 21)⟩
      match r.1 with
      | .started | .shadowed => r.2
      | .overrun | .invalid => taskDrop r.2 t i

/-- The task's output stream by the pipeline's `DC_PIPE_OUT` (R350, R363). -/
def outStream (s : State) (p : Nat) : Nat := 64 * bits (s.dc.pipe p).out 59 5 + bits (s.dc.pipe p).out 53 6
/-- The intake stream. -/
def inStream (s : State) (p : Nat) : Nat := 64 * bits (s.dc.pipe p).inn 59 5 + bits (s.dc.pipe p).inn 53 6

/-- The DC learns the end of a stream of a task: bytes of the output stream, and a CODE other than OK as
a report (R350, R357). -/
def taskStreamEnd (s : State) (t i code bytes : Nat) : State :=
  let k := s.dc.task t
  if k.desc.dw.isEmpty then s
  else
    let k := if i = outStream s k.pipe then { k with rbytes := bytes } else k
    let s := { s with dc := s.dc.setTask t k }
    let s := if code = 0 then s else reportTask s t code
    taskDrop s t i

/-- A flushed stream has ended: held records of its task have its bytes, and wait for it no more (R350, R491). -/
def heldStream (s : State) (i bytes : Nat) : State :=
  (List.range 8).foldl (fun (s : State) p =>
    let out := i == outStream s p
    heldMap s p fun h =>
      if h.streams.contains i then
        { h with streams := h.streams.erase i
                 record := if out then { h.record with rbytes := bytes % 2 ^ 32 } else h.record }
      else h) s

/-- Words the stream has reserved of a queue. -/
def Stream.resvOf (x : Stream) (w e : Nat) : Nat := SMap.get (fun _ => 0) x.resv (queueNo w e)

/-- Reserves n words of a queue for the stream (R251). DEDUCED: log 51. -/
def strReserve (s : State) (i w e n : Nat) : State :=
  let x := s.str i
  let s := s.setStr i { x with
    resv := SMap.set (fun _ => 0) x.resv (queueNo w e) (x.resvOf w e + n) }
  let q := s.sq w e
  s.setSq w e { q with resv := q.resv + n }

/-- One reserved word of a queue is used or returned. -/
def strUnreserve (s : State) (i w e : Nat) : State :=
  let x := s.str i
  let n := x.resvOf w e
  if n = 0 then s
  else
    let s := s.setStr i { x with resv := SMap.set (fun _ => 0) x.resv (queueNo w e) (n - 1) }
    let q := s.sq w e
    s.setSq w e { q with resv := q.resv - 1 }

/-- Reserved words go back to their queues (R251). -/
def strRelease (s : State) (i : Nat) : State :=
  let x := s.str i
  x.resv.foldl (fun (s : State) r =>
    let q := s.sq (r.1 / 1024) (r.1 % 1024)
    s.setSq (r.1 / 1024) (r.1 % 1024) { q with resv := q.resv - r.2 }) (s.setStr i { x with resv := [] })

/-- Frees a stream's encoder entry (R399) and its place at a frame intake unit. -/
def strFree (s : State) (i : Nat) : State :=
  let s := { s with lk := { s.lk with encoders := SMap.erase s.lk.encoders i } }
  { s with fiq := (s.fiq.map fun e => (e.1, e.2.erase i)).filter fun e => !e.2.isEmpty }

/-- The active stream reaches IDLE with a code; a pending shadow starts (R257, R258, R261). -/
def strEnd (s : State) (i code : Nat) : State :=
  let s := strFree (strRelease s i) i
  let x := s.str i
  let t := x.task
  let y := { x with st := .idle, code := code, fetched := [], sigs := [], reads := [], writes := [],
                    next := none, boundary := none, fill := none, valve := false }
  let y := match x.shadow with
    | some a => strStart { y with shadow := none } a
    | none => y
  let s := s.setStr i y
  let s := match t with
    | some t => taskStreamEnd s t i code x.bytes
    | none => heldStream s i x.bytes
  dcArmNext s i

/-- Signals the completion semaphore (R257). -/
def strSignal (s : State) (c : W32) : State :=
  match cfgSem c with
  | some (w, e, sel) => semPort s w e sel 1
  | none => s

/-- Descriptors at the head of `sigs` with no outstanding write are complete: counted, and signalled
where they signal (R257, R267). -/
def strComplete (s : State) (i : Nat) : Nat → State
  | 0 => s
  | n + 1 =>
    let x := s.str i
    match x.sigs with
    | [] => s
    | (k, sg) :: r =>
      if x.writes.any fun w => w.k ≤ k then s
      else
        let s := s.setStr i { x with sigs := r, descs := Nat.min (x.descs + 1) 0xFFFF }
        strComplete (if sg then strSignal s x.act.cfg else s) i n

/-- After a write has become visible: completions, then the end of the stream once everything is done
(R257). -/
def strVisible (s : State) (i : Nat) : State :=
  let s := strComplete s i (s.str i).sigs.length
  let x := s.str i
  if x.st = .running && x.fetched.isEmpty && x.sigs.isEmpty && x.reads.isEmpty && x.next.isNone then
    strEnd s i 0
  else s

/-- Bytes of a descriptor's source whose output has been issued: of its converted bytes, those that the
elements written stand for; data bound for the sink is delivered once it is converted. -/
def FDesc.srcWritten (x : Stream) (d : FDesc) : Nat :=
  let src := fun (elems : Nat) =>
    if d.skind = 1 then elems / Nat.max 1 d.sfmt.perWord * 64 else elems / d.group.2 * d.group.1
  if d.dkind = 3 then d.taken
  else if d.viafi then d.taken * d.nWords / Nat.max 1 (d.nWords + d.words.length)
  else if d.dkind = 0 then src (8 * d.wrPos / Nat.max 1 (dstBits d))
  else if d.skind = 1 then d.nWords / wordsPerWord x d * 64
  else src (d.nWords * (wordFmt x d).perWord)

/-- Bytes of read data that a descriptor holds and that are not written (R261). DEDUCED: log 59. -/
def FDesc.held (x : Stream) (d : FDesc) : Nat := d.rawLen + (d.taken - d.srcWritten x)

/-- Drops what the stream holds of every descriptor but those kept (R260). DEDUCED: log 59. -/
def dropHeld (x : Stream) (keep : FDesc → Bool) : Stream :=
  { x with sunk := x.sunk + (((x.fetched.filter fun d => !keep d).map (FDesc.held x)).foldl (· + ·) 0)
           fetched := x.fetched.filter keep }

/-- A peer stream that will not send its END tells its destination with an STERR packet (R402).
DEDUCED: log 106. -/
def sendSterr (s : State) (i status : Nat) : State :=
  let x := s.str i
  match x.fetched with
  | d :: _ =>
    if d.dkind = 2 && (x.asked || x.pseq != 0 || x.credit != 0) then
      let dw1 := refEntry d.dest + refWell d.dest <<< 10 + (i / 64) <<< 13 + (i % 64) <<< 18
        + (x.pseq % 256) <<< 24
      sendTo s (refPeer d.dest) ⟨7, false, BitVec.ofNat 10 (refPeer d.dest), BitVec.ofNat 10 (ownId s),
        BitVec.ofNat 64 dw1, BitVec.ofNat 64 status, 0, 0, []⟩
    else s
  | [] => s

/-- The descriptor is the one that a cancel under BOUNDARY lets run to its end; a frame's luma has its chroma
with it. -/
def atBoundary (x : Stream) (d : FDesc) : Bool :=
  match x.boundary with
  | some k => d.k == k || (d.chroma && d.k == k + 1)
  | none => false

/-- A luma's chroma is among the descriptors held. -/
def chromaHeld (x : Stream) (d : FDesc) : Bool := x.fetched.any fun e => e.chroma && e.k == d.k + 1

/-- The descriptor of a BOUNDARY cannot run to its end: what is left of it goes to the sink, and it does not
signal. DEDUCED: log 59. -/
def boundaryLost (s : State) (i : Nat) : State :=
  let x := s.str i
  s.setStr i (dropHeld { x with boundary := none, next := none } fun _ => false)

/-- Cancels the active stream under the CXL of its oldest descriptor whose writes are not all issued;
`sink` treats it as SINK whatever that says. Under BOUNDARY a frame whose chroma has not been read as a
descriptor still reads it (R260, R264, R359). -/
def strCancel (s : State) (i : Nat) (sink : Bool) : State :=
  let x := s.str i
  if x.st ≠ .running then s
  else
    let y := { x with st := .cancelling, next := none, sunk := 0 }
    match x.fetched with
    | d :: _ =>
      if d.cxl = 1 && !sink then
        let y := { y with boundary := some d.k
                          next := if d.viafi && !d.chroma && !chromaHeld x d then x.next else none }
        s.setStr i (dropHeld y (atBoundary y))
      else (sendSterr s i stCancelled).setStr i (dropHeld y fun _ => false)
    | [] => s.setStr i y

/-- FLUSH: the shadow is discarded as well; its task's stream will not run (R260). DEDUCED: log 57. -/
def strFlush (s : State) (i : Nat) (sink : Bool) : State :=
  let x := s.str i
  let s := s.setStr i { x with shadow := none }
  let s := match x.shadow.bind fun a => cfgTask a.cfg with
    | some t => taskDrop (reportTask s t stCancelled) t i
    | none => s
  strCancel s i sink

/-- A stream faults: outstanding traffic ends as under SINK, the fault is logged and reported by scope,
and a task's stream into a local queue goes on to its fill (R263, R485). `at_` are the queues of the
descriptor that failed, where the stream does not hold it. -/
def strFaultOf (s : State) (i status addr off : Nat) (at_ : List (Nat × Nat)) : State :=
  let x := s.str i
  if x.st ≠ .running then s
  else
    let fills := x.task.isSome && x.fetched.any fun d => d.dkind == 1
    let y := dropHeld { x with st := .faulting, code := status, sunk := 0 } fun d => fills && d.dkind == 1
    let sunk := y.sunk + ((y.fetched.map (FDesc.held x)).foldl (· + ·) 0)
    let keep := y.fetched.map fun d =>
      if d.skind = 1 then
        { d with words := d.words.map fun w =>
          if (w.sb.map (·.marker)).getD false then w else ⟨0, none, false⟩ }
      else { d with raw := 0, rawLen := 0, out := 0, outLen := 0, words := [], rdDone := true }
    let y := { y with sunk := sunk, fetched := keep, fill := if fills then some status else none,
                      next := if fills then y.next else none }
    strReport ((sendSterr s i status).setStr i y) i status addr off x.task
      (pipeOfQueues s (at_ ++ strQueues x))

/-- A stream faults at a descriptor it holds. -/
def strFault (s : State) (i status addr off : Nat) : State := strFaultOf s i status addr off []

/-! ### Memory as a stream reads it -/

/-- A weight-bank window may be accessed: the slice's thread is halted or not started (R46). -/
def weightOpen (s : State) (w sl : Nat) : Bool :=
  let st := (s.slc w sl).st
  st == .halted || st == .notStarted

/-- What a 64-byte line of device memory reads as: the line, whether it is uncorrectable; none where it
is not device memory or is treated as unmapped (R42, R46). A correctable line of a weight window counts and is
queued for write-back as one that an MMA reads (R108). DEDUCED: log 173. -/
def lineRead (s : State) (a : Nat) : Option (Line × Bool × State) :=
  match regionOf s a with
  | .dram => some (dramRead s a)
  | .cistern w k o =>
    let r := cisternRead s w k (o / 64)
    some (r.1, false, r.2.2)
  | .weight w sl d o =>
    if weightOpen s w sl then
      let r := weightLine s w sl d (o / 64)
      some (r.1, false, r.2.2)
    else none
  | .scSram _ _ => some (s.mem.line (a / 64 * 64), false, s)
  | .regs _ | .host _ | .peer _ _ | .unmapped => none

/-- The words of a line. -/
def lineWords (l : Line) : List W64 := (List.range 8).map fun j => BitVec.ofNat 64 (laneOf l.toNat 64 j)

/-! ### Commands -/

/-- Registers a stream command reaches: the pump's cluster is always present (R238). -/
def strIx (p : PumpIx) (c : StreamIx) : Nat := 64 * p.val + c.val

/-- `PMP_ARM` (R258). -/
def execPmpArm (p : PumpIx) (c : StreamIx) (s : State) : Out := clocked s <|
  let x := s.str (strIx p c)
  .next (strArm s (strIx p c) ⟨x.head, x.cfg⟩).2

/-- `PMP_CANCEL` (R260). -/
def execPmpCancel (p : PumpIx) (c : StreamIx) (s : State) : Out := clocked s <| .next (strCancel s (strIx p c) false)

/-- `PMP_FLUSH` (R260). -/
def execPmpFlush (p : PumpIx) (c : StreamIx) (s : State) : Out := clocked s <| .next (strFlush s (strIx p c) false)

/-- A write of `PMP_SC_CTRL`: with more than one bit set, FLUSH wins, then CANCEL (R266). -/
def pmpCtrlWrite (s : State) (i : Nat) (v : W64) : State :=
  if bitAt v 29 then strFlush s i false
  else if bitAt v 30 then strCancel s i false
  else if bitAt v 31 then (strArm s i ⟨(s.str i).head, (s.str i).cfg⟩).2
  else s

/-- A fenced descriptor waits while earlier writes of the stream are not visible (R255). -/
def fenceHolds (x : Stream) (d : FDesc) : Bool :=
  d.fence && (!x.sigs.isEmpty || (x.fetched.head?.map (·.k)) != some d.k)

/-- A stream may read its next descriptor (R255, R485). -/
def wantsDesc (x : Stream) : Bool :=
  x.next.isSome && (x.st == .running || (x.st == .faulting && x.fill.isSome)
      || (x.st == .cancelling && x.boundary.isSome))
    && (decide (x.fetched.length < 5) || x.fill.isSome)
    && (x.fill.isSome || !x.fetched.any (fenceHolds x))

/-- The descriptor that arrives next is the chroma of a frame: the last VIAFI descriptor held is a luma
(R359). -/
def chromaNext (x : Stream) : Bool :=
  match (x.fetched.filter FDesc.viafi).getLast? with
  | some l => !l.chroma
  | none => false

/-- The descriptor at `next` arrives: checked, then held; a failure faults the stream, or ends its fill
(R248, R249, R262, R485). -/
def descArrive (s : State) (i a : Nat) (dw : List W64) : State :=
  let x := s.str i
  let d := FDesc.fresh x.nFetched a dw
  let st := descStatus s x d
  if st = 0 then
    s.setStr i { x with
      fetched := x.fetched ++ [{ d with
        rdDone := x.fill.isSome && d.skind == 0, chroma := d.viafi && chromaNext x }]
      nFetched := x.nFetched + 1
      next := if d.nextA = 0 || x.st == .cancelling then none else some d.nextA }
  else if x.boundary.isSome then boundaryLost s i
  else if x.fill.isSome then s.setStr i { x with next := none }
  else
    let s := s.setStr i { x with next := none }
    strFaultOf s i st a 0 d.queues

/-- A descriptor read failed (R262, R263, R485). -/
def descFail (s : State) (i status a : Nat) : State :=
  let x := s.str i
  let t := s.setStr i { x with next := none }
  if x.boundary.isSome then boundaryLost s i
  else if x.fill.isSome then t else strFault t i status a 0

/-- The stream's descriptor read is held in the host interface. -/
def descHeld (s : State) (p c : Nat) : Bool := s.hi.accs.any fun a => a.owner == .desc p c

/-- A descriptor read of host memory: over the module of R337, failed or with its line; while both mainbands are
down it is held, and it fails at once after a wait of 10 ms (R262, R337, R338). DEDUCED: log 60. -/
def descHost (s : State) (p c a h : Nat) (line : Line) (err : Bool) : State :=
  let i := 64 * p + c
  match hostRoute s h with
  | some m =>
    let s := bwCount s (32 + m) 0
    if err then descFail (hiError s 1 h) i stHostReadErr a else descArrive s i a (lineWords line)
  | none =>
    if s.hi.timedOut then descFail (hiError s 1 h) i stHostReadErr a
    else (hostIssue s false h 0 fullMask (.desc p c)).2

/-- `DESCRIPTOR_CHECK`: the next descriptor of the list is read and checked. One in host or peer memory
arrives as the operand. A host read waits for a mainband (R338). -/
def execDescriptorCheck (p : PumpIx) (c : StreamIx) (host : Line) (hostErr : Bool) (s : State) : Out := clocked s <|
  let i := strIx p c
  let x := s.str i
  match wantsDesc x && !descHeld s p.val c.val, x.next with
  | true, some a =>
    match regionOf s a with
    | .host h => .next (descHost s p.val c.val a h host hostErr)
    | .peer _ _ =>
      if hostErr then .next (descFail s i stLinkDown a) else .next (descArrive s i a (lineWords host))
    | _ =>
      match lineRead s a with
      | none => .next (descFail s i stStreamOob a)
      | some (l, ue, s) =>
        if ue then .next (descFail s i stEccUe a) else .next (descArrive s i a (lineWords l))
  | _, _ => .next s

/-- The fill of a faulted stream has nothing more to write. -/
def fillDone (x : Stream) : Bool := x.fill.isNone || (x.fetched.isEmpty && x.next.isNone)

/-- `CANCEL_COMPLETE`: with no read or write outstanding a cancelling stream ends CANCELLED, or with the
code of a pipeline reset's flush, a faulting one with its status (R261, R263, R264). -/
def execCancelComplete (p : PumpIx) (c : StreamIx) (s : State) : Out := clocked s <|
  let i := strIx p c
  let x := s.str i
  if x.reads.isEmpty && x.writes.isEmpty then
    if x.st = .cancelling && x.fetched.isEmpty then
      .next (strEnd (s.setStr i { x with disc := x.sunk }) i (x.fill.getD stCancelled))
    else if x.st = .faulting && fillDone x then
      .next (strEnd (s.setStr i { x with disc := x.sunk }) i x.code)
    else .next s
  else .next s

/-- The queue of a stream's queue side, and the level and word count that R253 measures there; words in
flight to the queue hold reserved places. -/
def tteMeasure (s : State) (x : Stream) : Option ((Bool × Nat) × Nat × Nat) :=
  match x.fetched with
  | [] => none
  | d :: _ =>
    match d.destQueue, d.srcQueue with
    | some (w, e), _ =>
      let q := s.sq w e
      some ((true, queueNo w e), q.filledCount + q.resv, q.r)
    | none, some (w, e) =>
      let q := s.sq w e
      some ((false, queueNo w e), q.freeCount, q.w)
    | none, none => none

/-- `TTE_SAMPLE`: the rate of the last complete 1,024 ns window and the time to empty (R253). A head descriptor
that names another queue begins the measurement afresh. DEDUCED: log 166. -/
def execTteSample (p : PumpIx) (c : StreamIx) (s : State) : Out := clocked s <|
  let i := strIx p c
  let x := s.str i
  if x.st = .idle then .next s
  else match tteMeasure s x with
    | none => .next s
    | some (at_, level, n) =>
      let gone := s.clk - x.tteWin
      let x := if x.tteQueue ≠ some at_ then
          { x with tteQueue := some at_, tteRate := 0, tteLast := n, tteWin := s.clk }
        else if 1024 ≤ gone then
          { x with tteRate := (n - x.tteLast) * 1024 / gone, tteLast := n, tteWin := s.clk }
        else x
      .next (s.setStr i { x with tte := Nat.min (level * 1024 / Nat.max x.tteRate 1) (2 ^ 20 - 1) })

end Sys2Proof.Machine
end

