-- ==== Sys2Proof/Machine/Dc.lean ====
section
/-! DEFINITION. The dispatch controller (chapter 13): device-initiated host accesses, intake and
completion rings, sources, admission and completion records. -/

namespace Sys2Proof.Machine

/-! ### Rings (R346 to R352) -/

/-- The DC stands still on a device-scoped fault (R481). -/
def dcRuns (s : State) : Bool := !s.bit rErrStatus 31

/-- EN of a ring. -/
def Ring.enabled (g : Ring) : Bool := bitAt g.cfg 31
/-- Slots of a ring; LOG2SIZE outside 4 to 16 is taken as the nearer bound (R363). -/
def Ring.size (g : Ring) : Nat := 2 ^ Nat.max 4 (Nat.min 16 (bits g.cfg 24 5))
/-- Ring base address. -/
def Ring.addr (g : Ring) : Nat := bits g.base 6 42 * 64
/-- Completion ring base address. -/
def Ring.caddr (g : Ring) : Nat := bits g.cbase 6 42 * 64

/-- Sets ring n. -/
def State.setRing (s : State) (n : Nat) (g : Ring) : State := { s with dc := s.dc.setRing n g }
/-- Sets pipeline p. -/
def State.setPipe (s : State) (p : Nat) (x : DcPipe) : State := { s with dc := s.dc.setPipe p x }

/-- A write of `DC_RING_TAIL`: one that would pass the size or move backward is discarded and sets OVR (R346). -/
def ringTail (s : State) (n v : Nat) : State :=
  let g := s.dc.ring n
  let fwd := (v + 2 ^ 32 - g.tail) % 2 ^ 32
  let ahead := (v + 2 ^ 32 - g.head) % 2 ^ 32
  if decide (2 ^ 31 ≤ fwd) || decide (g.size < ahead) then s.setRing n { g with ovr := true }
  else s.setRing n { g with tail := v }

/-- `DC_CRING_HEAD_WRITE` (R346). -/
def execDcCringHeadWrite (n : Fin 256) (v : W32) (s : State) : Out := clocked s <|
  .next (s.setRing n.val { s.dc.ring n.val with chead := v.toNat })

/-! ### Sources (R353) -/

/-- STATE of a source: 0 FREE, 1 ACTIVE, 2 DRAINING. -/
def srcState (s : State) (i : Nat) : Nat := bits (s.dc.src i) 62 2
/-- Pipeline of a source. -/
def srcPipe (s : State) (i : Nat) : Nat := bits (s.dc.src i) 59 3
/-- Ring of a source. -/
def srcRing (s : State) (i : Nat) : Nat := bits (s.dc.src i) 51 8
/-- Frame intake profile of a source. -/
def srcProf (s : State) (i : Nat) : Nat := bits (s.dc.src i) 47 4
/-- Frame intake unit of a source. -/
def srcFiu (s : State) (i : Nat) : Nat := bits (s.dc.src i) 46 1

/-- A source is held by its valve line (R354). -/
def srcHeld (s : State) (i : Nat) : Bool :=
  bitAt (s.dc.src i) 45 && valveLine s (bits (s.dc.src i) 40 5)

/-! ### The check of a descriptor (R349) -/

/-- Fields of a frame descriptor are inside R348 and its profile. -/
def frameOk (s : State) (d : WinDesc) : Bool :=
  let u := srcFiu s d.source
  let p := srcProf s d.source
  d.width % 2 == 0 && decide (64 ≤ d.width) && decide (d.width ≤ 8192)
    && d.height % 2 == 0 && decide (16 ≤ d.height) && decide (d.height ≤ 8192)
    && decide (d.width * fiBps s u p ≤ d.pitch) && decide (d.nroi ≤ 64)
    && s.hasFi u && fiProfileOk s u p && (fiRoi s u p || (fiCrop s u p d.width d.height).inside d.width d.height)

/-- Status with which a descriptor on ring n completes without running, or zero (R349). -/
def intakeStatus (s : State) (n : Nat) (d : WinDesc) : Nat :=
  let i := d.source
  if d.opc != 1 || !(List.range 8).all (fun j => dwOf d.dw j &&& dwOf intakeReserved j == 0)
      || srcState s i == 0 || srcRing s i != n || !(s.dc.pipe (srcPipe s i)).en || !frameOk s d then
    stDescInvalid
  else if srcState s i = 2 then stCancelled
  else 0

/-- The descriptor's turn has come among those of its source and the fences of its ring (R347). -/
def inTurn (opens : List (Nat × Nat)) (seen : List Nat) (fenced : Bool) (d : WinDesc) : Bool :=
  !fenced && !seen.contains d.source && (!d.fence || (opens.head?.map (·.1)) == some d.count)

/-- A pipeline may admit the descriptor: its source is active, on this ring, and of a resident pipeline. -/
def routed (s : State) (n : Nat) (d : WinDesc) : Bool :=
  srcState s d.source == 1 && srcRing s d.source == n && (s.dc.pipe (srcPipe s d.source)).en

/-- DESCRIPTOR_REJECT: descriptors of a window whose turn has come and which no pipeline can admit complete
without admission; those of a pipeline are checked as it admits them (R349, R353). DEDUCED: log 83. -/
def checkWindow (s : State) (n : Nat) (opens : List (Nat × Nat)) (seen : List Nat) (fenced : Bool) :
    List WinDesc → List WinDesc
  | [] => []
  | d :: r =>
    if d.done.isSome then d :: checkWindow s n opens seen fenced r
    else if d.opc = 0 then d :: checkWindow s n opens seen (fenced || d.fence) r
    else
      if inTurn opens seen fenced d && !routed s n d then
        { d with done := some (intakeStatus s n d, s.dt) } :: checkWindow s n opens seen fenced r
      else d :: checkWindow s n opens (d.source :: seen) (fenced || d.fence) r

/-- Ring n after anything its window waits for has changed. -/
def ringUpdate (s : State) (n : Nat) : State :=
  let g := s.dc.ring n
  ringSettle (s.setRing n { g with window := checkWindow s n g.open_ [] false g.window }) n

/-- Descriptors of a window whose turn to be admitted has come, with their source. One that completed without
admission holds its source until its record is due, so that no later record passes it (OP1, R15, R347). -/
def windowCands (s : State) (n : Nat) (opens : List (Nat × Nat)) (seen : List Nat) (fenced : Bool) :
    List WinDesc → List (Nat × Nat × WinDesc)
  | [] => []
  | d :: r =>
    if d.done.isSome then windowCands s n opens (d.orderKey :: seen) fenced r
    else if d.opc = 0 then windowCands s n opens seen (fenced || d.fence) r
    else
      let rest := windowCands s n opens (d.source :: seen) (fenced || d.fence) r
      if inTurn opens seen fenced d && routed s n d then (d.source, n, d) :: rest else rest

/-! ### Fetching (R347) -/

/-- Ring n has a descriptor to fetch: TAIL lies ahead of HEAD, counted modulo 2³² (R346, R347). -/
def ringReady (s : State) (n : Nat) : Bool :=
  let g := s.dc.ring n
  let ahead := (g.tail + 2 ^ 32 - g.head) % 2 ^ 32
  g.enabled && !g.stop && decide (0 < ahead) && decide (ahead < 2 ^ 31) && decide (g.window.length < 16)

/-- The ring whose turn it is (R347). -/
def nextRing (s : State) : Option Nat :=
  ((List.range 256).map fun j => (s.dc.rr + 1 + j) % 256).find? fun n => ringReady s n

/-- A fetched descriptor enters the window; HEAD moves on (R346, R347). -/
def intakeArrive (s : State) (n : Nat) (dw : List W64) : State :=
  let g := s.dc.ring n
  let d : WinDesc := ⟨dw, g.head, none⟩
  let s := s.setRing n { g with window := g.window ++ [d], head := (g.head + 1) % 2 ^ 32,
                                open_ := g.open_ ++ [(g.head, d.orderKey)] }
  ringUpdate { s with dc := { s.dc with rr := n } } n

/-- A failed descriptor read stops the ring; HEAD stays (R349). DEDUCED: log 83. -/
def intakeFail (s : State) (n a : Nat) : State :=
  let s := logOnly s (mkFault stHostReadErr 0 n a)
  let s := s.setRing n { s.dc.ring n with stop := true }
  { s with dc := { s.dc with rr := n } }

/-- `INTAKE_DESCRIPTOR_FETCH`: one descriptor of the ring whose turn it is; a slot in host memory
arrives as the operand and waits for a mainband (R338, R347). -/
def execIntakeDescriptorFetch (host : Line) (hostErr : Bool) (s : State) : Out := clocked s <|
  if s.dc.en && dcRuns s then
    match nextRing s with
    | none => .next s
    | some n =>
      let g := s.dc.ring n
      let a := g.addr + g.head % g.size * 64
      match regionOf s a with
      | .host h =>
        match hostRoute s h with
        | none => .next s
        | some m =>
          let s := bwCount s (32 + m) 0
          .next (if hostErr then intakeFail (hiError s 1 h) n a else intakeArrive s n (lineWords host))
      | _ =>
        match lineRead s a with
        | none => .next (intakeFail s n a)
        | some (l, ue, s) => .next (if ue then intakeFail s n a else intakeArrive s n (lineWords l))
  else .next s

/-! ### Admission (R354, R355, R561) -/

/-- A line the DC reads: status, line, state. Host memory gives free bytes, or HOST_READ_ERR (R337, R561). -/
def dcRead (s : State) (a : Nat) : Nat × Line × State :=
  match regionOf s a with
  | .host h =>
    let r := hostTry s false h
    (if r.1 then stHostReadErr else 0,
      lineOf ((List.range 64).map fun j => Config.hostByte r.2.freeCtr (a / 64 * 64 + j)), r.2)
  | _ =>
    match lineRead s a with
    | none => (stStreamOob, 0, s)
    | some (l, ue, s) => (if ue then stEccUe else 0, l, s)

/-- Writes a line of device memory or of the host: status, state (R42, R561). -/
def lineWrite (s : State) (a : Nat) (l : Line) : Nat × State :=
  match regionOf s a with
  | .dram => (0, dramWrite s a l fullMask)
  | .cistern w k o => (0, cisternWrite s w k (o / 64) l)
  | .weight w sl d o => if weightOpen s w sl then (0, weightWrite s w sl d (o / 64) l) else (stStreamOob, s)
  | .scSram _ _ => (0, { s with mem := s.mem.setLine (a / 64 * 64) l })
  | .host h =>
    let r := hostTry s true h
    (if r.1 then stHostReadErr else 0, r.2)
  | .regs _ | .peer _ _ | .unmapped => (stStreamOob, s)

/-- A template list: up to n descriptors from an address, in list order. DESIGN CHOICE: log 61. -/
def readTemplates (s : State) (a : Nat) : Nat → Nat × List (List W64) × State
  | 0 => (0, [], s)
  | n + 1 =>
    let r := dcRead s a
    let dw := lineWords r.2.1
    if r.1 ≠ 0 then (r.1, [], r.2.2)
    else
      let nx := bits (dwOf dw 7) 0 48
      if nx = 0 then (0, [dw], r.2.2)
      else
        let q := readTemplates r.2.2 nx n
        (q.1, dw :: q.2.1, q.2.2)

/-- Puts a field of an eight-word descriptor. -/
def putDw (l : List W64) (j lo len v : Nat) : List W64 := l.set j (putBits (dwOf l j) lo len v)

/-- An intake copy, filled (R355). -/
def fillIntake (s : State) (d : WinDesc) (j : Nat) (dw : List W64) : List W64 :=
  let bps := fiBps s (srcFiu s d.source) (srcProf s d.source)
  let dw := putDw dw 0 0 48 (if j = 0 then d.frame else d.chroma)
  let dw := putDw dw 1 0 20 (d.width * bps - 1)
  let dw := putDw dw 2 20 40 d.pitch
  let dw := putDw dw 2 0 20 ((if j = 0 then d.height else d.height / 2) - 1)
  putDw (putDw dw 6 54 4 (srcProf s d.source)) 6 53 1 (srcFiu s d.source)

/-- An output copy, filled (R355). -/
def fillOutput (d : WinDesc) (dw : List W64) : List W64 :=
  let f := FDesc.fresh 0 0 dw
  if f.dkind = 0 then putDw dw 6 0 48 ((d.result + f.dest) % 2 ^ 48) else dw

/-- The extent of a filled output descriptor lies within RSIZE bytes of RESULT (R355). -/
def outputFits (d : WinDesc) (dw : List W64) : Bool :=
  let f := FDesc.fresh 0 0 dw
  if f.dkind = 0 then
    let e := if f.skind = 0 then ((f.dest : Int), (f.dest : Int) + f.outTotal - 1) else f.extent f.dest
    decide ((d.result : Int) ≤ e.1) && decide (e.2 < (d.result : Int) + d.rsize)
  else true

/-- NEXT of each copy names the copy after it (R355). -/
def linkCopies (base : Nat) : Nat → List (List W64) → List (Nat × List W64)
  | _, [] => []
  | j, [a] => [(base + 64 * j, putDw a 7 0 48 0)]
  | j, a :: b :: r => (base + 64 * j, putDw a 7 0 48 (base + 64 * (j + 1))) :: linkCopies base (j + 1) (b :: r)

/-- Writes the copies; the first that fails gives the status (R561). DEDUCED: log 87. -/
def writeCopies (s : State) : List (Nat × List W64) → Nat × State
  | [] => (0, s)
  | (a, dw) :: r =>
    let q := lineWrite s a (BitVec.ofNat 512 (ofLanes 64 (dw.map (·.toNat))))
    if q.1 ≠ 0 then q else writeCopies q.2 r

/-- Tasks allowed in flight (R274, R277). -/
def depthOf (s : State) (p : Nat) : Nat := if (s.dc.pipe p).throughput then bits (s.well p).pipe 0 4 else 1

/-- Segments of a pipeline less one. -/
def segsOf (s : State) (p : Nat) : Nat := bits (s.well p).pipe 8 4

/-- The micro-batch of the present rotation is closed (R286). DEDUCED: log 55. -/
def batchClosed (s : State) (p : Nat) : Bool :=
  segsOf s p != 0 && ((s.well p).seg != 0
    || ((s.dc.pipe p).eos.map fun t => (s.dc.pipe p).flight.contains t).getD false)

/-- Nothing but its depth may hold pipeline p back from a task (R286, R355, R358, R488). -/
def admitOpen (s : State) (p : Nat) : Bool :=
  let x := s.dc.pipe p
  s.dc.en && dcRuns s && x.en && x.admitting && !s.pipeResetting p && !batchClosed s p
    && !(s.dc.armq.any fun q => q.1 == inStream s p)

/-- The pipeline may take a task now: fewer than D are in flight (R274). -/
def canAdmit (s : State) (p : Nat) : Bool :=
  admitOpen s p && decide ((s.dc.pipe p).flight.length < depthOf s p)

/-- The lowest free task number. -/
@[irreducible] def freeTask (s : State) : Option Nat := (List.range 1024).find? fun t => (s.dc.task t).desc.dw.isEmpty

/-- Output descriptors that name a peer hold a task back while the device leaves (R392). -/
def leavingHolds (s : State) (outs : List (List W64)) : Bool :=
  dstate s == 3 && outs.any fun dw => !(peersNamed s (FDesc.fresh 0 0 dw)).isEmpty

/-- Both template lists: status, intake, output. -/
def templatesOf (s : State) (p : Nat) : Nat × List (List W64) × List (List W64) × State :=
  let x := s.dc.pipe p
  let a := readTemplates s (bits x.inn 6 42 * 64) 2
  if a.1 ≠ 0 then (a.1, [], [], a.2.2)
  else
    let b := readTemplates a.2.2 (bits x.out 6 42 * 64) 2
    (b.1, a.2.1, b.2.1, b.2.2)

/-- What the admission of a descriptor comes to. -/
inductive Admission where
  /-- nothing can be done now -/
  | wait
  /-- an access to host memory waits for a mainband -/
  | held (h : Nat)
  /-- completed without admission, with a status -/
  | rejected (st : Nat) (s : State)
  | admitted (s : State)

/-- A task table entry is taken by a task of pipeline p (R355). -/
def admitEntry (s : State) (p t : Nat) (k : Task) : State :=
  let x := s.dc.pipe p
  { s with dc := (s.dc.setTask t k).setPipe p { x with flight := x.flight ++ [t] } }

/-- The micro-batch of a segmented pipeline closes once depth D is reached: the end-of-stream marker follows the
intake of the last task that runs. Where that intake is over, the marker enters its queue by itself (R284,
R286). DEDUCED: log 55. -/
def closeBatch (s : State) (p : Nat) : State :=
  let x := s.dc.pipe p
  if segsOf s p != 0 && x.eos.isNone && decide (depthOf s p ≤ x.flight.length) then
    match (x.flight.filter fun t => !(s.dc.task t).ended).getLast? with
    | none => s
    | some t =>
      let s := s.setPipe p { x with eos := some t }
      if (s.dc.task t).streams.contains (inStream s p) then s
      else match x.intakeQ with
        | some (w, e, c) => sideEnter s w e ⟨eosLine s (some t) 0, ⟨true, false, (s.str (inStream s p)).tag, c⟩⟩
        | none => s
  else s

/-- The streams of an admitted task queue for their contexts (R354). -/
def admitStreams (s : State) (p t base : Nat) (k : Task) : State :=
  let i := inStream s p
  let o := outStream s p
  let s := { s with dc := { s.dc.setTask t { k with streams := [i, o] } with
    armq := s.dc.armq ++ [(i, t, base), (o, t, base + 128)] } }
  dcArmNext (dcArmNext (closeBatch s p) i) o

/-- The copies of a task's templates are written and its streams queued; a status other than 0 faults
the task. -/
def admitCopies (s : State) (p t st : Nat) (d : WinDesc) (k : Task) (ins outs : List (List W64)) : State :=
  let base := bits s.dc.taskmem 12 36 * 4096 + 256 * t
  let q := if st ≠ 0 then (st, s)
    else writeCopies s (linkCopies base 0 ((List.range ins.length).map fun j =>
      fillIntake s d j (ins.getD j [])) ++ linkCopies (base + 128) 0 outs)
  let f := FDesc.fresh 0 0 (ins.getLast?.getD [])
  if q.1 ≠ 0 then closeBatch (dcSettle (taskFault q.2 t (mkFault q.1 0 0)) p) p
  else
    let s := q.2.setPipe p { q.2.dc.pipe p with
      intakeQ := f.destQueue.map fun e => (e.1, e.2, f.ctag) }
    admitStreams s p t base k

/-- The address of an access that the admission of task t would make to host memory and that has to wait: the
template lists and the task area (R338, R355). -/
def hostHeld (s : State) (p t : Nat) : Option Nat :=
  [bits (s.dc.pipe p).inn 6 42 * 64, bits (s.dc.pipe p).out 6 42 * 64,
    bits s.dc.taskmem 12 36 * 4096 + 256 * t].find? fun a => hostHolds s a

/-- Admits a descriptor of ring n to pipeline p as a task (R355, R561). -/
def admitTask (s : State) (p n : Nat) (d : WinDesc) (reissues : Nat) : Admission :=
  match freeTask s with
  | none => .wait
  | some t =>
    match hostHeld s p t with
    | some h => .held h
    | none =>
    let r := templatesOf s p
    let outs := r.2.2.1.map (fillOutput d)
    if leavingHolds s outs then .wait
    else if r.1 = 0 && !outs.all (outputFits d) then .rejected stDescInvalid r.2.2.2
    else
      let k : Task := { Task.none_ with pipe := p, ring := n, desc := d, source := d.source, inDt := r.2.2.2.dt,
                                        reissues := reissues }
      .admitted (admitCopies (admitEntry r.2.2.2 p t k) p t r.1 d k r.2.1 outs)

/-- Updates of sources that wait for an admission are taken (R353). DEDUCED: log 84. -/
def takeUpdates (s : State) : State :=
  let srcs := s.dc.srcNext.foldl (fun (m : SMap W64) e =>
    let old := SMap.get (fun _ => 0) m e.1
    SMap.set (fun _ => 0) m e.1 ((old &&& ~~~(0x00003FFF00000000 : W64)) ||| (e.2 &&& 0x00003FFF00000000)))
    s.dc.srcs
  { s with dc := { s.dc with srcs := srcs, srcNext := [] } }

/-- Tasks that pipeline p may take in, as source, ring and descriptor (R354). -/
def admissible (s : State) (p : Nat) : List (Nat × Nat × WinDesc) :=
  (s.dc.rings.flatMap fun e => windowCands s e.1 e.2.open_ [] false e.2.window).filter fun c =>
    srcPipe s c.1 == p && !srcHeld s c.1

/-- Sources of pipeline p that `VHOLD` holds back while a descriptor of theirs waits (R354). -/
def sourcesSkipped (s : State) (p : Nat) : List Nat :=
  (((s.dc.rings.flatMap fun e => windowCands s e.1 e.2.open_ [] false e.2.window).filter fun c =>
    srcPipe s c.1 == p && srcHeld s c.1).map (·.1)).eraseDups

/-- An attempt to admit is counted: each source that `VHOLD` holds back, and a cycle in which depth alone holds an
admissible task (R542). DEDUCED: log 183. -/
def admitNoted (s : State) (p : Nat) : State :=
  let t := (sourcesSkipped s p).foldl (fun (s : State) _ => event s 0 p 4) s
  if admitOpen s p && !canAdmit s p && (!(s.dc.pipe p).reissue.isEmpty || !(admissible s p).isEmpty) then
    event t 0 p 3
  else t

/-- The candidate of lowest source number from `lo` on. -/
def lowestFrom (l : List (Nat × Nat × WinDesc)) (lo : Nat) : Option (Nat × Nat × WinDesc) :=
  (l.filter fun c => decide (lo ≤ c.1)).foldl (fun (b : Option (Nat × Nat × WinDesc)) c =>
    match b with
    | none => some c
    | some q => if c.1 < q.1 then some c else b) none

/-- Weighted round robin: the task, and the round's new place (R354). -/
def roundRobin (s : State) (p : Nat) : Option ((Nat × Nat × WinDesc) × Nat × Nat) :=
  let x := s.dc.pipe p
  let l := admissible s p
  let again := if x.rrLeft = 0 then none else l.find? fun c => c.1 + 1 == x.rrSource
  match again with
  | some c => some (c, x.rrSource, x.rrLeft - 1)
  | none =>
    match (lowestFrom l x.rrSource).orElse fun _ => lowestFrom l 0 with
    | none => none
    | some c => some (c, c.1 + 1, bits (s.dc.src c.1) 32 8)

/-- The window of ring n without the descriptor of a count. -/
def windowDrop (s : State) (n count : Nat) : State :=
  let g := s.dc.ring n
  s.setRing n { g with window := g.window.filter fun d => d.count != count }

/-- A descriptor of a window completes without admission. -/
def windowDone (s : State) (n count st : Nat) : State :=
  let g := s.dc.ring n
  ringUpdate (s.setRing n { g with window := g.window.map fun d =>
    if d.count = count then { d with done := some (st, s.dt) } else d }) n

/-- A reissued descriptor completes without running: its record waits for those of the earlier descriptors of
its source in its ring (R491, R560). -/
def reissueDone (s : State) (p n : Nat) (d : WinDesc) (st : Nat) : State :=
  let before := ((s.dc.ring n).open_.takeWhile fun o => o.1 != d.count).filter fun o => o.2 == d.source
  let x := s.dc.pipe p
  heldMap (s.setPipe p { x with held := x.held ++ [⟨n, plainRecord d st s.dt, before.map (·.1), []⟩] }) p id

/-- An access of the DC waits in the host interface (R338). -/
def dcWaits (s : State) (a : Nat) : State :=
  match regionOf s a with
  | .host h =>
    if s.hi.accs.any fun q => q.owner == .dc then s else (hostIssue s false (h / 64 * 64) 0 fullMask .dc).2
  | _ => s

/-- `TASK_ADMIT`: the next task of pipeline p, reissued ones first; the DC checks a descriptor as it admits it
(R349, R354, R355, R491). -/
def execTaskAdmit (p : PipeIx) (s : State) : Out := clocked s <|
  let s := admitNoted s p.val
  if canAdmit s p.val then
    let s := takeUpdates s
    match (s.dc.pipe p.val).reissue with
    | (n, d, k) :: rest =>
      match admitTask s p.val n d k with
      | .wait => .next s
      | .held a => .next (dcWaits s a)
      | .rejected st s =>
        let s := s.setPipe p.val { s.dc.pipe p.val with reissue := rest }
        .next (reissueDone s p.val n d st)
      | .admitted s => .next (event (s.setPipe p.val { s.dc.pipe p.val with reissue := rest }) 0 p.val 1)
    | [] =>
      match roundRobin s p.val with
      | none => .next s
      | some (c, rs, rl) =>
        let st := intakeStatus s c.2.1 c.2.2
        if st ≠ 0 then .next (windowDone s c.2.1 c.2.2.count st)
        else
        match admitTask s p.val c.2.1 c.2.2 0 with
        | .wait => .next s
        | .held a => .next (dcWaits s a)
        | .rejected st s => .next (windowDone s c.2.1 c.2.2.count st)
        | .admitted s =>
          let s := s.setPipe p.val { s.dc.pipe p.val with rrSource := rs, rrLeft := rl }
          .next (event (ringUpdate (windowDrop s c.2.1 c.2.2.count) c.2.1) 0 p.val 1)
  else .next s

/-! ### Markers and barriers -/

/-- The DC looks at a marker a pump reports: a frame marker on a task's output stream that names another
task is a pipeline-scoped ABORTED (R356). -/
def dcMarker (s : State) (i : Nat) (wd : Word) : State :=
  match (s.str i).task with
  | none => s
  | some t =>
    match s.taskPipe t with
    | none => s
    | some p =>
      if markKind wd = 1 && i == outStream s p && markTask wd != some t then
        pipeFault s p (mkFault stAborted 0 p 0 (markDw0 wd)) (some t)
      else s

/-- `MARKER_REPORT` (R247, R356). -/
def execMarkerReport (p : PumpIx) (c : StreamIx) (wd : Word) (s : State) : Out := clocked s <|
  .next (if wd.sb.marker then dcMarker s (strIx p c) wd else s)

/-- ACTION_TABLE_ARM: the valid records of a barrier's entry are armed in order (R358). -/
def dcBarrier (s : State) (p b : Nat) : State :=
  let r := dcRead s (bits (s.dc.pipe p).act 6 42 * 64 + 64 * b)
  if r.1 ≠ 0 then r.2.2
  else
    (List.range 4).foldl (fun (s : State) j =>
      let d0 := dwOf (lineWords r.2.1) (2 * j)
      let d1 := dwOf (lineWords r.2.1) (2 * j + 1)
      if bitAt d0 63 then
        (strArm s (64 * bits d0 54 5 + bits d0 48 6)
          ⟨BitVec.ofNat 64 (bits d0 6 42 * 64), BitVec.ofNat 32 (bits d1 0 32)⟩).2
      else s) r.2.2

/-! ### Records (R350 to R352, R357) -/

/-- The 32 bytes of a record at completion count c (R350). -/
def recordBits (r : DoneRec) (c size dt : Nat) : Nat :=
  let dw0 := (r.status % 256) * 2 ^ 56 + (r.source % 4096) * 2 ^ 44 + (r.task % 1024) * 2 ^ 34
    + ((c / size + 1) % 2) * 2 ^ 32 + r.user % 2 ^ 32
  dw0 + (r.inDt % 2 ^ 64) * 2 ^ 64 + (dt % 2 ^ 64) * 2 ^ 128
    + ((r.seq % 2 ^ 32) * 2 ^ 32 + r.rbytes % 2 ^ 32) * 2 ^ 192

/-- A held record of an earlier descriptor of the source keeps a record of ring n back (OP1, R491). -/
def heldBefore (s : State) (n : Nat) (r : DoneRec) : Bool :=
  (List.range 8).any fun p => (s.dc.pipe p).held.any fun h =>
    h.ring == n && h.record.source == r.source
      && decide ((s.dc.ring n).place h.record.seq < (s.dc.ring n).place r.seq)

/-- Every earlier task in flight of the record's pipeline has its record issued (R276, R351). -/
def recordInOrder (s : State) (r : DoneRec) : Bool :=
  match r.pipe with
  | none => true
  | some p =>
    ((s.dc.pipe p).flight.takeWhile (· != r.task)).all fun t =>
      let k := s.dc.task t
      (s.dc.ring k.ring).writing.any fun w => w.pipe == some p && w.task == t

/-- A record waits for a free completion slot (R351). -/
def ringFull (g : Ring) : Bool := decide (g.size ≤ (g.ctail + 2 ^ 32 - g.chead) % 2 ^ 32)

/-- `COMPLETION_RECORD_WRITE`: the oldest due record of ring n goes into a free slot (R350, R351). -/
def execCompletionRecordWrite (n : Fin 256) (s : State) : Out := clocked s <|
  let g := s.dc.ring n.val
  match g.due with
  | [] => .next s
  | r :: rest =>
    if dcRuns s && !ringFull g && recordInOrder s r && !heldBefore s n.val r then
      let v := recordBits r g.ctail g.size s.dt
      let a := g.caddr + g.ctail % g.size * 32
      let s := event (s.setRing n.val { g with due := rest, writing := g.writing ++ [r],
                                               ctail := (g.ctail + 1) % 2 ^ 32 }) 0 (srcPipe s r.source) 2
      let sh := a % 64
      let l : Line := BitVec.ofNat 512 (v <<< (8 * sh))
      let m : BitVec 64 := BitVec.ofNat 64 (0xFFFFFFFF <<< sh)
      match regionOf s a with
      | .host h => .next (hostIssue s true (h / 64 * 64) l m (.ring n.val)).2
      | .dram => .next (dramWrite s (a / 64 * 64) l m)
      | _ => .next s
    else .next s

/-- Signals the ring's vector for every record written so far (R352). -/
def ringSignal (s : State) (n : Nat) : State :=
  let g := s.dc.ring n
  signalVec (s.setRing n { g with unsig := 0 }) (bits g.cfg 16 6)

/-- A record's task leaves the pipeline (R274). DEDUCED: log 86. -/
def taskGone (s : State) (r : DoneRec) : State :=
  match r.pipe with
  | none => s
  | some p =>
    let x := s.dc.pipe p
    { s with dc := { s.dc.setPipe p { x with
        flight := x.flight.erase r.task, eos := if x.eos = some r.task then none else x.eos } with
      tasks := SMap.erase s.dc.tasks r.task } }

/-- `COMPLETION_RECORD_WRITTEN`: the write of the oldest issued record has completed; its task is no
longer in flight, and the ring signals by R352. -/
def execCompletionRecordWritten (n : Fin 256) (s : State) : Out := clocked s <|
  let g := s.dc.ring n.val
  match g.writing with
  | [] => .next s
  | r :: rest =>
    if s.hi.accs.any fun a => a.owner == .ring n.val then .next s
    else
      let s := s.setRing n.val { g with
        writing := rest
        open_ := g.open_.filter fun o => o.1 != r.seq
        unsig := g.unsig + 1
        oldest := if g.unsig = 0 then s.clk else g.oldest }
      let s := heldRelease (taskGone s r) n.val r.seq
      let cnt := bits g.cfg 8 7
      let s := if r.irq || r.status != 0 || (cnt != 0 && decide (cnt ≤ g.unsig + 1)) then
        ringSignal s n.val else s
      .next (ringUpdate s n.val)

/-- `COALESCE_TIMEOUT` (R352). -/
def execCoalesceTimeout (n : Fin 256) (s : State) : Out := clocked s <|
  let g := s.dc.ring n.val
  let us := bits g.cfg 0 8
  if us != 0 && g.unsig != 0 && decide (g.oldest + 1000 * us ≤ s.clk) then .next (ringSignal s n.val)
  else .next s

/-- `HI_INT_MASK_WRITE`: vectors due and now unmasked send their message (R352). -/
def execHiIntMaskWrite (v : W64) (s : State) : Out := clocked s <| .next (sendAllPending (s.wr rHiIntMask v))

/-! ### Source and ring controls -/

/-- Bits of `DC_SRC_s` that software writes. -/
abbrev srcMask : W64 := 0xFFFFFFFF00000000

/-- A write that the table of R353 discards. -/
def srcRefuse (s : State) : State := { s with dc := { s.dc with srcErr := true } }

/-- A write of `DC_SRC_s` (R353). -/
def srcWrite (s : State) (i : Nat) (v : W64) : State :=
  match srcState s i, bits v 62 2 with
  | 0, 1 => { s with dc := s.dc.setSrc i (v &&& srcMask) }
  | 1, 1 => { s with dc := { s.dc with srcNext := SMap.set (fun _ => 0) s.dc.srcNext i v } }
  | 1, 2 =>
    let s := { s with dc := s.dc.setSrc i (putBits (s.dc.src i) 62 2 2) }
    ringUpdate s (srcRing s i)
  | _, _ => srcRefuse s

/-- `SOURCE_MAP`. -/
def execSourceMap (i : Fin 4096) (v : W64) (s : State) : Out := clocked s <| .next (srcWrite s i.val v)
/-- `SOURCE_UPDATE`. -/
def execSourceUpdate (i : Fin 4096) (v : W64) (s : State) : Out := clocked s <| .next (srcWrite s i.val v)
/-- `SOURCE_DRAIN`: a write with STATE DRAINING. -/
def execSourceDrain (i : Fin 4096) (s : State) : Out := clocked s <| .next (srcWrite s i.val 0x8000000000000000)

/-- `SOURCE_FREED`: a draining source with nothing in flight and no descriptor in its ring's window is
free (R353). -/
def execSourceFreed (i : Fin 4096) (s : State) : Out := clocked s <|
  let n := i.val
  if srcState s n = 2 && inFlightOf s n == 0
      && !(s.dc.pipe (srcPipe s n)).reissue.any (fun r => r.2.1.source == n)
      && !(s.dc.ring (srcRing s n)).window.any (fun d => d.orderKey == n) then
    .next { s with dc := { s.dc.setSrc n (putBits (s.dc.src n) 62 2 0) with
      srcNext := SMap.erase s.dc.srcNext n } }
  else .next s

/-- A write of `DC_RING_CFG` (R349, R363). -/
def ringCfgWrite (s : State) (n : Nat) (v : W32) : State :=
  let g := s.dc.ring n
  let v := v &&& 0x9F3F7FFF
  if g.enabled then
    if bitAt v 31 then s
    else
      ringSettle (s.setRing n { g with
        cfg := g.cfg &&& 0x7FFFFFFF
        window := g.window.map fun d => if d.done.isSome then d else { d with done := some (stCancelled, s.dt) } }) n
  else s.setRing n { g with cfg := v, stop := g.stop && !bitAt v 31 }

/-- `RING_ENABLE`: a write of `DC_RING_CFG` with EN set. -/
def execRingEnable (n : Fin 256) (cfg : W32) (s : State) : Out := clocked s <|
  .next (ringCfgWrite s n.val (cfg ||| 0x80000000))

/-- `RING_DISABLE`: a write with EN clear. -/
def execRingDisable (n : Fin 256) (cfg : W32) (s : State) : Out := clocked s <|
  .next (ringCfgWrite s n.val (cfg &&& 0x7FFFFFFF))

/-- ADMIT and MODE of a pipeline; a depth lowered to the tasks in flight closes their micro-batch (R274, R284,
R358). -/
def pipeControl (s : State) (p : Nat) (admitting throughput : Bool) : State :=
  closeBatch (s.setPipe p { s.dc.pipe p with admitting := admitting, throughput := throughput }) p

/-- `ADMIT_CONTROL`: a write of `DC_PIPE_CTRL` (R358). -/
def execAdmitControl (p : PipeIx) (admitting throughput : Bool) (s : State) : Out := clocked s <|
  .next (pipeControl s p.val admitting throughput)

end Sys2Proof.Machine
end

