-- ==== Sys2Proof/Machine/Harts.lean ====
section
/-! DEFINITION. Service-core harts (chapter 17): start and stop, traps, the Xcsq instructions; and the
completion of a barrier, which releases threads and harts and is reported to the DC (R280, R281, R292). -/

namespace Sys2Proof.Machine

/-- Number of core n of cluster c. -/
def hartIx (c : Fin 4) (n : Fin 8) : Nat := 8 * c.val + n.val

/-! ### Start, stop and traps -/

/-- A write of RUN: the core starts at `SC_CORE_PC` in M-mode with integer and vector registers zero
(R424). DEDUCED: log 119. -/
def hartRun (s : State) (c n : Nat) : State :=
  let i := 8 * c + n
  s.setHart i { s.hart i with
    run := .running, pc := s.rd (rScCorePc c n), m := true, x := [], v := [], arrived := false
    released := false, resv := none }

/-- A write of HALT: the core stops at the next instruction boundary; a held instruction has not
completed (R424). -/
def hartHalt (s : State) (c n : Nat) : State :=
  let i := 8 * c + n
  s.setHart i { s.hart i with run := .halted }

/-- `SC_RUN`. -/
def execScRun (c : Fin 4) (n : Fin 8) (s : State) : Out := clocked s <|
  .next (if s.hasSc c.val then hartRun s c.val n.val else s)

/-- `SC_HALT`. -/
def execScHalt (c : Fin 4) (n : Fin 8) (s : State) : Out := clocked s <|
  .next (if s.hasSc c.val then hartHalt s c.val n.val else s)

/-- Entry of a trap, as the RISC-V privileged specification that R422 names describes it: pc, cause and
value saved, interrupts off, the old mode and enable kept in `mstatus`, the handler's address taken from
`mtvec`. PRESUMED: log 115. -/
def Hart.trap (h : Hart) (cause tval : W64) : Hart :=
  let st := h.getCsr 0x300
  let st := putBits (putBits (putBits st 7 1 (bits st 3 1)) 3 1 0) 11 2 (if h.m then 3 else 0)
  let tv := h.getCsr 0x305
  let base := tv &&& ~~~(3 : W64)
  let pc := if bitAt cause 63 && bits tv 0 2 == 1 then base + 4 * (cause.setWidth 63).setWidth 64 else base
  let h := (((h.setCsr 0x300 st).setCsr 0x341 h.pc).setCsr 0x342 cause).setCsr 0x343 tval
  { h with pc := pc, m := true, run := .running }

/-- A machine external interrupt is enabled: always in U-mode, by `mstatus.MIE` in M-mode, and by
`mie.MEIE`. -/
def Hart.takesExternal (h : Hart) : Bool :=
  bitAt (h.getCsr 0x304) 11 && (!h.m || bitAt (h.getCsr 0x300) 3)

/-- The machine external interrupt is raised; a held instruction is abandoned and restarts on return
(R428, R430). DESIGN CHOICE: log 154. -/
def Hart.interrupt (h : Hart) : Hart :=
  let h := h.setCsr 0x344 (putBits (h.getCsr 0x344) 11 1 1)
  let h := { h with run := if h.run = HartRun.held then .running else h.run }
  if h.takesExternal then h.trap 0x800000000000000B 0 else h

/-- The hart takes instructions. -/
def Hart.live (h : Hart) : Bool := h.run == .running || h.run == .held

/-- The instruction completes. -/
def Hart.done (h : Hart) : Hart := { h with run := .running, pc := h.pc + 4 }

/-- A hart that is held. -/
def Hart.hold (h : Hart) : Hart := { h with run := .held }

/-! ### Loads and stores -/

/-- A loaded value of `size` bytes in a register: zero or sign extended. -/
def extended (size : Nat) (uns : Bool) (v : Nat) : W64 :=
  if uns then BitVec.ofNat 64 (v % 2 ^ (8 * size)) else BitVec.ofInt 64 (signedOf (8 * size) (v % 2 ^ (8 * size)))

/-- The load of a hart completes with a value. DEDUCED: log 120. -/
def hartLoaded (s : State) (i rd size : Nat) (uns : Bool) (v : Nat) : State :=
  s.setHart i ((s.hart i).done.setX rd (extended size uns v))

/-- The store of a hart completes. -/
def hartStored (s : State) (i : Nat) : State := s.setHart i (s.hart i).done

/-- An access-fault exception: load, or store and atomic (R42, R423). DEDUCED: log 121. -/
def accessFault (s : State) (i : Nat) (store : Bool) (addr : Nat) : State :=
  s.setHart i ((s.hart i).trap (if store then 7 else 5) (BitVec.ofNat 64 addr))

/-- An address-misaligned exception (R422). -/
def misaligned (s : State) (i : Nat) (store : Bool) (addr : Nat) : State :=
  s.setHart i ((s.hart i).trap (if store then 6 else 4) (BitVec.ofNat 64 addr))

/-- The bucket of a core's host access is answered; a core stopped meanwhile does not take it. -/
def hartAnswer (s : State) (i rd size : Nat) (uns wr : Bool) (addr : Nat) (data : Line) (failed : Bool) : State :=
  if (s.hart i).run = .bucket then
    if failed then accessFault s i wr (0x300000000000 + addr)
    else if wr then hartStored s i
    else hartLoaded s i rd size uns (data.toNat >>> (8 * (addr % 64)))
  else s

/-! ### Queue references -/

/-- Key of `xcsqsb`, which the specification gives no number: beyond every CSR number. -/
abbrev csrXcsqsb : Nat := 0x1000

/-- The pipeline a cluster is attached to (R427). -/
def clusterPipe (s : State) (c : Nat) : Option Nat :=
  if s.bit (rScClCtrl c) 31 then some (s.fld (rScClCtrl c) 28 3) else none

/-- Well and entry that a queue reference names, mapped as R316 and R317 map references; none outside the
grid, with no pipeline, or where the entry is disabled (R425 to R427). -/
def queueRef (s : State) (c : Nat) (r : W64) : Option (Nat × Nat) :=
  let e := bits r 0 10
  let v := bits r 10 3
  let m := s.rd (rScClMap c)
  let first := bits m 4 3
  let rev := bitAt m 7
  if (clusterPipe s c).isNone || decide (bits m 0 4 ≤ v) || decide (767 < e) then none
  else
    let w := if rev then first - v else first + v
    let e := if rev then 16 * (47 - e / 16) + e % 16 else e
    if (s.sq w e).enabled then some (w, e) else none

/-- SEL of a reference. -/
def refSel (r : W64) : Bool := bitAt r 13
/-- Sideband of a reference. -/
def refSb (r : W64) : Sideband := sbOf (bits r 16 10)

/-- The access-fault cause of an Xcsq instruction. The specification names the exception and not which of
the two data access faults it is. DESIGN CHOICE: log 116. -/
def xcsqCause (s : State) : W64 := if Config.unstated 7 s.freeCtr 0 % 2 = 0 then 5 else 7

/-- An access-fault exception with `mtval` set to rs1; nothing else changes (R426). -/
def xcsqFault (s : State) (i : Nat) (rs1 : W64) : State :=
  (s.setHart i ((s.hart i).trap (xcsqCause s) rs1)).drawn

/-- The instruction completes; with TRY it reports success in rd. DEDUCED: log 117. -/
def xcsqDone (s : State) (i : Nat) (try_ : Bool) (rd : Nat) : State :=
  let h := s.hart i
  s.setHart i (if try_ then h.done.setX rd 1 else h.done)

/-- The instruction would hold: it does, or with TRY does nothing and reports zero (R428). -/
def xcsqHold (s : State) (i : Nat) (try_ : Bool) (rd : Nat) : State :=
  let h := s.hart i
  s.setHart i (if try_ then h.done.setX rd 0 else h.hold)

/-- rs2 lies in 1 to 65,535 (R425). -/
def countOk (v : W64) : Bool := decide (1 ≤ v.toNat) && decide (v.toNat ≤ 0xFFFF)

/-- A core of a fitted cluster takes instructions. -/
def State.hartLive (s : State) (c : Fin 4) (n : Fin 8) : Bool :=
  s.hasSc c.val && (s.hart (hartIx c n)).live

/-- `CSQ.WAIT` (R425, R426, R428). -/
def execCsqWait (c : Fin 4) (n : Fin 8) (try_ : Bool) (rd : Fin 32) (rs1 rs2 : W64) (s : State) : Out := clocked s <|
  let i := hartIx c n
  .next (if !s.hartLive c n then s
    else
      match queueRef s c.val rs1 with
      | none => xcsqFault s i rs1
      | some (w, e) =>
        let q := s.sq w e
        if !q.isSem || !countOk rs2 then xcsqFault s i rs1
        else if rs2.toNat ≤ q.semCount (refSel rs1) then
          xcsqDone (sqPut s w e (q.semSub (refSel rs1) rs2.toNat)) i try_ rd.val
        else xcsqHold s i try_ rd.val)

/-- `CSQ.SIG`. -/
def execCsqSig (c : Fin 4) (n : Fin 8) (rs1 rs2 : W64) (s : State) : Out := clocked s <|
  let i := hartIx c n
  .next (if !s.hartLive c n then s
    else
      match queueRef s c.val rs1 with
      | none => xcsqFault s i rs1
      | some (w, e) =>
        if !(s.sq w e).isSem || !countOk rs2 then xcsqFault s i rs1
        else xcsqDone (semPort s w e (refSel rs1) rs2.toNat) i false 0)

/-- `CSQ.PEEK`. -/
def execCsqPeek (c : Fin 4) (n : Fin 8) (rd : Fin 32) (rs1 : W64) (s : State) : Out := clocked s <|
  let i := hartIx c n
  .next (if !s.hartLive c n then s
    else
      match queueRef s c.val rs1 with
      | none => xcsqFault s i rs1
      | some (w, e) =>
        let h := (s.hart i).done
        s.setHart i (h.setX rd.val (BitVec.ofNat 64 ((s.sq w e).semCount (refSel rs1)))))

/-- `CSQ.PUSH`: waits while FREE is zero. -/
def execCsqPush (c : Fin 4) (n : Fin 8) (try_ : Bool) (rd : Fin 32) (rs1 : W64) (vs2 : Fin 32)
    (s : State) : Out := clocked s <|
  let i := hartIx c n
  .next (if !s.hartLive c n then s
    else
      match queueRef s c.val rs1 with
      | none => xcsqFault s i rs1
      | some (w, e) =>
        if (s.sq w e).isSem then xcsqFault s i rs1
        else if (s.sq w e).canPush (retriesOf (s.well w) e + slotsComing (s.well w) e) then
          xcsqDone (sidePush s w e ⟨(s.hart i).getV vs2.val, refSb rs1⟩) i try_ rd.val
        else xcsqHold s i try_ rd.val)

/-- `CSQ.POP`: waits while no word can be read, or the schedule uses its bank (R29); the word's sideband goes to `xcsqsb`, whose bit 31
reports a TRY. -/
def execCsqPop (c : Fin 4) (n : Fin 8) (try_ : Bool) (vd : Fin 32) (rs1 : W64) (s : State) : Out := clocked s <|
  let i := hartIx c n
  .next (if !s.hartLive c n then s
    else
      match queueRef s c.val rs1 with
      | none => xcsqFault s i rs1
      | some (w, e) =>
        if (s.sq w e).isSem then xcsqFault s i rs1
        else if (s.sq w e).canPop && !sideReadFree s w e then s.setHart i (s.hart i).hold
        else if (s.sq w e).canPop then
          let r := sqSidePop s w e
          let h := (r.2.hart i).done
          let v := putBits (h.getCsr csrXcsqsb) 0 10 (sbBits r.1.sb)
          let v := if try_ then putBits v 31 1 1 else v
          r.2.setHart i ((h.setV vd.val r.1.data).setCsr csrXcsqsb v)
        else
          let h := s.hart i
          s.setHart i (if try_ then
            h.done.setCsr csrXcsqsb (putBits (h.getCsr csrXcsqsb) 31 1 0) else h.hold))

/-- `CSQ.BAR`: the arrival is counted once, and the hart is held until the barrier completes (R279, R425,
R428). -/
def execCsqBar (c : Fin 4) (n : Fin 8) (rs1 : W64) (s : State) : Out := clocked s <|
  let i := hartIx c n
  let h := s.hart i
  .next (if !s.hartLive c n then s
    else
      match clusterPipe s c.val with
      | none => xcsqFault s i rs1
      | some p =>
        if h.released then s.setHart i { h.done with released := false, arrived := false }
        else if h.arrived then s.setHart i h.hold
        else
          barArrive (s.setHart i { h.hold with arrived := true, barId := bits rs1 0 4 }) p
            (bits rs1 0 4))

/-! ### Completion of a barrier -/

/-- A hart that has arrived at barrier b: its instruction completes if it is still held in it. -/
def Hart.barFree (h : Hart) (b : Nat) : Hart :=
  if h.arrived && h.barId == b then
    if h.run = .held then { h.done with arrived := false, released := false } else { h with released := true }
  else h

/-- Harts of the clusters attached to pipeline p. -/
def pipeHarts (s : State) (p : Nat) : List Nat :=
  (List.range 32).filter fun i => clusterPipe s (i / 8) == some p

/-- Barrier b of pipeline p completes: its generation counts on, later arrivals are those of the new one,
and everything held in it is released; with DCN the DC takes its action table (R280, R281, R292,
R358). -/
def barComplete (s : State) (p b : Nat) : State :=
  let x := s.well p
  let k := x.bar b
  let n := Nat.min k.next (barCount k)
  let s := s.setWell p (x.setBar b { k with arrived := n, next := k.next - n, gen := (k.gen + 1) % 256 })
  let s := (s.pipeWells p).foldl (fun s w => barRelease s w b) s
  let s := (pipeHarts s p).foldl (fun (s : State) i => s.setHart i ((s.hart i).barFree b)) s
  if bitAt k.cfg 29 then dcBarrier s p b else s

/-- `BARRIER_COMPLETE` (R280). -/
def execBarrierComplete (p : PipeIx) (b : Fin 16) (s : State) : Out := clocked s <|
  .next (if s.pipeOf p.val = some p.val && barReady s p.val b.val then barComplete s p.val b.val else s)

end Sys2Proof.Machine
end

