-- ==== Sys2Proof/Machine/Mailbox.lean ====
section
/-! DEFINITION. The mailbox channels and the MP's queue (R341, R342, R433), and the MP-only reset (R435,
R496 to R498, R524). -/

namespace Sys2Proof.Machine

/-! ### Channels -/

/-- Key of a channel: 0 MAIN, 1 SIDE, 2 + 8c + n of core n of cluster c. -/
def mbKey : MbChan → Nat
  | .main => 0
  | .side => 1
  | .core c n => 2 + 8 * c.val + n.val

/-- Mailbox channel k. -/
def State.mbox (s : State) (k : Nat) : Mbox := SMap.get (fun _ => Mbox.reset) s.hi.mboxes k
/-- Writes a channel. -/
def State.setMbox (s : State) (k : Nat) (b : Mbox) : State :=
  { s with hi := { s.hi with mboxes := SMap.set (fun _ => Mbox.reset) s.hi.mboxes k b } }

/-- Request word i of a channel. -/
def Mbox.reqWord (b : Mbox) (i : Nat) : W64 := SMap.get (fun _ => 0) b.req i
/-- Response word i of a channel. -/
def Mbox.rspWord (b : Mbox) (i : Nat) : W64 := SMap.get (fun _ => 0) b.rsp i
/-- The eight request words. -/
def Mbox.words (b : Mbox) : List W64 := (List.range 8).map b.reqWord

/-- Number of a channel state (R363). -/
def MbState.code : MbState → Nat
  | .idle => 0 | .queued => 1 | .done => 2 | .busy => 3

/-- The MP's queue changes; `HI_MP_STATUS.MBQ` follows (R436). -/
def setMbQueue (s : State) (q : List MbReq) : State :=
  { s.setFld rHiMpStatus 15 5 q.length with mp := { s.mp with queue := q } }

/-- A write of 1 to a channel's DOOR: BUSY before phase 5 or with sixteen requests queued, discarded
while QUEUED, else the request is copied and queued (R341, R433, R509). DEDUCED: log 148. -/
def mbDoor (s : State) (k : Nat) : State :=
  let b := s.mbox k
  if !s.ready then s.setMbox k { b with st := .busy }
  else
    match b.st with
    | .queued => s
    | .idle | .done | .busy =>
      if 16 ≤ s.mp.queue.length then s.setMbox k { b with st := .busy }
      else setMbQueue (s.setMbox k { b with st := .queued }) (s.mp.queue ++ [⟨k, b.words⟩])

/-- The channel is there. -/
def State.hasChan (s : State) : MbChan → Bool
  | .main | .side => true
  | .core c _ => s.hasSc c.val

/-- A read of RSTAT: DONE and BUSY return to IDLE (R363). -/
def mbRstat (s : State) (k : Nat) : Nat × State :=
  let b := s.mbox k
  match b.st with
  | .done | .busy => (b.st.code, s.setMbox k { b with st := .idle })
  | .idle | .queued => (b.st.code, s)

/-- The path by which a channel's owner reads it. -/
def chanPath : MbChan → Path
  | .main => .u0
  | .side => .sideband
  | .core c _ => .sc c

/-- `MB_RSTAT_READ`. -/
def execMbRstatRead (ch : MbChan) (s : State) : Out := powered s <|
  if s.hasChan ch then
    let r := mbRstat s (mbKey ch)
    .next (respond r.2 (chanPath ch) true (leBytes r.1 4))
  else .next s

/-- A response is written: STATUS with the request's TAG and the payload; channel 0 signals its vector
(R341, R342). -/
def mbAnswer (s : State) (q : MbReq) (status : Nat) (payload : List W64) : State :=
  let w0 := q.words.getD 0 0
  let head : W64 := BitVec.ofNat 64 (status + bits w0 16 16 <<< 16 + Nat.min 7 payload.length <<< 32)
  let rsp := (List.range 8).foldl (fun (m : SMap W64) i =>
    SMap.set (fun _ => 0) m i (if i = 0 then head else payload.getD (i - 1) 0)) []
  let s := s.setMbox q.chan { s.mbox q.chan with rsp := rsp, st := .done }
  if q.chan = 0 then signalVec s (s.fld rHiCtrl 8 6) else s

/-! ### MP-only reset -/

/-- An attestation in progress is abandoned with RESULT ABORTED. -/
def attestAbort (s : State) : State :=
  if s.bit rSecAttest 30 then s.wr rSecAttest (BitVec.ofNat 64 (stAborted <<< 16)) else s

/-- A self-test pass that tests begins again at its first partition; one that commits is abandoned with
its copy torn (R507, the events of R524). -/
def sstMpReset (s : State) : State :=
  match s.fld rSstStatus 29 3 with
  | 1 => sstStart s s.sst.shutdown
  | 2 =>
    let s := tearCommit s
    sstStatus { s with sst := { s.sst with committing := false, testing := [] } } 4
  | _ => s

/-- An MP-only reset: every queued request is answered ABORTED, in queue order; RESETS counts; a
record commit is torn and an attestation abandoned. Everything else runs on (R435, R507, R541).
DEDUCED: log 122. -/
def mpReset (s : State) : State :=
  let s := s.mp.queue.foldl (fun s q => mbAnswer s q stAborted []) s
  let s := setMbQueue s []
  let s := attestAbort (sstMpReset s)
  let s := s.addWrap rHiMpStatus 0 15
  { s with mp := { s.mp with answer := none, begun := false, restarting := true } }

/-- `HI_RESET` is written with its key (R498, R510). -/
def hiReset (s : State) (v : W32) : State :=
  if bits v 0 16 ≠ resetKey then s
  else if bitAt v 31 then warmRequest s .register (bitAt v 29)
  else if bitAt v 30 then mpReset s
  else s

/-- `HI_RESET_MP`: taken with the key, outside the two reset levels that come before it (R497, R498). -/
def execHiResetMp (key : BitVec 16) (s : State) : Out :=
  .next (if s.boot.porst && s.boot.supply && s.boot.wrst then
      hiReset s (BitVec.ofNat 32 (1 <<< 30 + key.toNat))
    else s)

end Sys2Proof.Machine
end

