-- ==== Sys2Proof/Machine/WellOps.lean ====
section
/-! DEFINITION. A well's control (chapter 6): start and stop, writes of contexts, commit and unload,
captures; and the registers of the well block as reads and writes see them (R47, R79, R123 to R126, R153
to R156, R178 to R193, R235 to R237, R289 to R292). -/

namespace Sys2Proof.Machine

/-! ### Contexts -/

/-- Switch setting of unit f in context x. -/
def Well.swSet (y : Well) (x f : Nat) : W64 := SMap.get (fun _ => 0) y.switches (96 * x + f)
/-- Program word i of context x of a slice's thread. -/
def Slice.progWord (y : Slice) (x i : Nat) : W64 := SMap.get (fun _ => 0) y.prog (256 * x + i)

/-- A context takes writes in EMPTY and LOADING; a write makes it LOADING. A failed well is held in reset and takes
none (R25, R170, R179). -/
def ctxWrite (s : State) (w x : Nat) (f : Well → Well) : State :=
  let y := s.well w
  match y.ctxState x with
  | .empty | .loading => if y.run = .failed then s else s.setWell w (f (y.setCtx x .loading))
  | .committing | .committed => s

/-- Writes a half of a schedule word. -/
def swWrite (s : State) (w x f i half : Nat) (v : W64) : State :=
  ctxWrite s w x fun y => { y with sw := SMap.set (fun _ => 0) y.sw (swKey x f i half) v }
/-- Writes a switch setting. -/
def switchWrite (s : State) (w x f : Nat) (v : W64) : State :=
  ctxWrite s w x fun y => { y with switches := SMap.set (fun _ => 0) y.switches (96 * x + f) v }
/-- Writes a program word (R126). -/
def progWrite (s : State) (w i x n : Nat) (v : W64) : State :=
  ctxWrite s w x fun y => y.setSlice i { y.slice i with
    prog := SMap.set (fun _ => 0) (y.slice i).prog (256 * x + n) v }

/-- Context and group that the window shows (R188). -/
def smwCtx (y : Well) : Nat := bits y.smwSel 2 2
/-- GROUP. -/
def smwGroup (y : Well) : Nat := bits y.smwSel 0 2

/-- `SMW_WRITE`: through the window, of the selected context and, for a schedule word, the selected group;
a program word has a place of its own (R126, R178). -/
def execSmwWrite (w : WellIx) (a : SmwTarget) (v : W64) (s : State) : Out := clocked s <|
  let y := s.well w.val
  .next (if s.hasWell w.val then
      match a with
      | .word f i high =>
        if f.val / 32 = smwGroup y then swWrite s w.val (smwCtx y) f.val i.val (b2n high) v else s
      | .switch f => switchWrite s w.val (smwCtx y) f.val v
      | .program south sl x i => progWrite s w.val (sl.val + 4 * b2n south) x.val i.val v
    else s)

/-- The words whose CRC a commit checks, in order (R180). -/
def commitWords (y : Well) (x : Nat) : List W64 :=
  ((List.range 96).flatMap fun f => (List.range 512).flatMap fun i =>
      [y.swHalf x f i 0, y.swHalf x f i 1])
    ++ (List.range 96).map (y.swSet x)
    ++ (List.range 8).flatMap fun i => (List.range 256).map ((y.slice i).progWord x)

/-- Outputs that a schedule word's route masks name (R202, R209). -/
def wordNames (v : W128) (d : Nat) : Bool :=
  match swFields v with
  | some (_, .cu _ c) => routeHas c.route d
  | some (_, .mem m) => routeHas m.a.route d || routeHas m.b.route d
  | _ => false

/-- Output d of unit f has two drivers in context x (R181). -/
def wireConflict (y : Well) (x f d : Nat) : Bool :=
  let c := srcCode (y.swSet x f) d
  c != 0 && decide (c < 6) && (List.range 512).any fun i => wordNames (y.swWord x f i) d

/-- The first conflicting unit and direction. -/
def firstConflict (y : Well) (x : Nat) : Option (Nat × Nat) :=
  ((List.range 96).flatMap fun f => (List.range 4).map fun d => (f, d)).find? fun p =>
    wireConflict y x p.1 p.2

/-- `SF_COMMIT` is written: GO or UNLOAD of a context, unless the engine is busy or both are asked
(R179, R182, R188). DEDUCED: log 45. -/
def commitGo (s : State) (w x : Nat) : State :=
  let y := s.well w
  if y.busy.isSome || y.run == .failed then s
  else
    match y.ctxState x with
    | .empty | .loading => s.setWell w { y.setCtx x .committing with busy := some (false, x) }
    | .committing | .committed => s

/-- `SF_COMMIT_GO`. -/
def execSfCommitGo (w : WellIx) (ctx : BitVec 2) (s : State) : Out := clocked s <|
  .next (if s.hasWell w.val then commitGo s w.val ctx.toNat else s)

/-- The outcome of the walk over the wires: the first conflict, or none (R180, R181). -/
def commitVerdict (y : Well) (x : Nat) : Option (Nat × Nat) → Well
  | some p => { y.setCtx x .loading with result := 0x20, resUnit := p.1, resDir := p.2 }
  | none => { y.setCtx x .committed with result := 0 }

/-- A commit ends (R180, R181). -/
def commitEnd (s : State) (w x : Nat) : State :=
  let y := s.well w
  let y := { y with busy := none }
  s.setWell w (if crcWords (commitWords y x) ≠ y.commitCrc.toNat then
    { y.setCtx x .loading with result := 0x21 }
  else commitVerdict y x (firstConflict y x))

/-- `COMMIT_COMPLETE`. -/
def execCommitComplete (w : WellIx) (s : State) : Out := clocked s <|
  match (s.well w.val).busy with
  | some (false, x) => .next (commitEnd s w.val x)
  | _ => .next s

/-- A thread names context x: its current one, while it runs. -/
def threadNames (y : Well) (x : Nat) : Bool :=
  (List.range 8).any fun i => (y.slice i).active && (y.slice i).ctx == x

/-- An unload of context x is refused (R182). DEDUCED: log 46. -/
def unloadRefused (y : Well) (x : Nat) : Bool :=
  (y.run == .running && y.ctx == x)
    || ((List.range 96).any fun f => ((y.unit f).wait.map (·.ctx)) == some x)
    || threadNames y x
    || (y.run == .running && (y.ctlCtx == x || (List.range 8).any fun i => (y.slice i).ctlCtx == x))

/-- An unload is asked for (R182). -/
def unloadGo (s : State) (w x : Nat) : State :=
  let y := s.well w
  if y.busy.isSome || y.ctxState x != .committed then s
  else if unloadRefused y x then s.setWell w { y with result := 0x21 }
  else s.setWell w { y with busy := some (true, x) }

/-- `SF_COMMIT_UNLOAD`. -/
def execSfCommitUnload (w : WellIx) (ctx : BitVec 2) (s : State) : Out := clocked s <|
  .next (if s.hasWell w.val then unloadGo s w.val ctx.toNat else s)

/-- Keys from lo to hi − 1 leave a store: they read their default. -/
def clearRange {α : Type} (m : SMap α) (lo hi : Nat) : SMap α :=
  m.filter fun p => decide (p.1 < lo) || decide (hi ≤ p.1)

/-- Context x is cleared and EMPTY (R182). -/
def clearCtx (y : Well) (x : Nat) : Well :=
  let y := (List.range 8).foldl (fun (y : Well) i =>
    y.setSlice i { y.slice i with prog := clearRange (y.slice i).prog (256 * x) (256 * x + 256) }) y
  { y.setCtx x .empty with sw := clearRange y.sw (swKey x 0 0 0) (swKey (x + 1) 0 0 0)
                           switches := clearRange y.switches (96 * x) (96 * x + 96) }

/-- An unload ends. -/
def unloadEnd (s : State) (w x : Nat) : State :=
  s.setWell w { clearCtx (s.well w) x with busy := none, result := 0 }

/-- `UNLOAD_COMPLETE`. -/
def execUnloadComplete (w : WellIx) (s : State) : Out := clocked s <|
  match (s.well w.val).busy with
  | some (true, x) => .next (unloadEnd s w.val x)
  | _ => .next s

/-! ### Captures -/

/-- Sideband bits with VALID lowest (R163, R185). -/
def capSb (valid : Bool) (b : Sideband) : Nat := if valid then 1 + 2 * sbBits b else 0

/-- A line's eight words at offset o of a record. -/
def capLine (o : Nat) (l : Line) : List (Nat × Nat) :=
  (List.range 8).map fun i => (o / 8 + i, laneOf l.toNat 64 i)

/-- A word that output d has put on its link is still on its way. -/
def outValid (s : State) (w f d : Nat) : Bool :=
  (List.range 4).any fun ch =>
    match outDest s w f d ch with
    | .inside t => (s.well w).flights.any fun g => g.dest == t
    | .across t k _ => ((s.well t).crossing k).any fun p => p.1 != 0
    | .nowhere => false

/-- Pack phase of a unit at a `CVT`, of its reads or, when it widens, of its writes; and the issues still to
come before the one that writes (R220). DEDUCED: log 158. -/
def capCvt (y : Well) (f : Nat) : Nat × Nat :=
  let u := y.unit f
  match swFields (y.swWord y.ctx f u.pc) with
  | some (_, .cu .cvt c) =>
    let r := cvtRatio c.fmt c.ofmt
    let k := if u.reps = 0 then 0 else u.cvtPhase
    (k % Nat.max r.1 r.2, r.1 - 1 - k % r.1)
  | _ => (0, 0)

/-- The capture record of unit f, as 8-byte places and values (R185, R220). A loop count of 65,536
shows as 0. DEDUCED: log 43. DEDUCED: log 158. -/
def capRecord (s : State) (w f : Nat) : List (Nat × Nat) :=
  let y := s.well w
  let u := y.unit f
  let rep := bits (y.swWord y.ctx f u.pc) 96 16
  let cvt := capCvt y f
  let head : Nat := u.pc + y.ctx <<< 9 + b2n u.wait.isSome <<< 11
    + ((u.wait.map (·.ctx)).getD 0) <<< 12 + b2n ((u.wait.map (·.force)).getD false) <<< 14
    + (rep - u.reps) <<< 16 + u.preds.toNat <<< 32
  let loops := (List.range 4).map fun l =>
    let p := u.loops.getD l .none
    (1 + l, p.first + p.last <<< 16 + (p.left % 65536) <<< 32 + b2n p.active <<< 63)
  let ports := (List.range 5).flatMap fun i =>
    let q := u.port i
    (8 + i, q.length + b2n (decide (8 ≤ loadOf y (.port f i))) <<< 4
        + (match q.head? with | some wd => capSb true wd.sb | none => 0) <<< 5)
      :: capLine (0x80 + 64 * i) ((q.headD Word.zero).data)
  let outs := (List.range 4).flatMap fun d =>
    let wd := SMap.get (fun _ => Word.zero) u.outs d
    (0x78 + d, capSb (outValid s w f d) wd.sb) :: capLine (0x1C0 + 64 * d) wd.data
  let own := if f < 48 then
      (7, (List.range 16).foldl (fun v j => v + b2n (u.pendingReg j) <<< j) 0)
        :: (List.range 16).flatMap fun j => capLine (0x400 + 64 * j) (u.reg j)
    else (List.range 3).flatMap fun g =>
      let a := u.ag g
      let owed := if g = 0 then u.rOwedA.isSome else if g = 1 then u.rOwedB.isSome
        else u.wPend.any (·.late)
      (0x80 + 8 * g, (List.range 5).foldl (fun v d => v + (a.idx.getD d 0) <<< (12 * d)) 0
          + b2n a.ended <<< 60 + b2n owed <<< 61)
        :: (List.range 5).map fun k => (0x81 + 8 * g + k, (a.parts.getD k 0).toNat)
  (0, head) :: (6, u.tagT.toNat + (cvt.1 % 4) <<< 8 + (cvt.2 % 8) <<< 16) :: loops ++ ports ++ outs ++ own

/-- The records of every unit. -/
def capAll (s : State) (w : Nat) : SMap W64 :=
  (List.range 96).foldl (fun m f =>
    (capRecord s w f).foldl (fun m p =>
      SMap.set (fun _ => 0) m (256 * f + p.1) (BitVec.ofNat 64 p.2)) m) []

/-- A capture is triggered for a cause: 0 armed stroke, 1 NOW, 2 STALL_CYCLE. It is taken unless one
is held (R184, R190). -/
def capTake (s : State) (w cause : Nat) : State :=
  let y := s.well w
  let y := if cause = 1 then { y with capNow := false } else y
  if y.capValid then s.setWell w { y with capLost := true }
  else
    s.setWell w { y with cap := capAll s w, capValid := true, capCause := cause, capStroke := y.strokes
                         capArm := y.capArm && cause != 0 }

/-- `SF_CAPTURE` is written. `NOW` is taken at once in a well that is frozen or does not run, else at
the end of the stroke (R184, R190). -/
def captureWrite (s : State) (w : Nat) (v : W32) : State :=
  let y := s.well w
  let s := s.setWell w { y with capArm := bitAt v 31, capOnStall := bitAt v 29 }
  if !bitAt v 30 then s
  else if y.frozen || y.run != .running then capTake s w 1
  else s.setWell w { s.well w with capNow := true }

/-- `SF_CAPTURE_ARM`: the stroke, then the arming. -/
def execSfCaptureArm (w : WellIx) (at_ : W64) (onStall : Bool) (s : State) : Out := clocked s <|
  .next (if s.hasWell w.val then
      captureWrite (s.setWell w.val { s.well w.val with capAt := at_ }) w.val
        (BitVec.ofNat 32 (1 <<< 31 + b2n onStall <<< 29))
    else s)

/-- `SF_CAPTURE_NOW`; ARM and ON_STALL stay as they are. -/
def execSfCaptureNow (w : WellIx) (s : State) : Out := clocked s <|
  let y := s.well w.val
  .next (if s.hasWell w.val then
      captureWrite s w.val
        (BitVec.ofNat 32 (b2n y.capArm <<< 31 + 1 <<< 30 + b2n y.capOnStall <<< 29))
    else s)

/-- A capture is due at the end of a stroke (R184). -/
def capDue (y : Well) : Option Nat :=
  if y.capNow then some 1 else if y.capArm && y.strokes == y.capAt.toNat then some 0 else none

/-- Every capture due is taken. -/
def captureDue (s : State) (w : Nat) : State :=
  let s := if (s.well w).capNow then capTake s w 1 else s
  let y := s.well w
  if y.capArm && y.strokes == y.capAt.toNat then capTake s w 0 else s

/-- `CAPTURE_TAKEN`. -/
def execCaptureTaken (w : WellIx) (s : State) : Out := clocked s <|
  .next (if s.hasWell w.val && (capDue (s.well w.val)).isSome then captureDue s w.val else s)

/-! ### Start and stop -/

/-- Every unit clears as at a switch (R218). -/
def unitsCleared (y : Well) : Well :=
  (List.range 96).foldl (fun (y : Well) f => y.setUnit f (y.unit f).cleared) y

/-- The well starts at word 0 of `SF_CTRL.CTX`, or the write is discarded with a log entry (R172, R183,
R190, R218). -/
def wellStart (s : State) (w : Nat) : State :=
  let y := s.well w
  if y.run != .running && y.run != .failed && y.ctxState y.ctlCtx == .committed then
    let y := unitsCleared y
    s.setWell w { y with run := .running, frozen := false, ctx := y.ctlCtx, strokes := 0
                         frozenCount := 0, discCount := 0, watch := 0, seg := y.ctlCtx }
  else logOnly s (mkFault stCtxInvalid 3 (unitNo w 127))

/-- The well stops at the stroke boundary; switch waits are abandoned, and the side ports have every bank
(R29, R186). DEDUCED: log 44. -/
def wellStop (s : State) (w : Nat) : State :=
  let y := s.well w
  if y.run == .running then
    let y := (List.range 96).foldl (fun (y : Well) f =>
      y.setUnit f { y.unit f with wait := none }) y
    retryAll (s.setWell w { y with run := .stopped, frozen := false, watch := 0, banks := [] }) w
  else s

/-- A write of `SF_CTRL` (R186). -/
def sfCtrlWrite (s : State) (w : Nat) (v : W32) : State :=
  let s := s.setWell w { s.well w with ctlCtx := bits v 28 2 }
  if bitAt v 30 then wellStop s w else if bitAt v 31 then wellStart s w else s

/-- `SF_START`. -/
def execSfStart (w : WellIx) (ctx : BitVec 2) (s : State) : Out := clocked s <|
  .next (if s.hasWell w.val then
      sfCtrlWrite s w.val (BitVec.ofNat 32 (1 <<< 31 + ctx.toNat <<< 28))
    else s)

/-- `SF_STOP`; written with START it leaves the well stopped. -/
def execSfStop (w : WellIx) (ctx : BitVec 2) (start : Bool) (s : State) : Out := clocked s <|
  .next (if s.hasWell w.val then
      sfCtrlWrite s w.val (BitVec.ofNat 32 (b2n start <<< 31 + 1 <<< 30 + ctx.toNat <<< 28))
    else s)

/-! ### Registers of the control block -/

/-- Number of a run state (R187). -/
def RunState.code : RunState → Nat
  | .notStarted => 0 | .running => 1 | .stopped => 2 | .failed => 3
/-- Number of a context state (R189). -/
def CtxState.code : CtxState → Nat
  | .empty => 0 | .loading => 1 | .committing => 2 | .committed => 3

/-- A statistics status word: sticky flag (R193). -/
def statFlag (b : StatBlk) : Nat := b2n b.flag * 2 ^ 29
/-- `ME_STAT_SEQ` (R92). -/
def statSeq (b : StatBlk) : Nat := b.seq <<< 16 + b.nanSnap

/-- `SF_QUIET` (R291). -/
def quietWord (s : State) (w : Nat) : Nat :=
  let x := s.well w
  if x.run != .running then 0xF8000000
  else
    let a := quietPorts x
    let b := quietXing x
    let c := quietQueues s w
    let d := quietSlices x
    b2n (a && b && c && d) <<< 31 + b2n a <<< 30 + b2n b <<< 29 + b2n c <<< 28 + b2n d <<< 27

/-- A register of the well and fabric control block, as a read sees it. -/
def ctlRead (s : State) (w off : Nat) : Nat :=
  let y := s.well w
  if off < 0x100 then
    match off with
    | 0x00 => y.ctlCtx * 2 ^ 28
    | 0x08 => y.run.code * 2 ^ 30 + b2n y.frozen * 2 ^ 29 + y.cause * 2 ^ 26 + y.ctx * 2 ^ 24
        + ((List.range 96).filter fun f => (y.unit f).wait.isSome).length * 2 ^ 16
    | 0x10 => y.strokes
    | 0x18 => y.frozenCount
    | 0x20 => y.smwSel.toNat
    | 0x30 => y.commitCrc.toNat
    | 0x38 => b2n y.busy.isSome * 2 ^ 31 + y.result * 2 ^ 16 + y.resUnit * 2 ^ 9 + y.resDir * 2 ^ 7
    | 0x40 => y.capAt.toNat
    | 0x48 => b2n y.capArm * 2 ^ 31 + b2n y.capOnStall * 2 ^ 29
    | 0x50 => b2n y.capValid * 2 ^ 31 + b2n y.capLost * 2 ^ 30 + y.capCause * 2 ^ 28
    | 0x58 => y.capStroke
    | 0x60 => y.discUnit * 2 ^ 25 + y.discCount
    | 0x68 => (List.range 4).foldl (fun v x => v + (y.ctxState x).code * 2 ^ (2 * x)) 0
    | 0x70 => b2n y.repairUsed * 2 ^ 3 + y.repairCol
    | 0x78 => (y.dld &&& 0x8000001F).toNat + y.dldCause * 2 ^ 29
    | 0x80 | 0x88 | 0x90 | 0x98 => (SMap.get (fun _ => 0) y.vtap ((off - 0x80) / 8)).toNat
    | 0xA0 => (y.pipe &&& 0x87770F0F).toNat + y.seg * 2 ^ 4
    | 0xA8 => quietWord s w
    | _ => 0
  else if off < 0x180 then
    let b := y.bar ((off - 0x100) / 8)
    if s.pipeOf w = some w then
      (b.cfg &&& 0xFC7F0000).toNat + (b.arrived % 256) * 2 ^ 8 + b.gen % 256
    else 0
  else if 0x1000 ≤ off && off < 0x1180 then
    let m := y.mu ((off - 0x1000) / 8)
    m.count * 2 ^ 16 + m.word * 2 ^ 2 + 2 * b2n m.ue + b2n m.ce
  else if 0x4000 ≤ off && off < 0x7000 then
    let b := y.cuStats ((off - 0x4000) / 0x100)
    let o := off % 0x100
    if o < 0x80 then SMap.get (fun _ => 0) b.maxSnap (o / 8)
    else if o = 0x80 then statFlag b
    else if o = 0x88 then b.ctrl.toNat
    else if o = 0x90 then statSeq b
    else if o = 0x98 then b.satSnap else 0
  else 0

/-- Offsets of 64-bit registers in the control block. -/
def ctlWide (off : Nat) : Bool := off == 0x10 || off == 0x18 || off == 0x40 || off == 0x58

/-- A write of `SF_BAR_b`: RWL, and only in the home well (R292). -/
def barWrite (s : State) (w b : Nat) (v : W32) : State :=
  let y := s.well w
  if wellLocked s w || s.pipeOf w != some w then s
  else s.setWell w (y.setBar b { y.bar b with cfg := v &&& 0xFC7F0000 })

/-- A write to the control block. -/
def ctlWrite (s : State) (w off : Nat) (v : W64) : State :=
  let y := s.well w
  let v32 := v.setWidth 32
  if off < 0x100 then
    match off with
    | 0x00 => sfCtrlWrite s w v32
    | 0x20 => s.setWell w { y with smwSel := v32 &&& 0xF }
    | 0x28 =>
      if bitAt v 31 && bitAt v 30 then s
      else if bitAt v 31 then commitGo s w (bits v 0 2)
      else if bitAt v 30 then unloadGo s w (bits v 0 2) else s
    | 0x30 => s.setWell w { y with commitCrc := v32, oldCrcs := (y.commitCrc :: y.oldCrcs).take 3 }
    | 0x40 => s.setWell w { y with capAt := v }
    | 0x48 => captureWrite s w v32
    | 0x50 => s.setWell w { y with capValid := y.capValid && !bitAt v 31
                                   capLost := y.capLost && !bitAt v 30 }
    | 0x78 => s.setWell w { y with dld := v32 &&& 0x8000001F }
    | 0x80 | 0x88 | 0x90 | 0x98 =>
      let t := s.setWell w { y with
        vtap := SMap.set (fun _ => 0) y.vtap ((off - 0x80) / 8) (v32 &&& 0xC00003FF) }
      let k := 4 * w + (off - 0x80) / 8
      if valveLine t k && !valveLine s k then event t 0 k 5 else t
    | 0xA0 => if wellLocked s w then s else s.setWell w { y with pipe := v32 &&& 0x87770F0F }
    | _ => s
  else if off < 0x180 then barWrite s w ((off - 0x100) / 8) v32
  else if 0x1000 ≤ off && off < 0x1180 then
    let k := (off - 0x1000) / 8
    let m := y.mu k
    s.setWell w (y.setMu k { m with ue := m.ue && !bitAt v 1, ce := m.ce && !bitAt v 0
                                    count := if bitAt v 0 then 0 else m.count })
  else if 0x4000 ≤ off && off < 0x7000 then
    let k := (off - 0x4000) / 0x100
    let b := y.cuStats k
    if off % 0x100 = 0x88 then s.setWell w (y.setCuStats k (b.write v32))
    else if off % 0x100 = 0x80 then
      s.setWell w (y.setCuStats k { b with flag := b.flag && !bitAt v 29 })
    else s
  else s

/-! ### Registers of a slice -/

/-- The thread of slice i of well w. -/
def thOf (w i : Nat) : Thread := ⟨Fin.ofNat 16 (meOf w i), Fin.ofNat 4 i⟩

/-- Number of a thread state (R155). -/
def ThState.code : ThState → Nat
  | .notStarted => 0 | .issuing => 1 | .hold => 2 | .threadWait => 3 | .freezing => 4 | .halted => 5
  | .faulted => 6
/-- Number of a wait (R155). -/
def ThWait.code : ThWait → Nat
  | .none => 0 | .inChannel => 1 | .outPort => 2 | .qwait => 3 | .semwait => 4 | .bar => 5
  | .marker => 6 | .thread => 7

/-- What the thread waits for, while it waits. -/
def Slice.waitCode (y : Slice) : Nat :=
  match y.st with
  | .freezing | .threadWait => y.wait.code
  | _ => 0

/-- `MSQ_STATUS` (R155). -/
def msqStatus (y : Slice) : Nat :=
  y.st.code <<< 29 + y.ctx <<< 27 + y.waitCode <<< 24 + y.pc <<< 16 + y.code

/-- BANK_OP of `ME_SLICE_STATUS`; `wb` says that the last stroke served a write-back (R123). -/
def bankOpCode (wb : Bool) : Option BankOp → Nat
  | none => if wb then 5 else 0
  | some (.mma _ _ _ _ _ _) => 1
  | some (.wld _ _) => 2
  | some (.wdyn _ _) => 3
  | some (.relay _ _) => 4

/-- ACC_KIND of the current context: the kind of the first MMA pair its program names (R103, R123); where it
names none, the kind of the latest run. DEDUCED: log 161. -/
def accKindOf (y : Slice) : Bool :=
  (((y.prog.filter fun p => p.1 / 256 == y.ctx).filterMap fun p =>
    match decodeMsq p.2 with
    | some (.mma f) | some (.mmaz f) => (pairOf f.afmt f.wfmt).map fun q => !q.int32
    | _ => none).head?).getD y.accKind

/-- A register of a slice block, as a read sees it (R79, R123, R124, R153 to R156). -/
def sliceRead (s : State) (w i off : Nat) : Nat :=
  let y := s.slc w i
  if off < 0x800 then (y.scaleOf (off / 8)).toNat
  else if off < 0x1000 then SMap.get (fun _ => 0) y.stat.maxSnap ((off - 0x800) / 8)
  else if 0x1800 ≤ off && off < 0x2000 then (y.rowOf ((off - 0x1800) / 8)).toNat
  else
    match off with
    | 0x1000 => y.zp.toNat
    | 0x1008 => b2n y.streamed * 2 ^ 31 + b2n (y.streamed && y.mx) * 2 ^ 30 + statFlag y.stat
        + b2n y.tagErr * 2 ^ 28 + y.tagExp.toNat * 2 ^ 18 + y.tagGot.toNat * 2 ^ 12
    | 0x1010 => y.stat.ctrl.toNat
    | 0x1018 => statSeq y.stat
    | 0x1020 => y.stat.satSnap
    | 0x1028 => b2n y.failed * 2 ^ 31 + y.spares * 2 ^ 24 + bankOpCode y.wbNow y.bankOp * 2 ^ 20
        + b2n (!y.outQ.isEmpty) * 2 ^ 19 + b2n y.relayPass * 2 ^ 18 + b2n (accKindOf y) * 2 ^ 17
        + b2n y.wsDyn * 2 ^ 16
    | 0x1030 => y.wsCount * 2 ^ 16 + y.wsDpu * 2 ^ 8 + y.wsLine * 2 ^ 2 + 2 * b2n y.wsUe + b2n y.wsCe
    | 0x1040 => y.ctlCtx * 2 ^ 28 + b2n y.swflag * 2 ^ 27
    | 0x1048 => msqStatus y
    | 0x1050 => y.disc
    | 0x1058 => y.limE * 2 ^ 8 + y.duty
    | _ => 0

/-- A write to a slice block. Scales, zero points and row sums are taken while the thread is quiet (R78,
R87). -/
def sliceWrite (s : State) (w i off : Nat) (v : W64) : State :=
  let y := s.slc w i
  let v32 := v.setWidth 32
  if off < 0x800 then meScaleWrite s w i (off / 8) v32
  else if 0x1800 ≤ off && off < 0x2000 then
    if y.quietThread then s.setSlc w i (y.setRow ((off - 0x1800) / 8) v32) else s
  else
    match off with
    | 0x1000 => if y.quietThread then s.setSlc w i { y with zp := v32 &&& 0x00FFFFFF } else s
    | 0x1008 => s.setSlc w i { y with tagErr := y.tagErr && !bitAt v 28
                                      stat := { y.stat with flag := y.stat.flag && !bitAt v 29 } }
    | 0x1010 => statCtrlWrite s (.slice (thOf w i)) v32
    | 0x1030 => s.setSlc w i { y with wsUe := y.wsUe && !bitAt v 1, wsCe := y.wsCe && !bitAt v 0
                                      wsCount := if bitAt v 0 then 0 else y.wsCount }
    | 0x1040 => msqCtrlWrite s w i v32
    | _ => s

/-! ### Registers of a stage-queue entry -/

/-- A position in the ring. -/
def SqEntry.pos (q : SqEntry) (p : Nat) : Nat := p % Nat.max 1 q.size

/-- A register of entry e, as a read sees it (R235, R236). -/
def sqRead (s : State) (w e off : Nat) : Nat :=
  let q := s.sq w e
  match off with
  | 0x00 => q.cfg.toNat
  | 0x08 => q.wm.toNat
  | 0x10 => q.ovfBase.toNat
  | 0x18 => q.ovfSize.toNat
  | 0x20 => Nat.min q.filledCount 0xFFFF <<< 16 + Nat.min q.freeCount 0xFFFF
  | 0x28 => q.pos q.m <<< 48 + b2n q.armed <<< 47 + q.pos q.f <<< 32 + q.pos q.t <<< 16 + q.pos q.r
  | 0x30 => b2n q.valve <<< 31 + b2n q.spilling <<< 30 + b2n q.semOvf <<< 29 + b2n q.nomark <<< 28
      + (q.staging.length + q.regionUsed)
  | 0x38 => q.filledCount <<< 32 + (q.w - q.f) % 2 ^ 32
  | _ => 0

/-- Offsets of 64-bit registers in an entry. -/
def sqWide (off : Nat) : Bool := off == 0x10 || off == 0x28 || off == 0x38

/-- A write to an entry (R16, R222, R235, R236). -/
def sqWrite (s : State) (w e off : Nat) (v : W64) : State :=
  let q := s.sq w e
  let v32 := v.setWidth 32
  match off with
  | 0x00 => sqCfgWrite s w e v32
  | 0x08 => if wellLocked s w then s else sqPut s w e { q with wm := v32 }
  | 0x10 => if wellLocked s w then s else sqPut s w e { q with ovfBase := v &&& 0x0000FFFFFFFFF000 }
  | 0x18 => if wellLocked s w then s else sqPut s w e { q with ovfSize := v32 &&& 0xFFFF }
  | 0x20 => sqSemWrite s w e v32
  | 0x30 => s.setSq w e { q with semOvf := q.semOvf && !bitAt v 29, nomark := q.nomark && !bitAt v 28 }
  | _ => s

/-! ### The schedule-memory window -/

/-- A place of the window as a read sees it (R178). -/
def windowRead (s : State) (w off : Nat) : Nat :=
  let y := s.well w
  if off < 0x40000 then
    if smwGroup y = 3 then 0
    else (y.swHalf (smwCtx y) (32 * smwGroup y + off / 0x2000) (off % 0x2000 / 16) (off / 8 % 2)).toNat
  else if off < 0x40300 then (y.swSet (smwCtx y) ((off - 0x40000) / 8)).toNat
  else if 0x50000 ≤ off && off < 0x80000 then
    (SMap.get (fun _ => 0) y.cap ((off - 0x50000) / 8)).toNat
  else 0

/-- The window offset exists (R178). -/
def windowMapped (y : Well) (off : Nat) : Bool :=
  (decide (off < 0x40000) && smwGroup y != 3) || (decide (0x40000 ≤ off) && decide (off < 0x40300))
    || (decide (0x50000 ≤ off) && decide (off < 0x80000))

/-- A write through the window. -/
def windowWrite (s : State) (w off : Nat) (v : W64) : State :=
  let y := s.well w
  if off < 0x40000 then
    if smwGroup y = 3 then s
    else swWrite s w (smwCtx y) (32 * smwGroup y + off / 0x2000) (off % 0x2000 / 16) (off / 8 % 2) v
  else if off < 0x40300 then switchWrite s w (smwCtx y) ((off - 0x40000) / 8) v
  else s

/-! ### The well block -/

/-- A register of the block of well w, at an offset that is a multiple of 8 (R47). -/
def wellRead (s : State) (w off : Nat) : Nat :=
  if off < 0x10000 then ctlRead s w off
  else if off < 0x30000 then
    let south := decide (0x20000 ≤ off)
    let o := off % 0x10000
    if o < 0x8000 then
      ((s.slc w (o / 0x2000 + 4 * b2n south)).progWord (o % 0x2000 / 0x800) (o % 0x800 / 8)).toNat
    else sliceRead s w ((o - 0x8000) / 0x2000 + 4 * b2n south) (o % 0x2000)
  else if 0x40000 ≤ off && off < 0x4C000 then sqRead s w ((off - 0x40000) / 0x40) (off % 0x40)
  else if 0x80000 ≤ off then windowRead s w (off - 0x80000)
  else 0

/-- Is the register at an offset 64 bits wide? -/
def wellWide (off : Nat) : Bool :=
  if off < 0x10000 then ctlWide off
  else if off < 0x30000 then decide (off % 0x10000 < 0x8000)
  else if 0x40000 ≤ off && off < 0x4C000 then sqWide (off % 0x40)
  else decide (0x80000 ≤ off)

/-- A write to the block of well w. -/
def wellWrite (s : State) (w off : Nat) (v : W64) : State :=
  if off < 0x10000 then ctlWrite s w off v
  else if off < 0x30000 then
    let south := decide (0x20000 ≤ off)
    let o := off % 0x10000
    if o < 0x8000 then
      progWrite s w (o / 0x2000 + 4 * b2n south) (o % 0x2000 / 0x800) (o % 0x800 / 8) v
    else sliceWrite s w ((o - 0x8000) / 0x2000 + 4 * b2n south) (o % 0x2000) v
  else if 0x40000 ≤ off && off < 0x4C000 then sqWrite s w ((off - 0x40000) / 0x40) (off % 0x40) v
  else if 0x80000 ≤ off then windowWrite s w (off - 0x80000) v
  else s

end Sys2Proof.Machine
end

