-- ==== Sys2Proof/Machine/Views.lean ====
section
/-! DEFINITION. Register space as a read sees it (R47, R48): the value of every register of every block
at its 8-byte place, and which registers are 64 bits wide. -/

namespace Sys2Proof.Machine

/-! ### Blocks -/

/-- Partition n is under test (R514). -/
def partTesting (s : State) (n : Nat) : Bool := s.sst.testing.contains n

/-- The partition of the self-test that holds a place of a well's block: a slice, else the hub. -/
def wellPart (w off : Nat) : Nat :=
  if 0x10000 ≤ off ∧ off < 0x30000 then
    let o := off % 0x10000
    4 * (if off < 0x20000 then w else w + 8) + (if o < 0x8000 then o / 0x2000 else (o - 0x8000) / 0x2000)
  else 104 + w

/-- Does a register offset answer as the block of an absent unit: a unit fused off (R5), one under test
(R514), or no unit at all (R47)? -/
def blockAbsent (s : State) (off : Nat) : Bool :=
  if off < 0x20000 then false
  else if off < 0x30000 then partTesting s 142
  else if off < 0x40000 then
    let u := (off - 0x30000) / 0x1000
    !s.hasFi u || partTesting s (140 + u)
  else if off < 0x90000 then false
  else if off < 0xA0000 then partTesting s 142
  else if off < 0xB0000 then false
  else if off < 0x100000 then true
  else if off < 0x180000 then
    let n := (off / 0x10000 - 0x10)
    !s.hasMc n || partTesting s (112 + n)
  else if off < 0x200000 then true
  else if off < 0x260000 then
    let n := (off / 0x10000 - 0x20)
    !s.hasLink n || partTesting s (128 + n)
  else if off < 0x300000 then true
  else if off < 0x380000 then partTesting s (120 + (off / 0x10000 - 0x30))
  else if off < 0x400000 then true
  else if off < 0xC00000 then
    let w := (off - 0x400000) / 0x100000
    !s.hasWell w || partTesting s (wellPart w (off % 0x100000))
  else if off < 0x1000000 then
    let c := (off - 0xC00000) / 0x100000
    !s.hasSc c || partTesting s (134 + c)
  else if off < 0x1040000 then partTesting s 142
  else true

/-! ### Mailbox places -/

/-- The mailbox channel and the place in it that an offset names. -/
def mbPlace (off : Nat) : Option (Nat × Nat) :=
  if 0x10100 ≤ off ∧ off < 0x10300 then some ((off - 0x10100) / 0x100, off % 0x100)
  else if 0xC00000 ≤ off ∧ off < 0x1000000 then
    let r := off % 0x100000
    if 0x2000 ≤ r ∧ r < 0x2800 then
      some (2 + 8 * ((off - 0xC00000) / 0x100000) + (r - 0x2000) / 0x100, r % 0x100)
    else none
  else none

/-- A mailbox place as a read sees it. -/
def mbView (s : State) (k o : Nat) : Nat :=
  let b := s.mbox k
  if o < 0x40 then (b.reqWord (o / 8)).toNat
  else if 0x80 ≤ o ∧ o < 0xC0 then (b.rspWord ((o - 0x80) / 8)).toNat
  else if o = 0xC0 then b.st.code
  else 0

/-! ### Views of a block -/

/-- The HI block (R363). -/
def hiView (s : State) (off : Nat) : Nat :=
  if off = 0x10000 then
    b2n s.hi.up1 <<< 31 + (s.hi.rate1 % 8) <<< 28 + b2n s.hi.up0 <<< 27 + (s.hi.rate0 % 8) <<< 24
  else if off = 0x10018 then s.hi.pend.toNat
  else match mbPlace off with
    | some (k, o) => mbView s k o
    | none => (s.rd off).toNat

/-- A record of pipeline p waits for a completion slot (R351). -/
def holdCr (s : State) (p : Nat) : Bool :=
  s.dc.rings.any fun e => ringFull e.2 && e.2.due.any fun r => r.pipe == some p

/-- A pipeline's registers (R363). -/
def pipeView (s : State) (p o : Nat) : Nat :=
  let x := s.dc.pipe p
  match o with
  | 0x00 => b2n x.en * 2 ^ 31 + b2n x.admitting * 2 ^ 30 + b2n x.throughput * 2 ^ 29
  | 0x08 => x.inn.toNat
  | 0x10 => x.out.toNat
  | 0x18 => x.act.toNat
  | 0x20 => (x.flight.length % 16) * 2 ^ 28 + b2n (holdCr s p) * 2 ^ 27
  | _ => 0

/-- A ring's registers (R363). -/
def ringView (s : State) (n o : Nat) : Nat :=
  let g := s.dc.ring n
  match o with
  | 0x00 => g.base.toNat
  | 0x08 => g.cfg.toNat
  | 0x10 => g.tail
  | 0x18 => g.head
  | 0x20 => g.cbase.toNat
  | 0x28 => g.chead
  | 0x30 => g.ctail
  | 0x38 => b2n g.ovr <<< 31 + b2n g.stop <<< 30 + g.window.length
  | _ => 0

/-- The DC block (R363). -/
def dcView (s : State) (off : Nat) : Nat :=
  let o := off - 0x20000
  if o = 0 then b2n s.dc.en <<< 31
  else if o = 8 then b2n s.dc.srcErr <<< 31 + s.dc.tasks.length
  else if o = 0x10 then s.dc.taskmem.toNat
  else if 0x1000 ≤ o ∧ o < 0x1400 then pipeView s ((o - 0x1000) / 0x80) (o % 0x80)
  else if 0x4000 ≤ o ∧ o < 0x8000 then ringView s ((o - 0x4000) / 0x40) (o % 0x40)
  else if 0x8000 ≤ o then
    let i := (o - 0x8000) / 8
    (s.dc.src i).toNat + (inFlightOf s i % 16) <<< 16
  else 0

/-- `STATE` of a stream (R267). -/
def strStateCode (x : Stream) : Nat :=
  match x.st with
  | .idle => 0
  | .running => if x.fetched.any (fenceHolds x) then 2 else 1
  | .cancelling => 3
  | .faulting => 4

/-- `PMP_SC_CUR`: the oldest descriptor whose writes are not all issued. -/
def strCurrent (x : Stream) : Nat :=
  match x.fetched with
  | d :: _ => d.addr
  | [] => x.next.getD 0

/-- A stream context's registers (R266, R267). -/
def strView (s : State) (i o : Nat) : Nat :=
  let x := s.str i
  match o with
  | 0x08 => x.head.toNat
  | 0x10 => x.cfg.toNat
  | 0x18 => strStateCode x <<< 29 + b2n x.shadow.isSome <<< 28 + b2n x.ovr <<< 27 + b2n x.valve <<< 26
      + (x.code % 256) <<< 16 + x.descs % 65536
  | 0x20 => (x.reads.length % 128) <<< 16 + (x.writes.length % 64) <<< 8
  | 0x28 => strCurrent x
  | 0x30 => x.disc % 2 ^ 64
  | 0x38 => x.bytes % 2 ^ 64
  | _ => 0

/-- A pump cluster's block (R266 to R268, R405). -/
def pmpView (s : State) (off : Nat) : Nat :=
  let n := (off / 0x10000 - 0x30)
  let r := off % 0x10000
  if r < 0x4000 then strView s (64 * (4 * n + r / 0x1000) + r % 0x1000 / 0x40) (r % 0x40)
  else if 0x9000 ≤ r ∧ r < 0xA000 then
    let q := r - 0x9000
    if q % 0x10 = 0 then (s.str (64 * (4 * n + q / 0x400) + q % 0x400 / 0x10)).link.toNat else 0
  else (s.rd off).toNat

/-- A link port's block; the statistics of its encoder (R403, R404). -/
def lkView (s : State) (off : Nat) : Nat :=
  let x := s.port ((off / 0x10000 - 0x20))
  match off % 0x10000 with
  | 0x100 => 1 <<< 31 + (x.stat.ctrl &&& 0x4000FFFF).toNat + x.statSel
  | 0x108 => statSeq x.stat
  | 0x110 => SMap.get (fun _ => 0) x.stat.maxSnap 0
  | 0x118 => x.stat.satSnap
  | 0x120 => statFlag x.stat
  | 0x128 => x.escSnap % 2 ^ 32
  | _ => (s.rd off).toNat

/-- `STATE` of a core (R436). -/
def HartRun.code : HartRun → Nat
  | .halted => 0 | .running => 1 | .held => 2 | .bucket => 3

/-- A service-core cluster's block (R436). -/
def scView (s : State) (off : Nat) : Nat :=
  let c := (off - 0xC00000) / 0x100000
  let r := off % 0x100000
  if 0x1000 ≤ r ∧ r < 0x1200 ∧ r % 0x40 = 0x10 then
    (s.hart (8 * c + (r - 0x1000) / 0x40)).run.code <<< 30
  else match mbPlace off with
    | some (k, o) => mbView s k o
    | none => (s.rd off).toNat

/-- The Rim block (R444, R452). The bits of a serial block's STATUS are not laid out: a free value. -/
def rimView (s : State) (off : Nat) : Nat :=
  let o := off - 0x90000
  if o = 0x30 then gpioIn s
  else if 0x200 ≤ o ∧ o < 0x240 then
    match s.rim.stamp ((o - 0x200) / 8) with
    | [] => 2 ^ 64 - 1
    | t :: _ => t
  else if 0x1000 ≤ o ∧ o < 0x1800 then
    let j := (o - 0x1000) / 0x100
    let x := s.rim.serial j
    match o % 0x100 with
    | 0x00 => (SMap.get (fun _ => (0 : W64)) x.regs 0).toNat
    | 0x08 => Config.unstated 8 j (1024 * x.tx.length + x.rx.length) % 2 ^ 32
    | 0x18 => (x.rx.headD 0).toNat
    | 0x20 => (SMap.get (fun _ => (0 : W64)) x.regs 4).toNat
    | _ => 0
  else if 0x8000 ≤ o ∧ o < 0xCC00 then (rimWord s (s.bit rRimCtrl 29) ((o - 0x8000) / 8)).toNat
  else (s.rd off).toNat

/-- Number of a path in `DP_LOCK.PATH` (R345). -/
def dpPathCode (p : Option Path) : Nat :=
  match p with
  | none => 0
  | some q => pathNum q % 8

/-- A data port's registers (R345). -/
def dpView (s : State) (off : Nat) : Nat :=
  let d := s.dp ((off / 0x10000 - 0x100))
  match off % 0x10000 with
  | 0x00 => (d.owner % 65536) <<< 16 + dpPathCode d.path
  | 0x08 => d.addr
  | 0x10 => b2n d.dir <<< 31
  | 0x18 => b2n d.err <<< 31 + b2n d.intrude <<< 30 + b2n d.wbuf.isEmpty <<< 29 + d.pref.length % 8192
  | 0x20 => d.errAddr
  | _ => 0

/-- The register at an 8-byte place of register space, as a read without effects sees it.
DESIGN CHOICE: log 150. -/
def regView (s : State) (off : Nat) : Nat :=
  if off < 0x10000 then (s.rd off).toNat
  else if off < 0x20000 then hiView s off
  else if off < 0x30000 then dcView s off
  else if off < 0x50000 then
    if 0x30000 ≤ off ∧ off < 0x40000 ∧ off % 0x1000 = 0x800 then
      (s.rd off).toNat
        + b2n (!(SMap.get (fun _ => []) s.fiq ((off - 0x30000) / 0x1000)).isEmpty) <<< 30
    else (s.rd off).toNat
  else if off < 0x60000 then if off = 0x50010 then s.dt else (s.rd off).toNat
  else if off < 0x70000 then
    if 0x68000 ≤ off then (SMap.get (fun _ => (0 : W64)) s.err.log ((off - 0x68000) / 8)).toNat
    else (s.rd off).toNat
  else if off < 0x80000 then (s.rd off).toNat
  else if off < 0x90000 then
    if 0x88000 ≤ off then
      leNat ((List.range 8).map fun j => SMap.get (fun _ => 0) s.sec.att (off - 0x80000 + j))
    else (s.rd off).toNat
  else if off < 0xA0000 then rimView s off
  else if off < 0x200000 then (s.rd off).toNat
  else if off < 0x300000 then lkView s off
  else if off < 0x400000 then pmpView s off
  else if off < 0xC00000 then wellRead s ((off - 0x400000) / 0x100000) (off % 0x100000)
  else if off < 0x1000000 then scView s off
  else dpView s off

/-! ### Widths -/

/-- The register at a place is 64 bits wide. -/
def regIsWide (off : Nat) : Bool :=
  match regDef off with
  | some d => d.wide
  | none =>
    match mbPlace off with
    | some (_, o) => decide (o < 0x40) || (decide (0x80 ≤ o) && decide (o < 0xC0))
    | none =>
      if off < 0x20000 then off == 0x10018
      else if off < 0x30000 then
        let o := off - 0x20000
        o == 0x10 || decide (0x8000 ≤ o)
          || (decide (0x1000 ≤ o) && decide (o < 0x1400) && [0x08, 0x10, 0x18].contains (o % 0x80))
          || (decide (0x4000 ≤ o) && decide (o < 0x8000) && [0x00, 0x20].contains (o % 0x40))
      else if off < 0x60000 then off == 0x50010 || off == 0x50020
      else if off < 0x70000 then decide (0x68000 ≤ off)
      else if off < 0x90000 then
        off == 0x800C8 || (decide (0x84000 ≤ off) && decide (off < 0x86000)) || decide (0x88000 ≤ off)
      else if off < 0xA0000 then
        (decide (0x90200 ≤ off) && decide (off < 0x90240)) || decide (0x98000 ≤ off)
      else if off < 0x300000 then false
      else if off < 0x400000 then
        let r := off % 0x10000
        (decide (r < 0x4000) && [0x08, 0x28, 0x30, 0x38].contains (r % 0x40))
          || (decide (0x9000 ≤ r) && decide (r < 0xA000) && r % 0x10 == 0)
      else if off < 0xC00000 then wellWide (off % 0x100000)
      else if off < 0x1000000 then false
      else [0x08, 0x20].contains (off % 0x10000)

end Sys2Proof.Machine
end

