-- ==== Sys2Proof/Machine/Access.lean ====
section
/-! DEFINITION. Register and memory access (chapters 2 and 13): what a read does and returns, what a
write does, the data ports (R343 to R345) and the host transactions (R336, R339, R340). -/

namespace Sys2Proof.Machine

/-! ### Memory by bytes -/

/-- Writes the masked bytes of one line of device memory; none where it is unmapped (R42, R46). -/
def bucketWrite (s : State) (a : Nat) (l : Line) (mask : BitVec 64) : Option State :=
  match regionOf s a with
  | .dram => some (dramWrite s a l mask)
  | .cistern w k o =>
    if mask = fullMask then some (cisternWrite s w k (o / 64) l)
    else
      let r := cisternRead s w k (o / 64)
      some (cisternWrite r.2.2 w k (o / 64) (mergeLine r.1 l mask))
  | .weight w sl d o =>
    if weightOpen s w sl then
      if mask = fullMask then some (weightWrite s w sl d (o / 64) l)
      else
        let r := weightLine s w sl d (o / 64)
        some (weightWrite r.2.2 w sl d (o / 64) (mergeLine r.1 l mask))
    else none
  | .scSram _ _ => some { s with mem := s.mem.writeMasked (a / 64 * 64) mask 0 (lineBytes l) }
  | .regs _ | .host _ | .peer _ _ | .unmapped => none

/-- A tag record of 32 bytes goes to the address of its place in the ring; where nothing is mapped it is lost
(R42, R549). -/
def tagPut (s : State) (a v : Nat) : State :=
  let sh := a % 64
  match regionOf s a with
  | .host h => (hostTry s true h).2
  | _ => (bucketWrite s (a / 64 * 64) (BitVec.ofNat 512 (v <<< (8 * sh))) (BitVec.ofNat 64 (0xFFFFFFFF <<< sh))).getD s

/-- `TAG_RECORD_WRITE`: the record of a completed tagged instruction is written to the ring, or
dropped when the ring is full; the next interval is drawn (R548, R549). -/
def execTagRecordWrite (s : State) : Out := clocked s <|
  match s.pmu.run with
  | some r =>
    if r.finished then
      let sat := fun (x : Nat) => Nat.min x 65535
      let dw2 := sat r.holdCnt <<< 48 + sat r.waitCnt <<< 32 + sat r.frozenCnt <<< 16 + sat r.run
      let h := s.fld rPmuTagHead 0 32
      let used := (h + 2 ^ 32 - s.fld rPmuTagTail 0 32) % 2 ^ 32
      let s := tagDraw { s with pmu := { s.pmu with run := none } }
      if used = tagRing s then .next (s.addSat rPmuTagCtrl 0 16 1)
      else
        let v := r.dw0.toNat + (r.dt % 2 ^ 64) <<< 64 + dw2 <<< 128 + (r.stroke % 2 ^ 64) <<< 192
        .next ((tagPut s ((s.rd rPmuTagBase).toNat + h % tagRing s * 32) v).addWrap rPmuTagHead 0 32)
    else .next s
  | none => .next s

/-- A line address is device memory that the host and the data ports may touch. -/
def memMapped (s : State) (a : Nat) : Bool :=
  match regionOf s a with
  | .dram | .cistern _ _ _ | .scSram _ _ => true
  | .weight w sl _ _ => weightOpen s w sl
  | .regs _ | .host _ | .peer _ _ | .unmapped => false

/-- Lines that n bytes from a touch. -/
def linesOf (a n : Nat) : Nat := (a % 64 + n + 63) / 64

/-- Every line of a range is mapped. -/
def rangeMapped (s : State) (a n : Nat) : Bool :=
  (List.range (linesOf a n)).all fun j => memMapped s (a / 64 * 64 + 64 * j)

/-- The part of a byte string that falls into the line at `b`, as a line and its mask. -/
def lineCut (a : Nat) (bs : List Byte) (b : Nat) : Line × BitVec 64 :=
  let at_ := fun i => if a ≤ b + i ∧ b + i < a + bs.length then some (bs.getD (b + i - a) 0) else none
  (lineOf ((List.range 64).map fun i => (at_ i).getD 0),
    BitVec.ofNat 64 ((List.range 64).foldl (fun t i => t + b2n (at_ i).isSome <<< i) 0))

/-- Writes bytes to mapped device memory. -/
def memPut (s : State) (a : Nat) (bs : List Byte) : State :=
  (List.range (linesOf a bs.length)).foldl (fun (s : State) j =>
    let b := a / 64 * 64 + 64 * j
    let c := lineCut a bs b
    (bucketWrite s b c.1 c.2).getD s) s

/-- Lines of mapped device memory from line address b on: bytes, whether one is uncorrectable. -/
def linesGet (s : State) (b : Nat) : Nat → List Byte × Bool × State
  | 0 => ([], false, s)
  | n + 1 =>
    match lineRead s b with
    | none => ([], true, s)
    | some (l, ue, s) =>
      let r := linesGet s (b + 64) n
      (lineBytes l ++ r.1, ue || r.2.1, r.2.2)

/-- n bytes of mapped device memory. -/
def memGet (s : State) (a n : Nat) : List Byte × Bool × State :=
  let r := linesGet s (a / 64 * 64) (linesOf a n)
  ((r.1.drop (a % 64)).take n, r.2.1, r.2.2)

/-! ### Data ports -/

/-- Does the lock keep a path out (R345)? -/
def Dp.shut (d : Dp) (p : Path) : Bool := d.owner != 0 && d.path != some p

/-- An access that the lock discards. -/
def dpIntrude (s : State) (n : Nat) : State := s.setDp n { s.dp n with intrude := true }

/-- What a current address names: register space, memory, or nothing (R344). -/
inductive DpPlace where
  | regs | memory | unmapped
  deriving DecidableEq, Repr

/-- The place of a current address. -/
def dpPlace (s : State) (a : Nat) : DpPlace :=
  match regionOf s a with
  | .regs _ => .regs
  | _ => if memMapped s a then .memory else .unmapped

/-- Bytes enter the write buffer in buckets and the current address moves on; an unmapped address sets
ERR and drops the rest (R343, R344). DEDUCED: log 79. -/
def dpTake (s : State) (n : Nat) (bs : List Byte) : Nat → State
  | 0 => s
  | k + 1 =>
    let d := s.dp n
    if bs.isEmpty then s
    else match dpPlace s d.addr with
      | .unmapped => s.setDp n { d with err := true, errAddr := d.addr }
      | .regs | .memory =>
        let c := bs.take (64 - d.addr % 64)
        dpTake (s.setDp n { d with addr := (d.addr + c.length) % 2 ^ 48, wbuf := d.wbuf ++ [(d.addr, c)] })
          n (bs.drop (64 - d.addr % 64)) k

/-- A write into the data window (R343 to R345). DEDUCED: log 78. -/
def dpWrite (s : State) (n : Nat) (p : Path) (bs : List Byte) : State :=
  let d := s.dp n
  if d.shut p then dpIntrude s n
  else if d.dir || d.err then s
  else dpTake s n bs (bs.length + 1)

/-- A read of len bytes from the current address on: the bytes, whether all were correctable (R343,
R344). DEDUCED: log 81. -/
def dpFetch (s : State) (n len : Nat) : List Byte × Bool × State :=
  let d := s.dp n
  match dpPlace s d.addr with
  | .regs => (List.replicate len 0, true, s.setDp n { d with err := true })
  | .unmapped => (List.replicate len 0, true, s.setDp n { d with err := true, errAddr := d.addr })
  | .memory =>
    let a := d.addr + len
    if len ≤ d.pref.length then
      (d.pref.take len, true, s.setDp n { d with addr := a % 2 ^ 48, pref := d.pref.drop len })
    else if rangeMapped s d.addr len then
      let r := memGet s d.addr len
      let d := r.2.2.dp n
      (if r.2.1 then List.replicate len 0 else d.pref ++ r.1.drop d.pref.length, !r.2.1,
        r.2.2.setDp n { d with addr := a % 2 ^ 48, pref := [] })
    else
      -- the access runs into an unmapped address: what lies before it is returned, then zeros
      let k := ((List.range (linesOf d.addr len)).takeWhile fun j =>
        memMapped s (d.addr / 64 * 64 + 64 * j)).length
      let m := Nat.min len (64 * k - d.addr % 64)
      let r := memGet s d.addr m
      let d := r.2.2.dp n
      ((if r.2.1 then List.replicate m 0 else r.1) ++ List.replicate (len - m) 0, !r.2.1,
        r.2.2.setDp n { d with addr := (d.addr + m) % 2 ^ 48, pref := [], err := true,
                               errAddr := d.addr + m })

/-- A read of the data window. -/
def dpRead (s : State) (n : Nat) (p : Path) (len : Nat) : List Byte × Bool × State :=
  let d := s.dp n
  if d.shut p then (List.replicate len 0, true, dpIntrude s n)
  else if !d.dir || d.err then (List.replicate len 0, true, s)
  else dpFetch s n len

/-- A write of `DP_ADDR`: 8-byte aligned; prefetched data is discarded (R343). -/
def dpAddrWrite (s : State) (n : Nat) (p : Path) (a : Nat) : State :=
  let d := s.dp n
  if d.shut p then dpIntrude s n else s.setDp n { d with addr := a % 2 ^ 48 / 8 * 8, pref := [] }

/-- A write of `DP_CTRL`. -/
def dpCtrlWrite (s : State) (n : Nat) (p : Path) (dir : Bool) : State :=
  let d := s.dp n
  if d.shut p then dpIntrude s n
  else s.setDp n { d with dir := dir, pref := if d.dir == dir then d.pref else [] }

/-- A write of `DP_LOCK` (R345). -/
def dpLock (s : State) (n : Nat) (p : Path) (owner : Nat) (release : Bool) : State :=
  let d := s.dp n
  if release then
    if d.owner = owner ∧ d.path = some p then s.setDp n { d with owner := 0, path := none } else s
  else if d.owner = 0 ∧ owner ≠ 0 then s.setDp n { d with owner := owner, path := some p }
  else s

/-! ### Register writes -/

/-- A mailbox place (R341). -/
def mbWrite (s : State) (k o : Nat) (v : W64) : State :=
  if o < 0x40 then
    let b := s.mbox k
    s.setMbox k { b with req := SMap.set (fun _ => 0) b.req (o / 8) v }
  else if o = 0x40 ∧ bitAt v 0 then mbDoor s k
  else s

/-- The HI block. -/
def hiWrite (s : State) (off : Nat) (v : W64) : State :=
  match off with
  | 0x10008 => s.plainWrite rHiCtrl (if bits v 30 2 = 3 then putBits v 30 2 0 else v)
  | 0x10010 => sendAllPending (s.wr rHiIntMask v)
  | 0x10018 => { s with hi := { s.hi with pend := s.hi.pend &&& ~~~v } }
  | 0x10410 => s.wr rHiMpTelem (BitVec.ofNat 64 (Nat.max 1 (bits v 0 16)))
  | 0x10600 => hiReset s (v.setWidth 32)
  | _ =>
    match mbPlace off with
    | some (k, o) => mbWrite s k o v
    | none => s.plainWrite off v

/-- A pipeline's registers; the template and action tables are written while it is not resident (R16,
R363). -/
def pipeWrite (s : State) (p o : Nat) (v : W64) : State :=
  let x := s.dc.pipe p
  match o with
  | 0x00 => pipeControl s p (bitAt v 30) (bitAt v 29)
  | 0x08 => if x.en then s else s.setPipe p { x with inn := v &&& 0xFFE0FFFFFFFFFFC0 }
  | 0x10 => if x.en then s else s.setPipe p { x with out := v &&& 0xFFE0FFFFFFFFFFC0 }
  | 0x18 => if x.en then s else s.setPipe p { x with act := v &&& 0x0000FFFFFFFFFFC0 }
  | _ => s

/-- A ring's registers (R346, R363). DEDUCED: log 82. -/
def ringWrite (s : State) (n o : Nat) (v : W64) : State :=
  let g := s.dc.ring n
  let v32 := bits v 0 32
  match o with
  | 0x00 => if g.enabled then s else s.setRing n { g with base := v &&& 0x0000FFFFFFFFFFC0 }
  | 0x08 => ringCfgWrite s n (v.setWidth 32)
  | 0x10 => ringTail s n v32
  | 0x18 => if g.enabled then s else s.setRing n { g with head := v32 }
  | 0x20 => if g.enabled then s else s.setRing n { g with cbase := v &&& 0x0000FFFFFFFFFFC0 }
  | 0x28 => s.setRing n { g with chead := v32 }
  | 0x30 => if g.enabled then s else s.setRing n { g with ctail := v32 }
  | 0x38 => s.setRing n { g with ovr := g.ovr && !bitAt v 31 }
  | _ => s

/-- The DC block. -/
def dcWrite (s : State) (off : Nat) (v : W64) : State :=
  let o := off - 0x20000
  if o = 0 then { s with dc := { s.dc with en := bitAt v 31 } }
  else if o = 8 then { s with dc := { s.dc with srcErr := s.dc.srcErr && !bitAt v 31 } }
  else if o = 0x10 then { s with dc := { s.dc with taskmem := v &&& 0x0000FFFFFFFFF000 } }
  else if 0x1000 ≤ o ∧ o < 0x1400 then pipeWrite s ((o - 0x1000) / 0x80) (o % 0x80) v
  else if 0x4000 ≤ o ∧ o < 0x8000 then ringWrite s ((o - 0x4000) / 0x40) (o % 0x40) v
  else if 0x8000 ≤ o then srcWrite s ((o - 0x8000) / 8) v
  else s

/-- The FI block: a profile in use keeps its registers (R362). -/
def fiWrite (s : State) (off : Nat) (v : W64) : State :=
  let u := (off - 0x30000) / 0x1000
  if off % 0x1000 < 0x400 && fiProfileBusy s u (off % 0x400 / 0x40) then s else s.plainWrite off v

/-- The PWR block. -/
def pwrWrite (s : State) (off : Nat) (v : W64) : State :=
  match off with
  | 0x40000 => modeRequest s (bits v 30 2)
  | 0x40008 => pwrCapWrite s v
  | 0x40038 => throtWrite s v
  | _ => s.plainWrite off v

/-- The TB block. -/
def tbWrite (s : State) (off : Nat) (v : W64) : State :=
  match off with
  | 0x50000 => tbCtrlWrite s v
  | 0x50018 => tbTrimWrite s v
  | 0x50020 => tbSetWrite s v
  | 0x50038 => tsyncWrite s v
  | _ =>
    if 0x50100 ≤ off ∧ off < 0x50200 then
      let k := (off - 0x50100) / 0x20
      if off % 0x20 = 0x10 then trgCtrlWrite s k v
      else if s.bit (rTbTrgCtrl k) 31 then s else s.plainWrite off v
    else s.plainWrite off v

/-- The SEC/DBG block; `n` bytes are written (R531, R534, R537). -/
def secWrite (s : State) (p : Path) (off : Nat) (v : W64) : State :=
  match off with
  | 0x800C0 =>
    let s := s.plainWrite rSecAttest v
    if bitAt v 31 then attestGo s else s
  | 0x80110 => if bitAt v 31 then otpProgram s p else s
  | 0x80200 => dbgCtrlWrite s v
  | _ => s.plainWrite off v

/-- Bytes into the response window (R537). -/
def respWrite (s : State) (o : Nat) (bs : List Byte) : State :=
  { s with sec := { s.sec with resp := attPut s.sec.resp o bs } }

/-- Room in the transmit FIFO of hard block j (R444). DEDUCED: log 127. -/
def serialRoom (j : Nat) : Nat := if j < 4 then 64 else 256

/-- A hard serial block's registers (R444). -/
def serialWrite (s : State) (j o : Nat) (v : W64) : State :=
  let x := s.rim.serial j
  let put := fun (y : Serial) => { s with rim := s.rim.setSerial j y }
  match o with
  | 0x00 => put { x with regs := SMap.set (fun _ => 0) x.regs 0 (v &&& 0xFFFFFFFF) }
  | 0x10 => if x.tx.length < serialRoom j then put { x with tx := x.tx ++ [v.setWidth 8] } else s
  | 0x20 => put { x with regs := SMap.set (fun _ => 0) x.regs 4 (v &&& 0xFFFFFFFF) }
  | _ => s

/-- The Rim block. DEDUCED: log 128. -/
def rimWrite (s : State) (off : Nat) (v : W64) : State :=
  match off with
  | 0x90000 => rimCtrlWrite s v
  | 0x90010 =>
    if bitAt v 31 && bitAt v 30 then s
    else if bitAt v 31 then rimCommitGo s (bitAt v 0)
    else if bitAt v 30 then rimUnload s (bitAt v 0) else s
  | 0x90020 =>
    let s := rimCapWrite s v
    if bitAt v 30 then rimCapture s else s
  | _ =>
    if 0x91000 ≤ off ∧ off < 0x91800 then serialWrite s ((off - 0x91000) / 0x100) (off % 0x100) v
    else if 0x98000 ≤ off then rimWindow s (off - 0x98000) v
    else s.plainWrite off v

/-- The PMU block (R550). -/
def pmuWrite (s : State) (off : Nat) (v : W64) : State :=
  if off = 0xA0000 then pmuCtrlWrite s v
  else if off = 0xA0020 then tagCtrlWrite s v
  else if 0xA0100 ≤ off ∧ off < 0xA0200 then pmuSelWrite s ((off - 0xA0100) / 8) v
  else if 0xA0600 ≤ off ∧ off < 0xA0680 then
    if s.bit rPmuQpCtrl 31 then s else s.plainWrite off v
  else s.plainWrite off v

/-- A link port's block (R403, R404). -/
def lkWrite (s : State) (off : Nat) (v : W64) : State :=
  let n := off / 0x10000 - 0x20
  let o := off % 0x10000
  let x := s.port n
  if o = 0x08 then linkCfgWrite s n v
  else if o = 0x100 then statCtrlWrite s (.link (Fin.ofNat 6 n)) (v.setWidth 32)
  else if o = 0x120 then s.setPort n { x with stat := { x.stat with flag := x.stat.flag && !bitAt v 29 } }
  else s.plainWrite off v

/-- A pump cluster's block (R258, R266, R405). -/
def pmpWrite (s : State) (off : Nat) (v : W64) : State :=
  let n := (off / 0x10000 - 0x30)
  let r := off % 0x10000
  if r < 0x4000 then
    let i := 64 * (4 * n + r / 0x1000) + r % 0x1000 / 0x40
    let x := s.str i
    match r % 0x40 with
    | 0x00 => pmpCtrlWrite s i v
    | 0x08 => s.setStr i { x with head := v &&& 0x0000FFFFFFFFFFC0 }
    | 0x10 => s.setStr i { x with cfg := v.setWidth 32 }
    | 0x18 => s.setStr i { x with ovr := x.ovr && !bitAt v 27 }
    | _ => s
  else if 0x9000 ≤ r ∧ r < 0xA000 then
    let q := r - 0x9000
    let i := 64 * (4 * n + q / 0x400) + q % 0x400 / 0x10
    let x := s.str i
    if q % 0x10 = 0 ∧ x.st = .idle then s.setStr i { x with link := v &&& 0x00001FFFFFFFFFFF } else s
  else s.plainWrite off v

/-- A service-core cluster's block (R424, R430, R436). -/
def scWrite (s : State) (off : Nat) (v : W64) : State :=
  let c := (off - 0xC00000) / 0x100000
  let r := off % 0x100000
  if 0x1000 ≤ r ∧ r < 0x1200 then
    let n := (r - 0x1000) / 0x40
    match r % 0x40 with
    | 0x00 => if bitAt v 30 then hartHalt s c n else if bitAt v 31 then hartRun s c n else s
    | 0x18 =>
      let s := s.plainWrite off v
      let h := s.hart (8 * c + n)
      if bitAt v 0 then s.setHart (8 * c + n) (h.setCsr 0x344 (putBits (h.getCsr 0x344) 11 1 0)) else s
    | _ => s.plainWrite off v
  else match mbPlace off with
    | some (k, o) => mbWrite s k o v
    | none => s.plainWrite off v

/-- A data port's registers (R343 to R345). DEDUCED: log 80. -/
def dpRegWrite (s : State) (p : Path) (off : Nat) (v : W64) : State :=
  let n := (off / 0x10000 - 0x100)
  let d := s.dp n
  match off % 0x10000 with
  | 0x00 => dpLock s n p (bits v 16 16) (bitAt v 15)
  | 0x08 => dpAddrWrite s n p (bits v 0 48)
  | 0x10 => dpCtrlWrite s n p (bitAt v 31)
  | 0x18 => s.setDp n { d with err := d.err && !bitAt v 31, intrude := d.intrude && !bitAt v 30 }
  | _ => if 0x1000 ≤ off % 0x10000 ∧ off % 0x10000 < 0x2000 then dpWrite s n p (leBytes v.toNat 8) else s

/-- A controller's block: in `MC_ERR_CH_c` a count is cleared with its bit (R380). -/
def mcWrite (s : State) (off : Nat) (v : W64) : State :=
  let t := s.plainWrite off v
  if 8 ≤ off % 0x10000 ∧ off % 0x10000 < 0x28 then
    let t := if bitAt v 0 then t.setFld off 16 16 0 else t
    if bitAt v 1 then t.setFld off 8 8 0 else t
  else t

/-- A write of a whole register at an 8-byte place. -/
def regPut (s : State) (p : Path) (off : Nat) (v : W64) : State :=
  if off < 0x10000 then s
  else if off < 0x20000 then hiWrite s off v
  else if off < 0x30000 then dcWrite s off v
  else if off < 0x40000 then fiWrite s off v
  else if off < 0x50000 then pwrWrite s off v
  else if off < 0x60000 then tbWrite s off v
  else if off < 0x80000 then s.plainWrite off v
  else if off < 0x90000 then secWrite s p off v
  else if off < 0xA0000 then rimWrite s off v
  else if off < 0xB0000 then pmuWrite s off v
  else if off < 0x200000 then mcWrite s off v
  else if off < 0x300000 then lkWrite s off v
  else if off < 0x400000 then pmpWrite s off v
  else if off < 0xC00000 then wellWrite s ((off - 0x400000) / 0x100000) (off % 0x100000) v
  else if off < 0x1000000 then scWrite s off v
  else dpRegWrite s p off v

/-- The value a 4-byte write of half of a 64-bit register makes whole; bits that clear on 1 merge with
zero. -/
def halfMerge (s : State) (off : Nat) (v : W64) : W64 :=
  let b := off / 8 * 8
  let cur : W64 := if b = 0x10018 then 0 else BitVec.ofNat 64 (regView s b)
  putBits cur (if off % 8 = 4 then 32 else 0) 32 (bits v 0 32)

/-- A write of 4 or 8 bytes to mapped register space (R16, R48). -/
def regWrite (s : State) (p : Path) (off : Nat) (wide : Bool) (v : W64) : State :=
  let b := off / 8 * 8
  if blockAbsent s b then s
  else if 0x84000 ≤ off ∧ off < 0x86000 then
    respWrite s (off - 0x80000) (leBytes v.toNat (if wide then 8 else 4))
  else if wide then regPut s p b (if regIsWide b then v else v &&& 0xFFFFFFFF)
  else if regIsWide b then regPut s p b (halfMerge s off v)
  else if off % 8 = 4 then s
  else regPut s p b (v &&& 0xFFFFFFFF)

/-! ### Register reads -/

/-- The data window that an offset lies in (R345). -/
def dpWindow (off : Nat) : Option Nat :=
  if 0x1000000 ≤ off ∧ off < 0x1040000 ∧ 0x1000 ≤ off % 0x10000 ∧ off % 0x10000 < 0x2000 then
    some ((off / 0x10000 - 0x100))
  else none

/-- A read of the register at an 8-byte place with its effects: a stamp is removed, a random number
drawn, a received character taken, a mailbox state acknowledged. -/
def regPop (s : State) (off : Nat) : Nat × State :=
  if 0x90200 ≤ off ∧ off < 0x90240 then rimStampRead s ((off - 0x90200) / 8)
  else if off = 0x800C8 then rngValue s
  else if 0x91000 ≤ off ∧ off < 0x91800 ∧ off % 0x100 = 0x18 then
    let j := (off - 0x91000) / 0x100
    let x := s.rim.serial j
    ((x.rx.headD 0).toNat, { s with rim := s.rim.setSerial j { x with rx := x.rx.drop 1 } })
  else match mbPlace off with
    | some (k, 0xC0) => mbRstat s k
    | _ => (regView s off, s)

/-- A locked port's registers read zero from another path (R345). -/
def dpLockedOut (s : State) (p : Path) (off : Nat) : Option Nat :=
  if 0x1000000 ≤ off ∧ off < 0x1040000 ∧ (off % 0x10000 = 0x08 ∨ off % 0x10000 = 0x10) then
    let n := (off / 0x10000 - 0x100)
    if (s.dp n).shut p then some n else none
  else none

/-- A read of 4 or 8 bytes of mapped register space: the value and the state after (R48). -/
def regRead (s : State) (p : Path) (off : Nat) (wide : Bool) : Nat × State :=
  let b := off / 8 * 8
  if blockAbsent s b then (0, s)
  else match dpWindow b, dpLockedOut s p b with
    | some n, _ =>
      let r := dpRead s n p 8
      (leNat r.1, r.2.2)
    | none, some n => (0, dpIntrude s n)
    | none, none =>
      if wide then regPop s b
      else if regIsWide b then
        if b = 0x50010 then tbDtHalf s p (off % 8 == 4)
        else
          let r := regPop s b
          (bits (BitVec.ofNat 64 r.1) (if off % 8 = 4 then 32 else 0) 32, r.2)
      else if off % 8 = 4 then (0, s)
      else
        let r := regPop s b
        (r.1 % 2 ^ 32, r.2)

/-! ### Who reaches what -/

/-- The offset accepts an access of the width: natural alignment (R48), a place of the schedule-memory
window that exists (R178), 8 bytes for a data window (R344). -/
def regMapped (s : State) (off : Nat) (wide : Bool) : Bool :=
  off % (if wide then 8 else 4) == 0
    && (wide || (dpWindow (off / 8 * 8)).isNone)
    && (if 0x400000 ≤ off ∧ off < 0xC00000 ∧ 0x80000 ≤ off % 0x100000 ∧ !blockAbsent s off then
          windowMapped (s.well ((off - 0x400000) / 0x100000)) (off % 0x100000 - 0x80000)
        else true)

/-- The accesses of 8 and 4 bytes, in order of address, that a run of bytes in register space makes:
offset and bytes of each (R48, R178). -/
def regPieces : Nat → Nat → Nat → List (Nat × Nat)
  | 0, _, _ => []
  | k + 1, off, n =>
    if n = 0 then []
    else
      let m := if off % 8 = 0 ∧ 8 ≤ n then 8 else 4
      (off, m) :: regPieces k (off + m) (n - m)

/-- A run of bytes in register space is whole accesses that are all mapped: a bucket is carried out whole or
not at all (R48, R261). -/
def piecesMapped (s : State) (off n : Nat) : Bool :=
  off % 4 == 0 && n % 4 == 0 && (regPieces 17 off n).all fun q => regMapped s q.1 (q.2 == 8)

/-- Registers the sideband reaches (R340). -/
def sidebandReach (off : Nat) : Bool :=
  decide (off < 0x20000) || [0x80100, 0x80108, 0x80110].contains (off / 8 * 8)

/-- The path is there to carry a transaction: its mainband is trained, its cluster present, the TAP's
level open; only the sideband is of the always-on island (R38, R337, R339, R471, R536). DEDUCED: log 149. -/
def pathOpen (s : State) : Path → Bool
  | .u0 => s.clocksRun && s.hi.up0
  | .u1 => s.clocksRun && s.hi.up1
  | .sideband => s.powerUp
  | .mp => s.clocksRun
  | .sc c => s.clocksRun && s.hasSc c.val
  | .tap => s.clocksRun && decide (1 ≤ s.fld rDbgStatus 30 2)

/-- An access to register space is carried out and not answered with an error (R42, R48, R340, R509). -/
def regServed (s : State) (p : Path) (off : Nat) (wide : Bool) : Bool :=
  regMapped s off wide && match p with
    | .u0 | .u1 => s.ready
    | .sideband => sidebandReach off
    | .mp | .sc _ | .tap => true

/-- The data-port blocks are absent to the TAP (R536). -/
def tapHidden (p : Path) (off : Nat) : Bool :=
  match p with
  | .tap => decide (0x1000000 ≤ off)
  | _ => false

/-- An error on a mainband is recorded in `HI_ERR`: 0 unmapped, 2 malformed (R363). -/
def pathError (s : State) (p : Path) (kind addr : Nat) : State :=
  match p with
  | .u0 | .u1 => hiError s kind addr
  | _ => s

/-- The device address of a register-space offset (R40). -/
def regAddr (off : Nat) : Nat := 0x200000000000 + off

/-! ### Buckets of the write buffers -/

/-- Carries out a bucket of a data port: register space by 8-byte writes in rising order, else memory
(R344). -/
def dpBucket (s : State) (n a : Nat) (bs : List Byte) : State :=
  match regionOf s a with
  | .regs off =>
    (List.range (bs.length / 8)).foldl (fun (s : State) j =>
      let o := off + 8 * j
      if regMapped s o true then
        regWrite s ((s.dp n).path.getD .u0) o true (BitVec.ofNat 64 (leNat ((bs.drop (8 * j)).take 8)))
      else s.setDp n { s.dp n with err := true, errAddr := regAddr o }) s
  | _ =>
    let c := lineCut a bs (a / 64 * 64)
    match bucketWrite s (a / 64 * 64) c.1 c.2 with
    | some s => s
    | none => s.setDp n { s.dp n with err := true, errAddr := a }

/-- The oldest bucket of a data port's write buffer becomes visible. -/
def dpBucketOut (s : State) (n : Nat) : State :=
  let d := s.dp n
  match d.wbuf with
  | [] => s
  | (a, bs) :: r => dpBucket (s.setDp n { d with wbuf := r }) n a bs

/-- Every bucket a data port has taken becomes visible. -/
def dpDrain (s : State) (n : Nat) : Nat → State
  | 0 => s
  | k + 1 => if (s.dp n).wbuf.isEmpty then s else dpDrain (dpBucketOut s n) n k

/-- What a read of the path waits for: the writes its data windows have taken (R339). -/
def dpDrainAll (s : State) : State :=
  (List.range 4).foldl (fun (s : State) n => dpDrain s n (s.dp n).wbuf.length) s

/-- The next bucket of the prefetch (R343): never register space, at most 4 KiB ahead. -/
def dpPrefetch (s : State) (n : Nat) : State :=
  let d := s.dp n
  let a := d.addr + d.pref.length
  if d.dir && !d.err && decide (d.pref.length + 64 ≤ 4096) && dpPlace s a == .memory then
    match lineRead s a with
    | none => s
    | some (l, ue, s) =>
      if ue then s else s.setDp n { s.dp n with pref := (s.dp n).pref ++ (lineBytes l).drop (a % 64) }
  else s

/-- The writes that data windows other than window n have taken become visible. -/
def dpDrainBut (s : State) (n : Nat) : State :=
  (List.range 4).foldl (fun (s : State) m => if m = n then s else dpDrain s m (s.dp m).wbuf.length) s

/-- A register write of a path takes effect after the path's earlier writes, also those its data windows have
taken; the writes of one window follow each other in its buffer (OP5, R339). -/
def pathWrite (s : State) (p : Path) (off : Nat) (wide : Bool) (v : W64) : State :=
  match dpWindow (off / 8 * 8) with
  | some n => regWrite (dpDrainBut s n) p off wide v
  | none => regWrite (dpDrainAll s) p off wide v

/-- `DATA_PORT_BUCKET_COMPLETE`: the oldest bucket of the write buffer becomes visible; with none, the
next bucket of the prefetch arrives (R343, R344). -/
def execDataPortBucketComplete (n : Fin 4) (s : State) : Out := clocked s <|
  .next (if (s.dp n.val).wbuf.isEmpty then dpPrefetch s n.val else dpBucketOut s n.val)

end Sys2Proof.Machine
end

