-- ==== Sys2Proof/Machine/Pumps.lean ====
section
/-! DEFINITION. The read side of the pumps (chapter 9): which bucket is issued next, its reservation and
deadline, its return, the conversion of its data (R243 to R247, R250 to R253), and the frame intake
(R359). -/

namespace Sys2Proof.Machine

/-! ### Parts of a stream -/

/-- Words that a frame intake unit makes of the frame a luma descriptor begins (R361). DEDUCED: log 54. -/
def frameWords (s : State) (x : Stream) (d : FDesc) : Nat :=
  fiTotal s d.fiu d.fiprof (d.count 0 / fiBps s d.fiu d.fiprof) (d.count 1) x.task

/-- Changes the held descriptor of number k. -/
def Stream.updDesc (x : Stream) (k : Nat) (f : FDesc → FDesc) : Stream :=
  { x with fetched := x.fetched.map fun d => if d.k = k then f d else d }

/-- The held descriptor of number k. -/
def Stream.desc (x : Stream) (k : Nat) : Option FDesc := x.fetched.find? fun d => d.k == k

/-- Contexts of pump p that are not idle. -/
def busyContexts (s : State) (p : Nat) : List Nat :=
  (List.range 64).filter fun c => (s.str (64 * p + c)).st != .idle

/-- Read buckets outstanding over all contexts of pump p (R240). -/
def pumpReads (s : State) (p : Nat) : Nat :=
  ((busyContexts s p).map fun c => (s.str (64 * p + c)).reads.length).foldl (· + ·) 0
/-- Write buckets outstanding over all contexts of pump p (R240). -/
def pumpWrites (s : State) (p : Nat) : Nat :=
  ((busyContexts s p).map fun c => (s.str (64 * p + c)).writes.length).foldl (· + ·) 0

/-- The deadline a bucket of a descriptor takes now; a TTE stream with no queue side is served as BULK
(R252). -/
def bucketDeadline (s : State) (i : Nat) (d : FDesc) : Nat :=
  let n := i / 256
  let bulk := s.dt + s.fld (rPmpClHorizon n) 0 20
  match d.dcls with
  | 0 => if d.skind = 0 ∧ (d.dkind = 0 ∨ d.dkind = 3) then bulk else s.dt + (s.str i).tte
  | 1 => s.dt + s.fld (rPmpClFixed n) 0 20
  | _ => bulk

/-- Saturations of a conversion count in the pump's cluster (R69, R244). -/
def clusterSat (s : State) (i n : Nat) : State :=
  if n = 0 then s else (s.addSat (rPmpClSat (i / 256)) 0 31 n).setBit (rPmpClSat (i / 256)) 31 true

/-- The context of earliest deadline among candidates; ties to the lower context (R250). -/
def earliest (l : List (Nat × Nat)) : Option Nat :=
  (l.foldl (fun (b : Option (Nat × Nat)) c =>
    match b with
    | none => some c
    | some q => if c.2 < q.2 then some c else b) none).map (·.1)

/-- Packets to a device may take the present route: no earlier one of the stream that took another is
unanswered (R389). DEDUCED: log 103. -/
def routeFree (s : State) (x : Stream) (id : Nat) : Bool :=
  decide (routeTo s id < 7) && (x.sent.isEmpty || x.route == some (routeTo s id))

/-! ### Peer windows (R44, R400) -/

/-- Local DRAM address of an offset of this device's peer-facing window. -/
def peerLocal (s : State) (o : Nat) : Option Nat :=
  if s.bit rLkPwCtrl 31 && decide (o < s.fld rLkPwSize 12 25 * 4096) then
    let a := s.fld rLkPwBase 12 36 * 4096 + o
    if regionOf s a = .dram then some a else none
  else none

/-- A line of the window: status, line (R400). -/
def peerReadLine (s : State) (o : Nat) : Nat × Line × State :=
  match peerLocal s (o / 64 * 64) with
  | none => (stStreamOob, 0, s)
  | some a =>
    let r := dramRead s a
    if r.2.1 then (stEccUe, 0, r.2.2) else (0, r.1, r.2.2)

/-- A masked write of a line of the window: status (R400). -/
def peerWriteLine (s : State) (o : Nat) (l : Line) (mask : BitVec 64) : Nat × State :=
  if s.bit rLkPwCtrl 30 then (stSecViolation, s)
  else match peerLocal s (o / 64 * 64) with
    | none => (stStreamOob, s)
    | some a => (0, dramWrite s a l mask)

/-- An address in this device's own peer window (R44). -/
def ownWindow (s : State) (id : Nat) : Bool := s.bit rLkId 31 && id == ownId s

/-! ### Which bucket is next (R247, R250, R359) -/

/-- The luma descriptor of the frame that is being read into a frame intake unit: the first VIAFI
descriptor that has not been converted. -/
def fiLuma (x : Stream) : Option Nat :=
  x.fetched.findIdx? fun d => d.viafi && !d.chroma && !d.converted

/-- Place of a descriptor in the list, and whether chroma row j must come before its next row: rows 2j
and 2j + 1 have been asked for (R359). -/
def chromaTurn (x : Stream) (j : Nat) : Bool :=
  match x.fetched[j]?, x.fetched[j + 1]? with
  | some l, some c =>
    fiLuma x == some j && c.chroma && !c.rdDone && !fenceHolds x c
      && decide (2 * (c.rdPos / c.count 0 + 1) ≤ l.rdPos / l.count 0)
  | _, _ => false

/-- The descriptor whose bucket a stream reads next. -/
def readNext (x : Stream) : Option FDesc :=
  match x.fetched.findIdx? fun d => !d.rdDone with
  | none => none
  | some j => if chromaTurn x j then x.fetched[j + 1]? else x.fetched[j]?

/-- The stream's state lets it read data of a descriptor: it runs, or runs a descriptor to its boundary,
or fills from a source queue (R260, R263, R485). -/
def mayRead (x : Stream) (d : FDesc) : Bool :=
  match x.st with
  | .running => true
  | .cancelling => atBoundary x d
  | .faulting => x.fill.isSome && d.skind == 1
  | .idle => false

/-- Address and length of a descriptor's next read bucket (R240, R243). -/
def readSpan (d : FDesc) : Nat × Nat :=
  let a := (d.walkAddr d.base d.rdPos).toNat
  (a, Nat.min (64 - a % 64) (d.count 0 - d.rdPos % d.count 0))

/-- Output words that the first n source bytes of a descriptor make: a frame intake unit's words come in
proportion to the luma bytes (R245, R250, R361). DEDUCED: log 91. -/
def wordsAfter (s : State) (x : Stream) (d : FDesc) (n : Nat) : Nat :=
  if d.chroma then 0
  else if d.viafi then frameWords s x d * n / Nat.max 1 d.walkBytes
  else wordsFor x d (d.elems n)

/-- Words of its destination queue that a bucket produces, markers included (R250, R251). -/
def bucketWords (s : State) (x : Stream) (d : FDesc) : Nat :=
  if d.dkind ≠ 1 then 0
  else if d.skind = 1 then wordsPerWord x d
  else
    let n := d.rdPos + (readSpan d).2
    wordsAfter s x d n - wordsAfter s x d d.rdPos
      + b2n (d.markFirst && d.rdPos == 0) + b2n (d.markLast && n == d.walkBytes)

/-- Why a context does not issue. -/
inductive ReadWhy where
  | ready | slot | valve | fence | no
  deriving DecidableEq, Repr

/-- The float valve of the descriptor's destination queue is closed (R230, R250). -/
def valveHolds (s : State) (d : FDesc) : Bool :=
  match d.destQueue with
  | some (w, e) => (s.sq w e).valve
  | none => false

/-- The destination queue has free space for the bucket's words (R250). -/
def spaceFor (s : State) (x : Stream) (d : FDesc) : Bool :=
  match d.destQueue with
  | some (w, e) => decide (bucketWords s x d ≤ (s.sq w e).freeOpen)
  | none => true

/-- What the source gives now: a word in a source queue whose bank the schedule leaves free (R29), a usable
route to a peer. -/
def sourceReady (s : State) (x : Stream) (d : FDesc) : Bool :=
  match d.srcQueue with
  | some (w, e) => (s.sq w e).canPop && sideReadFree s w e
  | none =>
    match regionOf s (readSpan d).1 with
    | .peer id _ => ownWindow s id || routeFree s x id
    | _ => true

/-- Can context c of pump p issue a read bucket (R250)? -/
def readWhy (s : State) (p c : Nat) : ReadWhy :=
  let x := s.str (64 * p + c)
  match readNext x with
  | none => .no
  | some d =>
    if !mayRead x d then .no
    else if fenceHolds x d then .fence
    else if valveHolds s d then .valve
    else if !spaceFor s x d || !sourceReady s x d then .no
    else if 80 ≤ pumpReads s p then .slot
    else .ready

/-! ### Issue -/

/-- An outstanding read of the descriptor. -/
def addRead (s : State) (i : Nat) (d : FDesc) (kind : RdKind) (a n : Nat) (data : Option Line)
    (err : Nat) : State :=
  let x := s.str i
  s.setStr i { x with reads := x.reads ++ [⟨d.k, kind, a, n, bucketDeadline s i d, data, err⟩] }

/-- The descriptor's read position moves on by n bytes; `ends` says that nothing more will be asked
for. -/
def readMoved (s : State) (i k n : Nat) (ends : Bool) : State :=
  let x := s.str i
  s.setStr i (x.updDesc k fun d => { d with rdPos := d.rdPos + n, rdDone := d.rdDone || ends })

/-- A word is taken from the source queue; a frame marker ends the descriptor (R247). -/
def issueQueueRead (s : State) (i : Nat) (d : FDesc) (w e : Nat) : State :=
  let r := sqSidePop s w e
  let s := bwCount (addRead r.2 i d (.queue r.1) 0 64 none 0) (40 + w) 1
  if r.1.sb.marker then readMoved s i d.k 0 (markKind r.1 == 1)
  else
    let n := (d.rdPos + 64) / 64 * d.sfmt.perWord
    readMoved s i d.k 64 (if d.dkind = 0 then decide (d.walkBytes ≤ d.outBytes n)
      else decide (d.walkBytes ≤ d.rdPos + 64))

/-- A bucket of an address source: from memory, from the host through the host interface (R337, R338),
or from a peer with a PRD packet (R386, R398). DEDUCED: log 60. -/
def issueAddrRead (s : State) (i : Nat) (d : FDesc) : State :=
  let q := readSpan d
  let s := match regionOf s q.1 with
    | .host h =>
      if s.hi.timedOut && !s.mainbandUp then addRead s i d (.host 0) q.1 q.2 none stHostReadErr
      else
        let r := hostIssue s false (h / 64 * 64) 0 fullMask (.pump (i / 64) (i % 64))
        addRead r.2 i d (.host r.1) q.1 q.2 none 0
    | .peer id o =>
      if ownWindow s id then addRead s i d .mem q.1 q.2 none 0
      else
        let tag := s.lk.reqTag % 65536
        let s := { s with lk := { s.lk with reqTag := s.lk.reqTag + 1 } }
        let x := s.str i
        let s := s.setStr i { x with route := some (routeTo s id), sent := x.sent ++ [(s.clk, 65536 + tag)] }
        let s := addRead s i d (.peer tag) q.1 q.2 none 0
        sendTo s id ⟨5, false, BitVec.ofNat 10 id, BitVec.ofNat 10 (ownId s),
          BitVec.ofNat 64 (o / 64 * 64 + tag <<< 36), 0, 0, 0, []⟩
    | .cistern w _ _ | .weight w _ _ _ => bwCount (addRead s i d .mem q.1 q.2 none 0) (40 + w) 1
    | _ => addRead s i d .mem q.1 q.2 none 0
  readMoved s i d.k q.2 (decide (d.walkBytes ≤ d.rdPos + q.2))

/-- Issues context c's next read bucket, with its reservation (R250, R251). -/
def issueRead (s : State) (p c : Nat) : State :=
  let i := 64 * p + c
  let x := s.str i
  match readNext x with
  | none => s
  | some d =>
    let s := match d.destQueue with
      | some (w, e) => strReserve s i w e (bucketWords s x d)
      | none => s
    let s := event s 1 i 1
    match d.srcQueue with
    | some (w, e) => issueQueueRead s i d w e
    | none => issueAddrRead s i d

/-- What a cycle without issue counts for a context, and its VALVE bit (R267, R542). -/
def readHeld (s : State) (p c : Nat) : State :=
  let i := 64 * p + c
  let why := readWhy s p c
  let s := s.setStr i { s.str i with valve := why == .valve }
  match why with
  | .valve => event s 1 i 3
  | .fence => event s 1 i 4
  | .slot => event s 1 i 5
  | .ready | .no => s

/-- `PUMP_READ_ISSUE`: one read bucket of the pump's ready context with the earliest deadline (R250,
R254). DEDUCED: log 58. -/
def execPumpReadIssue (p : PumpIx) (s : State) : Out := clocked s <|
  let busy := busyContexts s p.val
  let s := busy.foldl (fun s c => readHeld s p.val c) s
  let ready := busy.filter fun c => readWhy s p.val c == .ready
  match earliest (ready.map fun c =>
      (c, bucketDeadline s (64 * p.val + c) ((readNext (s.str (64 * p.val + c))).getD
        (FDesc.fresh 0 0 [])))) with
  | none => .next s
  | some c => .next (issueRead s p.val c)

/-! ### Conversion (R243 to R247) -/

/-- One element's output code and saturation (R244, R394). -/
def pumpElem (d : FDesc) (c : Nat) : Nat × Bool :=
  if d.dkind = 2 then ((encodeFmt .fp32 (decodeFmt d.sfmt c)).1, false) else convertCode d.sfmt d.dfmt c

/-- Elements in an output word, and its bits. -/
def outWordBits (x : Stream) (d : FDesc) : Nat := (wordFmt x d).perWord * dstBits d

/-- Splits full words off a descriptor's output bits. -/
def splitWords (x : Stream) : FDesc → Nat → FDesc
  | d, 0 => d
  | d, n + 1 =>
    let b := outWordBits x d
    if b ≤ d.outLen then
      splitWords x { d with words := d.words ++ [⟨d.out % 2 ^ b, none, false⟩], out := d.out / 2 ^ b
                            outLen := d.outLen - b } n
    else d

/-- Output codes join the descriptor's output. -/
def addCodes (x : Stream) (d : FDesc) (cs : List Nat) : FDesc :=
  if d.dkind = 3 then d
  else
    let b := dstBits d
    let d := { d with out := d.out + (ofLanes b cs) <<< d.outLen, outLen := d.outLen + b * cs.length }
    if d.dkind = 0 then d else splitWords x d (cs.length + 1)

/-- Whole element groups of the raw bytes convert; saturations (R243, R244). -/
def convertRaw (x : Stream) (d : FDesc) : FDesc × Nat :=
  let n := d.rawLen / d.group.1 * d.group.1
  let b := srcBits d
  let r := (List.range (d.elems n)).map fun j => pumpElem d (laneOf d.raw b j % 2 ^ d.sfmt.width)
  (addCodes x { d with raw := d.raw / 2 ^ (8 * n), rawLen := d.rawLen - n, taken := d.taken + n }
      (r.map (·.1)),
    (r.filter (·.2)).length)

/-- Bits by which output of some bits is completed: to a byte, or in packed form to a whole group of three
bytes (R55). -/
def padBits (d : FDesc) (n : Nat) : Nat :=
  let g := if d.dstPacked then 24 else 8
  (g - n % g) % g

/-- The end of a descriptor's output: a last word partly filled is completed with zeros; packed groups
are completed (R55, R245). -/
def endOutput (x : Stream) (d : FDesc) : FDesc :=
  if d.dkind = 0 then
    { d with converted := true, outLen := d.outLen + padBits d (8 * d.wrPos + d.outLen) }
  else if d.outLen = 0 then { d with converted := true }
  else { d with converted := true, words := d.words ++ [⟨d.out % 2 ^ outWordBits x d, none, false⟩]
                out := 0, outLen := 0 }

/-- Output words of one source word bound for a queue (R247). -/
def wordOut (x : Stream) (d : FDesc) (wd : Word) : List OWord × Nat :=
  let r := (List.range d.sfmt.perWord).map fun j => pumpElem d (elemCode d.sfmt wd.data j)
  let per := (wordFmt x d).perWord
  let n := wordsPerWord x d
  let ws := (List.range n).map fun j =>
    ⟨ofLanes (dstBits d) (((r.map (·.1)).drop (per * j)).take per),
      some { wd.sb with bs := wd.sb.bs && j == 0 }, false⟩
  (ws, (r.filter (·.2)).length)

/-- A word from the source queue is taken up (R247, R485). -/
def takeWord (x : Stream) (d : FDesc) (wd : Word) : FDesc × Nat :=
  let toQueue := d.dkind = 1 || d.dkind = 2
  if wd.sb.marker then
    -- a marker passes whole; for a peer it stands as its 64 bytes
    (if toQueue then { d with words := d.words ++ [⟨wd.data.toNat, some wd.sb, false⟩] } else d, 0)
  else
    let d := { d with taken := d.taken + 64 }
    if x.fill.isSome then
      ({ d with words := d.words ++ List.replicate (wordsPerWord x d) ⟨0, none, false⟩ }, 0)
    else if toQueue then
      let r := wordOut x d wd
      ({ d with words := d.words ++ r.1 }, r.2)
    else if d.dkind = 3 then (d, 0)
    else
      let r := (List.range d.sfmt.perWord).map fun j => pumpElem d (elemCode d.sfmt wd.data j)
      let e := addCodes x d (r.map (·.1))
      let room := 8 * (d.walkBytes - d.wrPos)
      -- bytes beyond the end of the walk are dropped
      (if room < e.outLen then { e with out := e.out % 2 ^ room, outLen := room } else e,
        (r.filter (·.2)).length)

/-! ### Return -/

/-- Bytes of a line from an address on. -/
def lineFrom (l : Line) (a n : Nat) : Nat := (l.toNat >>> (8 * (a % 64))) % 2 ^ (8 * n)

/-- The reads of a bucket of register space, in order of address: bytes as a number. -/
def regPiecesRead (s : State) : List (Nat × Nat) → Nat × State
  | [] => (0, s)
  | (off, n) :: r =>
    let v := regRead s .mp off (n == 8)
    let t := regPiecesRead v.2 r
    (v.1 + t.1 <<< (8 * n), t.2)

/-- What a memory bucket reads: status, bytes as a number (R42, R48, R376). -/
def memBucket (s : State) (a n : Nat) : Nat × Nat × State :=
  match regionOf s a with
  | .regs off =>
    if piecesMapped s off n then
      let r := regPiecesRead s (regPieces 17 off n)
      (0, r.1, r.2)
    else (stStreamOob, 0, s)
  | .peer _ o =>
    let r := peerReadLine s o
    (r.1, lineFrom r.2.1 a n, r.2.2)
  | _ =>
    match lineRead s a with
    | none => (stStreamOob, 0, s)
    | some (l, ue, s) => (if ue then stEccUe else 0, lineFrom l a n, s)

/-- A returned bucket: none while its data is still on the way; else status, bytes, state. DEDUCED: log 52.
DEDUCED: log 53. -/
def readOutcome (s : State) (r : RdOut) : Option (Nat × Nat × State) :=
  match r.kind with
  | .mem => some (memBucket s r.addr r.len)
  | .queue _ => some (0, 0, s)
  | .host _ | .peer _ =>
    if r.err ≠ 0 then some (r.err, 0, s)
    else match r.data with
      | some l => some (0, lineFrom l r.addr r.len, s)
      | none => none

/-- A descriptor all of whose data has come is converted; a frame waits for its unit. -/
def settleDesc (x : Stream) (k : Nat) : Stream :=
  match x.desc k with
  | none => x
  | some d =>
    if d.rdDone && !d.converted && !d.viafi && !(x.reads.any fun r => r.k == k) then
      x.updDesc k (endOutput x)
    else x

/-- The stream joins the queue of its frame intake unit with its first bucket (R359). -/
def fiJoin (s : State) (i : Nat) (d : FDesc) : State :=
  let q := SMap.get (fun _ => []) s.fiq d.fiu
  if d.viafi && !q.contains i then
    { s with fiq := SMap.set (fun _ => []) s.fiq d.fiu (q ++ [i]) }
  else s

/-- The data of a returned bucket is taken up by its descriptor. -/
def absorb (s : State) (i : Nat) (r : RdOut) (d : FDesc) (v : Nat) : State :=
  let x := s.str i
  match r.kind with
  | .queue wd =>
    let q := takeWord x d wd
    let s := clusterSat (s.setStr i (settleDesc (x.updDesc d.k fun _ => q.1) d.k)) i q.2
    if wd.sb.marker then dcMarker s i wd else s
  | _ =>
    let d := { d with raw := d.raw + v <<< (8 * d.rawLen), rawLen := d.rawLen + r.len }
    if d.viafi then fiJoin (s.setStr i (x.updDesc d.k fun _ => d)) i d
    else
      let q := convertRaw x d
      clusterSat (s.setStr i (settleDesc (x.updDesc d.k fun _ => q.1) d.k)) i q.2

/-- Data of a stream that no longer takes it goes to the sink (R260, R263). -/
def wanted (x : Stream) (r : RdOut) : Option FDesc :=
  match x.desc r.k with
  | none => none
  | some d => if mayRead x d then some d else none

/-- Descriptors at the head that have issued all their output are done with: their writes are waited
for (R255, R257). A fill's descriptors do not signal (R261, R485). -/
def headDone (s : State) (i : Nat) (d : FDesc) : Bool :=
  let eos := match (s.str i).task with
    | some t => d.dkind == 1 && d.nextA == 0 && (match s.taskPipe t with
        | some p => (s.dc.pipe p).eos == some t && i == inStream s p
        | none => false)
    | none => false
  let marks := d.dkind == 1 || d.dkind == 2
  d.rdDone && d.converted && d.words.isEmpty && d.outLen == 0
    && (!marks || d.skind == 1 || ((!d.markFirst || d.started) && (!d.markLast || d.trailed)))
    && (!eos || d.eosDone)

/-- Takes finished descriptors off the head of the list. -/
def popHeads (s : State) (i : Nat) : Nat → State
  | 0 => s
  | n + 1 =>
    let x := s.str i
    match x.fetched with
    | [] => s
    | d :: r =>
      if x.fill.isNone && headDone s i d then
        popHeads (s.setStr i { x with
          fetched := r, sigs := x.sigs ++ [(d.k, d.sig || d.nextA == 0)]
          boundary := if x.boundary = some d.k then (r.head?.filter (atBoundary x)).map (·.k) else x.boundary }) i n
      else s

/-- After anything a stream's head waits for has changed. -/
def strSettle (s : State) (i : Nat) : State :=
  strVisible (popHeads s i ((s.str i).fetched.length)) i

/-- `READ_BUCKET_RETURN`: the oldest read bucket of the stream returns (R244 to R247, R262). -/
def execReadBucketReturn (p : PumpIx) (c : StreamIx) (s : State) : Out := clocked s <|
  let i := strIx p c
  match (s.str i).reads with
  | [] => .next s
  | r :: rest =>
    match readOutcome s r with
    | none => .next s
    | some (st, v, s) =>
      let s := bwCount s (48 + p.val / 4) 0
      let s := if r.deadline < s.dt then event s 1 i 6 else s
      let x := s.str i
      let s := s.setStr i { x with reads := rest }
      match wanted x r with
      | none => .next (strSettle (s.setStr i { s.str i with sunk := (s.str i).sunk + r.len }) i)
      | some d =>
        if st ≠ 0 && x.st = .cancelling then
          .next (boundaryLost (s.setStr i { s.str i with sunk := (s.str i).sunk + r.len }) i)
        else if st ≠ 0 && d.dkind != 3 then .next (strFault s i st d.addr (d.taken + d.rawLen))
        else .next (strSettle (absorb s i r d v) i)

/-! ### Frame intake -/

/-- The frame of a luma and a chroma descriptor has arrived whole. -/
def frameWhole (x : Stream) (j : Nat) : Option (FDesc × FDesc) :=
  match x.fetched[j]?, x.fetched[j + 1]? with
  | some l, some c =>
    if c.chroma && l.rawLen == l.walkBytes && c.rawLen == c.walkBytes then some (l, c) else none
  | _, _ => none

/-- The first stream leaves a unit's queue; one that has begun another frame joins again at its end. -/
def fiNext (s : State) (u i : Nat) : State :=
  let q := (SMap.get (fun _ => []) s.fiq u).erase i
  let x := s.str i
  let more := match (fiLuma x).bind fun j => x.fetched[j]? with
    | some d => d.fiu == u && d.rawLen != 0
    | none => false
  { s with fiq := SMap.set (fun _ => []) s.fiq u (if more then q ++ [i] else q) }

/-- `FRAME_INTAKE`: unit u turns the frame of the stream it serves into output words once both planes
have reached it (R359 to R362). DEDUCED: log 91. -/
def execFrameIntake (u : Fin 2) (s : State) : Out := clocked s <|
  match SMap.get (fun _ => []) s.fiq u.val with
  | [] => .next s
  | i :: _ =>
    let x := s.str i
    if x.st = .running || x.boundary.isSome then
      match (fiLuma x).bind fun j => frameWhole x j with
      | none => .next s
      | some (l, c) =>
        let q := fiListRead s l.fiu l.fiprof x.task
        match q.1 with
        | some _ => .next (fiNext (strFault q.2 i stEccUe l.addr l.rawLen) u.val i)
        | none =>
        let s := q.2
        let bps := fiBps s l.fiu l.fiprof
        let f : FiFrame := ⟨l.count 0 / bps, l.count 1, bps, l.raw, c.raw⟩
        let o := fiFrameOut s l.fiu l.fiprof f x.task
        let fin := fun (ws : List OWord) (d : FDesc) =>
          { d with raw := 0, rawLen := 0, taken := d.walkBytes, words := ws, converted := true }
        let x := (x.updDesc l.k (fin o.1)).updDesc c.k (fin [])
        let s := s.setStr i x
        let s := if o.2 = 0 then s
          else (s.addSat (rFiStatus u.val) 0 30 o.2).setBit (rFiStatus u.val) 31 true
        .next (strSettle (fiNext s u.val i) i)
    else .next (fiNext s u.val i)

end Sys2Proof.Machine
end

