-- ==== Sys2Proof/Machine/Encoder.lean ====
section
/-! DEFINITION. Link encoding and decoding of peer-stream words (R65, R66, R95 to R97, R394 to R396),
and the encoder entries of the sending ports (R399, R404). -/

namespace Sys2Proof.Machine

/-! ### Scales (R95) -/

/-- An encoder entry of a stream. -/
def State.encoder (s : State) (i : Nat) : Encoder := SMap.get (fun _ => Encoder.none_) s.lk.encoders i
/-- Writes an encoder entry. -/
def State.setEncoder (s : State) (i : Nat) (e : Encoder) : State :=
  { s with lk := { s.lk with encoders := SMap.set (fun _ => Encoder.none_) s.lk.encoders i e } }

/-- s_L of a stream. -/
def slOf (x : Stream) : FVal := f32 (bits x.link 0 32)
/-- Delayed mode. -/
def delayed (x : Stream) : Bool := bitAt x.link 32
/-- Blocks of a window. -/
def windowW (x : Stream) : Nat := bits x.link 33 8 + 1

/-- mmax of a wire format. -/
def mMax (f : Fmt) : Nat := if f = .fp8e4 then 448 else 1

/-- The adjustment of the next window from the largest block max-abs m, an FP32 code: the least k of
−8 to 7 with m ≤ mmax · s_L · 2^k (R95). No rule says what an infinite, negative or NaN s_L gives: −8, 7
and −8. DESIGN CHOICE: log 163. -/
def nextAdjust (wire : Fmt) (sl : FVal) (m : Nat) (a : Int) : Int :=
  if m = 0 then a
  else
    let ok := fun (k : Nat) =>
      !FVal.lt ((sl.mul (.ofInt (mMax wire))).scale2 ((k : Int) - 8)) (f32 m)
    match (List.range 16).find? ok with
    | some k => (k : Int) - 8
    | none => 7

/-- The window of a stream's encoder ends (R95). -/
def encoderWindow (x : Stream) (wire : Fmt) (e : Encoder) : Encoder :=
  { e with a := nextAdjust wire (slOf x) e.max e.a, max := 0, blocks := 0 }

/-- The wire format of a stream: DFMT of its oldest descriptor. -/
def wireOf (x : Stream) : Fmt :=
  match x.fetched with
  | d :: _ => d.dfmt
  | [] => .bf16

/-! ### Blocks (R96, R97, R395) -/

/-- x / s rounded once into FP8E4 (R66, R74). A zero stays a zero; a scale of zero makes the quotient
infinite, an infinite one zero. DEDUCED: log 184. -/
def fp8Encode (s x : FVal) : Nat × Bool :=
  match s, x with
  | .nan _, _ | .nav, _ | _, .nan _ | _, .nav | .inf _, .inf _ => encodeFmt .fp8e4 (.nan false)
  | .inf ns, .fin nx _ _ => encodeFmt .fp8e4 (.fin (nx != ns) 0 0)
  | .fin ns _ _, .inf nx => encodeFmt .fp8e4 (.inf (nx != ns))
  | .fin ns ms es, .fin nx m e =>
    if m = 0 then encodeFmt .fp8e4 (.fin (nx != ns) 0 0)
    else if ms = 0 then encodeFmt .fp8e4 (.inf (nx != ns))
    else
      let sh := Nat.log2 ms + 64
      let q := (m <<< sh) / ms
      let st := if (m <<< sh) % ms = 0 then 0 else 1
      encodeFmt .fp8e4 (.fin (nx != ns) (2 * q + st) (e - es - sh - 1))

/-- One element under scale s. -/
def blockElem (wire : Fmt) (s x : FVal) : Nat × Bool :=
  if wire = .fp8e4 then fp8Encode s x else bellEncode wire s x

/-- Greatest magnitude of a block as an FP32 code; NaN and NaV stand aside (R91). -/
def blockMax (l : List FVal) : Nat := (l.filterMap maxAbs).foldl Nat.max 0

/-- The E8M0 code of an escape block: the smallest power of two X with max-abs / X ≤ 448 (R96). Infinity
takes the greatest. DEDUCED: log 110. -/
def escapeScale (m : Nat) : Nat :=
  ((List.range 255).find? fun (k : Nat) =>
    !FVal.lt ((FVal.ofInt 448).scale2 ((k : Int) - 127)) (f32 m)).getD 254

/-- The block goes out as an escape block (R96). -/
def escapes (wire : Fmt) (s : FVal) (l : List FVal) (codes : List (Nat × Bool)) : Bool :=
  let m := blockMax l
  let isZero := fun (v : FVal) => match v with
    | .fin _ 0 _ => true
    | _ => false
  let nz := (List.range l.length).filter fun j => !isZero (l.getD j .zero)
  let lost := nz.filter fun j => isZero (decodeFmt wire (codes.getD j (0, false)).1)
  m != 0 && (FVal.lt ((s.mul (.ofInt (mMax wire))).scale2 1) (f32 m) || decide (nz.length < 2 * lost.length))

/-- A coded block. -/
structure CodedBlock where
  bytes : List Byte
  esc : Bool
  sats : Nat
  max : Nat
  deriving DecidableEq, Repr

/-- Payload of 32 codes (R395). -/
def payload (wire : Fmt) (cs : List Nat) : List Byte := leBytes (ofLanes wire.width cs) (4 * wire.width)

/-- Encodes a block of 32 values with adjustment a (R95, R96, R395). -/
def encodeBlock (wire : Fmt) (sl : FVal) (a : Int) (l : List FVal) : CodedBlock :=
  let s := sl.scale2 a
  let cs := l.map (blockElem wire s)
  let hd := codeOfInt 4 a
  if escapes wire s l cs then
    let k := escapeScale (blockMax l)
    let es := l.map fun v => encodeFmt .fp8e4 (v.scale2 (127 - (k : Int)))
    ⟨BitVec.ofNat 8 (hd + 128) :: payload .fp8e4 (es.map (·.1)) ++ [BitVec.ofNat 8 k], true,
      (es.filter (·.2)).length, blockMax l⟩
  else
    ⟨BitVec.ofNat 8 hd :: payload wire (cs.map (·.1)), false, (cs.filter (·.2)).length, blockMax l⟩

/-! ### Words -/

/-- The two header bytes of a coded word (R395). -/
def wordHeader (b : Sideband) : List Byte :=
  leBytes (b2n b.marker + 2 * b2n b.bs + 4 * b.btag.toNat + 256 * b.ctag.toNat) 2

/-- The encoder of a port counts the values of a block for the stream its statistics observe, its saturation
events in the window that the block leaves standing, and every escape block (R89 to R91, R404, R542). -/
def noteBlock (s : State) (n i : Nat) (l : List FVal) (b : CodedBlock) : State :=
  let p := s.port n
  let seen := bits (BitVec.ofNat 32 p.statSel) 24 5 * 64 + bits (BitVec.ofNat 32 p.statSel) 16 6 == i
  let st := if b.sats = 0 then p.stat else { p.stat with flag := true }
  let st := if seen then st.noteAll (l.map fun v => (0, maxAbs v)) else st
  let nb := if seen then p.blocks + 1 else p.blocks
  let ends := seen && st.perUnit && decide (1024 ≤ nb)
  let full := ends && st.due
  let st := if ends then st.unit else st
  let p := { p with
    stat := if seen then st.sats b.sats else st
    blocks := if ends then 0 else nb
    escSnap := if full then p.escLive + b2n b.esc else p.escSnap
    escLive := if full then 0 else p.escLive + b2n (seen && b.esc) }
  let s := s.setPort n p
  if b.esc then event s 6 n 3 else s

/-- A marker passes the encoder: a unit of a window that counts frame markers (R92, R404). -/
def noteMarker (s : State) (n i : Nat) : State :=
  let p := s.port n
  let seen := bits (BitVec.ofNat 32 p.statSel) 24 5 * 64 + bits (BitVec.ofNat 32 p.statSel) 16 6 == i
  if seen && !p.stat.perUnit then
    let full := p.stat.due
    s.setPort n { p with stat := p.stat.unit
                         escSnap := if full then p.escLive else p.escSnap
                         escLive := if full then 0 else p.escLive }
  else s

/-- Encodes the blocks of a word one after another (R95). -/
def encodeBlocks (s : State) (n i : Nat) (wire : Fmt) : List (List FVal) → List Byte × State
  | [] => ([], s)
  | l :: r =>
    let x := s.str i
    let e := s.encoder i
    let e := if delayed x && decide (windowW x ≤ e.blocks) then encoderWindow x wire e else e
    let b := encodeBlock wire (slOf x) (if delayed x then e.a else 0) l
    let s := s.setEncoder i { e with max := Nat.max e.max b.max, blocks := e.blocks + 1 }
    let s := noteBlock s n i l b
    let q := encodeBlocks s n i wire r
    (b.bytes ++ q.1, q.2)

/-- A list cut into pieces of 32. -/
def blocksOf32 (l : List FVal) : Nat → List (List FVal)
  | 0 => []
  | n + 1 => l.take 32 :: blocksOf32 (l.drop 32) n

/-- Encodes one word: a marker's 64 bytes as they are; BF16 wire rounded element by element, its 32 elements
counted as a block (R89, R91, R404); else block by block (R394, R395). `v` holds the FP32 codes of a data word. -/
def encodeWord (s : State) (n i : Nat) (wire dec : Fmt) (v : Nat) (b : Sideband) : List Byte × State :=
  if b.marker then (wordHeader b ++ leBytes v 64, noteMarker s n i)
  else
    let l := (List.range dec.perWord).map fun j => f32 (laneOf v 32 j)
    if wire = .bf16 then
      let cs := l.map (encodeFmt .bf16)
      let bs := leBytes (ofLanes 16 (cs.map (·.1))) 64
      (wordHeader b ++ bs, noteBlock s n i l ⟨bs, false, (cs.filter (·.2)).length, blockMax l⟩)
    else
      let r := encodeBlocks s n i wire (blocksOf32 l (dec.perWord / 32))
      (wordHeader b ++ r.1, r.2)

/-- Encodes the words of a packet. -/
def encodeWords (s : State) (n i : Nat) (wire dec : Fmt) : List (Nat × Sideband) → List Byte × State
  | [] => ([], s)
  | w :: r =>
    let q := encodeWord s n i wire dec w.1 w.2
    let t := encodeWords q.2 n i wire dec r
    (q.1 ++ t.1, t.2)

/-- Bytes as packet slots, the last one filled with zeros (R395). -/
def slotsOfBytes (bs : List Byte) : List Line :=
  (List.range ((bs.length + 63) / 64)).map fun j => lineOf ((bs.drop (64 * j)).take 64)

/-! ### Decoding (R396) -/

/-- Product rounded to FP32: the port's arithmetic. -/
def toF32 (v : FVal) : FVal := f32 (encodeFmt .fp32 v).1

/-- Bytes of a block's payload. -/
def payloadBytes (wire : Fmt) (esc : Bool) : Nat := if esc then 33 else 4 * wire.width

/-- Decodes a block: codes in the decoded format. -/
def decodeBlock (wire dec : Fmt) (sl : FVal) (bs : List Byte) : List Nat :=
  let hd := (bs.headD 0).toNat
  let esc := decide (128 ≤ hd)
  let v := leNat (bs.drop 1)
  (List.range 32).map fun j =>
    let x := if esc then
        FVal.mul (decodeFmt .fp8e4 (laneOf v 8 j)) (decodeFmt .e8m0 (laneOf v 8 32))
      else FVal.mul (decodeFmt wire (laneOf v wire.width j)) (sl.scale2 (signedOf 4 (hd % 16)))
    let y := match (if esc then decodeFmt .fp8e4 (laneOf v 8 j) else decodeFmt wire (laneOf v wire.width j)) with
      | .nav => .nav
      | _ => toF32 x
    (encodeFmt dec y).1

/-- Decodes n blocks at the head of a byte string: codes and what follows. -/
def decodeBlocks (wire dec : Fmt) (sl : FVal) : Nat → List Byte → List Nat × List Byte
  | 0, bs => ([], bs)
  | n + 1, bs =>
    let k := 1 + payloadBytes wire (decide (128 ≤ (bs.headD 0).toNat))
    let r := decodeBlocks wire dec sl n (bs.drop k)
    (decodeBlock wire dec sl (bs.take k) ++ r.1, r.2)

/-- Decodes the coded words of a packet (R395, R396). -/
def decodeWords (wire dec : Fmt) (sl : FVal) : Nat → List Byte → List Word
  | 0, _ => []
  | n + 1, bs =>
    let h := leNat (bs.take 2)
    let sb : Sideband := ⟨h % 2 == 1, h / 2 % 2 == 1, BitVec.ofNat 6 (h / 4), BitVec.ofNat 2 (h / 256)⟩
    let bs := bs.drop 2
    if sb.marker || wire == .bf16 then
      ⟨lineOf (bs.take 64), sb⟩ :: decodeWords wire dec sl n (bs.drop 64)
    else
      let r := decodeBlocks wire dec sl (dec.perWord / 32) bs
      ⟨lineOfCodes dec r.1, sb⟩ :: decodeWords wire dec sl n r.2

/-- `LINK_SCALE_WINDOW_END`: the encoder of port n has passed the W blocks of a window of the stream
(R95). -/
def execLinkScaleWindowEnd (n : Fin 6) (p : PumpIx) (c : StreamIx) (s : State) : Out := clocked s <|
  let i := strIx p c
  let x := s.str i
  let e := s.encoder i
  .next (if e.used && e.port == n.val && delayed x && decide (windowW x ≤ e.blocks) then
      s.setEncoder i (encoderWindow x (wireOf x) e)
    else s)

end Sys2Proof.Machine
end

