-- ==== Sys2Proof/Machine/PumpWrite.lean ====
section
/-! DEFINITION. The write side of the pumps (chapter 9, R394 to R399, R484, R485): the words and buckets
a stream writes, the fill of a faulted stream, and the completion of writes. -/

namespace Sys2Proof.Machine

/-! ### The words a descriptor writes into a queue (R246, R247, R485) -/

/-- The DC wants the end-of-stream marker after this descriptor: the last of the intake stream of the
micro-batch's last task (R284, R286). -/
def wantsEos (s : State) (i : Nat) (d : FDesc) : Bool :=
  match (s.str i).task with
  | none => false
  | some t =>
    d.dkind == 1 && d.nextA == 0 && !d.eosDone && (match s.taskPipe t with
      | some p => (s.dc.pipe p).eos == some t && i == inStream s p
      | none => false)

/-- A descriptor held after d that places a marker into a queue. -/
def laterMarker (x : Stream) (d : FDesc) : Bool :=
  (x.fetched.filter fun e => decide (d.k < e.k)).any fun e =>
    e.dkind == 1 && (e.skind == 1 || e.markFirst || e.markLast)

/-- Status that the next marker of a stream carries: zero outside a fill and before the last marker of
one; none while it is not known whether a later marker follows (R485). `more` says that the descriptor
itself places another. -/
def markerStatus (x : Stream) (d : FDesc) (more : Bool) : Option Nat :=
  match x.fill with
  | none => some 0
  | some st =>
    if more || laterMarker x d then some 0
    else if x.next.isSome then none
    else some st

/-- Words of data the descriptor would have written in all (R361, R485). DEDUCED: log 54. -/
def fillWords (s : State) (x : Stream) (d : FDesc) : Nat :=
  if d.chroma then 0
  else if d.viafi then frameWords s x d
  else wordsFor x d (d.elems d.walkBytes)

/-- A word about to be written: its value, its sideband, the descriptor and the tag counter after it. -/
structure Dressed where
  val : Nat
  sb : Sideband
  d : FDesc
  tag : BitVec 6
  deriving DecidableEq, Repr

/-- A marker placed by MARK or by the DC. -/
def dressMarker (s : State) (x : Stream) (d d' : FDesc) (more eos : Bool) : Option Dressed :=
  match markerStatus x d more with
  | none => none
  | some st =>
    some ⟨(if eos then eosLine s x.task st else markerLine s x.task st).toNat, ⟨true, false, x.tag, d.ctag⟩,
      d', x.tag⟩

/-- A data word of an address source takes its block start and tag; a fill word carries the counter as it
stands (R246, R361, R485). -/
def dressData (s : State) (x : Stream) (d d' : FDesc) (w : OWord) : Dressed :=
  let bs :=
    if x.fill.isSome then false
    else if d.viafi && fiRoi s d.fiu d.fiprof then w.start
    else d.blken && d.nWords % d.blen == 0
  let tag := if bs then x.tag + 1 else x.tag
  ⟨w.data, ⟨false, bs, tag, d.ctag⟩, { d' with nWords := d.nWords + 1 }, tag⟩

/-- A word that kept the sideband of its source queue; a marker of a fill may be the last one. -/
def dressKept (x : Stream) (d d' : FDesc) (w : OWord) (b : Sideband) : Option Dressed :=
  let plain : Dressed := ⟨w.data, b, { d' with nWords := d.nWords + b2n (!b.marker) }, x.tag⟩
  if b.marker && x.fill.isSome && w.data % 256 == 1 then
    match markerStatus x d false with
    | none => none
    | some 0 => some plain
    | some st => some { plain with val := (markAbort ⟨BitVec.ofNat 512 w.data, b⟩ st).data.toNat }
  else some plain

/-- The next word that descriptor d of stream x writes into its queue, if it has one. -/
def nextWord (s : State) (i : Nat) (x : Stream) (d : FDesc) : Option Dressed :=
  let own := d.skind == 0
  let eos := wantsEos s i d
  if own && d.markFirst && !d.started then
    dressMarker s x d { d with started := true } (d.markLast || eos) false
  else match d.words with
    | w :: r =>
      match w.sb with
      | some b => dressKept x d { d with words := r } w b
      | none => some (dressData s x d { d with words := r } w)
    | [] =>
      if own && x.fill.isSome && decide (d.nWords < fillWords s x d) then
        some (dressData s x d d ⟨0, none, false⟩)
      else if !(d.converted && d.outLen == 0) && !(own && x.fill.isSome) then none
      else if own && d.markLast && !d.trailed then dressMarker s x d { d with trailed := true } eos false
      else if eos then dressMarker s x d { d with eosDone := true } false true
      else none

/-- The head descriptor's queue output is finished: nothing is left to write. -/
def wordsDone (s : State) (i : Nat) (x : Stream) (d : FDesc) : Bool :=
  (nextWord s i x d).isNone && d.words.isEmpty
    && (if x.fill.isSome && d.skind == 0 then
          (!d.markFirst || d.started) && (!d.markLast || d.trailed) && decide (fillWords s x d ≤ d.nWords)
        else headDone s i d)

/-- Up to n words in a row. DEDUCED: log 104. -/
def gather (s : State) (i : Nat) : Stream → FDesc → Nat → List (Nat × Sideband) × FDesc × BitVec 6
  | x, d, 0 => ([], d, x.tag)
  | x, d, n + 1 =>
    match nextWord s i x d with
    | none => ([], d, x.tag)
    | some w =>
      let r := gather s i { x with tag := w.tag } w.d n
      ((w.val, w.sb) :: r.1, r.2.1, r.2.2)

/-! ### Buckets to an address (R240, R243, R245) -/

/-- Address and length of the descriptor's next write bucket; none while its bytes have not come. -/
def writeSpan (d : FDesc) : Option (Nat × Nat) :=
  let run := if d.skind = 1 then
      ((d.walkAddr d.dest d.wrPos).toNat, d.count 0 - d.wrPos % d.count 0)
    else (d.dest + d.wrPos, d.outTotal - d.wrPos)
  let n := Nat.min (64 - run.1 % 64) run.2
  let have_ := d.outLen / 8
  if 0 < n ∧ n ≤ have_ then some (run.1, n)
  else if d.converted ∧ 0 < have_ ∧ 0 < n then some (run.1, have_)
  else none

/-- The stream's task is aborted: writes to an address are dropped (R484). -/
def taskAborted (s : State) (x : Stream) : Bool :=
  match x.task with
  | some t => (s.dc.task t).abort && !(s.dc.task t).desc.dw.isEmpty
  | none => false

/-- A line whose bytes from an address on are a number's, and their mask. -/
def bytesLine (a n v : Nat) : Line × BitVec 64 :=
  (BitVec.ofNat 512 ((v % 2 ^ (8 * n)) <<< (8 * (a % 64))), BitVec.ofNat 64 ((2 ^ n - 1) <<< (a % 64)))

/-- An outstanding write of the stream. -/
def addWrite (s : State) (i : Nat) (d : FDesc) (kind : WrKind) (a : Nat) (l : Line) (m : BitVec 64) : State :=
  let x := s.str i
  let pos := match kind with
    | .queue _ | .peerQueue _ _ => 64 * d.nWords
    | .mem | .host _ | .peerMem _ => d.wrPos
  s.setStr i { x with writes := x.writes ++ [⟨d.k, kind, a, l, m, bucketDeadline s i d, d.addr, pos⟩] }

/-- Sends a bucket to its address: device memory, the host window (R337), or a peer window with a PWR
packet (R386). -/
def issueAddrWrite (s : State) (i : Nat) (d : FDesc) (a n : Nat) : State :=
  let l := bytesLine a n (d.out % 2 ^ (8 * n))
  match regionOf s a with
  | .host h =>
    if s.hi.timedOut && !s.mainbandUp then strFault s i stHostReadErr d.addr d.wrPos
    else
      let r := hostIssue s true (h / 64 * 64) l.1 l.2 (.pump (i / 64) (i % 64))
      addWrite r.2 i d (.host r.1) a l.1 l.2
  | .peer id o =>
    if ownWindow s id then addWrite s i d .mem a l.1 l.2
    else
      let tag := s.lk.reqTag % 65536
      let s := { s with lk := { s.lk with reqTag := s.lk.reqTag + 1 } }
      let x := s.str i
      let s := s.setStr i { x with route := some (routeTo s id), sent := x.sent ++ [(s.clk, 65536 + tag)] }
      let s := addWrite s i d (.peerMem tag) a l.1 l.2
      sendTo s id ⟨4, false, BitVec.ofNat 10 id, BitVec.ofNat 10 (ownId s),
        BitVec.ofNat 64 (o / 64 * 64 + tag <<< 36), l.2, l.2, 0, [l.1]⟩
  | .cistern w _ _ | .weight w _ _ _ => bwCount (addWrite s i d .mem a l.1 l.2) (40 + w) 0
  | _ => addWrite s i d .mem a l.1 l.2

/-! ### What a context can write -/

/-- What a stream would write next. -/
inductive WriteItem where
  | word (w : Dressed)
  | bytes (a n : Nat)
  | packet (ws : List (Nat × Sideband)) (d : FDesc) (tag : BitVec 6) (last : Bool)
  deriving DecidableEq, Repr

/-- The stream's state lets it write output of its head descriptor (R260, R263, R485). -/
def mayWrite (x : Stream) (d : FDesc) : Bool :=
  match x.st with
  | .running => true
  | .cancelling => atBoundary x d
  | .faulting => x.fill.isSome && d.dkind == 1
  | .idle => false

/-- Queue words of the stream that are issued and not yet in the queue. -/
def wordsOut (x : Stream) : Nat :=
  (x.writes.filter fun w => match w.kind with
    | .queue _ => true
    | _ => false).length

/-- The queue has a place for one more of the stream's words: one it reserved, or a free one (R228,
R251). -/
def roomFor (s : State) (x : Stream) (w e : Nat) : Bool :=
  decide (wordsOut x < x.resvOf w e + (s.sq w e).freeOpen)

/-- A packet is ready: 32 words with more to follow, or the descriptor's last ones. A full packet waits
until it is known whether it is the last (R395, R399). -/
def packetOf (s : State) (i : Nat) (x : Stream) (d : FDesc) : Option WriteItem :=
  let g := gather s i x d 33
  let p := gather s i x d 32
  if g.1.isEmpty then none
  else if 33 ≤ g.1.length then some (.packet p.1 p.2.1 p.2.2 false)
  else if headDone s i p.2.1 then some (.packet p.1 p.2.1 p.2.2 (d.nextA == 0 || x.boundary == some d.k))
  else none

/-- The port has an encoder entry for the stream, or one free (R399). -/
def encoderFree (s : State) (i n : Nat) : Bool :=
  (s.encoder i).used || decide ((s.lk.encoders.filter fun e => e.2.port == n).length < 128)

/-- A peer packet may go: route, credit and encoder (R389, R397, R399). -/
def packetMay (s : State) (i : Nat) (x : Stream) (d : FDesc) (n : Nat) : Bool :=
  let id := refPeer d.dest
  routeFree s x id && decide (n ≤ x.credit) && (routeTo s id == 6 || encoderFree s i (routeTo s id))

/-- What stream i can write now. -/
def writeNext (s : State) (i : Nat) : Option WriteItem :=
  let x := s.str i
  match x.fetched with
  | [] => none
  | d :: _ =>
    if !mayWrite x d || fenceHolds x d then none
    else match d.dkind with
      | 0 => (writeSpan d).bind fun q =>
          match regionOf s q.1 with
          | .peer id _ =>
            if ownWindow s id || routeFree s x id || taskAborted s x then some (.bytes q.1 q.2) else none
          | _ => some (.bytes q.1 q.2)
      | 1 =>
        if roomFor s x (refWell d.dest) (refEntry d.dest) then (nextWord s i x d).map .word else none
      | 2 =>
        (packetOf s i x d).bind fun it =>
          match it with
          | .packet ws _ _ _ => if packetMay s i x d ws.length then some it else none
          | _ => none
      | _ => none

/-- A CREDIT request of a peer stream whose credit stands below 64 words (R397). -/
def askCredit (s : State) (i : Nat) : State :=
  let x := s.str i
  match x.fetched with
  | [] => s
  | d :: _ =>
    let id := refPeer d.dest
    if d.dkind = 2 && mayWrite x d && !x.asked && decide (x.credit < 64) && routeFree s x id then
      let dw1 := refEntry d.dest + refWell d.dest <<< 10 + (i / 64) <<< 13 + (i % 64) <<< 18
      let s := s.setStr i { x with asked := true }
      sendTo s id ⟨2, false, BitVec.ofNat 10 id, BitVec.ofNat 10 (ownId s), BitVec.ofNat 64 dw1,
        BitVec.ofNat 64 (1 <<< 16), 0, 0, []⟩
    else s

/-- Sends a STREAM packet (R386, R395, R398). -/
def issuePacket (s : State) (i : Nat) (d : FDesc) (ws : List (Nat × Sideband)) (d' : FDesc) (tag : BitVec 6)
    (last : Bool) : State :=
  let x := s.str i
  let id := refPeer d.dest
  let port := routeTo s id
  let seq := x.pseq % 256
  let s := s.setEncoder i { s.encoder i with used := true, port := port }
  let r := encodeWords s port i d.dfmt (wordFmt x d) ws
  let s := r.2
  let x := (s.str i).updDesc d.k fun _ => d'
  let s := s.setStr i { x with
    tag := tag, pseq := x.pseq + 1, credit := x.credit - ws.length, route := some port
    sent := x.sent ++ [(s.clk, seq)] }
  let s := addWrite s i d (.peerQueue seq id) ws.length 0 0
  let s := if last then s.setEncoder i Encoder.none_ else s
  let dw1 := refEntry d.dest + refWell d.dest <<< 10 + (i / 64) <<< 13 + (i % 64) <<< 18 + seq <<< 24
    + d.dfmt.code <<< 32 + (wordFmt x d).code <<< 36 + (ws.length - 1) <<< 40 + b2n last <<< 46
  sendTo s id ⟨1, false, BitVec.ofNat 10 id, BitVec.ofNat 10 (ownId s), BitVec.ofNat 64 dw1,
    BitVec.ofNat 64 (bits x.link 0 32), 0, 0, slotsOfBytes r.1⟩

/-- Issues what stream i writes next. -/
def issueWrite (s : State) (i : Nat) (it : WriteItem) : State :=
  let x := s.str i
  match x.fetched with
  | [] => s
  | d :: _ =>
    match it with
    | .word w =>
      let s := event (s.setStr i { x.updDesc d.k fun _ => w.d with tag := w.tag }) 1 i 2
      let s := addWrite s i d (.queue ⟨BitVec.ofNat 512 w.val, w.sb⟩)
        (queueNo (refWell d.dest) (refEntry d.dest)) 0 fullMask
      bwCount s (40 + refWell d.dest) 0
    | .bytes a n =>
      let moved := fun (e : FDesc) =>
        { e with out := e.out / 2 ^ (8 * n), outLen := e.outLen - 8 * n, wrPos := e.wrPos + n }
      if taskAborted s x then s.setStr i (x.updDesc d.k moved)
      else
        let s := issueAddrWrite (event s 1 i 2) i d a n
        s.setStr i ((s.str i).updDesc d.k moved)
    | .packet ws d' tag last => issuePacket (event s 1 i 2) i d ws d' tag last

/-- Descriptors of a fill that have nothing left to write are dropped from its head; one that does not
feed a local queue writes nothing. A luma waits for its chroma to be known (R485). -/
def fillPops (s : State) (i : Nat) : Nat → State
  | 0 => s
  | n + 1 =>
    let x := s.str i
    match x.fetched with
    | [] => s
    | d :: r =>
      let known := !(d.viafi && !d.chroma) || !r.isEmpty || x.next.isNone
      if x.fill.isSome && (d.dkind != 1 || (wordsDone s i x d && known)) then
        fillPops (s.setStr i { x with fetched := r }) i n
      else s

/-- After a write is issued. -/
def writeSettle (s : State) (i : Nat) : State :=
  let s := fillPops s i (s.str i).fetched.length
  strSettle s i

/-- `PUMP_WRITE_ISSUE`: peer streams ask for credit; then one write bucket of the pump's ready context
with the earliest deadline (R240, R250, R397). -/
def execPumpWriteIssue (p : PumpIx) (s : State) : Out := clocked s <|
  let busy := busyContexts s p.val
  let s := busy.foldl (fun s c => askCredit s (64 * p.val + c)) s
  let s := busy.foldl (fun s c => writeSettle s (64 * p.val + c)) s
  if 32 ≤ pumpWrites s p.val then .next s
  else
    let cands := (busyContexts s p.val).filterMap fun c =>
      match writeNext s (64 * p.val + c), (s.str (64 * p.val + c)).fetched with
      | some _, d :: _ => some (c, bucketDeadline s (64 * p.val + c) d)
      | _, _ => none
    match earliest cands with
    | none => .next s
    | some c =>
      let i := 64 * p.val + c
      match writeNext s i with
      | none => .next s
      | some it => .next (writeSettle (issueWrite s i it) i)

/-! ### Completion (R256, R257) -/

/-- The address of the byte that an access reaches: through this device's own peer window it is the local DRAM
byte (R44, R400). -/
def byteAt (s : State) (a : Nat) : Nat :=
  match regionOf s a with
  | .peer id o => if ownWindow s id then (peerLocal s o).getD a else a
  | _ => a

/-- An earlier outstanding write of the stream touches a byte that write j touches, or enters the same
queue; a queue word keeps its queue reference in `addr` (R256). -/
def writeBlocked (s : State) (x : Stream) (j : Nat) (w : WrOut) : Bool :=
  (x.writes.take j).any fun e =>
    match e.kind, w.kind with
    | .queue _, .queue _ => e.addr == w.addr
    | .mem, .mem => byteAt s (e.addr / 64 * 64) == byteAt s (w.addr / 64 * 64) && (e.mask &&& w.mask) != 0
    | _, _ => false

/-- A memory write becomes visible: status and state (R42, R48, R374, R400). -/
def memWrite (s : State) (w : WrOut) : Nat × State :=
  match regionOf s w.addr with
  | .regs off =>
    let n := popcount w.mask.toNat 64
    if piecesMapped s off n then
      (0, (regPieces 17 off n).foldl (fun s q =>
        regWrite s .mp q.1 (q.2 == 8) (BitVec.ofNat 64 (lineFrom w.data (w.addr + (q.1 - off)) q.2))) s)
    else (stStreamOob, s)
  | .peer _ o => peerWriteLine s o w.data w.mask
  | _ =>
    match bucketWrite s (w.addr / 64 * 64) w.data w.mask with
    | some s => (0, s)
    | none => (stStreamOob, s)

/-- Removes write j of a stream that has become visible with n bytes (R267). -/
def writeGone (s : State) (i j n : Nat) : State :=
  let x := s.str i
  let x := { x with writes := removeAt x.writes j, bytes := x.bytes + n }
  strSettle (bwCount (s.setStr i x) (48 + i / 256) 1) i

/-- Write j of a stream has failed with a status: the stream faults at the write's descriptor and offset, and
that descriptor and those after it do not complete; only then is the write gone (R257, R262, R263). -/
def writeFail (s : State) (i j status : Nat) (w : WrOut) : State :=
  let s := strFault s i status w.desc w.pos
  let x := s.str i
  let s := s.setStr i { x with sigs := x.sigs.filter fun q => decide (q.1 < w.k) }
  writeGone (if x.boundary.any fun k => decide (w.k ≤ k) then boundaryLost s i else s) i j 0

/-- A word of a stream enters its queue when a place and a free bank cycle are there (R29, R227, R251). -/
def pushWord (s : State) (i w e : Nat) (wd : Word) : Option State :=
  let t := strUnreserve s i w e
  let y := t.well w
  let q := y.sq e
  let bank := 16 * (e / 16) + (q.base + q.t % Nat.max 1 q.size) % 16
  if q.canPush (retriesOf y e + slotsComing y e) && retriesOf y e == 0
      && !(y.banks.contains bank && !q.spilling && q.ringFree) then
    some (sqPush t w e wd)
  else none

/-- `WRITE_BUCKET_COMPLETE`: outstanding write `j` of the stream becomes visible; host and peer writes
complete by their own answers (R256, R257). -/
def execWriteBucketComplete (p : PumpIx) (c : StreamIx) (j : Nat) (s : State) : Out := clocked s <|
  let i := strIx p c
  let x := s.str i
  match x.writes[j]? with
  | none => .next s
  | some w =>
    if writeBlocked s x j w then .next s
    else
      let s := if w.deadline < s.dt then event s 1 i 6 else s
      match w.kind with
      | .mem =>
        let r := memWrite s w
        .next (if r.1 = 0 then writeGone r.2 i j (popcount w.mask.toNat 64) else writeFail r.2 i j r.1 w)
      | .queue wd =>
        match pushWord s i (w.addr / 1024) (w.addr % 1024) wd with
        | some s => .next (writeGone s i j 64)
        | none => .next s
      | .host _ | .peerMem _ | .peerQueue _ _ => .next s

end Sys2Proof.Machine
end

