-- ==== Sys2Proof/Machine/HostLink.lean ====
section
/-! DEFINITION. Answers to device-initiated host accesses, and the UCIe modules (R335 to R338). -/

namespace Sys2Proof.Machine

/-- Changes the accesses the host interface holds. -/
def setAccs (s : State) (l : List HostAcc) : State := { s with hi := { s.hi with accs := l } }

/-- The access of an id. -/
def accOf (s : State) (id : Nat) : Option HostAcc := s.hi.accs.find? fun a => a.id == id

/-- The read bucket of a host access has its answer: data, or a status. -/
def hostReadAnswer (s : State) (i id : Nat) (data : Option Line) (err : Nat) : State :=
  let x := s.str i
  s.setStr i { x with reads := x.reads.map fun r =>
    if r.kind == RdKind.host id then { r with data := data, err := err } else r }

/-- The write bucket of a host access is visible to the host, or has failed (R337, R338). -/
def hostWriteAnswer (s : State) (i id : Nat) (failed : Bool) : State :=
  let x := s.str i
  match x.writes.findIdx? (fun w => w.kind == WrKind.host id) with
  | none => s
  | some j =>
    match x.writes[j]? with
    | none => s
    | some w =>
      if failed then writeFail s i j stHostReadErr w else writeGone s i j (popcount w.mask.toNat 64)

/-- An access ends: its owner learns the outcome. A ring's record is written by its own command. -/
def accEnd (s : State) (a : HostAcc) (data : Line) (failed : Bool) : State :=
  let s := setAccs s (s.hi.accs.filter fun b => b.id != a.id)
  match a.owner with
  | .pump p c =>
    if a.wr then hostWriteAnswer s (64 * p + c) a.id failed
    else hostReadAnswer s (64 * p + c) a.id (if failed then none else some data)
      (if failed then stHostReadErr else 0)
  | .hart i rd n uns => hartAnswer s i rd n uns a.wr a.addr data failed
  | .desc p c =>
    let i := 64 * p + c
    match wantsDesc (s.str i), (s.str i).next with
    | true, some n =>
      if failed then descFail s i stHostReadErr n else descArrive s i n (lineWords data)
    | _, _ => s
  | .ring _ | .dc => s

/-- `HRD_COMPLETION`: a read issued on a module is answered (R336, R337). -/
def execHrdCompletion (id : Nat) (data : Line) (err : Bool) (s : State) : Out := clocked s <|
  match accOf s id with
  | none => .next s
  | some a =>
    if a.wr || a.module.isNone then .next s
    else
      let s := if err then hiError s 1 a.addr else s
      .next (accEnd s a data err)

/-- `HWR_COMPLETION`: a write issued on a module is visible to the host, or has failed (R337). -/
def execHwrCompletion (id : Nat) (err : Bool) (s : State) : Out := clocked s <|
  match accOf s id with
  | none => .next s
  | some a => if !a.wr || a.module.isNone then .next s else .next (accEnd s a 0 err)

/-- Counts the buckets of accesses that go out on module m (R546). -/
def countAccs (s : State) (m : Nat) (l : List HostAcc) : State :=
  l.foldl (fun s a => bwCount s (32 + m) (b2n a.wr)) s

/-- `UCIE_MODULE_DOWN`: accesses not completed on it are issued again on the other module, or wait
(R337, R338). -/
def execUcieModuleDown (m : Fin 2) (s : State) : Out := clocked s <|
  let up := moduleUp s m.val
  if up then
    let h := if m.val = 0 then { s.hi with up0 := false, rate0 := 0 } else { s.hi with up1 := false, rate1 := 0 }
    let s := { s with hi := h }
    let other := 1 - m.val
    let gone := s.hi.accs.filter fun a => a.module == some m.val
    if moduleUp s other then
      let l := s.hi.accs.map fun a => if a.module = some m.val then { a with module := some other } else a
      .next (countAccs (setAccs s l) other gone)
    else
      let l := s.hi.accs.map fun a =>
        if a.module = some m.val then { a with module := none, since := s.clk } else a
      .next (setAccs s l)
  else .next s

/-- `UCIE_MODULE_TRAINED`: the module carries traffic at the rate it trained; held accesses are issued on
it in their order, and vectors that wait send their messages (R335, R337, R338, R352). -/
def execUcieModuleTrained (m : Fin 2) (rate : BitVec 3) (s : State) : Out := clocked s <|
  if s.hasUcie m.val && decide (rate.toNat ≤ 5) then
    let r := rate.toNat
    let h := if m.val = 0 then { s.hi with up0 := true, rate0 := r, timedOut := false }
      else { s.hi with up1 := true, rate1 := r, timedOut := false }
    let held := s.hi.accs.filter fun a => a.module.isNone
    let l := s.hi.accs.map fun a => if a.module = none then { a with module := some m.val } else a
    .next (sendAllPending (countAccs (setAccs { s with hi := h } l) m.val held))
  else .next s

/-- `HOST_ACCESS_TIMEOUT`: an access held for 10 ms ends with an error; those of the DC's rings wait on
(R338). -/
def execHostAccessTimeout (id : Nat) (s : State) : Out := clocked s <|
  match accOf s id with
  | none => .next s
  | some a =>
    let ring := match a.owner with
      | .ring _ => true
      | _ => false
    if a.module.isNone && !ring && decide (a.since + 10000000 ≤ s.clk) && !s.mainbandUp then
      let s := { s with hi := { s.hi with timedOut := true } }
      .next (accEnd (if a.wr then s else hiError s 1 a.addr) a 0 true)
    else .next s

end Sys2Proof.Machine
end

