-- ==== Sys2Proof/Machine/PeerStreams.lean ====
section
/-! DEFINITION. The packets of peer streams and peer windows as they arrive, and the loss of peers
(R393, R396 to R402). -/

namespace Sys2Proof.Machine

/-! ### Packet fields (R386) -/

/-- Fields of DW1 that STREAM, CREDIT, STERR and COMPL share: destination entry and well, source pump and
context, sequence. -/
def pkQEntry (p : Packet) : Nat := bits p.dw1 0 10
/-- Well. -/
def pkQWell (p : Packet) : Nat := bits p.dw1 10 3
/-- The source's stream. -/
def pkStrIdx (p : Packet) : Nat := 64 * bits p.dw1 13 5 + bits p.dw1 18 6
/-- Sequence. -/
def pkSeqNo (p : Packet) : Nat := bits p.dw1 24 8
/-- Window offset of a PWR or PRD. -/
def pkWinOff (p : Packet) : Nat := bits p.dw1 0 36
/-- Its request tag. -/
def pkReqTagNo (p : Packet) : Nat := bits p.dw1 36 16

/-- A packet of this device to another. -/
def ownPacket (s : State) (kind dst dw1 dw2 : Nat) (data : List Line) : Packet :=
  ⟨BitVec.ofNat 4 kind, false, BitVec.ofNat 10 dst, BitVec.ofNat 10 (ownId s), BitVec.ofNat 64 dw1,
    BitVec.ofNat 64 dw2, 0, 0, data⟩

/-- Sends a packet of this device. -/
def sendOwn (s : State) (kind dst dw1 dw2 : Nat) (data : List Line) : State :=
  sendTo s dst (ownPacket s kind dst dw1 dw2 data)

/-- A packet of a kind addressed to this device. -/
def forHere (s : State) (p : Packet) (kind : Nat) : Bool :=
  p.kind.toNat == kind && s.bit rLkId 31 && p.dst.toNat == ownId s

/-! ### Ingress entries (R397) -/

/-- Key of an ingress entry. -/
def ingressKey (p : Packet) : Nat := p.src.toNat * 2048 + (pkStrIdx p)
/-- Entry k. -/
def State.ingress (s : State) (k : Nat) : Ingress := SMap.get (fun _ => Ingress.none_) s.lk.ingress k
/-- Writes entry k. -/
def State.setIngress (s : State) (k : Nat) (e : Ingress) : State :=
  { s with lk := { s.lk with ingress := SMap.set (fun _ => Ingress.none_) s.lk.ingress k e } }

/-- Reserves words of the entry's queue. -/
def ingressReserve (s : State) (k n : Nat) : State :=
  let e := s.ingress k
  let q := s.sq e.well e.entry
  (s.setIngress k { e with resv := e.resv + n }).setSq e.well e.entry { q with resv := q.resv + n }

/-- Returns n reserved words. -/
def ingressReturn (s : State) (k n : Nat) : State :=
  let e := s.ingress k
  let q := s.sq e.well e.entry
  let m := Nat.min n e.resv
  (s.setIngress k { e with resv := e.resv - m }).setSq e.well e.entry { q with resv := q.resv - m }

/-- Frees entry k with its reservation. -/
def ingressFree (s : State) (k : Nat) : State :=
  (ingressReturn s k (s.ingress k).resv).setIngress k Ingress.none_

/-- INGRESS_ABORT: the entry is freed, then one aborted marker follows the last word (R402). DEDUCED: log 105. -/
def ingressAbort (s : State) (k status : Nat) : State :=
  let e := s.ingress k
  if e.used then
    sideEnter (ingressFree s k) e.well e.entry ⟨markerLine s none status, ⟨true, false, 0, 0⟩⟩
  else s

/-- Words enter the destination queue, each with its reserved place; none where one has no place. -/
def ingressPush (s : State) (k : Nat) : List Word → Option State
  | [] => some s
  | wd :: r =>
    let e := s.ingress k
    let t := ingressReturn s k 1
    if (t.sq e.well e.entry).canPush && retriesOf (t.well e.well) e.entry == 0 then
      ingressPush (bwCount (sqPush t e.well e.entry wd) (40 + e.well) 0) k r
    else none

/-- Sends the COMPL of a STREAM packet (R398). -/
def streamCompl (s : State) (p : Packet) (status : Nat) : State :=
  sendOwn s 3 p.src.toNat (bits p.dw1 0 32 + status <<< 32 + 1 <<< 40) 0 []

/-- Bytes of packet data. -/
def slotBytes (l : List Line) : List Byte := l.flatMap fun x => leBytes x.toNat 64

/-- `STREAM_PACKET_ARRIVAL`: the words are decoded into the destination queue and the packet answered; a
gap in the sequence aborts the stream at both ends; a packet of a freed entry is discarded (R396 to
R398, R401, R402). -/
def execStreamPacketArrival (pk : Packet) (s : State) : Out := clocked s <|
  let k := ingressKey pk
  let e := s.ingress k
  if forHere s pk 1 && e.used then
    if (pkSeqNo pk) ≠ e.seq then
      .next (ingressAbort (sendOwn s 7 pk.src.toNat (bits pk.dw1 0 32) stLinkDown []) k stLinkDown)
    else
      let wire := Fmt.ofCode (bits pk.dw1 32 4)
      let dec := Fmt.ofCode (bits pk.dw1 36 4)
      let ws := decodeWords wire dec (f32 (bits pk.dw2 0 32)) (bits pk.dw1 40 6 + 1) (slotBytes pk.data)
      match ingressPush s k ws with
      | none => .next s
      | some s =>
        let e := s.ingress k
        let s := if bitAt pk.dw1 46 then ingressFree s k
          else s.setIngress k { e with seq := (e.seq + 1) % 256 }
        .next (streamCompl s pk 0)
  else .next s

/-! ### Credit -/

/-- Rate and time to empty of an entry's queue (R253). -/
def ingressTte (s : State) (e : Ingress) : Nat × Ingress :=
  let q := s.sq e.well e.entry
  let gone := s.clk - e.tteWin
  let e := if 1024 ≤ gone then
      { e with tteRate := (q.r - e.tteLast) * 1024 / gone, tteLast := q.r, tteWin := s.clk }
    else e
  (Nat.min ((q.filledCount + q.resv) * 1024 / Nat.max e.tteRate 1) (2 ^ 20 - 1), e)

/-- The queue a credit request names can be given to a stream, and the stream has or can get an entry.
DEDUCED: log 107. -/
def creditMay (s : State) (p : Packet) : Bool :=
  let q := s.sq (pkQWell p) (pkQEntry p)
  decide ((pkQEntry p) < 768) && s.hasWell (pkQWell p) && q.enabled && !q.isSem
    && ((s.ingress (ingressKey p)).used || decide (s.lk.ingress.length < 256))

/-- `CREDIT_REQUEST`: up to 512 words are reserved for the stream and granted with the queue's time to
empty; a stream that cannot get an entry waits (R397). -/
def execCreditRequest (pk : Packet) (s : State) : Out := clocked s <|
  let k := ingressKey pk
  if forHere s pk 2 && bitAt pk.dw2 16 && creditMay s pk then
    let q := s.sq (pkQWell pk) (pkQEntry pk)
    let s := if (s.ingress k).used then s
      else s.setIngress k ⟨true, (pkQWell pk), (pkQEntry pk), 0, 0, q.r, s.clk, 0⟩
    let e := s.ingress k
    let g := Nat.min (512 - e.resv) (s.sq e.well e.entry).freeOpen
    let s := ingressReserve s k g
    let t := ingressTte s (s.ingress k)
    .next (sendOwn (s.setIngress k t.2) 2 pk.src.toNat (bits pk.dw1 0 24) (g + t.1 <<< 17) [])
  else .next s

/-- `CREDIT_REPLY`: the grant joins the stream's credit, and its time to empty is the stream's (R397). -/
def execCreditReply (pk : Packet) (s : State) : Out := clocked s <|
  let i := (pkStrIdx pk)
  let x := s.str i
  if forHere s pk 2 && !bitAt pk.dw2 16 && x.asked then
    .next (s.setStr i { x with
      credit := x.credit + bits pk.dw2 0 16, tte := bits pk.dw2 17 20, asked := false })
  else .next s

/-! ### Answers to this device's packets -/

/-- The packet of a key is answered: ROUTE_CHANGE_APPLY follows once the list is empty (R389, R398). -/
def sentGone (s : State) (i key : Nat) : State :=
  let x := s.str i
  s.setStr i { x with sent := x.sent.filter fun q => q.2 != key }

/-- The stream whose request bears a tag. -/
def tagOwner (s : State) (tag : Nat) : Option Nat :=
  (s.strs.find? fun e => e.2.sent.any fun q => q.2 == 65536 + tag).map (·.1)

/-- The write bucket of a packet is answered with a status: it is gone, and a failing one faults the
stream (R263, R398). -/
def writeAnswer (s : State) (i : Nat) (kind : WrKind) (status : Nat) : State :=
  let x := s.str i
  match x.writes.findIdx? fun w => w.kind == kind with
  | none => s
  | some j =>
    match x.writes[j]? with
    | none => s
    | some w =>
      let n := match kind with
        | .peerQueue _ _ => 64 * w.addr
        | _ => popcount w.mask.toNat 64
      if status = 0 then writeGone s i j n else writeFail s i j status w

/-- The read bucket of a request tag has its answer. -/
def readAnswer (s : State) (i tag : Nat) (data : Option Line) (err : Nat) : State :=
  let x := s.str i
  s.setStr i { x with reads := x.reads.map fun r =>
    if r.kind == RdKind.peer tag && r.data.isNone && r.err == 0 then { r with data := data, err := err } else r }

/-- `COMPL_ARRIVAL`: a COMPL frees the pump slot of its packet or faults the stream with its status; a
PRSP brings the data or the status of a peer read (R386, R398). -/
def execComplArrival (pk : Packet) (s : State) : Out := clocked s <|
  if forHere s pk 3 then
    let status := bits pk.dw1 32 8
    if bitAt pk.dw1 40 then
      let i := (pkStrIdx pk)
      .next (writeAnswer (sentGone s i (pkSeqNo pk)) i (.peerQueue (pkSeqNo pk) pk.src.toNat) status)
    else
      let tag := bits pk.dw1 0 16
      match tagOwner s tag with
      | none => .next s
      | some i =>
        let s := writeAnswer (sentGone s i (65536 + tag)) i (.peerMem tag) status
        .next (if status = 0 then s else readAnswer s i tag none status)
  else if forHere s pk 6 then
    let tag := bits pk.dw1 0 16
    match tagOwner s tag with
    | none => .next s
    | some i =>
      let status := bits pk.dw1 16 8
      .next (readAnswer s i tag (if status = 0 then pk.data.head? else none) status)
  else .next s

/-! ### The peer-facing window (R400) -/

/-- Mask of bucket j of n of a PWR packet. -/
def pwrMask (p : Packet) (j n : Nat) : BitVec 64 :=
  if j = 0 then p.dw2 else if j + 1 = n then p.dw3 else fullMask

/-- Status of a peer write before anything is written. -/
def pwrStatus (s : State) (o n : Nat) : Nat :=
  if s.bit rLkPwCtrl 30 then stSecViolation
  else if (List.range n).all fun j => (peerLocal s (o + 64 * j)).isSome then 0 else stStreamOob

/-- `PWR_ARRIVAL` (R400). -/
def execPwrArrival (pk : Packet) (s : State) : Out := clocked s <|
  if forHere s pk 4 then
    let o := (pkWinOff pk) / 64 * 64
    let n := pk.data.length
    let st := pwrStatus s o n
    let s := if st = 0 then (List.range n).foldl (fun (s : State) j =>
        (peerWriteLine s (o + 64 * j) (pk.data.getD j 0) (pwrMask pk j n)).2) s
      else s
    .next (sendOwn s 3 pk.src.toNat ((pkReqTagNo pk) + st <<< 32) 0 [])
  else .next s

/-- Reads n lines of the window: the first failing status, the lines. -/
def prdLines (s : State) (o : Nat) : Nat → Nat × List Line × State
  | 0 => (0, [], s)
  | n + 1 =>
    let r := peerReadLine s o
    let q := prdLines r.2.2 (o + 64) n
    (if r.1 ≠ 0 then r.1 else q.1, r.2.1 :: q.2.1, q.2.2)

/-- `PRD_ARRIVAL`: answered with a PRSP that carries the data or a status, and with a COMPL (R398,
R400). DEDUCED: log 108. -/
def execPrdArrival (pk : Packet) (s : State) : Out := clocked s <|
  if forHere s pk 5 then
    let n := bits pk.dw2 0 5 + 1
    let r := prdLines s ((pkWinOff pk) / 64 * 64) n
    let tag := (pkReqTagNo pk)
    let s := sendOwn r.2.2 6 pk.src.toNat (tag + r.1 <<< 16) 0 (if r.1 = 0 then r.2.1 else [])
    .next (sendOwn s 3 pk.src.toNat (tag + r.1 <<< 32) 0 [])
  else .next s

/-! ### Faults (R401, R402) -/

/-- Device an outstanding write of a stream waits for. -/
def writePeer (s : State) (w : WrOut) : Option Nat :=
  match w.kind with
  | .peerQueue _ id => some id
  | .peerMem _ => peerOf s w.addr
  | _ => none

/-- Device an outstanding read waits for. -/
def readPeer (s : State) (r : RdOut) : Option Nat :=
  match r.kind with
  | .peer _ => peerOf s r.addr
  | _ => none

/-- Outstanding packets of the stream that answer to a test are given up: their slots are free. -/
def dropPackets (s : State) (i : Nat) (wr : WrOut → Bool) (rd : RdOut → Bool) : State :=
  let x := s.str i
  let keys := (x.writes.filter wr).filterMap (fun w => match w.kind with
      | .peerQueue q _ => some q
      | .peerMem t => some (65536 + t)
      | _ => none)
    ++ (x.reads.filter rd).filterMap (fun r => match r.kind with
      | .peer t => some (65536 + t)
      | _ => none)
  s.setStr i { x with
    writes := x.writes.filter fun w => !wr w
    reads := x.reads.filter fun r => !rd r
    sent := x.sent.filter fun q => !keys.contains q.2 }

/-- A write to a peer queue. -/
def isPeerQueue (w : WrOut) : Bool :=
  match w.kind with
  | .peerQueue _ _ => true
  | _ => false

/-- `STERR_ARRIVAL`: at the source the stream faults LINK_DOWN; at a destination the entry is freed and
an aborted marker written (R401, R402). -/
def execSterrArrival (pk : Packet) (s : State) : Out := clocked s <|
  if forHere s pk 7 then
    let k := ingressKey pk
    let e := s.ingress k
    let s := if e.used && e.well == (pkQWell pk) && e.entry == (pkQEntry pk) then ingressAbort s k stLinkDown else s
    let i := (pkStrIdx pk)
    let x := s.str i
    match x.fetched.find? fun d => d.dkind == 2 && refPeer d.dest == pk.src.toNat
        && refWell d.dest == (pkQWell pk) && refEntry d.dest == (pkQEntry pk) with
    | some d => .next (dropPackets (strFault s i stLinkDown d.addr 0) i isPeerQueue fun _ => false)
    | none => .next s
  else .next s

/-- Packets of a stream that have waited for their answer for E2E_US: their keys. -/
def lateKeys (s : State) (x : Stream) : List Nat :=
  (x.sent.filter fun q => decide (q.1 + s.fld rLkTimeout 0 16 * 1000 ≤ s.clk)).map (·.2)

/-- The write bears one of the keys. -/
def writeKeyIn (l : List Nat) (w : WrOut) : Bool :=
  match w.kind with
  | .peerQueue q _ => l.contains q
  | .peerMem t => l.contains (65536 + t)
  | _ => false

/-- The read bears one of the keys. -/
def readKeyIn (l : List Nat) (r : RdOut) : Bool :=
  match r.kind with
  | .peer t => l.contains (65536 + t)
  | _ => false

/-- `E2E_TIMEOUT`: a packet without an answer for E2E_US faults its stream: LINK_DOWN while the peer is a
member, else PEER_LOST (R401). -/
def execE2eTimeout (p : PumpIx) (c : StreamIx) (s : State) : Out := clocked s <|
  let i := strIx p c
  let x := s.str i
  let l := lateKeys s x
  if l.isEmpty then .next s
  else
    let peers := (x.writes.filter (writeKeyIn l)).filterMap (writePeer s)
      ++ (x.reads.filter (readKeyIn l)).filterMap (readPeer s)
    let st := if peers.all fun q => isMember s q then stLinkDown else stPeerLost
    let at_ := (x.fetched.head?.map (·.addr)).getD 0
    let s := dropPackets (strFault s i st at_ 0) i (writeKeyIn l) (readKeyIn l)
    let x := s.str i
    .next (s.setStr i { x with sent := x.sent.filter fun q => !l.contains q.2 })

/-- A peer is lost: its leave has been received, or it has had no route for LOSS_MS (R393). -/
def peerLost (s : State) (id : Nat) : Bool :=
  isMember s id && (s.lk.left.contains id
    || (match s.lk.noRoute.find? fun e => e.1 == id with
        | some e => decide (e.2 + s.fld rLkTimeout 16 16 * 1000000 ≤ s.clk + 1)
        | none => false))

/-- The stream names the device, or waits for it. -/
def strNames (s : State) (x : Stream) (id : Nat) : Bool :=
  (x.fetched.any fun d => (peersNamed s d).contains id)
    || (x.writes.any fun w => writePeer s w == some id) || (x.reads.any fun r => readPeer s r == some id)

/-- The loss reaches a stream. -/
def strPeerLost (s : State) (id i : Nat) : State :=
  let x := s.str i
  if x.st != .idle && strNames s x id then
    let wr := fun w => writePeer s w == some id
    let rd := fun r => readPeer s r == some id
    let at_ := (x.fetched.head?.map (·.addr)).getD 0
    dropPackets (strFault s i stPeerLost at_ 0) i wr rd
  else s

/-- `PEER_LOSS`: the member's bit clears; every stream that names it faults PEER_LOST; its ingress entries
are aborted (R393, R401, R402). -/
def execPeerLoss (id : BitVec 10) (s : State) : Out := clocked s <|
  let d := id.toNat
  if peerLost s d && s.mpTurn 3 then
    let s := setMember s d false
    let s := { s with lk := { s.lk with
      left := s.lk.left.filter (· != d), noRoute := SMap.erase s.lk.noRoute d } }
    let s := (s.strs.map (·.1)).foldl (fun s i => strPeerLost s d i) s
    let keys := (s.lk.ingress.filter fun e => e.1 / 2048 == d).map (·.1)
    .next (keys.foldl (fun s k => ingressAbort s k stPeerLost) s)
  else .next s

/-- No peer stream or peer access of the device is in progress: nothing that runs names a peer, nothing
waits for one, and no stream of a peer has an entry here. -/
def peersQuiet (s : State) : Bool :=
  s.lk.ingress.isEmpty && s.strs.all fun e =>
    e.2.st == .idle || (e.2.sent.isEmpty && e.2.fetched.all fun d => (peersNamed s d).isEmpty)

/-- Disables port n. -/
def portDisable (s : State) (n : Nat) : State :=
  let s := s.setBit (rLkCfg n) 31 false
  if portState s n = lkDown then s else portClose s n

/-- `LEAVE_COMPLETE` (R392). -/
def execLeaveComplete (s : State) : Out := clocked s <|
  if dstate s = 3 && peersQuiet s && s.mpTurn 3 then
    let s := (List.range 6).foldl portDisable s
    .next ((setMember s (ownId s) false).setFld rLkEpoch 29 3 0)
  else .next s

end Sys2Proof.Machine
end

