-- ==== Sys2Proof/Machine/Cores.lean ====
section
/-! DEFINITION. Loads and stores of the service cores (R42, R376, R400, R422, R423). -/

namespace Sys2Proof.Machine

/-! ### Physical memory protection, as the RISC-V privileged specification that R422 names has it -/

/-- Configuration byte of region j. -/
def Hart.pmpCfg (h : Hart) (j : Nat) : Nat := bits (h.getCsr (0x3A0 + 2 * (j / 8))) (8 * (j % 8)) 8
/-- Address register of region j. -/
def Hart.pmpAddr (h : Hart) (j : Nat) : Nat := bits (h.getCsr (0x3B0 + j)) 0 54

/-- Ones at the low end of a number of up to n bits. -/
def lowOnes (v : Nat) : Nat → Nat
  | 0 => 0
  | n + 1 => if v % 2 = 1 then 1 + lowOnes (v / 2) n else 0

/-- First address and length of region j; none when it is off. -/
def Hart.pmpRange (h : Hart) (j : Nat) : Option (Nat × Nat) :=
  let a := h.pmpAddr j
  match h.pmpCfg j / 8 % 4 with
  | 0 => none
  | 1 =>
    let lo := if j = 0 then 0 else 4 * h.pmpAddr (j - 1)
    some (lo, 4 * a - lo)
  | 2 => some (4 * a, 4)
  | _ =>
    let k := lowOnes a 54
    some ((a >>> k) <<< (k + 2), 2 ^ (k + 3))

/-- Loads and stores act in M-mode: under `mstatus.MPRV` in the mode of MPP. -/
def Hart.memM (h : Hart) : Bool :=
  h.m && !(bitAt (h.getCsr 0x300) 17 && bits (h.getCsr 0x300) 11 2 != 3)

/-- The access is allowed: the first region that any byte meets decides. -/
def Hart.pmpAllows (h : Hart) (a n : Nat) (store : Bool) : Bool :=
  let hit := fun j => match h.pmpRange j with
    | some (lo, len) => decide (a < lo + len ∧ lo < a + n)
    | none => false
  match (List.range 16).find? hit with
  | none => h.memM
  | some j =>
    let whole := match h.pmpRange j with
      | some (lo, len) => decide (lo ≤ a ∧ a + n ≤ lo + len)
      | none => false
    let c := h.pmpCfg j
    whole && ((h.memM && !decide (128 ≤ c)) || (if store then c / 2 % 2 == 1 else c % 2 == 1))

/-! ### Targets -/

/-- A word of `n` bytes at an address as a masked line. -/
def storeLine (a n : Nat) (v : W64) : Line × BitVec 64 :=
  (BitVec.ofNat 512 ((v.toNat % 2 ^ (8 * n)) <<< (8 * (a % 64))), BitVec.ofNat 64 ((2 ^ n - 1) <<< (a % 64)))

/-- A load of n bytes: the value; none is an access fault. -/
def coreLoad (s : State) (p : Path) (a n : Nat) : Option Nat × State :=
  match regionOf s a with
  | .regs off =>
    if (n = 4 ∨ n = 8) ∧ regMapped s off (n == 8) then
      let r := regRead (dpDrainAll s) p off (n == 8)
      (some r.1, r.2)
    else (none, s)
  | .host _ | .peer _ _ | .unmapped => (none, s)
  | .cistern w _ _ | .weight w _ _ _ =>
    match lineRead (bwCount s (40 + w) 1) a with
    | none => (none, s)
    | some (l, _, s) => (some (lineFrom l a n), s)
  | .dram | .scSram _ _ =>
    match lineRead s a with
    | none => (none, s)
    | some (l, ue, s) => (if ue then none else some (lineFrom l a n), s)

/-- A store of n bytes; none is an access fault. -/
def coreStore (s : State) (p : Path) (a n : Nat) (v : W64) : Option State :=
  match regionOf s a with
  | .regs off =>
    if (n = 4 ∨ n = 8) ∧ regMapped s off (n == 8) then some (pathWrite s p off (n == 8) v) else none
  | .cistern w _ _ | .weight w _ _ _ =>
    (bucketWrite s (a / 64 * 64) (storeLine a n v).1 (storeLine a n v).2).map fun s => bwCount s (40 + w) 0
  | _ => bucketWrite s (a / 64 * 64) (storeLine a n v).1 (storeLine a n v).2

/-- The cluster in whose SRAM an address lies. -/
def sramCluster (s : State) (a : Nat) : Option Nat :=
  match regionOf s a with
  | .scSram c _ => some c
  | _ => none

/-- The SRAM's SECDED outcome: a corrected error is counted, an uncorrectable one of a read is logged with
the scope of the hart (R423). -/
def sramSeen (s : State) (i c a : Nat) (e : EccSeen) (store : Bool) : State :=
  match e with
  | .clean => s
  | .corrected => s.addSat (rScClStatus c) 0 16 1
  | .uncorrectable => if store then s else logEntry s (mkFault stSramUe 9 i a) 4 none none

/-- Reservations of other harts on a stored-to place are lost. -/
def loseResv (s : State) (i a : Nat) : State :=
  (List.range 32).foldl (fun (s : State) j =>
    let h := s.hart j
    match h.resv with
    | some b => if j ≠ i ∧ b / 64 = a / 64 then s.setHart j { h with resv := none } else s
    | none => s) s

/-- A store that has taken effect, or faulted; every other reservation of its line is lost. -/
def coreStored (s : State) (i a : Nat) : Option State → State
  | none => accessFault s i true a
  | some t => hartStored (loseResv t i a) i

/-- A load that has returned its value, or faulted. -/
def coreLoaded (s : State) (i rd a n : Nat) (u : Bool) : Option Nat → State
  | none => accessFault s i false a
  | some v => hartLoaded s i rd n u v

/-- An access to host memory: it fails at once after a timeout, else the core waits for its bucket. -/
def coreHost (s : State) (i rd h : Nat) (x : ScAccess) : State :=
  let n := 2 ^ x.size.toNat
  if s.hi.timedOut && !s.mainbandUp then accessFault s i x.store x.addr.toNat
  else
    let l := storeLine h n x.value
    let r := hostIssue s x.store h l.1 l.2 (.hart i rd n x.unsigned)
    r.2.setHart i { r.2.hart i with run := .bucket }

/-- The outcome of an access that meets its target. -/
def coreTarget (s : State) (c : Fin 4) (i rd : Nat) (x : ScAccess) : State :=
  let a := x.addr.toNat
  let n := 2 ^ x.size.toNat
  match regionOf s a with
  | .host h => coreHost s i rd h x
  | _ =>
    if x.store then coreStored s i a (coreStore s (.sc c) a n x.value)
    else
      let r := coreLoad s (.sc c) a n
      coreLoaded r.2 i rd a n x.unsigned r.1

/-- Register rd takes a value unless the access faulted: the core still runs (R422). -/
def condResult (s : State) (i rd : Nat) (ok : Bool) (v : W64) : State :=
  if ok then s.setHart i ((s.hart i).setX rd v) else s

/-- A load-reserved or store-conditional in the cluster's own SRAM. DEDUCED: log 118. -/
def coreAtomic (s : State) (c : Fin 4) (i rd : Nat) (x : ScAccess) : State :=
  let a := x.addr.toNat
  let n := 2 ^ x.size.toNat
  if x.store then
    let held := (s.hart i).resv == some a
    let s := s.setHart i { s.hart i with resv := none }
    if held then
      let r := coreStore s (.sc c) a n x.value
      condResult (coreStored s i a r) i rd r.isSome 0
    else condResult (hartStored s i) i rd true 1
  else
    let r := coreLoad s (.sc c) a n
    let t := coreLoaded r.2 i rd a n x.unsigned r.1
    if r.1.isSome then t.setHart i { t.hart i with resv := some a } else t

/-- An access of a running hart: alignment, protection, the SRAM's outcome, then the target (R422,
R423). -/
def coreAccess (s : State) (c : Fin 4) (i rd : Nat) (x : ScAccess) : State :=
  let a := x.addr.toNat
  let n := 2 ^ x.size.toNat
  let own := sramCluster s a
  if a % n ≠ 0 then misaligned s i x.store a
  else if !(s.hart i).pmpAllows a n x.store then accessFault s i x.store a
  else if x.atomic && (own != some c.val || n < 4) then accessFault s i x.store a
  else
    let t := match own with
      | some k => sramSeen s i k a x.ecc x.store
      | none => s
    if own.isSome && x.ecc == .uncorrectable && !x.store then accessFault t i false a
    else if x.atomic then coreAtomic t c i rd x
    else coreTarget t c i rd x

/-- `SC_ACCESS`. -/
def execScAccess (c : Fin 4) (n : Fin 8) (rd : Fin 32) (a : ScAccess) (s : State) : Out := clocked s <|
  .next (if s.hasSc c.val && (s.hart (hartIx c n)).run == .running then coreAccess s c (hartIx c n) rd.val a
    else s)

end Sys2Proof.Machine
end

