-- ==== Sys2Proof/Machine/Checks.lean ====
section
/-! DEFINITION. The checks the MP makes of a context before it writes GO, and of an image's queue tables
and pipeline registers (R22, R61, R103, R116, R132 to R134, R138, R146, R152, R166, R168, R196, R200, R209,
R216, R222, R278, R290). Each is written over the words a context lists; an unlisted word is zero, which is
`NOP` in both memories. -/

namespace Sys2Proof.Machine

/-- The run an image is checked for: physical wells in rising order, direction, and the declared duty of
each slice, keyed 8 · well + slice (R316, R328). -/
structure Run where
  wells : List Nat
  reversed : Bool
  duty : SMap Nat
  deriving DecidableEq, Repr

/-- A well belongs to the run. -/
def Run.has (r : Run) (w : Nat) : Bool := r.wells.contains w
/-- Declared duty of a slice; none is 0 (R328). DEDUCED: log 67. -/
def Run.dutyOf (r : Run) (w i : Nat) : Nat := SMap.get (fun _ => 0) r.duty (8 * w + i)

/-! ### Loops and jumps (R133, R134, R200) -/

/-- A loop word: its place, level and END. -/
structure LoopWord where
  at_ : Nat
  lvl : Nat
  last : Nat
  deriving DecidableEq, Repr

/-- An address stands in the body of a loop. -/
def LoopWord.holds (l : LoopWord) (i : Nat) : Bool := decide (l.at_ < i) && decide (i ≤ l.last)

/-- Bodies follow their `LOOP`, and a loop inside another has a level of its own and ends inside it. -/
def loopsNest (l : List LoopWord) : Bool :=
  l.all fun a => decide (a.at_ < a.last)
    && l.all fun b => !a.holds b.at_ || (b.lvl != a.lvl && decide (b.last ≤ a.last))

/-- No jump enters a body it does not stand in. -/
def jumpsOk (l : List LoopWord) (jumps : List (Nat × Nat)) : Bool :=
  jumps.all fun j => l.all fun a => !a.holds j.2 || a.holds j.1

/-! ### Programs of the threads -/

/-- Program words that context x of a thread lists, by index. -/
def threadProg (y : Slice) (x : Nat) : List (Nat × W64) :=
  (y.prog.filter fun p => decide (256 * x ≤ p.1) && decide (p.1 < 256 * x + 256)).map fun p =>
    (p.1 - 256 * x, p.2)

/-- The instructions among them. -/
def threadOps (y : Slice) (x : Nat) : List (Nat × MsqOp) :=
  (threadProg y x).filterMap fun p => (decodeMsq p.2).map fun op => (p.1, op)

/-- `LOOP` words of a program. -/
def msqLoops (l : List (Nat × MsqOp)) : List LoopWord :=
  l.filterMap fun p => match p.2 with
    | .loop lvl _ last => some ⟨p.1, lvl.toNat, last.toNat⟩
    | _ => none

/-- `JMP` and `BRC` words of a program with their targets. -/
def msqJumps (l : List (Nat × MsqOp)) : List (Nat × Nat) :=
  l.filterMap fun p => match p.2 with
    | .jmp t => some (p.1, t.toNat)
    | .brc _ _ _ t => some (p.1, t.toNat)
    | _ => none

/-- Kinds of accumulator that the MMA runs of a program name: INT32 or not (R103). -/
def msqKinds (l : List (Nat × MsqOp)) : List Bool :=
  l.filterMap fun p => match p.2 with
    | .mma f | .mmaz f => (pairOf f.afmt f.wfmt).map (·.int32)
    | _ => none

/-- Every well's slices in the order of the relay chain (R117, R318). -/
def Run.chain (r : Run) : List (Nat × Nat) :=
  if r.reversed then r.wells.reverse.flatMap fun w => (List.range 8).reverse.map fun i => (w, i)
  else r.wells.flatMap fun w => (List.range 8).map fun i => (w, i)

/-- Forwarding loads of a slice's program (R138). -/
def fwdLoads (s : State) (x : Nat) (p : Nat × Nat) : List WldF :=
  (threadOps ((s.well p.1).slice p.2) x).filterMap fun q => match q.2 with
    | .wld f => if f.fwd then some f else none
    | _ => none

/-- The forwarding loads of the nearest slice up the chain that has any: the heads of the relay. -/
def relayHeads (s : State) (r : Run) (x : Nat) (p : Nat × Nat) : List WldF :=
  ((((r.chain.takeWhile (· != p)).reverse).map (fwdLoads s x)).find? fun l => !l.isEmpty).getD []

/-- A storing relay names LINES, DCNT and SIDE as its head does (R138). -/
def relayShape (s : State) (r : Run) (x : Nat) (p : Nat × Nat) (f : WrelayF) : Bool :=
  let h := relayHeads s r x p
  f.mode == 1 || h.isEmpty
    || h.any fun g => g.lines1 == f.lines1 && g.dcnt1 == f.dcnt1 && g.side == f.side

/-- A semaphore reference names an enabled entry of a well of the run, and for an update one without
a buffer (R146). -/
def semRefOk (s : State) (r : Run) (f : SemF) (update : Bool) : Bool :=
  let e := s.sq f.well.toNat f.sq.toNat
  r.has f.well.toNat && e.enabled && (!update || e.isSem)

/-- One instruction of thread (w, i) obeys the rules that look beyond its own word: the run for relays
(R22), its shape (R138), semaphores (R146), barriers of the home well (R278), duty (R152). -/
def msqRefOk (s : State) (r : Run) (x : Nat) (p : Nat × Nat) : MsqOp → Bool
  | .wld f => !f.fwd || r.chain.getLast? != some p
  | .wrelay f => (f.mode != 0 || r.chain.getLast? != some p) && relayShape s r x p f
  | .qwait f => semRefOk s r f false
  | .semsig f | .semwait f => semRefOk s r f true
  | .bar b => bitAt ((s.well (r.wells.headD 0)).bar b.toNat).cfg 31
  | .ptok d => decide (d.toNat ≤ r.dutyOf p.1 p.2)
  | _ => true

/-- A thread's program in context x passes. -/
def threadOk (s : State) (r : Run) (x : Nat) (p : Nat × Nat) : Bool :=
  let y := (s.well p.1).slice p.2
  let l := threadOps y x
  let k := msqKinds l
  l.length == (threadProg y x).length && loopsNest (msqLoops l) && jumpsOk (msqLoops l) (msqJumps l)
    && !(k.contains true && k.contains false) && l.all fun q => msqRefOk s r x p q.2

/-! ### Schedule words -/

/-- Pairs halves of schedule words, keyed from `lo`, into words by index. -/
def joinHalves (lo : Nat) : SMap W64 → List (Nat × W128)
  | [] => []
  | (k, v) :: t =>
    let i := (k - lo) / 2
    let w : W128 := if (k - lo) % 2 = 0 then v.setWidth 128 else (v.setWidth 128) <<< 64
    match joinHalves lo t with
    | (j, u) :: r => if j = i then (i, u ||| w) :: r else (i, w) :: (j, u) :: r
    | [] => [(i, w)]

/-- Schedule words that unit f lists in context x. -/
def unitWords (y : Well) (x f : Nat) : List (Nat × W128) :=
  let lo := swKey x f 0 0
  joinHalves lo (y.sw.filter fun p => decide (lo ≤ p.1) && decide (p.1 < lo + 1024))

/-- A unit's decoded words. -/
abbrev SwProg := List (Nat × SwHead × SwOp)

/-- The words among them that decode. -/
def unitProg (y : Well) (x f : Nat) : SwProg :=
  (unitWords y x f).filterMap fun p => (decodeSw f p.2).map fun q => (p.1, q.1, q.2)

/-- CX names the word's own context, `SWITCH` apart. Only words that have been written are looked at, so a word of
zeros that nobody wrote passes in every context (R196). DEDUCED: log 174. -/
def cxOk (x : Nat) (p : Nat × SwHead × SwOp) : Bool :=
  match p.2.2 with
  | .switch _ _ _ _ => true
  | _ => p.2.1.cx.toNat == x

/-- `LOOP` words of a unit. -/
def swLoops (l : SwProg) : List LoopWord :=
  l.filterMap fun p => match p.2.2 with
    | .loop lvl _ last => some ⟨p.1, lvl.toNat, last.toNat⟩
    | _ => none

/-- `JMP` words of a unit. -/
def swJumps (l : SwProg) : List (Nat × Nat) :=
  l.filterMap fun p => match p.2.2 with
    | .jmp t => some (p.1, t.toNat)
    | _ => none

/-- A queue slot names a queue that the table declares with a data buffer (R209). -/
def slotQueueOk (y : Well) (f : Nat) (en q : Bool) (qn : Nat) : Bool :=
  let e := y.sq (16 * (f - 48) + qn)
  !en || !q || (e.enabled && !e.isSem)

/-- Every queue slot of a `MEM` word does. -/
def memQueuesOk (y : Well) (f : Nat) (m : MemF) : Bool :=
  slotQueueOk y f m.a.en m.a.q m.a.qn.toNat && slotQueueOk y f m.b.en m.b.q m.b.qn.toNat
    && slotQueueOk y f m.w.en m.w.q m.w.qn.toNat

/-! ### Walk descriptors (R216) -/

/-- Five unpredicated `AGSET` words of generator g stand at i to i + 4 with PART 0 to 4. -/
def groupAt (l : SwProg) (g i : Nat) : Bool :=
  (List.range 5).all fun k =>
    match l.lookup (i + k) with
    | some (h, .agset ag part _) => ag == g && part == k && !h.pen
    | _ => false

/-- Every `AGSET` stands in a group. -/
def agsetsGrouped (l : SwProg) : Bool :=
  l.all fun p => match p.2.2 with
    | .agset ag part _ => decide (part ≤ p.1) && groupAt l ag (p.1 - part)
    | _ => true

/-- Words that may follow word i: the next, a loop's start, a jump's target; none after a `SWITCH`. -/
def swNext (l : SwProg) (i : Nat) : List Nat :=
  let next := (i + 1) % 512 :: (swLoops l).filterMap fun a => if a.last = i then some (a.at_ + 1) else none
  match l.lookup i with
  | some (h, .jmp t) => if h.pen then t.toNat :: next else [t.toNat]
  | some (h, .switch _ _ _ _) => if h.pen then next else []
  | _ => next

/-- Words reached from a worklist without passing a group of generator g. DEDUCED: log 64. -/
def reachUnset (l : SwProg) (g : Nat) : Nat → List Nat → List Nat → List Nat
  | 0, _, seen => seen
  | _ + 1, [], seen => seen
  | n + 1, i :: r, seen =>
    if seen.contains i then reachUnset l g n r seen
    else reachUnset l g n ((if groupAt l g i then [] else swNext l i) ++ r) (i :: seen)

/-- A `MEM` word uses generator g for a walk; a queue slot issues on none (R211, R216). DEDUCED: log 178. -/
def walksWith (g : Nat) : SwOp → Bool
  | .mem m => if g = 0 then m.a.en && !m.a.q else if g = 1 then m.b.en && !m.b.q else m.w.en && !m.w.q
  | _ => false

/-- No walk slot of generator g can issue before a group has set it. -/
def walksSet (l : SwProg) (g : Nat) : Bool :=
  let uses := l.filter fun p => walksWith g p.2.2
  uses.isEmpty || (let seen := reachUnset l g 2048 [0] []
                   uses.all fun p => !seen.contains p.1)

/-- Extremes of the sum over the dimensions of a role. -/
def roleRange (g : Ag) (role : Nat) : Int × Int :=
  (List.range 5).foldl (fun t d =>
    let c := dimOf g d
    if c.2.2 = role then
      let v := ((c.1 : Int) - 1) * c.2.1
      (t.1 + min 0 v, t.2 + max 0 v)
    else t) (0, 0)

/-- The lowest and highest half-word a descriptor reaches; none where a guarded walk never stands inside
its map. -/
def agExtent (g : Ag) : Option (Int × Int) :=
  let p3 := g.parts.getD 3 0
  let p4 := g.parts.getD 4 0
  let ow : Int := (bits p4 0 12 : Nat) + 1
  let sx : Int := (bits p4 12 4 : Nat)
  let sy : Int := (bits p4 16 4 : Nat)
  let rp : Int := (bits p3 24 14 : Nat)
  let e : Int := if agEsz g = 0 then 2 else 1
  let q := (roleRange g 3).2
  let xs := roleRange g 1
  let ys := roleRange g 2
  let pl := roleRange g 0
  let base : Int := (bits (g.parts.getD 2 0) 32 14 : Nat)
  let x0 := signedOf 13 (bits p3 38 13)
  let y0 := signedOf 13 (bits p3 51 13)
  if bitAt p4 20 then
    let xl := max 0 (x0 + xs.1)
    let xh := min (((bits p3 0 12 : Nat) : Int) - 1) (x0 + xs.2 + (min q (ow - 1)) * sx)
    let yl := max 0 (y0 + ys.1)
    let yh := min (((bits p3 12 12 : Nat) : Int) - 1) (y0 + ys.2 + q / ow * sy)
    if xl ≤ xh ∧ yl ≤ yh then
      some (base + pl.1 + yl * rp + xl * e, base + pl.2 + yh * rp + xh * e + e - 1)
    else none
  else
    let at_ : Int → Int := fun k => k % ow * sx * e + k / ow * sy * rp
    let far := max (at_ q) (if ow ≤ q then at_ (q / ow * ow - 1) else 0)
    some (base + pl.1 + (y0 + ys.1) * rp + (x0 + xs.1) * e,
      base + pl.2 + (y0 + ys.2) * rp + (x0 + xs.2) * e + far + e - 1)

/-- A descriptor stays inside its cistern. -/
def agInside (g : Ag) : Bool :=
  match agExtent g with
  | some (lo, hi) => decide (0 ≤ lo) && decide (hi ≤ 12287)
  | none => true

/-- The generator that the group at word i describes. -/
def groupAg (l : SwProg) (i : Nat) : Ag :=
  ⟨(List.range 5).map fun k => match l.lookup (i + k) with
    | some (_, .agset _ _ v) => v
    | _ => 0, [0, 0, 0, 0, 0], false⟩

/-- Every descriptor group of a unit stays inside its cistern. -/
def groupsInside (l : SwProg) : Bool :=
  l.all fun p => match p.2.2 with
    | .agset _ 0 _ => agInside (groupAg l p.1)
    | _ => true

/-! ### Switch settings and routes (R22, R166, R168) -/

/-- A switch setting of unit f has no fault of R166. -/
def settingOk (f : Nat) (v : W64) : Bool :=
  bits v 23 41 == 0 && !bitAt v 19 && bits v 14 2 == 0
    && (List.range 4).all (fun d =>
      let c := srcCode v d
      decide (c < 6) && c != d + 1 && (c != 5 || isAttach f))
    && (!isAttach f || srcCode v (sliceSide f) == 0)
    && (!bitAt v 12 || (unitCoord f).1 == 0) && (!bitAt v 13 || (unitCoord f).1 == 3)

/-- Output d of unit f is driven in context x, by a word or a pass-through. -/
def outDriven (y : Well) (x f d : Nat) : Bool :=
  srcCode (y.swSet x f) d != 0 || (unitWords y x f).any fun p => wordNames p.2 d

/-- No driven output of unit f leads out of the run. -/
def routesInside (r : Run) (y : Well) (w x f : Nat) : Bool :=
  let v := y.swSet x f
  ((unitCoord f).1 != 3 || !outDriven y x f 1
      || r.has (if bitAt v 13 then bits v 20 3 else w + 1))
    && ((unitCoord f).1 != 0 || !outDriven y x f 3
      || (if bitAt v 12 then r.has (bits v 16 3) else decide (0 < w) && r.has (w - 1)))

/-- Spans of the long routes of a row in one direction, lower well first. -/
def longRoutes (s : State) (r : Run) (x row : Nat) (east : Bool) : List (Nat × Nat) :=
  r.wells.filterMap fun w =>
    let f := unitAt (if east then 3 else 0) row
    let v := (s.well w).swSet x f
    let far := if east then bits v 20 3 else bits v 16 3
    if bitAt v (if east then 13 else 12) && outDriven (s.well w) x f (if east then 1 else 3) then
      some (Nat.min w far, Nat.max w far)
    else none

/-- No two of them overlap. DEDUCED: log 65. -/
def spansApart : List (Nat × Nat) → Bool
  | [] => true
  | a :: t => t.all (fun b => decide (a.2 ≤ b.1) || decide (b.2 ≤ a.1)) && spansApart t

/-- The long routes of every row and direction in context x keep apart (R168). -/
def tracksOk (s : State) (r : Run) (x : Nat) : Bool :=
  (List.range 24).all fun row =>
    spansApart (longRoutes s r x row true) && spansApart (longRoutes s r x row false)

/-- Two read slots of a word share an output (R209). -/
def slotsConflict (l : SwProg) : Bool :=
  l.any fun p => match p.2.2 with
    | .mem m => m.conflict
    | _ => false

/-- The queues that a unit's words name (R209). -/
def queuesNamed (y : Well) (f : Nat) (l : SwProg) : Bool :=
  l.all fun p => match p.2.2 with
    | .mem m => memQueuesOk y f m
    | _ => true

/-- Unit f's words and setting in context x: zero where they pass, else the status (R166, R196, R200,
R209, R216, R22). -/
def unitStatus (r : Run) (y : Well) (w x f : Nat) : Nat :=
  let l := unitProg y x f
  if !(l.length == (unitWords y x f).length && l.all (cxOk x) && loopsNest (swLoops l)
      && jumpsOk (swLoops l) (swJumps l) && settingOk f (y.swSet x f)) then stCtxInvalid
  else if slotsConflict l then stWireConflict
  else if queuesNamed y f l && agsetsGrouped l && groupsInside l
      && (List.range 3).all (walksSet l) && routesInside r y w x f then 0
  else stCtxInvalid

/-- The first failing part of context x of well w: status, and 0 to 95 for a unit or 96 to 103 for a
thread. -/
def ctxFault (s : State) (r : Run) (w x : Nat) : Option (Nat × Nat) :=
  let y := s.well w
  (((List.range 96).map fun f => (unitStatus r y w x f, f))
    ++ (List.range 8).map fun i => (if threadOk s r x (w, i) then 0 else stCtxInvalid, 96 + i)).find?
      fun p => p.1 != 0

/-! ### Queue tables and pipeline registers (R222, R278, R290) -/

/-- Enabled entries of a well. -/
def entriesOn (y : Well) : List (Nat × SqEntry) := y.queues.filter fun p => p.2.enabled

/-- First and last byte of an entry's overflow region. -/
def regionOfEntry (e : SqEntry) : Nat × Nat :=
  (e.ovfBase.toNat, e.ovfBase.toNat + 4096 * bits e.ovfSize 0 16)

/-- An entry's own fields (R222). -/
def entryOk (s : State) (e : SqEntry) : Bool :=
  let hi := bits e.wm 16 16
  let lo := bits e.wm 0 16
  decide (e.base + e.size ≤ 6144)
    && (!e.ovf || (!e.isSem && bits e.ovfSize 0 16 != 0 && e.ovfBase.toNat % 4096 == 0
      && decide ((regionOfEntry e).2 ≤ s.dramSize)))
    && (hi == 0 || (decide (lo < hi)
      && decide (hi ≤ if e.isSem then 0xFFFF else e.size + e.cap)))

/-- Two byte or word ranges, ends excluded, keep apart. -/
def rangesApart (a b : Nat × Nat) : Bool := decide (a.2 ≤ b.1) || decide (b.2 ≤ a.1)

/-- No two ranges of a list meet. -/
def allApart : List (Nat × Nat) → Bool
  | [] => true
  | a :: t => t.all (rangesApart a) && allApart t

/-- The rings of one MU do not overlap. -/
def ringsApart (l : List (Nat × SqEntry)) : Bool :=
  (List.range 48).all fun k =>
    allApart ((l.filter fun p => p.1 / 16 == k && !p.2.isSem).map fun p =>
      (p.2.base, p.2.base + p.2.size))

/-- The queue tables of the run pass: only the rings are held to the enabled entries (R222). -/
def tablesOk (s : State) (r : Run) : Bool :=
  (r.wells.all fun w => (s.well w).queues.all (fun p => entryOk s p.2)
      && ringsApart (entriesOn (s.well w)))
    && allApart (r.wells.flatMap fun w =>
      ((s.well w).queues.filter fun p => p.2.ovf).map fun p => regionOfEntry p.2)

/-- `SF_PIPE` without its read-only part. DEDUCED: log 66. -/
def pipeFields (s : State) (w : Nat) : Nat := ((s.well w).pipe &&& 0x87770F0F).toNat

/-- The pipeline registers of the run agree and name it (R290). -/
def pipeRegsOk (s : State) (r : Run) : Bool :=
  match r.wells with
  | [] => false
  | f :: t =>
    let v := (s.well f).pipe
    t.all (fun w => pipeFields s w == pipeFields s f)
      && decide (1 ≤ bits v 0 4) && decide (bits v 0 4 ≤ 8) && bits v 24 3 == bits v 20 3
      && bits v 20 3 == f && bits v 16 3 == t.getLast?.getD f

end Sys2Proof.Machine
end

