-- ==== Sys2Proof/Machine/Image.lean ====
section
/-! DEFINITION. Pipeline images (chapter 12): the cached copy as the MP reads it, the checks and the commit
of `LOAD`, unload, reload from the cached copy, and the rotation of later segments (R289, R312 to R333). -/

namespace Sys2Proof.Machine

/-! ### The cached copy -/

/-- Memory as reads deliver it: correctable lines corrected (R372). -/
def correctedMem (s : State) : Memory :=
  if s.eccOn then
    s.ecc.foldl (fun (m : Memory) e =>
      match decodeLine (m.line (64 * e.1)) e.2 with
      | .corrected l => m.setLine (64 * e.1) l
      | _ => m) s.mem
  else s.mem

/-- The MP has read `size` bytes at `base`: every line that needed it is recorded (R375, R376). DEDUCED: log 72. -/
def mpReads (s : State) (base size : Nat) : State :=
  if s.eccOn then
    (s.ecc.filter fun e => decide (base ≤ 64 * e.1) && decide (64 * e.1 < base + size)).foldl
      (fun (s : State) e =>
        let a := 64 * e.1
        match decodeLine (s.mem.line a) e.2 with
        | .ok => s
        | .corrected l => noteCorrected s (chanOf s a).1 a (l == s.mem.line a)
        | .uncorrectable => noteUncorrectable s (chanOf s a).1 a 1) s
  else s

/-- A little-endian number of n bytes. -/
def Memory.num (m : Memory) (a n : Nat) : Nat := leNat (m.read a n)

/-- An entry of the section table (R313). -/
structure Sect where
  typ : Nat
  vwell : Nat
  seg : Nat
  off : Nat
  size : Nat
  deriving DecidableEq, Repr

/-- What the MP takes from the header, the section table and the GRID section (R312, R313, R315). -/
structure Plan where
  base : Nat
  bytes : Nat
  nwells : Nat
  nsegs : Nat
  sects : List Sect
  deriving DecidableEq, Repr

/-- Entry i of the table at address a. -/
def sectAt (m : Memory) (a i : Nat) : Sect :=
  let b := a + 24 * i
  ⟨m.num b 1, m.num (b + 1) 1, m.num (b + 3) 1, m.num (b + 8) 8, m.num (b + 16) 8⟩

/-- The image at a region base. DEDUCED: log 62. -/
def planAt (m : Memory) (base : Nat) : Plan :=
  let t := base + m.num (base + 0x18) 8
  { base := base, bytes := m.num (base + 0x10) 8, nwells := m.num (base + 8) 1
    nsegs := m.num (base + 9) 1
    sects := (List.range (m.num (base + 0x0A) 1)).map (sectAt m t) }

/-- Address and size of the image's section of a type, for a virtual well and segment, or 0xFF. -/
def Plan.sect (p : Plan) (typ vwell seg : Nat) : Option (Nat × Nat) :=
  (p.sects.find? fun x => x.typ == typ && x.vwell == vwell && x.seg == seg).map fun x =>
    (p.base + x.off, x.size)

/-- Field of an 8-byte record i of the GRID section (R315). -/
def Plan.grid (p : Plan) (m : Memory) (i lo len : Nat) : Nat :=
  match p.sect 1 0xFF 0xFF with
  | some (a, _) => bits (m.w64 (a + 8 * i)) lo len
  | none => 0

/-- Physical well of virtual well v (R316). -/
def physWell (p0 : Nat) (reversed : Bool) (v : Nat) : Nat := if reversed then p0 - v else p0 + v

/-- The run lies among the eight wells. -/
def runFits (n p0 : Nat) (reversed : Bool) : Bool :=
  decide (1 ≤ n) && (if reversed then decide (n ≤ p0 + 1) else decide (p0 + n ≤ 8))

/-- Physical wells of a run, rising. -/
def runWells (n p0 : Nat) (reversed : Bool) : List Nat :=
  if reversed then (List.range n).map (p0 + 1 - n + ·) else (List.range n).map (p0 + ·)

/-- Virtual well of a physical one. -/
def virtWell (p0 : Nat) (reversed : Bool) (w : Nat) : Nat := if reversed then p0 - w else w - p0

/-- Physical slice i of a well is used: the masks SLN and SLS, rotated under a reversed mapping (R315,
R317). -/
def Plan.usesSlice (p : Plan) (m : Memory) (p0 : Nat) (reversed : Bool) (w i : Nat) : Bool :=
  let k := if reversed then 7 - i else i
  p.grid m (virtWell p0 reversed w) k 1 == 1

/-- Records of the PTOK section: slice key 8 · well + slice, and DUTY (R328). -/
def Plan.tokens (p : Plan) (m : Memory) (p0 : Nat) (reversed : Bool) : List (Nat × Nat) :=
  match p.sect 0x0A 0xFF 0xFF with
  | some (a, size) => (List.range (size / 4)).map fun j =>
      let r := BitVec.ofNat 32 (m.num (a + 4 * j) 4)
      (8 * physWell p0 reversed (bits r 0 3) + 4 * bits r 3 1 + bits r 4 2, bits r 8 8)
  | none => []

/-- The run that an image is checked for. -/
def Plan.run (p : Plan) (m : Memory) (p0 : Nat) (reversed : Bool) : Run :=
  ⟨runWells p.nwells p0 reversed, reversed,
    (p.tokens m p0 reversed).foldl (fun (d : SMap Nat) e => SMap.set (fun _ => 0) d e.1 e.2) []⟩

/-- Wells and contexts that the loader has written: segments below min(4, NSEGS) (R321). -/
def Plan.contexts (p : Plan) (p0 : Nat) (reversed : Bool) : List (Nat × Nat) :=
  ((List.range p.nwells).flatMap fun v =>
    ((List.range (Nat.min 4 p.nsegs)).filter fun g =>
      p.sects.any fun x => (x.typ == 2 || x.typ == 3) && x.vwell == v && x.seg == g).map fun g =>
        (physWell p0 reversed v, g))

/-- Bytes of the WEIGHTS section (R474). -/
def Plan.weights (p : Plan) : Nat := ((p.sect 7 0xFF 0xFF).map (·.2)).getD 0

/-! ### The checks of an image -/

/-- Resident images other than one in the wells of a run. -/
def residents (s : State) : List Nat := (List.range 8).filter fun p => (s.mp.image p).resident

/-- Every well of the run is present, not failed and of no resident image, and every slice used is usable
(R7, R22, R25, R122, R170). -/
def unitsFit (s : State) (m : Memory) (p : Plan) (p0 : Nat) (reversed : Bool) : Bool :=
  (runWells p.nwells p0 reversed).all fun w =>
    s.hasWell w && !(s.well w).failedWell && (s.well w).run != .failed && !wellLocked s w
      && (List.range 8).all fun i => !p.usesSlice m p0 reversed w i || !(s.slc w i).failed

/-- Service-core clusters that are present and free, lowest first (R427). -/
def freeClusters (s : State) : List Nat :=
  (List.range 4).filter fun c => s.hasSc c && !s.bit (rScClCtrl c) 31

/-- Units beside the wells that the image needs (R7, R427). -/
def restFits (s : State) (m : Memory) (p : Plan) : Bool :=
  let g := p.grid m p.nwells
  decide (g 0 2 ≤ ((List.range 2).filter s.hasFi).length)
    && decide (g 2 4 ≤ ((List.range 6).filter s.hasLink).length)
    && decide (g 6 3 ≤ (freeClusters s).length)

/-- Usable slices of the device (R330). -/
def usableSlices (s : State) : Nat :=
  ((List.range 8).flatMap fun w => (List.range 8).filter fun i =>
    s.hasWell w && !(s.well w).failedWell && !(s.slc w i).failed).length

/-- The token budget in sixty-fourths (R330). -/
def tokenBudget (s : State) : Nat :=
  let f := planning (variantIx s) (modeCur s)
  let c := if s.bit rPwrCap 31 then capWatts s else f.1
  Nat.min (64 * usableSlices s) (6400 * (c - f.2.1) / f.2.2)

/-- Declarations of the resident images (R331). -/
def residentTokens (s : State) : Nat := ((residents s).map fun p => (s.mp.image p).tokens).sum

/-- The declaration of an image (R328). -/
def Plan.declared (p : Plan) (m : Memory) (p0 : Nat) (reversed : Bool) : Nat :=
  ((p.tokens m p0 reversed).map (·.2)).sum

/-- The payload names the task area of the images resident (R321). -/
def taskAreaOk (s : State) (task : W64) : Bool :=
  (residents s).isEmpty || bits task 12 36 == bits s.dc.taskmem 12 36

/-- Place of a failure in a response: well, context, and unit or thread. -/
def placeWord (w x u : Nat) : W64 := BitVec.ofNat 64 (w + 256 * x + 65536 * u)

/-- The channels are trained, and the image's region is a 4 KiB aligned part of usable DRAM (R321, R365).
DEDUCED: log 155. -/
def regionFits (s : State) (p : Plan) : Bool :=
  s.bit rCapMem 31 && p.base % 4096 == 0 && decide (p.base + p.bytes ≤ s.dramSize)

/-- The variant provides what the image needs, and its region and wells may be used (R7, R316). -/
def imageFits (s : State) (m : Memory) (p : Plan) (p0 : Nat) (reversed : Bool) : Bool :=
  regionFits s p && runFits p.nwells p0 reversed && unitsFit s m p p0 reversed && restFits s m p

/-- The first check that fails: status and place (R322, R331). DEDUCED: log 63. -/
def imageFault (s : State) (m : Memory) (p : Plan) (p0 : Nat) (reversed : Bool) (task : W64) :
    Option (Nat × W64) :=
  let bad : Option (Nat × W64) := some (stCtxInvalid, placeWord p0 0xFF 0xFF)
  if !imageFits s m p p0 reversed then bad
  else
    let r := p.run m p0 reversed
    match (p.contexts p0 reversed).findSome? fun c =>
        (ctxFault s r c.1 c.2).map fun q => (q.1, placeWord c.1 c.2 q.2) with
    | some q => some q
    | none =>
      if !(List.range 4).all (tracksOk s r) then some (stWireConflict, placeWord p0 0xFF 0xFF)
      else if !(tablesOk s r && pipeRegsOk s r && taskAreaOk s task
          && decide (residentTokens s + p.declared m p0 reversed ≤ tokenBudget s)) then bad
      else none

/-! ### Sections and their CRCs -/

/-- The wells and segments of an image, in the order of the virtual wells. -/
def Plan.pieces (p : Plan) (p0 : Nat) (reversed : Bool) : List (Nat × Nat) :=
  (List.range p.nwells).flatMap fun v =>
    ((List.range p.nsegs).filter fun g =>
      p.sects.any fun x => (x.typ == 2 || x.typ == 3) && x.vwell == v && x.seg == g).map fun g =>
        (physWell p0 reversed v, g)

/-- Word numbers at which a range lists a byte, rising. -/
def listedWords (m : Memory) (a len : Nat) : List Nat :=
  ((m.filter fun e => decide (a ≤ e.1) && decide (e.1 < a + len)).map fun e => (e.1 - a) / 8).foldr
    (fun n l => if l.head? = some n then l else n :: l) []

/-- A context's FABRIC and MSQ sections written into it, LOADING. -/
def ctxWritten (m : Memory) (p : Plan) (v seg : Nat) (y : Well) : Well :=
  let x := seg % 4
  let y := clearCtx y x
  let y := match p.sect 2 v seg with
    | some (a, _) =>
      let y := (listedWords m a 786432).foldl (fun (y : Well) n =>
        { y with sw := SMap.set (fun _ => 0) y.sw (swKey x 0 0 0 + n) (m.w64 (a + 8 * n)) }) y
      (listedWords m (a + 786432) 768).foldl (fun (y : Well) n =>
        { y with switches := SMap.set (fun _ => 0) y.switches (96 * x + n) (m.w64 (a + 786432 + 8 * n)) }) y
    | none => y
  let y := match p.sect 3 v seg with
    | some (a, _) => (listedWords m a 16384).foldl (fun (y : Well) n =>
        let i := n / 256
        y.setSlice i { y.slice i with
          prog := SMap.set (fun _ => 0) (y.slice i).prog (256 * x + n % 256) (m.w64 (a + 8 * n)) }) y
    | none => y
  y.setCtx x .loading

/-- The CRC of a segment's patched bytes in a well (R180). -/
def segCrc (m : Memory) (p : Plan) (v seg : Nat) : W32 :=
  BitVec.ofNat 32 (crcWords (commitWords (ctxWritten m p v seg Well.reset) (seg % 4)))

/-- The CRCs kept with the cached copy for the segments from 4 on, keyed 16 · well + segment (R321).
DEDUCED: log 156. -/
def Plan.laterCrcs (p : Plan) (m : Memory) (p0 : Nat) (reversed : Bool) : SMap W32 :=
  ((p.pieces p0 reversed).filter fun c => decide (4 ≤ c.2)).foldl (fun d c =>
    SMap.set (fun _ => 0) d (16 * c.1 + c.2) (segCrc m p (virtWell p0 reversed c.1) c.2)) []

/-! ### Commit -/

/-- Context x of well w is committed through GO against the CRC kept for it; zero, or the status of R180
and R181. -/
def ctxCommit (s : State) (w x : Nat) (crc : W32) : Nat × State :=
  let s := commitGo (s.setWell w { s.well w with commitCrc := crc }) w x
  match (s.well w).busy with
  | some (false, c) =>
    let s := commitEnd s w c
    (if (s.well w).ctxState x == .committed then 0 else (s.well w).result, s)
  | _ => (if (s.well w).ctxState x == .committed then 0 else stCtxInvalid, s)

/-- Commits a list of contexts; stops at the first that fails, with those committed before it. -/
def commitAll (s : State) (crcs : SMap W32) :
    List (Nat × Nat) → List (Nat × Nat) → Option (Nat × W64) × List (Nat × Nat) × State
  | [], acc => (none, acc, s)
  | (w, x) :: r, acc =>
    let q := ctxCommit s w x (SMap.get (fun _ => 0) crcs (16 * w + x))
    if q.1 = 0 then commitAll q.2 crcs r (acc ++ [(w, x)])
    else (some (q.1, placeWord w x (q.2.well w).resUnit), acc, q.2)

/-- Contexts are unloaded (R182). -/
def unloadAll (s : State) (l : List (Nat × Nat)) : State :=
  l.foldl (fun s c => s.setWell c.1 { clearCtx (s.well c.1) c.2 with busy := none, result := 0 }) s

/-- A well belongs to no pipeline, and its slices are under no declaration. -/
def wellReleased (y : Well) : Well :=
  (List.range 8).foldl (fun (y : Well) i => y.setSlice i { y.slice i with declared := 64 })
    { y with pipe := y.pipe &&& 0x7FFFFFFF }

/-- Wells belong to no pipeline. -/
def wellsReleased (s : State) (l : List Nat) : State :=
  l.foldl (fun s w => if s.hasWell w then s.setWell w (wellReleased (s.well w)) else s) s

/-- A commit puts every slice's ceiling at its declared duty, until the thread's first `PTOK` (R329). -/
def ceilingsSet (y : Well) (r : Run) (w : Nat) : Well :=
  (List.range 8).foldl (fun (y : Well) i =>
    let d := r.dutyOf w i
    y.setSlice i { y.slice i with duty := d, limCeil := d, declared := d }) y

/-- The wells of a run belong to their pipeline, under its declarations (R329). -/
def wellsTaken (s : State) (r : Run) : State :=
  r.wells.foldl (fun s w =>
    s.setWell w (ceilingsSet { s.well w with pipe := (s.well w).pipe ||| 0x80000000 } r w)) s

/-- The CRC that the loader has written for the j-th of n contexts of a well, in the order of its segments
(R321). DEDUCED: log 156. -/
def loaderCrc (y : Well) (n j : Nat) : W32 := (y.commitCrc :: y.oldCrcs).getD (n - 1 - j) 0

/-- The CRCs that the loader has written for the contexts of a well. -/
def loaderCrcs (s : State) (l : List (Nat × Nat)) (w : Nat) (m : SMap W32) : SMap W32 :=
  let own := l.filter fun c => c.1 == w
  (List.range own.length).foldl (fun m j =>
    SMap.set (fun _ => 0) m (16 * w + (own.getD j (0, 0)).2) (loaderCrc (s.well w) own.length j)) m

/-- A DC table value with the region base added to its address field (R321). -/
def addBase (v : W64) (base : Nat) : W64 := putBits v 6 42 (bits v 6 42 + base / 64)

/-- The DC's registers of the pipeline and its task area (R321, R363). -/
def dcTable (s : State) (m : Memory) (p : Plan) (home : Nat) (task : W64) : State :=
  let t := match p.sect 6 0xFF 0xFF with
    | some (a, _) => [m.w64 a, m.w64 (a + 8), m.w64 (a + 16)]
    | none => []
  let v := fun (j : Nat) => addBase (t.getD j 0) p.base
  let x := s.dc.pipe home
  let s := s.setPipe home { x with en := true, inn := v 0 &&& 0xFFE0FFFFFFFFFFC0
                                   out := v 1 &&& 0xFFE0FFFFFFFFFFC0, act := v 2 &&& 0x0000FFFFFFFFFFC0 }
  if (residents s).isEmpty then { s with dc := { s.dc with taskmem := task &&& 0x0000FFFFFFFFF000 } } else s

/-- The lowest-numbered free clusters are attached (R427). -/
def attach (s : State) (l : List Nat) (home p0 n : Nat) (reversed : Bool) : State :=
  l.foldl (fun s c =>
    let s := (s.setBit (rScClCtrl c) 31 true).setFld (rScClCtrl c) 28 3 home
    s.setFld (rScClMap c) 0 8 (b2n reversed <<< 7 + (p0 % 8) <<< 4 + n)) s

/-- Clusters are detached. -/
def detach (s : State) (l : List Nat) : State :=
  l.foldl (fun s c => (s.setBit (rScClCtrl c) 31 false).setFld (rScClMap c) 0 8 0) s

/-- IMAGE_COMMIT of `LOAD`: the MP's checks, a commit of every context, and on success the image is
resident; when a check or a commit fails nothing of the image stays committed and its wells belong to no
pipeline, but an image that the variant or the run cannot hold changes no unit (R7). None while a commit
engine of the run is busy (R322, R329, R427). DEDUCED: log 68. DEDUCED: log 69. -/
def imageLoad (s : State) (base : W64) (p0 : Nat) (reversed : Bool) (task : W64) :
    Option (Nat × List W64 × State) :=
  let m := correctedMem s
  let p := planAt m base.toNat
  let r := p.run m p0 reversed
  let home := r.wells.headD p0
  let own := r.wells.filter fun w => !wellLocked s w
  if own.any fun w => (s.well w).busy.isSome then none
  else
    let s := mpReads s base.toNat p.bytes
    let l := p.contexts p0 reversed
    match imageFault s m p p0 reversed task with
    | some (st, pl) =>
      some (st, [pl], if imageFits s m p p0 reversed then wellsReleased s own else s)
    | none =>
      let crcs := r.wells.foldl (fun c w => loaderCrcs s l w c) (p.laterCrcs m p0 reversed)
      match commitAll s crcs l [] with
      | (some (st, pl), done, s) => some (st, [pl], wellsReleased (unloadAll s done) own)
      | (none, _, s) =>
        let cl := (freeClusters s).take (p.grid m p.nwells 6 3)
        let s := attach (dcTable (wellsTaken s r) m p home task) cl home p0 p.nwells reversed
        let img : Image := ⟨base, p0, reversed, task, r.wells, true, p.declared m p0 reversed, p.weights, cl,
          crcs, [0, 1, 2, 3]⟩
        some (0, [], { s with mp := s.mp.setImage home img })

/-! ### Unload -/

/-- Every thread and well of a pipeline stops (R154, R186). -/
def pipeStop (s : State) (l : List Nat) : State :=
  l.foldl (fun s w =>
    let s := (List.range 8).foldl (fun s i => if (s.slc w i).active then threadStop s w i else s) s
    wellStop s w) s

/-- Committed contexts of some wells. -/
def committedIn (s : State) (l : List Nat) : List (Nat × Nat) :=
  l.flatMap fun w => ((List.range 4).filter fun x => (s.well w).ctxState x == .committed).map fun x => (w, x)

/-- The image of pipeline p is unloaded: threads and wells stop, contexts are cleared, the wells and
clusters belong to none, and the pipeline is not resident (R182, R333, R427). -/
def imageUnload (s : State) (p : Nat) : State :=
  let i := s.mp.image p
  let s := pipeStop s i.wells
  let s := unloadAll s (committedIn s i.wells)
  let s := detach (wellsReleased s i.wells) i.clusters
  let s := s.setPipe p { s.dc.pipe p with en := false }
  { s with mp := s.mp.setImage p Image.none_ }

/-- A commit engine of a pipeline's wells is at work. DEDUCED: log 75. -/
def enginesBusy (s : State) (p : Nat) : Bool := (s.mp.image p).wells.any fun w => (s.well w).busy.isSome

/-- What R333 and R358 ask before an unload: admission off and no task in flight. DESIGN CHOICE: log 70. -/
def unloadable (s : State) (p : Nat) : Bool :=
  (s.mp.image p).resident && !(s.dc.pipe p).admitting && (s.dc.pipe p).flight.isEmpty

/-! ### Reload (R332) -/

/-- Segments' sections written into the contexts of their wells. -/
def segsWritten (s : State) (m : Memory) (p : Plan) (p0 : Nat) (reversed : Bool)
    (l : List (Nat × Nat)) : State :=
  l.foldl (fun s c =>
    s.setWell c.1 (ctxWritten m p (virtWell p0 reversed c.1) c.2 (s.well c.1))) s

/-- The MP's checks of the contexts of some segments: status and well (R168, R322). -/
def segsFault (s : State) (r : Run) (l : List (Nat × Nat)) : Option (Nat × Nat) :=
  match l.findSome? fun c => (ctxFault s r c.1 (c.2 % 4)).map fun q => (q.1, c.1) with
  | some q => some q
  | none => l.findSome? fun c => if tracksOk s r (c.2 % 4) then none else some (stWireConflict, c.1)

/-- Commits of some segments under their kept CRCs, until one fails: status and well, zero for none. -/
def segsCommit (s : State) (crcs : SMap W32) : List (Nat × Nat) → Nat × Nat × State
  | [] => (0, 0, s)
  | (w, g) :: t =>
    let q := ctxCommit s w (g % 4) (SMap.get (fun _ => 0) crcs (16 * w + g))
    if q.1 = 0 then segsCommit q.2 crcs t else (q.1, w, q.2)

/-- Segments go into the contexts of their wells, are checked and are committed: zero or the first failing
status, and its well (R321, R322). DEDUCED: log 71. -/
def segsInto (s : State) (m : Memory) (p : Plan) (r : Run) (i : Image) (l : List (Nat × Nat)) :
    Nat × Nat × State :=
  let s := segsWritten s m p i.p0 i.reversed l
  match segsFault s r l with
  | some q => (q.1, q.2, s)
  | none => segsCommit s i.crcs l

/-- The SQTAB section written into a well's table: four 8-byte registers an entry. DEDUCED: log 74. -/
def tableWritten (m : Memory) (p : Plan) (v : Nat) (y : Well) : Well :=
  match p.sect 4 v 0xFF with
  | none => y
  | some (a, _) => (List.range 768).foldl (fun (y : Well) e =>
      let b := a + 32 * e
      y.setSq e { y.sq e with
        cfg := BitVec.ofNat 32 (m.num b 4) &&& 0xDFFF1FFF
        wm := BitVec.ofNat 32 (m.num (b + 8) 4)
        ovfBase := m.w64 (b + 16) &&& 0x0000FFFFFFFFF000
        ovfSize := BitVec.ofNat 32 (m.num (b + 24) 4) &&& 0xFFFF }) y

/-- A pipeline's contexts and queue table written again from its cached copy, in the same wells, and
committed under its declarations: the first failing status and its well, or zero (R329, R332). The weights
stand in the region, which is the cached copy. DEDUCED: log 73. -/
def imageReload (s : State) (p : Nat) : Nat × Nat × State :=
  let i := s.mp.image p
  let m := correctedMem s
  let q := planAt m i.base.toNat
  let s := mpReads s i.base.toNat q.bytes
  let s := unloadAll (pipeStop s i.wells) (committedIn s i.wells)
  let r := q.run m i.p0 i.reversed
  let s := i.wells.foldl (fun s w =>
    s.setWell w (ceilingsSet (tableWritten m q (virtWell i.p0 i.reversed w) (s.well w)) r w)) s
  let s := { s with mp := s.mp.setImage p { i with held := [0, 1, 2, 3] } }
  let z := segsInto s m q r i (q.contexts i.p0 i.reversed)
  if z.1 = 0 then z else (z.1, z.2.1, unloadAll z.2.2 (committedIn z.2.2 i.wells))

/-- A pipeline starts: its wells and the threads of the slices it uses, at segment 0 (R183, R332). -/
def pipeStart (s : State) (p : Nat) : State :=
  let i := s.mp.image p
  let m := correctedMem s
  let q := planAt m i.base.toNat
  i.wells.foldl (fun s w =>
    if (s.well w).ctxState 0 != .committed then s
    else
      let s := (List.range 8).foldl (fun s j =>
        if q.usesSlice m i.p0 i.reversed w j then
          msqCtrlWrite s w j (BitVec.ofNat 32 (1 <<< 31 + b2n (s.slc w j).swflag <<< 27))
        else s) s
      sfCtrlWrite s w 0x80000000) s

/-- Segments from the running one to segment g, in the order of the rotation. -/
def segsAhead (n run g : Nat) : Nat := (g + n - run) % n

/-- Segment g is the next of its context's segments in the rotation: it is needed before the one that
stands there, which is not the running one (R286, R289). DEDUCED: log 157. -/
def segDue (n run held g : Nat) : Bool :=
  g != held && held != run && g == (if held + 4 < n then held + 4 else held % 4)
    && decide (segsAhead n run g < segsAhead n run held)

/-- The context of segment g can be given up in every well of the run, once R182 allows it. -/
def ctxFree (s : State) (l : List Nat) (x : Nat) : Bool :=
  l.all fun w => (s.well w).ctxState x != .committed || !unloadRefused (s.well w) x

/-- `SEGMENT_CONTEXT_LOAD`: in a pipeline of more than four segments, as soon as R182 allows, the context
of a segment that has been passed is unloaded in every well of the run, and the sections of the segment four
places later are written into it and committed under their kept CRCs; a failure is a pipeline-scoped fault
with the commit's status (R289, R322). -/
def execSegmentContextLoad (p : PipeIx) (seg : Fin 16) (s : State) : Out := clocked s <|
  let i := s.mp.image p.val
  let m := correctedMem s
  let q := planAt m i.base.toNat
  let x := seg.val % 4
  let run := (s.well (i.wells.headD 0)).seg
  if i.resident && decide (4 < q.nsegs) && decide (seg.val < q.nsegs) && !enginesBusy s p.val
      && !s.mp.restarting && segDue q.nsegs run (i.held.getD x x) seg.val && ctxFree s i.wells x then
    let s := unloadAll (mpReads s i.base.toNat q.bytes)
      ((i.wells.filter fun w => (s.well w).ctxState x == .committed).map fun w => (w, x))
    let s := { s with mp := s.mp.setImage p.val { i with held := i.held.set x seg.val } }
    let z := segsInto s m q (q.run m i.p0 i.reversed) i
      ((q.pieces i.p0 i.reversed).filter fun c => c.2 == seg.val)
    .next (if z.1 = 0 then z.2.2 else pipeFault z.2.2 p.val (mkFault z.1 0xA z.2.1))
  else .next s

/-! ### Mailbox commands on images (R342) -/

/-- The head request's command has been carried out: its answer waits for `MAILBOX_RESPONSE`. -/
def mpDone (s : State) (cmd st : Nat) (payload : List W64) : State :=
  match s.mp.queue, s.mp.answer with
  | q :: _, none =>
    if bits (q.words.getD 0 0) 0 16 = cmd then
      { s with mp := { s.mp with answer := some (st, payload), begun := false } }
    else s
  | _, _ => s

/-- LOAD, as one MP step. -/
def mpLoad (s : State) (base : W64) (p0 : Nat) (reversed : Bool) (task : W64) : State :=
  if s.mp.restarting then s
  else
    match imageLoad s base p0 reversed task with
    | none => s
    | some (st, pl, s) => mpDone s 1 st pl

/-- `LOAD`. DESIGN CHOICE: log 8. -/
def execLoad (base : W64) (p0 : WellIx) (reversed : Bool) (task : W64) (s : State) : Out := clocked s <|
  .next (mpLoad s base p0.val reversed task)

/-- UNLOAD, as one MP step. -/
def mpUnload (s : State) (p : Nat) : State :=
  if s.mp.restarting || enginesBusy s p then s
  else if unloadable s p then mpDone (imageUnload s p) 2 0 []
  else mpDone s 2 stCtxInvalid []

/-- `UNLOAD`. -/
def execUnload (p : PipeIx) (s : State) : Out := clocked s <| .next (mpUnload s p.val)

/-- RELOAD, as one MP step. -/
def mpReload (s : State) (p : Nat) : State :=
  if s.mp.restarting || enginesBusy s p then s
  else if (s.mp.image p).resident && (s.dc.pipe p).flight.isEmpty then
    let z := imageReload s p
    mpDone z.2.2 3 z.1 (if z.1 = 0 then [] else [placeWord z.2.1 0xFF 0xFF])
  else mpDone s 3 stCtxInvalid []

/-- `RELOAD`. -/
def execReload (p : PipeIx) (s : State) : Out := clocked s <| .next (mpReload s p.val)

end Sys2Proof.Machine
end

