-- ==== Sys2Proof/Machine/Recovery.lean ====
section
/-! DEFINITION. Faults and recovery (R479 to R495): reports of task-scoped faults, the pipeline reset with
replay, its reload, and device-scoped faults. -/

namespace Sys2Proof.Machine

/-- `TASK_FAULT_REPORT` (R483, R487). -/
def execTaskFaultReport (task : Fin 1024) (f : FaultInfo) (s : State) : Out := clocked s <|
  .next (taskFault s task.val f)

/-- `DEVICE_FAULT` (R481). -/
def execDeviceFault (f : FaultInfo) (s : State) : Out := clocked s <| .next (devFault s f)

/-! ### Steps 2 and 3 of a pipeline reset -/

/-- The tagged instruction of a faulted pipeline is over: its record has the counts as they stand
(R549). -/
def tagEnds (s : State) (l : List Nat) : State :=
  match s.pmu.run with
  | some r => if l.contains (r.slice / 8) then
      { s with pmu := { s.pmu with run := some { r with finished := true } } } else s
  | none => s

/-- A word of a stream that is on its way into a queue of one of some wells. -/
def wordInto (l : List Nat) (w : WrOut) : Bool :=
  match w.kind with
  | .queue _ => l.contains (w.addr / 1024)
  | _ => false

/-- A stream is flushed by a reset of wells l: the shadow is discarded, every descriptor ends as under SINK,
nothing signals, and it will end ABORTED without a task. The queues of those wells are emptied, words on their
way into them and places reserved of them with them; places reserved elsewhere go back when it ends (R224,
R251, R264). -/
def resetFlush (l : List Nat) (s : State) (i : Nat) : State :=
  let x := s.str i
  let x := { x with shadow := none }
  if x.st = .idle then s.setStr i x
  else
    let s := sendSterr s i stAborted
    let sunk := if x.st = .running then 0 else x.sunk
    let y := dropHeld { x with st := .cancelling, next := none, boundary := none, sigs := [], sunk := sunk
                               fill := some stAborted
                               writes := x.writes.filter fun w => !wordInto l w
                               resv := x.resv.filter fun r => !l.contains (r.1 / 1024) } fun _ => false
    s.setStr i { y with act := { y.act with cfg := y.act.cfg &&& 0x7FFFFFFF } }

/-- Streams on the queues of pipeline p (R264). -/
def pipeStreams (s : State) (p : Nat) : List Nat :=
  (s.strs.filter fun e => (strQueues e.2).any (fun q => s.pipeOf q.1 == some p)
    || e.1 == inStream s p || e.1 == outStream s p).map (·.1)

/-- Words that ingress entries have reserved of a queue. DEDUCED: log 109. -/
def ingressResv (s : State) (w e : Nat) : Nat :=
  (s.lk.ingress.filter fun g => g.2.used && g.2.well == w && g.2.entry == e).foldl (fun n g => n + g.2.resv) 0

/-- Every entry of a well is emptied; words on their way into it are gone (R224, R226). -/
def queuesEmptied (s : State) (w : Nat) : State :=
  let s := (s.well w).queues.foldl (fun s e =>
    sqPut s w e.1 { (s.sq w e.1).emptied with resv := ingressResv s w e.1 }) s
  s.setWell w { s.well w with retry := [], semNext := [] }

/-- Arrivals of every barrier are cleared; GEN is kept (R282). -/
def barriersCleared (s : State) (w : Nat) : State :=
  s.setWell w ((s.well w).bars.foldl (fun (y : Well) b =>
    y.setBar b.1 { y.bar b.1 with arrived := 0, next := 0 }) (s.well w))

/-- SC_PIPE_RESET_INTERRUPT: every running hart of the attached clusters is interrupted; a barrier arrival
of its is gone with the counts (R428, R430). -/
def coresInterrupted (s : State) (p : Nat) : State :=
  ((List.range 4).filter fun c => clusterPipe s c == some p).foldl (fun s c =>
    (List.range 8).foldl (fun s n =>
      let h := s.hart (8 * c + n)
      if h.run = .halted then s
      else
        let s := s.setBit (rScCoreCause c n) 0 true
        s.setHart (8 * c + n) { h.interrupt with arrived := false, released := false }) s) s

/-! ### Step 4: replay and skipped tasks -/

/-- How the taken tasks are treated so far: sources with a finalised task, tasks to be admitted again, and
finalised records with the intake counts they wait for (R490, R491). -/
structure Replay where
  gone : List Nat
  again : List (Nat × WinDesc × Nat)
  final : List Held
  deriving DecidableEq, Repr

/-- Intake counts of the tasks of a source that are to be admitted again. -/
def Replay.before (r : Replay) (src : Nat) : List Nat :=
  (r.again.filter fun a => a.2.1.source == src).map fun a => a.2.1.count

/-- A taken task is reissued or finalised (R490). DEDUCED: log 137. -/
def Replay.take (r : Replay) (max t : Nat) (k : Task) : Replay :=
  if k.desc.replay && k.status.isNone && !r.gone.contains k.source && decide (k.reissues < max) then
    { r with again := r.again ++ [(k.ring, k.desc, k.reissues + 1)] }
  else
    let st := k.status.getD (if r.gone.contains k.source then stSkipped else stAborted)
    { r with
      gone := k.source :: r.gone
      final := r.final
        ++ [⟨k.ring, { recordOf t k with status := st, pipe := none }, r.before k.source, k.streams⟩] }

/-- A task taken before and not yet admitted again: still to be reissued unless its source has a finalised
task now. -/
def Replay.takeAgain (r : Replay) (dt : Nat) (a : Nat × WinDesc × Nat) : Replay :=
  if r.gone.contains a.2.1.source then
    { r with final := r.final ++ [⟨a.1, { plainRecord a.2.1 stSkipped dt with pipe := none },
      r.before a.2.1.source, []⟩] }
  else { r with again := r.again ++ [a] }

/-- Bytes that a task's output stream has written so far (R484). -/
def bytesNow (s : State) (k : Task) (t : Nat) : Nat :=
  let x := s.str (outStream s k.pipe)
  if x.task = some t then x.bytes else k.rbytes

/-- TASK_REPLAY_DECISION: taken tasks leave the pipeline; those to be reissued wait in admission order, a
finalised record is due once its flushed streams have ended and the reissued tasks of its source have theirs
(OP2, R15, R490, R491). -/
def tasksTaken (s : State) (p : Nat) : State :=
  let x := s.dc.pipe p
  let taken := x.flight.filter fun t => !(s.dc.task t).ended
  let max := s.fld rErrCtrl 0 8
  let r := taken.foldl (fun (r : Replay) t =>
    let k := s.dc.task t
    r.take max t { k with
      rbytes := bytesNow s k t
      streams := k.streams.filter fun i => (s.str i).st != .idle && (s.str i).task == some t })
    (⟨[], [], []⟩ : Replay)
  let r := x.reissue.foldl (fun r a => r.takeAgain s.dt a) r
  let s := { s with dc := { s.dc.setPipe p { x with
      flight := x.flight.filter fun t => !taken.contains t
      reissue := r.again, held := x.held ++ r.final, eos := none } with
    tasks := s.dc.tasks.filter fun e => !taken.contains e.1
    armq := s.dc.armq.filter fun q => !taken.contains q.2.1 } }
  heldMap s p id

/-- Steps 1 to 4 of the reset of pipeline p (R488). DEDUCED: log 136. -/
def resetSteps (s : State) (p : Nat) : State :=
  let l := s.pipeWells p
  let s := { s with err := { s.err with
    pending := SMap.set (fun _ => none) s.err.pending p none, resetting := s.err.resetting ++ [p] } }
  let strs := pipeStreams s p
  let s := tasksTaken (pipeStop (tagEnds s l) l) p
  let s := strs.foldl (resetFlush l) s
  coresInterrupted (l.foldl (fun s w => barriersCleared (queuesEmptied s w) w) s) p

/-- `PIPELINE_RESET`: the reset that a pipeline-scoped fault asks for; a fault while one is in progress, or
under a device-scoped fault, writes its entry only (R480, R488, R489). -/
def execPipelineReset (p : PipeIx) (f : FaultInfo) (s : State) : Out := clocked s <|
  if (s.pipeWells p.val).isEmpty then .next s
  else if s.err.resetting.contains p.val || !dcRuns s then .next (pipeFault s p.val f)
  else
    let asked := (SMap.get (fun _ => none) s.err.pending p.val).isSome
    .next (resetSteps (if asked then s else pipeFault s p.val f) p.val)

/-- `PIPELINE_RELOAD`, step 5: once the flushed streams have ended, the MP reloads the pipeline and starts it,
and admission resumes with the reissued tasks. A reload that fails is logged and the pipeline stays reset
(R332, R488, R489, R491). -/
def execPipelineReload (p : PipeIx) (s : State) : Out := clocked s <|
  let idle := s.strs.all fun e => !(e.2.st == .cancelling && e.2.fill == some stAborted)
  if s.err.resetting.contains p.val && dcRuns s && s.mpTurn 2 && idle && !enginesBusy s p.val then
    let z := imageReload s p.val
    if z.1 = 0 then
      let s := pipeStart z.2.2 p.val
      .next { s with err := { s.err with resetting := s.err.resetting.erase p.val } }
    else .next (logOnly z.2.2 (mkFault z.1 0xA p.val))
  else .next s

end Sys2Proof.Machine
end

