-- ==== Sys2Proof/Machine/Manage.lean ====
section
/-! DEFINITION. The management processor's other work: the mailbox commands (R342), its watchdog and restart
(R435, R505), telemetry (R434), wake states (R472 to R475, R511, R524), and the tick of an empty queue. -/

namespace Sys2Proof.Machine

/-! ### Wake states -/

/-- Present wake state, 0 to 5 for W0 to W5. -/
def wakeState (s : State) : Nat := s.fld rPwrWake 29 3

/-- DRAM peak in bytes per µs: channels × 2 bytes × rate (R13). -/
def dramPeak (s : State) : Nat := 2 * s.fld rMemCfg 0 6 * s.fld rCapMem 0 16

/-- Exit latency of W2 in ns: 15 µs and the weight bytes of the resident images over 0.8 of the DRAM peak;
none without DRAM (R474). -/
def w2Exit (s : State) : Option Nat :=
  let b := ((residents s).map fun p => (s.mp.image p).weightBytes).sum
  if b = 0 then some 15000
  else if dramPeak s = 0 then none
  else some (15000 + (b * 1250 + dramPeak s - 1) / dramPeak s)

/-- Exit latency of a wake state in ns; none for a state not offered (R472, R474). -/
def exitLatency (s : State) (w : Nat) : Option Nat :=
  match w with
  | 0 => some 0
  | 1 => some 200
  | 2 => match w2Exit s with
    | some n => if n ≤ 60000 then some n else none
    | none => none
  | 3 => some 200000
  | 4 => some 5000000
  | _ => some 350000000

/-- A wake state may be entered: within the tolerated latency, no deeper than W3 as a member, W5 only where
allowed (R473). -/
def wakeAllowed (s : State) (w : Nat) : Bool :=
  (match exitLatency s w with
    | some n => decide (n ≤ 1000 * s.fld rPwrLattol 0 32)
    | none => false)
    && (decide (w ≤ 3) || dstate s != 2) && (decide (w ≤ 4) || s.bit rPwrWake 24)

/-- The deepest state allowed (R473). -/
def deepest (s : State) : Nat := ([5, 4, 3, 2, 1].find? (wakeAllowed s)).getD 0

/-- A pipeline has a task it could take in. -/
def hasWork (s : State) (p : Nat) : Bool :=
  canAdmit s p && (!(s.dc.pipe p).reissue.isEmpty || !(admissible s p).isEmpty)

/-- The device is idle (R473). -/
def deviceIdle (s : State) : Bool :=
  s.dc.tasks.isEmpty && (List.range 8).all (fun p => !hasWork s p)
    && s.strs.all (fun e => e.2.st == .idle)
    && s.harts.all (fun e => e.2.run == HartRun.halted || e.2.run == HartRun.held)
    && s.wells.all (fun e => e.2.busy.isNone) && s.mp.queue.isEmpty

/-- Idleness has lasted IDLE_US (R473). -/
def idleLong (s : State) : Bool :=
  deviceIdle s && match s.pwr.idleSince with
    | some t => decide (t + 1000 * s.fld rPwrWake 0 16 ≤ s.clk)
    | none => false

/-- Every controller reports self-refresh, or no longer does (R373, R380). -/
def selfRefresh (s : State) (on : Bool) : State :=
  (List.range 8).foldl (fun s n =>
    if s.hasMc n then (if on then cacheFlush s n else s).setBit (rMcStatus n) 30 on else s) s

/-- `WAKE_ENTRY`: the deepest state allowed is entered; before W5 the self-test begins where SST is set, else
the device asks for its power to be cut (R473, R475, R511). -/
def execWakeEntry (s : State) : Out := clocked s <|
  if wakeState s = 0 && s.ready && !s.mp.restarting && !sstBusy s && idleLong s then
    let w := deepest s
    if w = 0 then .next s
    else
      let s := s.setFld rPwrWake 26 3 w
      if w = 5 then
        if s.bit rPwrWake 25 then .next (sstStart (selfRefresh s true) true)
        else .next { s.setFld rPwrWake 29 3 5 with pwr := { s.pwr with offPin := false } }
      else .next ((if w = 4 then selfRefresh s true else s).setFld rPwrWake 29 3 w)
  else .next s

/-- Slices and columns that W2 has switched off come back as after a reset; what a repair marked stays
(R107, R472). DEDUCED: log 134. -/
def wellRepowered (s : State) (w : Nat) : State :=
  let y := s.well w
  let y := (List.range 8).foldl (fun (y : Well) i =>
    let x := y.slice i
    y.setSlice i { Slice.reset with failed := x.failed, spares := x.spares, duty := x.duty
                                    limCeil := x.limCeil, ctlCtx := x.ctlCtx, swflag := x.swflag }) y
  let s := s.setWell w { y with
    run := if y.run = .failed then .failed else .notStarted
    units := [], sw := [], switches := [], qsb := [], ctxs := [], cuStat := [], muErr := [], flights := []
    frozen := false }
  clearMem s (cisternAddr w 0 0) (cisternAddr (w + 1) 0 0)

/-- The queues of a pipeline's wells are emptied and it is reloaded and started, as after a pipeline reset
(R474). -/
def pipeRevive (s : State) (p : Nat) : State :=
  let l := (s.mp.image p).wells
  let s := l.foldl (fun s w => barriersCleared (queuesEmptied s w) w) s
  let z := imageReload s p
  if z.1 = 0 then pipeStart z.2.2 p else logOnly z.2.2 (mkFault z.1 0xA p)

/-- Every resident pipeline is reloaded. -/
def reviveAll (s : State) : State := (residents s).foldl pipeRevive s

/-- The device returns to W0: from W2 its pipelines are reloaded, from W3 and W4 everything goes on where it
stood (R474, R475). -/
def wakeUp (s : State) : State :=
  let w := wakeState s
  let s := { s.setFld rPwrWake 29 3 0 with pwr := { s.pwr with idleSince := none } }
  if w = 2 then
    reviveAll ((List.range 8).foldl (fun s w => if s.hasWell w then wellRepowered s w else s) s)
  else if w = 4 then selfRefresh s false else s

/-- SST_ABANDON: each partition under test finishes and is re-initialised, the pass ends without a record,
and resident pipelines are reloaded (R524). -/
def sstAbandon (s : State) : State :=
  let s := s.sst.testing.foldl partReset s
  let s := sstStatus { s with sst := { s.sst with testing := [], todo := [], committing := false } } 4
  let s := selfRefresh s false
  reviveAll { s with pwr := { s.pwr with idleSince := none } }

/-- The event ends a wake state: a write of `PWR_LATTOL` only below the present exit latency, a PPS edge only
under SRC 1 (R475). -/
def wakes (s : State) (e : WakeEvent) : Bool :=
  match e with
  | .lattol => match exitLatency s (wakeState s) with
    | some n => decide (1000 * s.fld rPwrLattol 0 32 < n)
    | none => true
  | .pps => s.fld rTbCtrl 30 2 == 1
  | .chp | .doorbell | .rimIrq | .linkPacket => true

/-- An event ends a wake state, or abandons the pass before W5 (R475, R524). -/
def roused (s : State) (e : WakeEvent) : State :=
  if !s.clocksRun || !wakes s e then s
  else if 1 ≤ wakeState s && wakeState s ≤ 4 then wakeUp s
  else if s.fld rSstStatus 29 3 == 1 && s.sst.shutdown then sstAbandon s else s

/-- `WAKE_EXIT`. -/
def execWakeExit (e : WakeEvent) (s : State) : Out := clocked s <| .next (roused s e)

/-- A write of `PWR_LATTOL`: one below the present state's exit latency ends it (R475). -/
def lattolSet (s : State) (us : W32) : State := roused (s.setFld rPwrLattol 0 32 us.toNat) .lattol

/-- `LATTOL_WRITE`. -/
def execLattolWrite (v : W32) (s : State) : Out := clocked s <| .next (lattolSet s v)

/-! ### Commands on power, telemetry and the log -/

/-- The head request asks for a command that has not been carried out. -/
def mpAsked (s : State) (cmd : Nat) : Bool :=
  s.mp.answer.isNone && ((s.mp.queue.head?.map fun q => bits (q.words.getD 0 0) 0 16) == some cmd)

/-- SET_MODE: the mode is requested once, and answered when it is in force (R456). -/
def mpSetMode (s : State) (m : Nat) : State :=
  if s.mp.restarting then s
  else
    let s := if mpAsked s 0x10 && s.mp.begun then s
      else
        let s := modeRequest s m
        if mpAsked s 0x10 then { s with mp := { s.mp with begun := true } } else s
    if modeCur s = m && !s.bit rPwrMode 27 then mpDone s 0x10 0 [] else s

/-- `SET_MODE`. -/
def execSetMode (mode : BitVec 2) (s : State) : Out := clocked s <| .next (mpSetMode s mode.toNat)

/-- SET_CAP: the cap in W and its enable (R464). DEDUCED: log 133. -/
def mpSetCap (s : State) (w : Nat) : State :=
  if s.mp.restarting then s
  else mpDone (pwrCapWrite s (putBits (putBits (s.rd rPwrCap) 0 9 w) 31 1 1)) 0x11 0 []

/-- `SET_CAP`. -/
def execSetCap (watts : BitVec 9) (s : State) : Out := clocked s <| .next (mpSetCap s watts.toNat)

/-- SET_LATTOL (R342, R473, R475). -/
def mpSetLattol (s : State) (us : W32) : State :=
  if s.mp.restarting then s else mpDone (lattolSet s us) 0x12 0 []

/-- `SET_LATTOL`. -/
def execSetLattol (us : W32) (s : State) : Out := clocked s <| .next (mpSetLattol s us)

/-- TELEMETRY: the words a selector names, as of the last sample; which they are is left open (R342).
DESIGN CHOICE: log 123. -/
def mpTelemetry (s : State) (selector : W64) : State :=
  if s.mp.restarting then s
  else mpDone s 0x20 0 ((List.range 7).map fun i => Config.telemetry selector.toNat s.mp.samples i)

/-- `TELEMETRY`. -/
def execTelemetry (selector : W64) (s : State) : Out := powered s <| .next (mpTelemetry s selector)

/-- LOG_READ: the four words of entry n (R492). -/
def mpLogRead (s : State) (n : W32) : State :=
  if s.mp.restarting then s
  else mpDone s 0x30 0 ((List.range 4).map fun j =>
    SMap.get (fun _ => 0) s.err.log (4 * (n.toNat % 1024) + j))

/-- `LOG_READ`. -/
def execLogRead (n : W32) (s : State) : Out := powered s <| .next (mpLogRead s n)

/-! ### Membership (R391, R392) -/

/-- A port is enabled: it trains, or where it is UP already sends its HELLO. -/
def portEnable (s : State) (n : Nat) : State :=
  if s.hasLink n then
    let s := linkCfgWrite s n (putBits (s.rd (rLkCfg n)) 31 1 1)
    if portState s n = lkUp then sendPacket s n (helloPacket s n) else s
  else s

/-- `MEMBERSHIP_JOIN`: a device that is alone takes its id and topology, enables its ports and is JOINING.
DESIGN CHOICE: log 100. -/
def execMembershipJoin (id : BitVec 10) (topo : Topology) (s : State) : Out := clocked s <|
  .next (if s.mp.restarting then s
    else if dstate s = 0 && s.fld rCapUnits 16 6 != 0 then
      let s := s.setFld rLkId 0 10 id.toNat
      let s := { s with lk := { s.lk with topo := some topo } }
      let s := s.setFld rLkEpoch 29 3 1
      mpDone ((List.range 6).foldl portEnable s) 0x40 0 []
    else mpDone s 0x40 stDescInvalid [])

/-- `MEMBERSHIP_LEAVE`: a member floods its leave and is LEAVING. -/
def execMembershipLeave (s : State) : Out := clocked s <|
  .next (if s.mp.restarting then s
    else if dstate s = 2 then mpDone ((ownUpdate s true).setFld rLkEpoch 29 3 3) 0x40 0 []
    else mpDone s 0x40 stDescInvalid [])

/-! ### Serving the mailbox -/

/-- The command of the head request; MEMBERSHIP is carried out by its own rows (R342). -/
def mpServe (s : State) (q : MbReq) : State :=
  let w := fun (i : Nat) => q.words.getD i 0
  let cmd := bits (w 0) 0 16
  match cmd with
  | 0x01 => mpLoad s (w 1) (bits (w 2) 0 3) (bitAt (w 2) 3) (w 3)
  | 0x02 => mpUnload s (bits (w 1) 0 3)
  | 0x03 => mpReload s (bits (w 1) 0 3)
  | 0x10 => mpSetMode s (bits (w 1) 0 2)
  | 0x11 => mpSetCap s (bits (w 1) 0 9)
  | 0x12 => mpSetLattol s ((w 1).setWidth 32)
  | 0x20 => mpTelemetry s (w 1)
  | 0x30 => mpLogRead s ((w 1).setWidth 32)
  | 0x40 => s
  | _ => mpDone s cmd stDescInvalid []

/-- With the other clocks stopped the MP serves only what it holds itself: TELEMETRY and LOG_READ
(R38, R471). -/
def mpCan (s : State) (q : MbReq) : Bool :=
  let cmd := bits (q.words.getD 0 0) 0 16
  s.clocksRun || cmd == 0x20 || cmd == 0x30

/-- `MAILBOX_RESPONSE`: the head request is carried out unless it has been, and once it has its answer the
response is written and the request leaves the queue (R341, R433). -/
def execMailboxResponse (s : State) : Out := powered s <|
  match s.mp.queue with
  | [] => .next s
  | q :: _ =>
    if !s.mpTurn 2 then .next s
    else
    let s := if s.mp.answer.isNone && mpCan s q then mpServe s q else s
    match s.mp.answer with
    | none => .next s
    | some (st, pl) =>
      let s := setMbQueue s (s.mp.queue.drop 1)
      .next (mbAnswer { s with mp := { s.mp with answer := none } } q st pl)

/-! ### Watchdog, restart, telemetry -/

/-- `MP_WATCHDOG_EXPIRY`: outside a start an MP-only reset, logged; in a start the start begins again at phase
1, and the third expiry stops it (R435, R505). -/
def execMpWatchdogExpiry (s : State) : Out := powered s <|
  if s.boot.starting then
    let s := s.addWrap rHiMpStatus 0 15
    let s := { s with boot := { s.boot with expiries := s.boot.expiries + 1 } }
    if 3 ≤ s.boot.expiries then .next (startFail s stWatchdog)
    else .next { setPhase s 1 with boot := { s.boot with fromOne := true } }
  else if s.mp.restarting then .next s
  else .next (mpReset (logOnly s (mkFault stWatchdog 0xA 0)))

/-- `MP_RESTART_COMPLETE`: the firmware has been loaded and verified again, and the MP takes up its work, held
reloads included; firmware that fails stops as at a start (R435, R489, R527, R528). -/
def execMpRestartComplete (s : State) : Out := powered s <|
  if s.mp.restarting then
    if fwVerify s then
      let s := fwAccept s
      .next { s with mp := { s.mp with restarting := false } }
    else .next (startFail (logOnly s (mkFault stSecViolation 0xE 0)) stSecViolation)
  else .next s

/-- `TELEMETRY_SAMPLE`: the lowest level of the MP's work (R432, R434). -/
def execTelemetrySample (s : State) : Out := powered s <|
  .next (if s.mpTurn 5 then { s with mp := { s.mp with samples := s.mp.samples + 1 } } else s)

/-- `MP_BUSY_MEASURE`: the busy fraction in 1/255; above 75% the slow factor doubles, below 50% it halves,
within 1 to 8 (R434). -/
def execMpBusyMeasure (busy : BitVec 8) (s : State) : Out := powered s <|
  if s.mp.restarting then .next s
  else
    let b := busy.toNat
    let f := s.fld rHiMpStatus 28 4
    let f' := if 765 < 4 * b then Nat.min 8 (2 * f) else if 2 * b < 255 then Nat.max 1 (f / 2) else f
    .next ((s.setFld rHiMpStatus 20 8 b).setFld rHiMpStatus 28 4 f')

/-! ### An empty queue -/

/-- One tick of the 1 GHz count clock with nothing commanded: device time and the Rim's oscillators advance,
and the time since which the device has been idle is kept. DESIGN CHOICE: log 2. DEDUCED: log 135. -/
def idleTick (s : State) : State :=
  let s := oscTick (tbTick s)
  { s with pwr := { s.pwr with
    idleSince := if deviceIdle s then some (s.pwr.idleSince.getD s.clk) else none } }

end Sys2Proof.Machine
end

