-- ==== Sys2Proof/Machine/Commands.lean ====
section
/-! DEFINITION. What arrives from outside the device: the host transactions (R336, R339, R340), the data ports
(R343 to R345), doorbells, the Rim's interrupt, the PPS edge and the flits of a link. Each of them ends a wake state
(R475). -/

namespace Sys2Proof.Machine

/-- A host drives the path. -/
def fromHost : Path → Bool
  | .u0 | .u1 | .sideband => true
  | .mp | .sc _ | .tap => false

/-- The state that a transaction of a path finds: one of a host ends a wake state first, and is held until it has
(R475). -/
def hostCall (s : State) (p : Path) : State := if fromHost p && pathOpen s p then roused s .chp else s

/-- A write of `PWR_LATTOL` below the present exit latency ends the wake state (R475). -/
def lattolSeen (s : State) (o : Nat) : State := if o / 8 * 8 = rPwrLattol then roused s .lattol else s

/-- `REGRD` (R336, R339): reads wait for the earlier writes of the path. -/
def execRegrd (path : Path) (off : BitVec 26) (wide : Bool) (s : State) : Out :=
  let s := hostCall s path
  let o := off.toNat
  let n := if wide then 8 else 4
  if !pathOpen s path then .next s
  else if tapHidden path o then .next (respond s path true (leBytes 0 n))
  else if regServed s path o wide then
    let r := regRead (dpDrainAll s) path o wide
    .next (respond r.2 path true (leBytes r.1 n))
  else .next (respond (pathError s path 0 (regAddr o)) path false (leBytes 0 n))

/-- A register write over a path. DEDUCED: log 77. -/
def regTransaction (s : State) (path : Path) (o : Nat) (wide : Bool) (v : W64) : State :=
  let s := hostCall s path
  if !pathOpen s path || tapHidden path o then s
  else if regServed s path o wide then lattolSeen (pathWrite s path o wide v) o
  else pathError s path 0 (regAddr o)

/-- `REGWR` (R336): posted. -/
def execRegwr (path : Path) (off : BitVec 26) (wide : Bool) (v : W64) (s : State) : Out :=
  .next (regTransaction s path off.toNat wide v)

/-- `REGISTER_WRITE`: a write of the MP through its register port (R339). -/
def execRegisterWrite (off : BitVec 26) (wide : Bool) (v : W64) (s : State) : Out :=
  .next (regTransaction s .mp off.toNat wide v)

/-- `DBELL` acts as a write of `DC_RING_TAIL` (R336). -/
def execDbell (path : Path) (ring : BitVec 8) (tail : W32) (s : State) : Out :=
  .next (regTransaction s path (0x24000 + 0x40 * ring.toNat + 0x10) false (tail.setWidth 64))

/-- Address and length of a memory transaction are well formed (R336). -/
def memForm (a len : Nat) : Bool :=
  decide (8 ≤ len) && decide (len ≤ 4096) && len % 8 == 0 && a % 8 == 0

/-- The data window that a memory transaction lies in, whole (R336). -/
def memWindow (s : State) (a len : Nat) : Option Nat :=
  match regionOf s a with
  | .regs off =>
    match dpWindow off, dpWindow (off + len - 1) with
    | some n, some m => if n = m then some n else none
    | _, _ => none
  | _ => none

/-- Only a mainband carries memory transactions. -/
def memPath : Path → Bool
  | .u0 | .u1 => true
  | _ => false

/-- `MEMRD` (R336). -/
def execMemrd (path : Path) (addr : BitVec 48) (len : Nat) (s : State) : Out :=
  let s := hostCall s path
  let a := addr.toNat
  let zeros := List.replicate len (0 : Byte)
  if !memPath path || !pathOpen s path then .next s
  else if !memForm a len then .next (respond (pathError s path 2 a) path false zeros)
  else if !s.ready then .next (respond (pathError s path 0 a) path false zeros)
  else
    match memWindow s a len with
    | some n =>
      let r := dpRead (dpDrainAll s) n path len
      .next (respond r.2.2 path r.2.1 r.1)
    | none =>
      if rangeMapped s a len then
        let r := memGet (dpDrainAll s) a len
        .next (respond r.2.2 path (!r.2.1) (if r.2.1 then zeros else r.1))
      else .next (respond (pathError s path 0 a) path false zeros)

/-- `MEMWR` (R336): posted. -/
def execMemwr (path : Path) (addr : BitVec 48) (data : List Byte) (s : State) : Out :=
  let s := hostCall s path
  let a := addr.toNat
  if !memPath path || !pathOpen s path then .next s
  else if !memForm a data.length then .next (pathError s path 2 a)
  else if !s.ready then .next (pathError s path 0 a)
  else
    match memWindow s a data.length with
    | some n => .next (dpWrite (dpDrainBut s n) n path data)
    | none =>
      if rangeMapped s a data.length then .next (memPut (dpDrainAll s) a data) else .next (pathError s path 0 a)

/-- The data-port block answers to the path. -/
def dpServed (s : State) (path : Path) : Bool :=
  pathOpen s path && !partTesting s 142 && match path with
    | .u0 | .u1 => s.ready
    | .mp | .sc _ => true
    | .sideband | .tap => false

/-- `DP_DATA_WRITE` (R343, R344). -/
def execDpDataWrite (path : Path) (n : Fin 4) (data : List Byte) (s : State) : Out := clocked s <|
  let s := hostCall s path
  .next (if dpServed s path && data.length % 8 == 0 then dpWrite (dpDrainBut s n.val) n.val path data else s)

/-- `DP_DATA_READ` (R343, R344). -/
def execDpDataRead (path : Path) (n : Fin 4) (len : Nat) (s : State) : Out := clocked s <|
  let s := hostCall s path
  if dpServed s path && len % 8 == 0 then
    let r := dpRead (dpDrainAll s) n.val path len
    .next (respond r.2.2 path r.2.1 r.1)
  else .next s

/-- `DP_ADDR_WRITE` (R343). -/
def execDpAddrWrite (path : Path) (n : Fin 4) (addr : BitVec 48) (s : State) : Out := clocked s <|
  let s := hostCall s path
  .next (if dpServed s path then dpAddrWrite (dpDrainAll s) n.val path addr.toNat else s)

/-- `DP_LOCK_WRITE` (R345). -/
def execDpLockWrite (path : Path) (n : Fin 4) (owner : BitVec 16) (s : State) : Out := clocked s <|
  let s := hostCall s path
  .next (if dpServed s path then dpLock (dpDrainAll s) n.val path owner.toNat false else s)

/-- `DP_LOCK_RELEASE` (R345). -/
def execDpLockRelease (path : Path) (n : Fin 4) (owner : BitVec 16) (s : State) : Out := clocked s <|
  let s := hostCall s path
  .next (if dpServed s path then dpLock (dpDrainAll s) n.val path owner.toNat true else s)

/-! ### Doorbells, interrupts, edges and flits -/

/-- `DC_RING_TAIL_WRITE` (R346). -/
def execDcRingTailWrite (n : Fin 256) (v : W32) (s : State) : Out := clocked s <|
  .next (ringTail (roused s .doorbell) n.val v.toNat)

/-- `MAILBOX_DOORBELL`. -/
def execMailboxDoorbell (ch : MbChan) (s : State) : Out := powered s <|
  .next (if s.hasChan ch then mbDoor (roused s .doorbell) (mbKey ch) else s)

/-- `RIM_IRQ_EDGE` (R449). -/
def execRimIrqEdge (s : State) : Out := clocked s <| .next (rimIrq (roused s .rimIrq))

/-- `PPS_EDGE` (R409, R416): the edge is stamped and used; under SRC 1 it ends a wake state. -/
def execPpsEdge (offset : Int) (s : State) : Out := powered s <| .next (ppsEdge (roused s .pps) offset)

/-- `FLIT_RECEIVE` (R383, R384, R386): a packet that it completes ends a wake state. -/
def execFlitReceive (n : Fin 6) (f : Flit) (s : State) : Out := clocked s <|
  .next (if portLive s n.val then
      let t := flitTaken s n.val f
      if (s.port n.val).rx.length < (t.port n.val).rx.length then roused t .linkPacket else t
    else s)

end Sys2Proof.Machine
end

