-- ==== Sys2Proof/Machine/Strokes.lean ====
section
/-! DEFINITION. One cycle of a well's clock (R21, R23): whether it is frozen, what every unit, slice and
thread does in a completed stroke, what goes on in a frozen cycle, and the deadlock detector (R234). -/

namespace Sys2Proof.Machine

/-! ### What stands next -/

/-- The schedule word at the program counter of unit f; none where the word is one that a commit
refuses (R196): it never issues. -/
def unitWord (x : Well) (f : Nat) : Option (SwHead × SwOp) :=
  decodeSw f (x.swWord x.ctx f (x.unit f).pc)

/-- The instruction that slice i's thread would issue in this stroke. -/
def nextOp (x : Well) (i : Nat) : Option MsqOp :=
  let y := x.slice i
  if y.active && !y.switching then thInstr y else none

/-! ### Freeze causes (R21, R187) -/

/-- Why unit f freezes the well. -/
def unitFreezes (s : State) (w f : Nat) : Option Nat :=
  match unitWord (s.well w) f with
  | some (h, op) => match unitBlocks s w f h op with
    | some c => some c
    | none => if resultBlocked s w f then some 2 else none
  | none => if resultBlocked s w f then some 2 else none

/-- The least cause of a list. DEDUCED: log 16. -/
def leastCause (l : List (Option Nat)) : Option Nat :=
  l.foldl (fun b c =>
    match b, c with
    | some a, some d => some (Nat.min a d)
    | none, d => d
    | a, none => a) none

/-- Causes that the units and the slices' engines meet. -/
def stageCause (s : State) (w : Nat) : Option Nat :=
  leastCause ((List.range 96).map (unitFreezes s w) ++
    (List.range 8).map fun i => (engineBlocks s w i).map (·.1))

/-- Arrivals of the threads whose `BAR` issued in an earlier cycle are counted (R279). -/
def threadsArrive (s : State) (w : Nat) : State :=
  (List.range 8).foldl (fun (s : State) i => barCounted s w i) s

/-- A `BAR` that has not issued yet stands next: it freezes the well by itself. -/
def newBar (x : Well) (i : Nat) : Bool :=
  match nextOp x i with
  | some (.bar _) => !(x.slice i).arrived
  | _ => false

/-- Nothing but barriers that stand next keeps the well from its stroke: they issue (R125, R147). -/
def barsIssue (s : State) (w : Nat) : State :=
  (List.range 8).foldl (fun (s : State) i =>
    match nextOp (s.well w) i with
    | some (.bar bid) =>
      if (s.slc w i).arrived then s else s.setSlc w i (barIssue (s.slc w i) bid.toNat)
    | _ => s) s

/-- Engines of every slice take their stroke. -/
def enginesMove (s : State) (w : Nat) : State := (List.range 8).foldl (fun s i => engineStroke s w i) s

/-- Counts that the `SEMWAIT`s of slices before i would take from the semaphore that f names. -/
def semAhead (x : Well) (i : Nat) (f : SemF) : Nat :=
  ((List.range i).map fun j => match nextOp x j with
    | some (.semwait g) => if g.well == f.well && g.sq == f.sq && g.sel == f.sel then g.n.toNat else 0
    | _ => 0).sum

/-- What each thread can do. The counts stand as they did at the start of the stroke; `SEMWAIT`s of one stroke
share what is there (R24, R146). -/
def verdicts (s : State) (w : Nat) : List (Option (MsqOp × Verdict)) :=
  (List.range 8).map fun i => (nextOp (s.well w) i).map fun op =>
    match op with
    | .semwait f =>
      (op, if f.n.toNat + semAhead (s.well w) i f ≤ semOf s f then .issue else .freeze 3 .semwait)
    | _ => (op, verdict s w i op)

/-- Cause of a verdict. -/
def verdictCause (v : Option (MsqOp × Verdict)) : Option Nat :=
  match v with
  | some (_, .freeze c _) => some c
  | _ => none

/-! ### What goes on beside the schedule -/

/-- Accesses that units owe, and the writes of the last stroke's write slots, run in bank order: AG-A,
AG-B, AG-W (R160, R210, R212). -/
def owedRead (s : State) (w f : Nat) (isB : Bool) : State :=
  let u := (s.well w).unit f
  match (if isB then u.rOwedB else u.rOwedA) with
  | some p => readRun s w f isB p
  | none => s

/-- The oldest write that stood at the start of the cycle. A frozen cycle performs only what is owed, and
queue writes, which a frozen reader may wait for; a walk write waits for its stroke (R210, R212). -/
def owedWrite (s0 s : State) (w f : Nat) (frozen : Bool) : State :=
  if ((s0.well w).unit f).wPend.isEmpty then s
  else match ((s.well w).unit f).wPend with
    | p :: r =>
      let walk := match p.dest with
        | .walk _ => true
        | .queue _ => false
      if frozen && walk && !p.late then s else writeRun s0 s w f p r
    | [] => s

/-- Fold over the 96 units. -/
def eachUnit (s : State) (g : State → Nat → State) : State := (List.range 96).foldl g s

/-- Fold over the eight slices. -/
def eachSlice (s : State) (g : State → Nat → State) : State := (List.range 8).foldl g s

/-- Words, results and markers on their way go on; relay lines only in strokes (R164, R167, R131, R112). -/
def wordsMove (s0 s : State) (w : Nat) (frozen : Bool) : State :=
  let s := eachUnit s fun s f => resultsMove s0 s w f
  let s := eachUnit s fun s f => passMove s0 s w f
  let s := crossingsMove (flightsMove s w) w frozen
  eachSlice s fun s i =>
    let y := (s.slc w i).headsMove
    s.setSlc w i (if frozen then y else relayMove y)

/-- Side ports retry and elastic signals become visible (R29, R30). -/
def elasticMove (s : State) (w : Nat) : State := semArrive (retryAll s w) w

/-- Barriers whose home is this well complete (R280). -/
def barriersMove (s : State) (w : Nat) : State :=
  if s.pipeOf w = some w then
    (List.range 16).foldl (fun s b => if barReady s w b then barComplete s w b else s) s
  else s

/-! ### The deadlock detector (R234, R237) -/

/-- The limit 2^LOG2. -/
def dldLimit (x : Well) : Nat := 2 ^ Nat.min 30 (Nat.max 10 (bits x.dld 0 5))
/-- EN. -/
def dldOn (x : Well) : Bool := bitAt x.dld 31

/-- The DC counts a task in flight in the well's pipeline. -/
def taskInFlight (s : State) (w : Nat) : Bool :=
  match s.pipeOf w with
  | some p => !(s.dc.pipe p).flight.isEmpty
  | none => false

/-- `SF_STATUS` as it stands (R187). -/
def sfStatus (s : State) (w : Nat) : Nat := ctlRead s w 0x08

/-- STALL_CYCLE by watch c: recorded, logged with the freeze cause and a status register, captured.
DEDUCED: log 40. -/
def stallCycle (s : State) (w c cls unit detail : Nat) : State :=
  let s := s.setWell w { s.well w with dldCause := c }
  let s := wellFault s w (mkFault stStallCycle cls unit 0 ((s.well w).cause <<< 32 + detail))
  if (s.well w).capOnStall then capTake s w 2 else s

/-- The first thread that freezes the well, or the first one. -/
def freezingSlice (x : Well) : Nat :=
  ((List.range 8).find? fun i => (x.slice i).st == .freezing).getD 0

/-- The freeze watch stands at its limit. -/
def freezeExpired (s : State) (w : Nat) : Bool :=
  let x := s.well w
  dldOn x && x.frozen && taskInFlight s w && decide (dldLimit x ≤ x.watch)

/-- The freeze watch expires; the count begins anew. -/
def freezeWatch (s : State) (w : Nat) : State :=
  let x := s.well w
  let i := freezingSlice x
  stallCycle (s.setWell w { x with watch := 0 }) w 1 3 (unitNo w 127) (msqStatus (x.slice i))

/-- A thread that has waited as long as the limit. -/
def threadExpired (x : Well) : Option Nat :=
  (List.range 8).find? fun i => (x.slice i).st == .threadWait && decide (dldLimit x ≤ (x.slice i).waited)

/-- A unit that has stood in switch wait as long as the limit. -/
def switchExpired (x : Well) : Option Nat :=
  (List.range 96).find? fun f => match (x.unit f).wait with
    | some t => decide (dldLimit x ≤ t.strokes)
    | none => false

/-- A wait of a running well stands at the limit. -/
def waitExpired (s : State) (w : Nat) : Bool :=
  let x := s.well w
  dldOn x && ((threadExpired x).isSome || (switchExpired x).isSome)

/-- Every wait's count begins anew. -/
def waitsReset (x : Well) : Well :=
  let x := (List.range 8).foldl (fun (x : Well) i => x.setSlice i { x.slice i with waited := 0 }) x
  (List.range 96).foldl (fun (x : Well) f =>
    let u := x.unit f
    x.setUnit f { u with wait := u.wait.map fun t => { t with strokes := 0 } }) x

/-- The wait watch expires, for a thread wait before a switch wait (R151, R177). -/
def waitWatch (s : State) (w : Nat) : State :=
  let x := s.well w
  let t := s.setWell w (waitsReset x)
  match threadExpired x with
  | some i => stallCycle t w 2 2 (sliceNo w i) (msqStatus (x.slice i))
  | none => stallCycle t w 3 3 (unitNo w 127) (sfStatus s w)

/-- `FREEZE_WATCH_EXPIRY` (R234). -/
def execFreezeWatchExpiry (w : WellIx) (s : State) : Out := clocked s <|
  .next (if s.running w.val && freezeExpired s w.val then freezeWatch s w.val else s)

/-- `WAIT_WATCH_EXPIRY` (R151, R177, R234). -/
def execWaitWatchExpiry (w : WellIx) (s : State) : Out := clocked s <|
  .next (if s.running w.val && waitExpired s w.val then waitWatch s w.val else s)

/-! ### A frozen cycle -/

/-- What a thread shows in a frozen cycle: it freezes the well, or stands as it would in a stroke (R155). -/
def Slice.shows (y : Slice) : Verdict → Slice
  | .issue => { y with st := .issuing, wait := .none }
  | .hold => { y with st := .hold, wait := .none }
  | .wait => { y with st := .threadWait, wait := .thread }
  | .freeze _ why => { y with st := .freezing, wait := why }

/-- The threads see the frozen cycle: each shows what it waits for, and tags count it. -/
def threadsFrozen (s : State) (w : Nat) (vs : List (Option (MsqOp × Verdict))) : State :=
  eachSlice s fun s i =>
    let y := s.slc w i
    let y := match vs.getD i none with
      | some (_, v) => y.shows v
      | none => y
    let y := match engineBlocks s w i with
      | some (_, why) => if y.active then { y with st := .freezing, wait := why } else y
      | none => y
    s.setSlc w i (if y.active then { y with nextFrozen := y.nextFrozen + 1 } else y)

/-- The limiter's slices keep the credit of the withheld stroke (R462). -/
def limitersSave (s : State) (w : Nat) : State :=
  eachSlice s fun s i =>
    match engineBlocks s w i with
    | some (5, _) => event (s.setSlc w i (limiterSave s (s.slc w i))) 2 (sliceNo w i) 2
    | _ => s

/-- The cycle is counted as frozen, with its cause (R21, R187, R542). -/
def frozenMark (s : State) (w cause : Nat) : State :=
  let x := s.well w
  let s := s.setWell w { x with frozen := true, cause := cause, frozenCount := x.frozenCount + 1, banks := [] }
  event (event s 3 (unitNo w 127) 2) 3 (unitNo w 127) (2 + cause)

/-- The well is frozen for a scale block of slice i: a streamed `DRAIN` or an MX block waits for it (R85). -/
def scaleAwaited (s : State) (w i : Nat) (vs : List (Option (MsqOp × Verdict))) : Bool :=
  mxWaits (s.slc w i) || (match vs.getD i none with
    | some (.drain _, .freeze 1 _) => true
    | _ => false)

/-- What goes on in a cycle frozen for cause 1, 2 or 3: accesses owed, results and words on their way, a scale
block that the well is frozen for, and the freeze watch's count (R85, R212, R234). -/
def frozenMove (s0 s : State) (w : Nat) (vs : List (Option (MsqOp × Verdict))) : State :=
  let s := eachUnit s fun s f => owedWrite s0 (owedRead (owedRead s w f false) w f true) w f true
  let s := eachSlice s fun s i =>
    if scaleAwaited s w i vs then s.setSlc w i (scaleStep (s.slc w i)) else s
  let s := wordsMove s0 s w true
  if taskInFlight s w then s.setWell w { s.well w with watch := (s.well w).watch + 1 } else s

/-- The end of a frozen cycle: side ports and barriers, a capture asked for, the freeze watch. -/
def frozenEnd (s : State) (w : Nat) : State :=
  let s := barriersMove (elasticMove s w) w
  let s := if (s.well w).capNow then capTake s w 1 else s
  if freezeExpired s w then freezeWatch s w else s

/-- A frozen cycle for a cause (R21). Words on their way go on while the well waits for a word, a place or
an MSQ condition; a droop or the power manager holds everything (R34). DEDUCED: log 15. -/
def frozenCycle (s : State) (w cause : Nat) (vs : List (Option (MsqOp × Verdict))) : State :=
  let s := frozenMark s w cause
  let t := threadsFrozen s w vs
  frozenEnd (if cause = 4 then t.setWell w { t.well w with droopCycles := (t.well w).droopCycles + 1 }
    else if cause = 5 then limitersSave t w
    else frozenMove s t w vs) w

/-! ### A completed stroke -/

/-- The unit's word walks or reads with AG-A in this stroke, so that an access AG-B owes comes after it. -/
def newReadA (x : Well) (f : Nat) : Bool :=
  match unitWord x f with
  | some (h, .mem m) => (x.unit f).wait.isNone && wordRuns (x.unit f) h && m.a.reads
  | _ => false

/-- Every unit issues. The banks serve AG-A, AG-B and AG-W in this order, owed accesses with the new ones
(R160). -/
def unitsIssue (s0 s : State) (w : Nat) : State :=
  eachUnit s fun s f =>
    let aNew := newReadA (s0.well w) f
    let s := owedRead s w f false
    let s := if aNew then s else owedRead s w f true
    let s := match unitWord (s0.well w) f with
      | some (h, op) => unitIssue s w f h op
      | none => s
    let s := if aNew && ((s0.well w).unit f).rOwedB.isSome then owedRead s w f true else s
    owedWrite s0 s w f false

/-- Every thread issues, holds or waits, or goes to its new context. -/
def threadsIssue (s : State) (w : Nat) (vs : List (Option (MsqOp × Verdict))) : State :=
  eachSlice s fun s i =>
    let y := s.slc w i
    if y.active && y.switching then s.setSlc w i (threadSwitch y)
    else match vs.getD i none with
      | some (op, .issue) => threadIssue (tagIssue s w i (tagDw0 y w i op)) w i op
      | some (op, v) => threadStay s w i op v
      | none => s

/-- Strokes of the slices that the counters and the limiter see: a run that reads IN, and the credit of a
slice with no run (R462, R542). -/
def slicesCount (s0 s : State) (w : Nat) : State :=
  eachSlice s fun s i =>
    let y := s0.slc w i
    match y.bankOp with
    | some (.mma _ _ _ _ _ sub) => if sub = 0 then event s 2 (sliceNo w i) 1 else s
    | _ =>
      let z := s.slc w i
      s.setSlc w i { z with limCredit := Nat.min 64 (z.limCredit + z.limE) }

/-- Units in switch wait spend the stroke there (R174, R176, R177). -/
def waitsMove (s0 s : State) (w : Nat) : State :=
  let any := (List.range 96).any fun f => ((s0.well w).unit f).wait.isSome
  let s := if any then event s 3 (unitNo w 127) 8 else s
  eachUnit s fun s f => if ((s0.well w).unit f).wait.isSome then waitStroke s w f else s

/-- What issues and moves in a completed stroke. -/
def strokeMove (s0 s1 : State) (w : Nat) (vs : List (Option (MsqOp × Verdict))) : State :=
  let s := s1.setWell w { s1.well w with banks := [], frozen := false, watch := 0 }
  let s := slicesCount s0 (threadsIssue (unitsIssue s0 s w) w vs) w
  waitsMove s0 (wordsMove s0 s w false) w

/-- The context switch due at the end of the stroke. -/
def switchDue (s : State) (w : Nat) : Option Nat → State
  | some c => wellSwitch s w c
  | none => s

/-- The end of a completed stroke: the counts, captures, barriers and the wait watch. -/
def strokeEnd (s : State) (w : Nat) : State :=
  let s := elasticMove s w
  let x := s.well w
  let s := event (s.setWell w { x with strokes := x.strokes + 1, tick := x.tick + 1 }) 3 (unitNo w 127) 1
  let s := barriersMove (captureDue s w) w
  if waitExpired s w then waitWatch s w else s

/-- A completed stroke (R21, R23): s0 is the state at its start, s1 the state with the engines' stroke
taken. -/
def fullStroke (s0 s1 : State) (w : Nat) (vs : List (Option (MsqOp × Verdict))) : State :=
  let s := strokeMove s0 s1 w vs
  let s := eachSlice s fun s i => tagStroke s w i (!(s.slc w i).enginesFree)
  strokeEnd (switchDue s w (wellReady s0 w)) w

/-- Every thread that freezes the well does so with a `BAR` that has not issued yet. -/
def onlyNewBars (s : State) (w : Nat) (vs : List (Option (MsqOp × Verdict))) : Bool :=
  (List.range 8).all fun i => (verdictCause (vs.getD i none)).isNone || newBar (s.well w) i

/-- A cycle of a running well. -/
def wellCycle (s : State) (w : Nat) : State :=
  if (s.well w).droop ≠ 0 then frozenCycle s w 4 []
  else
    let s0 := threadsArrive s w
    match stageCause s0 w with
    | some c =>
      -- the threads' conditions are judged on the state as it stands
      let vs := verdicts s0 w
      frozenCycle s0 w ((leastCause (some c :: vs.map verdictCause)).getD c) vs
    | none =>
      let s1 := enginesMove s0 w
      let vs := verdicts s1 w
      match leastCause (vs.map verdictCause) with
      | some c => frozenCycle (if onlyNewBars s0 w vs then barsIssue s0 w else s0) w c vs
      | none => fullStroke s0 s1 w vs

/-- `STROKE`: one cycle of the clock of well w. A well that does not run, or stands in a wake state, takes
none (R22, R183). -/
def execStroke (w : WellIx) (s : State) : Out := clocked s <| .next (if s.running w.val then wellCycle s w.val else s)

end Sys2Proof.Machine
end

