-- ==== Sys2Proof/Machine/Dispatch.lean ====
section
/-! DEFINITION. One arm for each command: its meaning. -/

namespace Sys2Proof.Machine

def exec (i : Instr) (s : State) : Host.Outcome State Fault Refusal :=
  match i with
  -- wells and registers
  | .stroke w => Sys2Proof.Machine.execStroke w s
  | .crossingWordArrival w row east express => Sys2Proof.Machine.execCrossingWordArrival w row east express s
  | .sidePortWrite w e wd => Sys2Proof.Machine.execSidePortWrite w e wd s
  | .semaphorePortUpdate w e sel n => Sys2Proof.Machine.execSemaphorePortUpdate w e sel n s
  | .registerWrite off wide v => Sys2Proof.Machine.execRegisterWrite off wide v s
  -- matrix sequencer instructions
  | .msqNop t => Sys2Proof.Machine.execMsqNop t s
  | .halt t code => Sys2Proof.Machine.execHalt t code s
  | .msqLoop t lvl count1 last => Sys2Proof.Machine.execMsqLoop t lvl count1 last s
  | .msqJmp t target => Sys2Proof.Machine.execMsqJmp t target s
  | .brc t cond neg lvl target => Sys2Proof.Machine.execBrc t cond neg lvl target s
  | .wld t f => Sys2Proof.Machine.execWld t f s
  | .wrelay t f => Sys2Proof.Machine.execWrelay t f s
  | .wdyn t f => Sys2Proof.Machine.execWdyn t f s
  | .mma t f => Sys2Proof.Machine.execMma t f s
  | .mmaz t f => Sys2Proof.Machine.execMmaz t f s
  | .drain t f => Sys2Proof.Machine.execDrain t f s
  | .scl t f => Sys2Proof.Machine.execScl t f s
  | .scls t kind ch => Sys2Proof.Machine.execScls t kind ch s
  | .zpc t f => Sys2Proof.Machine.execZpc t f s
  | .qwait t f => Sys2Proof.Machine.execQwait t f s
  | .semsig t f => Sys2Proof.Machine.execSemsig t f s
  | .semwait t f => Sys2Proof.Machine.execSemwait t f s
  | .bar t bid => Sys2Proof.Machine.execBar t bid s
  | .fence t => Sys2Proof.Machine.execFence t s
  | .drainall t mask => Sys2Proof.Machine.execDrainall t mask s
  | .ctxsw t ctx force mask => Sys2Proof.Machine.execCtxsw t ctx force mask s
  | .threadWaitEnd t => Sys2Proof.Machine.execThreadWaitEnd t s
  | .threadContextSwitch t => Sys2Proof.Machine.execThreadContextSwitch t s
  | .ptok t duty => Sys2Proof.Machine.execPtok t duty s
  | .stat t perTensor unit winLen => Sys2Proof.Machine.execStat t perTensor unit winLen s
  | .tag t l1 => Sys2Proof.Machine.execTag t l1 s
  | .trap t code => Sys2Proof.Machine.execTrap t code s
  | .wsEccWriteback t => Sys2Proof.Machine.execWsEccWriteback t s
  | .relayLineArrival t => Sys2Proof.Machine.execRelayLineArrival t s
  | .msqStart t ctx swflag => Sys2Proof.Machine.execMsqStart t ctx swflag s
  | .msqStop t ctx swflag start => Sys2Proof.Machine.execMsqStop t ctx swflag start s
  | .meScaleWrite t n v => Sys2Proof.Machine.execMeScaleWrite t n v s
  | .statCtrlWrite u v => Sys2Proof.Machine.execStatCtrlWrite u v s
  | .statWindowEnd u => Sys2Proof.Machine.execStatWindowEnd u s
  -- schedule words
  | .swNop w f h => Sys2Proof.Machine.execSwNop w f h s
  | .swLoop w f h lvl count1 last => Sys2Proof.Machine.execSwLoop w f h lvl count1 last s
  | .swJmp w f h target => Sys2Proof.Machine.execSwJmp w f h target s
  | .pset w f h pd cond arg neg => Sys2Proof.Machine.execPset w f h pd cond arg neg s
  | .switch w f h force mask qna qnb => Sys2Proof.Machine.execSwitch w f h force mask qna qnb s
  | .tagset w f h t => Sys2Proof.Machine.execTagset w f h t s
  | .mov w k h c => Sys2Proof.Machine.execMov w k h c s
  | .cvt w k h c => Sys2Proof.Machine.execCvt w k h c s
  | .add w k h c => Sys2Proof.Machine.execAdd w k h c s
  | .sub w k h c => Sys2Proof.Machine.execSub w k h c s
  | .mul w k h c => Sys2Proof.Machine.execMul w k h c s
  | .fma w k h c => Sys2Proof.Machine.execFma w k h c s
  | .min w k h c => Sys2Proof.Machine.execMin w k h c s
  | .max w k h c => Sys2Proof.Machine.execMax w k h c s
  | .cmp w k h c => Sys2Proof.Machine.execCmp w k h c s
  | .sel w k h c => Sys2Proof.Machine.execSel w k h c s
  | .and w k h c => Sys2Proof.Machine.execAnd w k h c s
  | .or w k h c => Sys2Proof.Machine.execOr w k h c s
  | .xor w k h c => Sys2Proof.Machine.execXor w k h c s
  | .shl w k h c => Sys2Proof.Machine.execShl w k h c s
  | .shr w k h c => Sys2Proof.Machine.execShr w k h c s
  | .exp2 w k h c => Sys2Proof.Machine.execExp2 w k h c s
  | .log2 w k h c => Sys2Proof.Machine.execLog2 w k h c s
  | .rcp w k h c => Sys2Proof.Machine.execRcp w k h c s
  | .rsq w k h c => Sys2Proof.Machine.execRsq w k h c s
  | .rsum w k h c => Sys2Proof.Machine.execRsum w k h c s
  | .rmax w k h c => Sys2Proof.Machine.execRmax w k h c s
  | .mem w k h m => Sys2Proof.Machine.execMem w k h m s
  | .agset w k h ag part payload => Sys2Proof.Machine.execAgset w k h ag part payload s
  -- fabric control
  | .cisternEccWriteback w k => Sys2Proof.Machine.execCisternEccWriteback w k s
  | .wellSwitch w => Sys2Proof.Machine.execWellSwitch w s
  | .sfStart w ctx => Sys2Proof.Machine.execSfStart w ctx s
  | .sfStop w ctx start => Sys2Proof.Machine.execSfStop w ctx start s
  | .smwWrite w a v => Sys2Proof.Machine.execSmwWrite w a v s
  | .sfCommitGo w ctx => Sys2Proof.Machine.execSfCommitGo w ctx s
  | .commitComplete w => Sys2Proof.Machine.execCommitComplete w s
  | .sfCommitUnload w ctx => Sys2Proof.Machine.execSfCommitUnload w ctx s
  | .unloadComplete w => Sys2Proof.Machine.execUnloadComplete w s
  | .sfCaptureArm w a onStall => Sys2Proof.Machine.execSfCaptureArm w a onStall s
  | .sfCaptureNow w => Sys2Proof.Machine.execSfCaptureNow w s
  | .captureTaken w => Sys2Proof.Machine.execCaptureTaken w s
  -- stage queues
  | .sqEnable w e cfg => Sys2Proof.Machine.execSqEnable w e cfg s
  | .sqSemWrite w e v => Sys2Proof.Machine.execSqSemWrite w e v s
  | .spillWrite w e => Sys2Proof.Machine.execSpillWrite w e s
  | .refillRead w e => Sys2Proof.Machine.execRefillRead w e s
  | .refillLanded w e => Sys2Proof.Machine.execRefillLanded w e s
  | .freezeWatchExpiry w => Sys2Proof.Machine.execFreezeWatchExpiry w s
  | .waitWatchExpiry w => Sys2Proof.Machine.execWaitWatchExpiry w s
  -- pumps
  | .pmpArm p c => Sys2Proof.Machine.execPmpArm p c s
  | .pmpCancel p c => Sys2Proof.Machine.execPmpCancel p c s
  | .pmpFlush p c => Sys2Proof.Machine.execPmpFlush p c s
  | .descriptorCheck p c host hostErr => Sys2Proof.Machine.execDescriptorCheck p c host hostErr s
  | .pumpReadIssue p => Sys2Proof.Machine.execPumpReadIssue p s
  | .pumpWriteIssue p => Sys2Proof.Machine.execPumpWriteIssue p s
  | .readBucketReturn p c => Sys2Proof.Machine.execReadBucketReturn p c s
  | .writeBucketComplete p c k => Sys2Proof.Machine.execWriteBucketComplete p c k s
  | .cancelComplete p c => Sys2Proof.Machine.execCancelComplete p c s
  | .tteSample p c => Sys2Proof.Machine.execTteSample p c s
  -- pipelines
  | .barrierComplete p b => Sys2Proof.Machine.execBarrierComplete p b s
  | .segmentContextLoad p seg => Sys2Proof.Machine.execSegmentContextLoad p seg s
  -- host transactions
  | .regrd path off wide => Sys2Proof.Machine.execRegrd path off wide s
  | .regwr path off wide v => Sys2Proof.Machine.execRegwr path off wide v s
  | .memrd path addr len => Sys2Proof.Machine.execMemrd path addr len s
  | .memwr path addr data => Sys2Proof.Machine.execMemwr path addr data s
  | .dbell path ring tail => Sys2Proof.Machine.execDbell path ring tail s
  | .hrdCompletion id data err => Sys2Proof.Machine.execHrdCompletion id data err s
  | .hwrCompletion id err => Sys2Proof.Machine.execHwrCompletion id err s
  | .ucieModuleDown m => Sys2Proof.Machine.execUcieModuleDown m s
  | .ucieModuleTrained m rate => Sys2Proof.Machine.execUcieModuleTrained m rate s
  | .hostAccessTimeout id => Sys2Proof.Machine.execHostAccessTimeout id s
  -- mailbox
  | .mailboxDoorbell ch => Sys2Proof.Machine.execMailboxDoorbell ch s
  | .mailboxResponse => Sys2Proof.Machine.execMailboxResponse s
  | .mbRstatRead ch => Sys2Proof.Machine.execMbRstatRead ch s
  | .load base p0 reversed task => Sys2Proof.Machine.execLoad base p0 reversed task s
  | .unload p => Sys2Proof.Machine.execUnload p s
  | .reload p => Sys2Proof.Machine.execReload p s
  | .setMode mode => Sys2Proof.Machine.execSetMode mode s
  | .setCap watts => Sys2Proof.Machine.execSetCap watts s
  | .setLattol us => Sys2Proof.Machine.execSetLattol us s
  | .telemetry selector => Sys2Proof.Machine.execTelemetry selector s
  | .logRead n => Sys2Proof.Machine.execLogRead n s
  | .membershipJoin id topo => Sys2Proof.Machine.execMembershipJoin id topo s
  | .membershipLeave => Sys2Proof.Machine.execMembershipLeave s
  -- data ports
  | .dpDataWrite path n data => Sys2Proof.Machine.execDpDataWrite path n data s
  | .dpDataRead path n len => Sys2Proof.Machine.execDpDataRead path n len s
  | .dpAddrWrite path n addr => Sys2Proof.Machine.execDpAddrWrite path n addr s
  | .dpLockWrite path n owner => Sys2Proof.Machine.execDpLockWrite path n owner s
  | .dpLockRelease path n owner => Sys2Proof.Machine.execDpLockRelease path n owner s
  -- dispatch controller
  | .dcRingTailWrite n v => Sys2Proof.Machine.execDcRingTailWrite n v s
  | .dcCringHeadWrite n v => Sys2Proof.Machine.execDcCringHeadWrite n v s
  | .intakeDescriptorFetch host hostErr => Sys2Proof.Machine.execIntakeDescriptorFetch host hostErr s
  | .taskAdmit p => Sys2Proof.Machine.execTaskAdmit p s
  | .markerReport p c wd => Sys2Proof.Machine.execMarkerReport p c wd s
  | .completionRecordWrite n => Sys2Proof.Machine.execCompletionRecordWrite n s
  | .completionRecordWritten n => Sys2Proof.Machine.execCompletionRecordWritten n s
  | .coalesceTimeout n => Sys2Proof.Machine.execCoalesceTimeout n s
  | .hiIntMaskWrite v => Sys2Proof.Machine.execHiIntMaskWrite v s
  | .sourceMap x v => Sys2Proof.Machine.execSourceMap x v s
  | .sourceUpdate x v => Sys2Proof.Machine.execSourceUpdate x v s
  | .sourceDrain x => Sys2Proof.Machine.execSourceDrain x s
  | .sourceFreed x => Sys2Proof.Machine.execSourceFreed x s
  | .ringEnable n cfg => Sys2Proof.Machine.execRingEnable n cfg s
  | .ringDisable n cfg => Sys2Proof.Machine.execRingDisable n cfg s
  | .admitControl p admitting throughput => Sys2Proof.Machine.execAdmitControl p admitting throughput s
  | .frameIntake u => Sys2Proof.Machine.execFrameIntake u s
  -- DRAM
  | .ceWriteback n => Sys2Proof.Machine.execCeWriteback n s
  | .patrolScrubRead n => Sys2Proof.Machine.execPatrolScrubRead n s
  | .refresh n ch bank hot => Sys2Proof.Machine.execRefresh n ch bank hot s
  -- chip links
  | .linkEnable n v => Sys2Proof.Machine.execLinkEnable n v s
  | .linkTrained n lanes => Sys2Proof.Machine.execLinkTrained n lanes s
  | .linkTrainRetry n => Sys2Proof.Machine.execLinkTrainRetry n s
  | .flitReceive n f => Sys2Proof.Machine.execFlitReceive n f s
  | .nakReceive n seq => Sys2Proof.Machine.execNakReceive n seq s
  | .linkAckTimeout n => Sys2Proof.Machine.execLinkAckTimeout n s
  | .linkLockLoss n => Sys2Proof.Machine.execLinkLockLoss n s
  | .packetForward n pk => Sys2Proof.Machine.execPacketForward n pk s
  | .membHello n h => Sys2Proof.Machine.execMembHello n h s
  | .membUpdate n u => Sys2Proof.Machine.execMembUpdate n u s
  | .joinAck => Sys2Proof.Machine.execJoinAck s
  | .leaveComplete => Sys2Proof.Machine.execLeaveComplete s
  | .peerLoss id => Sys2Proof.Machine.execPeerLoss id s
  | .streamPacketArrival pk => Sys2Proof.Machine.execStreamPacketArrival pk s
  | .creditRequest pk => Sys2Proof.Machine.execCreditRequest pk s
  | .creditReply pk => Sys2Proof.Machine.execCreditReply pk s
  | .complArrival pk => Sys2Proof.Machine.execComplArrival pk s
  | .pwrArrival pk => Sys2Proof.Machine.execPwrArrival pk s
  | .prdArrival pk => Sys2Proof.Machine.execPrdArrival pk s
  | .sterrArrival pk => Sys2Proof.Machine.execSterrArrival pk s
  | .e2eTimeout p c => Sys2Proof.Machine.execE2eTimeout p c s
  | .linkScaleWindowEnd n p c => Sys2Proof.Machine.execLinkScaleWindowEnd n p c s
  -- device time
  | .tbrefLoss => Sys2Proof.Machine.execTbrefLoss s
  | .tbrefReturn => Sys2Proof.Machine.execTbrefReturn s
  | .ppsEdge offset => Sys2Proof.Machine.execPpsEdge offset s
  | .ppsHoldover => Sys2Proof.Machine.execPpsHoldover s
  | .timeExchange => Sys2Proof.Machine.execTimeExchange s
  | .timePacketArrival n pk => Sys2Proof.Machine.execTimePacketArrival n pk s
  | .tbSet v => Sys2Proof.Machine.execTbSet v s
  | .tbTrimWrite v => Sys2Proof.Machine.execTbTrimWrite v s
  | .tbDtRead path half => Sys2Proof.Machine.execTbDtRead path half s
  | .tsyncEdge => Sys2Proof.Machine.execTsyncEdge s
  | .triggerArm k v => Sys2Proof.Machine.execTriggerArm k v s
  | .triggerEdge k => Sys2Proof.Machine.execTriggerEdge k s
  -- service cores and the management processor
  | .csqWait c n try_ rd rs1 rs2 => Sys2Proof.Machine.execCsqWait c n try_ rd rs1 rs2 s
  | .csqSig c n rs1 rs2 => Sys2Proof.Machine.execCsqSig c n rs1 rs2 s
  | .csqPeek c n rd rs1 => Sys2Proof.Machine.execCsqPeek c n rd rs1 s
  | .csqPush c n try_ rd rs1 vs2 => Sys2Proof.Machine.execCsqPush c n try_ rd rs1 vs2 s
  | .csqPop c n try_ vd rs1 => Sys2Proof.Machine.execCsqPop c n try_ vd rs1 s
  | .csqBar c n rs1 => Sys2Proof.Machine.execCsqBar c n rs1 s
  | .scRun c n => Sys2Proof.Machine.execScRun c n s
  | .scHalt c n => Sys2Proof.Machine.execScHalt c n s
  | .scAccess c n rd a => Sys2Proof.Machine.execScAccess c n rd a s
  | .mpWatchdogExpiry => Sys2Proof.Machine.execMpWatchdogExpiry s
  | .telemetrySample => Sys2Proof.Machine.execTelemetrySample s
  | .mpBusyMeasure busy => Sys2Proof.Machine.execMpBusyMeasure busy s
  -- the Rim
  | .rimCellCycle c pins hard => Sys2Proof.Machine.execRimCellCycle c pins hard s
  | .rimWindowWrite off v => Sys2Proof.Machine.execRimWindowWrite off v s
  | .rimCommitGo slot => Sys2Proof.Machine.execRimCommitGo slot s
  | .rimCommitComplete => Sys2Proof.Machine.execRimCommitComplete s
  | .rimCommitUnload slot => Sys2Proof.Machine.execRimCommitUnload slot s
  | .rimSelect slot => Sys2Proof.Machine.execRimSelect slot s
  | .rimDeselect => Sys2Proof.Machine.execRimDeselect s
  | .rimCaptureArm v => Sys2Proof.Machine.execRimCaptureArm v s
  | .rimCaptureNow => Sys2Proof.Machine.execRimCaptureNow s
  | .rimCaptureTaken => Sys2Proof.Machine.execRimCaptureTaken s
  | .rimStampEdge k => Sys2Proof.Machine.execRimStampEdge k s
  | .rimStampRead k => Sys2Proof.Machine.execRimStampRead k s
  | .rimIrqEdge => Sys2Proof.Machine.execRimIrqEdge s
  -- power, thermal and wake control
  | .modeRequest mode => Sys2Proof.Machine.execModeRequest mode s
  | .frequencyStep => Sys2Proof.Machine.execFrequencyStep s
  | .regulatorSettled => Sys2Proof.Machine.execRegulatorSettled s
  | .droopTrip w d => Sys2Proof.Machine.execDroopTrip w d s
  | .droopClear w => Sys2Proof.Machine.execDroopClear w s
  | .droopMarginWindow w => Sys2Proof.Machine.execDroopMarginWindow w s
  | .sensorSample r => Sys2Proof.Machine.execSensorSample r s
  | .powerMeasure mv ma => Sys2Proof.Machine.execPowerMeasure mv ma s
  | .thermalUpdate => Sys2Proof.Machine.execThermalUpdate s
  | .limiterStep t => Sys2Proof.Machine.execLimiterStep t s
  | .operatingPointDecision => Sys2Proof.Machine.execOperatingPointDecision s
  | .capUnmetDetect => Sys2Proof.Machine.execCapUnmetDetect s
  | .thermalTrip sensor t => Sys2Proof.Machine.execThermalTrip sensor t s
  | .wakeEntry => Sys2Proof.Machine.execWakeEntry s
  | .wakeExit e => Sys2Proof.Machine.execWakeExit e s
  | .lattolWrite v => Sys2Proof.Machine.execLattolWrite v s
  -- faults, reset and start
  | .taskFaultReport task f => Sys2Proof.Machine.execTaskFaultReport task f s
  | .pipelineReset p f => Sys2Proof.Machine.execPipelineReset p f s
  | .pipelineReload p => Sys2Proof.Machine.execPipelineReload p s
  | .deviceFault f => Sys2Proof.Machine.execDeviceFault f s
  | .powerOnReset => Sys2Proof.Machine.execPowerOnReset s
  | .warmReset => Sys2Proof.Machine.execWarmReset s
  | .hiResetWarm key cold => Sys2Proof.Machine.execHiResetWarm key cold s
  | .hiResetMp key => Sys2Proof.Machine.execHiResetMp key s
  | .warmResetEffect confirmed => Sys2Proof.Machine.execWarmResetEffect confirmed s
  | .supplyOutOfRange => Sys2Proof.Machine.execSupplyOutOfRange s
  | .startPhase env => Sys2Proof.Machine.execStartPhase env s
  | .partitionTestDone part r => Sys2Proof.Machine.execPartitionTestDone part r s
  -- security
  | .attestGo => Sys2Proof.Machine.execAttestGo s
  | .attestDone => Sys2Proof.Machine.execAttestDone s
  | .rngRead => Sys2Proof.Machine.execRngRead s
  | .rngHealthFail => Sys2Proof.Machine.execRngHealthFail s
  | .otpProgram path => Sys2Proof.Machine.execOtpProgram path s
  | .debugChallenge => Sys2Proof.Machine.execDebugChallenge s
  | .debugSubmit level => Sys2Proof.Machine.execDebugSubmit level s
  | .debugClose => Sys2Proof.Machine.execDebugClose s
  | .keyEngineFault complement => Sys2Proof.Machine.execKeyEngineFault complement s
  -- performance monitoring
  | .pmuEnable en => Sys2Proof.Machine.execPmuEnable en s
  | .pmuClear => Sys2Proof.Machine.execPmuClear s
  | .counterOverflow n => Sys2Proof.Machine.execCounterOverflow n s
  | .bwWindowEnd => Sys2Proof.Machine.execBwWindowEnd s
  | .queueProbeSample k => Sys2Proof.Machine.execQueueProbeSample k s
  | .tagSelect => Sys2Proof.Machine.execTagSelect s
  | .tagRecordWrite => Sys2Proof.Machine.execTagRecordWrite s
  -- rows added at the end of the table
  | .resetRisingEdge pin => Sys2Proof.Machine.execResetRisingEdge pin s
  | .mpRestartComplete => Sys2Proof.Machine.execMpRestartComplete s
  | .sstCommitComplete powerGood => Sys2Proof.Machine.execSstCommitComplete powerGood s
  | .dataPortBucketComplete n => Sys2Proof.Machine.execDataPortBucketComplete n s
  | .hardSerialBlockTransfer b rx => Sys2Proof.Machine.execHardSerialBlockTransfer b rx s

end Sys2Proof.Machine
end

