-- ==== Sys2Proof/Machine/Step.lean ====
section
/-! DEFINITION. One step of the block: the command at the front of its queue takes effect, with the
queue's rest. On an empty queue one cycle of the 1 GHz count clock passes. -/

namespace Sys2Proof.Machine

/-- One step. DESIGN CHOICE: with no command waiting, the step is one tick of the count clock.
DESIGN CHOICE: log 3. DESIGN CHOICE: log 146. -/
def step (s : State) : Host.Outcome State Fault Refusal :=
  match s.pending with
  | [] => .next (idleTick s)
  | c :: r => exec c { s with pending := r }

/-- The state with the command that a word spells put at the front of its queue. DESIGN CHOICE: log 147. -/
def State.withFetchWord (s : State) (nbits w : Nat) : State :=
  match decodeTableWord nbits w with
  | some c => { s with pending := c :: s.pending }
  | none => s

end Sys2Proof.Machine
end

