-- ==== Sys2Proof/Safety.lean ====
section
/-! DEFINITION. The terms in which claims are stated: the parts of the state, what a command leaves as it
was, the invariant of memory, and which commands may store bytes. -/

namespace Sys2Proof.Machine

/-- The parts of the state, by name. -/
inductive Part where
  | pending | freeCtr | mem | ecc | regs | wells | strs | hi | dps | dc | fiq | mcs | lk | tb | harts
  | mp | rim | pwr | err | boot | sst | sec | pmu
  deriving DecidableEq, Repr

/-- A part is the same in two states; memory is compared byte by byte. -/
def Part.same (s t : State) : Part → Prop
  | .pending => t.pending = s.pending
  | .freeCtr => t.freeCtr = s.freeCtr
  | .mem => ∀ a, t.mem.byte a = s.mem.byte a
  | .ecc => t.ecc = s.ecc
  | .regs => t.regs = s.regs
  | .wells => t.wells = s.wells
  | .strs => t.strs = s.strs
  | .hi => t.hi = s.hi
  | .dps => t.dps = s.dps
  | .dc => t.dc = s.dc
  | .fiq => t.fiq = s.fiq
  | .mcs => t.mcs = s.mcs
  | .lk => t.lk = s.lk
  | .tb => t.tb = s.tb
  | .harts => t.harts = s.harts
  | .mp => t.mp = s.mp
  | .rim => t.rim = s.rim
  | .pwr => t.pwr = s.pwr
  | .err => t.err = s.err
  | .boot => t.boot = s.boot
  | .sst => t.sst = s.sst
  | .sec => t.sec = s.sec
  | .pmu => t.pmu = s.pmu

/-- Every part outside the list is as it was. -/
def Only (l : List Part) (s t : State) : Prop := ∀ p, l.contains p = false → p.same s t

/-- Every register outside the list of offsets reads as it did. -/
def OnlyRegs (l : List Nat) (s t : State) : Prop := ∀ off, l.contains off = false → t.rd off = s.rd off

/-- The parts an error-log entry may touch: the log and its registers, and the interrupt message (R492). -/
def logParts : List Part := [.err, .regs, .hi]

/-- Memory stands in its one canonical form. -/
def State.Inv (s : State) : Prop := s.mem.wf = true

/-- An outcome, if it is a next state, meets a condition. -/
def AnyNext (o : Out) (p : State → Prop) : Prop := ∀ t, o = .next t → p t

/-- A command completes in a state that meets a condition. -/
def Completes (c : Instr) (s : State) (p : State → Prop) : Prop := ∃ t, exec c s = .next t ∧ p t

/-- The slice and sequencer thread that a thread name stands for. -/
def State.slot (s : State) (th : Thread) : Slice := s.slc (thWell th) (thIx th)

/-- The slice of a thread becomes y; beside it only the instruction tagger may move (R548). -/
def SlotOnly (s : State) (th : Thread) (y : Slice) (t : State) : Prop :=
  t.wells = (s.setSlc (thWell th) (thIx th) y).wells ∧ Only [.wells, .pmu] s t

/-- A thread of a clocked well that takes instructions. -/
def State.takes (s : State) (th : Thread) : Prop := s.clocksRun = true ∧ s.threadRuns th = true

/-- No event has a wake state to end: the device is awake, and no shutdown pass runs (R475, R524). -/
def Awake (s : State) : Prop := wakeState s = 0 ∧ s.sst.shutdown = false

/-- A CU word that issues now: a running clocked well, a unit outside switch wait, a word in range that
executes, with its sources present and its outputs free (R171, R198, R205). -/
def CuReady (s : State) (w : WellIx) (k : Fin 48) (h : SwHead) (op : CuOp) (c : CuF) : Prop :=
  s.clocksRun = true ∧ s.running w.val = true ∧ SwOp.ok k.val h (.cu op c) = true
    ∧ ((s.well w.val).unit k.val).wait = none ∧ wordRuns ((s.well w.val).unit k.val) h = true
    ∧ cuBlocks s w.val k.val h.rep.toNat op c = none

/-- What one issue of a CU word leaves (R197, R203 to R205): its result last in the pipeline, used inputs
without their heads, the unit moved on under REP, and everything else of the state as it was but for the
statistics of the unit. -/
def CuIssued (s : State) (w : WellIx) (k : Fin 48) (h : SwHead) (op : CuOp) (c : CuF) (t : State) : Prop :=
  let x := s.well w.val
  let u := x.unit k.val
  let y := t.well w.val
  let v := y.unit k.val
  let line := fun (i : BitVec 6) => sourceLine u c i.toNat
  let sb := match srcInput c.srca.toNat with
    | some i => ((u.port i).headD Word.zero).sb
    | none => .zero
  let out := aluOp op c.fmt c.chn.toNat c.fn.toNat (line c.srca) (line c.srcb) (line c.srcc)
  v.results = u.results ++ [{
      due := op.latency c.fmt c.chn.toNat - 1
      dst := if c.dreg then some c.dst.toNat else none
      route := c.route, ch := c.ch, word := ⟨out.line, (blkSideband u c.blk sb x.ctx).1⟩ }]
    ∧ (∀ i, v.port i = if (removedInputs (usedSources op c)).contains i then (u.port i).tail else u.port i)
    ∧ v.regs = u.regs ∧ v.preds = u.preds ∧ v.wait = none
    ∧ (u.reps < h.rep.toNat → v.reps = u.reps + 1 ∧ v.pc = u.pc)
    ∧ (h.rep.toNat ≤ u.reps → v.reps = 0 ∧ v.pc = (stepPast u.loops u.pc 512 5).2)
    ∧ (∀ g, g ≠ k.val → y.unit g = x.unit g)
    ∧ y.slices = x.slices ∧ y.queues = x.queues ∧ y.flights = x.flights ∧ y.cross = x.cross
    ∧ y.run = x.run ∧ y.frozen = x.frozen ∧ y.ctx = x.ctx
    ∧ (∀ j, j ≠ w.val → t.well j = s.well j) ∧ Only [.wells] s t

/-- t holds the error-log entry that s has written next: its four words, and `ERR_HEAD` one further
(R492, R493). -/
def Logged (s t : State) (f : FaultInfo) (scope : Nat) (task pipe : Option Nat) : Prop :=
  let n := s.fld rErrHead 0 32
  let word := fun k => SMap.get (fun _ => (0 : W64)) t.err.log (4 * (n % 1024) + k)
  word 0 = entryDw0 f scope task pipe ∧ word 1 = BitVec.ofNat 64 s.dt
    ∧ word 2 = BitVec.ofNat 64 f.addr.toNat ∧ word 3 = f.detail
    ∧ t.fld rErrHead 0 32 = (n + 1) % 2 ^ 32

end Sys2Proof.Machine

namespace Sys2Proof

/-- The commands whose effect may store bytes to memory: a store of their own, words that enter or leave a
queue, or an event that ends a wake state. Every other command leaves every byte as it was. -/
def Instr.mayStore : Instr → Bool
  | .admitControl .. | .ceWriteback .. | .cisternEccWriteback .. | .completionRecordWrite .. | .csqPush .. |
    .dataPortBucketComplete .. | .dbell .. | .dcRingTailWrite .. | .dpAddrWrite .. | .dpDataRead .. |
    .dpDataWrite .. | .dpLockRelease .. | .dpLockWrite .. | .flitReceive .. | .lattolWrite .. |
    .mailboxDoorbell .. | .mailboxResponse | .memrd .. | .memwr .. | .partitionTestDone .. | .peerLoss .. |
    .pipelineReload .. | .pipelineReset .. | .powerOnReset | .ppsEdge .. | .pwrArrival .. | .refillLanded .. |
    .regrd .. | .registerWrite .. | .regwr .. | .reload .. | .rimIrqEdge | .scAccess .. | .setLattol .. |
    .sfStart .. | .sfStop .. | .sidePortWrite .. | .spillWrite .. | .startPhase .. | .sterrArrival .. |
    .streamPacketArrival .. | .stroke .. | .supplyOutOfRange | .tagRecordWrite | .taskAdmit .. | .unload .. |
    .wakeExit .. | .warmResetEffect .. | .writeBucketComplete .. | .wsEccWriteback .. => true
  | _ => false

/-- The commands that may store bytes only by ending a wake state (R475, R524). -/
def Instr.wakesOnly : Instr → Bool
  | .dcRingTailWrite .. | .flitReceive .. | .lattolWrite .. | .mailboxDoorbell .. | .ppsEdge .. | .rimIrqEdge |
    .setLattol .. | .wakeExit .. => true
  | _ => false

end Sys2Proof
end

