-- ==== Sys2Proof/Certificates/Slice0/Obligations.lean ====
section
/-! DEFINITION. What the provers are asked: one statement per definition. Each command of the block has a
clause that says in which state it completes, under conditions on the state and the operands alone, and what
that state holds; the frame is said by naming the parts that may differ. -/

open Sys2Proof Sys2Proof.Machine

/-- For every command c and every state s, the step of s with c at the front of its queue is exec of c on s
with the rest of the queue. (block model of this row: queue of commands) -/
def Obligations.EveryStepRunsTheFrontCommand : Prop :=
  ∀ (c : Instr) (s : State), step { s with pending := c :: s.pending } = exec c s

/-- With an empty queue a step answers a next state in which the queue is still empty and only the time
base, the Rim oscillators, the idle time of the power manager and registers may differ; the model makes
that step a tick by its own choice (notes/assumptions/2.md). (chapter 19, device time) -/
def Obligations.EmptyQueueCountsOneTick : Prop :=
  ∀ (s : State), s.pending = [] → ∃ t, step s = .next t ∧ t = idleTick s ∧ t.pending = []
    ∧ Only [.tb, .rim, .pwr, .regs] s t

/-- On a thread that takes instructions: NOP moves past itself; HALT, once every engine of the slice is
free, leaves the thread halted with its code; LOOP opens level LVL over PC+1 to END with COUNT
iterations; JMP goes to its target and ends the loops it leaves; BRC branches when its condition differs
from NEG, conditions 1 and 2 given a pending marker. Nothing else changes but the instruction tagger.
(R125, R133, R134, R135, R136) -/
def Obligations.ThreadControlFlowCompletes : Prop :=
  ∀ (s : State) (th : Thread), s.takes th →
    let y := s.slot th
    Completes (.msqNop th) s (SlotOnly s th y.past)
    ∧ (∀ code, y.enginesFree = true →
        Completes (.halt th code) s (SlotOnly s th (y.stand .halted code.toNat)))
    ∧ (∀ lvl count1 last, Completes (.msqLoop th lvl count1 last) s (SlotOnly s th
        { y.past with
          pc := (y.pc + 1) % 256
          loops := y.loops.set lvl.toNat ⟨true, (y.pc + 1) % 256, last.toNat, count1.toNat + 1⟩ }))
    ∧ (∀ target, Completes (.msqJmp th target) s (SlotOnly s th
        { y.past with pc := target.toNat, loops := leaveLoops y.loops target.toNat }))
    ∧ (∀ cond neg lvl target, cond.toNat ≤ 5 → ((cond = 1 ∨ cond = 2) → y.markers ≠ []) →
        Completes (.brc th cond neg lvl target) s (SlotOnly s th
          (if brcHolds y cond.toNat lvl.toNat != neg then y.goto target.toNat else y.past)))

/-- A thread moves past its instruction to the next one where no active loop ends; at the END of the
innermost active loop with more than one iteration left it goes back to the first instruction of the
body with one iteration less; with one iteration left and no other loop ending there it leaves the loop
and goes on. (R133, R127) -/
def Obligations.MoveToTheNextMsqInstruction : Prop :=
  ∀ (y : Slice),
    (loopAt y.loops y.pc = none → y.past.pc = (y.pc + 1) % 256 ∧ y.past.loops = y.loops)
    ∧ (∀ i l, loopAt y.loops y.pc = some i → y.loops[i]? = some l → 1 < l.left →
        y.past.pc = l.first ∧ y.past.loops = y.loops.set i { l with left := l.left - 1 })
    ∧ (∀ i l, loopAt y.loops y.pc = some i → y.loops[i]? = some l → l.left ≤ 1 →
        loopAt (y.loops.set i { l with active := false }) y.pc = none →
        y.past.pc = (y.pc + 1) % 256 ∧ y.past.loops = y.loops.set i { l with active := false })

/-- With the engines free, an in-range WLD, WDYN or storing WRELAY starts its bank operation at the first
line, and an in-range MMA or MMAZ starts its run at chunk 0 and position 0 in the bank that BANK
selects, once the bank may be written; a WRELAY PASS opens relay pass. The thread moves past the
instruction; nothing else changes but the tagger. (R116, R118, R120, R128, R138, R139, R140, R141, R152) -/
def Obligations.BankOperationsBegin : Prop :=
  ∀ (s : State) (th : Thread), s.takes th →
    let y := s.slot th
    (∀ f, f.ok = true → y.bankOp = none → y.sideOp = none →
      Completes (.wld th f) s (SlotOnly s th
        { y.past with bankOp := some (.wld f 0), wsDyn := if f.nst then y.wsDyn else false }))
    ∧ (∀ f, f.ok = true → y.bankOp = none → y.sideOp = none →
      Completes (.wdyn th f) s (SlotOnly s th { y.past with bankOp := some (.wdyn f 0), wsDyn := true }))
    ∧ (∀ f, f.ok = true → f.mode ≠ 1 → y.bankOp = none →
      Completes (.wrelay th f) s (SlotOnly s th
        { y.past with bankOp := some (.relay f 0), relayPass := false }))
    ∧ (∀ f, f.ok = true → f.mode = 1 →
      Completes (.wrelay th f) s (SlotOnly s th { y.past with relayPass := true }))
    ∧ (∀ f, f.ok = true →
      let b := bankSel y f.bank.toNat
      y.bankOp = none → drainEndOf y b ≤ (s.well (thWell th)).tick + 11 →
      y.lineTick ≤ (s.well (thWell th)).tick →
      Completes (.mma th f) s (SlotOnly s th { (bankTurn y f.bank.toNat).past with
          bankOp := some (.mma f b false 0 0 0), dataCh := f.ch.toNat, limCeil := y.duty })
      ∧ Completes (.mmaz th f) s (SlotOnly s th { (bankTurn y f.bank.toNat).past with
          bankOp := some (.mma f b true 0 0 0), dataCh := f.ch.toNat, limCeil := y.duty }))

/-- With the side engine free and every word of earlier drains gone from the slice, SCL and ZPC start their
transfer, SCL ending streamed scales; SCLS turns streamed scales on for its kind and channel; STAT
writes the statistics control; TAG sets the tag length to its field plus one; PTOK sets the duty
ceiling, but for a value above the declared one. The thread moves past the instruction; nothing else
changes but the tagger. (R77, R80, R84, R90, R144, R145, R152, R329) -/
def Obligations.ScaleAndTagInstructionsComplete : Prop :=
  ∀ (s : State) (th : Thread), s.takes th →
    let y := s.slot th
    let now := (s.well (thWell th)).tick
    (∀ f, f.ok = true → y.sideOp = none → drained y now = true → y.wholeIn = false →
      Completes (.scl th f) s (SlotOnly s th { y.past with
        sideOp := some (.scl f 0), streamed := false, mx := false, scaleBuf := [], scaleHalf := false }))
    ∧ (∀ f, f.ok = true → y.sideOp = none → drained y now = true → y.wholeIn = false →
      Completes (.zpc th f) s (SlotOnly s th { y.past with sideOp := some (.zpc f 0) }))
    ∧ (∀ kind ch, y.sideOp = none → Completes (.scls th kind ch) s (SlotOnly s th { y.past with
        streamed := true, mx := kind, sideCh := ch.toNat, scaleBuf := [], scaleHalf := false
        mxPos := 0, mxCodes := [] }))
    ∧ (∀ pt unit len, y.outQ = [] → Completes (.stat th pt unit len) s (SlotOnly s th { y.past with
        stat := y.stat.write (BitVec.ofNat 32 (b2n pt <<< 31 + b2n unit <<< 30 + len.toNat)) }))
    ∧ (∀ l1, 3 ≤ l1.toNat → Completes (.tag th l1) s (SlotOnly s th { y.past with tagL := l1.toNat + 1 }))
    ∧ (∀ duty, duty.toNat ≤ 64 → Completes (.ptok th duty) s (SlotOnly s th
        { y.past with duty := if duty.toNat ≤ y.declared then duty.toNat else y.duty }))

/-- An in-range DRAIN whose bank is not being updated and whose predecessor leaves in time, with its scale
block present and carrying the tag of the data where scales are streamed per channel, appends the words
it computes from the accumulators to the output queue (a marker-only DRAIN its marker alone), takes its
scale block, sets the stroke of its last word as the end of the latest drain, and moves past itself.
Only the slice and the tagger change. (R80, R83, R85, R110, R142, R143) -/
def Obligations.DrainPutsItsWordsInTheOutputQueue : Prop :=
  ∀ (s : State) (th : Thread) (f : DrainF), s.takes th → f.ok = true →
    let y := s.slot th
    let b := bankSel y f.bank.toNat
    let now := (s.well (thWell th)).tick
    let n := (f.n1.toNat + 16) / 16
    let streamed := y.streamed && !y.mx && !y.discard && !f.monly
    let block := if streamed then y.scaleBuf.take n else []
    runsInto y b = false → updOf y b ≤ now →
    (y.outQ = [] ∨ y.drainEnd ≤ now + (if f.monly then 0 else 5)) →
    (streamed = true → scaleMatches { y with dataTag := if b = 0 then y.tagA else y.tagB } n = true) →
    Completes (.drain th f) s fun t =>
      (t.slot th).outQ = y.outQ ++ drainWords y (thWell th) (thIx th) now f block b
      ∧ (t.slot th).drainEnd
          = (drainWords y (thWell th) (thIx th) now f block b).foldl (fun m o => Nat.max m o.tick) 0
      ∧ (t.slot th).scaleBuf = (if streamed then y.scaleBuf.drop n else y.scaleBuf)
      ∧ (t.slot th).pc = (bankTurn y f.bank.toNat).past.pc
      ∧ (t.slot th).acc = y.acc
      ∧ t.wells = (s.setSlc (thWell th) (thIx th) (t.slot th)).wells ∧ Only [.wells, .pmu] s t

/-- With at least N at the semaphore, QWAIT moves on and changes no count; SEMWAIT on an entry of size zero
whose count suffices subtracts N from it and moves on; SEMSIG on an enabled entry of size zero of its
own well adds N, saturating, and moves on, and of another running well hands the signal to the semaphore
port of that well. In each case every other queue entry of every well keeps its counts and no byte of
memory changes. (R30, R146, R226) -/
def Obligations.SemaphoreInstructionsComplete : Prop :=
  ∀ (s : State) (th : Thread) (f : SemF), s.takes th → f.ok = true →
    let y := s.slot th
    let v := f.well.toNat
    let e := f.sq.toNat
    (f.n.toNat ≤ semOf s f → Completes (.qwait th f) s (SlotOnly s th y.past))
    ∧ (f.n.toNat ≤ semOf s f → (s.sq v e).isSem = true →
        Completes (.semwait th f) s fun t =>
          (t.sq v e).free = (if f.sel then (s.sq v e).free - f.n.toNat else (s.sq v e).free)
          ∧ (t.sq v e).filled = (if f.sel then (s.sq v e).filled else (s.sq v e).filled - f.n.toNat)
          ∧ (t.slot th).pc = y.past.pc
          ∧ (∀ v' e', (v', e') ≠ (v, e) → t.sq v' e' = s.sq v' e')
          ∧ Only [.wells, .pmu, .regs, .hi] s t)
    ∧ (v = thWell th → (s.sq v e).enabled = true → (s.sq v e).isSem = true →
        Completes (.semsig th f) s fun t =>
          (t.sq v e).semCount f.sel = Nat.min 0xFFFF ((s.sq v e).semCount f.sel + f.n.toNat)
          ∧ (t.sq v e).semCount (!f.sel) = (s.sq v e).semCount (!f.sel)
          ∧ (t.slot th).pc = y.past.pc
          ∧ (∀ v' e', (v', e') ≠ (v, e) → t.sq v' e' = s.sq v' e')
          ∧ Only [.wells, .pmu, .regs, .hi] s t)
    ∧ (v ≠ thWell th → (s.well v).run = .running → s.wellClock v = true →
        Completes (.semsig th f) s fun t =>
          (t.well v).semNext = (s.well v).semNext ++ [(e, f.sel, f.n.toNat)]
          ∧ t.slot th = y.past ∧ (∀ v' e', t.sq v' e' = s.sq v' e') ∧ Only [.wells, .pmu] s t)

/-- FENCE with every engine free and every update, line and word done, DRAINALL with the marker FIFO and the
masked channels empty besides, and BAR once its barrier has released the thread, move past themselves; a
BAR met for the first time leaves the thread standing in it, arrived, and freezes the well. CTXSW to a
committed context whose condition holds marks the thread as switching to that context. Nothing else
changes but the tagger. (R127, R147, R148, R149, R150) -/
def Obligations.WaitingInstructionsComplete : Prop :=
  ∀ (s : State) (th : Thread), s.takes th →
    let y := s.slot th
    let now := (s.well (thWell th)).tick
    (fenceMet y now = true → Completes (.fence th) s (SlotOnly s th y.past))
    ∧ (∀ mask, waitMet y now (.drainall mask) = true →
        Completes (.drainall th mask) s (SlotOnly s th y.past))
    ∧ (∀ bid, y.arrived = true → y.counted = true → y.released = true →
        Completes (.bar th bid) s (SlotOnly s th y.past))
    ∧ (∀ bid, y.arrived = false → y.released = false → exec (.bar th bid) s = .next (freezeWell (s.setSlc (thWell th) (thIx th)
          { barIssue y bid.toNat with st := .freezing, wait := .bar }) (thWell th) 3))
    ∧ (∀ ctx force mask, (s.well (thWell th)).ctxState ctx.toNat = .committed →
        waitMet y now (.ctxsw ctx force mask) = true →
        Completes (.ctxsw th ctx force mask) s (SlotOnly s th
          { y with switching := true, wait := .thread, waited := 0, barId := ctx.toNat }))

/-- TRAP on a thread of pipeline p whose engines are free leaves the thread halted with its code, writes the
entry with status ABORTED, class 2, the slice and the code, of pipeline scope, and makes a reset of p
due; no memory, stream, link or other unit changes. THREAD_WAIT_END on a thread in a wait for FENCE or
DRAINALL whose condition holds moves it past the instruction, and for CTXSW to a committed context makes
it switch there; THREAD_CONTEXT_SWITCH on a thread that is switching puts it at instruction 0 of the
context it goes to, with no loop open and relay pass on; RELAY_LINE_ARRIVAL puts the line sent longest
ago, once it has come the whole way and there is room, into the FIFO of the slice; WS_ECC_WRITEBACK with
the bank neither read nor written takes the oldest line from the write-back list and, where the stored
line corrects, stores the corrected line with valid check bits. (R108, R119, R127, R136, R148, R149,
R150, R480, R492, R493) -/
def Obligations.TrapsAndThreadEventsComplete : Prop :=
  (∀ (s : State) (th : Thread) (code : BitVec 16) (p : Nat), s.takes th → (s.slot th).enginesFree = true →
    s.pipeOf (thWell th) = some p → s.err.resetting.contains p = false →
    Completes (.trap th code) s fun t =>
      t.slot th = (s.slot th).stand .halted code.toNat
      ∧ Logged s t (mkFault stAborted 2 (sliceNo (thWell th) (thIx th)) 0 code.toNat) 2 none (some p)
      ∧ (SMap.get (fun _ => none) t.err.pending p).isSome = true
      ∧ t.wells = (s.setSlc (thWell th) (thIx th) (t.slot th)).wells
      ∧ Only (.wells :: .pmu :: logParts) s t)
  ∧ ∀ (s : State) (th : Thread), s.clocksRun = true →
    let w := thWell th
    let y := s.slot th
    (s.threadRuns th = true → y.st = .threadWait →
        (∀ op, thInstr y = some op → (op = .fence ∨ ∃ mask, op = .drainall mask) →
          waitMet y (s.well w).tick op = true →
          exec (.threadWaitEnd th) s = .next (s.setSlc w (thIx th) y.past))
        ∧ (∀ ctx force mask, thInstr y = some (.ctxsw ctx force mask) →
          (s.well w).ctxState ctx.toNat = .committed → waitMet y (s.well w).tick (.ctxsw ctx force mask) = true →
          exec (.threadWaitEnd th) s = .next (s.setSlc w (thIx th)
            { y with switching := true, wait := .thread, waited := 0, barId := ctx.toNat })))
    ∧ (s.running w = true → y.active = true → y.switching = true →
        Completes (.threadContextSwitch th) s fun t =>
          (t.slot th).pc = 0 ∧ (t.slot th).ctx = y.barId ∧ (t.slot th).loops = noLoops
          ∧ (t.slot th).relayPass = true ∧ (t.slot th).markers = y.markers ∧ (t.slot th).switching = false
          ∧ t.wells = (s.setSlc w (thIx th) (t.slot th)).wells ∧ Only [.wells] s t)
    ∧ (∀ l r, s.hasWell w = true → y.relayIn = (0, l) :: r → y.relayFifo.length < 8 →
        exec (.relayLineArrival th) s = .next (s.setSlc w (thIx th)
          { y with relayIn := r, relayFifo := y.relayFifo ++ [l] }))
    ∧ (s.hasWell w = true → y.bankOp = none → y.lineTick < (s.well w).tick →
        Completes (.wsEccWriteback th) s fun t =>
          (∀ q r, y.wb = q :: r → q ∉ (t.slot th).wb
            ∧ ∀ l, decodeLine (s.mem.line (weightAddr w (thIx th) (q / 64) (64 * (q % 64))))
                (s.delta (weightAddr w (thIx th) (q / 64) (64 * (q % 64)))) = .corrected l →
              t.mem.line (weightAddr w (thIx th) (q / 64) (64 * (q % 64))) = l
              ∧ t.delta (weightAddr w (thIx th) (q / 64) (64 * (q % 64))) = 0)
          ∧ Only [.wells, .mem, .ecc, .regs, .hi, .err] s t)

/-- MSQ_START with a committed context on a thread that does not run starts it at instruction 0 of that
context with no loop and no marker; MSQ_STOP leaves it halted with code 0xFFFF and every engine idle,
keeping accumulators, scales and row sums; ME_SCALE_WRITE writes one scale register of a thread that is
halted or not started; STAT_CTRL_WRITE writes the statistics control of a CU, a link, or a slice whose
thread is halted or not started; STAT_WINDOW_END ends a window that is due, which copies maxima and
counts, counts the window and clears the live values. (R78, R90, R92, R93, R153, R154) -/
def Obligations.ThreadRegistersComplete : Prop :=
  ∀ (s : State) (th : Thread), s.clocksRun = true → s.hasSlice th = true →
    let y := s.slot th
    (∀ ctx swflag, y.active = false → (s.well (thWell th)).run ≠ .failed →
        (s.well (thWell th)).ctxState ctx.toNat = .committed →
        Completes (.msqStart th ctx swflag) s fun t =>
          (t.slot th).pc = 0 ∧ (t.slot th).ctx = ctx.toNat ∧ (t.slot th).loops = noLoops
          ∧ (t.slot th).markers = [] ∧ (t.slot th).st = .issuing ∧ (t.slot th).swflag = swflag
          ∧ (t.slot th).acc = y.acc ∧ t.wells = (s.setSlc (thWell th) (thIx th) (t.slot th)).wells
          ∧ Only [.wells] s t)
    ∧ (∀ ctx swflag start, Completes (.msqStop th ctx swflag start) s fun t =>
          (t.slot th).st = .halted ∧ (t.slot th).code = 0xFFFF ∧ (t.slot th).bankOp = none
          ∧ (t.slot th).sideOp = none ∧ (t.slot th).outQ = [] ∧ (t.slot th).acc = y.acc
          ∧ (t.slot th).scale = y.scale ∧ (t.slot th).rowsum = y.rowsum
          ∧ t.wells = (s.setSlc (thWell th) (thIx th) (t.slot th)).wells ∧ Only [.wells] s t)
    ∧ (∀ n v, (y.st = .halted ∨ y.st = .notStarted) →
        exec (.meScaleWrite th n v) s = .next (s.setSlc (thWell th) (thIx th) (y.setScale n.val v)))
    ∧ (∀ v, (y.st = .halted ∨ y.st = .notStarted) →
        exec (.statCtrlWrite (.slice th) v) s = .next (s.setSlc (thWell th) (thIx th)
          { y with stat := y.stat.write v }))
    ∧ (y.stat.due = true →
        exec (.statWindowEnd (.slice th)) s = .next (s.setSlc (thWell th) (thIx th)
          { y with stat := y.stat.windowEnd }))
    ∧ (∀ (w : WellIx) (k : Fin 48), s.hasWell w.val = true →
        let b := (s.well w.val).cuStats k.val
        (∀ v, exec (.statCtrlWrite (.cu w k) v) s
          = .next (s.setWell w.val ((s.well w.val).setCuStats k.val (b.write v))))
        ∧ (b.due = true → exec (.statWindowEnd (.cu w k)) s
          = .next (s.setWell w.val ((s.well w.val).setCuStats k.val b.windowEnd))))
    ∧ (∀ n : Fin 6, s.hasLink n.val = true →
        let p := s.port n.val
        (∀ v, exec (.statCtrlWrite (.link n) v) s = .next (s.setPort n.val
          { p with stat := p.stat.write (v ||| 0x80000000), escLive := 0, blocks := 0
                   statSel := (v &&& 0x1F3F0000).toNat }))
        ∧ (p.stat.due = true → exec (.statWindowEnd (.link n)) s = .next (s.setPort n.val
          { p with stat := p.stat.windowEnd, escSnap := p.escLive, escLive := 0 })))
    ∧ (∀ (b : StatBlk),
        b.windowEnd.maxSnap = b.liveMax ∧ b.windowEnd.satSnap = b.satCount
        ∧ b.windowEnd.nanSnap = Nat.min b.liveNan 0xFFFF ∧ b.windowEnd.seq = (b.seq + 1) % 65536
        ∧ b.windowEnd.liveMax = [] ∧ b.windowEnd.liveNan = 0 ∧ b.windowEnd.satCount = 0)

/-- In a running well, on a unit outside switch wait whose word executes: NOP makes one issue, REP+1 of them
before the unit moves past it; LOOP opens its level over the words after it; JMP goes to its target and
ends the loops it leaves; PSET writes its condition XOR NEG into one predicate and moves on, the test of
a walk end clearing the flag it tests; TAGSET sets the block-tag counter; SWITCH on a settled unit and a
committed context puts the unit into switch wait for that context. (R174, R197, R198, R199, R200, R201,
R217) -/
def Obligations.ScheduleControlWordsComplete : Prop :=
  ∀ (s : State) (w : WellIx) (f : UnitIx) (h : SwHead), s.clocksRun = true → s.running w.val = true →
    let x := s.well w.val
    let u := x.unit f.val
    u.wait = none → wordRuns u h = true →
    (SwOp.ok f.val h .nop = true → exec (.swNop w f h) s = .next (unitNext s w.val f.val h.rep.toNat))
    ∧ (∀ lvl c1 last, SwOp.ok f.val h (.loop lvl c1 last) = true →
        exec (.swLoop w f h lvl c1 last) s = .next (s.setWell w.val (x.setUnit f.val { u with
          loops := u.loops.set lvl.toNat ⟨true, (u.pc + 1) % 512, last.toNat, c1.toNat + 1⟩
          pc := (u.pc + 1) % 512 })))
    ∧ (∀ tg, SwOp.ok f.val h (.jmp tg) = true →
        exec (.swJmp w f h tg) s = .next (s.setWell w.val (x.setUnit f.val { u with
          loops := leaveLoops u.loops tg.toNat, pc := tg.toNat })))
    ∧ (∀ pd cond arg neg v, SwOp.ok f.val h (.pset pd cond arg neg) = true → cond ≠ 5 →
        psetValue s w.val f.val cond.toNat arg.toNat = some v →
        exec (.pset w f h pd cond arg neg) s = .next (unitNext (s.setWell w.val (x.setUnit f.val { u with
          preds := if v != neg then u.preds ||| (1 : BitVec 16) <<< pd.toNat
            else u.preds &&& ~~~((1 : BitVec 16) <<< pd.toNat) })) w.val f.val 0))
    ∧ (∀ pd arg neg, SwOp.ok f.val h (.pset pd 5 arg neg) = true →
        exec (.pset w f h pd 5 arg neg) s = .next (unitNext (s.setWell w.val (x.setUnit f.val
          (({ u with preds := if (u.ag arg.toNat).ended != neg then u.preds ||| (1 : BitVec 16) <<< pd.toNat
            else u.preds &&& ~~~((1 : BitVec 16) <<< pd.toNat) } : FUnit).setAg arg.toNat
              { u.ag arg.toNat with ended := false }))) w.val f.val 0))
    ∧ (∀ tg, SwOp.ok f.val h (.tagset tg) = true →
        exec (.tagset w f h tg) s
          = .next (unitNext (s.setWell w.val (x.setUnit f.val { u with tagT := tg })) w.val f.val 0))
    ∧ (∀ force mask qna qnb, SwOp.ok f.val h (.switch force mask qna qnb) = true → u.settled = true →
        x.ctxState h.cx.toNat = .committed →
        exec (.switch w f h force mask qna qnb) s = .next (s.setWell w.val (x.setUnit f.val { u with
          wait := some ⟨h.cx.toNat, force, mask, qna.toNat, qnb.toNat, 0⟩ })))

/-- After an issue with fewer than REP repetitions made, the unit keeps its word and has made one more;
after the last it has made none, and stands at the next word where no active loop ends, or at the first
word of the innermost loop that ends there if iterations are left, with one less. Every other unit of
every well and every part of the state but the wells is unchanged. (R197, R200) -/
def Obligations.RepeatedWordIssuesThenMovesOn : Prop :=
  ∀ (s : State) (w f rep : Nat),
    let u := (s.well w).unit f
    let v := ((unitNext s w f rep).well w).unit f
    (u.reps < rep → v = { u with reps := u.reps + 1 })
    ∧ (rep ≤ u.reps → loopAt u.loops u.pc = none → v = { u with reps := 0, pc := (u.pc + 1) % 512 })
    ∧ (∀ i l, rep ≤ u.reps → loopAt u.loops u.pc = some i → u.loops[i]? = some l → 1 < l.left →
        v = { u with reps := 0, pc := l.first, loops := u.loops.set i { l with left := l.left - 1 } })
    ∧ (∀ w' g, (w', g) ≠ (w, f) → ((unitNext s w f rep).well w').unit g = (s.well w').unit g)
    ∧ Only [.wells] s (unitNext s w f rep)

/-- For each of the twenty operations MOV, ADD, SUB, MUL, FMA, MIN, MAX, CMP, SEL, AND, OR, XOR, SHL, SHR,
EXP2, LOG2, RCP, RSQ, RSUM and RMAX: in a running well, on a unit outside switch wait whose word
executes and whose sources and outputs are ready, the command answers a next state in which the result
of the operation on the source words stands last in the pipeline with its latency, destination, route,
channel and sideband; each used input has lost its head; the registers of the unit, every other unit,
slice and queue of the well, every other well and every other part of the state are unchanged. (R197,
R198, R202, R203, R204, R205, R206) -/
def Obligations.ComputeWordsIssue : Prop :=
  (∀ s w k h c, CuReady s w k h .mov c → Completes (.mov w k h c) s (CuIssued s w k h .mov c))
  ∧ (∀ s w k h c, CuReady s w k h .add c → Completes (.add w k h c) s (CuIssued s w k h .add c))
  ∧ (∀ s w k h c, CuReady s w k h .sub c → Completes (.sub w k h c) s (CuIssued s w k h .sub c))
  ∧ (∀ s w k h c, CuReady s w k h .mul c → Completes (.mul w k h c) s (CuIssued s w k h .mul c))
  ∧ (∀ s w k h c, CuReady s w k h .fma c → Completes (.fma w k h c) s (CuIssued s w k h .fma c))
  ∧ (∀ s w k h c, CuReady s w k h .min c → Completes (.min w k h c) s (CuIssued s w k h .min c))
  ∧ (∀ s w k h c, CuReady s w k h .max c → Completes (.max w k h c) s (CuIssued s w k h .max c))
  ∧ (∀ s w k h c, CuReady s w k h .cmp c → Completes (.cmp w k h c) s (CuIssued s w k h .cmp c))
  ∧ (∀ s w k h c, CuReady s w k h .sel c → Completes (.sel w k h c) s (CuIssued s w k h .sel c))
  ∧ (∀ s w k h c, CuReady s w k h .and c → Completes (.and w k h c) s (CuIssued s w k h .and c))
  ∧ (∀ s w k h c, CuReady s w k h .or c → Completes (.or w k h c) s (CuIssued s w k h .or c))
  ∧ (∀ s w k h c, CuReady s w k h .xor c → Completes (.xor w k h c) s (CuIssued s w k h .xor c))
  ∧ (∀ s w k h c, CuReady s w k h .shl c → Completes (.shl w k h c) s (CuIssued s w k h .shl c))
  ∧ (∀ s w k h c, CuReady s w k h .shr c → Completes (.shr w k h c) s (CuIssued s w k h .shr c))
  ∧ (∀ s w k h c, CuReady s w k h .exp2 c → Completes (.exp2 w k h c) s (CuIssued s w k h .exp2 c))
  ∧ (∀ s w k h c, CuReady s w k h .log2 c → Completes (.log2 w k h c) s (CuIssued s w k h .log2 c))
  ∧ (∀ s w k h c, CuReady s w k h .rcp c → Completes (.rcp w k h c) s (CuIssued s w k h .rcp c))
  ∧ (∀ s w k h c, CuReady s w k h .rsq c → Completes (.rsq w k h c) s (CuIssued s w k h .rsq c))
  ∧ (∀ s w k h c, CuReady s w k h .rsum c → Completes (.rsum w k h c) s (CuIssued s w k h .rsum c))
  ∧ (∀ s w k h c, CuReady s w k h .rmax c → Completes (.rmax w k h c) s (CuIssued s w k h .rmax c))

/-- For INT8 and INT32 without chaining, element i of the result of ADD, SUB, MUL and FMA is the exact value
clamped to the signed range of its width, MIN and MAX give the smaller and larger element, and CMP gives
all ones where its comparison holds and zero elsewhere. With FMT 0, MOV gives source A unchanged, AND,
OR and XOR the bitwise results of A and B, and SEL (C AND A) OR (NOT C AND B). (R54, R68, R206) -/
def Obligations.IntegerAndBitwiseComputeWords : Prop :=
  (∀ (fmt : Fmt) (a b c : Line) (fn i : Nat), (fmt = .int8 ∨ fmt = .int32) → i < 512 / fmt.slot →
    let w := fmt.slot
    let lane := fun (l : Line) => laneOf l.toNat w i
    let val := fun (l : Line) => signedOf w (lane l)
    let res := fun op => laneOf (aluOp op fmt 0 fn a b c).line.toNat w i
    let clamp := fun (z : Int) => max (-(2 ^ (w - 1))) (min (2 ^ (w - 1) - 1) z)
    signedOf w (res .add) = clamp (val a + val b)
    ∧ signedOf w (res .sub) = clamp (val a - val b)
    ∧ signedOf w (res .mul) = clamp (val a * val b)
    ∧ signedOf w (res .fma) = clamp (val a * val b + val c)
    ∧ signedOf w (res .min) = min (val a) (val b)
    ∧ signedOf w (res .max) = max (val a) (val b)
    ∧ res .cmp = (if cmpFn fn (decide (val a < val b)) (val a == val b) then 2 ^ w - 1 else 0))
  ∧ ∀ (a b c : Line),
    (aluOp .mov .int8 0 0 a b c).line = a
    ∧ (aluOp .and .int8 0 0 a b c).line = a &&& b
    ∧ (aluOp .or .int8 0 0 a b c).line = a ||| b
    ∧ (aluOp .xor .int8 0 0 a b c).line = a ^^^ b
    ∧ (aluOp .sel .int8 0 0 a b c).line = (c &&& a) ||| (~~~c &&& b)

/-- In a running well, on a unit outside switch wait whose word executes: CVT whose sources and outputs are
ready makes one issue of the conversion, one phase further and with one result more where the issue
writes a word, and moves on under REP; MEM whose slots are ready issues AG-A, AG-B and the write slot
and moves on; a MEM word whose only slot writes an input word to a cistern walk removes that head,
queues the access and advances AG-W; AGSET writes one part of one address generator and clears its
indices and flag. No byte of memory changes at issue. (R197, R207, R209, R210, R213) -/
def Obligations.ConvertMemoryAndGeneratorWordsComplete : Prop :=
  ∀ (s : State) (w : WellIx) (k : Fin 48) (h : SwHead), s.clocksRun = true → s.running w.val = true →
    let x := s.well w.val
    (∀ c, (x.unit k.val).wait = none → wordRuns (x.unit k.val) h = true →
      SwOp.ok k.val h (.cu .cvt c) = true → cuBlocks s w.val k.val h.rep.toNat .cvt c = none →
      exec (.cvt w k h c) s
        = .next (unitNext (cvtIssue s w.val k.val h.rep.toNat c) w.val k.val h.rep.toNat)
      ∧ Only [.wells] s (cvtIssue s w.val k.val h.rep.toNat c)
      ∧ (let u := x.unit k.val
          let v := ((cvtIssue s w.val k.val h.rep.toNat c).well w.val).unit k.val
          v.cvtPhase = (if u.reps = 0 then 0 else u.cvtPhase) + 1
          ∧ v.results.length = u.results.length + (if cvtWrites u h.rep.toNat c then 1 else 0)))
    ∧ (∀ m, let f := 48 + k.val
      (x.unit f).wait = none → wordRuns (x.unit f) h = true → SwOp.ok f h (.mem m) = true →
      memBlocks s w.val f m = none →
      exec (.mem w k h m) s = .next (unitNext (memIssue s w.val f m) w.val f h.rep.toNat)
      ∧ (∀ a, (memIssue s w.val f m).mem.byte a = s.mem.byte a)
      ∧ (m.a.en = false → m.b.en = false → m.w.en = true → m.w.q = false → m.w.src.toNat < 5 →
          let u := x.unit f
          memIssue s w.val f m = s.setWell w.val (x.setUnit f
            { (({ u with agW := (agIssue u.agW).2 } : FUnit).dropHeads [m.w.src.toNat]) with
              wPend := u.wPend ++ [⟨.walk ((agIssue u.agW).1.filterMap fun p => p.2.map fun a => (a, p.1)),
                (u.port m.w.src.toNat).headD Word.zero, false⟩] })))
    ∧ (∀ ag part v, let f := 48 + k.val
      let u := x.unit f
      u.wait = none → wordRuns u h = true → SwOp.ok f h (.agset ag.toNat part.toNat v) = true →
      exec (.agset w k h ag part v) s = .next (unitNext (s.setWell w.val (x.setUnit f
        (u.setAg ag.toNat ⟨(u.ag ag.toNat).parts.set part.toNat v, [0, 0, 0, 0, 0], false⟩))) w.val f 0))

/-- With the clocks running, a thread instruction whose fields R132 calls out of range and a schedule word
whose fields R196 calls out of range fault under their mnemonic: shown for WLD, MMA, DRAIN, QWAIT, PTOK,
TAG, BRC and for ADD, MEM and SWITCH words. (R132, R139, R146, R152, R196) -/
def Obligations.WordsWithFieldsOutOfRangeNeverIssue : Prop :=
  ∀ (s : State), s.clocksRun = true →
    (∀ th f, f.ok = false → exec (.wld th f) s = .fault (.outOfRange "WLD"))
    ∧ (∀ th f, f.ok = false → exec (.mma th f) s = .fault (.outOfRange "MMA"))
    ∧ (∀ th f, f.ok = false → exec (.drain th f) s = .fault (.outOfRange "DRAIN"))
    ∧ (∀ th f, (767 < f.sq.toNat ∨ f.n = 0) → exec (.qwait th f) s = .fault (.outOfRange "QWAIT"))
    ∧ (∀ th d, 64 < d.toNat → exec (.ptok th d) s = .fault (.outOfRange "PTOK"))
    ∧ (∀ th l, l.toNat < 3 → exec (.tag th l) s = .fault (.outOfRange "TAG"))
    ∧ (∀ th cond neg lvl tg, 5 < cond.toNat →
        exec (.brc th cond neg lvl tg) s = .fault (.outOfRange "BRC"))
    ∧ (∀ w k h c, SwOp.ok k.val h (.cu .add c) = false → exec (.add w k h c) s = .fault (.outOfRange "ADD"))
    ∧ (∀ w k h m, SwOp.ok (48 + k.val) h (.mem m) = false →
        exec (.mem w k h m) s = .fault (.outOfRange "MEM"))
    ∧ (∀ w f h force mask qna qnb, SwOp.ok f.val h (.switch force mask qna qnb) = false →
        exec (.switch w f h force mask qna qnb) s = .fault (.outOfRange "SWITCH"))

/-- With the clocks running, STROKE of a well that does not run changes nothing. Of a running well it
answers one cycle: while a droop detector of the well is tripped, or a unit, an engine of a slice or a
thread is blocked, the cycle is frozen, with cause 4 for the droop, the count of frozen cycles rises by
one and that of strokes does not; when nothing freezes the well, the engines take their stroke, every
unit and thread issues, words move, and the counts of strokes and of ticks rise by one. (R21, R22, R23,
R183, R187, R468) -/
def Obligations.StrokeOfARunningWell : Prop :=
  ∀ (s : State) (w : WellIx), s.clocksRun = true →
    let s0 := threadsArrive s w.val
    let s1 := enginesMove s0 w.val
    let vs := verdicts s1 w.val
    (s.running w.val = false → exec (.stroke w) s = .next s)
    ∧ (s.running w.val = true → (s.well w.val).droop ≠ 0 → Completes (.stroke w) s fun t =>
        (t.well w.val).frozen = true ∧ (t.well w.val).cause = 4
        ∧ (t.well w.val).frozenCount = (s.well w.val).frozenCount + 1
        ∧ (t.well w.val).strokes = (s.well w.val).strokes)
    ∧ (∀ c, s.running w.val = true → (s.well w.val).droop = 0 → stageCause s0 w.val = some c →
        Completes (.stroke w) s fun t =>
          (t.well w.val).frozenCount = (s.well w.val).frozenCount + 1
          ∧ (t.well w.val).strokes = (s.well w.val).strokes)
    ∧ (∀ c, s.running w.val = true → (s.well w.val).droop = 0 → stageCause s0 w.val = none →
        leastCause (vs.map verdictCause) = some c → Completes (.stroke w) s fun t =>
          (t.well w.val).frozenCount = (s.well w.val).frozenCount + 1
          ∧ (t.well w.val).strokes = (s.well w.val).strokes)
    ∧ (s.running w.val = true → (s.well w.val).droop = 0 → stageCause s0 w.val = none →
        leastCause (vs.map verdictCause) = none →
        let s2 := s1.setWell w.val { s1.well w.val with banks := [], frozen := false, watch := 0 }
        let s3 := slicesCount s0 (threadsIssue (unitsIssue s0 s2 w.val) w.val vs) w.val
        let s4 := waitsMove s0 (wordsMove s0 s3 w.val false) w.val
        let s5 := eachSlice s4 fun s i => tagStroke s w.val i (!(s.slc w.val i).enginesFree)
        exec (.stroke w) s = .next (strokeEnd (switchDue s5 w.val (wellReady s0 w.val)) w.val)
        ∧ Completes (.stroke w) s fun t =>
          (t.well w.val).strokes = (s.well w.val).strokes + 1 ∧ (t.well w.val).tick = (s.well w.val).tick + 1)

/-- CROSSING_WORD_ARRIVAL at most a stroke before the nominal time moves the word sent longest ago into the
port FIFO it feeds when there is room, with the receiver frozen only where it waits for that word, and
no other port changes; SIDE_PORT_WRITE on a normal data queue with a free ring word whose bank the last
stroke left idle stores the word at T with its sideband and counts it in W, where the schedule used the
bank leaves the word waiting at the port, and where no place is free changes nothing;
SEMAPHORE_PORT_UPDATE in a running well waits for the next stroke, and else adds N to an enabled
semaphore entry. (R29, R30, R32, R227, R228) -/
def Obligations.WordsEnterAtCrossingsAndSidePorts : Prop :=
  ∀ (s : State) (w : WellIx), s.clocksRun = true → s.hasWell w.val = true →
    let x := s.well w.val
    (∀ row east express n wd r,
      let key := 4 * row.val + 2 * b2n east + b2n express
      let p := crossPlace key
      x.crossing key = (n, wd) :: r → n ≤ 1 → crossTaken x key = true → x.droop = 0 →
      ((x.unit p.1).port p.2).length < 8 → (x.frozen = true → crossWanted s w.val p.1 p.2 = true) →
      Completes (.crossingWordArrival w row east express) s fun t =>
        ((t.well w.val).unit p.1).port p.2 = (x.unit p.1).port p.2 ++ [wd]
        ∧ (t.well w.val).crossing key = r
        ∧ (∀ f i, (f, i) ≠ p → ((t.well w.val).unit f).port i = (x.unit f).port i)
        ∧ (∀ k, k ≠ key → (t.well w.val).crossing k = x.crossing k) ∧ Only [.wells] s t)
    ∧ (∀ (e : Fin 768) wd,
      let q := x.sq e.val
      let a := q.base + q.t % Nat.max 1 q.size
      q.spilling = false → q.canPush (slotsComing x e.val) = true → q.ringFree = true →
      retriesOf x e.val = 0 → x.banks.contains (16 * (e.val / 16) + a % 16) = false →
      Completes (.sidePortWrite w e wd) s fun t =>
        (t.sq w.val e.val).w = q.w + 1 ∧ (t.sq w.val e.val).t = q.t + 1
        ∧ (t.sq w.val e.val).r = q.r ∧ (t.sq w.val e.val).f = q.f
        ∧ t.mem.line (cisternAddr w.val (e.val / 16) (64 * a)) = wd.data
        ∧ ringSb t w.val (e.val / 16) a = wd.sb
        ∧ (∀ b, (b < cisternAddr w.val (e.val / 16) (64 * a) ∨ cisternAddr w.val (e.val / 16) (64 * a) + 64 ≤ b) →
            t.mem.byte b = s.mem.byte b)
        ∧ Only [.wells, .mem, .ecc, .regs, .hi] s t)
    ∧ (∀ (e : Fin 768) wd,
      let q := x.sq e.val
      q.spilling = false → q.canPush (retriesOf x e.val + slotsComing x e.val) = true → q.ringFree = true →
      x.banks.contains (16 * (e.val / 16) + (q.base + q.t % Nat.max 1 q.size) % 16) = true →
      exec (.sidePortWrite w e wd) s = .next (s.setWell w.val { x with retry := x.retry ++ [(e.val, wd)] }))
    ∧ (∀ (e : Fin 768) wd, (x.sq e.val).canPush (retriesOf x e.val + slotsComing x e.val) = false →
      exec (.sidePortWrite w e wd) s = .next s)
    ∧ (∀ (e : Fin 768) sel (n : BitVec 16), x.run = .running → s.wellClock w.val = true →
      exec (.semaphorePortUpdate w e sel n) s
        = .next (s.setWell w.val { x with semNext := x.semNext ++ [(e.val, sel, n.toNat)] }))
    ∧ (∀ (e : Fin 768) sel (n : BitVec 16), x.run ≠ .running → (x.sq e.val).enabled = true →
      (x.sq e.val).isSem = true →
      Completes (.semaphorePortUpdate w e sel n) s fun t =>
        (t.sq w.val e.val).semCount sel = Nat.min 0xFFFF ((x.sq e.val).semCount sel + n.toNat)
        ∧ (∀ v g, (v, g) ≠ (w.val, e.val) → t.sq v g = s.sq v g) ∧ Only [.wells, .regs, .hi] s t)

/-- SF_START on a well that is neither running nor failed with the chosen context committed sets it running
in that context, with stroke and frozen counts zero and every unit at word 0; SF_STOP on a running well
with no word waiting at a side port stops it and ends every switch wait; WELL_SWITCH, when every unit
waits for one context with its condition met, puts every unit at word 0 of that context. Registers of
the units, slices and queues stay, other wells stay, and no other part of the state changes. (R172,
R175, R183, R186, R218) -/
def Obligations.WellStartStopAndSwitch : Prop :=
  ∀ (s : State) (w : WellIx), s.clocksRun = true → s.hasWell w.val = true →
    let x := s.well w.val
    let kept := fun (t : State) => (∀ f, ((t.well w.val).unit f).regs = (x.unit f).regs)
      ∧ (t.well w.val).slices = x.slices ∧ (t.well w.val).queues = x.queues
      ∧ (∀ v, v ≠ w.val → t.well v = s.well v) ∧ Only [.wells] s t
    let atZero := fun (t : State) => ∀ f, f < 96 →
      ((t.well w.val).unit f).pc = 0 ∧ ((t.well w.val).unit f).loops = noLoops
        ∧ ((t.well w.val).unit f).wait = none ∧ ((t.well w.val).unit f).preds = 0
    (∀ ctx, x.run ≠ .running → x.run ≠ .failed → x.ctxState ctx.toNat = .committed →
      Completes (.sfStart w ctx) s fun t =>
        (t.well w.val).run = .running ∧ (t.well w.val).ctx = ctx.toNat ∧ (t.well w.val).strokes = 0
        ∧ (t.well w.val).frozenCount = 0 ∧ atZero t ∧ kept t)
    ∧ (∀ ctx start, x.run = .running → x.retry = [] → Completes (.sfStop w ctx start) s fun t =>
        (t.well w.val).run = .stopped ∧ (∀ f, f < 96 → ((t.well w.val).unit f).wait = none)
        ∧ (∀ f, ((t.well w.val).unit f).pc = (x.unit f).pc) ∧ kept t)
    ∧ (∀ ctx, s.running w.val = true → wellReady s w.val = some ctx →
      Completes (.wellSwitch w) s fun t =>
        (t.well w.val).ctx = ctx ∧ (t.well w.val).run = .running ∧ atZero t ∧ kept t)

/-- A write through the window into an EMPTY or LOADING context stores the value and leaves the context
LOADING, and into a COMMITTING or COMMITTED one changes nothing; GO takes it to COMMITTING;
COMMIT_COMPLETE leaves it COMMITTED with result 0 when the CRC matches and no wire has two drivers, and
LOADING with result 0x21 on a CRC mismatch; UNLOAD of a context nobody names starts the engine, and
UNLOAD_COMPLETE leaves it EMPTY with its words zero and every other context in the state it was in.
(R126, R178, R179, R180, R181, R182) -/
def Obligations.ContextWritesCommitAndUnload : Prop :=
  ∀ (s : State) (w : WellIx), s.clocksRun = true → s.hasWell w.val = true →
    let x := s.well w.val
    (∀ f i high v, f.val / 32 = smwGroup x → x.run ≠ .failed →
      (x.ctxState (smwCtx x) = .empty ∨ x.ctxState (smwCtx x) = .loading) →
      Completes (.smwWrite w (.word f i high) v) s fun t =>
        (t.well w.val).swHalf (smwCtx x) f.val i.val (b2n high) = v
        ∧ (t.well w.val).ctxState (smwCtx x) = .loading
        ∧ (∀ k, k ≠ swKey (smwCtx x) f.val i.val (b2n high) →
            SMap.get (fun _ => 0) (t.well w.val).sw k = SMap.get (fun _ => 0) x.sw k) ∧ Only [.wells] s t)
    ∧ (∀ f v, x.run ≠ .failed →
      (x.ctxState (smwCtx x) = .empty ∨ x.ctxState (smwCtx x) = .loading) →
      exec (.smwWrite w (.switch f) v) s = .next (s.setWell w.val { x.setCtx (smwCtx x) .loading with
        switches := SMap.set (fun _ => 0) x.switches (96 * smwCtx x + f.val) v }))
    ∧ (∀ south sl c i v, x.run ≠ .failed →
      (x.ctxState c.val = .empty ∨ x.ctxState c.val = .loading) →
      Completes (.smwWrite w (.program south sl c i) v) s fun t =>
        (t.well w.val).ctxState c.val = .loading
        ∧ SMap.get (fun _ => 0) ((t.well w.val).slice (sl.val + 4 * b2n south)).prog (256 * c.val + i.val) = v
        ∧ Only [.wells] s t)
    ∧ (∀ south sl c i v, (x.ctxState c.val = .committed ∨ x.ctxState c.val = .committing) →
      exec (.smwWrite w (.program south sl c i) v) s = .next s)
    ∧ (∀ a v, (x.ctxState (smwCtx x) = .committed ∨ x.ctxState (smwCtx x) = .committing) →
      (∀ south sl c i, a ≠ .program south sl c i) → exec (.smwWrite w a v) s = .next s)
    ∧ (∀ ctx, x.busy = none → x.run ≠ .failed → (x.ctxState ctx.toNat = .empty ∨ x.ctxState ctx.toNat = .loading) →
      exec (.sfCommitGo w ctx) s
        = .next (s.setWell w.val { x.setCtx ctx.toNat .committing with busy := some (false, ctx.toNat) }))
    ∧ (∀ c, x.busy = some (false, c) → Completes (.commitComplete w) s fun t =>
        (t.well w.val).busy = none ∧ Only [.wells] s t
        ∧ (crcWords (commitWords x c) = x.commitCrc.toNat → firstConflict x c = none →
            (t.well w.val).ctxState c = .committed ∧ (t.well w.val).result = 0)
        ∧ (crcWords (commitWords x c) ≠ x.commitCrc.toNat →
            (t.well w.val).ctxState c = .loading ∧ (t.well w.val).result = 0x21))
    ∧ (∀ ctx, x.busy = none → x.ctxState ctx.toNat = .committed → unloadRefused x ctx.toNat = false →
      exec (.sfCommitUnload w ctx) s = .next (s.setWell w.val { x with busy := some (true, ctx.toNat) }))
    ∧ (∀ c, x.busy = some (true, c) → Completes (.unloadComplete w) s fun t =>
        (t.well w.val).busy = none ∧ (t.well w.val).ctxState c = .empty
        ∧ (∀ f i h, f < 96 → i < 512 → h < 2 → (t.well w.val).swHalf c f i h = 0)
        ∧ (∀ c', c' ≠ c → (t.well w.val).ctxState c' = x.ctxState c') ∧ Only [.wells] s t)

/-- SF_CAPTURE_ARM sets the stroke, arms and sets ON_STALL; SF_CAPTURE_NOW in a running well that is not
frozen waits for the end of the stroke, and in one that is frozen or does not run takes the capture at
once; a capture that is due with none held stores the records of every unit with its cause and stroke,
an armed one with ARM cleared, and with one held only marks it lost. No other well and no other part of
the state changes. (R184, R185, R190) -/
def Obligations.CapturesAreArmedAndTaken : Prop :=
  ∀ (s : State) (w : WellIx), s.clocksRun = true → s.hasWell w.val = true →
    let x := s.well w.val
    (∀ a onStall, Completes (.sfCaptureArm w a onStall) s fun t =>
        (t.well w.val).capAt = a ∧ (t.well w.val).capArm = true ∧ (t.well w.val).capOnStall = onStall
        ∧ (t.well w.val).cap = x.cap ∧ (∀ v, v ≠ w.val → t.well v = s.well v) ∧ Only [.wells] s t)
    ∧ (x.frozen = false → x.run = .running → Completes (.sfCaptureNow w) s fun t =>
        (t.well w.val).capNow = true ∧ (t.well w.val).cap = x.cap ∧ (t.well w.val).capArm = x.capArm
        ∧ (∀ v, v ≠ w.val → t.well v = s.well v) ∧ Only [.wells] s t)
    ∧ ((x.frozen = true ∨ x.run ≠ .running) → x.capValid = false → Completes (.sfCaptureNow w) s fun t =>
        (t.well w.val).capValid = true ∧ (t.well w.val).capCause = 1 ∧ (t.well w.val).capStroke = x.strokes
        ∧ (t.well w.val).capArm = x.capArm ∧ (t.well w.val).cap = capAll s w.val
        ∧ (∀ v, v ≠ w.val → t.well v = s.well v) ∧ Only [.wells] s t)
    ∧ (∀ c, capDue x = some c → x.capValid = false → Completes (.captureTaken w) s fun t =>
        (t.well w.val).cap = capAll s w.val ∧ (c = 0 → (t.well w.val).capArm = false)
        ∧ (t.well w.val).capValid = true ∧ (t.well w.val).capCause = c ∧ (t.well w.val).capStroke = x.strokes
        ∧ (∀ v, v ≠ w.val → t.well v = s.well v) ∧ Only [.wells] s t)
    ∧ (∀ c, capDue x = some c → x.capValid = true → Completes (.captureTaken w) s fun t =>
        (t.well w.val).cap = x.cap ∧ (t.well w.val).capLost = true ∧ (t.well w.val).capArm = x.capArm
        ∧ (∀ v, v ≠ w.val → t.well v = s.well v) ∧ Only [.wells] s t)

/-- SQ_ENABLE of an unlocked disabled entry stores its configuration and empties it, of an enabled one
stores its configuration and keeps its pointers, and of a locked one is discarded; SQ_SEM_WRITE sets
both counts of a semaphore entry; SPILL_WRITE with room in the region stores the oldest staged word at
its region address and its sideband in the two bytes of its slot, and changes no line but those two and,
at the first word of a page, the last one of the page; REFILL_READ with a ring word free asks for the
oldest region word; REFILL_LANDED with clean lines enters the word and its stored sideband at T;
CISTERN_ECC_WRITEBACK stores the oldest corrected word whose bank is idle, with valid check bits, and
takes it off the list. Every other queue entry keeps its pointers. (R161, R222, R224, R231, R232, R233,
R236) -/
def Obligations.QueueRegistersSpillAndRefill : Prop :=
  ∀ (s : State) (w : WellIx) (e : Fin 768), s.clocksRun = true → s.hasWell w.val = true →
    let q := s.sq w.val e.val
    let others := fun (t : State) => ∀ v g, (v, g) ≠ (w.val, e.val) → t.sq v g = s.sq v g
    (∀ cfg, wellLocked s w.val = false → bitAt cfg 31 = true → q.enabled = false →
      Completes (.sqEnable w e cfg) s fun t =>
        (t.sq w.val e.val).cfg = cfg &&& 0xDFFF1FFF ∧ (t.sq w.val e.val).w = 0 ∧ (t.sq w.val e.val).r = 0
        ∧ (t.sq w.val e.val).f = 0 ∧ (t.sq w.val e.val).staging = [] ∧ (t.sq w.val e.val).free = 0
        ∧ others t ∧ Only [.wells, .regs, .hi] s t)
    ∧ (∀ cfg, wellLocked s w.val = false → q.enabled = true → Completes (.sqEnable w e cfg) s fun t =>
        (t.sq w.val e.val).cfg = cfg &&& 0xDFFF1FFF ∧ (t.sq w.val e.val).w = q.w ∧ (t.sq w.val e.val).r = q.r
        ∧ (t.sq w.val e.val).f = q.f ∧ (t.sq w.val e.val).t = q.t ∧ others t ∧ Only [.wells, .regs, .hi] s t)
    ∧ (∀ cfg, wellLocked s w.val = true → exec (.sqEnable w e cfg) s = .next s)
    ∧ (∀ v, q.isSem = true → Completes (.sqSemWrite w e v) s fun t =>
        (t.sq w.val e.val).filled = bits v 16 16 ∧ (t.sq w.val e.val).free = bits v 0 16
        ∧ others t ∧ Only [.wells, .regs, .hi] s t)
    ∧ (∀ wd rest, q.staging = wd :: rest → q.enabled = true → q.ovf = true → q.regionUsed < q.cap →
        (rest = [] ∨ q.regionUsed + 1 < q.cap) →
      Completes (.spillWrite w e) s fun t =>
        (t.sq w.val e.val).staging = rest ∧ (t.sq w.val e.val).regW = q.regW + 1
        ∧ (t.sq w.val e.val).w = q.w ∧ others t
        ∧ (q.ovfBase.toNat % 4096 = 0 → t.mem.line (regionAddr q q.regW) = wd.data
            ∧ t.mem.byte (regionSbAddr q q.regW) = BitVec.ofNat 8 (sbBits wd.sb)
            ∧ t.mem.byte (regionSbAddr q q.regW + 1) = BitVec.ofNat 8 (sbBits wd.sb / 256))
        ∧ (∀ b, b / 64 ≠ regionAddr q q.regW / 64 → b / 64 ≠ regionSbAddr q q.regW / 64 →
            (q.regW % Nat.max 1 q.cap % 62 = 0 →
              b / 64 ≠ (q.ovfBase.toNat + q.regW % Nat.max 1 q.cap / 62 * 4096 + 63 * 64) / 64) →
            t.mem.byte b = s.mem.byte b)
        ∧ Only [.wells, .mem, .ecc, .mcs, .regs, .hi, .err, .pmu, .freeCtr] s t)
    ∧ (q.enabled = true → q.spilling = true → q.regR < q.regW → q.t + q.refills.length - q.f < q.size →
      exec (.refillRead w e) s
        = .next (s.setSq w.val e.val { q with refills := q.refills ++ [q.regR], regR := q.regR + 1 }))
    ∧ (∀ j rest, q.refills = j :: rest → (dramRead s (regionAddr q j)).2.1 = false →
      let sl := dramRead (dramRead s (regionAddr q j)).2.2 (regionSbAddr q j / 64 * 64)
      sl.2.1 = false →
      Completes (.refillLanded w e) s fun t =>
        let a := cisternAddr w.val (e.val / 16) (64 * (q.base + q.t % Nat.max 1 q.size))
        ringSb t w.val (e.val / 16) (q.base + q.t % Nat.max 1 q.size)
            = sbOf (laneOf sl.1.toNat 16 (regionSbAddr q j % 64 / 2))
        ∧
        (t.sq w.val e.val).t = q.t + 1 ∧ (t.sq w.val e.val).refills = rest
        ∧ (t.sq w.val e.val).w = q.w ∧ others t
        ∧ t.mem.line a = (dramRead s (regionAddr q j)).1
        ∧ (∀ b, b / 64 ≠ a / 64 → t.mem.byte b = s.mem.byte b)
        ∧ Only [.wells, .mem, .ecc, .mcs, .regs, .hi, .err, .pmu, .freeCtr] s t)
    ∧ (∀ (k : Fin 48) a, ((s.well w.val).mu k.val).wb.find?
          (fun a => !(s.well w.val).banks.contains (16 * k.val + a % 16)) = some a →
      ∀ l, decodeLine (s.mem.line (cisternAddr w.val k.val (64 * a))) (s.delta (cisternAddr w.val k.val (64 * a)))
          = .corrected l →
      Completes (.cisternEccWriteback w k) s fun t =>
        t.mem.line (cisternAddr w.val k.val (64 * a)) = l ∧ t.delta (cisternAddr w.val k.val (64 * a)) = 0
        ∧ a ∉ ((t.well w.val).mu k.val).wb
        ∧ (∀ b, b / 64 ≠ cisternAddr w.val k.val (64 * a) / 64 → t.mem.byte b = s.mem.byte b)
        ∧ Only [.wells, .mem, .ecc] s t)

/-- FREEZE_WATCH_EXPIRY in a well that has been frozen for its limit with a task in flight records cause 1,
restarts the count and writes the STALL_CYCLE entry of the well; WAIT_WATCH_EXPIRY with a thread that
has waited for the limit records cause 2 and writes the entry of its slice, with none but a unit that
has stood in switch wait for it records cause 3 and writes the entry of the well, and restarts every
wait count. The entry names the freeze cause and a status register in its detail. (R151, R177, R234,
R237) -/
def Obligations.WatchExpiriesRaiseStallCycle : Prop :=
  ∀ (s : State) (w : WellIx) (p : Nat), s.clocksRun = true → s.running w.val = true →
    s.pipeOf w.val = some p →
    let x := s.well w.val
    (freezeExpired s w.val = true → Completes (.freezeWatchExpiry w) s fun t =>
        (t.well w.val).dldCause = 1 ∧ (t.well w.val).watch = 0
        ∧ Logged s t (mkFault stStallCycle 3 (unitNo w.val 127) 0
            (x.cause <<< 32 + msqStatus (x.slice (freezingSlice x)))) 2 none (some p)
        ∧ (∀ v, v ≠ w.val → t.well v = s.well v) ∧ Only (.wells :: logParts) s t)
    ∧ (∀ i, dldOn x = true → threadExpired x = some i → Completes (.waitWatchExpiry w) s fun t =>
        (t.well w.val).dldCause = 2 ∧ (∀ j, j < 8 → ((t.well w.val).slice j).waited = 0)
        ∧ Logged s t (mkFault stStallCycle 2 (sliceNo w.val i) 0
            (x.cause <<< 32 + msqStatus (x.slice i))) 2 none (some p)
        ∧ (∀ v, v ≠ w.val → t.well v = s.well v) ∧ Only (.wells :: logParts) s t)
    ∧ (∀ f, dldOn x = true → threadExpired x = none → switchExpired x = some f →
        Completes (.waitWatchExpiry w) s fun t =>
        (t.well w.val).dldCause = 3
        ∧ (∀ g, g < 96 → ((t.well w.val).unit g).wait.map (·.strokes) = ((x.unit g).wait.map fun _ => 0))
        ∧ Logged s t (mkFault stStallCycle 3 (unitNo w.val 127) 0 (x.cause <<< 32 + sfStatus s w.val)) 2
            none (some p)
        ∧ (∀ v, v ≠ w.val → t.well v = s.well v) ∧ Only (.wells :: logParts) s t)

/-- With ECC on, CE_WRITEBACK takes the oldest queued line and stores it corrected with valid check bits, or
stores the poison pattern where it is uncorrectable, and changes no other byte; PATROL_SCRUB_READ inside
a pass moves the scrub counter by one line and REFRESH sets the rate bit of its channel, and neither
changes any byte of memory. (R374, R375, R376, R378, R379) -/
def Obligations.MemoryControllerCommandsComplete : Prop :=
  ∀ (s : State) (n : Fin 8), s.clocksRun = true →
    let m := s.mc n.val
    (∀ c line rest, m.wbq = (c, line) :: rest → s.eccOn = true → Completes (.ceWriteback n) s fun t =>
        (t.mc n.val).wbq = rest
        ∧ (∀ l, decodeLine (s.mem.line (64 * line)) (s.delta (64 * line)) = .corrected l →
            t.mem.line (64 * line) = l ∧ t.delta (64 * line) = 0)
        ∧ (decodeLine (s.mem.line (64 * line)) (s.delta (64 * line)) = .uncorrectable →
            t.delta (64 * line) = poison)
        ∧ (∀ b, b / 64 ≠ line → t.mem.byte b = s.mem.byte b)
        ∧ Only [.mem, .ecc, .mcs, .regs, .hi, .err, .pmu, .freeCtr] s t)
    ∧ (s.eccOn = true → s.bit (rMcScrub n.val) 31 = true → s.bit (rMcStatus n.val) 31 = true →
        s.bit (rMcStatus n.val) 30 = false → m.scrubPos + 1 < channelBytes s / 64 * 4 →
        Completes (.patrolScrubRead n) s fun t =>
          (t.mc n.val).scrubPos = m.scrubPos + 1 ∧ t.ecc = s.ecc
          ∧ Only [.mcs, .regs, .hi, .err, .pmu, .freeCtr] s t)
    ∧ (∀ ch bank hot, s.bit (rMcStatus n.val) 31 = true → s.bit (rMcStatus n.val) 30 = false →
        Completes (.refresh n ch bank hot) s fun t =>
          bitAt (t.mc n.val).hot ch.val = hot ∧ (t.mc n.val).wbq = m.wbq
          ∧ Only [.mcs, .regs, .hi] s t)

/-- With ECC on, a line whose check bits are valid reads as stored and clean; one that decodes to a
correction reads as the corrected line and clean; one that decodes as uncorrectable reads as stored and
flagged. With ECC off every line reads as stored and clean. A read changes no byte of memory. (R368,
R372, R375, R376) -/
def Obligations.LineReadReturnsCorrectedData : Prop :=
  ∀ (s : State) (a : Nat),
    let l := s.mem.line (a / 64 * 64)
    let r := dramRead s a
    (s.eccOn = false → r.1 = l ∧ r.2.1 = false)
    ∧ (s.eccOn = true → decodeLine l (s.delta a) = .ok → r.1 = l ∧ r.2.1 = false)
    ∧ (∀ l', s.eccOn = true → decodeLine l (s.delta a) = .corrected l' → r.1 = l' ∧ r.2.1 = false)
    ∧ (s.eccOn = true → decodeLine l (s.delta a) = .uncorrectable → r.1 = l ∧ r.2.1 = true)
    ∧ (∀ b, r.2.2.mem.byte b = s.mem.byte b) ∧ r.2.2.ecc = s.ecc

/-- For every line and every nonzero error in one 4-bit data symbol j of the 128, or in one 4-bit check
symbol, decoding the stored line against the check bits of the correct one gives the correct line.
(R370, R371, R372) -/
def Obligations.SingleSymbolErrorsAreCorrected : Prop :=
  (∀ (l : Line) (j e : Nat), j < 128 → 0 < e → e < 16 →
    decodeLine (l ^^^ BitVec.ofNat 512 (e <<< (4 * j)))
      (encodeLine l ^^^ encodeLine (l ^^^ BitVec.ofNat 512 (e <<< (4 * j)))) = .corrected l)
  ∧ ∀ (l : Line) (i e : Nat), i < 4 → 0 < e → e < 16 →
      decodeLine l (BitVec.ofNat 16 (e <<< (4 * i))) = .corrected l

/-- For every line, with (s0, s1, s2, s3) the sum over the 128 data symbols d of d times the column of its
symbol, the four check symbols of the encoder are c2 = s1, c3 = s2, c1 = s0 + s1 + s2 and c0 = s3 + s1 +
mu s2; and adding each check symbol times its column to the data syndrome gives zero in all four places.
(R371) -/
def Obligations.EncoderMakesTheSyndromeOfTheCodewordZero : Prop :=
  ∀ (l : Line),
    let sum := fun (h : Nat → Nat) => (List.range 128).foldl (fun t j => t ^^^ gfMul (laneOf l.toNat 4 j) (h j)) 0
    let s0 := sum fun _ => 1
    let s1 := sum fun j => (symbolPair j).1
    let s2 := sum fun j => (symbolPair j).2
    let s3 := sum fun j => gfQuad (symbolPair j).1 (symbolPair j).2
    let c := fun i => laneOf (encodeLine l).toNat 4 i
    c 2 = s1 ∧ c 3 = s2 ∧ c 1 = s0 ^^^ s1 ^^^ s2 ∧ c 0 = s3 ^^^ s1 ^^^ gfMul 8 s2
    ∧ s0 ^^^ c 1 ^^^ c 2 ^^^ c 3 = 0 ∧ s1 ^^^ c 2 = 0 ∧ s2 ^^^ c 3 = 0
    ∧ s3 ^^^ c 0 ^^^ c 2 ^^^ gfMul 8 (c 3) = 0

/-- With ECC off, a DRAM read returns the bytes of the line as they stand, errors included, is never
uncorrectable, and logs and queues nothing; and PATROL_SCRUB_READ changes nothing. (R377) -/
def Obligations.EccOffNeverReportsAnError : Prop :=
  ∀ (s : State), s.eccOn = false →
    (∀ a, (dramRead s a).1 = s.mem.line (a / 64 * 64) ∧ (dramRead s a).2.1 = false
      ∧ (dramRead s a).2.2.mcs = s.mcs ∧ (dramRead s a).2.2.err = s.err ∧ (dramRead s a).2.2.ecc = s.ecc)
    ∧ (∀ n, exec (.patrolScrubRead n) s = .next s)

/-- PMP_ARM with a valid completion semaphore starts an idle stream at its head address with its counters
zero, stores the arm in the free shadow slot of a running one, and with the shadow taken sets the
overrun flag, keeps both slots and logs DESC_OVERRUN; PMP_CANCEL of a running stream whose oldest
descriptor does not ask to finish drops what it holds and leaves it cancelling, and one that asks to
finish is kept to its boundary, a frame with its chroma; PMP_FLUSH also empties the shadow slot. Other
streams, memory and wells stay as they are. (R257, R258, R259, R260, R266) -/
def Obligations.StreamArmCancelAndFlush : Prop :=
  ∀ (s : State) (p : PumpIx) (c : StreamIx), s.clocksRun = true →
    let i := strIx p c
    let x := s.str i
    let others := fun (t : State) => ∀ j, j ≠ i → t.str j = s.str j
    (semOk s x.cfg = true → x.shadow = none → x.st = .idle → Completes (.pmpArm p c) s fun t =>
        (t.str i).st = .running ∧ (t.str i).act = ⟨x.head, x.cfg⟩ ∧ (t.str i).descs = 0 ∧ (t.str i).bytes = 0
        ∧ (t.str i).next = some (bits x.head 6 42 * 64) ∧ (t.str i).fetched = [] ∧ others t
        ∧ Only [.strs, .dc] s t)
    ∧ (semOk s x.cfg = true → x.shadow = none → x.st ≠ .idle → Completes (.pmpArm p c) s fun t =>
        t.str i = { x with shadow := some ⟨x.head, x.cfg⟩ } ∧ others t ∧ Only [.strs, .dc] s t)
    ∧ (semOk s x.cfg = true → x.shadow ≠ none → cfgTask x.cfg = none → Completes (.pmpArm p c) s fun t =>
        t.str i = { x with ovr := true } ∧ others t
        ∧ Logged s t (mkFault stDescOverrun 1 i (bits x.head 6 42 * 64) 0) 0 none none
        ∧ Only (.strs :: logParts) s t)
    ∧ (∀ d r, x.st = .running → x.fetched = d :: r → d.cxl ≠ 1 → d.dkind ≠ 2 →
        Completes (.pmpCancel p c) s fun t =>
          (t.str i).st = .cancelling ∧ (t.str i).fetched = [] ∧ (t.str i).next = none
          ∧ (t.str i).reads = x.reads ∧ (t.str i).writes = x.writes ∧ (t.str i).shadow = x.shadow
          ∧ others t ∧ Only [.strs] s t)
    ∧ (∀ d r, x.st = .running → x.fetched = d :: r → d.cxl = 1 →
        Completes (.pmpCancel p c) s fun t =>
          (t.str i).st = .cancelling ∧ (t.str i).boundary = some d.k ∧ d ∈ (t.str i).fetched
          ∧ (∀ e ∈ (t.str i).fetched, e.k = d.k ∨ (e.chroma = true ∧ e.k = d.k + 1)) ∧ others t ∧ Only [.strs] s t)
    ∧ (∀ d r, x.st = .running → x.shadow.bind (fun a => cfgTask a.cfg) = none → x.fetched = d :: r →
        d.cxl ≠ 1 → d.dkind ≠ 2 → Completes (.pmpFlush p c) s fun t =>
          (t.str i).st = .cancelling ∧ (t.str i).fetched = [] ∧ (t.str i).shadow = none
          ∧ others t ∧ Only [.strs] s t)

/-- DESCRIPTOR_CHECK of a running stream that wants its next descriptor from DRAM, read clean, appends it to
the descriptors held with the eight words at its address, counts it and goes to the address it names;
one that fails the checks leaves a stream without task faulting with the status of the check. No byte of
memory changes. (R248, R249, R255, R262, R263) -/
def Obligations.DescriptorsAreFetchedAndChecked : Prop :=
  ∀ (s : State) (p : PumpIx) (c : StreamIx) (a : Nat) (host : Line) (e : Bool), s.clocksRun = true →
    let i := strIx p c
    let x := s.str i
    let r := dramRead s a
    let dw := lineWords r.1
    let d := FDesc.fresh x.nFetched a dw
    wantsDesc x = true → descHeld s p.val c.val = false → x.next = some a → regionOf s a = .dram →
    r.2.1 = false → x.fill = none → x.st = .running → x.boundary = none →
    (descStatus r.2.2 x d = 0 → Completes (.descriptorCheck p c host e) s fun t =>
      (t.str i).fetched.length = x.fetched.length + 1
      ∧ ((t.str i).fetched.getLast?.map fun f => (f.addr, f.dw)) = some (a, dw)
      ∧ (t.str i).nFetched = x.nFetched + 1
      ∧ (t.str i).next = (if bits (dwOf dw 7) 0 48 = 0 then none else some (bits (dwOf dw 7) 0 48))
      ∧ (∀ j, j ≠ i → t.str j = s.str j)
      ∧ Only [.strs, .mcs, .regs, .hi, .err, .pmu, .freeCtr] s t)
    ∧ (descStatus r.2.2 x d ≠ 0 → x.task = none → x.fetched = [] →
      Completes (.descriptorCheck p c host e) s fun t =>
        (t.str i).st = .faulting ∧ (t.str i).code = descStatus r.2.2 x d ∧ (t.str i).next = none
        ∧ (∀ b, t.mem.byte b = s.mem.byte b))

/-- With one busy context of pump p that may read, PUMP_READ_ISSUE issues its bucket: from a DRAM source
with no queue it appends one outstanding read of the next bytes of the walk. PUMP_WRITE_ISSUE with fewer
than 32 writes of the pump outstanding issues the write of its one busy context: bytes for DRAM append
one outstanding write. READ_BUCKET_RETURN takes the oldest read off the list; its data goes to the
descriptor, or counts as sunk where the stream is cancelling and the descriptor gone.
WRITE_BUCKET_COMPLETE of an unblocked memory write to DRAM makes it visible. CANCEL_COMPLETE ends a
cancelling stream with nothing outstanding, and TTE_SAMPLE at the end of a window stores the rate and
the time to empty. (R240, R250, R253, R254, R256, R257, R261, R267) -/
def Obligations.PumpBucketsIssueAndReturn : Prop :=
  ∀ (s : State) (p : PumpIx) (c : StreamIx), s.clocksRun = true →
    let i := strIx p c
    let x := s.str i
    (busyContexts s p.val = [c.val] → readWhy s p.val c.val = .ready →
      exec (.pumpReadIssue p) s = .next (issueRead (s.setStr i { x with valve := false }) p.val c.val)
      ∧ ∀ d, readNext x = some d → d.srcQueue = none → d.destQueue = none →
          regionOf s (readSpan d).1 = .dram →
          ((issueRead s p.val c.val).str i).reads.map (fun r => (r.k, r.addr, r.len))
            = x.reads.map (fun r => (r.k, r.addr, r.len)) ++ [(d.k, (readSpan d).1, (readSpan d).2)])
    ∧ (∀ it, busyContexts s p.val = [c.val] → askCredit s i = s → writeSettle s i = s →
        pumpWrites s p.val < 32 → writeNext s i = some it →
        exec (.pumpWriteIssue p) s = .next (writeSettle (issueWrite s i it) i)
        ∧ ∀ a n d r, it = .bytes a n → x.fetched = d :: r → regionOf s a = .dram → taskAborted s x = false →
          ((issueWrite s i it).str i).writes.map (fun w => (w.k, w.kind, w.addr, w.data, w.mask))
            = x.writes.map (fun w => (w.k, w.kind, w.addr, w.data, w.mask))
              ++ [(d.k, .mem, a, (bytesLine a n (d.out % 2 ^ (8 * n))).1,
                  (bytesLine a n (d.out % 2 ^ (8 * n))).2)])
    ∧ (∀ r rest v u, x.reads = r :: rest → readOutcome s r = some (0, v, u) → u.strs = s.strs →
        u.tb = s.tb → s.dt ≤ r.deadline →
        let b := bwCount u (48 + p.val / 4) 0
        (∀ d, wanted x r = some d → exec (.readBucketReturn p c) s
          = .next (strSettle (absorb (b.setStr i { x with reads := rest }) i r d v) i))
        ∧ (wanted x r = none → x.st = .cancelling → Completes (.readBucketReturn p c) s fun t =>
            (t.str i).reads = rest ∧ (t.str i).sunk = x.sunk + r.len ∧ (∀ j, j ≠ i → t.str j = s.str j)))
    ∧ (∀ j w, x.writes[j]? = some w → writeBlocked s x j w = false → w.kind = .mem → s.dt ≤ w.deadline →
        (memWrite s w).1 = 0 →
        exec (.writeBucketComplete p c j) s
          = .next (writeGone (memWrite s w).2 i j (popcount w.mask.toNat 64)))
    ∧ (x.reads = [] → x.writes = [] → x.st = .cancelling → x.fetched = [] → x.shadow = none →
        x.task = none → (s.dc.armq.find? fun q => q.1 == i) = none →
        Completes (.cancelComplete p c) s fun t =>
          (t.str i).st = .idle ∧ (t.str i).code = x.fill.getD stCancelled ∧ (t.str i).disc = x.sunk
          ∧ (∀ b, t.mem.byte b = s.mem.byte b))
    ∧ (∀ at_ level n, x.st ≠ .idle → tteMeasure s x = some (at_, level, n) → x.tteQueue = some at_ →
        1024 ≤ s.clk - x.tteWin →
        Completes (.tteSample p c) s fun t =>
          (t.str i).tteRate = (n - x.tteLast) * 1024 / (s.clk - x.tteWin) ∧ (t.str i).tteWin = s.clk
          ∧ (t.str i).tteLast = n
          ∧ (t.str i).tte = Nat.min (level * 1024 / Nat.max ((n - x.tteLast) * 1024 / (s.clk - x.tteWin)) 1)
              (2 ^ 20 - 1)
          ∧ Only [.strs] s t)

/-- A DRAM write bucket with an all-ones mask makes the line read as the data; with a partial mask over a
line that is valid, or with ECC off, each byte of the line reads as the new byte where its mask bit is
set and as the old byte elsewhere. Every byte outside the line is unchanged. (R240, R374, R377) -/
def Obligations.MemoryWriteBucketStoresItsBytes : Prop :=
  ∀ (s : State) (a : Nat) (new : Line) (mask : BitVec 64), a % 64 = 0 →
    let t := dramWrite s a new mask
    (mask = fullMask → t.mem.line a = new ∧ t.delta a = 0)
    ∧ ((s.eccOn = false ∨ decodeLine (s.mem.line a) (s.delta a) = .ok) → ∀ j, j < 64 →
        t.mem.byte (a + j)
          = if bitAt mask j then BitVec.ofNat 8 (laneOf new.toNat 8 j) else s.mem.byte (a + j))
    ∧ (∀ b, b / 64 ≠ a / 64 → t.mem.byte b = s.mem.byte b)

/-- BARRIER_COMPLETE of a barrier of its home well that is ready and has no action table advances the
generation by one, carries the early arrivals over and releases every thread held in it, and no other
barrier of the well changes; MARKER_REPORT of a frame marker on the output stream of a task that names
another task writes an ABORTED entry of pipeline scope, and any other word changes nothing. (R279, R280,
R281, R356) -/
def Obligations.BarriersAndMarkers : Prop :=
  ∀ (s : State), s.clocksRun = true →
    (∀ (p : PipeIx) (b : Fin 16), s.pipeOf p.val = some p.val → barReady s p.val b.val = true →
      bitAt ((s.well p.val).bar b.val).cfg 29 = false →
      Completes (.barrierComplete p b) s fun t =>
        let k := (s.well p.val).bar b.val
        let k' := (t.well p.val).bar b.val
        k'.gen = (k.gen + 1) % 256 ∧ k'.arrived = Nat.min k.next (barCount k)
        ∧ k'.next = k.next - Nat.min k.next (barCount k) ∧ k'.cfg = k.cfg
        ∧ (∀ b', b' ≠ b.val → (t.well p.val).bar b' = (s.well p.val).bar b')
        ∧ (∀ w j, w ∈ s.pipeWells p.val → j < 8 → (s.slc w j).active = true → (s.slc w j).arrived = true →
            (s.slc w j).barId = b.val → (t.slc w j).released = true)
        ∧ Only [.wells, .harts] s t)
    ∧ (∀ (p : PumpIx) (c : StreamIx) wd t q, wd.sb.marker = true → (s.str (strIx p c)).task = some t →
      s.taskPipe t = some q → markKind wd = 1 → strIx p c = outStream s q → markTask wd ≠ some t →
      exec (.markerReport p c wd) s = .next (pipeFault s q (mkFault stAborted 0 q 0 (markDw0 wd)) (some t)))
    ∧ (∀ (p : PumpIx) (c : StreamIx) wd, (wd.sb.marker = false ∨ markKind wd ≠ 1) →
      exec (.markerReport p c wd) s = .next s)

/-- While the device is awake, DC_RING_TAIL_WRITE stores a tail that moves forward within the ring and else
sets OVR and keeps the tail; DC_CRING_HEAD_WRITE stores the head; RING_ENABLE of a disabled ring stores
its configuration with EN and clears the stop; RING_DISABLE clears EN; ADMIT_CONTROL sets the two bits
of its pipeline, and changes nothing else where it does not bring the tasks in flight to the depth of a
segmented pipeline. Every other ring and pipeline, and, but for that case of ADMIT_CONTROL, every part
of the state but the DC, is unchanged. (R346, R358, R363) -/
def Obligations.RingRegistersComplete : Prop :=
  ∀ (s : State) (n : Fin 256), s.clocksRun = true →
    let g := s.dc.ring n.val
    let others := fun (t : State) => (∀ m, m ≠ n.val → t.dc.ring m = s.dc.ring m) ∧ Only [.dc] s t
    (∀ v : W32, Awake s → (v.toNat + 2 ^ 32 - g.tail) % 2 ^ 32 < 2 ^ 31 →
          (v.toNat + 2 ^ 32 - g.head) % 2 ^ 32 ≤ g.size →
        Completes (.dcRingTailWrite n v) s fun t => t.dc.ring n.val = { g with tail := v.toNat } ∧ others t)
    ∧ (∀ v : W32, Awake s → (2 ^ 31 ≤ (v.toNat + 2 ^ 32 - g.tail) % 2 ^ 32
          ∨ g.size < (v.toNat + 2 ^ 32 - g.head) % 2 ^ 32) →
        Completes (.dcRingTailWrite n v) s fun t => t.dc.ring n.val = { g with ovr := true } ∧ others t)
    ∧ (∀ v, Completes (.dcCringHeadWrite n v) s fun t =>
        t.dc.ring n.val = { g with chead := v.toNat } ∧ others t)
    ∧ (∀ cfg, g.enabled = false → Completes (.ringEnable n cfg) s fun t =>
        (t.dc.ring n.val).enabled = true ∧ (t.dc.ring n.val).stop = false
        ∧ (t.dc.ring n.val).cfg = (cfg ||| 0x80000000) &&& 0x9F3F7FFF ∧ others t)
    ∧ (∀ cfg, g.enabled = true → Completes (.ringDisable n cfg) s fun t =>
        (t.dc.ring n.val).enabled = false ∧ (t.dc.ring n.val).tail = g.tail
        ∧ (t.dc.ring n.val).head = g.head ∧ others t)
    ∧ (∀ p adm thr, Completes (.admitControl p adm thr) s fun t =>
        (t.dc.pipe p.val).admitting = adm ∧ (t.dc.pipe p.val).throughput = thr
        ∧ (∀ q, q ≠ p.val → t.dc.pipe q = s.dc.pipe q) ∧ (∀ m, t.dc.ring m = s.dc.ring m))
    ∧ (∀ p adm thr, (segsOf s p.val = 0
          ∨ (s.dc.pipe p.val).flight.length < if thr then bits (s.well p.val).pipe 0 4 else 1) →
        Completes (.admitControl p adm thr) s fun t =>
        t.dc.pipe p.val = { s.dc.pipe p.val with admitting := adm, throughput := thr }
        ∧ (∀ q, q ≠ p.val → t.dc.pipe q = s.dc.pipe q) ∧ (∀ m, t.dc.ring m = s.dc.ring m) ∧ Only [.dc] s t)

/-- SOURCE_MAP of a free source with STATE ACTIVE stores its fields; SOURCE_UPDATE of an active one waits in
the register for the next admission; SOURCE_DRAIN of an active one sets STATE draining; SOURCE_FREED of
a draining one with nothing in flight, nothing to reissue and no descriptor in the window of its ring
sets STATE free. Every other source keeps its register. (R353, R363) -/
def Obligations.SourcesMapUpdateDrainAndFree : Prop :=
  ∀ (s : State) (n : Fin 4096), s.clocksRun = true →
    let others := fun (t : State) => (∀ m, m ≠ n.val → t.dc.src m = s.dc.src m) ∧ Only [.dc] s t
    (∀ v, srcState s n.val = 0 → bits v 62 2 = 1 → Completes (.sourceMap n v) s fun t =>
        t.dc.src n.val = v &&& srcMask ∧ others t)
    ∧ (∀ v, srcState s n.val = 1 → bits v 62 2 = 1 → Completes (.sourceUpdate n v) s fun t =>
        SMap.get (fun _ => 0) t.dc.srcNext n.val = v ∧ t.dc.src n.val = s.dc.src n.val ∧ others t)
    ∧ (srcState s n.val = 1 → Completes (.sourceDrain n) s fun t =>
        srcState t n.val = 2 ∧ srcRing t n.val = srcRing s n.val ∧ srcPipe t n.val = srcPipe s n.val ∧ others t)
    ∧ (srcState s n.val = 2 → inFlightOf s n.val = 0 →
        ((s.dc.pipe (srcPipe s n.val)).reissue.any fun r => r.2.1.source == n.val) = false →
        ((s.dc.ring (srcRing s n.val)).window.any fun d => d.orderKey == n.val) = false →
        Completes (.sourceFreed n) s fun t => srcState t n.val = 0 ∧ others t)

/-- With the DC enabled and running, INTAKE_DESCRIPTOR_FETCH of the ring whose turn it is, from DRAM read
clean, puts the eight words at HEAD into the window as the descriptor of that count and moves HEAD on by
one; TASK_ADMIT on a pipeline that may take tasks in takes the next task in turn, drops its descriptor
from the window and keeps the place in the round, or completes a descriptor that fails the checks with
its status; FRAME_INTAKE of a unit that a whole frame has reached gives the luma descriptor the output
words of the profile and both descriptors no raw bytes, and goes on to the next stream, and of one whose
stream no longer runs takes that stream off its queue. (R347, R354, R355, R359) -/
def Obligations.IntakeAndAdmission : Prop :=
  ∀ (s : State), s.clocksRun = true →
    (∀ host e n,
      let g := s.dc.ring n
      let a := g.addr + g.head % g.size * 64
      s.dc.en = true → dcRuns s = true → nextRing s = some n → regionOf s a = .dram →
      (dramRead s a).2.1 = false →
      exec (.intakeDescriptorFetch host e) s
        = .next (intakeArrive (dramRead s a).2.2 n (lineWords (dramRead s a).1))
      ∧ ((intakeArrive s n (lineWords (dramRead s a).1)).dc.ring n).head = (g.head + 1) % 2 ^ 32
      ∧ ((intakeArrive s n (lineWords (dramRead s a).1)).dc.ring n).open_.length = g.open_.length + 1)
    ∧ (∀ (p : PipeIx) c rs rl,
      let s' := admitNoted s p.val
      let u := takeUpdates s'
      canAdmit s' p.val = true → (u.dc.pipe p.val).reissue = [] → roundRobin u p.val = some (c, rs, rl) →
      (intakeStatus u c.2.1 c.2.2 ≠ 0 → exec (.taskAdmit p) s
        = .next (windowDone u c.2.1 c.2.2.count (intakeStatus u c.2.1 c.2.2)))
      ∧ (∀ v, intakeStatus u c.2.1 c.2.2 = 0 → admitTask u p.val c.2.1 c.2.2 0 = .admitted v →
        exec (.taskAdmit p) s = .next (event (ringUpdate (windowDrop
          (v.setPipe p.val { v.dc.pipe p.val with rrSource := rs, rrLeft := rl })
          c.2.1 c.2.2.count) c.2.1) 0 p.val 1)))
    ∧ (∀ (u : Fin 2) i r, SMap.get (fun _ => []) s.fiq u.val = i :: r → (s.str i).st ≠ .running →
      (s.str i).boundary = none → exec (.frameIntake u) s = .next (fiNext s u.val i))
    ∧ (∀ (u : Fin 2) i r l c, SMap.get (fun _ => []) s.fiq u.val = i :: r → (s.str i).st = .running →
      (fiLuma (s.str i)).bind (fun j => frameWhole (s.str i) j) = some (l, c) →
      let x := s.str i
      let q := fiListRead s l.fiu l.fiprof x.task
      let bps := fiBps q.2 l.fiu l.fiprof
      let o := fiFrameOut q.2 l.fiu l.fiprof ⟨l.count 0 / bps, l.count 1, bps, l.raw, c.raw⟩ x.task
      let taken := fun (ws : List OWord) (d : FDesc) =>
        { d with raw := 0, rawLen := 0, taken := d.walkBytes, words := ws, converted := true }
      q.1 = none → o.2 = 0 →
      exec (.frameIntake u) s = .next (strSettle (fiNext
        (q.2.setStr i ((x.updDesc l.k (taken o.1)).updDesc c.k (taken []))) u.val i) i)
      ∧ Completes (.frameIntake u) s fun t => ∀ b, t.mem.byte b = s.mem.byte b)

/-- COMPLETION_RECORD_WRITE of a ring whose oldest due record is in order and has a free slot in DRAM stores
the 32 bytes of the record at the slot of the completion tail, moves the tail on and keeps the record as
written; COMPLETION_RECORD_WRITTEN takes the oldest written record off the list and counts it as
unsignalled, or signals when it asks for that; COALESCE_TIMEOUT signals the vector of a ring that has
waited its time; HI_INT_MASK_WRITE stores the mask and, with a mainband up, leaves pending only masked
vectors. (R350, R351, R352) -/
def Obligations.CompletionRecordsAndInterrupts : Prop :=
  ∀ (s : State) (n : Fin 256), s.clocksRun = true →
    let g := s.dc.ring n.val
    (∀ r rest,
      let a := g.caddr + g.ctail % g.size * 32
      g.due = r :: rest → dcRuns s = true → ringFull g = false → recordInOrder s r = true → heldBefore s n.val r = false →
      regionOf s a = .dram →
      Completes (.completionRecordWrite n) s fun t =>
        (t.dc.ring n.val).due = rest ∧ (t.dc.ring n.val).writing = g.writing ++ [r]
        ∧ (t.dc.ring n.val).ctail = (g.ctail + 1) % 2 ^ 32
        ∧ ((s.eccOn = false ∨ decodeLine (s.mem.line (a / 64 * 64)) (s.delta a) = .ok) →
            leNat (t.mem.read a 32) = recordBits r g.ctail g.size s.dt)
        ∧ (∀ b, (b < a / 64 * 64 ∨ a / 64 * 64 + 64 ≤ b) → t.mem.byte b = s.mem.byte b))
    ∧ (∀ r rest, g.writing = r :: rest → (s.hi.accs.any fun a => a.owner == .ring n.val) = false →
      Completes (.completionRecordWritten n) s fun t =>
        (t.dc.ring n.val).writing = rest
        ∧ (r.irq = false → r.status = 0 → bits g.cfg 8 7 = 0 → (t.dc.ring n.val).unsig = g.unsig + 1)
        ∧ (r.irq = true → (t.dc.ring n.val).unsig = 0) ∧ Only [.dc, .hi] s t)
    ∧ (bits g.cfg 0 8 ≠ 0 → g.unsig ≠ 0 → g.oldest + 1000 * bits g.cfg 0 8 ≤ s.clk →
      exec (.coalesceTimeout n) s
        = .next (signalVec (s.setRing n.val { g with unsig := 0 }) (bits g.cfg 16 6)))
    ∧ (∀ v, Completes (.hiIntMaskWrite v) s fun t =>
        t.rd rHiIntMask = v
        ∧ (s.mainbandUp = true → ∀ k, k < 64 → bitAt t.hi.pend k = (bitAt s.hi.pend k && bitAt v k))
        ∧ OnlyRegs [rHiIntMask] s t ∧ Only [.regs, .hi] s t)

/-- With the device awake, on an open path that serves the register and with no data-window write waiting,
REGWR of 8 bytes (and REGISTER_WRITE of the MP) to a register of the ERR or SST block gives it the value
that its RW and W1C bits allow and changes nothing else; REGRD answers the value with no other change; a
path that does not serve the register answers an error with zeros; a closed path changes nothing; DBELL
acts as DC_RING_TAIL_WRITE of its ring. (R16, R48, R336, R339, R340, R42) -/
def Obligations.RegisterAccessesComplete : Prop :=
  (∀ (s : State) (path : Path) (off : BitVec 26) (v : W64) (d : RegDef), Awake s → (∀ n, n < 4 → (s.dp n).wbuf = []) →
      pathOpen s path = true →
      regServed s path off.toNat true = true → 0x60000 ≤ off.toNat → off.toNat < 0x80000 →
      regDef off.toNat = some d →
      let p := fun t => t.rd off.toNat = d.apply (s.rd off.toNat) (if d.wide then v else v &&& 0xFFFFFFFF)
        ∧ OnlyRegs [off.toNat] s t ∧ Only [.regs] s t
      Completes (.regwr path off true v) s p ∧ (path = .mp → Completes (.registerWrite off true v) s p))
    ∧ (∀ (s : State) (path : Path) (off : BitVec 26), Awake s → pathOpen s path = true →
      regServed s path off.toNat true = true → 0x60000 ≤ off.toNat → off.toNat < 0x68000 →
      (∀ n, n < 4 → (s.dp n).wbuf = []) →
      Completes (.regrd path off true) s fun t =>
        t.hi.resp = some ⟨path, true, leBytes (s.rd off.toNat).toNat 8⟩ ∧ OnlyRegs [] s t ∧ Only [.hi] s t)
    ∧ (∀ (s : State) (path : Path) (off : BitVec 26) (wide : Bool), Awake s → pathOpen s path = true →
      tapHidden path off.toNat = false → regServed s path off.toNat wide = false →
      Completes (.regrd path off wide) s fun t =>
        t.hi.resp = some ⟨path, false, leBytes 0 (if wide then 8 else 4)⟩ ∧ Only [.hi, .regs] s t)
    ∧ (∀ (s : State) (path : Path) (off : BitVec 26) (wide : Bool) (v : W64), pathOpen s path = false →
      exec (.regrd path off wide) s = .next s ∧ exec (.regwr path off wide v) s = .next s)
    ∧ (∀ (s : State) (path : Path) (n : Fin 256) (tail : W32), Awake s →
      (∀ m, m < 4 → (s.dp m).wbuf = []) → pathOpen s path = true →
      regServed s path (0x24010 + 0x40 * n.val) false = true → tapHidden path (0x24010 + 0x40 * n.val) = false →
      partTesting s 142 = false → s.clocksRun = true →
      exec (.dbell path (BitVec.ofNat 8 n.val) tail) s = exec (.dcRingTailWrite n tail) s
      ∧ Completes (.dbell path (BitVec.ofNat 8 n.val) tail) s fun t =>
        (∀ m, m ≠ n.val → t.dc.ring m = s.dc.ring m) ∧ Only [.dc] s t)

/-- With the device awake, on a mainband after start and with no data-window write waiting, MEMWR of well-
formed bytes within one DRAM line that is valid makes exactly those bytes read as the data; MEMRD of a
range whose lines are service-core SRAM answers its bytes and changes only the answer; MEMRD of a range
that is not mapped and is no data window answers an error with zeros, and MEMWR of one stores nothing.
(R42, R336, R339, R363) -/
def Obligations.MemoryTransactionsComplete : Prop :=
  ∀ (s : State) (path : Path) (addr : BitVec 48), Awake s → memPath path = true → pathOpen s path = true →
    s.ready = true → (∀ n, n < 4 → (s.dp n).wbuf = []) →
    (∀ data : List Byte, memForm addr.toNat data.length = true → regionOf s (addr.toNat / 64 * 64) = .dram →
      regionOf s addr.toNat = .dram →
      addr.toNat % 64 + data.length ≤ 64 →
      (s.eccOn = false ∨ decodeLine (s.mem.line (addr.toNat / 64 * 64)) (s.delta addr.toNat) = .ok) →
      Completes (.memwr path addr data) s fun t => ∀ b, t.mem.byte b =
        if addr.toNat ≤ b ∧ b < addr.toNat + data.length then data.getD (b - addr.toNat) 0 else s.mem.byte b)
    ∧ (∀ len, memForm addr.toNat len = true → memWindow s addr.toNat len = none →
      (∀ j, j < linesOf addr.toNat len →
        ∃ c o, regionOf s (addr.toNat / 64 * 64 + 64 * j) = .scSram c o) →
      Completes (.memrd path addr len) s fun t =>
        t.hi.resp = some ⟨path, true, s.mem.read addr.toNat len⟩ ∧ OnlyRegs [] s t ∧ Only [.hi] s t)
    ∧ (∀ len, memForm addr.toNat len = true → memWindow s addr.toNat len = none →
      rangeMapped s addr.toNat len = false →
      Completes (.memrd path addr len) s fun t =>
        t.hi.resp = some ⟨path, false, List.replicate len 0⟩ ∧ t.bit rHiErr 31 = true ∧ Only [.hi, .regs] s t)
    ∧ (∀ data : List Byte, memForm addr.toNat data.length = true →
      memWindow s addr.toNat data.length = none → rangeMapped s addr.toNat data.length = false →
      Completes (.memwr path addr data) s fun t => t.bit rHiErr 31 = true ∧ Only [.regs] s t)

/-- With the device awake, on a path a data port serves and with no write of another window waiting:
DP_LOCK_WRITE of a free port with a non-zero owner records owner and path, DP_LOCK_RELEASE by both
clears them; DP_ADDR_WRITE sets the 8-byte aligned address and drops prefetched data; DP_DATA_WRITE
within one bucket at a mapped address queues its bytes and advances the address; DP_DATA_READ of
prefetched bytes returns them and advances; an access from another path while locked is discarded, read
as zeros, and sets INTRUDE; DATA_PORT_BUCKET_COMPLETE takes the oldest bucket of the write buffer,
without one reads the next bucket of a prefetch, and with nothing to do changes nothing. (R343, R344,
R345) -/
def Obligations.DataPortsComplete : Prop :=
  ∀ (s : State) (path : Path) (n : Fin 4), s.clocksRun = true → Awake s → dpServed s path = true →
    (∀ m, m < 4 → m ≠ n.val → (s.dp m).wbuf = []) →
    let d := s.dp n.val
    let others := fun (t : State) => (∀ m, m ≠ n.val → t.dp m = s.dp m) ∧ Only [.dps] s t
    (∀ owner : BitVec 16, d.wbuf = [] → d.owner = 0 → owner ≠ 0 → Completes (.dpLockWrite path n owner) s fun t =>
        t.dp n.val = { d with owner := owner.toNat, path := some path } ∧ others t)
    ∧ (∀ owner : BitVec 16, d.wbuf = [] → d.owner = owner.toNat → d.path = some path →
        Completes (.dpLockRelease path n owner) s fun t =>
          t.dp n.val = { d with owner := 0, path := none } ∧ others t)
    ∧ (∀ a : BitVec 48, d.wbuf = [] → d.shut path = false → Completes (.dpAddrWrite path n a) s fun t =>
        t.dp n.val = { d with addr := a.toNat / 8 * 8, pref := [] } ∧ others t)
    ∧ (∀ data : List Byte, data ≠ [] → data.length % 8 = 0 → d.shut path = false → d.dir = false →
        d.err = false → d.addr % 64 + data.length ≤ 64 → d.addr < 2 ^ 48 → dpPlace s d.addr ≠ .unmapped →
        Completes (.dpDataWrite path n data) s fun t =>
          t.dp n.val = { d with addr := (d.addr + data.length) % 2 ^ 48, wbuf := d.wbuf ++ [(d.addr, data)] }
          ∧ others t)
    ∧ (∀ len, len % 8 = 0 → d.shut path = false → d.dir = true → d.err = false → dpPlace s d.addr = .memory →
        len ≤ d.pref.length → d.wbuf = [] →
        Completes (.dpDataRead path n len) s fun t =>
          t.hi.resp = some ⟨path, true, d.pref.take len⟩
          ∧ t.dp n.val = { d with addr := (d.addr + len) % 2 ^ 48, pref := d.pref.drop len }
          ∧ (∀ m, m ≠ n.val → t.dp m = s.dp m) ∧ Only [.dps, .hi] s t)
    ∧ (d.shut path = true → d.wbuf = [] →
        (∀ a, Completes (.dpAddrWrite path n a) s fun t => t.dp n.val = { d with intrude := true } ∧ others t)
        ∧ (∀ data, data.length % 8 = 0 → Completes (.dpDataWrite path n data) s fun t =>
            t.dp n.val = { d with intrude := true } ∧ others t)
        ∧ (∀ len, len % 8 = 0 → Completes (.dpDataRead path n len) s fun t =>
            t.dp n.val = { d with intrude := true } ∧ t.hi.resp = some ⟨path, true, List.replicate len 0⟩
            ∧ Only [.dps, .hi] s t))
    ∧ (d.wbuf = [] → d.dir = false → exec (.dataPortBucketComplete n) s = .next s)
    ∧ (d.wbuf = [] → d.dir = true → d.err = false → d.pref.length + 64 ≤ 4096 →
        regionOf s (d.addr + d.pref.length) = .dram → dpPlace s (d.addr + d.pref.length) = .memory →
        (dramRead s (d.addr + d.pref.length)).2.1 = false →
        let l := (lineBytes (dramRead s (d.addr + d.pref.length)).1).drop ((d.addr + d.pref.length) % 64)
        Completes (.dataPortBucketComplete n) s fun t => t.dp n.val = { d with pref := d.pref ++ l }
          ∧ (∀ m, m ≠ n.val → t.dp m = s.dp m) ∧ (∀ b, t.mem.byte b = s.mem.byte b))
    ∧ (∀ a bs r, d.wbuf = (a, bs) :: r →
        exec (.dataPortBucketComplete n) s = .next (dpBucket (s.setDp n.val { d with wbuf := r }) n.val a bs))

/-- HRD_COMPLETION and HWR_COMPLETION of an access issued on a module take it off the list; UCIE_MODULE_DOWN
moves the accesses of the module to the other one where it is up and else holds them from now;
UCIE_MODULE_TRAINED of a fitted module makes it up at its rate and issues the held accesses on it;
HOST_ACCESS_TIMEOUT of an access held 10 ms with no mainband ends it, but one of a ring waits on.
Accesses keep their order. (R336, R337, R338) -/
def Obligations.HostAccessesComplete : Prop :=
  ∀ (s : State), s.clocksRun = true →
    (∀ id a data err, accOf s id = some a → a.module.isSome = true → a.wr = false →
      Completes (.hrdCompletion id data err) s fun t =>
        t.hi.accs = s.hi.accs.filter (fun b => b.id != id)
        ∧ (err = true → t.bit rHiErr 31 = true ∧ t.fld rHiErr 28 3 = 1))
    ∧ (∀ id a err, accOf s id = some a → a.module.isSome = true → a.wr = true → (∀ p c, a.owner ≠ .pump p c) →
      Completes (.hwrCompletion id err) s fun t => t.hi.accs = s.hi.accs.filter (fun b => b.id != id))
    ∧ (∀ m : Fin 2, moduleUp s m.val = true → moduleUp s (1 - m.val) = true →
      Completes (.ucieModuleDown m) s fun t =>
        moduleUp t m.val = false ∧ moduleUp t (1 - m.val) = true
        ∧ t.hi.accs = s.hi.accs.map (fun a =>
            if a.module = some m.val then { a with module := some (1 - m.val) } else a) ∧ Only [.hi, .pmu] s t)
    ∧ (∀ m : Fin 2, moduleUp s m.val = true → moduleUp s (1 - m.val) = false →
      Completes (.ucieModuleDown m) s fun t =>
        t.mainbandUp = false ∧ t.hi.accs = s.hi.accs.map (fun a =>
            if a.module = some m.val then { a with module := none, since := s.clk } else a) ∧ Only [.hi] s t)
    ∧ (∀ (m : Fin 2) (rate : BitVec 3), s.hasUcie m.val = true → rate.toNat ≤ 5 →
      Completes (.ucieModuleTrained m rate) s fun t =>
        moduleUp t m.val = true ∧ (if m.val = 0 then t.hi.rate0 else t.hi.rate1) = rate.toNat
        ∧ t.hi.accs = s.hi.accs.map (fun a => if a.module = none then { a with module := some m.val } else a)
        ∧ (∀ k, k < 64 → bitAt t.hi.pend k = (bitAt s.hi.pend k && s.bit rHiIntMask k)) ∧ Only [.hi, .pmu] s t)
    ∧ (∀ id a, accOf s id = some a → a.module = none → a.since + 10000000 ≤ s.clk → s.mainbandUp = false →
      ((∀ n, a.owner ≠ .ring n) → Completes (.hostAccessTimeout id) s fun t =>
        t.hi.timedOut = true ∧ (a.wr = false → t.hi.accs = s.hi.accs.filter fun b => b.id != id))
      ∧ ((∃ n, a.owner = .ring n) → exec (.hostAccessTimeout id) s = .next s))

/-- While the device is awake, MAILBOX_DOORBELL of a channel that is not queued appends its eight words to
the queue and sets QUEUED if the start has finished and fewer than 16 wait, else sets BUSY; of a queued
channel it changes nothing. MB_RSTAT_READ answers the state and returns DONE and BUSY to idle.
MAILBOX_RESPONSE, with no error event waiting, of a head request that has its answer writes STATUS, TAG
and LEN and the payload, sets DONE and takes the request off the queue; a request of an unknown command
gets DESC_INVALID. (R341, R342, R363, R432, R433, R436) -/
def Obligations.MailboxRequestsAreQueuedAndAnswered : Prop :=
  ∀ (s : State), s.powerUp = true → Awake s →
    (∀ ch, s.hasChan ch = true →
      let b := s.mbox (mbKey ch)
      let others := fun (t : State) => ∀ k, k ≠ mbKey ch → t.mbox k = s.mbox k
      (s.ready = true → b.st ≠ .queued → s.mp.queue.length < 16 → Completes (.mailboxDoorbell ch) s fun t =>
          (t.mbox (mbKey ch)) = { b with st := .queued } ∧ t.mp.queue = s.mp.queue ++ [⟨mbKey ch, b.words⟩]
          ∧ t.fld rHiMpStatus 15 5 = s.mp.queue.length + 1 ∧ others t ∧ Only [.hi, .mp, .regs] s t)
      ∧ ((s.ready = false ∨ (b.st ≠ .queued ∧ 16 ≤ s.mp.queue.length)) →
          Completes (.mailboxDoorbell ch) s fun t =>
            t.mbox (mbKey ch) = { b with st := .busy } ∧ others t ∧ Only [.hi] s t)
      ∧ (s.ready = true → b.st = .queued → exec (.mailboxDoorbell ch) s = .next s)
      ∧ Completes (.mbRstatRead ch) s fun t =>
          t.hi.resp = some ⟨chanPath ch, true, leBytes b.st.code 4⟩
          ∧ (t.mbox (mbKey ch)).st = (if b.st = .queued then .queued else .idle) ∧ others t ∧ Only [.hi] s t)
    ∧ (∀ q rest, s.mp.queue = q :: rest →
      let head := fun (st len : Nat) => BitVec.ofNat 64 (st + bits (q.words.getD 0 0) 16 16 <<< 16 + len <<< 32)
      (∀ st pl, s.mpTurn 2 = true → s.mp.answer = some (st, pl) → Completes .mailboxResponse s fun t =>
        t.mp.queue = rest ∧ t.mp.answer = none ∧ (t.mbox q.chan).st = .done
        ∧ (t.mbox q.chan).rspWord 0 = head st (Nat.min 7 pl.length)
        ∧ (∀ i, 1 ≤ i → i < 8 → (t.mbox q.chan).rspWord i = pl.getD (i - 1) 0)
        ∧ (∀ k, k ≠ q.chan → t.mbox k = s.mbox k) ∧ Only [.hi, .mp, .regs] s t)
      ∧ (s.mp.answer = none → s.mpTurn 2 = true → s.clocksRun = true →
        [0x01, 0x02, 0x03, 0x10, 0x11, 0x12, 0x20, 0x30, 0x40].contains (bits (q.words.getD 0 0) 0 16) = false →
        Completes .mailboxResponse s fun t =>
          t.mp.queue = rest ∧ (t.mbox q.chan).st = .done ∧ (t.mbox q.chan).rspWord 0 = head stDescInvalid 0))

/-- With the MP running: SET_CAP sets the cap in watts, within 40 to 300, and its enable; SET_MODE not
already begun sets the requested mode; SET_LATTOL of an awake device sets the tolerance; TELEMETRY and
LOG_READ leave their answer for a head request that asks for them, the latter the four words of the
entry; MEMBERSHIP_JOIN of a lone device with links takes its id and topology and is JOINING;
MEMBERSHIP_LEAVE of a member advances its state number and is LEAVING. Membership in another state
leaves the links as they were. (R342, R391, R392, R456, R464, R473) -/
def Obligations.ManagementCommandsComplete : Prop :=
  ∀ (s : State), s.clocksRun = true → s.mp.restarting = false →
    (∀ w : BitVec 9, Completes (.setCap w) s fun t =>
        t.fld rPwrCap 0 9 = min 300 (max 40 w.toNat) ∧ t.bit rPwrCap 31 = true ∧ OnlyRegs [rPwrCap, rPwrStatus] s t
        ∧ Only [.regs, .pwr, .mp] s t)
    ∧ (∀ m : BitVec 2, (mpAsked s 0x10 && s.mp.begun) = false → Completes (.setMode m) s fun t =>
        t.fld rPwrMode 30 2 = m.toNat ∧ OnlyRegs [rPwrMode] s t ∧ Only [.regs, .pwr, .mp] s t)
    ∧ (∀ us, Awake s → Completes (.setLattol us) s fun t =>
        t.fld rPwrLattol 0 32 = us.toNat ∧ OnlyRegs [rPwrLattol] s t ∧ Only [.regs, .mp] s t)
    ∧ (∀ sel, mpAsked s 0x20 = true → Completes (.telemetry sel) s fun t =>
        (∃ l, t.mp.answer = some (0, l) ∧ l.length = 7) ∧ Only [.mp] s t)
    ∧ (∀ n, mpAsked s 0x30 = true → Completes (.logRead n) s fun t =>
        t.mp.answer = some (0, (List.range 4).map fun j =>
          SMap.get (fun _ => 0) s.err.log (4 * (n.toNat % 1024) + j)) ∧ Only [.mp] s t)
    ∧ (∀ id topo, dstate s = 0 → s.fld rCapUnits 16 6 ≠ 0 → Completes (.membershipJoin id topo) s fun t =>
        t.fld rLkId 0 10 = id.toNat ∧ t.lk.topo = some topo ∧ dstate t = 1)
    ∧ (∀ id topo, dstate s ≠ 0 → Completes (.membershipJoin id topo) s fun t => Only [.mp] s t)
    ∧ (dstate s = 2 → Completes .membershipLeave s fun t =>
        dstate t = 3 ∧ t.lk.ownSeq = s.lk.ownSeq + 1 ∧ ∀ a, t.mem.byte a = s.mem.byte a)
    ∧ (dstate s ≠ 2 → Completes .membershipLeave s fun t => Only [.mp] s t)

/-- With the MP running: LOAD whose checks and commits answer a status leaves that answer; at status zero
some pipeline is resident with the base, mapping and task area of the command. UNLOAD of a resident
pipeline with admission off, nothing in flight and no engine at work makes it not resident, disables it
in the DC and frees its wells; other pipelines keep their images, and with no word waiting at a side
port memory keeps every byte. RELOAD of a resident pipeline with nothing in flight writes and commits
its contexts again, segments 0 to 3 held; SEGMENT_CONTEXT_LOAD of the segment that is due, once R182
allows, unloads the context of the segment four places before it in every well, writes and commits the
sections of the segment, and holds it. Other images stay. (R289, R321, R322, R332, R333, R342) -/
def Obligations.ImagesAreLoadedUnloadedAndReloaded : Prop :=
  ∀ (s : State), s.clocksRun = true → s.mp.restarting = false →
    (∀ base (p0 : WellIx) reversed task st pl u, imageLoad s base p0.val reversed task = some (st, pl, u) →
      Completes (.load base p0 reversed task) s fun t =>
        t = mpDone u 1 st pl
        ∧ (mpAsked u 1 = true → t.mp.answer = some (st, pl))
        ∧ (pl = [] → ∃ h, let i := t.mp.image h
            i.resident = true ∧ i.base = base ∧ i.p0 = p0.val ∧ i.reversed = reversed ∧ i.task = task))
    ∧ (∀ p : PipeIx, enginesBusy s p.val = false → unloadable s p.val = true →
      Completes (.unload p) s fun t =>
        (t.mp.image p.val).resident = false ∧ (t.dc.pipe p.val).en = false
        ∧ (∀ w, w ∈ (s.mp.image p.val).wells → s.hasWell w = true → t.pipeOf w = none)
        ∧ (∀ q, q ≠ p.val → t.mp.image q = s.mp.image q ∧ t.dc.pipe q = s.dc.pipe q)
        ∧ Only [.wells, .regs, .dc, .mp, .pmu, .hi, .freeCtr, .mem, .ecc, .err, .mcs] s t
        ∧ ((∀ w, w ∈ (s.mp.image p.val).wells → (s.well w).retry = []) → ∀ b, t.mem.byte b = s.mem.byte b))
    ∧ (∀ p : PipeIx, enginesBusy s p.val = false → unloadable s p.val = false →
      exec (.unload p) s = .next (mpDone s 2 stCtxInvalid []))
    ∧ (∀ p : PipeIx, enginesBusy s p.val = false → (s.mp.image p.val).resident = true →
      (s.dc.pipe p.val).flight = [] → Completes (.reload p) s fun t =>
        let z := imageReload s p.val
        t = mpDone z.2.2 3 z.1 (if z.1 = 0 then [] else [placeWord z.2.1 0xFF 0xFF])
        ∧ (t.mp.image p.val) = { s.mp.image p.val with held := [0, 1, 2, 3] }
        ∧ ∀ q, q ≠ p.val → t.mp.image q = s.mp.image q)
    ∧ (∀ (p : PipeIx) (seg : Fin 16),
      let i := s.mp.image p.val
      let m := correctedMem s
      let q := planAt m i.base.toNat
      let x := seg.val % 4
      let gone := (i.wells.filter fun w => (s.well w).ctxState x == .committed).map fun w => (w, x)
      let u := unloadAll (mpReads s i.base.toNat q.bytes) gone
      let z := segsInto { u with mp := s.mp.setImage p.val { i with held := i.held.set x seg.val } } m q
        (q.run m i.p0 i.reversed) i ((q.pieces i.p0 i.reversed).filter fun c => c.2 == seg.val)
      i.resident = true → 4 < q.nsegs → seg.val < q.nsegs → enginesBusy s p.val = false →
      segDue q.nsegs (s.well (i.wells.headD 0)).seg (i.held.getD x x) seg.val = true →
      ctxFree s i.wells x = true →
      Completes (.segmentContextLoad p seg) s fun t =>
        t = (if z.1 = 0 then z.2.2 else pipeFault z.2.2 p.val (mkFault z.1 0xA z.2.1))
        ∧ t.mp.image p.val = { i with held := i.held.set x seg.val }
        ∧ ∀ h, h ≠ p.val → t.mp.image h = s.mp.image h)

/-- TASK_FAULT_REPORT writes an entry of task scope and sets the abort bit and first status of a task in
flight, and of no other; DEVICE_FAULT writes one of device scope and sets DEVFAULT with the code of the
first; PIPELINE_RESET of a pipeline already in reset writes its entry only, else takes every task in
flight that has no record and starts the reset; PIPELINE_RELOAD once the flushed streams have ended and
the MP has no error event waiting loads the image again and ends the reset if that succeeds. (R479,
R480, R481, R483, R487, R488, R489) -/
def Obligations.FaultsAreReportedByScope : Prop :=
  ∀ (s : State), s.clocksRun = true →
    (∀ (n : Fin 1024) f, Completes (.taskFaultReport n f) s fun t =>
        Logged s t f 1 (some n.val) (s.taskPipe n.val)
        ∧ ((s.dc.task n.val).desc.dw ≠ [] → (t.dc.task n.val).abort = true
            ∧ (t.dc.task n.val).status = some ((s.dc.task n.val).status.getD f.status.toNat))
        ∧ (∀ m, m ≠ n.val → t.dc.task m = s.dc.task m) ∧ Only (.dc :: logParts) s t)
    ∧ (∀ f, Completes (.deviceFault f) s fun t =>
        Logged s t f 3 none none ∧ t.bit rErrStatus 31 = true
        ∧ (s.bit rErrStatus 31 = false → t.fld rErrStatus 16 8 = f.status.toNat)
        ∧ (s.bit rErrStatus 31 = true → t.fld rErrStatus 16 8 = s.fld rErrStatus 16 8) ∧ Only logParts s t)
    ∧ (∀ (p : PipeIx) f, s.pipeWells p.val ≠ [] → s.err.resetting.contains p.val = true →
      Completes (.pipelineReset p f) s fun t =>
        Logged s t f 2 none (some p.val) ∧ t.err.resetting = s.err.resetting ∧ Only logParts s t)
    ∧ (∀ (p : PipeIx) f, s.pipeWells p.val ≠ [] → s.err.resetting.contains p.val = false →
      dcRuns s = true → Completes (.pipelineReset p f) s fun t =>
        t.err.resetting.contains p.val = true
        ∧ (∀ k, k ∈ (t.dc.pipe p.val).flight → (s.dc.task k).ended = true)
        ∧ (∀ q, q ≠ p.val → t.dc.pipe q = s.dc.pipe q))
    ∧ (∀ p : PipeIx, s.err.resetting.contains p.val = true → dcRuns s = true → s.mpTurn 2 = true →
      (s.strs.all fun e => !(e.2.st == .cancelling && e.2.fill == some stAborted)) = true →
      enginesBusy s p.val = false →
      let z := imageReload s p.val
      (z.1 = 0 → Completes (.pipelineReload p) s fun t =>
          t.err.resetting = z.2.2.err.resetting.erase p.val ∧ t.wells = (pipeStart z.2.2 p.val).wells)
      ∧ (z.1 ≠ 0 → exec (.pipelineReload p) s = .next (logOnly z.2.2 (mkFault z.1 0xA p.val))))

/-- LINK_ENABLE with EN of a fitted port that is DOWN starts its training, and without EN takes a port DOWN;
LINK_TRAINED with all eight lanes, or either half with ALLOW_X4, makes it UP and at any other width
DOWN; LINK_TRAIN_RETRY of an enabled port that is DOWN trains it again. A port that carries flits takes
the expected data flit (stated of an awake device) and else names it in a NAK and keeps what it has; an
uncorrectable codeword is counted and answered with a NAK, a corrected one counted; an idle flit only
acknowledges, a NAK flit acts as NAK_RECEIVE after its acknowledgement, and a credit flit adds up to 64
slots of credit where no packet waits. NAK_RECEIVE resends from the named flit and the sixteenth in a
row takes the port DOWN; LINK_ACK_TIMEOUT after 20 us and LINK_LOCK_LOSS take it DOWN with a LINK_DOWN
entry, an empty retry buffer and the received packets kept. PACKET_FORWARD takes the packet from the
input buffer with its hop credit sent back, and leaves it to this device, sends it through the routed
port with its VC, or counts it as dropped. (R381, R382, R383, R384, R385, R386, R387, R388) -/
def Obligations.LinkPortsTrainReceiveAndGoDown : Prop :=
  ∀ (s : State) (n : Fin 6), s.clocksRun = true → s.hasLink n.val = true →
    let x := s.port n.val
    (∀ v : W32, bitAt (v.setWidth 64) 31 = true → portState s n.val = lkDown →
      Completes (.linkEnable n v) s fun t => portState t n.val = lkTraining
        ∧ t.bit (rLkCfg n.val) 31 = true ∧ OnlyRegs [rLkCfg n.val, rLkStatus n.val] s t ∧ Only [.regs] s t)
    ∧ (∀ v : W32, bitAt (v.setWidth 64) 31 = false → portState s n.val ≠ lkDown →
      Completes (.linkEnable n v) s fun t => portState t n.val = lkDown
        ∧ t.bit (rLkCfg n.val) 31 = false ∧ (t.port n.val).retry = [])
    ∧ (s.bit (rLkCfg n.val) 31 = true → portState s n.val = lkTraining →
      (Completes (.linkTrained n 0xFF) s fun t => portState t n.val = lkUp
          ∧ t.fld (rLkStatus n.val) 20 8 = 0xFF ∧ t.bit (rLkStatus n.val) 28 = false
          ∧ (dstate s = 0 → (t.port n.val).txSeq = 0 ∧ (t.port n.val).rxExp = 0 ∧ (t.port n.val).retry = []
              ∧ (t.port n.val).credit0 = 64 ∧ (t.port n.val).credit1 = 64))
      ∧ (∀ lanes, lanes = 0x0F ∨ lanes = 0xF0 →
          (s.bit (rLkCfg n.val) 27 = true → Completes (.linkTrained n lanes) s fun t =>
            portState t n.val = lkUp ∧ t.fld (rLkStatus n.val) 20 8 = lanes.toNat ∧ t.bit (rLkStatus n.val) 28 = true)
          ∧ (s.bit (rLkCfg n.val) 27 = false → Completes (.linkTrained n lanes) s fun t =>
            portState t n.val = lkDown ∧ OnlyRegs [rLkStatus n.val] s t ∧ Only [.regs] s t))
      ∧ (∀ lanes, lanes ≠ 0xFF → lanes ≠ 0x0F → lanes ≠ 0xF0 → Completes (.linkTrained n lanes) s fun t =>
          portState t n.val = lkDown ∧ OnlyRegs [rLkStatus n.val] s t ∧ Only [.regs] s t))
    ∧ (s.bit (rLkCfg n.val) 31 = true → portState s n.val = lkDown → Completes (.linkTrainRetry n) s fun t =>
        portState t n.val = lkTraining ∧ OnlyRegs [rLkStatus n.val] s t ∧ Only [.regs] s t)
    ∧ (portLive s n.val = true →
      (∀ f : Flit, f.uncorrectable = true → Completes (.flitReceive n f) s fun t =>
          t.fld (rLkFec n.val) 0 32 = Nat.min (s.fld (rLkFec n.val) 0 32 + 1) (2 ^ 32 - 1)
          ∧ t.port n.val = { x with
            nakSent := true, wire := x.wire ++ [flitBits 2 0 x.rxAck [BitVec.ofNat 512 x.rxExp]] }
          ∧ OnlyRegs [rLkFec n.val] s t ∧ Only [.regs, .lk] s t)
      ∧ (∀ f : Flit, f.uncorrectable = false → f.corrected = true → Awake s →
          Completes (.flitReceive n f) s fun t =>
            t.fld (rLkFec n.val) 32 32 = Nat.min (s.fld (rLkFec n.val) 32 32 + 1) (2 ^ 32 - 1))
      ∧ (∀ f : Flit, f.uncorrectable = false → f.kind = 0 → f.seq.toNat = x.rxExp → Awake s →
          Completes (.flitReceive n f) s fun t =>
            (t.port n.val).rxExp = (x.rxExp + 1) % 512 ∧ (t.port n.val).rxAck = x.rxExp
            ∧ (t.port n.val).nakSent = false
            ∧ (t.port n.val).rx = x.rx
                ++ (parsePackets (x.rxSlots.length + f.slots.length) (x.rxSlots ++ f.slots)).1)
      ∧ (∀ f : Flit, f.uncorrectable = false → f.kind = 0 → f.seq.toNat ≠ x.rxExp →
          Completes (.flitReceive n f) s fun t =>
            (t.port n.val).rxExp = x.rxExp ∧ (t.port n.val).rx = x.rx ∧ (t.port n.val).nakSent = true)
      ∧ (∀ f : Flit, f.uncorrectable = false → f.corrected = false → f.kind = 1 →
          exec (.flitReceive n f) s = .next (ackTo s n.val f.ack.toNat))
      ∧ (∀ f : Flit, f.uncorrectable = false → f.corrected = false → f.kind = 2 →
          exec (.flitReceive n f) s
            = exec (.nakReceive n (BitVec.ofNat 9 (bits (f.slots.headD 0) 0 9))) (ackTo s n.val f.ack.toNat))
      ∧ (∀ f : Flit, f.uncorrectable = false → f.kind = 3 → x.txq = [] → Completes (.flitReceive n f) s fun t =>
          (t.port n.val).credit0 = Nat.min 64 (x.credit0 + bits (f.slots.headD 0) 0 7)
          ∧ (t.port n.val).credit1 = Nat.min 64 (x.credit1 + bits (f.slots.headD 0) 8 7)
          ∧ (t.port n.val).rx = x.rx)
      ∧ (∀ seq : BitVec 9,
          let run := if x.nakSeq = seq.toNat ∧ x.nakRun ≠ 0 then x.nakRun + 1 else 1
          Completes (.nakReceive n seq) s fun t =>
            (t.port n.val).nakSeq = seq.toNat ∧ (t.port n.val).nakRun = run
            ∧ (run < 16 → (t.port n.val).retry = x.retry ∧ portState t n.val = portState s n.val
              ∧ ∀ i, (x.retry.findIdx? fun e => e.1 == seq.toNat) = some i → (t.port n.val).wire
                = x.wire ++ (x.retry.drop i).map fun e => flitBits 0 e.1 x.rxAck e.2)
            ∧ (16 ≤ run → (t.port n.val).retry = [] ∧ portState t n.val = lkDown))
      ∧ (x.retry ≠ [] → x.ackDt + 20000 ≤ s.clk → Completes (.linkAckTimeout n) s fun t =>
          portState t n.val = lkDown ∧ (t.port n.val).retry = [] ∧ (t.port n.val).rx = x.rx
          ∧ Logged s t (mkFault stLinkDown 6 n.val) 0 none none)
      ∧ (Completes (.linkLockLoss n) s fun t =>
          portState t n.val = lkDown ∧ (t.port n.val).retry = [] ∧ (t.port n.val).rx = x.rx
          ∧ Logged s t (mkFault stLinkDown 6 n.val) 0 none none)
      ∧ (∀ pk rest, x.rx = pk :: rest → 1 ≤ pk.kind.toNat → pk.kind.toNat ≤ 7 → portState s n.val ≠ lkIsolated →
          let n1 := 1 + pk.data.length
          let y := { x with rx := rest, wire := x.wire
            ++ [flitBits 3 0 x.rxAck [BitVec.ofNat 512 (if pk.vc then n1 <<< 8 else n1)]] }
          let r := routeTo s pk.dst.toNat
          let vc := if s.bit (rLkCfg r) 30 then true
            else if s.fld (rLkCfg r) 28 2 ≠ s.fld (rLkCfg n.val) 28 2 then false else pk.vc
          (r = 6 → Completes (.packetForward n pk) s fun t =>
            t.port n.val = y ∧ (∀ m, m ≠ n.val → t.port m = s.port m) ∧ Only [.lk] s t)
          ∧ (r < 6 → exec (.packetForward n pk) s
            = .next (sendPacket (s.setPort n.val y) r { pk with vc := vc }))
          ∧ (r = 7 → Completes (.packetForward n pk) s fun t =>
            t.port n.val = y
            ∧ t.fld (rLkStatus n.val) 0 16 = Nat.min (s.fld (rLkStatus n.val) 0 16 + 1) 65535
            ∧ OnlyRegs [rLkStatus n.val] s t ∧ Only [.lk, .regs] s t)))

/-- MEMB_HELLO attaches a port that is UP or ATTACHED, noting the peer, unless the id is the own id of this
device or that of a member with another serial, when it is isolated with an entry; MEMB_UPDATE stores an
update not seen before and makes its origin a member, or notes that it leaves, and drops one seen;
JOIN_ACK of a joining device with an attached port makes it a MEMBER; LEAVE_COMPLETE of a leaving
device, once peer streams are quiet and the MP has its turn, makes it ALONE with every port disabled and
DOWN; PEER_LOSS of a lost peer, when it is the turn of the MP, clears its bit. (R390, R391, R392, R393) -/
def Obligations.MembershipIsAgreedHopByHop : Prop :=
  ∀ (s : State), s.clocksRun = true →
    (∀ (n : Fin 6) (h : Hello), s.hasLink n.val = true →
      (portState s n.val = lkUp ∨ portState s n.val = lkAttached) →
      ((s.bit rLkId 31 = false ∨ h.id.toNat ≠ ownId s) →
        (isMember s h.id.toNat = false
          ∨ ∀ e, (s.lk.serials.find? fun e => e.1 == h.id.toNat) = some e → e.2 = h.serial) →
        Completes (.membHello n h) s fun t =>
          portState t n.val = lkAttached ∧ t.rd (rLkPeerSerial n.val) = h.serial
          ∧ t.rd (rLkPeer n.val) = BitVec.ofNat 64 (h.id.toNat * 64 + h.port.toNat)
          ∧ (dstate s = 0 →
            OnlyRegs [rLkStatus n.val, rLkPeer n.val, rLkPeerSerial n.val] s t ∧ Only [.regs] s t))
      ∧ ((s.bit rLkId 31 = true ∧ h.id.toNat = ownId s)
          ∨ (isMember s h.id.toNat = true
            ∧ ∃ e, (s.lk.serials.find? fun e => e.1 == h.id.toNat) = some e ∧ e.2 ≠ h.serial) →
        Completes (.membHello n h) s fun t =>
          portState t n.val = lkIsolated
          ∧ Logged s t (mkFault stLinkDown 6 n.val) 0 none none ∧ Only logParts s t))
    ∧ (∀ (n : Fin 6) (u : LinkState), portState s n.val = lkAttached → u.origin.toNat ≠ ownId s →
      ((∀ e, (s.lk.states.find? fun e => e.1 == u.origin.toNat) = some e → e.2.seq.toNat < u.seq.toNat) →
        Completes (.membUpdate n u) s fun t =>
          SMap.get (fun _ => ⟨0, 0, 0, [], false⟩) t.lk.states u.origin.toNat = u
          ∧ (u.leave = false → isMember t u.origin.toNat = true ∧ t.lk.left.contains u.origin.toNat = false)
          ∧ (u.leave = true → isMember t u.origin.toNat = isMember s u.origin.toNat
            ∧ t.lk.left.contains u.origin.toNat = true)
          ∧ ∀ i, i ≠ u.origin.toNat → i < 1024 → isMember t i = isMember s i)
      ∧ (∀ e, (s.lk.states.find? fun e => e.1 == u.origin.toNat) = some e → u.seq.toNat ≤ e.2.seq.toNat →
        exec (.membUpdate n u) s = .next s))
    ∧ (dstate s = 1 → (∃ n, n < 6 ∧ portState s n = lkAttached) → Completes .joinAck s fun t =>
        dstate t = 2 ∧ isMember t (ownId s) = true ∧ ownId t = ownId s)
    ∧ (dstate s = 3 → peersQuiet s = true → s.mpTurn 3 = true → Completes .leaveComplete s fun t =>
        dstate t = 0 ∧ isMember t (ownId s) = false
        ∧ ∀ n, n < 6 → portState t n = lkDown ∧ t.bit (rLkCfg n) 31 = false)
    ∧ (∀ id : BitVec 10, peerLost s id.toNat = true → s.mpTurn 3 = true → Completes (.peerLoss id) s fun t =>
        isMember t id.toNat = false ∧ t.lk.left.contains id.toNat = false)

/-- For a packet addressed to this device: STREAM_PACKET_ARRIVAL out of sequence frees its entry, in
sequence pushes its words, moves the sequence on or frees the entry at END, and sends a COMPL; without
room for its words it waits. CREDIT_REQUEST reserves up to 512 words of the open places of the queue for
an entry; CREDIT_REPLY adds the grant to the stream that asked. PWR_ARRIVAL writes its lines of the peer
window and PRD_ARRIVAL reads them, each answered with its status, and one that the window refuses stores
nothing. STERR_ARRIVAL frees the entry of its stream, and at the source the running stream that names
the queue stops. COMPL_ARRIVAL answers the write or the read that waits for it and changes nothing where
nobody waits. E2E_TIMEOUT with nothing late changes nothing and else stops the running stream and drops
its late packets; LINK_SCALE_WINDOW_END of a full window of a delayed-scaling stream moves its encoder
to the next window. (R95, R396, R397, R398, R400, R401, R402) -/
def Obligations.PeerPacketsAreTakenAndAnswered : Prop :=
  ∀ (s : State), s.clocksRun = true →
    (∀ pk, forHere s pk 1 = true → (s.ingress (ingressKey pk)).used = true →
      let e := s.ingress (ingressKey pk)
      (pkSeqNo pk ≠ e.seq → Completes (.streamPacketArrival pk) s fun t =>
          (t.ingress (ingressKey pk)).used = false ∧ ∀ k, k ≠ ingressKey pk → t.ingress k = s.ingress k)
      ∧ (∀ u, pkSeqNo pk = e.seq →
          ingressPush s (ingressKey pk) (decodeWords (Fmt.ofCode (bits pk.dw1 32 4)) (Fmt.ofCode (bits pk.dw1 36 4))
            (f32 (bits pk.dw2 0 32)) (bits pk.dw1 40 6 + 1) (slotBytes pk.data)) = some u →
          Completes (.streamPacketArrival pk) s fun t =>
            (if bitAt pk.dw1 46 then (t.ingress (ingressKey pk)).used = false
              else (t.ingress (ingressKey pk)).seq = (e.seq + 1) % 256)
            ∧ t = streamCompl (if bitAt pk.dw1 46 then ingressFree u (ingressKey pk)
              else u.setIngress (ingressKey pk)
                { u.ingress (ingressKey pk) with seq := (e.seq + 1) % 256 }) pk 0)
      ∧ (pkSeqNo pk = e.seq →
          ingressPush s (ingressKey pk) (decodeWords (Fmt.ofCode (bits pk.dw1 32 4)) (Fmt.ofCode (bits pk.dw1 36 4))
            (f32 (bits pk.dw2 0 32)) (bits pk.dw1 40 6 + 1) (slotBytes pk.data)) = none →
          exec (.streamPacketArrival pk) s = .next s))
    ∧ (∀ pk, forHere s pk 2 = true → bitAt pk.dw2 16 = true → creditMay s pk = true →
      (s.ingress (ingressKey pk)).used = true →
      let e := s.ingress (ingressKey pk)
      let g := Nat.min (512 - e.resv) (s.sq e.well e.entry).freeOpen
      Completes (.creditRequest pk) s fun t =>
        (t.ingress (ingressKey pk)).used = true ∧ (t.ingress (ingressKey pk)).resv = e.resv + g
        ∧ (t.sq e.well e.entry).resv = (s.sq e.well e.entry).resv + g
        ∧ ∀ k, k ≠ ingressKey pk → t.ingress k = s.ingress k)
    ∧ (∀ pk, forHere s pk 2 = true → bitAt pk.dw2 16 = false → (s.str (pkStrIdx pk)).asked = true →
      Completes (.creditReply pk) s fun t =>
        t.str (pkStrIdx pk) = { s.str (pkStrIdx pk) with
          credit := (s.str (pkStrIdx pk)).credit + bits pk.dw2 0 16, tte := bits pk.dw2 17 20, asked := false }
        ∧ (∀ i, i ≠ pkStrIdx pk → t.str i = s.str i) ∧ Only [.strs] s t)
    ∧ (∀ pk, forHere s pk 4 = true → pwrStatus s (pkWinOff pk / 64 * 64) pk.data.length ≠ 0 →
      Completes (.pwrArrival pk) s fun t => (∀ b, t.mem.byte b = s.mem.byte b) ∧ Only [.lk, .regs, .pmu, .hi] s t)
    ∧ (∀ pk, forHere s pk 4 = true → pwrStatus s (pkWinOff pk / 64 * 64) pk.data.length = 0 →
      exec (.pwrArrival pk) s = .next (sendOwn ((List.range pk.data.length).foldl (fun (u : State) j =>
          (peerWriteLine u (pkWinOff pk / 64 * 64 + 64 * j) (pk.data.getD j 0) (pwrMask pk j pk.data.length)).2) s)
        3 pk.src.toNat (pkReqTagNo pk) 0 []))
    ∧ (∀ pk, forHere s pk 5 = true →
      let r := prdLines s (pkWinOff pk / 64 * 64) (bits pk.dw2 0 5 + 1)
      Completes (.prdArrival pk) s fun t => (∀ b, t.mem.byte b = s.mem.byte b)
        ∧ t = sendOwn (sendOwn r.2.2 6 pk.src.toNat (pkReqTagNo pk + r.1 <<< 16) 0 (if r.1 = 0 then r.2.1 else []))
          3 pk.src.toNat (pkReqTagNo pk + r.1 <<< 32) 0 [])
    ∧ (∀ pk, forHere s pk 7 = true → (s.ingress (ingressKey pk)).used = true →
      (s.ingress (ingressKey pk)).well = pkQWell pk → (s.ingress (ingressKey pk)).entry = pkQEntry pk →
      Completes (.sterrArrival pk) s fun t => (t.ingress (ingressKey pk)).used = false)
    ∧ (∀ pk d, forHere s pk 7 = true → (s.str (pkStrIdx pk)).st = .running →
      ((s.str (pkStrIdx pk)).fetched.find? fun d => d.dkind == 2 && refPeer d.dest == pk.src.toNat
        && refWell d.dest == pkQWell pk && refEntry d.dest == pkQEntry pk) = some d →
      Completes (.sterrArrival pk) s fun t => (t.str (pkStrIdx pk)).st ≠ .running)
    ∧ (∀ pk, forHere s pk 3 = true → bitAt pk.dw1 40 = true → exec (.complArrival pk) s
      = .next (writeAnswer (sentGone s (pkStrIdx pk) (pkSeqNo pk)) (pkStrIdx pk)
          (.peerQueue (pkSeqNo pk) pk.src.toNat) (bits pk.dw1 32 8)))
    ∧ (∀ pk i, forHere s pk 3 = true → bitAt pk.dw1 40 = false → tagOwner s (bits pk.dw1 0 16) = some i →
      bits pk.dw1 32 8 = 0 → exec (.complArrival pk) s
        = .next (writeAnswer (sentGone s i (65536 + bits pk.dw1 0 16)) i (.peerMem (bits pk.dw1 0 16)) 0))
    ∧ (∀ pk, forHere s pk 3 = true → bitAt pk.dw1 40 = false → tagOwner s (bits pk.dw1 0 16) = none →
      exec (.complArrival pk) s = .next s)
    ∧ (∀ pk i, forHere s pk 6 = true → tagOwner s (bits pk.dw1 0 16) = some i → bits pk.dw1 16 8 = 0 →
      exec (.complArrival pk) s = .next (readAnswer s i (bits pk.dw1 0 16) pk.data.head? 0))
    ∧ (∀ (p : PumpIx) (c : StreamIx), lateKeys s (s.str (strIx p c)) = [] → exec (.e2eTimeout p c) s = .next s)
    ∧ (∀ (p : PumpIx) (c : StreamIx), lateKeys s (s.str (strIx p c)) ≠ [] → Completes (.e2eTimeout p c) s fun t =>
        (∀ q, q ∈ (t.str (strIx p c)).sent → (lateKeys s (s.str (strIx p c))).contains q.2 = false)
        ∧ ((s.str (strIx p c)).st = .running → (t.str (strIx p c)).st ≠ .running))
    ∧ (∀ (n : Fin 6) (p : PumpIx) (c : StreamIx),
      let i := strIx p c
      let x := s.str i
      let e := s.encoder i
      e.used = true → e.port = n.val → delayed x = true → windowW x ≤ e.blocks →
      Completes (.linkScaleWindowEnd n p c) s fun t =>
        t.encoder i = encoderWindow x (wireOf x) e ∧ (∀ j, j ≠ i → t.encoder j = s.encoder j) ∧ Only [.lk] s t)

/-- TBREF_LOSS moves to the internal oscillator with an entry and TBREF_RETURN back, without a step of
device time; PPS_EDGE stamps the edge and under SRC 1 leaves TRIM within 200 ppm; PPS_HOLDOVER after 2 s
without an edge under SRC 1 enters HOLDOVER; TIME_EXCHANGE of a member that is not the wellhead sends
its request and starts an exchange or, without a route, enters HOLDOVER; TIME_PACKET_ARRIVAL of a
request sends the stamps back, and of the answer ends the exchange one hop further with its offset.
TB_SET steps forward by more than 1 ms, slews a smaller offset, and steps back by more than 1 ms with
BACK set where that is allowed and nothing is in flight, else slews it; TB_TRIM_WRITE is taken under SRC
0 only; TB_DT_READ of 8 bytes returns the time, of the low half latches the high half of the path, and
of the high half returns what is latched, else the present one. TSYNC_EDGE that is due raises the output
and sets the next multiple; TRIGGER_ARM starts an unarmed channel whose START has not passed at edge 0,
or disarms; TRIGGER_EDGE that is due counts and moves on, clearing ARM after the last. (R406, R408,
R409, R410, R411, R413, R414, R416, R418, R421) -/
def Obligations.DeviceTimeIsSetSteppedAndSlewed : Prop :=
  ∀ (s : State), s.clocksRun = true →
    (s.tb.internal = false → Completes .tbrefLoss s fun t =>
        t.tb.internal = true ∧ t.bit rTbStatus 28 = true ∧ t.tb.dt = s.tb.dt
        ∧ Logged s t (mkFault stRefLost 0xC 0) 0 none none ∧ Only (.tb :: logParts) s t)
    ∧ (Completes .tbrefReturn s fun t => t.tb = { s.tb with internal := false } ∧ Only [.tb] s t)
    ∧ (∀ off, Completes (.ppsEdge off) s fun t =>
        t.rd rTbPpsCap = BitVec.ofNat 64 s.dt ∧ t.tb.ppsDt = s.clk
        ∧ (s.fld rTbCtrl 30 2 = 1 → -trimMax ≤ trimOf t ∧ trimOf t ≤ trimMax)
        ∧ (s.fld rTbCtrl 30 2 ≠ 1 → OnlyRegs [rTbPpsCap] s t)
        ∧ (Awake s → Only [.tb, .regs, .freeCtr] s t))
    ∧ (s.fld rTbCtrl 30 2 = 1 → s.tb.ppsDt + 2000000000 ≤ s.clk → s.fld rTbStatus 29 3 ≠ 3 →
      Completes .ppsHoldover s fun t =>
        t.fld rTbStatus 29 3 = 3 ∧ t.tb = { s.tb with exch := none } ∧ OnlyRegs [rTbStatus, rTbTrim] s t
        ∧ Only [.regs, .tb] s t)
    ∧ (s.fld rTbCtrl 30 2 = 2 → dstate s = 2 → ownId s ≠ s.fld rTbCtrl 16 10 →
      (routeTo s (s.fld rTbCtrl 16 10) < 6 → Completes .timeExchange s fun t =>
          t.tb.exch = some (s.dt, routeTo s (s.fld rTbCtrl 16 10))
          ∧ t.lk = (sendPacket s (routeTo s (s.fld rTbCtrl 16 10)) (timePacket s 0 0 0 0)).lk)
      ∧ (6 ≤ routeTo s (s.fld rTbCtrl 16 10) → Completes .timeExchange s fun t =>
          t.tb.exch = none ∧ t.fld rTbStatus 29 3 = 3))
    ∧ (∀ (n : Fin 6) pk t1, portState s n.val = lkAttached → pk.kind = 9 → bits pk.dw1 0 2 = 1 →
      s.tb.exch = some (t1, n.val) → s.fld rTbCtrl 30 2 = 2 → Completes (.timePacketArrival n pk) s fun t =>
        t.tb.exch = none ∧ t.fld rTbStatus 16 5 = (bits pk.dw1 12 5 + 1) % 32
        ∧ t.tb.corr = exchangeOffset s n.val t1 pk.dw2.toNat pk.dw3.toNat s.dt (signedOf 32 (bits pk.dw4 0 32)))
    ∧ (∀ (n : Fin 6) pk, portState s n.val = lkAttached → pk.kind = 9 → bits pk.dw1 0 2 = 0 →
      exec (.timePacketArrival n pk) s = .next (sendPacket s n.val (timePacket s 1 s.dt s.dt
        (if ownId s = s.fld rTbCtrl 16 10 then 0 else codeOfInt 32 s.tb.corr))))
    ∧ (∀ v : W64, s.tb.dt < 2 ^ 96 →
      (s.dt + 1000000 < v.toNat → Completes (.tbSet v) s fun t =>
          t.dt = v.toNat ∧ t.tb.slew = 0 ∧ t.bit rTbStatus 27 = s.bit rTbStatus 27)
      ∧ (v.toNat ≤ s.dt + 1000000 → s.dt ≤ v.toNat + 1000000 → Completes (.tbSet v) s fun t =>
          t.tb = { s.tb with slew := ((v.toNat : Int) - s.dt) * 2 ^ 32 } ∧ Only [.tb] s t)
      ∧ (v.toNat + 1000000 < s.dt → s.bit rTbCtrl 29 = true → tasksInFlight s = 0 →
        Completes (.tbSet v) s fun t => t.dt = v.toNat ∧ t.tb.slew = 0 ∧ t.bit rTbStatus 27 = true
          ∧ t.tb.trigs = s.tb.trigs ∧ OnlyRegs [rTbStatus] s t ∧ Only [.tb, .regs] s t)
      ∧ (v.toNat + 1000000 < s.dt → (s.bit rTbCtrl 29 = false ∨ tasksInFlight s ≠ 0) →
        Completes (.tbSet v) s fun t =>
          t.tb = { s.tb with slew := ((v.toNat : Int) - s.dt) * 2 ^ 32 } ∧ Only [.tb] s t))
    ∧ (∀ v : W32,
      (s.fld rTbCtrl 30 2 = 0 → Completes (.tbTrimWrite v) s fun t =>
          trimOf t = clampInt (-trimMax) trimMax (signedOf 32 v.toNat) ∧ OnlyRegs [rTbTrim] s t ∧ Only [.regs] s t)
      ∧ (s.fld rTbCtrl 30 2 ≠ 0 → exec (.tbTrimWrite v) s = .next s))
    ∧ (∀ path,
      (Completes (.tbDtRead path none) s fun t => t.hi.resp = some ⟨path, true, leBytes s.dt 8⟩ ∧ Only [.hi] s t)
      ∧ (Completes (.tbDtRead path (some false)) s fun t =>
          t.hi.resp = some ⟨path, true, leBytes (s.dt % 2 ^ 32) 4⟩
          ∧ (t.tb.latch.find? fun e => e.1 == pathNum path)
            = some (pathNum path, BitVec.ofNat 32 (s.dt / 2 ^ 32)) ∧ Only [.hi, .tb] s t)
      ∧ (∀ e, (s.tb.latch.find? fun e => e.1 == pathNum path) = some e →
          Completes (.tbDtRead path (some true)) s fun t =>
            t.hi.resp = some ⟨path, true, leBytes e.2.toNat 4⟩ ∧ Only [.hi, .tb] s t)
      ∧ ((s.tb.latch.find? fun e => e.1 == pathNum path) = none →
          Completes (.tbDtRead path (some true)) s fun t =>
            t.hi.resp = some ⟨path, true, leBytes (s.dt / 2 ^ 32) 4⟩ ∧ Only [.hi] s t))
    ∧ (s.fld rTbTsync 0 16 ≠ 0 → s.tb.tsyncNext ≤ s.dt → s.fld rHiStart 29 3 ≠ 0 → Completes .tsyncEdge s fun t =>
        t.tb.tsyncFall = s.dt + 100000 ∧ s.dt < t.tb.tsyncNext
        ∧ t.tb.tsyncNext % (s.fld rTbTsync 0 16 * 1000000) = 0 ∧ Only [.tb] s t)
    ∧ (∀ (k : Fin 8),
      (∀ v : W32, s.bit (rTbTrgCtrl k.val) 31 = false → bitAt (v.setWidth 64) 31 = true →
        s.dt ≤ (s.rd (rTbTrgStart k.val)).toNat → Completes (.triggerArm k v) s fun t =>
          t.bit (rTbTrgCtrl k.val) 31 = true ∧ t.tb.trig k.val = { s.tb.trig k.val with next := 0 }
          ∧ (∀ j, j ≠ k.val → t.tb.trig j = s.tb.trig j) ∧ OnlyRegs [rTbTrgCtrl k.val] s t ∧ Only [.tb, .regs] s t)
      ∧ (∀ v : W32, bitAt (v.setWidth 64) 31 = false → Completes (.triggerArm k v) s fun t =>
          t.bit (rTbTrgCtrl k.val) 31 = false ∧ OnlyRegs [rTbTrgCtrl k.val] s t ∧ Only [.regs] s t)
      ∧ (s.bit (rTbTrgCtrl k.val) 31 = true → edgeDt s k.val (s.tb.trig k.val).next ≤ s.dt →
        Completes (.triggerEdge k) s fun t =>
          let c := s.fld (rTbTrgCtrl k.val) 0 16
          let n := (s.tb.trig k.val).next + 1
          (t.tb.trig k.val).fall = s.dt + s.fld (rTbTrgCtrl k.val) 16 15 ∧ (t.tb.trig k.val).next = n
          ∧ t.fld (rTbTrgStatus k.val) 0 16 = (s.fld (rTbTrgStatus k.val) 0 16 + 1) % 65536
          ∧ t.bit (rTbTrgCtrl k.val) 31 = !(c != 0 && decide (c ≤ n))
          ∧ OnlyRegs [rTbTrgCtrl k.val, rTbTrgStatus k.val] s t ∧ Only [.tb, .regs] s t))

/-- On a core that takes instructions and a reference to an enabled entry: CSQ.WAIT of a count that is there
takes it, else holds or with TRY reports zero; CSQ.SIG hands its count to the semaphore port, which in a
well that is not running adds it, saturating; CSQ.PEEK reads the count into rd; CSQ.PUSH with a place
for its word hands the word to the side port, else holds or with TRY reports zero; CSQ.POP takes the
head word in a bank cycle the schedule leaves free, else holds, and with TRY and no word reports that;
CSQ.BAR arrives once, holds, and goes on when released. A reference of CSQ.PEEK that names no entry is
an access fault. SC_RUN starts a core at its PC, SC_HALT halts it, SC_ACCESS loads from and stores to
the SRAM of the cluster, and a misaligned access traps. But for a store, which may end reservations, no
other core changes. (R279, R422, R423, R424, R425, R426, R428) -/
def Obligations.ServiceCoreInstructionsComplete : Prop :=
  ∀ (s : State) (c : Fin 4) (n : Fin 8), s.clocksRun = true → s.hasSc c.val = true →
    let i := hartIx c n
    let h := s.hart i
    let others := fun (t : State) => ∀ j, j ≠ i → t.hart j = s.hart j
    (Completes (.scRun c n) s fun t =>
        (t.hart i).run = .running ∧ (t.hart i).pc = s.rd (rScCorePc c.val n.val) ∧ (∀ r, (t.hart i).getX r = 0)
        ∧ (t.hart i).m = true ∧ others t ∧ Only [.harts] s t)
    ∧ (Completes (.scHalt c n) s fun t => t.hart i = { h with run := .halted } ∧ others t ∧ Only [.harts] s t)
    ∧ (h.live = true →
      (∀ rs1 w e, queueRef s c.val rs1 = some (w, e) →
        let q := s.sq w e
        (∀ try_ rd rs2, q.isSem = true → countOk rs2 = true → rs2.toNat ≤ q.semCount (refSel rs1) →
          Completes (.csqWait c n try_ rd rs1 rs2) s fun t =>
            t.hart i = (if try_ then h.done.setX rd.val 1 else h.done)
            ∧ (t.sq w e).semCount (refSel rs1) = q.semCount (refSel rs1) - rs2.toNat ∧ others t)
        ∧ (∀ rd rs2, q.isSem = true → countOk rs2 = true → q.semCount (refSel rs1) < rs2.toNat →
          (Completes (.csqWait c n false rd rs1 rs2) s fun t => t.hart i = h.hold ∧ others t ∧ Only [.harts] s t)
          ∧ (Completes (.csqWait c n true rd rs1 rs2) s fun t =>
              t.hart i = h.done.setX rd.val 0 ∧ others t ∧ Only [.harts] s t))
        ∧ (∀ rs2, q.isSem = true → countOk rs2 = true → Completes (.csqSig c n rs1 rs2) s fun t =>
            t.hart i = h.done ∧ others t ∧ t.wells = (semPort s w e (refSel rs1) rs2.toNat).wells
            ∧ ((s.well w).run ≠ .running → (t.sq w e).semCount (refSel rs1)
              = Nat.min (q.semCount (refSel rs1) + rs2.toNat) 0xFFFF))
        ∧ (∀ rd, Completes (.csqPeek c n rd rs1) s fun t =>
            t.hart i = h.done.setX rd.val (BitVec.ofNat 64 (q.semCount (refSel rs1))) ∧ others t ∧ Only [.harts] s t)
        ∧ (∀ try_ rd vs2, q.isSem = false → q.canPush (retriesOf (s.well w) e + slotsComing (s.well w) e) = true →
          Completes (.csqPush c n try_ rd rs1 vs2) s fun t =>
            t.hart i = (if try_ then h.done.setX rd.val 1 else h.done) ∧ others t
            ∧ t.wells = (sideEnter s w e ⟨h.getV vs2.val, refSb rs1⟩).wells)
        ∧ (∀ rd vs2, q.isSem = false → q.canPush (retriesOf (s.well w) e + slotsComing (s.well w) e) = false →
          (Completes (.csqPush c n false rd rs1 vs2) s fun t =>
              t.hart i = h.hold ∧ others t ∧ Only [.harts] s t)
          ∧ (Completes (.csqPush c n true rd rs1 vs2) s fun t =>
              t.hart i = h.done.setX rd.val 0 ∧ others t ∧ Only [.harts] s t))
        ∧ (∀ vd, q.isSem = false → q.canPop = true → sideReadFree s w e = true →
          Completes (.csqPop c n false vd rs1) s fun t =>
            (t.hart i).getV vd.val = (sqSidePop s w e).1.data ∧ (t.hart i).pc = h.pc + 4
            ∧ (t.sq w e).r = q.r + 1 ∧ (t.sq w e).f = q.r + 1 ∧ others t)
        ∧ (∀ vd, q.isSem = false → (q.canPop = false ∨ sideReadFree s w e = false) →
          Completes (.csqPop c n false vd rs1) s fun t => t.hart i = h.hold ∧ others t ∧ Only [.harts] s t)
        ∧ (∀ vd, q.isSem = false → q.canPop = false → Completes (.csqPop c n true vd rs1) s fun t =>
            t.hart i = h.done.setCsr csrXcsqsb (putBits (h.getCsr csrXcsqsb) 31 1 0) ∧ others t
            ∧ Only [.harts] s t))
      ∧ (∀ rs1 rd, queueRef s c.val rs1 = none → Completes (.csqPeek c n rd rs1) s fun t =>
          t.hart i = h.trap (xcsqCause s) rs1 ∧ (t.hart i).getCsr 0x341 = h.pc ∧ (t.hart i).getCsr 0x343 = rs1
          ∧ others t ∧ Only [.harts, .freeCtr] s t)
      ∧ (∀ rs1 p, clusterPipe s c.val = some p →
        (h.released = false → h.arrived = false → Completes (.csqBar c n rs1) s fun t =>
          t.hart i = { h with run := .held, arrived := true, barId := bits rs1 0 4 } ∧ others t
          ∧ Only [.harts, .wells] s t)
        ∧ (h.released = true → Completes (.csqBar c n rs1) s fun t =>
          t.hart i = { h.done with released := false, arrived := false } ∧ others t ∧ Only [.harts] s t)))
    ∧ (∀ (rd : Fin 32) (a : ScAccess), h.run = .running →
      let len := 2 ^ a.size.toNat
      (a.addr.toNat % len ≠ 0 → Completes (.scAccess c n rd a) s fun t =>
          t.hart i = h.trap (if a.store then 6 else 4) (BitVec.ofNat 64 a.addr.toNat)
          ∧ others t ∧ Only [.harts] s t)
      ∧ (∀ o, a.addr.toNat % len = 0 → h.pmpAllows a.addr.toNat len a.store = true → a.atomic = false →
          a.ecc = .clean → regionOf s a.addr.toNat = .scSram c.val o →
          (a.store = false → Completes (.scAccess c n rd a) s fun t =>
            t.hart i = h.done.setX rd.val (extended len a.unsigned (leNat (s.mem.read a.addr.toNat len)))
            ∧ others t ∧ Only [.harts] s t)
          ∧ (a.store = true → Completes (.scAccess c n rd a) s fun t =>
            t.hart i = h.done ∧ (∀ b, t.mem.byte b =
              if a.addr.toNat ≤ b ∧ b < a.addr.toNat + len then (a.value >>> (8 * (b - a.addr.toNat))).setWidth 8
              else s.mem.byte b) ∧ Only [.harts, .mem] s t)))

/-- MP_WATCHDOG_EXPIRY outside a start restarts the MP with its queue answered, and in a start begins it
again at phase 1 or at the third stops in FAILED; MP_RESTART_COMPLETE lets it take up its work if the
firmware verifies and else stops in FAILED; TELEMETRY_SAMPLE counts a sample when no level above it has
work, and else changes nothing; MP_BUSY_MEASURE notes the busy fraction and doubles the slow factor
above three quarters and halves it below one half, within 1 to 8. WAKE_ENTRY of a long idle device
enters the deepest state allowed, in W4 with the check caches flushed and the memory in self-refresh, or
before W5 begins the self-test where SST is set; WAKE_EXIT by a doorbell from W1, W3 or W4 returns to
W0, and of an awake device changes nothing; LATTOL_WRITE of an awake device sets the tolerance only.
(R434, R435, R473, R474, R475) -/
def Obligations.MpDutiesAndWakeStates : Prop :=
  ∀ (s : State), s.clocksRun = true →
    (s.boot.starting = false → s.mp.restarting = false → Completes .mpWatchdogExpiry s fun t =>
        t.mp.restarting = true ∧ t.mp.queue = [] ∧ t.mp.answer = none
        ∧ t.fld rHiMpStatus 0 15 = (s.fld rHiMpStatus 0 15 + 1) % 2 ^ 15
        ∧ (∀ q, q ∈ s.mp.queue → (t.mbox q.chan).st = .done)
        ∧ t.wells = s.wells ∧ t.strs = s.strs ∧ t.dc = s.dc ∧ ∀ a, t.mem.byte a = s.mem.byte a)
    ∧ (s.boot.starting = true → s.boot.expiries < 2 → Completes .mpWatchdogExpiry s fun t =>
        startPhase t = 1 ∧ t.boot.expiries = s.boot.expiries + 1 ∧ Only [.boot, .regs] s t)
    ∧ (s.boot.starting = true → 2 ≤ s.boot.expiries → Completes .mpWatchdogExpiry s fun t =>
        startPhase t = 6 ∧ t.boot.starting = false ∧ Only [.boot, .regs] s t)
    ∧ (s.mp.restarting = true → Completes .mpRestartComplete s fun t =>
        if fwVerify s then t.mp.restarting = false else startPhase t = 6 ∧ t.mp.restarting = true)
    ∧ (s.mpTurn 5 = true → Completes .telemetrySample s fun t =>
        t.mp = { s.mp with samples := s.mp.samples + 1 } ∧ Only [.mp] s t)
    ∧ (s.mpTurn 5 = false → exec .telemetrySample s = .next s)
    ∧ (∀ busy : BitVec 8, s.mp.restarting = false → Completes (.mpBusyMeasure busy) s fun t =>
        let f := s.fld rHiMpStatus 28 4
        t.fld rHiMpStatus 20 8 = busy.toNat
        ∧ (765 < 4 * busy.toNat → t.fld rHiMpStatus 28 4 = Nat.min 8 (2 * f))
        ∧ (2 * busy.toNat < 255 → t.fld rHiMpStatus 28 4 = Nat.max 1 (f / 2))
        ∧ (255 ≤ 2 * busy.toNat → 4 * busy.toNat ≤ 765 → t.fld rHiMpStatus 28 4 = f)
        ∧ OnlyRegs [rHiMpStatus] s t ∧ Only [.regs] s t)
    ∧ (wakeState s = 0 → s.ready = true → s.mp.restarting = false → sstBusy s = false → idleLong s = true →
      (deepest s = 0 → exec .wakeEntry s = .next s)
      ∧ (1 ≤ deepest s → deepest s ≤ 4 → Completes .wakeEntry s fun t =>
          wakeState t = deepest s ∧ t.fld rPwrWake 26 3 = deepest s
          ∧ (deepest s ≠ 4 → OnlyRegs [rPwrWake] s t ∧ Only [.regs] s t)
          ∧ (deepest s = 4 → ∀ n, n < 8 → s.hasMc n = true →
            t.bit (rMcStatus n) 30 = true ∧ (t.mc n).cache = [] ∧ (t.mc n).dirty = []))
      ∧ (deepest s = 5 → s.bit rPwrWake 25 = false → Completes .wakeEntry s fun t =>
          wakeState t = 5 ∧ t.pwr.offPin = false ∧ OnlyRegs [rPwrWake] s t ∧ Only [.regs, .pwr] s t)
      ∧ (deepest s = 5 → s.bit rPwrWake 25 = true → Completes .wakeEntry s fun t =>
          t.fld rSstStatus 29 3 = 1 ∧ t.sst.shutdown = true ∧ t.sst.testing = (partOrder s).take 4 ∧ wakeState t = 0))
    ∧ ((wakeState s = 1 ∨ wakeState s = 3 ∨ wakeState s = 4) → Completes (.wakeExit .doorbell) s fun t =>
        wakeState t = 0 ∧ t.pwr.idleSince = none ∧ Only [.regs, .pwr] s t)
    ∧ (∀ e, Awake s → exec (.wakeExit e) s = .next s)
    ∧ (∀ v, Awake s → Completes (.lattolWrite v) s fun t =>
        t.fld rPwrLattol 0 32 = v.toNat ∧ OnlyRegs [rPwrLattol] s t ∧ Only [.regs] s t)

/-- RIM_WINDOW_WRITE of a slot that is EMPTY or LOADING stores the word and leaves it LOADING, and of any
other slot changes nothing; RIM_COMMIT_GO makes such a slot COMMITTING and RIM_COMMIT_COMPLETE COMMITTED
with RESULT 0, or LOADING with CTX_INVALID; RIM_COMMIT_UNLOAD of a slot that does not drive the pins
empties it; RIM_SELECT of a committed slot that does not drive the pins selects it with cells at reset,
of another logs CTX_INVALID; RIM_DESELECT releases the pins. RIM_CELL_CYCLE moves every enabled cell on
the clock of the named cell at once, each from what stood before, and no other. RIM_CAPTURE_ARM arms;
RIM_CAPTURE_NOW and an armed RIM_CAPTURE_TAKEN whose wire holds take the record with its time, or where
one stands count it as lost, ARM kept. A stamp enters its FIFO or is counted as dropped, and
RIM_STAMP_READ returns the oldest, or all ones. RIM_IRQ_EDGE of an awake device signals its vector, and
a serial block sends its oldest character and takes what fits. (R437, R438, R441, R444, R446, R447,
R448, R449, R450, R451) -/
def Obligations.RimCommandsComplete : Prop :=
  ∀ (s : State), s.clocksRun = true →
    (∀ (off : BitVec 15) v, off.toNat < 19456 →
      let slot := s.bit rRimCtrl 29
      ((slotState s slot = .empty ∨ slotState s slot = .loading) → Completes (.rimWindowWrite off v) s fun t =>
          slotState t slot = .loading ∧ slotState t (!slot) = slotState s (!slot)
          ∧ SMap.get (fun _ => 0) t.rim.image (b2n slot * 2432 + off.toNat / 8) = v
          ∧ (∀ k, k ≠ b2n slot * 2432 + off.toNat / 8 →
              SMap.get (fun _ => 0) t.rim.image k = SMap.get (fun _ => 0) s.rim.image k) ∧ Only [.rim, .regs] s t)
      ∧ ((slotState s slot = .committing ∨ slotState s slot = .committed) → exec (.rimWindowWrite off v) s = .next s))
    ∧ (∀ slot, s.bit rRimStatus 29 = false → (slotState s slot = .empty ∨ slotState s slot = .loading) →
      Completes (.rimCommitGo slot) s fun t =>
        slotState t slot = .committing ∧ t.bit rRimStatus 29 = true ∧ t.rim.image = s.rim.image ∧ Only [.rim, .regs] s t)
    ∧ (s.rim.slotA = .committing → Completes .rimCommitComplete s fun t =>
        (if rimCrc s false == s.fld rRimCommitCrc 0 32 && rimChecks s false then
          t.rim.slotA = .committed ∧ t.fld rRimStatus 16 8 = 0
        else t.rim.slotA = .loading ∧ t.fld rRimStatus 16 8 = stCtxInvalid)
        ∧ t.bit rRimStatus 29 = false ∧ t.rim.slotB = s.rim.slotB ∧ Only [.rim, .regs] s t)
    ∧ (s.rim.slotA ≠ .committing → s.rim.slotB = .committing → Completes .rimCommitComplete s fun t =>
        (if rimCrc s true == s.fld rRimCommitCrc 0 32 && rimChecks s true then
          t.rim.slotB = .committed ∧ t.fld rRimStatus 16 8 = 0
        else t.rim.slotB = .loading ∧ t.fld rRimStatus 16 8 = stCtxInvalid)
        ∧ t.bit rRimStatus 29 = false ∧ t.rim.slotA = s.rim.slotA ∧ Only [.rim, .regs] s t)
    ∧ (∀ slot, (rimActive s = false ∨ rimSel s ≠ slot) → slotState s slot ≠ .committing →
      Completes (.rimCommitUnload slot) s fun t =>
        slotState t slot = .empty ∧ slotState t (!slot) = slotState s (!slot) ∧ Only [.rim, .regs] s t)
    ∧ (∀ slot, (rimActive s = false ∨ rimSel s ≠ slot) →
      (slotState s slot = .committed → Completes (.rimSelect slot) s fun t =>
          rimActive t = true ∧ rimSel t = slot ∧ t.rim.live = true ∧ t.rim.cells = []
          ∧ OnlyRegs [rRimCtrl, rRimStatus] s t ∧ Only [.rim, .regs] s t)
      ∧ (slotState s slot ≠ .committed → Completes (.rimSelect slot) s fun t =>
          Logged s t (mkFault stCtxInvalid 0xD 0) 0 none none ∧ Only logParts s t))
    ∧ (Completes .rimDeselect s fun t => rimActive t = false ∧ t.bit rRimCtrl 31 = false ∧ t.rim.cells = []
        ∧ t.rim.live = false ∧ OnlyRegs [rRimCtrl, rRimStatus] s t ∧ Only [.rim, .regs] s t)
    ∧ (∀ (c : Fin 64) pins hard,
      let u := { s with rim := { s.rim with pinsIn := pins, hardOut := hard } }
      Completes (.rimCellCycle c pins hard) s fun t =>
        (∀ d, d < 64 → t.rim.cell d =
          if rimActive u && u.rim.live && bits (rimCellSet u (rimSel u) c.val) 34 3 != 6
              && rimClock (rimCellSet u (rimSel u) d) == rimClock (rimCellSet u (rimSel u) c.val)
              && rimEnabled u d then rimNext u d else s.rim.cell d)
        ∧ t.rim.pinsIn = pins ∧ t.rim.hardOut = hard ∧ Only [.rim] s t)
    ∧ (∀ v, Completes (.rimCaptureArm v) s fun t =>
        t.bit rRimCap 31 = true ∧ OnlyRegs [rRimCap] s t ∧ Only [.regs] s t)
    ∧ (s.bit rRimCapStatus 31 = true → Completes .rimCaptureNow s fun t =>
        t.bit rRimCapStatus 30 = true ∧ OnlyRegs [rRimCapStatus] s t ∧ Only [.regs] s t)
    ∧ (s.bit rRimCapStatus 31 = false → Completes .rimCaptureNow s fun t =>
        t.bit rRimCapStatus 31 = true ∧ t.rd (rRimCapPin 2) = BitVec.ofNat 64 s.dt ∧ Only [.regs] s t)
    ∧ (s.bit rRimCap 31 = true → (s.bit rRimCap 25 = false ∨ rimWireNow s (s.fld rRimCap 0 11) = true) →
      (s.bit rRimCapStatus 31 = false → Completes .rimCaptureTaken s fun t =>
        t.bit rRimCap 31 = false ∧ t.bit rRimCapStatus 31 = true
        ∧ t.rd (rRimCapPin 2) = BitVec.ofNat 64 s.dt ∧ Only [.regs] s t)
      ∧ (s.bit rRimCapStatus 31 = true → Completes .rimCaptureTaken s fun t =>
        t.bit rRimCapStatus 30 = true ∧ OnlyRegs [rRimCapStatus] s t ∧ Only [.regs] s t))
    ∧ (∀ k : Fin 8,
      (s.bit (rRimStampCfg k.val) 31 = true → (s.rim.stamp k.val).length < 16 →
        Completes (.rimStampEdge k) s fun t =>
          t.rim.stamp k.val = s.rim.stamp k.val ++ [s.dt]
          ∧ (∀ j, j ≠ k.val → t.rim.stamp j = s.rim.stamp j) ∧ Only [.rim] s t)
      ∧ (s.bit (rRimStampCfg k.val) 31 = true → 16 ≤ (s.rim.stamp k.val).length →
        Completes (.rimStampEdge k) s fun t =>
          t.fld (rRimStampCfg k.val) 12 16 = Nat.min (s.fld (rRimStampCfg k.val) 12 16 + 1) 65535
          ∧ OnlyRegs [rRimStampCfg k.val] s t ∧ Only [.regs] s t)
      ∧ (∀ d r, s.rim.stamp k.val = d :: r → Completes (.rimStampRead k) s fun t =>
          t.rim.stamp k.val = r ∧ t.hi.resp = some ⟨.u0, true, leBytes d 8⟩
          ∧ (∀ j, j ≠ k.val → t.rim.stamp j = s.rim.stamp j) ∧ Only [.rim, .hi] s t)
      ∧ (s.rim.stamp k.val = [] → Completes (.rimStampRead k) s fun t =>
          t.hi.resp = some ⟨.u0, true, List.replicate 8 0xFF⟩ ∧ Only [.hi] s t))
    ∧ (rimActive s = true → s.fld rRimCtrl 0 11 ≠ 0x7FE → Awake s → Completes .rimIrqEdge s fun t =>
        t = signalVec s (s.fld rRimCtrl 16 6) ∧ Only [.hi] s t)
    ∧ (∀ b rx, rimActive s = true → Completes (.hardSerialBlockTransfer b rx) s fun t =>
        let x := s.rim.serial (serialIx b)
        (t.rim.serial (serialIx b)).tx = x.tx.drop 1
        ∧ (t.rim.serial (serialIx b)).rx = x.rx ++ rx.take (serialDepth b - x.rx.length)
        ∧ (∀ j, j ≠ serialIx b → t.rim.serial j = s.rim.serial j) ∧ Only [.rim] s t)
    ∧ (∀ b rx, rimActive s = false → exec (.hardSerialBlockTransfer b rx) s = .next s)

/-- MODE_REQUEST sets the request and its target, and a mode whose rate is in force takes effect where its
voltage is no lower or the detectors are calm; FREQUENCY_STEP of a change moves 25 MHz toward the target
and puts the mode in force at it, and waits while a detector is tripped or was within the last
microsecond, and when raising until the regulator has settled, which REGULATOR_SETTLED notes. DROOP_TRIP
freezes its well and counts, and DROOP_CLEAR ends that after 32 cycles; DROOP_MARGIN_WINDOW adds 10 mV
after more than 1,000 trips, once a window and up to 30 mV. SENSOR_SAMPLE shows good readings.
POWER_MEASURE shows the power and its average and lowers its part of g above the cap, THERMAL_UPDATE
moves its own by the temperature, and the lesser is in force. OPERATING_POINT_DECISION, in its turn,
lowers by 50 MHz after 10 ms below 64; CAP_UNMET_DETECT after 10 ms logs; THERMAL_TRIP of a second hot
reading latches the trip, stops the clocks and is a device fault; LIMITER_STEP moves E of its slice and
changes no other. (R454, R456, R458, R459, R461, R463, R464, R466, R467, R468, R469, R470) -/
def Obligations.PowerCommandsComplete : Prop :=
  ∀ (s : State), s.clocksRun = true →
    (∀ m : BitVec 2, Completes (.modeRequest m) s fun t =>
        let v := voltOf s (modeRate m.toNat)
        t.fld rPwrMode 30 2 = m.toNat ∧ t.pwr.tgtMhz = modeRate m.toNat ∧ t.pwr.tgtMv = v ∧ t.pwr.margin = 0
        ∧ (s.fld rPwrMode 16 11 = modeRate m.toNat → (s.fld rPwrMode 0 16 ≤ v ∨ droopCalm s = true) →
          t.bit rPwrMode 27 = false ∧ t.fld rPwrMode 28 2 = m.toNat ∧ t.fld rPwrMode 0 16 = v)
        ∧ (s.fld rPwrMode 16 11 ≠ modeRate m.toNat → t.bit rPwrMode 27 = true)
        ∧ t.fld rPwrMode 16 11 = s.fld rPwrMode 16 11 ∧ OnlyRegs [rPwrMode] s t ∧ Only [.regs, .pwr] s t)
    ∧ (s.bit rPwrMode 27 = true → s.pwr.tgtMhz < 2048 →
      (anyDroop s = true → exec .frequencyStep s = .next s)
      ∧ (s.clk < s.pwr.droopHold → exec .frequencyStep s = .next s)
      ∧ (s.fld rPwrMode 16 11 < s.pwr.tgtMhz → s.pwr.settled = false → exec .frequencyStep s = .next s)
      ∧ (anyDroop s = false → s.pwr.droopHold ≤ s.clk →
        (s.pwr.settled = true ∨ s.pwr.tgtMhz ≤ s.fld rPwrMode 16 11) → Completes .frequencyStep s fun t =>
          let now := s.fld rPwrMode 16 11
          let f := if now < s.pwr.tgtMhz then Nat.min s.pwr.tgtMhz (now + 25) else Nat.max s.pwr.tgtMhz (now - 25)
          t.fld rPwrMode 16 11 = f
          ∧ (f = s.pwr.tgtMhz → t.bit rPwrMode 27 = false ∧ t.fld rPwrMode 28 2 = s.fld rPwrMode 30 2)
          ∧ (f ≠ s.pwr.tgtMhz → t.bit rPwrMode 27 = true)
          ∧ OnlyRegs [rPwrMode] s t ∧ Only [.regs] s t))
    ∧ (Completes .regulatorSettled s fun t => t.pwr = { s.pwr with settled := true } ∧ Only [.pwr] s t)
    ∧ (∀ (w : WellIx) (d : Fin 16), s.hasWell w.val = true → Completes (.droopTrip w d) s fun t =>
        bitAt ((t.well w.val).droop.setWidth 64) d.val = true ∧ (t.well w.val).frozen = true
        ∧ (t.well w.val).cause = 4 ∧ (t.well w.val).trips = (s.well w.val).trips + 1
        ∧ t.fld (rPwrDroopCnt w.val) 0 32 = Nat.min (s.fld (rPwrDroopCnt w.val) 0 32 + 1) (2 ^ 32 - 1)
        ∧ (∀ v, v ≠ w.val → t.well v = s.well v) ∧ OnlyRegs [rPwrDroopCnt w.val, rPwrStatus] s t
        ∧ Only [.wells, .regs] s t)
    ∧ (∀ w : WellIx, (s.well w.val).droop ≠ 0 → 32 ≤ (s.well w.val).droopCycles → Completes (.droopClear w) s fun t =>
        (t.well w.val).droop = 0 ∧ t.pwr.droopHold = s.clk + 1000 ∧ (∀ v, v ≠ w.val → t.well v = s.well v)
        ∧ OnlyRegs [rPwrStatus] s t ∧ Only [.wells, .regs, .pwr] s t)
    ∧ (∀ w : WellIx,
      (1000 < (s.well w.val).trips → s.pwr.margin < 30 →
        (∀ k, s.pwr.marginDt = some k → k + 1000000 ≤ s.clk) → s.fld rPwrMode 0 16 < 65000 →
        Completes (.droopMarginWindow w) s fun t =>
          (t.well w.val).trips = 0 ∧ t.pwr.margin = s.pwr.margin + 10 ∧ t.fld rPwrMode 0 16 = s.fld rPwrMode 0 16 + 10
          ∧ OnlyRegs [rPwrMode] s t ∧ Only [.wells, .regs, .pwr] s t)
      ∧ (((s.well w.val).trips ≤ 1000 ∨ 30 ≤ s.pwr.margin) → Completes (.droopMarginWindow w) s fun t =>
          t.well w.val = { s.well w.val with trips := 0 } ∧ Only [.wells] s t))
    ∧ (∀ r, Completes (.sensorSample r) s fun t =>
        (∀ n, n < 64 → sensorFitted s n = true → (r.getD n ⟨false, 0⟩).ok = true →
          t.rd (rPwrTemp n) = BitVec.ofNat 64 (2 ^ 31 + (r.getD n ⟨false, 0⟩).t.toNat)
          ∧ bitAt t.pwr.hotOnce n = decide (2000 ≤ signedOf 16 (r.getD n ⟨false, 0⟩).t.toNat))
        ∧ Only (.pwr :: logParts) s t)
    ∧ (∀ mv ma, Completes (.powerMeasure mv ma) s fun t =>
        let p := Nat.min 65535 (mv * ma / 100000 + s.fld rPwrCap 9 7 * 10)
        t.fld rPwrPower 0 16 = p ∧ t.pwr.samples = (p :: s.pwr.samples).take 31
        ∧ t.fld rPwrPower 16 16 = ((p :: s.pwr.samples).take 31).sum / ((p :: s.pwr.samples).take 31).length % 65536
        ∧ (s.bit rPwrCap 31 = false → t.fld rPwrStatus 8 7 = 64)
        ∧ (s.bit rPwrCap 31 = true → capWatts s * 10 < p →
          t.fld rPwrStatus 8 7 = Nat.max 1 (s.fld rPwrStatus 8 7 - 4))
        ∧ t.fld rPwrStatus 16 7 = Nat.min (t.fld rPwrStatus 8 7) (s.fld rPwrStatus 0 7)
        ∧ OnlyRegs [rPwrPower, rPwrStatus] s t ∧ Only [.regs, .pwr] s t)
    ∧ (Completes .thermalUpdate s fun t =>
        let tc := Nat.min 115 (Nat.max 60 (s.fld rPwrThrot 24 8))
        let temp := signedOf 16 (s.fld rPwrTmax 0 16)
        ((tc : Int) * 16 ≤ temp → t.fld rPwrStatus 0 7 = Nat.max 1 (s.fld rPwrStatus 0 7 - 2))
        ∧ (temp < (tc : Int) * 16 → temp ≤ ((tc : Int) - s.fld rPwrThrot 0 4) * 16 →
          t.fld rPwrStatus 0 7 = Nat.min 64 (s.fld rPwrStatus 0 7 + 1))
        ∧ (((tc : Int) - s.fld rPwrThrot 0 4) * 16 < temp → temp < (tc : Int) * 16 →
          t.fld rPwrStatus 0 7 = s.fld rPwrStatus 0 7)
        ∧ t.fld rPwrStatus 16 7 = Nat.min (s.fld rPwrStatus 8 7) (t.fld rPwrStatus 0 7)
        ∧ t.bit rPwrStatus 29 = decide (t.fld rPwrStatus 0 7 < 64) ∧ OnlyRegs [rPwrStatus] s t ∧ Only [.regs, .pwr] s t)
    ∧ (s.mpTurn 4 = false → exec .operatingPointDecision s = .next s)
    ∧ (∀ k, s.mpTurn 4 = true → s.bit rPwrMode 27 = false → s.pwr.gLowSince = some k → k + 10000000 ≤ s.clk →
      400 < s.fld rPwrMode 16 11 → Completes .operatingPointDecision s fun t =>
        t.pwr.tgtMhz = Nat.max 400 (s.fld rPwrMode 16 11 - 50) ∧ t.bit rPwrMode 27 = true
        ∧ OnlyRegs [rPwrMode] s t ∧ Only [.regs, .pwr] s t)
    ∧ (∀ k, s.pwr.unmetSince = some k → k + 10000000 ≤ s.clk → s.bit rPwrStatus 31 = false →
      Completes .capUnmetDetect s fun t => t.bit rPwrStatus 31 = true ∧ t.bit rPwrStatus 30 = true
        ∧ Logged s t (mkFault stCapUnmet 0xB 0 0 (s.fld rPwrPower 0 16)) 0 none none ∧ Only logParts s t)
    ∧ (∀ (n : Fin 64) (v : BitVec 16), sensorFitted s n.val = true → bitAt s.pwr.hotOnce n.val = true →
      2000 ≤ signedOf 16 v.toNat → Completes (.thermalTrip n v) s fun t =>
        t.tripped = true ∧ t.clocksRun = false ∧ t.pwr.tripPin = false ∧ t.bit rErrStatus 31 = true
        ∧ t.fld rHiTrip 10 6 = n.val ∧ t.fld rHiTrip 16 8 = stThermalTrip
        ∧ Logged s t (mkFault stThermalTrip 0xB n.val) 3 none none ∧ Only (.pwr :: logParts) s t)
    ∧ (∀ th : Thread, Completes (.limiterStep th) s fun t =>
        let y := s.slot th
        (t.slot th).limE = toward y.limE (limTarget y.limCeil (s.fld rPwrStatus 16 7)) (slopeStep s)
        ∧ (∀ v j, (v ≠ thWell th ∨ j ≠ thIx th) → t.slc v j = s.slc v j) ∧ Only [.wells] s t)

/-- POWER_ON_RESET clears memory, device time and every well and stream but keeps the OTP;
SUPPLY_OUT_OF_RANGE also ends a held trip; RESET_RISING_EDGE of PORST begins a start and of WRST ends
its level; WARM_RESET and HI_RESET_WARM with the key request a warm reset, whose effect keeps device
time and the error log, and DRAM where it was confirmed and trained and no security reset; HI_RESET_MP
with the key restarts the MP only, and a wrong key does nothing. START_PHASE of a start that can go on
ends phase 0 in phase 1 or FAILED; with no valid record phase 1 begins the cold self-test, phase 2 waits
for it and then goes to the first operating point, and the phases after it follow up to READY; where the
start cannot go on it changes nothing. PARTITION_TEST_DONE lets the next partition begin, or after the
last the commit; SST_COMMIT_COMPLETE writes the record with the next sequence number into the copy not
in force, ends the pass and before W5 asks for the power to be cut. (R407, R496, R497, R498, R499, R502,
R505, R506, R513, R520, R521, R553) -/
def Obligations.ResetsStartsAndSelfTest : Prop :=
  ∀ (s : State),
    (Completes .powerOnReset s fun t => t.mem = [] ∧ t.tb = Tb.reset ∧ t.wells = [] ∧ t.strs = [] ∧ t.boot.porst = false
        ∧ startPhase t = 0 ∧ t.sec.otp = s.sec.otp ∧ t.pending = s.pending ∧ t.tripped = s.tripped)
    ∧ (Completes .supplyOutOfRange s fun t => t.mem = [] ∧ t.tb = Tb.reset ∧ t.boot.supply = false ∧ t.tripped = false
        ∧ t.sec.otp = s.sec.otp)
    ∧ ((s.boot.porst = false ∨ s.boot.supply = false) → Completes (.resetRisingEdge .porst) s fun t =>
        t.powerUp = true ∧ t.boot.starting = true ∧ Only [.boot] s t)
    ∧ (Completes (.resetRisingEdge .wrst) s fun t => t.boot = { s.boot with wrst := true } ∧ Only [.boot] s t)
    ∧ (s.tripped = false → s.powerUp = true → s.boot.warm = none →
      (Completes .warmReset s fun t => t.boot.warm = some (.pin, false) ∧ t.boot.wrst = false ∧ Only [.boot] s t)
      ∧ (∀ cold, Completes (.hiResetWarm 0xA5C3 cold) s fun t => t.boot.warm = some (.register, cold) ∧ Only [.boot] s t))
    ∧ (∀ key cold, key ≠ 0xA5C3 → exec (.hiResetWarm key cold) s = .next s ∧ exec (.hiResetMp key) s = .next s)
    ∧ (s.powerUp = true → s.boot.wrst = true → Completes (.hiResetMp 0xA5C3) s fun t =>
        t.mp.restarting = true ∧ t.mp.queue = [] ∧ t.wells = s.wells ∧ t.dc = s.dc ∧ ∀ a, t.mem.byte a = s.mem.byte a)
    ∧ (∀ c cold confirmed, s.clocksRun = true → s.boot.warm = some (c, cold) →
      Completes (.warmResetEffect confirmed) s fun t =>
        t.tb.dt = s.tb.dt ∧ t.err.log = s.err.log ∧ t.fld rErrHead 0 32 = s.fld rErrHead 0 32 ∧ t.wells = [] ∧ t.strs = []
        ∧ t.boot.warm = none ∧ t.boot.starting = true ∧ t.fld rHiStart 26 3 = causeCode c ∧ t.sec.otp = s.sec.otp
        ∧ (confirmed = true → c ≠ .security → s.bit rCapMem 31 = true →
            ∀ a, a < 0x100000000000 → t.mem.byte a = s.mem.byte a))
    ∧ (∀ env, startGoes s = true →
      (startPhase s = 0 → Completes (.startPhase env) s fun t => startPhase t = if fwVerify s then 1 else 6)
      ∧ (startPhase s = 1 → s.boot.fromOne = false → selectCopy s = 0 → Completes (.startPhase env) s fun t =>
          startPhase t = 2 ∧ t.fld rSstStatus 29 3 = 1 ∧ t.sst.testing.length = 4 ∧ t.bit rHiStart 25 = true)
      ∧ (startPhase s = 2 → sstBusy s = true → exec (.startPhase env) s = .next s)
      ∧ (startPhase s = 2 → sstBusy s = false → startPhase (repairCheck s) = 2 → env.calFail = [] →
          Completes (.startPhase env) s fun t => startPhase t = 3 ∧ t.fld rPwrMode 16 11 = 1000
            ∧ OnlyRegs [rHiStart, rPwrMode] s t ∧ Only [.regs, .pwr] s t)
      ∧ (startPhase s = 3 → Completes (.startPhase env) s fun t => startPhase t = 4)
      ∧ (startPhase s = 4 → Completes (.startPhase env) s fun t =>
          startPhase t = 5 ∧ t.dc.en = true ∧ t.boot.devReady = true ∧ t.boot.starting = false))
    ∧ (∀ env, startGoes s = false → exec (.startPhase env) s = .next s)
    ∧ (∀ (p : Fin 143) r, s.clocksRun = true → s.fld rSstStatus 29 3 = 1 → s.sst.testing.contains p.val = true →
      let left := s.sst.testing.filter (· != p.val) ++ s.sst.todo.take 1
      Completes (.partitionTestDone p r) s fun t =>
        t.sst.testing = left ∧ t.sst.todo = s.sst.todo.drop 1 ∧ t.sst.done = s.sst.done ++ [p.val]
        ∧ t.fld rSstStatus 29 3 = (if left = [] then 2 else 1) ∧ (left = [] → t.sst.committing = true))
    ∧ (∀ good, s.clocksRun = true → s.fld rSstStatus 29 3 = 2 → Completes (.sstCommitComplete good) s fun t =>
        t.fld rSstStatus 29 3 = 3 ∧ t.sst.committing = false
        ∧ (if s.sst.src = 1 then t.boot.recA = s.boot.recA ∧ recNat t.boot.recB 4 4 = (s.sst.seq + 1) % 2 ^ 32
          else t.boot.recB = s.boot.recB ∧ recNat t.boot.recA 4 4 = (s.sst.seq + 1) % 2 ^ 32)
        ∧ (s.sst.shutdown = true → wakeState t = 5 ∧ t.pwr.offPin = false))

/-- ATTEST_GO sets BUSY, or with BUSY set changes nothing; ATTEST_DONE ends it with the report, or with
SEC_VIOLATION while the UDS is closed or the source has failed; RNG_READ after a failure reads zero;
RNG_HEALTH_FAIL sets FAIL with an entry; OTP_PROGRAM outside the writable fields programs nothing and
answers SEC_VIOLATION, and within them only sets bits; DEBUG_CHALLENGE makes a challenge unless sixteen
tokens were refused; DEBUG_SUBMIT without a challenge is refused, counted and logged; DEBUG_CLOSE
returns the level to 0; KEY_ENGINE_FAULT is a device fault. (R531, R534, R535, R537, R539, R540) -/
def Obligations.SecurityCommandsComplete : Prop :=
  ∀ (s : State), s.clocksRun = true →
    (s.bit rSecAttest 30 = false → Completes .attestGo s fun t =>
        t.bit rSecAttest 30 = true ∧ OnlyRegs [rSecAttest] s t ∧ Only [.regs] s t)
    ∧ (s.bit rSecAttest 30 = true → exec .attestGo s = .next s)
    ∧ (s.bit rSecAttest 30 = true →
      ((s.bit rSecStatus 27 = true ∨ s.bit rSecStatus 30 = true) → Completes .attestDone s fun t =>
          t.bit rSecAttest 30 = false ∧ t.bit rSecAttest 29 = false ∧ t.fld rSecAttest 16 8 = stSecViolation
          ∧ OnlyRegs [rSecAttest] s t ∧ Only [.regs] s t)
      ∧ (s.bit rSecStatus 27 = false → s.bit rSecStatus 30 = false → Completes .attestDone s fun t =>
          t.bit rSecAttest 30 = false ∧ t.bit rSecAttest 29 = true ∧ t.fld rSecAttest 16 8 = 0
          ∧ OnlyRegs [rSecAttest] s t ∧ Only [.regs, .sec, .freeCtr] s t))
    ∧ (s.bit rSecStatus 30 = true → Completes .rngRead s fun t =>
        t.hi.resp = some ⟨.u0, true, leBytes 0 8⟩ ∧ Only [.hi] s t)
    ∧ (s.bit rSecStatus 30 = false → Completes .rngRead s fun t =>
        (∃ v, t.hi.resp = some ⟨.u0, true, leBytes v 8⟩) ∧ t.freeCtr = s.freeCtr + 1 ∧ Only [.hi, .freeCtr] s t)
    ∧ (Completes .rngHealthFail s fun t => t.bit rSecStatus 30 = true
        ∧ Logged s t (mkFault stSecViolation 0xE 0) 0 none none ∧ Only logParts s t)
    ∧ (∀ path,
      (otpAllowed s path (s.fld rSecProvAddr 3 13 * 8) = false → Completes (.otpProgram path) s fun t =>
          t.fld rSecProvCtrl 16 8 = stSecViolation ∧ OnlyRegs [rSecProvCtrl] s t ∧ Only [.regs] s t)
      ∧ (otpAllowed s path (s.fld rSecProvAddr 3 13 * 8) = true → Completes (.otpProgram path) s fun t =>
          t.fld rSecProvCtrl 16 8 = 0 ∧ (∀ a, otpNat s a 1 &&& otpNat t a 1 = otpNat s a 1)
          ∧ (powerGood s = true → t.sec.otp
            = (otpOr s (s.fld rSecProvAddr 3 13 * 8) (leBytes (s.rd rSecProvData).toNat 8)).sec.otp)
          ∧ Only [.regs, .sec] s t))
    ∧ (s.fld rDbgStatus 0 5 < 16 → s.bit rSecStatus 30 = false → Completes .debugChallenge s fun t =>
        t.bit rDbgStatus 27 = true ∧ t.freeCtr = s.freeCtr + 1 ∧ Only [.regs, .freeCtr] s t)
    ∧ (16 ≤ s.fld rDbgStatus 0 5 → exec .debugChallenge s = .next s)
    ∧ (∀ level, s.bit rDbgStatus 27 = false → Completes (.debugSubmit level) s fun t =>
        t.fld rDbgStatus 30 2 = s.fld rDbgStatus 30 2 ∧ t.fld rDbgStatus 16 8 = stSecViolation
        ∧ t.fld rDbgStatus 0 5 = Nat.min 16 (s.fld rDbgStatus 0 5 + 1)
        ∧ Logged s t (mkFault stSecViolation 0xE 0) 0 none none ∧ Only logParts s t)
    ∧ (Completes .debugClose s fun t => t.fld rDbgStatus 30 2 = 0 ∧ OnlyRegs [rDbgStatus] s t ∧ Only [.regs] s t)
    ∧ (∀ complement, Completes (.keyEngineFault complement) s fun t =>
        t.bit rSecStatus (if complement then 29 else 28) = true ∧ t.bit rErrStatus 31 = true
        ∧ Logged s t (mkFault stSecViolation 0xE 0) 3 none none ∧ Only logParts s t)

/-- PMU_ENABLE sets or clears EN; PMU_CLEAR clears every counter and PMU_OVF; COUNTER_OVERFLOW of a running
counter at its greatest value without a chained neighbour wraps it, sets its bit and under FREEZE clears
EN; BW_WINDOW_END while enabled shows the counts of each port, clears them and increments SEQ;
QUEUE_PROBE_SAMPLE of an enabled probe of an enabled entry counts a sample in its bin and moves maximum
and minimum; TAG_SELECT of an enabled tagger whose interval has run out makes the next issue due;
TAG_RECORD_WRITE of a finished instruction frees the tagger and stores within one line, in DRAM the four
words of the record, or counts a dropped record when the ring is full. (R543, R544, R546, R547, R548,
R549, R550) -/
def Obligations.PerformanceCountersComplete : Prop :=
  ∀ (s : State), s.clocksRun = true →
    (∀ en, Completes (.pmuEnable en) s fun t => t.bit rPmuCtrl 31 = en ∧ OnlyRegs [rPmuCtrl] s t ∧ Only [.regs] s t)
    ∧ (Completes .pmuClear s fun t => (∀ n, n < 32 → t.fld (rPmuCnt n) 0 48 = 0) ∧ t.rd rPmuOvf = 0
        ∧ t.rd rPmuCtrl = s.rd rPmuCtrl ∧ Only [.regs] s t)
    ∧ (∀ n : Fin 32, s.bit rPmuCtrl 31 = true → s.fld (rPmuCnt n.val) 0 48 = 2 ^ 48 - 1 →
      (n.val % 2 = 1 ∨ s.bit (rPmuSel (n.val + 1)) 7 = false) → Completes (.counterOverflow n) s fun t =>
        t.fld (rPmuCnt n.val) 0 48 = 0 ∧ t.bit rPmuOvf n.val = true ∧ t.bit rPmuCtrl 31 = !s.bit rPmuCtrl 30
        ∧ (s.bit (rPmuSel n.val) 6 = true → s.bit rHiIntMask (s.fld rPmuCtrl 16 6) = true →
            bitAt t.hi.pend (s.fld rPmuCtrl 16 6) = true)
        ∧ OnlyRegs [rPmuCnt n.val, rPmuOvf, rPmuCtrl] s t ∧ Only [.regs, .hi] s t)
    ∧ (s.bit rPmuBwCtrl 31 = true → Completes .bwWindowEnd s fun t =>
        let c := fun i => Nat.min (SMap.get (fun _ => 0) s.pmu.bw i) (2 ^ 32 - 1)
        (∀ i, i < 56 → t.rd (rPmuBw i) = BitVec.ofNat 64 (c (2 * i) * 2 ^ 32 + c (2 * i + 1)))
        ∧ t.pmu.bw = [] ∧ t.pmu.probe = [] ∧ t.fld rPmuBwSeq 16 16 = (s.fld rPmuBwSeq 16 16 + 1) % 65536
        ∧ Only [.regs, .pmu] s t)
    ∧ (∀ k : Fin 16,
      let q := s.rd (rPmuQp k.val)
      let e := (s.well (bits q 10 3)).sq (bits q 0 10)
      s.bit rPmuQpCtrl 31 = true → bitAt q 31 = true → bits q 0 10 ≤ 767 → e.enabled = true →
      Completes (.queueProbeSample k) s fun t =>
        probeVal t k.val 0 = Nat.max (probeVal s k.val 0) e.filledCount
        ∧ probeVal t k.val 1 = Nat.min (probeVal s k.val 1) e.filledCount
        ∧ probeVal t k.val 2 = (probeVal s k.val 2 + 1) % 2 ^ 32
        ∧ probeVal t k.val (4 + probeBin e.filledCount) = probeVal s k.val (4 + probeBin e.filledCount) + 1
        ∧ (∀ j f, j ≠ k.val → f < 16 → probeVal t j f = probeVal s j f) ∧ Only [.pmu] s t)
    ∧ (s.bit rPmuTagCtrl 31 = true → s.pmu.left = 0 → s.pmu.run = none → Completes .tagSelect s fun t =>
        t.pmu = { s.pmu with due := true } ∧ Only [.pmu] s t)
    ∧ (∀ r, s.pmu.run = some r → r.finished = true →
      let h := s.fld rPmuTagHead 0 32
      let used := (h + 2 ^ 32 - s.fld rPmuTagTail 0 32) % 2 ^ 32
      let a := (s.rd rPmuTagBase).toNat + h % tagRing s * 32
      (used = tagRing s → Completes .tagRecordWrite s fun t =>
          t.pmu.run = none ∧ t.fld rPmuTagCtrl 0 16 = Nat.min (s.fld rPmuTagCtrl 0 16 + 1) 65535
          ∧ OnlyRegs [rPmuTagCtrl] s t ∧ Only [.regs, .pmu, .freeCtr] s t)
      ∧ (used ≠ tagRing s → Completes .tagRecordWrite s fun t =>
          t.pmu.run = none ∧ t.fld rPmuTagHead 0 32 = (h + 1) % 2 ^ 32
          ∧ (∀ b, b / 64 ≠ a / 64 → t.mem.byte b = s.mem.byte b))
      ∧ (used ≠ tagRing s → a % 32 = 0 → regionOf s a = .dram → regionOf s (a / 64 * 64) = .dram →
          (s.eccOn = false ∨ decodeLine (s.mem.line (a / 64 * 64)) (s.delta a) = .ok) →
          let sat := fun (x : Nat) => Nat.min x 65535
          let v := r.dw0.toNat + (r.dt % 2 ^ 64) <<< 64 + (sat r.holdCnt <<< 48 + sat r.waitCnt <<< 32
            + sat r.frozenCnt <<< 16 + sat r.run) <<< 128 + (r.stroke % 2 ^ 64) <<< 192
          Completes .tagRecordWrite s fun t => ∀ b, t.mem.byte b =
            if a ≤ b ∧ b < a + 32 then BitVec.ofNat 8 (v >>> (8 * (b - a))) else s.mem.byte b))

/-- From every state whose memory list is strictly rising by address with no entry equal to what an unlisted
address reads as, a step that answers a next state leaves a memory of that form. The invariant is the
model's own; that it holds at reset is ResetHoldsInvariantAndSpecValues. (R40, R41, R45) -/
def Obligations.EveryStepKeepsMemoryCanonical : Prop :=
  ∀ (s t : State), s.Inv → Sys2Proof.Machine.step s = .next t → t.Inv

/-- When exec answers a next state, the queue of waiting commands is as it was, for every command; and for
every command outside the listed ones whose effect may store bytes, every byte of memory reads as
before. The commands among those listed that only end a wake state leave it alone too while the device
is awake. (R15, R40, R45) -/
def Obligations.CommandsLeaveTheQueueAndTheirMemoryAlone : Prop :=
  ∀ (c : Instr) (s t : State), exec c s = .next t →
    t.pending = s.pending ∧ (c.mayStore = false → ∀ a, t.mem.byte a = s.mem.byte a)
      ∧ (c.wakesOnly = true → Awake s → ∀ a, t.mem.byte a = s.mem.byte a)

/-- Reset memory is canonical and lists nothing; device time is zero; the queue is empty; the start stands
at phase 0 with no slot, task or entry held; and registers read their reset values of the register
tables: LK_CFG of every port, ERR_CTRL, PWR_CAP, CAP_STROKE. That the state is the one right after
power-on is the model's reading (notes/assumptions). (R407, R496, R50, R495) -/
def Obligations.ResetHoldsInvariantAndSpecValues : Prop :=
  State.reset.Inv ∧ State.reset.mem = [] ∧ State.reset.pending = [] ∧ State.reset.tb.dt = 0
    ∧ startPhase State.reset = 0 ∧ State.reset.err.log = [] ∧ State.reset.strs = [] ∧ State.reset.wells = []
    ∧ (∀ n, n < 6 → State.reset.rd (rLkCfg n) = 0x38000000)
    ∧ State.reset.rd rCapStroke = 0x04B00190 ∧ State.reset.rd rErrCtrl = 1 ∧ State.reset.rd rErrHead = 0
end

