-- ==== Sys2Proof/Laws/Store.lean ====
section
/-! SUPPORT. Laws of sparse stores and of memory: a read after a write, writes elsewhere, and the
canonical form, which every operation keeps. -/

namespace Sys2Proof.Machine

section Store

variable {α : Type} {d : Nat → α}

@[simp] theorem SMap.get_nil (k : Nat) : SMap.get d [] k = d k := rfl

theorem SMap.get_erase_same (m : SMap α) (k : Nat) : SMap.get d (SMap.erase m k) k = d k := by
  induction m with
  | nil => rfl
  | cons e r ih =>
    unfold SMap.erase
    split
    · exact ih
    · rename_i h
      simp [SMap.get, h, ih]

theorem SMap.get_erase_other (m : SMap α) {k j : Nat} (h : j ≠ k) :
    SMap.get d (SMap.erase m k) j = SMap.get d m j := by
  induction m with
  | nil => rfl
  | cons e r ih =>
    unfold SMap.erase
    split
    · rename_i hk
      have : e.1 ≠ j := fun he => h (he ▸ hk)
      simp [SMap.get, this, ih]
    · simp [SMap.get, ih]

theorem SMap.get_insert_same (m : SMap α) (k : Nat) (x : α) (h : ∀ e ∈ m, e.1 ≠ k) :
    SMap.get d (SMap.insert m k x) k = x := by
  induction m with
  | nil => simp [SMap.insert, SMap.get]
  | cons e r ih =>
    have he : e.1 ≠ k := h e (by simp)
    unfold SMap.insert
    split
    · simp [SMap.get]
    · simp only [SMap.get, he, if_false]
      exact ih fun e' h' => h e' (by simp [h'])

theorem SMap.get_insert_other (m : SMap α) {k j : Nat} (x : α) (h : j ≠ k) :
    SMap.get d (SMap.insert m k x) j = SMap.get d m j := by
  induction m with
  | nil => simp [SMap.insert, SMap.get, Ne.symm h]
  | cons e r ih =>
    unfold SMap.insert
    split
    · simp [SMap.get, Ne.symm h]
    · simp [SMap.get, ih]

theorem SMap.erase_keys (m : SMap α) (k : Nat) : ∀ e ∈ SMap.erase m k, e.1 ≠ k := by
  induction m with
  | nil => simp [SMap.erase]
  | cons e r ih =>
    unfold SMap.erase
    split
    · exact ih
    · rename_i h
      intro e' he'
      rcases List.mem_cons.1 he' with rfl | h'
      · exact h
      · exact ih e' h'

variable [DecidableEq α]

/-- A read of the key just written gives the value written. -/
@[simp] theorem SMap.get_set_same (m : SMap α) (k : Nat) (x : α) :
    SMap.get d (SMap.set d m k x) k = x := by
  unfold SMap.set
  split
  · rename_i h
    rw [SMap.get_erase_same, h]
  · exact SMap.get_insert_same _ _ _ (SMap.erase_keys m k)

/-- A write of one key leaves every other key alone. -/
theorem SMap.get_set_other (m : SMap α) {k j : Nat} (x : α) (h : j ≠ k) :
    SMap.get d (SMap.set d m k x) j = SMap.get d m j := by
  unfold SMap.set
  split
  · exact SMap.get_erase_other m h
  · rw [SMap.get_insert_other _ _ h, SMap.get_erase_other m h]

/-- Reads after a write, by cases. -/
theorem SMap.get_set (m : SMap α) (k j : Nat) (x : α) :
    SMap.get d (SMap.set d m k x) j = if j = k then x else SMap.get d m j := by
  split
  · rename_i h
    rw [h, SMap.get_set_same]
  · rename_i h
    exact SMap.get_set_other m x h

theorem SMap.wfFrom_mono {lo lo' : Nat} (m : SMap α) (h : lo' ≤ lo) (hm : SMap.wfFrom d lo m = true) :
    SMap.wfFrom d lo' m = true := by
  cases m with
  | nil => rfl
  | cons e r =>
    simp only [SMap.wfFrom, Bool.and_eq_true, decide_eq_true_eq] at hm ⊢
    exact ⟨⟨le_trans h hm.1.1, hm.1.2⟩, hm.2⟩

theorem SMap.wfFrom_erase (m : SMap α) (k lo : Nat) (hm : SMap.wfFrom d lo m = true) :
    SMap.wfFrom d lo (SMap.erase m k) = true := by
  induction m generalizing lo with
  | nil => rfl
  | cons e r ih =>
    simp only [SMap.wfFrom, Bool.and_eq_true, decide_eq_true_eq] at hm
    unfold SMap.erase
    split
    · exact SMap.wfFrom_mono _ (by omega) (ih (e.1 + 1) hm.2)
    · simp only [SMap.wfFrom, Bool.and_eq_true, decide_eq_true_eq]
      exact ⟨hm.1, ih _ hm.2⟩

theorem SMap.wfFrom_insert (m : SMap α) (k lo : Nat) (x : α) (hx : x ≠ d k) (hk : lo ≤ k)
    (hn : ∀ e ∈ m, e.1 ≠ k) (hm : SMap.wfFrom d lo m = true) :
    SMap.wfFrom d lo (SMap.insert m k x) = true := by
  induction m generalizing lo with
  | nil => simp [SMap.insert, SMap.wfFrom, hx, hk]
  | cons e r ih =>
    simp only [SMap.wfFrom, Bool.and_eq_true, decide_eq_true_eq] at hm
    have he : e.1 ≠ k := hn e (by simp)
    unfold SMap.insert
    split
    · rename_i h
      simp only [SMap.wfFrom, Bool.and_eq_true, decide_eq_true_eq]
      exact ⟨⟨hk, hx⟩, ⟨by omega, hm.1.2⟩, hm.2⟩
    · rename_i h
      simp only [SMap.wfFrom, Bool.and_eq_true, decide_eq_true_eq]
      exact ⟨hm.1, ih _ (by omega) (fun e' h' => hn e' (by simp [h'])) hm.2⟩

/-- A write keeps the canonical form. -/
theorem SMap.wf_set (m : SMap α) (k : Nat) (x : α) (hm : SMap.wf d m = true) :
    SMap.wf d (SMap.set d m k x) = true := by
  unfold SMap.set
  split
  · exact SMap.wfFrom_erase m k 0 hm
  · rename_i h
    exact SMap.wfFrom_insert _ k 0 x h (Nat.zero_le _) (SMap.erase_keys m k) (SMap.wfFrom_erase m k 0 hm)

theorem SMap.wfFrom_filter (p : Nat × α → Bool) (m : SMap α) (lo : Nat)
    (hm : SMap.wfFrom d lo m = true) : SMap.wfFrom d lo (m.filter p) = true := by
  induction m generalizing lo with
  | nil => rfl
  | cons e r ih =>
    simp only [SMap.wfFrom, Bool.and_eq_true, decide_eq_true_eq] at hm
    unfold List.filter
    split
    · simp only [SMap.wfFrom, Bool.and_eq_true, decide_eq_true_eq]
      exact ⟨hm.1, ih _ hm.2⟩
    · exact SMap.wfFrom_mono _ (by omega) (ih (e.1 + 1) hm.2)

/-- Entries taken away leave the canonical form. -/
theorem SMap.wf_filter (p : Nat × α → Bool) (m : SMap α) (hm : SMap.wf d m = true) :
    SMap.wf d (m.filter p) = true := SMap.wfFrom_filter p m 0 hm

end Store

/-! ### Memory -/

@[simp] theorem Memory.byte_setByte_same (m : Memory) (a : Nat) (b : Byte) :
    (m.setByte a b).byte a = b := SMap.get_set_same m a b

theorem Memory.byte_setByte_other (m : Memory) {a j : Nat} (b : Byte) (h : j ≠ a) :
    (m.setByte a b).byte j = m.byte j := SMap.get_set_other m b h

/-- Writing one byte keeps the canonical form. -/
@[simp] theorem Memory.wf_setByte (m : Memory) (a : Nat) (b : Byte) (h : m.wf = true) :
    (m.setByte a b).wf = true := SMap.wf_set m a b h

/-- Writing bytes keeps the canonical form. -/
@[simp] theorem Memory.wf_write (m : Memory) (a : Nat) (l : List Byte) (h : m.wf = true) :
    (m.write a l).wf = true := by
  induction l generalizing m a with
  | nil => exact h
  | cons b r ih => exact ih _ _ (Memory.wf_setByte m a b h)

/-- Bytes outside a write are as before. -/
theorem Memory.byte_write_other (m : Memory) (a : Nat) (l : List Byte) (j : Nat)
    (h : j < a ∨ a + l.length ≤ j) : (m.write a l).byte j = m.byte j := by
  induction l generalizing m a with
  | nil => rfl
  | cons b r ih =>
    simp only [List.length_cons] at h
    show (Memory.write (m.setByte a b) (a + 1) r).byte j = m.byte j
    rw [ih (m.setByte a b) (a + 1) (by omega), Memory.byte_setByte_other m b (by omega)]

/-- A masked write keeps the canonical form. -/
@[simp] theorem Memory.wf_writeMasked (m : Memory) (a : Nat) (mask : BitVec 64) (i : Nat) (l : List Byte)
    (h : m.wf = true) : (m.writeMasked a mask i l).wf = true := by
  induction l generalizing m i with
  | nil => exact h
  | cons b r ih =>
    apply ih
    split
    · exact Memory.wf_setByte m _ b h
    · exact h

/-- Bytes outside a masked write are as before. -/
theorem Memory.byte_writeMasked_other (m : Memory) (a : Nat) (mask : BitVec 64) (i : Nat)
    (l : List Byte) (j : Nat) (h : j < a + i ∨ a + i + l.length ≤ j) :
    (m.writeMasked a mask i l).byte j = m.byte j := by
  induction l generalizing m i with
  | nil => rfl
  | cons b r ih =>
    simp only [List.length_cons] at h
    show (Memory.writeMasked _ a mask (i + 1) r).byte j = m.byte j
    rw [ih _ (i + 1) (by omega)]
    split
    · exact Memory.byte_setByte_other m b (by omega)
    · rfl

/-- Writing a line keeps the canonical form. -/
@[simp] theorem Memory.wf_setLine (m : Memory) (a : Nat) (l : Line) (h : m.wf = true) :
    (m.setLine a l).wf = true := Memory.wf_write m a _ h

/-- Writing an 8-byte word keeps the canonical form. -/
@[simp] theorem Memory.wf_setW64 (m : Memory) (a : Nat) (v : W64) (h : m.wf = true) :
    (m.setW64 a v).wf = true := Memory.wf_write m a _ h

@[simp] theorem leBytes_length (v n : Nat) : (leBytes v n).length = n := by
  induction n generalizing v with
  | zero => rfl
  | succ n ih => simp [leBytes, ih]

/-- Bytes outside a written line are as before. -/
theorem Memory.byte_setLine_other (m : Memory) (a : Nat) (l : Line) (j : Nat)
    (h : j < a ∨ a + 64 ≤ j) : (m.setLine a l).byte j = m.byte j :=
  Memory.byte_write_other m a _ j (by simpa [lineBytes] using h)

end Sys2Proof.Machine
end

