-- ==== Sys2Proof/Laws/State.lean ====
section
/-! SUPPORT. What each named update of the state writes: one lemma for each field and each update, and
reads of the piece it writes. -/

namespace Sys2Proof.Machine

/-! ### `State.wr` -/

@[simp] theorem State.wr_pending (s : State) (o : Nat) (v : W64) : (s.wr o v).pending = s.pending := (rfl)
@[simp] theorem State.wr_freeCtr (s : State) (o : Nat) (v : W64) : (s.wr o v).freeCtr = s.freeCtr := (rfl)
@[simp] theorem State.wr_mem (s : State) (o : Nat) (v : W64) : (s.wr o v).mem = s.mem := (rfl)
@[simp] theorem State.wr_ecc (s : State) (o : Nat) (v : W64) : (s.wr o v).ecc = s.ecc := (rfl)
@[simp] theorem State.wr_wells (s : State) (o : Nat) (v : W64) : (s.wr o v).wells = s.wells := (rfl)
@[simp] theorem State.wr_strs (s : State) (o : Nat) (v : W64) : (s.wr o v).strs = s.strs := (rfl)
@[simp] theorem State.wr_hi (s : State) (o : Nat) (v : W64) : (s.wr o v).hi = s.hi := (rfl)
@[simp] theorem State.wr_dps (s : State) (o : Nat) (v : W64) : (s.wr o v).dps = s.dps := (rfl)
@[simp] theorem State.wr_dc (s : State) (o : Nat) (v : W64) : (s.wr o v).dc = s.dc := (rfl)
@[simp] theorem State.wr_fiq (s : State) (o : Nat) (v : W64) : (s.wr o v).fiq = s.fiq := (rfl)
@[simp] theorem State.wr_mcs (s : State) (o : Nat) (v : W64) : (s.wr o v).mcs = s.mcs := (rfl)
@[simp] theorem State.wr_lk (s : State) (o : Nat) (v : W64) : (s.wr o v).lk = s.lk := (rfl)
@[simp] theorem State.wr_tb (s : State) (o : Nat) (v : W64) : (s.wr o v).tb = s.tb := (rfl)
@[simp] theorem State.wr_harts (s : State) (o : Nat) (v : W64) : (s.wr o v).harts = s.harts := (rfl)
@[simp] theorem State.wr_mp (s : State) (o : Nat) (v : W64) : (s.wr o v).mp = s.mp := (rfl)
@[simp] theorem State.wr_rim (s : State) (o : Nat) (v : W64) : (s.wr o v).rim = s.rim := (rfl)
@[simp] theorem State.wr_pwr (s : State) (o : Nat) (v : W64) : (s.wr o v).pwr = s.pwr := (rfl)
@[simp] theorem State.wr_err (s : State) (o : Nat) (v : W64) : (s.wr o v).err = s.err := (rfl)
@[simp] theorem State.wr_boot (s : State) (o : Nat) (v : W64) : (s.wr o v).boot = s.boot := (rfl)
@[simp] theorem State.wr_sst (s : State) (o : Nat) (v : W64) : (s.wr o v).sst = s.sst := (rfl)
@[simp] theorem State.wr_sec (s : State) (o : Nat) (v : W64) : (s.wr o v).sec = s.sec := (rfl)
@[simp] theorem State.wr_pmu (s : State) (o : Nat) (v : W64) : (s.wr o v).pmu = s.pmu := (rfl)

/-! ### `State.setFld` -/

@[simp] theorem State.setFld_pending (s : State) (o l n x : Nat) : (s.setFld o l n x).pending = s.pending := (rfl)
@[simp] theorem State.setFld_freeCtr (s : State) (o l n x : Nat) : (s.setFld o l n x).freeCtr = s.freeCtr := (rfl)
@[simp] theorem State.setFld_mem (s : State) (o l n x : Nat) : (s.setFld o l n x).mem = s.mem := (rfl)
@[simp] theorem State.setFld_ecc (s : State) (o l n x : Nat) : (s.setFld o l n x).ecc = s.ecc := (rfl)
@[simp] theorem State.setFld_wells (s : State) (o l n x : Nat) : (s.setFld o l n x).wells = s.wells := (rfl)
@[simp] theorem State.setFld_strs (s : State) (o l n x : Nat) : (s.setFld o l n x).strs = s.strs := (rfl)
@[simp] theorem State.setFld_hi (s : State) (o l n x : Nat) : (s.setFld o l n x).hi = s.hi := (rfl)
@[simp] theorem State.setFld_dps (s : State) (o l n x : Nat) : (s.setFld o l n x).dps = s.dps := (rfl)
@[simp] theorem State.setFld_dc (s : State) (o l n x : Nat) : (s.setFld o l n x).dc = s.dc := (rfl)
@[simp] theorem State.setFld_fiq (s : State) (o l n x : Nat) : (s.setFld o l n x).fiq = s.fiq := (rfl)
@[simp] theorem State.setFld_mcs (s : State) (o l n x : Nat) : (s.setFld o l n x).mcs = s.mcs := (rfl)
@[simp] theorem State.setFld_lk (s : State) (o l n x : Nat) : (s.setFld o l n x).lk = s.lk := (rfl)
@[simp] theorem State.setFld_tb (s : State) (o l n x : Nat) : (s.setFld o l n x).tb = s.tb := (rfl)
@[simp] theorem State.setFld_harts (s : State) (o l n x : Nat) : (s.setFld o l n x).harts = s.harts := (rfl)
@[simp] theorem State.setFld_mp (s : State) (o l n x : Nat) : (s.setFld o l n x).mp = s.mp := (rfl)
@[simp] theorem State.setFld_rim (s : State) (o l n x : Nat) : (s.setFld o l n x).rim = s.rim := (rfl)
@[simp] theorem State.setFld_pwr (s : State) (o l n x : Nat) : (s.setFld o l n x).pwr = s.pwr := (rfl)
@[simp] theorem State.setFld_err (s : State) (o l n x : Nat) : (s.setFld o l n x).err = s.err := (rfl)
@[simp] theorem State.setFld_boot (s : State) (o l n x : Nat) : (s.setFld o l n x).boot = s.boot := (rfl)
@[simp] theorem State.setFld_sst (s : State) (o l n x : Nat) : (s.setFld o l n x).sst = s.sst := (rfl)
@[simp] theorem State.setFld_sec (s : State) (o l n x : Nat) : (s.setFld o l n x).sec = s.sec := (rfl)
@[simp] theorem State.setFld_pmu (s : State) (o l n x : Nat) : (s.setFld o l n x).pmu = s.pmu := (rfl)

/-! ### `State.setBit` -/

@[simp] theorem State.setBit_pending (s : State) (o l : Nat) (b : Bool) : (s.setBit o l b).pending = s.pending := (rfl)
@[simp] theorem State.setBit_freeCtr (s : State) (o l : Nat) (b : Bool) : (s.setBit o l b).freeCtr = s.freeCtr := (rfl)
@[simp] theorem State.setBit_mem (s : State) (o l : Nat) (b : Bool) : (s.setBit o l b).mem = s.mem := (rfl)
@[simp] theorem State.setBit_ecc (s : State) (o l : Nat) (b : Bool) : (s.setBit o l b).ecc = s.ecc := (rfl)
@[simp] theorem State.setBit_wells (s : State) (o l : Nat) (b : Bool) : (s.setBit o l b).wells = s.wells := (rfl)
@[simp] theorem State.setBit_strs (s : State) (o l : Nat) (b : Bool) : (s.setBit o l b).strs = s.strs := (rfl)
@[simp] theorem State.setBit_hi (s : State) (o l : Nat) (b : Bool) : (s.setBit o l b).hi = s.hi := (rfl)
@[simp] theorem State.setBit_dps (s : State) (o l : Nat) (b : Bool) : (s.setBit o l b).dps = s.dps := (rfl)
@[simp] theorem State.setBit_dc (s : State) (o l : Nat) (b : Bool) : (s.setBit o l b).dc = s.dc := (rfl)
@[simp] theorem State.setBit_fiq (s : State) (o l : Nat) (b : Bool) : (s.setBit o l b).fiq = s.fiq := (rfl)
@[simp] theorem State.setBit_mcs (s : State) (o l : Nat) (b : Bool) : (s.setBit o l b).mcs = s.mcs := (rfl)
@[simp] theorem State.setBit_lk (s : State) (o l : Nat) (b : Bool) : (s.setBit o l b).lk = s.lk := (rfl)
@[simp] theorem State.setBit_tb (s : State) (o l : Nat) (b : Bool) : (s.setBit o l b).tb = s.tb := (rfl)
@[simp] theorem State.setBit_harts (s : State) (o l : Nat) (b : Bool) : (s.setBit o l b).harts = s.harts := (rfl)
@[simp] theorem State.setBit_mp (s : State) (o l : Nat) (b : Bool) : (s.setBit o l b).mp = s.mp := (rfl)
@[simp] theorem State.setBit_rim (s : State) (o l : Nat) (b : Bool) : (s.setBit o l b).rim = s.rim := (rfl)
@[simp] theorem State.setBit_pwr (s : State) (o l : Nat) (b : Bool) : (s.setBit o l b).pwr = s.pwr := (rfl)
@[simp] theorem State.setBit_err (s : State) (o l : Nat) (b : Bool) : (s.setBit o l b).err = s.err := (rfl)
@[simp] theorem State.setBit_boot (s : State) (o l : Nat) (b : Bool) : (s.setBit o l b).boot = s.boot := (rfl)
@[simp] theorem State.setBit_sst (s : State) (o l : Nat) (b : Bool) : (s.setBit o l b).sst = s.sst := (rfl)
@[simp] theorem State.setBit_sec (s : State) (o l : Nat) (b : Bool) : (s.setBit o l b).sec = s.sec := (rfl)
@[simp] theorem State.setBit_pmu (s : State) (o l : Nat) (b : Bool) : (s.setBit o l b).pmu = s.pmu := (rfl)

/-! ### `State.addSat` -/

@[simp] theorem State.addSat_pending (s : State) (o l n x : Nat) : (s.addSat o l n x).pending = s.pending := (rfl)
@[simp] theorem State.addSat_freeCtr (s : State) (o l n x : Nat) : (s.addSat o l n x).freeCtr = s.freeCtr := (rfl)
@[simp] theorem State.addSat_mem (s : State) (o l n x : Nat) : (s.addSat o l n x).mem = s.mem := (rfl)
@[simp] theorem State.addSat_ecc (s : State) (o l n x : Nat) : (s.addSat o l n x).ecc = s.ecc := (rfl)
@[simp] theorem State.addSat_wells (s : State) (o l n x : Nat) : (s.addSat o l n x).wells = s.wells := (rfl)
@[simp] theorem State.addSat_strs (s : State) (o l n x : Nat) : (s.addSat o l n x).strs = s.strs := (rfl)
@[simp] theorem State.addSat_hi (s : State) (o l n x : Nat) : (s.addSat o l n x).hi = s.hi := (rfl)
@[simp] theorem State.addSat_dps (s : State) (o l n x : Nat) : (s.addSat o l n x).dps = s.dps := (rfl)
@[simp] theorem State.addSat_dc (s : State) (o l n x : Nat) : (s.addSat o l n x).dc = s.dc := (rfl)
@[simp] theorem State.addSat_fiq (s : State) (o l n x : Nat) : (s.addSat o l n x).fiq = s.fiq := (rfl)
@[simp] theorem State.addSat_mcs (s : State) (o l n x : Nat) : (s.addSat o l n x).mcs = s.mcs := (rfl)
@[simp] theorem State.addSat_lk (s : State) (o l n x : Nat) : (s.addSat o l n x).lk = s.lk := (rfl)
@[simp] theorem State.addSat_tb (s : State) (o l n x : Nat) : (s.addSat o l n x).tb = s.tb := (rfl)
@[simp] theorem State.addSat_harts (s : State) (o l n x : Nat) : (s.addSat o l n x).harts = s.harts := (rfl)
@[simp] theorem State.addSat_mp (s : State) (o l n x : Nat) : (s.addSat o l n x).mp = s.mp := (rfl)
@[simp] theorem State.addSat_rim (s : State) (o l n x : Nat) : (s.addSat o l n x).rim = s.rim := (rfl)
@[simp] theorem State.addSat_pwr (s : State) (o l n x : Nat) : (s.addSat o l n x).pwr = s.pwr := (rfl)
@[simp] theorem State.addSat_err (s : State) (o l n x : Nat) : (s.addSat o l n x).err = s.err := (rfl)
@[simp] theorem State.addSat_boot (s : State) (o l n x : Nat) : (s.addSat o l n x).boot = s.boot := (rfl)
@[simp] theorem State.addSat_sst (s : State) (o l n x : Nat) : (s.addSat o l n x).sst = s.sst := (rfl)
@[simp] theorem State.addSat_sec (s : State) (o l n x : Nat) : (s.addSat o l n x).sec = s.sec := (rfl)
@[simp] theorem State.addSat_pmu (s : State) (o l n x : Nat) : (s.addSat o l n x).pmu = s.pmu := (rfl)

/-! ### `State.addWrap` -/

@[simp] theorem State.addWrap_pending (s : State) (o l n : Nat) : (s.addWrap o l n).pending = s.pending := (rfl)
@[simp] theorem State.addWrap_freeCtr (s : State) (o l n : Nat) : (s.addWrap o l n).freeCtr = s.freeCtr := (rfl)
@[simp] theorem State.addWrap_mem (s : State) (o l n : Nat) : (s.addWrap o l n).mem = s.mem := (rfl)
@[simp] theorem State.addWrap_ecc (s : State) (o l n : Nat) : (s.addWrap o l n).ecc = s.ecc := (rfl)
@[simp] theorem State.addWrap_wells (s : State) (o l n : Nat) : (s.addWrap o l n).wells = s.wells := (rfl)
@[simp] theorem State.addWrap_strs (s : State) (o l n : Nat) : (s.addWrap o l n).strs = s.strs := (rfl)
@[simp] theorem State.addWrap_hi (s : State) (o l n : Nat) : (s.addWrap o l n).hi = s.hi := (rfl)
@[simp] theorem State.addWrap_dps (s : State) (o l n : Nat) : (s.addWrap o l n).dps = s.dps := (rfl)
@[simp] theorem State.addWrap_dc (s : State) (o l n : Nat) : (s.addWrap o l n).dc = s.dc := (rfl)
@[simp] theorem State.addWrap_fiq (s : State) (o l n : Nat) : (s.addWrap o l n).fiq = s.fiq := (rfl)
@[simp] theorem State.addWrap_mcs (s : State) (o l n : Nat) : (s.addWrap o l n).mcs = s.mcs := (rfl)
@[simp] theorem State.addWrap_lk (s : State) (o l n : Nat) : (s.addWrap o l n).lk = s.lk := (rfl)
@[simp] theorem State.addWrap_tb (s : State) (o l n : Nat) : (s.addWrap o l n).tb = s.tb := (rfl)
@[simp] theorem State.addWrap_harts (s : State) (o l n : Nat) : (s.addWrap o l n).harts = s.harts := (rfl)
@[simp] theorem State.addWrap_mp (s : State) (o l n : Nat) : (s.addWrap o l n).mp = s.mp := (rfl)
@[simp] theorem State.addWrap_rim (s : State) (o l n : Nat) : (s.addWrap o l n).rim = s.rim := (rfl)
@[simp] theorem State.addWrap_pwr (s : State) (o l n : Nat) : (s.addWrap o l n).pwr = s.pwr := (rfl)
@[simp] theorem State.addWrap_err (s : State) (o l n : Nat) : (s.addWrap o l n).err = s.err := (rfl)
@[simp] theorem State.addWrap_boot (s : State) (o l n : Nat) : (s.addWrap o l n).boot = s.boot := (rfl)
@[simp] theorem State.addWrap_sst (s : State) (o l n : Nat) : (s.addWrap o l n).sst = s.sst := (rfl)
@[simp] theorem State.addWrap_sec (s : State) (o l n : Nat) : (s.addWrap o l n).sec = s.sec := (rfl)
@[simp] theorem State.addWrap_pmu (s : State) (o l n : Nat) : (s.addWrap o l n).pmu = s.pmu := (rfl)

/-! ### `State.drawn` -/

@[simp] theorem State.drawn_pending (s : State) : (s.drawn).pending = s.pending := (rfl)
@[simp] theorem State.drawn_mem (s : State) : (s.drawn).mem = s.mem := (rfl)
@[simp] theorem State.drawn_ecc (s : State) : (s.drawn).ecc = s.ecc := (rfl)
@[simp] theorem State.drawn_regs (s : State) : (s.drawn).regs = s.regs := (rfl)
@[simp] theorem State.drawn_wells (s : State) : (s.drawn).wells = s.wells := (rfl)
@[simp] theorem State.drawn_strs (s : State) : (s.drawn).strs = s.strs := (rfl)
@[simp] theorem State.drawn_hi (s : State) : (s.drawn).hi = s.hi := (rfl)
@[simp] theorem State.drawn_dps (s : State) : (s.drawn).dps = s.dps := (rfl)
@[simp] theorem State.drawn_dc (s : State) : (s.drawn).dc = s.dc := (rfl)
@[simp] theorem State.drawn_fiq (s : State) : (s.drawn).fiq = s.fiq := (rfl)
@[simp] theorem State.drawn_mcs (s : State) : (s.drawn).mcs = s.mcs := (rfl)
@[simp] theorem State.drawn_lk (s : State) : (s.drawn).lk = s.lk := (rfl)
@[simp] theorem State.drawn_tb (s : State) : (s.drawn).tb = s.tb := (rfl)
@[simp] theorem State.drawn_harts (s : State) : (s.drawn).harts = s.harts := (rfl)
@[simp] theorem State.drawn_mp (s : State) : (s.drawn).mp = s.mp := (rfl)
@[simp] theorem State.drawn_rim (s : State) : (s.drawn).rim = s.rim := (rfl)
@[simp] theorem State.drawn_pwr (s : State) : (s.drawn).pwr = s.pwr := (rfl)
@[simp] theorem State.drawn_err (s : State) : (s.drawn).err = s.err := (rfl)
@[simp] theorem State.drawn_boot (s : State) : (s.drawn).boot = s.boot := (rfl)
@[simp] theorem State.drawn_sst (s : State) : (s.drawn).sst = s.sst := (rfl)
@[simp] theorem State.drawn_sec (s : State) : (s.drawn).sec = s.sec := (rfl)
@[simp] theorem State.drawn_pmu (s : State) : (s.drawn).pmu = s.pmu := (rfl)

/-! ### `State.setWell` -/

@[simp] theorem State.setWell_pending (s : State) (w : Nat) (x : Well) : (s.setWell w x).pending = s.pending := (rfl)
@[simp] theorem State.setWell_freeCtr (s : State) (w : Nat) (x : Well) : (s.setWell w x).freeCtr = s.freeCtr := (rfl)
@[simp] theorem State.setWell_mem (s : State) (w : Nat) (x : Well) : (s.setWell w x).mem = s.mem := (rfl)
@[simp] theorem State.setWell_ecc (s : State) (w : Nat) (x : Well) : (s.setWell w x).ecc = s.ecc := (rfl)
@[simp] theorem State.setWell_regs (s : State) (w : Nat) (x : Well) : (s.setWell w x).regs = s.regs := (rfl)
@[simp] theorem State.setWell_strs (s : State) (w : Nat) (x : Well) : (s.setWell w x).strs = s.strs := (rfl)
@[simp] theorem State.setWell_hi (s : State) (w : Nat) (x : Well) : (s.setWell w x).hi = s.hi := (rfl)
@[simp] theorem State.setWell_dps (s : State) (w : Nat) (x : Well) : (s.setWell w x).dps = s.dps := (rfl)
@[simp] theorem State.setWell_dc (s : State) (w : Nat) (x : Well) : (s.setWell w x).dc = s.dc := (rfl)
@[simp] theorem State.setWell_fiq (s : State) (w : Nat) (x : Well) : (s.setWell w x).fiq = s.fiq := (rfl)
@[simp] theorem State.setWell_mcs (s : State) (w : Nat) (x : Well) : (s.setWell w x).mcs = s.mcs := (rfl)
@[simp] theorem State.setWell_lk (s : State) (w : Nat) (x : Well) : (s.setWell w x).lk = s.lk := (rfl)
@[simp] theorem State.setWell_tb (s : State) (w : Nat) (x : Well) : (s.setWell w x).tb = s.tb := (rfl)
@[simp] theorem State.setWell_harts (s : State) (w : Nat) (x : Well) : (s.setWell w x).harts = s.harts := (rfl)
@[simp] theorem State.setWell_mp (s : State) (w : Nat) (x : Well) : (s.setWell w x).mp = s.mp := (rfl)
@[simp] theorem State.setWell_rim (s : State) (w : Nat) (x : Well) : (s.setWell w x).rim = s.rim := (rfl)
@[simp] theorem State.setWell_pwr (s : State) (w : Nat) (x : Well) : (s.setWell w x).pwr = s.pwr := (rfl)
@[simp] theorem State.setWell_err (s : State) (w : Nat) (x : Well) : (s.setWell w x).err = s.err := (rfl)
@[simp] theorem State.setWell_boot (s : State) (w : Nat) (x : Well) : (s.setWell w x).boot = s.boot := (rfl)
@[simp] theorem State.setWell_sst (s : State) (w : Nat) (x : Well) : (s.setWell w x).sst = s.sst := (rfl)
@[simp] theorem State.setWell_sec (s : State) (w : Nat) (x : Well) : (s.setWell w x).sec = s.sec := (rfl)
@[simp] theorem State.setWell_pmu (s : State) (w : Nat) (x : Well) : (s.setWell w x).pmu = s.pmu := (rfl)

/-! ### `State.setStr` -/

@[simp] theorem State.setStr_pending (s : State) (i : Nat) (x : Stream) : (s.setStr i x).pending = s.pending := (rfl)
@[simp] theorem State.setStr_freeCtr (s : State) (i : Nat) (x : Stream) : (s.setStr i x).freeCtr = s.freeCtr := (rfl)
@[simp] theorem State.setStr_mem (s : State) (i : Nat) (x : Stream) : (s.setStr i x).mem = s.mem := (rfl)
@[simp] theorem State.setStr_ecc (s : State) (i : Nat) (x : Stream) : (s.setStr i x).ecc = s.ecc := (rfl)
@[simp] theorem State.setStr_regs (s : State) (i : Nat) (x : Stream) : (s.setStr i x).regs = s.regs := (rfl)
@[simp] theorem State.setStr_wells (s : State) (i : Nat) (x : Stream) : (s.setStr i x).wells = s.wells := (rfl)
@[simp] theorem State.setStr_hi (s : State) (i : Nat) (x : Stream) : (s.setStr i x).hi = s.hi := (rfl)
@[simp] theorem State.setStr_dps (s : State) (i : Nat) (x : Stream) : (s.setStr i x).dps = s.dps := (rfl)
@[simp] theorem State.setStr_dc (s : State) (i : Nat) (x : Stream) : (s.setStr i x).dc = s.dc := (rfl)
@[simp] theorem State.setStr_fiq (s : State) (i : Nat) (x : Stream) : (s.setStr i x).fiq = s.fiq := (rfl)
@[simp] theorem State.setStr_mcs (s : State) (i : Nat) (x : Stream) : (s.setStr i x).mcs = s.mcs := (rfl)
@[simp] theorem State.setStr_lk (s : State) (i : Nat) (x : Stream) : (s.setStr i x).lk = s.lk := (rfl)
@[simp] theorem State.setStr_tb (s : State) (i : Nat) (x : Stream) : (s.setStr i x).tb = s.tb := (rfl)
@[simp] theorem State.setStr_harts (s : State) (i : Nat) (x : Stream) : (s.setStr i x).harts = s.harts := (rfl)
@[simp] theorem State.setStr_mp (s : State) (i : Nat) (x : Stream) : (s.setStr i x).mp = s.mp := (rfl)
@[simp] theorem State.setStr_rim (s : State) (i : Nat) (x : Stream) : (s.setStr i x).rim = s.rim := (rfl)
@[simp] theorem State.setStr_pwr (s : State) (i : Nat) (x : Stream) : (s.setStr i x).pwr = s.pwr := (rfl)
@[simp] theorem State.setStr_err (s : State) (i : Nat) (x : Stream) : (s.setStr i x).err = s.err := (rfl)
@[simp] theorem State.setStr_boot (s : State) (i : Nat) (x : Stream) : (s.setStr i x).boot = s.boot := (rfl)
@[simp] theorem State.setStr_sst (s : State) (i : Nat) (x : Stream) : (s.setStr i x).sst = s.sst := (rfl)
@[simp] theorem State.setStr_sec (s : State) (i : Nat) (x : Stream) : (s.setStr i x).sec = s.sec := (rfl)
@[simp] theorem State.setStr_pmu (s : State) (i : Nat) (x : Stream) : (s.setStr i x).pmu = s.pmu := (rfl)

/-! ### `State.setDp` -/

@[simp] theorem State.setDp_pending (s : State) (n : Nat) (x : Dp) : (s.setDp n x).pending = s.pending := (rfl)
@[simp] theorem State.setDp_freeCtr (s : State) (n : Nat) (x : Dp) : (s.setDp n x).freeCtr = s.freeCtr := (rfl)
@[simp] theorem State.setDp_mem (s : State) (n : Nat) (x : Dp) : (s.setDp n x).mem = s.mem := (rfl)
@[simp] theorem State.setDp_ecc (s : State) (n : Nat) (x : Dp) : (s.setDp n x).ecc = s.ecc := (rfl)
@[simp] theorem State.setDp_regs (s : State) (n : Nat) (x : Dp) : (s.setDp n x).regs = s.regs := (rfl)
@[simp] theorem State.setDp_wells (s : State) (n : Nat) (x : Dp) : (s.setDp n x).wells = s.wells := (rfl)
@[simp] theorem State.setDp_strs (s : State) (n : Nat) (x : Dp) : (s.setDp n x).strs = s.strs := (rfl)
@[simp] theorem State.setDp_hi (s : State) (n : Nat) (x : Dp) : (s.setDp n x).hi = s.hi := (rfl)
@[simp] theorem State.setDp_dc (s : State) (n : Nat) (x : Dp) : (s.setDp n x).dc = s.dc := (rfl)
@[simp] theorem State.setDp_fiq (s : State) (n : Nat) (x : Dp) : (s.setDp n x).fiq = s.fiq := (rfl)
@[simp] theorem State.setDp_mcs (s : State) (n : Nat) (x : Dp) : (s.setDp n x).mcs = s.mcs := (rfl)
@[simp] theorem State.setDp_lk (s : State) (n : Nat) (x : Dp) : (s.setDp n x).lk = s.lk := (rfl)
@[simp] theorem State.setDp_tb (s : State) (n : Nat) (x : Dp) : (s.setDp n x).tb = s.tb := (rfl)
@[simp] theorem State.setDp_harts (s : State) (n : Nat) (x : Dp) : (s.setDp n x).harts = s.harts := (rfl)
@[simp] theorem State.setDp_mp (s : State) (n : Nat) (x : Dp) : (s.setDp n x).mp = s.mp := (rfl)
@[simp] theorem State.setDp_rim (s : State) (n : Nat) (x : Dp) : (s.setDp n x).rim = s.rim := (rfl)
@[simp] theorem State.setDp_pwr (s : State) (n : Nat) (x : Dp) : (s.setDp n x).pwr = s.pwr := (rfl)
@[simp] theorem State.setDp_err (s : State) (n : Nat) (x : Dp) : (s.setDp n x).err = s.err := (rfl)
@[simp] theorem State.setDp_boot (s : State) (n : Nat) (x : Dp) : (s.setDp n x).boot = s.boot := (rfl)
@[simp] theorem State.setDp_sst (s : State) (n : Nat) (x : Dp) : (s.setDp n x).sst = s.sst := (rfl)
@[simp] theorem State.setDp_sec (s : State) (n : Nat) (x : Dp) : (s.setDp n x).sec = s.sec := (rfl)
@[simp] theorem State.setDp_pmu (s : State) (n : Nat) (x : Dp) : (s.setDp n x).pmu = s.pmu := (rfl)

/-! ### `State.setMc` -/

@[simp] theorem State.setMc_pending (s : State) (n : Nat) (x : Mc) : (s.setMc n x).pending = s.pending := (rfl)
@[simp] theorem State.setMc_freeCtr (s : State) (n : Nat) (x : Mc) : (s.setMc n x).freeCtr = s.freeCtr := (rfl)
@[simp] theorem State.setMc_mem (s : State) (n : Nat) (x : Mc) : (s.setMc n x).mem = s.mem := (rfl)
@[simp] theorem State.setMc_ecc (s : State) (n : Nat) (x : Mc) : (s.setMc n x).ecc = s.ecc := (rfl)
@[simp] theorem State.setMc_regs (s : State) (n : Nat) (x : Mc) : (s.setMc n x).regs = s.regs := (rfl)
@[simp] theorem State.setMc_wells (s : State) (n : Nat) (x : Mc) : (s.setMc n x).wells = s.wells := (rfl)
@[simp] theorem State.setMc_strs (s : State) (n : Nat) (x : Mc) : (s.setMc n x).strs = s.strs := (rfl)
@[simp] theorem State.setMc_hi (s : State) (n : Nat) (x : Mc) : (s.setMc n x).hi = s.hi := (rfl)
@[simp] theorem State.setMc_dps (s : State) (n : Nat) (x : Mc) : (s.setMc n x).dps = s.dps := (rfl)
@[simp] theorem State.setMc_dc (s : State) (n : Nat) (x : Mc) : (s.setMc n x).dc = s.dc := (rfl)
@[simp] theorem State.setMc_fiq (s : State) (n : Nat) (x : Mc) : (s.setMc n x).fiq = s.fiq := (rfl)
@[simp] theorem State.setMc_lk (s : State) (n : Nat) (x : Mc) : (s.setMc n x).lk = s.lk := (rfl)
@[simp] theorem State.setMc_tb (s : State) (n : Nat) (x : Mc) : (s.setMc n x).tb = s.tb := (rfl)
@[simp] theorem State.setMc_harts (s : State) (n : Nat) (x : Mc) : (s.setMc n x).harts = s.harts := (rfl)
@[simp] theorem State.setMc_mp (s : State) (n : Nat) (x : Mc) : (s.setMc n x).mp = s.mp := (rfl)
@[simp] theorem State.setMc_rim (s : State) (n : Nat) (x : Mc) : (s.setMc n x).rim = s.rim := (rfl)
@[simp] theorem State.setMc_pwr (s : State) (n : Nat) (x : Mc) : (s.setMc n x).pwr = s.pwr := (rfl)
@[simp] theorem State.setMc_err (s : State) (n : Nat) (x : Mc) : (s.setMc n x).err = s.err := (rfl)
@[simp] theorem State.setMc_boot (s : State) (n : Nat) (x : Mc) : (s.setMc n x).boot = s.boot := (rfl)
@[simp] theorem State.setMc_sst (s : State) (n : Nat) (x : Mc) : (s.setMc n x).sst = s.sst := (rfl)
@[simp] theorem State.setMc_sec (s : State) (n : Nat) (x : Mc) : (s.setMc n x).sec = s.sec := (rfl)
@[simp] theorem State.setMc_pmu (s : State) (n : Nat) (x : Mc) : (s.setMc n x).pmu = s.pmu := (rfl)

/-! ### `State.setHart` -/

@[simp] theorem State.setHart_pending (s : State) (i : Nat) (x : Hart) : (s.setHart i x).pending = s.pending := (rfl)
@[simp] theorem State.setHart_freeCtr (s : State) (i : Nat) (x : Hart) : (s.setHart i x).freeCtr = s.freeCtr := (rfl)
@[simp] theorem State.setHart_mem (s : State) (i : Nat) (x : Hart) : (s.setHart i x).mem = s.mem := (rfl)
@[simp] theorem State.setHart_ecc (s : State) (i : Nat) (x : Hart) : (s.setHart i x).ecc = s.ecc := (rfl)
@[simp] theorem State.setHart_regs (s : State) (i : Nat) (x : Hart) : (s.setHart i x).regs = s.regs := (rfl)
@[simp] theorem State.setHart_wells (s : State) (i : Nat) (x : Hart) : (s.setHart i x).wells = s.wells := (rfl)
@[simp] theorem State.setHart_strs (s : State) (i : Nat) (x : Hart) : (s.setHart i x).strs = s.strs := (rfl)
@[simp] theorem State.setHart_hi (s : State) (i : Nat) (x : Hart) : (s.setHart i x).hi = s.hi := (rfl)
@[simp] theorem State.setHart_dps (s : State) (i : Nat) (x : Hart) : (s.setHart i x).dps = s.dps := (rfl)
@[simp] theorem State.setHart_dc (s : State) (i : Nat) (x : Hart) : (s.setHart i x).dc = s.dc := (rfl)
@[simp] theorem State.setHart_fiq (s : State) (i : Nat) (x : Hart) : (s.setHart i x).fiq = s.fiq := (rfl)
@[simp] theorem State.setHart_mcs (s : State) (i : Nat) (x : Hart) : (s.setHart i x).mcs = s.mcs := (rfl)
@[simp] theorem State.setHart_lk (s : State) (i : Nat) (x : Hart) : (s.setHart i x).lk = s.lk := (rfl)
@[simp] theorem State.setHart_tb (s : State) (i : Nat) (x : Hart) : (s.setHart i x).tb = s.tb := (rfl)
@[simp] theorem State.setHart_mp (s : State) (i : Nat) (x : Hart) : (s.setHart i x).mp = s.mp := (rfl)
@[simp] theorem State.setHart_rim (s : State) (i : Nat) (x : Hart) : (s.setHart i x).rim = s.rim := (rfl)
@[simp] theorem State.setHart_pwr (s : State) (i : Nat) (x : Hart) : (s.setHart i x).pwr = s.pwr := (rfl)
@[simp] theorem State.setHart_err (s : State) (i : Nat) (x : Hart) : (s.setHart i x).err = s.err := (rfl)
@[simp] theorem State.setHart_boot (s : State) (i : Nat) (x : Hart) : (s.setHart i x).boot = s.boot := (rfl)
@[simp] theorem State.setHart_sst (s : State) (i : Nat) (x : Hart) : (s.setHart i x).sst = s.sst := (rfl)
@[simp] theorem State.setHart_sec (s : State) (i : Nat) (x : Hart) : (s.setHart i x).sec = s.sec := (rfl)
@[simp] theorem State.setHart_pmu (s : State) (i : Nat) (x : Hart) : (s.setHart i x).pmu = s.pmu := (rfl)

/-! ### `State.setPort` -/

@[simp] theorem State.setPort_pending (s : State) (n : Nat) (x : LinkPort) : (s.setPort n x).pending = s.pending := (rfl)
@[simp] theorem State.setPort_freeCtr (s : State) (n : Nat) (x : LinkPort) : (s.setPort n x).freeCtr = s.freeCtr := (rfl)
@[simp] theorem State.setPort_mem (s : State) (n : Nat) (x : LinkPort) : (s.setPort n x).mem = s.mem := (rfl)
@[simp] theorem State.setPort_ecc (s : State) (n : Nat) (x : LinkPort) : (s.setPort n x).ecc = s.ecc := (rfl)
@[simp] theorem State.setPort_regs (s : State) (n : Nat) (x : LinkPort) : (s.setPort n x).regs = s.regs := (rfl)
@[simp] theorem State.setPort_wells (s : State) (n : Nat) (x : LinkPort) : (s.setPort n x).wells = s.wells := (rfl)
@[simp] theorem State.setPort_strs (s : State) (n : Nat) (x : LinkPort) : (s.setPort n x).strs = s.strs := (rfl)
@[simp] theorem State.setPort_hi (s : State) (n : Nat) (x : LinkPort) : (s.setPort n x).hi = s.hi := (rfl)
@[simp] theorem State.setPort_dps (s : State) (n : Nat) (x : LinkPort) : (s.setPort n x).dps = s.dps := (rfl)
@[simp] theorem State.setPort_dc (s : State) (n : Nat) (x : LinkPort) : (s.setPort n x).dc = s.dc := (rfl)
@[simp] theorem State.setPort_fiq (s : State) (n : Nat) (x : LinkPort) : (s.setPort n x).fiq = s.fiq := (rfl)
@[simp] theorem State.setPort_mcs (s : State) (n : Nat) (x : LinkPort) : (s.setPort n x).mcs = s.mcs := (rfl)
@[simp] theorem State.setPort_tb (s : State) (n : Nat) (x : LinkPort) : (s.setPort n x).tb = s.tb := (rfl)
@[simp] theorem State.setPort_harts (s : State) (n : Nat) (x : LinkPort) : (s.setPort n x).harts = s.harts := (rfl)
@[simp] theorem State.setPort_mp (s : State) (n : Nat) (x : LinkPort) : (s.setPort n x).mp = s.mp := (rfl)
@[simp] theorem State.setPort_rim (s : State) (n : Nat) (x : LinkPort) : (s.setPort n x).rim = s.rim := (rfl)
@[simp] theorem State.setPort_pwr (s : State) (n : Nat) (x : LinkPort) : (s.setPort n x).pwr = s.pwr := (rfl)
@[simp] theorem State.setPort_err (s : State) (n : Nat) (x : LinkPort) : (s.setPort n x).err = s.err := (rfl)
@[simp] theorem State.setPort_boot (s : State) (n : Nat) (x : LinkPort) : (s.setPort n x).boot = s.boot := (rfl)
@[simp] theorem State.setPort_sst (s : State) (n : Nat) (x : LinkPort) : (s.setPort n x).sst = s.sst := (rfl)
@[simp] theorem State.setPort_sec (s : State) (n : Nat) (x : LinkPort) : (s.setPort n x).sec = s.sec := (rfl)
@[simp] theorem State.setPort_pmu (s : State) (n : Nat) (x : LinkPort) : (s.setPort n x).pmu = s.pmu := (rfl)

/-! ### Reads after updates -/

@[simp] theorem State.rd_wr_same (s : State) (o : Nat) (v : W64) : (s.wr o v).rd o = v :=
  SMap.get_set_same s.regs o v

theorem State.rd_wr_other (s : State) {o p : Nat} (v : W64) (h : p ≠ o) : (s.wr o v).rd p = s.rd p :=
  SMap.get_set_other s.regs v h

/-- A register after a write, by cases. -/
theorem State.rd_wr (s : State) (o p : Nat) (v : W64) :
    (s.wr o v).rd p = if p = o then v else s.rd p := SMap.get_set s.regs o p v

theorem State.rd_setFld_other (s : State) {o p : Nat} (l n x : Nat) (h : p ≠ o) :
    (s.setFld o l n x).rd p = s.rd p := State.rd_wr_other s _ h

theorem State.rd_setBit_other (s : State) {o p : Nat} (l : Nat) (b : Bool) (h : p ≠ o) :
    (s.setBit o l b).rd p = s.rd p := State.rd_wr_other s _ h

theorem State.rd_addSat_other (s : State) {o p : Nat} (l n x : Nat) (h : p ≠ o) :
    (s.addSat o l n x).rd p = s.rd p := State.rd_wr_other s _ h

theorem State.rd_addWrap_other (s : State) {o p : Nat} (l n : Nat) (h : p ≠ o) :
    (s.addWrap o l n).rd p = s.rd p := State.rd_wr_other s _ h

@[simp] theorem State.well_setWell_same (s : State) (w : Nat) (x : Well) :
    (s.setWell w x).well w = x := SMap.get_set_same s.wells w x

theorem State.well_setWell_other (s : State) {w v : Nat} (x : Well) (h : v ≠ w) :
    (s.setWell w x).well v = s.well v := SMap.get_set_other s.wells x h

@[simp] theorem State.str_setStr_same (s : State) (i : Nat) (x : Stream) :
    (s.setStr i x).str i = x := SMap.get_set_same s.strs i x

theorem State.str_setStr_other (s : State) {i j : Nat} (x : Stream) (h : j ≠ i) :
    (s.setStr i x).str j = s.str j := SMap.get_set_other s.strs x h

@[simp] theorem State.dp_setDp_same (s : State) (n : Nat) (x : Dp) :
    (s.setDp n x).dp n = x := SMap.get_set_same s.dps n x

theorem State.dp_setDp_other (s : State) {n m : Nat} (x : Dp) (h : m ≠ n) :
    (s.setDp n x).dp m = s.dp m := SMap.get_set_other s.dps x h

@[simp] theorem State.mc_setMc_same (s : State) (n : Nat) (x : Mc) :
    (s.setMc n x).mc n = x := SMap.get_set_same s.mcs n x

theorem State.mc_setMc_other (s : State) {n m : Nat} (x : Mc) (h : m ≠ n) :
    (s.setMc n x).mc m = s.mc m := SMap.get_set_other s.mcs x h

@[simp] theorem State.hart_setHart_same (s : State) (i : Nat) (x : Hart) :
    (s.setHart i x).hart i = x := SMap.get_set_same s.harts i x

theorem State.hart_setHart_other (s : State) {i j : Nat} (x : Hart) (h : j ≠ i) :
    (s.setHart i x).hart j = s.hart j := SMap.get_set_other s.harts x h

@[simp] theorem State.port_setPort_same (s : State) (n : Nat) (x : LinkPort) :
    (s.setPort n x).port n = x := SMap.get_set_same s.lk.ports n x

theorem State.port_setPort_other (s : State) {n m : Nat} (x : LinkPort) (h : m ≠ n) :
    (s.setPort n x).port m = s.port m := SMap.get_set_other s.lk.ports x h

/-! Registers, wells and the rest read the same through updates of other pieces. -/

@[simp] theorem State.well_wr (s : State) (o : Nat) (v : W64) (w : Nat) : (s.wr o v).well w = s.well w := (rfl)
@[simp] theorem State.str_wr (s : State) (o : Nat) (v : W64) (j : Nat) : (s.wr o v).str j = s.str j := (rfl)
@[simp] theorem State.hart_wr (s : State) (o : Nat) (v : W64) (j : Nat) : (s.wr o v).hart j = s.hart j := (rfl)
@[simp] theorem State.port_wr (s : State) (o : Nat) (v : W64) (m : Nat) : (s.wr o v).port m = s.port m := (rfl)
@[simp] theorem State.well_setFld (s : State) (o l n x : Nat) (v : Nat) : (s.setFld o l n x).well v = s.well v := (rfl)
@[simp] theorem State.str_setFld (s : State) (o l n x : Nat) (j : Nat) : (s.setFld o l n x).str j = s.str j := (rfl)
@[simp] theorem State.hart_setFld (s : State) (o l n x : Nat) (j : Nat) : (s.setFld o l n x).hart j = s.hart j := (rfl)
@[simp] theorem State.port_setFld (s : State) (o l n x : Nat) (m : Nat) : (s.setFld o l n x).port m = s.port m := (rfl)
@[simp] theorem State.well_setBit (s : State) (o l : Nat) (b : Bool) (v : Nat) : (s.setBit o l b).well v = s.well v := (rfl)
@[simp] theorem State.str_setBit (s : State) (o l : Nat) (b : Bool) (j : Nat) : (s.setBit o l b).str j = s.str j := (rfl)
@[simp] theorem State.hart_setBit (s : State) (o l : Nat) (b : Bool) (j : Nat) : (s.setBit o l b).hart j = s.hart j := (rfl)
@[simp] theorem State.port_setBit (s : State) (o l : Nat) (b : Bool) (m : Nat) : (s.setBit o l b).port m = s.port m := (rfl)
@[simp] theorem State.well_addSat (s : State) (o l n x : Nat) (v : Nat) : (s.addSat o l n x).well v = s.well v := (rfl)
@[simp] theorem State.str_addSat (s : State) (o l n x : Nat) (j : Nat) : (s.addSat o l n x).str j = s.str j := (rfl)
@[simp] theorem State.hart_addSat (s : State) (o l n x : Nat) (j : Nat) : (s.addSat o l n x).hart j = s.hart j := (rfl)
@[simp] theorem State.port_addSat (s : State) (o l n x : Nat) (m : Nat) : (s.addSat o l n x).port m = s.port m := (rfl)
@[simp] theorem State.well_addWrap (s : State) (o l n : Nat) (v : Nat) : (s.addWrap o l n).well v = s.well v := (rfl)
@[simp] theorem State.str_addWrap (s : State) (o l n : Nat) (j : Nat) : (s.addWrap o l n).str j = s.str j := (rfl)
@[simp] theorem State.hart_addWrap (s : State) (o l n : Nat) (j : Nat) : (s.addWrap o l n).hart j = s.hart j := (rfl)
@[simp] theorem State.port_addWrap (s : State) (o l n : Nat) (m : Nat) : (s.addWrap o l n).port m = s.port m := (rfl)
@[simp] theorem State.rd_drawn (s : State) (p : Nat) : (s.drawn).rd p = s.rd p := (rfl)
@[simp] theorem State.well_drawn (s : State) (v : Nat) : (s.drawn).well v = s.well v := (rfl)
@[simp] theorem State.str_drawn (s : State) (j : Nat) : (s.drawn).str j = s.str j := (rfl)
@[simp] theorem State.hart_drawn (s : State) (j : Nat) : (s.drawn).hart j = s.hart j := (rfl)
@[simp] theorem State.port_drawn (s : State) (m : Nat) : (s.drawn).port m = s.port m := (rfl)
@[simp] theorem State.fld_drawn (s : State) (p k m : Nat) : (s.drawn).fld p k m = s.fld p k m := (rfl)
@[simp] theorem State.bit_drawn (s : State) (p k : Nat) : (s.drawn).bit p k = s.bit p k := (rfl)
@[simp] theorem State.rd_setWell (s : State) (w : Nat) (x : Well) (p : Nat) : (s.setWell w x).rd p = s.rd p := (rfl)
@[simp] theorem State.str_setWell (s : State) (w : Nat) (x : Well) (j : Nat) : (s.setWell w x).str j = s.str j := (rfl)
@[simp] theorem State.hart_setWell (s : State) (w : Nat) (x : Well) (j : Nat) : (s.setWell w x).hart j = s.hart j := (rfl)
@[simp] theorem State.port_setWell (s : State) (w : Nat) (x : Well) (m : Nat) : (s.setWell w x).port m = s.port m := (rfl)
@[simp] theorem State.fld_setWell (s : State) (w : Nat) (x : Well) (p k m : Nat) : (s.setWell w x).fld p k m = s.fld p k m := (rfl)
@[simp] theorem State.bit_setWell (s : State) (w : Nat) (x : Well) (p k : Nat) : (s.setWell w x).bit p k = s.bit p k := (rfl)
@[simp] theorem State.rd_setStr (s : State) (i : Nat) (x : Stream) (p : Nat) : (s.setStr i x).rd p = s.rd p := (rfl)
@[simp] theorem State.well_setStr (s : State) (i : Nat) (x : Stream) (v : Nat) : (s.setStr i x).well v = s.well v := (rfl)
@[simp] theorem State.hart_setStr (s : State) (i : Nat) (x : Stream) (j : Nat) : (s.setStr i x).hart j = s.hart j := (rfl)
@[simp] theorem State.port_setStr (s : State) (i : Nat) (x : Stream) (m : Nat) : (s.setStr i x).port m = s.port m := (rfl)
@[simp] theorem State.fld_setStr (s : State) (i : Nat) (x : Stream) (p k m : Nat) : (s.setStr i x).fld p k m = s.fld p k m := (rfl)
@[simp] theorem State.bit_setStr (s : State) (i : Nat) (x : Stream) (p k : Nat) : (s.setStr i x).bit p k = s.bit p k := (rfl)
@[simp] theorem State.rd_setDp (s : State) (n : Nat) (x : Dp) (p : Nat) : (s.setDp n x).rd p = s.rd p := (rfl)
@[simp] theorem State.well_setDp (s : State) (n : Nat) (x : Dp) (v : Nat) : (s.setDp n x).well v = s.well v := (rfl)
@[simp] theorem State.str_setDp (s : State) (n : Nat) (x : Dp) (j : Nat) : (s.setDp n x).str j = s.str j := (rfl)
@[simp] theorem State.hart_setDp (s : State) (n : Nat) (x : Dp) (j : Nat) : (s.setDp n x).hart j = s.hart j := (rfl)
@[simp] theorem State.port_setDp (s : State) (n : Nat) (x : Dp) (m : Nat) : (s.setDp n x).port m = s.port m := (rfl)
@[simp] theorem State.fld_setDp (s : State) (n : Nat) (x : Dp) (p k m : Nat) : (s.setDp n x).fld p k m = s.fld p k m := (rfl)
@[simp] theorem State.bit_setDp (s : State) (n : Nat) (x : Dp) (p k : Nat) : (s.setDp n x).bit p k = s.bit p k := (rfl)
@[simp] theorem State.rd_setMc (s : State) (n : Nat) (x : Mc) (p : Nat) : (s.setMc n x).rd p = s.rd p := (rfl)
@[simp] theorem State.well_setMc (s : State) (n : Nat) (x : Mc) (v : Nat) : (s.setMc n x).well v = s.well v := (rfl)
@[simp] theorem State.str_setMc (s : State) (n : Nat) (x : Mc) (j : Nat) : (s.setMc n x).str j = s.str j := (rfl)
@[simp] theorem State.hart_setMc (s : State) (n : Nat) (x : Mc) (j : Nat) : (s.setMc n x).hart j = s.hart j := (rfl)
@[simp] theorem State.port_setMc (s : State) (n : Nat) (x : Mc) (m : Nat) : (s.setMc n x).port m = s.port m := (rfl)
@[simp] theorem State.fld_setMc (s : State) (n : Nat) (x : Mc) (p k m : Nat) : (s.setMc n x).fld p k m = s.fld p k m := (rfl)
@[simp] theorem State.bit_setMc (s : State) (n : Nat) (x : Mc) (p k : Nat) : (s.setMc n x).bit p k = s.bit p k := (rfl)
@[simp] theorem State.rd_setHart (s : State) (i : Nat) (x : Hart) (p : Nat) : (s.setHart i x).rd p = s.rd p := (rfl)
@[simp] theorem State.well_setHart (s : State) (i : Nat) (x : Hart) (v : Nat) : (s.setHart i x).well v = s.well v := (rfl)
@[simp] theorem State.str_setHart (s : State) (i : Nat) (x : Hart) (j : Nat) : (s.setHart i x).str j = s.str j := (rfl)
@[simp] theorem State.port_setHart (s : State) (i : Nat) (x : Hart) (m : Nat) : (s.setHart i x).port m = s.port m := (rfl)
@[simp] theorem State.fld_setHart (s : State) (i : Nat) (x : Hart) (p k m : Nat) : (s.setHart i x).fld p k m = s.fld p k m := (rfl)
@[simp] theorem State.bit_setHart (s : State) (i : Nat) (x : Hart) (p k : Nat) : (s.setHart i x).bit p k = s.bit p k := (rfl)
@[simp] theorem State.rd_setPort (s : State) (n : Nat) (x : LinkPort) (p : Nat) : (s.setPort n x).rd p = s.rd p := (rfl)
@[simp] theorem State.well_setPort (s : State) (n : Nat) (x : LinkPort) (v : Nat) : (s.setPort n x).well v = s.well v := (rfl)
@[simp] theorem State.str_setPort (s : State) (n : Nat) (x : LinkPort) (j : Nat) : (s.setPort n x).str j = s.str j := (rfl)
@[simp] theorem State.hart_setPort (s : State) (n : Nat) (x : LinkPort) (j : Nat) : (s.setPort n x).hart j = s.hart j := (rfl)
@[simp] theorem State.fld_setPort (s : State) (n : Nat) (x : LinkPort) (p k m : Nat) : (s.setPort n x).fld p k m = s.fld p k m := (rfl)
@[simp] theorem State.bit_setPort (s : State) (n : Nat) (x : LinkPort) (p k : Nat) : (s.setPort n x).bit p k = s.bit p k := (rfl)

end Sys2Proof.Machine
end

