-- ==== Sys2Proof/Laws/Frames.lean ====
section
/-! SUPPORT. Frames of the shared operations: counting an event, sending an interrupt message, writing the
error log, raising a fault, the instruction tagger. One lemma per operation says that the state is the same
but for the parts it writes; the lemmas after it read each other part. -/

namespace Sys2Proof.Machine

/-- What each step of a fold leaves as it was, the fold leaves as it was. -/
theorem foldl_part {α β : Type} (p : State → β) (g : State → α → State) (h : ∀ s x, p (g s x) = p s)
    (l : List α) (s : State) : p (l.foldl g s) = p s := by
  induction l generalizing s with
  | nil => rfl
  | cons x r ih => exact (ih _).trans (h s x)

/-! ### The state with some parts blanked -/

/-- Without what an interrupt message touches. -/
def State.hideHi (s : State) : State := { s with hi := .reset }
/-- Without what a counted event touches. -/
def State.hideRegs (s : State) : State := { s with regs := [], hi := .reset }
/-- Without what an error-log entry touches. -/
def State.hideLog (s : State) : State := { s with regs := [], hi := .reset, err := .reset }
/-- Without what a task-scoped fault touches. -/
def State.hideDc (s : State) : State := { s with regs := [], hi := .reset, err := .reset, dc := .reset }

/-- Without the wells and what a counted event touches. -/
def State.hideWells (s : State) : State := { s with regs := [], hi := .reset, wells := [] }
/-- Without the performance monitor. -/
def State.hidePmu (s : State) : State := { s with pmu := .reset }

/-! ### One lemma per operation -/

theorem sendPending_hides (s : State) (v : Nat) : (sendPending s v).hideHi = s.hideHi := by
  unfold sendPending; split <;> rfl
theorem signalVec_hides (s : State) (v : Nat) : (signalVec s v).hideHi = s.hideHi := sendPending_hides _ v
theorem hideRegs_of {s t : State} (h : t.hideHi = s.hideHi) : t.hideRegs = s.hideRegs := 
  congrArg (fun u : State => { u with regs := [] }) h
theorem hideLog_of {s t : State} (h : t.hideRegs = s.hideRegs) : t.hideLog = s.hideLog := 
  congrArg (fun u : State => { u with err := .reset }) h
theorem hideDc_of {s t : State} (h : t.hideLog = s.hideLog) : t.hideDc = s.hideDc := 
  congrArg (fun u : State => { u with dc := .reset }) h
theorem hideRegs_wr (s : State) (o : Nat) (v : W64) : (s.wr o v).hideRegs = s.hideRegs := rfl
theorem hideRegs_setFld (s : State) (o l n x : Nat) : (s.setFld o l n x).hideRegs = s.hideRegs := hideRegs_wr ..
theorem hideRegs_setBit (s : State) (o l : Nat) (b : Bool) : (s.setBit o l b).hideRegs = s.hideRegs := hideRegs_wr ..
theorem hideRegs_addSat (s : State) (o l n x : Nat) : (s.addSat o l n x).hideRegs = s.hideRegs := hideRegs_wr ..
theorem hideRegs_addWrap (s : State) (o l n : Nat) : (s.addWrap o l n).hideRegs = s.hideRegs := hideRegs_wr ..
theorem hideRegs_signalVec (s : State) (v : Nat) : (signalVec s v).hideRegs = s.hideRegs := hideRegs_of (signalVec_hides s v)

theorem countUp_hides (s : State) (n : Nat) : (countUp s n).hideRegs = s.hideRegs := by
  simp [countUp, apply_ite State.hideRegs, hideRegs_setFld, hideRegs_setBit, hideRegs_signalVec]
theorem event_hides (s : State) (c u e : Nat) : (event s c u e).hideRegs = s.hideRegs := by
  unfold event
  split
  · exact foldl_part _ _ (fun s n => by simp [apply_ite State.hideRegs, countUp_hides]) _ _
  · rfl
theorem logEntry_hides (s : State) (f : FaultInfo) (sc : Nat) (k p : Option Nat) :
    (logEntry s f sc k p).hideLog = s.hideLog := by
  unfold logEntry
  simp only [hideLog_of (hideRegs_signalVec _ _), apply_ite State.hideLog, hideLog_of (hideRegs_addSat _ _ _ _ _),
   hideLog_of (hideRegs_setBit _ _ _ _), hideLog_of (hideRegs_addWrap _ _ _ _), ite_self]
  rfl
theorem hideLog_err (s : State) (e : Err) : ({ s with err := e } : State).hideLog = s.hideLog := rfl
theorem pipeFault_hides (s : State) (p : Nat) (f : FaultInfo) (k : Option Nat) :
    (pipeFault s p f k).hideLog = s.hideLog := by
  have h := logEntry_hides s f 2 k (some p)
  unfold pipeFault
  generalize logEntry s f 2 k (some p) = t at h ⊢
  simp only; split
  · exact h
  · exact (hideLog_err _ _).trans h
theorem wellFault_hides (s : State) (w : Nat) (f : FaultInfo) : (wellFault s w f).hideLog = s.hideLog := by
  unfold wellFault; split
  · exact pipeFault_hides ..
  · exact logEntry_hides ..
theorem devFault_hides (s : State) (f : FaultInfo) : (devFault s f).hideLog = s.hideLog := by
  have h := logEntry_hides s f 3 none none
  unfold devFault
  generalize logEntry s f 3 none none = t at h ⊢
  simp only; split
  · exact h
  · exact (hideLog_of (hideRegs_setFld _ _ _ _ _)).trans ((hideLog_of (hideRegs_setBit _ _ _ _)).trans h)
theorem reportTask_hides (s : State) (t n : Nat) : (reportTask s t n).hideDc = s.hideDc := by
  unfold reportTask; simp only; split <;> rfl
theorem taskFault_hides (s : State) (t : Nat) (f : FaultInfo) : (taskFault s t f).hideDc = s.hideDc :=
  (reportTask_hides ..).trans (hideDc_of (logEntry_hides ..))
theorem tagIssue_hides (s : State) (w i d : Nat) : (tagIssue s w i d).hidePmu = s.hidePmu := by
  unfold tagIssue; split
  · split <;> rfl
  · rfl
theorem hideWells_of {s t : State} (h : t.hideRegs = s.hideRegs) : t.hideWells = s.hideWells :=
  congrArg (fun u : State => { u with wells := [] }) h
theorem sqPut_hides (s : State) (w e : Nat) (x : SqEntry) : (sqPut s w e x).hideWells = s.hideWells := by
  unfold sqPut; simp only; split
  · rfl
  · refine (foldl_part _ _ (fun s n => ?_) _ _).trans ?_
    · split
      · exact hideWells_of (event_hides ..)
      · rfl
    · split
      · exact (hideWells_of (event_hides ..)).trans rfl
      · rfl

/-! ### The other parts agree -/

theorem hideHi_pending {s t : State} (h : t.hideHi = s.hideHi) : t.pending = s.pending := (congrArg State.pending h :)
theorem hideHi_freeCtr {s t : State} (h : t.hideHi = s.hideHi) : t.freeCtr = s.freeCtr := (congrArg State.freeCtr h :)
theorem hideHi_mem {s t : State} (h : t.hideHi = s.hideHi) : t.mem = s.mem := (congrArg State.mem h :)
theorem hideHi_ecc {s t : State} (h : t.hideHi = s.hideHi) : t.ecc = s.ecc := (congrArg State.ecc h :)
theorem hideHi_regs {s t : State} (h : t.hideHi = s.hideHi) : t.regs = s.regs := (congrArg State.regs h :)
theorem hideHi_wells {s t : State} (h : t.hideHi = s.hideHi) : t.wells = s.wells := (congrArg State.wells h :)
theorem hideHi_strs {s t : State} (h : t.hideHi = s.hideHi) : t.strs = s.strs := (congrArg State.strs h :)
theorem hideHi_dps {s t : State} (h : t.hideHi = s.hideHi) : t.dps = s.dps := (congrArg State.dps h :)
theorem hideHi_dc {s t : State} (h : t.hideHi = s.hideHi) : t.dc = s.dc := (congrArg State.dc h :)
theorem hideHi_fiq {s t : State} (h : t.hideHi = s.hideHi) : t.fiq = s.fiq := (congrArg State.fiq h :)
theorem hideHi_mcs {s t : State} (h : t.hideHi = s.hideHi) : t.mcs = s.mcs := (congrArg State.mcs h :)
theorem hideHi_lk {s t : State} (h : t.hideHi = s.hideHi) : t.lk = s.lk := (congrArg State.lk h :)
theorem hideHi_tb {s t : State} (h : t.hideHi = s.hideHi) : t.tb = s.tb := (congrArg State.tb h :)
theorem hideHi_harts {s t : State} (h : t.hideHi = s.hideHi) : t.harts = s.harts := (congrArg State.harts h :)
theorem hideHi_mp {s t : State} (h : t.hideHi = s.hideHi) : t.mp = s.mp := (congrArg State.mp h :)
theorem hideHi_rim {s t : State} (h : t.hideHi = s.hideHi) : t.rim = s.rim := (congrArg State.rim h :)
theorem hideHi_pwr {s t : State} (h : t.hideHi = s.hideHi) : t.pwr = s.pwr := (congrArg State.pwr h :)
theorem hideHi_err {s t : State} (h : t.hideHi = s.hideHi) : t.err = s.err := (congrArg State.err h :)
theorem hideHi_boot {s t : State} (h : t.hideHi = s.hideHi) : t.boot = s.boot := (congrArg State.boot h :)
theorem hideHi_sst {s t : State} (h : t.hideHi = s.hideHi) : t.sst = s.sst := (congrArg State.sst h :)
theorem hideHi_sec {s t : State} (h : t.hideHi = s.hideHi) : t.sec = s.sec := (congrArg State.sec h :)
theorem hideHi_pmu {s t : State} (h : t.hideHi = s.hideHi) : t.pmu = s.pmu := (congrArg State.pmu h :)
theorem hideRegs_pending {s t : State} (h : t.hideRegs = s.hideRegs) : t.pending = s.pending := (congrArg State.pending h :)
theorem hideRegs_freeCtr {s t : State} (h : t.hideRegs = s.hideRegs) : t.freeCtr = s.freeCtr := (congrArg State.freeCtr h :)
theorem hideRegs_mem {s t : State} (h : t.hideRegs = s.hideRegs) : t.mem = s.mem := (congrArg State.mem h :)
theorem hideRegs_ecc {s t : State} (h : t.hideRegs = s.hideRegs) : t.ecc = s.ecc := (congrArg State.ecc h :)
theorem hideRegs_wells {s t : State} (h : t.hideRegs = s.hideRegs) : t.wells = s.wells := (congrArg State.wells h :)
theorem hideRegs_strs {s t : State} (h : t.hideRegs = s.hideRegs) : t.strs = s.strs := (congrArg State.strs h :)
theorem hideRegs_dps {s t : State} (h : t.hideRegs = s.hideRegs) : t.dps = s.dps := (congrArg State.dps h :)
theorem hideRegs_dc {s t : State} (h : t.hideRegs = s.hideRegs) : t.dc = s.dc := (congrArg State.dc h :)
theorem hideRegs_fiq {s t : State} (h : t.hideRegs = s.hideRegs) : t.fiq = s.fiq := (congrArg State.fiq h :)
theorem hideRegs_mcs {s t : State} (h : t.hideRegs = s.hideRegs) : t.mcs = s.mcs := (congrArg State.mcs h :)
theorem hideRegs_lk {s t : State} (h : t.hideRegs = s.hideRegs) : t.lk = s.lk := (congrArg State.lk h :)
theorem hideRegs_tb {s t : State} (h : t.hideRegs = s.hideRegs) : t.tb = s.tb := (congrArg State.tb h :)
theorem hideRegs_harts {s t : State} (h : t.hideRegs = s.hideRegs) : t.harts = s.harts := (congrArg State.harts h :)
theorem hideRegs_mp {s t : State} (h : t.hideRegs = s.hideRegs) : t.mp = s.mp := (congrArg State.mp h :)
theorem hideRegs_rim {s t : State} (h : t.hideRegs = s.hideRegs) : t.rim = s.rim := (congrArg State.rim h :)
theorem hideRegs_pwr {s t : State} (h : t.hideRegs = s.hideRegs) : t.pwr = s.pwr := (congrArg State.pwr h :)
theorem hideRegs_err {s t : State} (h : t.hideRegs = s.hideRegs) : t.err = s.err := (congrArg State.err h :)
theorem hideRegs_boot {s t : State} (h : t.hideRegs = s.hideRegs) : t.boot = s.boot := (congrArg State.boot h :)
theorem hideRegs_sst {s t : State} (h : t.hideRegs = s.hideRegs) : t.sst = s.sst := (congrArg State.sst h :)
theorem hideRegs_sec {s t : State} (h : t.hideRegs = s.hideRegs) : t.sec = s.sec := (congrArg State.sec h :)
theorem hideRegs_pmu {s t : State} (h : t.hideRegs = s.hideRegs) : t.pmu = s.pmu := (congrArg State.pmu h :)
theorem hideLog_pending {s t : State} (h : t.hideLog = s.hideLog) : t.pending = s.pending := (congrArg State.pending h :)
theorem hideLog_freeCtr {s t : State} (h : t.hideLog = s.hideLog) : t.freeCtr = s.freeCtr := (congrArg State.freeCtr h :)
theorem hideLog_mem {s t : State} (h : t.hideLog = s.hideLog) : t.mem = s.mem := (congrArg State.mem h :)
theorem hideLog_ecc {s t : State} (h : t.hideLog = s.hideLog) : t.ecc = s.ecc := (congrArg State.ecc h :)
theorem hideLog_wells {s t : State} (h : t.hideLog = s.hideLog) : t.wells = s.wells := (congrArg State.wells h :)
theorem hideLog_strs {s t : State} (h : t.hideLog = s.hideLog) : t.strs = s.strs := (congrArg State.strs h :)
theorem hideLog_dps {s t : State} (h : t.hideLog = s.hideLog) : t.dps = s.dps := (congrArg State.dps h :)
theorem hideLog_dc {s t : State} (h : t.hideLog = s.hideLog) : t.dc = s.dc := (congrArg State.dc h :)
theorem hideLog_fiq {s t : State} (h : t.hideLog = s.hideLog) : t.fiq = s.fiq := (congrArg State.fiq h :)
theorem hideLog_mcs {s t : State} (h : t.hideLog = s.hideLog) : t.mcs = s.mcs := (congrArg State.mcs h :)
theorem hideLog_lk {s t : State} (h : t.hideLog = s.hideLog) : t.lk = s.lk := (congrArg State.lk h :)
theorem hideLog_tb {s t : State} (h : t.hideLog = s.hideLog) : t.tb = s.tb := (congrArg State.tb h :)
theorem hideLog_harts {s t : State} (h : t.hideLog = s.hideLog) : t.harts = s.harts := (congrArg State.harts h :)
theorem hideLog_mp {s t : State} (h : t.hideLog = s.hideLog) : t.mp = s.mp := (congrArg State.mp h :)
theorem hideLog_rim {s t : State} (h : t.hideLog = s.hideLog) : t.rim = s.rim := (congrArg State.rim h :)
theorem hideLog_pwr {s t : State} (h : t.hideLog = s.hideLog) : t.pwr = s.pwr := (congrArg State.pwr h :)
theorem hideLog_boot {s t : State} (h : t.hideLog = s.hideLog) : t.boot = s.boot := (congrArg State.boot h :)
theorem hideLog_sst {s t : State} (h : t.hideLog = s.hideLog) : t.sst = s.sst := (congrArg State.sst h :)
theorem hideLog_sec {s t : State} (h : t.hideLog = s.hideLog) : t.sec = s.sec := (congrArg State.sec h :)
theorem hideLog_pmu {s t : State} (h : t.hideLog = s.hideLog) : t.pmu = s.pmu := (congrArg State.pmu h :)
theorem hideDc_pending {s t : State} (h : t.hideDc = s.hideDc) : t.pending = s.pending := (congrArg State.pending h :)
theorem hideDc_freeCtr {s t : State} (h : t.hideDc = s.hideDc) : t.freeCtr = s.freeCtr := (congrArg State.freeCtr h :)
theorem hideDc_mem {s t : State} (h : t.hideDc = s.hideDc) : t.mem = s.mem := (congrArg State.mem h :)
theorem hideDc_ecc {s t : State} (h : t.hideDc = s.hideDc) : t.ecc = s.ecc := (congrArg State.ecc h :)
theorem hideDc_wells {s t : State} (h : t.hideDc = s.hideDc) : t.wells = s.wells := (congrArg State.wells h :)
theorem hideDc_strs {s t : State} (h : t.hideDc = s.hideDc) : t.strs = s.strs := (congrArg State.strs h :)
theorem hideDc_dps {s t : State} (h : t.hideDc = s.hideDc) : t.dps = s.dps := (congrArg State.dps h :)
theorem hideDc_fiq {s t : State} (h : t.hideDc = s.hideDc) : t.fiq = s.fiq := (congrArg State.fiq h :)
theorem hideDc_mcs {s t : State} (h : t.hideDc = s.hideDc) : t.mcs = s.mcs := (congrArg State.mcs h :)
theorem hideDc_lk {s t : State} (h : t.hideDc = s.hideDc) : t.lk = s.lk := (congrArg State.lk h :)
theorem hideDc_tb {s t : State} (h : t.hideDc = s.hideDc) : t.tb = s.tb := (congrArg State.tb h :)
theorem hideDc_harts {s t : State} (h : t.hideDc = s.hideDc) : t.harts = s.harts := (congrArg State.harts h :)
theorem hideDc_mp {s t : State} (h : t.hideDc = s.hideDc) : t.mp = s.mp := (congrArg State.mp h :)
theorem hideDc_rim {s t : State} (h : t.hideDc = s.hideDc) : t.rim = s.rim := (congrArg State.rim h :)
theorem hideDc_pwr {s t : State} (h : t.hideDc = s.hideDc) : t.pwr = s.pwr := (congrArg State.pwr h :)
theorem hideDc_boot {s t : State} (h : t.hideDc = s.hideDc) : t.boot = s.boot := (congrArg State.boot h :)
theorem hideDc_sst {s t : State} (h : t.hideDc = s.hideDc) : t.sst = s.sst := (congrArg State.sst h :)
theorem hideDc_sec {s t : State} (h : t.hideDc = s.hideDc) : t.sec = s.sec := (congrArg State.sec h :)
theorem hideDc_pmu {s t : State} (h : t.hideDc = s.hideDc) : t.pmu = s.pmu := (congrArg State.pmu h :)
theorem hidePmu_pending {s t : State} (h : t.hidePmu = s.hidePmu) : t.pending = s.pending := (congrArg State.pending h :)
theorem hidePmu_freeCtr {s t : State} (h : t.hidePmu = s.hidePmu) : t.freeCtr = s.freeCtr := (congrArg State.freeCtr h :)
theorem hidePmu_mem {s t : State} (h : t.hidePmu = s.hidePmu) : t.mem = s.mem := (congrArg State.mem h :)
theorem hidePmu_ecc {s t : State} (h : t.hidePmu = s.hidePmu) : t.ecc = s.ecc := (congrArg State.ecc h :)
theorem hidePmu_regs {s t : State} (h : t.hidePmu = s.hidePmu) : t.regs = s.regs := (congrArg State.regs h :)
theorem hidePmu_wells {s t : State} (h : t.hidePmu = s.hidePmu) : t.wells = s.wells := (congrArg State.wells h :)
theorem hidePmu_strs {s t : State} (h : t.hidePmu = s.hidePmu) : t.strs = s.strs := (congrArg State.strs h :)
theorem hidePmu_hi {s t : State} (h : t.hidePmu = s.hidePmu) : t.hi = s.hi := (congrArg State.hi h :)
theorem hidePmu_dps {s t : State} (h : t.hidePmu = s.hidePmu) : t.dps = s.dps := (congrArg State.dps h :)
theorem hidePmu_dc {s t : State} (h : t.hidePmu = s.hidePmu) : t.dc = s.dc := (congrArg State.dc h :)
theorem hidePmu_fiq {s t : State} (h : t.hidePmu = s.hidePmu) : t.fiq = s.fiq := (congrArg State.fiq h :)
theorem hidePmu_mcs {s t : State} (h : t.hidePmu = s.hidePmu) : t.mcs = s.mcs := (congrArg State.mcs h :)
theorem hidePmu_lk {s t : State} (h : t.hidePmu = s.hidePmu) : t.lk = s.lk := (congrArg State.lk h :)
theorem hidePmu_tb {s t : State} (h : t.hidePmu = s.hidePmu) : t.tb = s.tb := (congrArg State.tb h :)
theorem hidePmu_harts {s t : State} (h : t.hidePmu = s.hidePmu) : t.harts = s.harts := (congrArg State.harts h :)
theorem hidePmu_mp {s t : State} (h : t.hidePmu = s.hidePmu) : t.mp = s.mp := (congrArg State.mp h :)
theorem hidePmu_rim {s t : State} (h : t.hidePmu = s.hidePmu) : t.rim = s.rim := (congrArg State.rim h :)
theorem hidePmu_pwr {s t : State} (h : t.hidePmu = s.hidePmu) : t.pwr = s.pwr := (congrArg State.pwr h :)
theorem hidePmu_err {s t : State} (h : t.hidePmu = s.hidePmu) : t.err = s.err := (congrArg State.err h :)
theorem hidePmu_boot {s t : State} (h : t.hidePmu = s.hidePmu) : t.boot = s.boot := (congrArg State.boot h :)
theorem hidePmu_sst {s t : State} (h : t.hidePmu = s.hidePmu) : t.sst = s.sst := (congrArg State.sst h :)
theorem hidePmu_sec {s t : State} (h : t.hidePmu = s.hidePmu) : t.sec = s.sec := (congrArg State.sec h :)
theorem hideWells_pending {s t : State} (h : t.hideWells = s.hideWells) : t.pending = s.pending := (congrArg State.pending h :)
theorem hideWells_freeCtr {s t : State} (h : t.hideWells = s.hideWells) : t.freeCtr = s.freeCtr := (congrArg State.freeCtr h :)
theorem hideWells_mem {s t : State} (h : t.hideWells = s.hideWells) : t.mem = s.mem := (congrArg State.mem h :)
theorem hideWells_ecc {s t : State} (h : t.hideWells = s.hideWells) : t.ecc = s.ecc := (congrArg State.ecc h :)
theorem hideWells_strs {s t : State} (h : t.hideWells = s.hideWells) : t.strs = s.strs := (congrArg State.strs h :)
theorem hideWells_dps {s t : State} (h : t.hideWells = s.hideWells) : t.dps = s.dps := (congrArg State.dps h :)
theorem hideWells_dc {s t : State} (h : t.hideWells = s.hideWells) : t.dc = s.dc := (congrArg State.dc h :)
theorem hideWells_fiq {s t : State} (h : t.hideWells = s.hideWells) : t.fiq = s.fiq := (congrArg State.fiq h :)
theorem hideWells_mcs {s t : State} (h : t.hideWells = s.hideWells) : t.mcs = s.mcs := (congrArg State.mcs h :)
theorem hideWells_lk {s t : State} (h : t.hideWells = s.hideWells) : t.lk = s.lk := (congrArg State.lk h :)
theorem hideWells_tb {s t : State} (h : t.hideWells = s.hideWells) : t.tb = s.tb := (congrArg State.tb h :)
theorem hideWells_harts {s t : State} (h : t.hideWells = s.hideWells) : t.harts = s.harts := (congrArg State.harts h :)
theorem hideWells_mp {s t : State} (h : t.hideWells = s.hideWells) : t.mp = s.mp := (congrArg State.mp h :)
theorem hideWells_rim {s t : State} (h : t.hideWells = s.hideWells) : t.rim = s.rim := (congrArg State.rim h :)
theorem hideWells_pwr {s t : State} (h : t.hideWells = s.hideWells) : t.pwr = s.pwr := (congrArg State.pwr h :)
theorem hideWells_err {s t : State} (h : t.hideWells = s.hideWells) : t.err = s.err := (congrArg State.err h :)
theorem hideWells_boot {s t : State} (h : t.hideWells = s.hideWells) : t.boot = s.boot := (congrArg State.boot h :)
theorem hideWells_sst {s t : State} (h : t.hideWells = s.hideWells) : t.sst = s.sst := (congrArg State.sst h :)
theorem hideWells_sec {s t : State} (h : t.hideWells = s.hideWells) : t.sec = s.sec := (congrArg State.sec h :)
theorem hideWells_pmu {s t : State} (h : t.hideWells = s.hideWells) : t.pmu = s.pmu := (congrArg State.pmu h :)

/-! ### The parts read through each operation -/

@[simp] theorem sendPending_pending (s : State) (v : Nat) : (sendPending s v).pending = s.pending :=
  hideHi_pending (sendPending_hides s v)
@[simp] theorem sendPending_freeCtr (s : State) (v : Nat) : (sendPending s v).freeCtr = s.freeCtr :=
  hideHi_freeCtr (sendPending_hides s v)
@[simp] theorem sendPending_mem (s : State) (v : Nat) : (sendPending s v).mem = s.mem :=
  hideHi_mem (sendPending_hides s v)
@[simp] theorem sendPending_ecc (s : State) (v : Nat) : (sendPending s v).ecc = s.ecc :=
  hideHi_ecc (sendPending_hides s v)
@[simp] theorem sendPending_regs (s : State) (v : Nat) : (sendPending s v).regs = s.regs :=
  hideHi_regs (sendPending_hides s v)
@[simp] theorem sendPending_wells (s : State) (v : Nat) : (sendPending s v).wells = s.wells :=
  hideHi_wells (sendPending_hides s v)
@[simp] theorem sendPending_strs (s : State) (v : Nat) : (sendPending s v).strs = s.strs :=
  hideHi_strs (sendPending_hides s v)
@[simp] theorem sendPending_dps (s : State) (v : Nat) : (sendPending s v).dps = s.dps :=
  hideHi_dps (sendPending_hides s v)
@[simp] theorem sendPending_dc (s : State) (v : Nat) : (sendPending s v).dc = s.dc :=
  hideHi_dc (sendPending_hides s v)
@[simp] theorem sendPending_fiq (s : State) (v : Nat) : (sendPending s v).fiq = s.fiq :=
  hideHi_fiq (sendPending_hides s v)
@[simp] theorem sendPending_mcs (s : State) (v : Nat) : (sendPending s v).mcs = s.mcs :=
  hideHi_mcs (sendPending_hides s v)
@[simp] theorem sendPending_lk (s : State) (v : Nat) : (sendPending s v).lk = s.lk :=
  hideHi_lk (sendPending_hides s v)
@[simp] theorem sendPending_tb (s : State) (v : Nat) : (sendPending s v).tb = s.tb :=
  hideHi_tb (sendPending_hides s v)
@[simp] theorem sendPending_harts (s : State) (v : Nat) : (sendPending s v).harts = s.harts :=
  hideHi_harts (sendPending_hides s v)
@[simp] theorem sendPending_mp (s : State) (v : Nat) : (sendPending s v).mp = s.mp :=
  hideHi_mp (sendPending_hides s v)
@[simp] theorem sendPending_rim (s : State) (v : Nat) : (sendPending s v).rim = s.rim :=
  hideHi_rim (sendPending_hides s v)
@[simp] theorem sendPending_pwr (s : State) (v : Nat) : (sendPending s v).pwr = s.pwr :=
  hideHi_pwr (sendPending_hides s v)
@[simp] theorem sendPending_err (s : State) (v : Nat) : (sendPending s v).err = s.err :=
  hideHi_err (sendPending_hides s v)
@[simp] theorem sendPending_boot (s : State) (v : Nat) : (sendPending s v).boot = s.boot :=
  hideHi_boot (sendPending_hides s v)
@[simp] theorem sendPending_sst (s : State) (v : Nat) : (sendPending s v).sst = s.sst :=
  hideHi_sst (sendPending_hides s v)
@[simp] theorem sendPending_sec (s : State) (v : Nat) : (sendPending s v).sec = s.sec :=
  hideHi_sec (sendPending_hides s v)
@[simp] theorem sendPending_pmu (s : State) (v : Nat) : (sendPending s v).pmu = s.pmu :=
  hideHi_pmu (sendPending_hides s v)

@[simp] theorem signalVec_pending (s : State) (v : Nat) : (signalVec s v).pending = s.pending :=
  hideHi_pending (signalVec_hides s v)
@[simp] theorem signalVec_freeCtr (s : State) (v : Nat) : (signalVec s v).freeCtr = s.freeCtr :=
  hideHi_freeCtr (signalVec_hides s v)
@[simp] theorem signalVec_mem (s : State) (v : Nat) : (signalVec s v).mem = s.mem :=
  hideHi_mem (signalVec_hides s v)
@[simp] theorem signalVec_ecc (s : State) (v : Nat) : (signalVec s v).ecc = s.ecc :=
  hideHi_ecc (signalVec_hides s v)
@[simp] theorem signalVec_regs (s : State) (v : Nat) : (signalVec s v).regs = s.regs :=
  hideHi_regs (signalVec_hides s v)
@[simp] theorem signalVec_wells (s : State) (v : Nat) : (signalVec s v).wells = s.wells :=
  hideHi_wells (signalVec_hides s v)
@[simp] theorem signalVec_strs (s : State) (v : Nat) : (signalVec s v).strs = s.strs :=
  hideHi_strs (signalVec_hides s v)
@[simp] theorem signalVec_dps (s : State) (v : Nat) : (signalVec s v).dps = s.dps :=
  hideHi_dps (signalVec_hides s v)
@[simp] theorem signalVec_dc (s : State) (v : Nat) : (signalVec s v).dc = s.dc :=
  hideHi_dc (signalVec_hides s v)
@[simp] theorem signalVec_fiq (s : State) (v : Nat) : (signalVec s v).fiq = s.fiq :=
  hideHi_fiq (signalVec_hides s v)
@[simp] theorem signalVec_mcs (s : State) (v : Nat) : (signalVec s v).mcs = s.mcs :=
  hideHi_mcs (signalVec_hides s v)
@[simp] theorem signalVec_lk (s : State) (v : Nat) : (signalVec s v).lk = s.lk :=
  hideHi_lk (signalVec_hides s v)
@[simp] theorem signalVec_tb (s : State) (v : Nat) : (signalVec s v).tb = s.tb :=
  hideHi_tb (signalVec_hides s v)
@[simp] theorem signalVec_harts (s : State) (v : Nat) : (signalVec s v).harts = s.harts :=
  hideHi_harts (signalVec_hides s v)
@[simp] theorem signalVec_mp (s : State) (v : Nat) : (signalVec s v).mp = s.mp :=
  hideHi_mp (signalVec_hides s v)
@[simp] theorem signalVec_rim (s : State) (v : Nat) : (signalVec s v).rim = s.rim :=
  hideHi_rim (signalVec_hides s v)
@[simp] theorem signalVec_pwr (s : State) (v : Nat) : (signalVec s v).pwr = s.pwr :=
  hideHi_pwr (signalVec_hides s v)
@[simp] theorem signalVec_err (s : State) (v : Nat) : (signalVec s v).err = s.err :=
  hideHi_err (signalVec_hides s v)
@[simp] theorem signalVec_boot (s : State) (v : Nat) : (signalVec s v).boot = s.boot :=
  hideHi_boot (signalVec_hides s v)
@[simp] theorem signalVec_sst (s : State) (v : Nat) : (signalVec s v).sst = s.sst :=
  hideHi_sst (signalVec_hides s v)
@[simp] theorem signalVec_sec (s : State) (v : Nat) : (signalVec s v).sec = s.sec :=
  hideHi_sec (signalVec_hides s v)
@[simp] theorem signalVec_pmu (s : State) (v : Nat) : (signalVec s v).pmu = s.pmu :=
  hideHi_pmu (signalVec_hides s v)

@[simp] theorem countUp_pending (s : State) (n : Nat) : (countUp s n).pending = s.pending :=
  hideRegs_pending (countUp_hides s n)
@[simp] theorem countUp_freeCtr (s : State) (n : Nat) : (countUp s n).freeCtr = s.freeCtr :=
  hideRegs_freeCtr (countUp_hides s n)
@[simp] theorem countUp_mem (s : State) (n : Nat) : (countUp s n).mem = s.mem :=
  hideRegs_mem (countUp_hides s n)
@[simp] theorem countUp_ecc (s : State) (n : Nat) : (countUp s n).ecc = s.ecc :=
  hideRegs_ecc (countUp_hides s n)
@[simp] theorem countUp_wells (s : State) (n : Nat) : (countUp s n).wells = s.wells :=
  hideRegs_wells (countUp_hides s n)
@[simp] theorem countUp_strs (s : State) (n : Nat) : (countUp s n).strs = s.strs :=
  hideRegs_strs (countUp_hides s n)
@[simp] theorem countUp_dps (s : State) (n : Nat) : (countUp s n).dps = s.dps :=
  hideRegs_dps (countUp_hides s n)
@[simp] theorem countUp_dc (s : State) (n : Nat) : (countUp s n).dc = s.dc :=
  hideRegs_dc (countUp_hides s n)
@[simp] theorem countUp_fiq (s : State) (n : Nat) : (countUp s n).fiq = s.fiq :=
  hideRegs_fiq (countUp_hides s n)
@[simp] theorem countUp_mcs (s : State) (n : Nat) : (countUp s n).mcs = s.mcs :=
  hideRegs_mcs (countUp_hides s n)
@[simp] theorem countUp_lk (s : State) (n : Nat) : (countUp s n).lk = s.lk :=
  hideRegs_lk (countUp_hides s n)
@[simp] theorem countUp_tb (s : State) (n : Nat) : (countUp s n).tb = s.tb :=
  hideRegs_tb (countUp_hides s n)
@[simp] theorem countUp_harts (s : State) (n : Nat) : (countUp s n).harts = s.harts :=
  hideRegs_harts (countUp_hides s n)
@[simp] theorem countUp_mp (s : State) (n : Nat) : (countUp s n).mp = s.mp :=
  hideRegs_mp (countUp_hides s n)
@[simp] theorem countUp_rim (s : State) (n : Nat) : (countUp s n).rim = s.rim :=
  hideRegs_rim (countUp_hides s n)
@[simp] theorem countUp_pwr (s : State) (n : Nat) : (countUp s n).pwr = s.pwr :=
  hideRegs_pwr (countUp_hides s n)
@[simp] theorem countUp_err (s : State) (n : Nat) : (countUp s n).err = s.err :=
  hideRegs_err (countUp_hides s n)
@[simp] theorem countUp_boot (s : State) (n : Nat) : (countUp s n).boot = s.boot :=
  hideRegs_boot (countUp_hides s n)
@[simp] theorem countUp_sst (s : State) (n : Nat) : (countUp s n).sst = s.sst :=
  hideRegs_sst (countUp_hides s n)
@[simp] theorem countUp_sec (s : State) (n : Nat) : (countUp s n).sec = s.sec :=
  hideRegs_sec (countUp_hides s n)
@[simp] theorem countUp_pmu (s : State) (n : Nat) : (countUp s n).pmu = s.pmu :=
  hideRegs_pmu (countUp_hides s n)

@[simp] theorem event_pending (s : State) (c u e : Nat) : (event s c u e).pending = s.pending :=
  hideRegs_pending (event_hides s c u e)
@[simp] theorem event_freeCtr (s : State) (c u e : Nat) : (event s c u e).freeCtr = s.freeCtr :=
  hideRegs_freeCtr (event_hides s c u e)
@[simp] theorem event_mem (s : State) (c u e : Nat) : (event s c u e).mem = s.mem :=
  hideRegs_mem (event_hides s c u e)
@[simp] theorem event_ecc (s : State) (c u e : Nat) : (event s c u e).ecc = s.ecc :=
  hideRegs_ecc (event_hides s c u e)
@[simp] theorem event_wells (s : State) (c u e : Nat) : (event s c u e).wells = s.wells :=
  hideRegs_wells (event_hides s c u e)
@[simp] theorem event_strs (s : State) (c u e : Nat) : (event s c u e).strs = s.strs :=
  hideRegs_strs (event_hides s c u e)
@[simp] theorem event_dps (s : State) (c u e : Nat) : (event s c u e).dps = s.dps :=
  hideRegs_dps (event_hides s c u e)
@[simp] theorem event_dc (s : State) (c u e : Nat) : (event s c u e).dc = s.dc :=
  hideRegs_dc (event_hides s c u e)
@[simp] theorem event_fiq (s : State) (c u e : Nat) : (event s c u e).fiq = s.fiq :=
  hideRegs_fiq (event_hides s c u e)
@[simp] theorem event_mcs (s : State) (c u e : Nat) : (event s c u e).mcs = s.mcs :=
  hideRegs_mcs (event_hides s c u e)
@[simp] theorem event_lk (s : State) (c u e : Nat) : (event s c u e).lk = s.lk :=
  hideRegs_lk (event_hides s c u e)
@[simp] theorem event_tb (s : State) (c u e : Nat) : (event s c u e).tb = s.tb :=
  hideRegs_tb (event_hides s c u e)
@[simp] theorem event_harts (s : State) (c u e : Nat) : (event s c u e).harts = s.harts :=
  hideRegs_harts (event_hides s c u e)
@[simp] theorem event_mp (s : State) (c u e : Nat) : (event s c u e).mp = s.mp :=
  hideRegs_mp (event_hides s c u e)
@[simp] theorem event_rim (s : State) (c u e : Nat) : (event s c u e).rim = s.rim :=
  hideRegs_rim (event_hides s c u e)
@[simp] theorem event_pwr (s : State) (c u e : Nat) : (event s c u e).pwr = s.pwr :=
  hideRegs_pwr (event_hides s c u e)
@[simp] theorem event_err (s : State) (c u e : Nat) : (event s c u e).err = s.err :=
  hideRegs_err (event_hides s c u e)
@[simp] theorem event_boot (s : State) (c u e : Nat) : (event s c u e).boot = s.boot :=
  hideRegs_boot (event_hides s c u e)
@[simp] theorem event_sst (s : State) (c u e : Nat) : (event s c u e).sst = s.sst :=
  hideRegs_sst (event_hides s c u e)
@[simp] theorem event_sec (s : State) (c u e : Nat) : (event s c u e).sec = s.sec :=
  hideRegs_sec (event_hides s c u e)
@[simp] theorem event_pmu (s : State) (c u e : Nat) : (event s c u e).pmu = s.pmu :=
  hideRegs_pmu (event_hides s c u e)

@[simp] theorem logEntry_pending (s : State) (f : FaultInfo) (sc : Nat) (k p : Option Nat) : (logEntry s f sc k p).pending = s.pending :=
  hideLog_pending (logEntry_hides s f sc k p)
@[simp] theorem logEntry_freeCtr (s : State) (f : FaultInfo) (sc : Nat) (k p : Option Nat) : (logEntry s f sc k p).freeCtr = s.freeCtr :=
  hideLog_freeCtr (logEntry_hides s f sc k p)
@[simp] theorem logEntry_mem (s : State) (f : FaultInfo) (sc : Nat) (k p : Option Nat) : (logEntry s f sc k p).mem = s.mem :=
  hideLog_mem (logEntry_hides s f sc k p)
@[simp] theorem logEntry_ecc (s : State) (f : FaultInfo) (sc : Nat) (k p : Option Nat) : (logEntry s f sc k p).ecc = s.ecc :=
  hideLog_ecc (logEntry_hides s f sc k p)
@[simp] theorem logEntry_wells (s : State) (f : FaultInfo) (sc : Nat) (k p : Option Nat) : (logEntry s f sc k p).wells = s.wells :=
  hideLog_wells (logEntry_hides s f sc k p)
@[simp] theorem logEntry_strs (s : State) (f : FaultInfo) (sc : Nat) (k p : Option Nat) : (logEntry s f sc k p).strs = s.strs :=
  hideLog_strs (logEntry_hides s f sc k p)
@[simp] theorem logEntry_dps (s : State) (f : FaultInfo) (sc : Nat) (k p : Option Nat) : (logEntry s f sc k p).dps = s.dps :=
  hideLog_dps (logEntry_hides s f sc k p)
@[simp] theorem logEntry_dc (s : State) (f : FaultInfo) (sc : Nat) (k p : Option Nat) : (logEntry s f sc k p).dc = s.dc :=
  hideLog_dc (logEntry_hides s f sc k p)
@[simp] theorem logEntry_fiq (s : State) (f : FaultInfo) (sc : Nat) (k p : Option Nat) : (logEntry s f sc k p).fiq = s.fiq :=
  hideLog_fiq (logEntry_hides s f sc k p)
@[simp] theorem logEntry_mcs (s : State) (f : FaultInfo) (sc : Nat) (k p : Option Nat) : (logEntry s f sc k p).mcs = s.mcs :=
  hideLog_mcs (logEntry_hides s f sc k p)
@[simp] theorem logEntry_lk (s : State) (f : FaultInfo) (sc : Nat) (k p : Option Nat) : (logEntry s f sc k p).lk = s.lk :=
  hideLog_lk (logEntry_hides s f sc k p)
@[simp] theorem logEntry_tb (s : State) (f : FaultInfo) (sc : Nat) (k p : Option Nat) : (logEntry s f sc k p).tb = s.tb :=
  hideLog_tb (logEntry_hides s f sc k p)
@[simp] theorem logEntry_harts (s : State) (f : FaultInfo) (sc : Nat) (k p : Option Nat) : (logEntry s f sc k p).harts = s.harts :=
  hideLog_harts (logEntry_hides s f sc k p)
@[simp] theorem logEntry_mp (s : State) (f : FaultInfo) (sc : Nat) (k p : Option Nat) : (logEntry s f sc k p).mp = s.mp :=
  hideLog_mp (logEntry_hides s f sc k p)
@[simp] theorem logEntry_rim (s : State) (f : FaultInfo) (sc : Nat) (k p : Option Nat) : (logEntry s f sc k p).rim = s.rim :=
  hideLog_rim (logEntry_hides s f sc k p)
@[simp] theorem logEntry_pwr (s : State) (f : FaultInfo) (sc : Nat) (k p : Option Nat) : (logEntry s f sc k p).pwr = s.pwr :=
  hideLog_pwr (logEntry_hides s f sc k p)
@[simp] theorem logEntry_boot (s : State) (f : FaultInfo) (sc : Nat) (k p : Option Nat) : (logEntry s f sc k p).boot = s.boot :=
  hideLog_boot (logEntry_hides s f sc k p)
@[simp] theorem logEntry_sst (s : State) (f : FaultInfo) (sc : Nat) (k p : Option Nat) : (logEntry s f sc k p).sst = s.sst :=
  hideLog_sst (logEntry_hides s f sc k p)
@[simp] theorem logEntry_sec (s : State) (f : FaultInfo) (sc : Nat) (k p : Option Nat) : (logEntry s f sc k p).sec = s.sec :=
  hideLog_sec (logEntry_hides s f sc k p)
@[simp] theorem logEntry_pmu (s : State) (f : FaultInfo) (sc : Nat) (k p : Option Nat) : (logEntry s f sc k p).pmu = s.pmu :=
  hideLog_pmu (logEntry_hides s f sc k p)

@[simp] theorem pipeFault_pending (s : State) (p : Nat) (f : FaultInfo) (k : Option Nat) : (pipeFault s p f k).pending = s.pending :=
  hideLog_pending (pipeFault_hides s p f k)
@[simp] theorem pipeFault_freeCtr (s : State) (p : Nat) (f : FaultInfo) (k : Option Nat) : (pipeFault s p f k).freeCtr = s.freeCtr :=
  hideLog_freeCtr (pipeFault_hides s p f k)
@[simp] theorem pipeFault_mem (s : State) (p : Nat) (f : FaultInfo) (k : Option Nat) : (pipeFault s p f k).mem = s.mem :=
  hideLog_mem (pipeFault_hides s p f k)
@[simp] theorem pipeFault_ecc (s : State) (p : Nat) (f : FaultInfo) (k : Option Nat) : (pipeFault s p f k).ecc = s.ecc :=
  hideLog_ecc (pipeFault_hides s p f k)
@[simp] theorem pipeFault_wells (s : State) (p : Nat) (f : FaultInfo) (k : Option Nat) : (pipeFault s p f k).wells = s.wells :=
  hideLog_wells (pipeFault_hides s p f k)
@[simp] theorem pipeFault_strs (s : State) (p : Nat) (f : FaultInfo) (k : Option Nat) : (pipeFault s p f k).strs = s.strs :=
  hideLog_strs (pipeFault_hides s p f k)
@[simp] theorem pipeFault_dps (s : State) (p : Nat) (f : FaultInfo) (k : Option Nat) : (pipeFault s p f k).dps = s.dps :=
  hideLog_dps (pipeFault_hides s p f k)
@[simp] theorem pipeFault_dc (s : State) (p : Nat) (f : FaultInfo) (k : Option Nat) : (pipeFault s p f k).dc = s.dc :=
  hideLog_dc (pipeFault_hides s p f k)
@[simp] theorem pipeFault_fiq (s : State) (p : Nat) (f : FaultInfo) (k : Option Nat) : (pipeFault s p f k).fiq = s.fiq :=
  hideLog_fiq (pipeFault_hides s p f k)
@[simp] theorem pipeFault_mcs (s : State) (p : Nat) (f : FaultInfo) (k : Option Nat) : (pipeFault s p f k).mcs = s.mcs :=
  hideLog_mcs (pipeFault_hides s p f k)
@[simp] theorem pipeFault_lk (s : State) (p : Nat) (f : FaultInfo) (k : Option Nat) : (pipeFault s p f k).lk = s.lk :=
  hideLog_lk (pipeFault_hides s p f k)
@[simp] theorem pipeFault_tb (s : State) (p : Nat) (f : FaultInfo) (k : Option Nat) : (pipeFault s p f k).tb = s.tb :=
  hideLog_tb (pipeFault_hides s p f k)
@[simp] theorem pipeFault_harts (s : State) (p : Nat) (f : FaultInfo) (k : Option Nat) : (pipeFault s p f k).harts = s.harts :=
  hideLog_harts (pipeFault_hides s p f k)
@[simp] theorem pipeFault_mp (s : State) (p : Nat) (f : FaultInfo) (k : Option Nat) : (pipeFault s p f k).mp = s.mp :=
  hideLog_mp (pipeFault_hides s p f k)
@[simp] theorem pipeFault_rim (s : State) (p : Nat) (f : FaultInfo) (k : Option Nat) : (pipeFault s p f k).rim = s.rim :=
  hideLog_rim (pipeFault_hides s p f k)
@[simp] theorem pipeFault_pwr (s : State) (p : Nat) (f : FaultInfo) (k : Option Nat) : (pipeFault s p f k).pwr = s.pwr :=
  hideLog_pwr (pipeFault_hides s p f k)
@[simp] theorem pipeFault_boot (s : State) (p : Nat) (f : FaultInfo) (k : Option Nat) : (pipeFault s p f k).boot = s.boot :=
  hideLog_boot (pipeFault_hides s p f k)
@[simp] theorem pipeFault_sst (s : State) (p : Nat) (f : FaultInfo) (k : Option Nat) : (pipeFault s p f k).sst = s.sst :=
  hideLog_sst (pipeFault_hides s p f k)
@[simp] theorem pipeFault_sec (s : State) (p : Nat) (f : FaultInfo) (k : Option Nat) : (pipeFault s p f k).sec = s.sec :=
  hideLog_sec (pipeFault_hides s p f k)
@[simp] theorem pipeFault_pmu (s : State) (p : Nat) (f : FaultInfo) (k : Option Nat) : (pipeFault s p f k).pmu = s.pmu :=
  hideLog_pmu (pipeFault_hides s p f k)

@[simp] theorem wellFault_pending (s : State) (w : Nat) (f : FaultInfo) : (wellFault s w f).pending = s.pending :=
  hideLog_pending (wellFault_hides s w f)
@[simp] theorem wellFault_freeCtr (s : State) (w : Nat) (f : FaultInfo) : (wellFault s w f).freeCtr = s.freeCtr :=
  hideLog_freeCtr (wellFault_hides s w f)
@[simp] theorem wellFault_mem (s : State) (w : Nat) (f : FaultInfo) : (wellFault s w f).mem = s.mem :=
  hideLog_mem (wellFault_hides s w f)
@[simp] theorem wellFault_ecc (s : State) (w : Nat) (f : FaultInfo) : (wellFault s w f).ecc = s.ecc :=
  hideLog_ecc (wellFault_hides s w f)
@[simp] theorem wellFault_wells (s : State) (w : Nat) (f : FaultInfo) : (wellFault s w f).wells = s.wells :=
  hideLog_wells (wellFault_hides s w f)
@[simp] theorem wellFault_strs (s : State) (w : Nat) (f : FaultInfo) : (wellFault s w f).strs = s.strs :=
  hideLog_strs (wellFault_hides s w f)
@[simp] theorem wellFault_dps (s : State) (w : Nat) (f : FaultInfo) : (wellFault s w f).dps = s.dps :=
  hideLog_dps (wellFault_hides s w f)
@[simp] theorem wellFault_dc (s : State) (w : Nat) (f : FaultInfo) : (wellFault s w f).dc = s.dc :=
  hideLog_dc (wellFault_hides s w f)
@[simp] theorem wellFault_fiq (s : State) (w : Nat) (f : FaultInfo) : (wellFault s w f).fiq = s.fiq :=
  hideLog_fiq (wellFault_hides s w f)
@[simp] theorem wellFault_mcs (s : State) (w : Nat) (f : FaultInfo) : (wellFault s w f).mcs = s.mcs :=
  hideLog_mcs (wellFault_hides s w f)
@[simp] theorem wellFault_lk (s : State) (w : Nat) (f : FaultInfo) : (wellFault s w f).lk = s.lk :=
  hideLog_lk (wellFault_hides s w f)
@[simp] theorem wellFault_tb (s : State) (w : Nat) (f : FaultInfo) : (wellFault s w f).tb = s.tb :=
  hideLog_tb (wellFault_hides s w f)
@[simp] theorem wellFault_harts (s : State) (w : Nat) (f : FaultInfo) : (wellFault s w f).harts = s.harts :=
  hideLog_harts (wellFault_hides s w f)
@[simp] theorem wellFault_mp (s : State) (w : Nat) (f : FaultInfo) : (wellFault s w f).mp = s.mp :=
  hideLog_mp (wellFault_hides s w f)
@[simp] theorem wellFault_rim (s : State) (w : Nat) (f : FaultInfo) : (wellFault s w f).rim = s.rim :=
  hideLog_rim (wellFault_hides s w f)
@[simp] theorem wellFault_pwr (s : State) (w : Nat) (f : FaultInfo) : (wellFault s w f).pwr = s.pwr :=
  hideLog_pwr (wellFault_hides s w f)
@[simp] theorem wellFault_boot (s : State) (w : Nat) (f : FaultInfo) : (wellFault s w f).boot = s.boot :=
  hideLog_boot (wellFault_hides s w f)
@[simp] theorem wellFault_sst (s : State) (w : Nat) (f : FaultInfo) : (wellFault s w f).sst = s.sst :=
  hideLog_sst (wellFault_hides s w f)
@[simp] theorem wellFault_sec (s : State) (w : Nat) (f : FaultInfo) : (wellFault s w f).sec = s.sec :=
  hideLog_sec (wellFault_hides s w f)
@[simp] theorem wellFault_pmu (s : State) (w : Nat) (f : FaultInfo) : (wellFault s w f).pmu = s.pmu :=
  hideLog_pmu (wellFault_hides s w f)

@[simp] theorem devFault_pending (s : State) (f : FaultInfo) : (devFault s f).pending = s.pending :=
  hideLog_pending (devFault_hides s f)
@[simp] theorem devFault_freeCtr (s : State) (f : FaultInfo) : (devFault s f).freeCtr = s.freeCtr :=
  hideLog_freeCtr (devFault_hides s f)
@[simp] theorem devFault_mem (s : State) (f : FaultInfo) : (devFault s f).mem = s.mem :=
  hideLog_mem (devFault_hides s f)
@[simp] theorem devFault_ecc (s : State) (f : FaultInfo) : (devFault s f).ecc = s.ecc :=
  hideLog_ecc (devFault_hides s f)
@[simp] theorem devFault_wells (s : State) (f : FaultInfo) : (devFault s f).wells = s.wells :=
  hideLog_wells (devFault_hides s f)
@[simp] theorem devFault_strs (s : State) (f : FaultInfo) : (devFault s f).strs = s.strs :=
  hideLog_strs (devFault_hides s f)
@[simp] theorem devFault_dps (s : State) (f : FaultInfo) : (devFault s f).dps = s.dps :=
  hideLog_dps (devFault_hides s f)
@[simp] theorem devFault_dc (s : State) (f : FaultInfo) : (devFault s f).dc = s.dc :=
  hideLog_dc (devFault_hides s f)
@[simp] theorem devFault_fiq (s : State) (f : FaultInfo) : (devFault s f).fiq = s.fiq :=
  hideLog_fiq (devFault_hides s f)
@[simp] theorem devFault_mcs (s : State) (f : FaultInfo) : (devFault s f).mcs = s.mcs :=
  hideLog_mcs (devFault_hides s f)
@[simp] theorem devFault_lk (s : State) (f : FaultInfo) : (devFault s f).lk = s.lk :=
  hideLog_lk (devFault_hides s f)
@[simp] theorem devFault_tb (s : State) (f : FaultInfo) : (devFault s f).tb = s.tb :=
  hideLog_tb (devFault_hides s f)
@[simp] theorem devFault_harts (s : State) (f : FaultInfo) : (devFault s f).harts = s.harts :=
  hideLog_harts (devFault_hides s f)
@[simp] theorem devFault_mp (s : State) (f : FaultInfo) : (devFault s f).mp = s.mp :=
  hideLog_mp (devFault_hides s f)
@[simp] theorem devFault_rim (s : State) (f : FaultInfo) : (devFault s f).rim = s.rim :=
  hideLog_rim (devFault_hides s f)
@[simp] theorem devFault_pwr (s : State) (f : FaultInfo) : (devFault s f).pwr = s.pwr :=
  hideLog_pwr (devFault_hides s f)
@[simp] theorem devFault_boot (s : State) (f : FaultInfo) : (devFault s f).boot = s.boot :=
  hideLog_boot (devFault_hides s f)
@[simp] theorem devFault_sst (s : State) (f : FaultInfo) : (devFault s f).sst = s.sst :=
  hideLog_sst (devFault_hides s f)
@[simp] theorem devFault_sec (s : State) (f : FaultInfo) : (devFault s f).sec = s.sec :=
  hideLog_sec (devFault_hides s f)
@[simp] theorem devFault_pmu (s : State) (f : FaultInfo) : (devFault s f).pmu = s.pmu :=
  hideLog_pmu (devFault_hides s f)

@[simp] theorem reportTask_pending (s : State) (t n : Nat) : (reportTask s t n).pending = s.pending :=
  hideDc_pending (reportTask_hides s t n)
@[simp] theorem reportTask_freeCtr (s : State) (t n : Nat) : (reportTask s t n).freeCtr = s.freeCtr :=
  hideDc_freeCtr (reportTask_hides s t n)
@[simp] theorem reportTask_mem (s : State) (t n : Nat) : (reportTask s t n).mem = s.mem :=
  hideDc_mem (reportTask_hides s t n)
@[simp] theorem reportTask_ecc (s : State) (t n : Nat) : (reportTask s t n).ecc = s.ecc :=
  hideDc_ecc (reportTask_hides s t n)
@[simp] theorem reportTask_wells (s : State) (t n : Nat) : (reportTask s t n).wells = s.wells :=
  hideDc_wells (reportTask_hides s t n)
@[simp] theorem reportTask_strs (s : State) (t n : Nat) : (reportTask s t n).strs = s.strs :=
  hideDc_strs (reportTask_hides s t n)
@[simp] theorem reportTask_dps (s : State) (t n : Nat) : (reportTask s t n).dps = s.dps :=
  hideDc_dps (reportTask_hides s t n)
@[simp] theorem reportTask_fiq (s : State) (t n : Nat) : (reportTask s t n).fiq = s.fiq :=
  hideDc_fiq (reportTask_hides s t n)
@[simp] theorem reportTask_mcs (s : State) (t n : Nat) : (reportTask s t n).mcs = s.mcs :=
  hideDc_mcs (reportTask_hides s t n)
@[simp] theorem reportTask_lk (s : State) (t n : Nat) : (reportTask s t n).lk = s.lk :=
  hideDc_lk (reportTask_hides s t n)
@[simp] theorem reportTask_tb (s : State) (t n : Nat) : (reportTask s t n).tb = s.tb :=
  hideDc_tb (reportTask_hides s t n)
@[simp] theorem reportTask_harts (s : State) (t n : Nat) : (reportTask s t n).harts = s.harts :=
  hideDc_harts (reportTask_hides s t n)
@[simp] theorem reportTask_mp (s : State) (t n : Nat) : (reportTask s t n).mp = s.mp :=
  hideDc_mp (reportTask_hides s t n)
@[simp] theorem reportTask_rim (s : State) (t n : Nat) : (reportTask s t n).rim = s.rim :=
  hideDc_rim (reportTask_hides s t n)
@[simp] theorem reportTask_pwr (s : State) (t n : Nat) : (reportTask s t n).pwr = s.pwr :=
  hideDc_pwr (reportTask_hides s t n)
@[simp] theorem reportTask_boot (s : State) (t n : Nat) : (reportTask s t n).boot = s.boot :=
  hideDc_boot (reportTask_hides s t n)
@[simp] theorem reportTask_sst (s : State) (t n : Nat) : (reportTask s t n).sst = s.sst :=
  hideDc_sst (reportTask_hides s t n)
@[simp] theorem reportTask_sec (s : State) (t n : Nat) : (reportTask s t n).sec = s.sec :=
  hideDc_sec (reportTask_hides s t n)
@[simp] theorem reportTask_pmu (s : State) (t n : Nat) : (reportTask s t n).pmu = s.pmu :=
  hideDc_pmu (reportTask_hides s t n)

@[simp] theorem taskFault_pending (s : State) (t : Nat) (f : FaultInfo) : (taskFault s t f).pending = s.pending :=
  hideDc_pending (taskFault_hides s t f)
@[simp] theorem taskFault_freeCtr (s : State) (t : Nat) (f : FaultInfo) : (taskFault s t f).freeCtr = s.freeCtr :=
  hideDc_freeCtr (taskFault_hides s t f)
@[simp] theorem taskFault_mem (s : State) (t : Nat) (f : FaultInfo) : (taskFault s t f).mem = s.mem :=
  hideDc_mem (taskFault_hides s t f)
@[simp] theorem taskFault_ecc (s : State) (t : Nat) (f : FaultInfo) : (taskFault s t f).ecc = s.ecc :=
  hideDc_ecc (taskFault_hides s t f)
@[simp] theorem taskFault_wells (s : State) (t : Nat) (f : FaultInfo) : (taskFault s t f).wells = s.wells :=
  hideDc_wells (taskFault_hides s t f)
@[simp] theorem taskFault_strs (s : State) (t : Nat) (f : FaultInfo) : (taskFault s t f).strs = s.strs :=
  hideDc_strs (taskFault_hides s t f)
@[simp] theorem taskFault_dps (s : State) (t : Nat) (f : FaultInfo) : (taskFault s t f).dps = s.dps :=
  hideDc_dps (taskFault_hides s t f)
@[simp] theorem taskFault_fiq (s : State) (t : Nat) (f : FaultInfo) : (taskFault s t f).fiq = s.fiq :=
  hideDc_fiq (taskFault_hides s t f)
@[simp] theorem taskFault_mcs (s : State) (t : Nat) (f : FaultInfo) : (taskFault s t f).mcs = s.mcs :=
  hideDc_mcs (taskFault_hides s t f)
@[simp] theorem taskFault_lk (s : State) (t : Nat) (f : FaultInfo) : (taskFault s t f).lk = s.lk :=
  hideDc_lk (taskFault_hides s t f)
@[simp] theorem taskFault_tb (s : State) (t : Nat) (f : FaultInfo) : (taskFault s t f).tb = s.tb :=
  hideDc_tb (taskFault_hides s t f)
@[simp] theorem taskFault_harts (s : State) (t : Nat) (f : FaultInfo) : (taskFault s t f).harts = s.harts :=
  hideDc_harts (taskFault_hides s t f)
@[simp] theorem taskFault_mp (s : State) (t : Nat) (f : FaultInfo) : (taskFault s t f).mp = s.mp :=
  hideDc_mp (taskFault_hides s t f)
@[simp] theorem taskFault_rim (s : State) (t : Nat) (f : FaultInfo) : (taskFault s t f).rim = s.rim :=
  hideDc_rim (taskFault_hides s t f)
@[simp] theorem taskFault_pwr (s : State) (t : Nat) (f : FaultInfo) : (taskFault s t f).pwr = s.pwr :=
  hideDc_pwr (taskFault_hides s t f)
@[simp] theorem taskFault_boot (s : State) (t : Nat) (f : FaultInfo) : (taskFault s t f).boot = s.boot :=
  hideDc_boot (taskFault_hides s t f)
@[simp] theorem taskFault_sst (s : State) (t : Nat) (f : FaultInfo) : (taskFault s t f).sst = s.sst :=
  hideDc_sst (taskFault_hides s t f)
@[simp] theorem taskFault_sec (s : State) (t : Nat) (f : FaultInfo) : (taskFault s t f).sec = s.sec :=
  hideDc_sec (taskFault_hides s t f)
@[simp] theorem taskFault_pmu (s : State) (t : Nat) (f : FaultInfo) : (taskFault s t f).pmu = s.pmu :=
  hideDc_pmu (taskFault_hides s t f)

@[simp] theorem tagIssue_pending (s : State) (w i d : Nat) : (tagIssue s w i d).pending = s.pending :=
  hidePmu_pending (tagIssue_hides s w i d)
@[simp] theorem tagIssue_freeCtr (s : State) (w i d : Nat) : (tagIssue s w i d).freeCtr = s.freeCtr :=
  hidePmu_freeCtr (tagIssue_hides s w i d)
@[simp] theorem tagIssue_mem (s : State) (w i d : Nat) : (tagIssue s w i d).mem = s.mem :=
  hidePmu_mem (tagIssue_hides s w i d)
@[simp] theorem tagIssue_ecc (s : State) (w i d : Nat) : (tagIssue s w i d).ecc = s.ecc :=
  hidePmu_ecc (tagIssue_hides s w i d)
@[simp] theorem tagIssue_regs (s : State) (w i d : Nat) : (tagIssue s w i d).regs = s.regs :=
  hidePmu_regs (tagIssue_hides s w i d)
@[simp] theorem tagIssue_wells (s : State) (w i d : Nat) : (tagIssue s w i d).wells = s.wells :=
  hidePmu_wells (tagIssue_hides s w i d)
@[simp] theorem tagIssue_strs (s : State) (w i d : Nat) : (tagIssue s w i d).strs = s.strs :=
  hidePmu_strs (tagIssue_hides s w i d)
@[simp] theorem tagIssue_hi (s : State) (w i d : Nat) : (tagIssue s w i d).hi = s.hi :=
  hidePmu_hi (tagIssue_hides s w i d)
@[simp] theorem tagIssue_dps (s : State) (w i d : Nat) : (tagIssue s w i d).dps = s.dps :=
  hidePmu_dps (tagIssue_hides s w i d)
@[simp] theorem tagIssue_dc (s : State) (w i d : Nat) : (tagIssue s w i d).dc = s.dc :=
  hidePmu_dc (tagIssue_hides s w i d)
@[simp] theorem tagIssue_fiq (s : State) (w i d : Nat) : (tagIssue s w i d).fiq = s.fiq :=
  hidePmu_fiq (tagIssue_hides s w i d)
@[simp] theorem tagIssue_mcs (s : State) (w i d : Nat) : (tagIssue s w i d).mcs = s.mcs :=
  hidePmu_mcs (tagIssue_hides s w i d)
@[simp] theorem tagIssue_lk (s : State) (w i d : Nat) : (tagIssue s w i d).lk = s.lk :=
  hidePmu_lk (tagIssue_hides s w i d)
@[simp] theorem tagIssue_tb (s : State) (w i d : Nat) : (tagIssue s w i d).tb = s.tb :=
  hidePmu_tb (tagIssue_hides s w i d)
@[simp] theorem tagIssue_harts (s : State) (w i d : Nat) : (tagIssue s w i d).harts = s.harts :=
  hidePmu_harts (tagIssue_hides s w i d)
@[simp] theorem tagIssue_mp (s : State) (w i d : Nat) : (tagIssue s w i d).mp = s.mp :=
  hidePmu_mp (tagIssue_hides s w i d)
@[simp] theorem tagIssue_rim (s : State) (w i d : Nat) : (tagIssue s w i d).rim = s.rim :=
  hidePmu_rim (tagIssue_hides s w i d)
@[simp] theorem tagIssue_pwr (s : State) (w i d : Nat) : (tagIssue s w i d).pwr = s.pwr :=
  hidePmu_pwr (tagIssue_hides s w i d)
@[simp] theorem tagIssue_err (s : State) (w i d : Nat) : (tagIssue s w i d).err = s.err :=
  hidePmu_err (tagIssue_hides s w i d)
@[simp] theorem tagIssue_boot (s : State) (w i d : Nat) : (tagIssue s w i d).boot = s.boot :=
  hidePmu_boot (tagIssue_hides s w i d)
@[simp] theorem tagIssue_sst (s : State) (w i d : Nat) : (tagIssue s w i d).sst = s.sst :=
  hidePmu_sst (tagIssue_hides s w i d)
@[simp] theorem tagIssue_sec (s : State) (w i d : Nat) : (tagIssue s w i d).sec = s.sec :=
  hidePmu_sec (tagIssue_hides s w i d)

@[simp] theorem sqPut_pending (s : State) (w e : Nat) (x : SqEntry) : (sqPut s w e x).pending = s.pending :=
  hideWells_pending (sqPut_hides s w e x)
@[simp] theorem sqPut_freeCtr (s : State) (w e : Nat) (x : SqEntry) : (sqPut s w e x).freeCtr = s.freeCtr :=
  hideWells_freeCtr (sqPut_hides s w e x)
@[simp] theorem sqPut_mem (s : State) (w e : Nat) (x : SqEntry) : (sqPut s w e x).mem = s.mem :=
  hideWells_mem (sqPut_hides s w e x)
@[simp] theorem sqPut_ecc (s : State) (w e : Nat) (x : SqEntry) : (sqPut s w e x).ecc = s.ecc :=
  hideWells_ecc (sqPut_hides s w e x)
@[simp] theorem sqPut_strs (s : State) (w e : Nat) (x : SqEntry) : (sqPut s w e x).strs = s.strs :=
  hideWells_strs (sqPut_hides s w e x)
@[simp] theorem sqPut_dps (s : State) (w e : Nat) (x : SqEntry) : (sqPut s w e x).dps = s.dps :=
  hideWells_dps (sqPut_hides s w e x)
@[simp] theorem sqPut_dc (s : State) (w e : Nat) (x : SqEntry) : (sqPut s w e x).dc = s.dc :=
  hideWells_dc (sqPut_hides s w e x)
@[simp] theorem sqPut_fiq (s : State) (w e : Nat) (x : SqEntry) : (sqPut s w e x).fiq = s.fiq :=
  hideWells_fiq (sqPut_hides s w e x)
@[simp] theorem sqPut_mcs (s : State) (w e : Nat) (x : SqEntry) : (sqPut s w e x).mcs = s.mcs :=
  hideWells_mcs (sqPut_hides s w e x)
@[simp] theorem sqPut_lk (s : State) (w e : Nat) (x : SqEntry) : (sqPut s w e x).lk = s.lk :=
  hideWells_lk (sqPut_hides s w e x)
@[simp] theorem sqPut_tb (s : State) (w e : Nat) (x : SqEntry) : (sqPut s w e x).tb = s.tb :=
  hideWells_tb (sqPut_hides s w e x)
@[simp] theorem sqPut_harts (s : State) (w e : Nat) (x : SqEntry) : (sqPut s w e x).harts = s.harts :=
  hideWells_harts (sqPut_hides s w e x)
@[simp] theorem sqPut_mp (s : State) (w e : Nat) (x : SqEntry) : (sqPut s w e x).mp = s.mp :=
  hideWells_mp (sqPut_hides s w e x)
@[simp] theorem sqPut_rim (s : State) (w e : Nat) (x : SqEntry) : (sqPut s w e x).rim = s.rim :=
  hideWells_rim (sqPut_hides s w e x)
@[simp] theorem sqPut_pwr (s : State) (w e : Nat) (x : SqEntry) : (sqPut s w e x).pwr = s.pwr :=
  hideWells_pwr (sqPut_hides s w e x)
@[simp] theorem sqPut_err (s : State) (w e : Nat) (x : SqEntry) : (sqPut s w e x).err = s.err :=
  hideWells_err (sqPut_hides s w e x)
@[simp] theorem sqPut_boot (s : State) (w e : Nat) (x : SqEntry) : (sqPut s w e x).boot = s.boot :=
  hideWells_boot (sqPut_hides s w e x)
@[simp] theorem sqPut_sst (s : State) (w e : Nat) (x : SqEntry) : (sqPut s w e x).sst = s.sst :=
  hideWells_sst (sqPut_hides s w e x)
@[simp] theorem sqPut_sec (s : State) (w e : Nat) (x : SqEntry) : (sqPut s w e x).sec = s.sec :=
  hideWells_sec (sqPut_hides s w e x)
@[simp] theorem sqPut_pmu (s : State) (w e : Nat) (x : SqEntry) : (sqPut s w e x).pmu = s.pmu :=
  hideWells_pmu (sqPut_hides s w e x)

@[simp] theorem sqPut_wells (s : State) (w e : Nat) (x : SqEntry) :
    (sqPut s w e x).wells = (s.setSq w e { x with valve := x.valveNow }).wells := by
  unfold sqPut; simp only; split
  · rfl
  · refine (foldl_part State.wells _ (fun s n => ?_) _ _).trans ?_
    · split
      · exact event_wells ..
      · rfl
    · split
      · exact event_wells ..
      · rfl

end Sys2Proof.Machine
end

