-- ==== Sys2Proof/Laws/KeepBase.lean ====
section
/-! SUPPORT. Tools for the laws of the command queue and of memory: folds, and the outcomes of a command. -/
namespace Sys2Proof.Machine

/-- A fold of steps that leave the queue and memory alone leaves them alone. -/
@[simp] theorem foldl_keep {α : Type} (g : State → α → State)
    (h : ∀ s x, (g s x).pending = s.pending ∧ (g s x).mem = s.mem) (l : List α) (s : State) :
    (l.foldl g s).pending = s.pending ∧ (l.foldl g s).mem = s.mem := by
  induction l generalizing s with
  | nil => exact ⟨rfl, rfl⟩
  | cons x r ih => exact ⟨(ih _).1.trans (h s x).1, (ih _).2.trans (h s x).2⟩

/-- The same where each step also counts. -/
theorem foldl_keep2 {α β : Type} (g : State × β → α → State × β)
    (h : ∀ p x, (g p x).1.pending = p.1.pending ∧ (g p x).1.mem = p.1.mem) (l : List α) (p : State × β) :
    (l.foldl g p).1.pending = p.1.pending ∧ (l.foldl g p).1.mem = p.1.mem := by
  induction l generalizing p with
  | nil => exact ⟨rfl, rfl⟩
  | cons x r ih => exact ⟨(ih _).1.trans (h p x).1, (ih _).2.trans (h p x).2⟩

/-- A fold of steps that leave the queue alone and keep the canonical form keeps it. -/
@[simp] theorem foldl_wf {α : Type} (g : State → α → State)
    (h : ∀ s x, (g s x).pending = s.pending ∧ (s.mem.wf = true → (g s x).mem.wf = true)) (l : List α) (s : State) :
    (l.foldl g s).pending = s.pending ∧ (s.mem.wf = true → (l.foldl g s).mem.wf = true) := by
  induction l generalizing s with
  | nil => exact ⟨rfl, id⟩
  | cons x r ih => exact ⟨(ih _).1.trans (h s x).1, fun hw => (ih _).2 ((h s x).2 hw)⟩

@[simp] theorem ite_wf (c : Prop) [Decidable c] (a b : Memory) :
    (if c then a else b).wf = if c then a.wf else b.wf := apply_ite _ c a b

@[simp] theorem ite_pending (c : Prop) [Decidable c] (a b : State) :
    (if c then a else b).pending = if c then a.pending else b.pending := apply_ite _ c a b

@[simp] theorem ite_mem (c : Prop) [Decidable c] (a b : State) :
    (if c then a else b).mem = if c then a.mem else b.mem := apply_ite _ c a b

/-- A command that answers a next state has left the queue and every byte of memory alone. -/
def OutKeeps (s : State) (o : Out) : Prop :=
  match o with
  | .next t => t.pending = s.pending ∧ t.mem = s.mem
  | _ => True

/-- A command that answers a next state has left the queue alone and kept memory's canonical form. -/
def OutWf (s : State) (o : Out) : Prop :=
  match o with
  | .next t => t.pending = s.pending ∧ (s.mem.wf = true → t.mem.wf = true)
  | _ => True

theorem clocked_keeps {s : State} {o : Out} (h : OutKeeps s o) : OutKeeps s (clocked s o) := by
  unfold clocked; split
  · exact h
  · exact ⟨rfl, rfl⟩

theorem powered_keeps {s : State} {o : Out} (h : OutKeeps s o) : OutKeeps s (powered s o) := by
  unfold powered; split
  · exact h
  · exact ⟨rfl, rfl⟩

theorem clocked_wf {s : State} {o : Out} (h : OutWf s o) : OutWf s (clocked s o) := by
  unfold clocked; split
  · exact h
  · exact ⟨rfl, id⟩

theorem powered_wf {s : State} {o : Out} (h : OutWf s o) : OutWf s (powered s o) := by
  unfold powered; split
  · exact h
  · exact ⟨rfl, id⟩

end Sys2Proof.Machine
end

