-- ==== Sys2Proof/Laws/KeepUnits.lean ====
section
/-! SUPPORT. What each shared operation and each command does to the command queue and to the
memory: the queue is left alone; memory is unchanged, or keeps its canonical form. -/

namespace Sys2Proof.Machine

/-! ### Regs -/

@[simp] theorem State.wr_keep (s : State) (off : Nat) (v : W64) :
    (State.wr s off v).pending = s.pending ∧ (State.wr s off v).mem = s.mem := by
  simp [State.wr]

@[simp] theorem State.setFld_keep (s : State) (off lo len x : Nat) :
    (State.setFld s off lo len x).pending = s.pending ∧ (State.setFld s off lo len x).mem = s.mem := by
  simp [State.setFld]

@[simp] theorem State.setBit_keep (s : State) (off lo : Nat) (b : Bool) :
    (State.setBit s off lo b).pending = s.pending ∧ (State.setBit s off lo b).mem = s.mem := by
  simp [State.setBit]

@[simp] theorem State.addSat_keep (s : State) (off lo len n : Nat) :
    (State.addSat s off lo len n).pending = s.pending ∧ (State.addSat s off lo len n).mem = s.mem := by
  simp [State.addSat]

@[simp] theorem State.addWrap_keep (s : State) (off lo len : Nat) :
    (State.addWrap s off lo len).pending = s.pending ∧ (State.addWrap s off lo len).mem = s.mem := by
  simp [State.addWrap]

@[simp] theorem State.plainWrite_keep (s : State) (off : Nat) (v : W64) :
    (State.plainWrite s off v).pending = s.pending ∧ (State.plainWrite s off v).mem = s.mem := by
  unfold State.plainWrite; split <;> simp

/-! ### Ops -/

@[simp] theorem State.setWell_keep (s : State) (w : Nat) (x : Well) :
    (State.setWell s w x).pending = s.pending ∧ (State.setWell s w x).mem = s.mem := by
  simp [State.setWell]

@[simp] theorem State.setStr_keep (s : State) (i : Nat) (x : Stream) :
    (State.setStr s i x).pending = s.pending ∧ (State.setStr s i x).mem = s.mem := by
  simp [State.setStr]

@[simp] theorem State.setDp_keep (s : State) (n : Nat) (x : Dp) :
    (State.setDp s n x).pending = s.pending ∧ (State.setDp s n x).mem = s.mem := by
  simp [State.setDp]

@[simp] theorem State.setMc_keep (s : State) (n : Nat) (x : Mc) :
    (State.setMc s n x).pending = s.pending ∧ (State.setMc s n x).mem = s.mem := by
  simp [State.setMc]

@[simp] theorem State.setHart_keep (s : State) (i : Nat) (x : Hart) :
    (State.setHart s i x).pending = s.pending ∧ (State.setHart s i x).mem = s.mem := by
  simp [State.setHart]

@[simp] theorem State.setPort_keep (s : State) (n : Nat) (x : LinkPort) :
    (State.setPort s n x).pending = s.pending ∧ (State.setPort s n x).mem = s.mem := by
  simp [State.setPort]

@[simp] theorem State.drawn_keep (s : State) :
    (State.drawn s).pending = s.pending ∧ (State.drawn s).mem = s.mem := by
  simp [State.drawn]

@[simp] theorem sendPending_keep (s : State) (v : Nat) :
    (sendPending s v).pending = s.pending ∧ (sendPending s v).mem = s.mem := by
  simp [sendPending]

@[simp] theorem signalVec_keep (s : State) (v : Nat) :
    (signalVec s v).pending = s.pending ∧ (signalVec s v).mem = s.mem := by
  simp [signalVec]

@[simp] theorem sendAllPending_keep (s : State) :
    (sendAllPending s).pending = s.pending ∧ (sendAllPending s).mem = s.mem := by
  simp [sendAllPending]

@[simp] theorem countUp_keep (s : State) (n : Nat) :
    (countUp s n).pending = s.pending ∧ (countUp s n).mem = s.mem := by
  simp [countUp]

@[simp] theorem event_keep (s : State) (cls unit ev : Nat) :
    (event s cls unit ev).pending = s.pending ∧ (event s cls unit ev).mem = s.mem := by
  simp [event]

@[simp] theorem bwCount_keep (s : State) (i dir : Nat) :
    (bwCount s i dir).pending = s.pending ∧ (bwCount s i dir).mem = s.mem := by
  simp [bwCount]

@[simp] theorem logEntry_keep (s : State) (f : FaultInfo) (scope : Nat) (task pipe : Option Nat) :
    (logEntry s f scope task pipe).pending = s.pending ∧ (logEntry s f scope task pipe).mem = s.mem := by
  simp [logEntry]

@[simp] theorem logOnly_keep (s : State) (f : FaultInfo) :
    (logOnly s f).pending = s.pending ∧ (logOnly s f).mem = s.mem := by
  simp [logOnly]

@[simp] theorem reportTask_keep (s : State) (t status : Nat) :
    (reportTask s t status).pending = s.pending ∧ (reportTask s t status).mem = s.mem := by
  simp [reportTask]

@[simp] theorem taskFault_keep (s : State) (t : Nat) (f : FaultInfo) :
    (taskFault s t f).pending = s.pending ∧ (taskFault s t f).mem = s.mem := by
  simp [taskFault]

@[simp] theorem pipeFault_keep (s : State) (p : Nat) (f : FaultInfo) (task : Option Nat) :
    (pipeFault s p f task).pending = s.pending ∧ (pipeFault s p f task).mem = s.mem := by
  simp [pipeFault]

@[simp] theorem wellFault_keep (s : State) (w : Nat) (f : FaultInfo) :
    (wellFault s w f).pending = s.pending ∧ (wellFault s w f).mem = s.mem := by
  unfold wellFault; split <;> simp

@[simp] theorem devFault_keep (s : State) (f : FaultInfo) :
    (devFault s f).pending = s.pending ∧ (devFault s f).mem = s.mem := by
  simp [devFault]

/-! ### Dram -/

@[simp] theorem State.putLine_keep (s : State) (a : Nat) (l : Line) (d : BitVec 16) :
    (State.putLine s a l d).pending = s.pending ∧ (s.mem.wf = true → (State.putLine s a l d).mem.wf = true) := by
  constructor; simp [State.putLine]; intro hw; simp [State.putLine, hw]

@[simp] theorem checkOut_keep (s : State) (key : Nat) :
    (checkOut s key).pending = s.pending ∧ (checkOut s key).mem = s.mem := by
  simp [checkOut]

@[simp] theorem cacheTouch_keep (s : State) (ch l : Nat) :
    (cacheTouch s ch l).pending = s.pending ∧ (cacheTouch s ch l).mem = s.mem := by
  simp [cacheTouch]

@[simp] theorem cacheWrite_keep (s : State) (ch l : Nat) :
    (cacheWrite s ch l).pending = s.pending ∧ (cacheWrite s ch l).mem = s.mem := by
  simp [cacheWrite]

@[simp] theorem cacheFlush_keep (s : State) (n : Nat) :
    (cacheFlush s n).pending = s.pending ∧ (cacheFlush s n).mem = s.mem := by
  simp [cacheFlush]

@[simp] theorem noteError_keep (s : State) (ch a kind : Nat) :
    (noteError s ch a kind).pending = s.pending ∧ (noteError s ch a kind).mem = s.mem := by
  simp [noteError]

@[simp] theorem noteCorrected_keep (s : State) (ch a : Nat) (inCheck : Bool) :
    (noteCorrected s ch a inCheck).pending = s.pending ∧ (noteCorrected s ch a inCheck).mem = s.mem := by
  simp [noteCorrected]

@[simp] theorem noteUncorrectable_keep (s : State) (ch a kind : Nat) :
    (noteUncorrectable s ch a kind).pending = s.pending ∧ (noteUncorrectable s ch a kind).mem = s.mem := by
  simp [noteUncorrectable]

@[simp] theorem dramRead_keep (s : State) (a : Nat) (count : Bool) :
    (dramRead s a count).2.2.pending = s.pending ∧ (dramRead s a count).2.2.mem = s.mem := by
  unfold dramRead; (try generalize regionOf _ _ = R); (try dsimp only); (repeat' split) <;> simp

@[simp] theorem dramWrite_keep (s : State) (a : Nat) (new : Line) (mask : BitVec 64) :
    (dramWrite s a new mask).pending = s.pending ∧ (s.mem.wf = true → (dramWrite s a new mask).mem.wf = true) := by
  constructor; simp [dramWrite]; intro hw; simp [dramWrite, hw]

@[simp] theorem execCeWriteback_keep (n : Fin 8) (s : State) :
    OutWf s (execCeWriteback n s) := by
  unfold execCeWriteback; apply clocked_wf; (try dsimp only); (repeat' split) <;> (simp [OutWf]; (try (intro hw; simp [hw])))

@[simp] theorem scrubAdvance_keep (s : State) (n : Nat) :
    (scrubAdvance s n).pending = s.pending ∧ (scrubAdvance s n).mem = s.mem := by
  simp [scrubAdvance]

@[simp] theorem execPatrolScrubRead_keep (n : Fin 8) (s : State) :
    OutKeeps s (execPatrolScrubRead n s) := by
  unfold execPatrolScrubRead; apply clocked_keeps; (try dsimp only); (repeat' split) <;> simp [OutKeeps]

@[simp] theorem execRefresh_keep (n : Fin 8) (ch : Fin 4) (_bank : Fin 16) (hot : Bool) (s : State) :
    OutKeeps s (execRefresh n ch _bank hot s) := by
  unfold execRefresh; apply clocked_keeps; (try dsimp only); (repeat' split) <;> simp [OutKeeps]

/-! ### Links -/

@[simp] theorem setTrim_keep (s : State) (t : Int) :
    (setTrim s t).pending = s.pending ∧ (setTrim s t).mem = s.mem := by
  simp [setTrim]

@[simp] theorem enterHoldover_keep (s : State) :
    (enterHoldover s).pending = s.pending ∧ (enterHoldover s).mem = s.mem := by
  simp [enterHoldover]

@[simp] theorem setPortState_keep (s : State) (n x : Nat) :
    (setPortState s n x).pending = s.pending ∧ (setPortState s n x).mem = s.mem := by
  simp [setPortState]

@[simp] theorem setMember_keep (s : State) (i : Nat) (b : Bool) :
    (setMember s i b).pending = s.pending ∧ (setMember s i b).mem = s.mem := by
  simp [setMember]

@[simp] theorem putFlit_keep (s : State) (n kind seq : Nat) (slots : List Line) :
    (putFlit s n kind seq slots).pending = s.pending ∧ (putFlit s n kind seq slots).mem = s.mem := by
  simp [putFlit]

@[simp] theorem putIdle_keep (s : State) (n : Nat) :
    (putIdle s n).pending = s.pending ∧ (putIdle s n).mem = s.mem := by
  simp [putIdle]

@[simp] theorem formFlits_keep (s : State) (n : Nat) (k0 : Nat) :
    (formFlits s n k0).pending = s.pending ∧ (formFlits s n k0).mem = s.mem := by
  induction k0 generalizing s n <;> simp [formFlits, *]

@[simp] theorem runPort_keep (s : State) (n : Nat) :
    (runPort s n).pending = s.pending ∧ (runPort s n).mem = s.mem := by
  simp [runPort]

@[simp] theorem sendPacket_keep (s : State) (n : Nat) (p : Packet) :
    (sendPacket s n p).pending = s.pending ∧ (sendPacket s n p).mem = s.mem := by
  simp [sendPacket]

@[simp] theorem sendTo_keep (s : State) (i : Nat) (p : Packet) :
    (sendTo s i p).pending = s.pending ∧ (sendTo s i p).mem = s.mem := by
  simp [sendTo]

@[simp] theorem installRoutes_keep (s : State) :
    (installRoutes s).pending = s.pending ∧ (installRoutes s).mem = s.mem := by
  simp [installRoutes]

@[simp] theorem floodState_keep (s : State) (u : LinkState) (not_ : Option Nat) :
    (floodState s u not_).pending = s.pending ∧ (floodState s u not_).mem = s.mem := by
  simp [floodState]

@[simp] theorem storeState_keep (s : State) (u : LinkState) :
    (storeState s u).pending = s.pending ∧ (storeState s u).mem = s.mem := by
  simp [storeState]

@[simp] theorem ownUpdate_keep (s : State) (leave : Bool) :
    (ownUpdate s leave).pending = s.pending ∧ (ownUpdate s leave).mem = s.mem := by
  simp [ownUpdate]

@[simp] theorem portClose_keep (s : State) (n : Nat) :
    (portClose s n).pending = s.pending ∧ (portClose s n).mem = s.mem := by
  simp [portClose]

@[simp] theorem portDown_keep (s : State) (n : Nat) :
    (portDown s n).pending = s.pending ∧ (portDown s n).mem = s.mem := by
  simp [portDown]

@[simp] theorem linkCfgWrite_keep (s : State) (n : Nat) (v : W64) :
    (linkCfgWrite s n v).pending = s.pending ∧ (linkCfgWrite s n v).mem = s.mem := by
  simp [linkCfgWrite]

@[simp] theorem execLinkEnable_keep (n : Fin 6) (v : W32) (s : State) :
    OutKeeps s (execLinkEnable n v s) := by
  unfold execLinkEnable; apply clocked_keeps; simp [OutKeeps]

@[simp] theorem execLinkTrained_keep (n : Fin 6) (lanes : BitVec 8) (s : State) :
    OutKeeps s (execLinkTrained n lanes s) := by
  unfold execLinkTrained; apply clocked_keeps; (try dsimp only); (repeat' split) <;> simp [OutKeeps]

@[simp] theorem execLinkTrainRetry_keep (n : Fin 6) (s : State) :
    OutKeeps s (execLinkTrainRetry n s) := by
  unfold execLinkTrainRetry; apply clocked_keeps; (repeat' split) <;> simp [OutKeeps]

@[simp] theorem ackTo_keep (s : State) (n ack : Nat) :
    (ackTo s n ack).pending = s.pending ∧ (ackTo s n ack).mem = s.mem := by
  unfold ackTo; (try generalize regionOf _ _ = R); (try dsimp only); split <;> simp

@[simp] theorem nakAt_keep (s : State) (n seq : Nat) :
    (nakAt s n seq).pending = s.pending ∧ (nakAt s n seq).mem = s.mem := by
  unfold nakAt; (try generalize regionOf _ _ = R); (try dsimp only); (repeat' split) <;> simp

@[simp] theorem sendNak_keep (s : State) (n : Nat) (again : Bool) :
    (sendNak s n again).pending = s.pending ∧ (sendNak s n again).mem = s.mem := by
  simp [sendNak]

@[simp] theorem putCredit_keep (s : State) (i : Nat) (vc : Bool) (n : Nat) :
    (putCredit s i vc n).pending = s.pending ∧ (putCredit s i vc n).mem = s.mem := by
  simp [putCredit]

@[simp] theorem flitData_keep (s : State) (i : Nat) (f : Flit) :
    (flitData s i f).pending = s.pending ∧ (flitData s i f).mem = s.mem := by
  unfold flitData; (try generalize regionOf _ _ = R); (try dsimp only); (repeat' split) <;> simp

@[simp] theorem flitCredit_keep (s : State) (i : Nat) (f : Flit) :
    (flitCredit s i f).pending = s.pending ∧ (flitCredit s i f).mem = s.mem := by
  simp [flitCredit]

@[simp] theorem flitTaken_keep (s : State) (i : Nat) (f : Flit) :
    (flitTaken s i f).pending = s.pending ∧ (flitTaken s i f).mem = s.mem := by
  unfold flitTaken; (try generalize regionOf _ _ = R); (try dsimp only); (repeat' split) <;> simp

@[simp] theorem execNakReceive_keep (n : Fin 6) (seq : BitVec 9) (s : State) :
    OutKeeps s (execNakReceive n seq s) := by
  unfold execNakReceive; apply clocked_keeps; (repeat' split) <;> simp [OutKeeps]

@[simp] theorem execLinkAckTimeout_keep (n : Fin 6) (s : State) :
    OutKeeps s (execLinkAckTimeout n s) := by
  unfold execLinkAckTimeout; apply clocked_keeps; (try dsimp only); (repeat' split) <;> simp [OutKeeps]

@[simp] theorem execLinkLockLoss_keep (n : Fin 6) (s : State) :
    OutKeeps s (execLinkLockLoss n s) := by
  unfold execLinkLockLoss; apply clocked_keeps; (repeat' split) <;> simp [OutKeeps]

@[simp] theorem dropPacket_keep (s : State) (n : Nat) :
    (dropPacket s n).pending = s.pending ∧ (dropPacket s n).mem = s.mem := by
  simp [dropPacket]

@[simp] theorem execPacketForward_keep (n : Fin 6) (pk : Packet) (s : State) :
    OutKeeps s (execPacketForward n pk s) := by
  unfold execPacketForward; apply clocked_keeps; (try dsimp only); (repeat' split) <;> simp [OutKeeps]

@[simp] theorem execMembHello_keep (n : Fin 6) (h : Hello) (s : State) :
    OutKeeps s (execMembHello n h s) := by
  unfold execMembHello; apply clocked_keeps; (try dsimp only); (repeat' split) <;> simp [OutKeeps]

@[simp] theorem execMembUpdate_keep (n : Fin 6) (u : LinkState) (s : State) :
    OutKeeps s (execMembUpdate n u s) := by
  unfold execMembUpdate; apply clocked_keeps; (try dsimp only); (repeat' split) <;> simp [OutKeeps]

@[simp] theorem execJoinAck_keep (s : State) :
    OutKeeps s (execJoinAck s) := by
  unfold execJoinAck; apply clocked_keeps; (try dsimp only); (repeat' split) <;> simp [OutKeeps]

/-! ### Time -/

@[simp] theorem tbTick_keep (s : State) :
    (tbTick s).pending = s.pending ∧ (tbTick s).mem = s.mem := by
  simp [tbTick]

@[simp] theorem trigAdvance_keep (s : State) (k j : Nat) :
    (trigAdvance s k j).pending = s.pending ∧ (trigAdvance s k j).mem = s.mem := by
  simp [trigAdvance]

@[simp] theorem trigSkip_keep (s : State) (k d : Nat) :
    (trigSkip s k d).pending = s.pending ∧ (trigSkip s k d).mem = s.mem := by
  simp [trigSkip]

@[simp] theorem trgCtrlWrite_keep (s : State) (k : Nat) (v : W64) :
    (trgCtrlWrite s k v).pending = s.pending ∧ (trgCtrlWrite s k v).mem = s.mem := by
  simp [trgCtrlWrite]

@[simp] theorem execTriggerArm_keep (k : Fin 8) (v : W32) (s : State) :
    OutKeeps s (execTriggerArm k v s) := by
  unfold execTriggerArm; apply clocked_keeps; simp [OutKeeps]

@[simp] theorem execTriggerEdge_keep (k : Fin 8) (s : State) :
    OutKeeps s (execTriggerEdge k s) := by
  unfold execTriggerEdge; apply clocked_keeps; (try dsimp only); (repeat' split) <;> simp [OutKeeps]

@[simp] theorem execTsyncEdge_keep (s : State) :
    OutKeeps s (execTsyncEdge s) := by
  unfold execTsyncEdge; apply clocked_keeps; (try dsimp only); (repeat' split) <;> simp [OutKeeps]

@[simp] theorem tsyncWrite_keep (s : State) (v : W64) :
    (tsyncWrite s v).pending = s.pending ∧ (tsyncWrite s v).mem = s.mem := by
  simp [tsyncWrite]

@[simp] theorem dtStep_keep (s : State) (d : Int) :
    (dtStep s d).pending = s.pending ∧ (dtStep s d).mem = s.mem := by
  simp [dtStep]

@[simp] theorem correct_keep (s : State) (off : Int) :
    (correct s off).pending = s.pending ∧ (correct s off).mem = s.mem := by
  simp [correct]

@[simp] theorem servo_keep (s : State) (off : Int) :
    (servo s off).pending = s.pending ∧ (servo s off).mem = s.mem := by
  simp [servo]

@[simp] theorem ppsEdge_keep (s : State) (offset : Int) :
    (ppsEdge s offset).pending = s.pending ∧ (ppsEdge s offset).mem = s.mem := by
  simp [ppsEdge]

@[simp] theorem execPpsHoldover_keep (s : State) :
    OutKeeps s (execPpsHoldover s) := by
  unfold execPpsHoldover; (try (first | apply clocked_keeps | apply powered_keeps)); (repeat' split) <;> simp [OutKeeps]

@[simp] theorem execTbrefLoss_keep (s : State) :
    OutKeeps s (execTbrefLoss s) := by
  unfold execTbrefLoss; (try (first | apply clocked_keeps | apply powered_keeps)); (try dsimp only); (repeat' split) <;> simp [OutKeeps]

@[simp] theorem execTbrefReturn_keep (s : State) :
    OutKeeps s (execTbrefReturn s) := by
  unfold execTbrefReturn; (try (first | apply clocked_keeps | apply powered_keeps)); (try dsimp only); simp [OutKeeps]

@[simp] theorem tbSetWrite_keep (s : State) (v : W64) :
    (tbSetWrite s v).pending = s.pending ∧ (tbSetWrite s v).mem = s.mem := by
  simp [tbSetWrite]

@[simp] theorem execTbSet_keep (v : W64) (s : State) :
    OutKeeps s (execTbSet v s) := by
  unfold execTbSet; apply clocked_keeps; simp [OutKeeps]

@[simp] theorem tbTrimWrite_keep (s : State) (v : W64) :
    (tbTrimWrite s v).pending = s.pending ∧ (tbTrimWrite s v).mem = s.mem := by
  simp [tbTrimWrite]

@[simp] theorem execTbTrimWrite_keep (v : W32) (s : State) :
    OutKeeps s (execTbTrimWrite v s) := by
  unfold execTbTrimWrite; apply clocked_keeps; simp [OutKeeps]

@[simp] theorem tbCtrlWrite_keep (s : State) (v : W64) :
    (tbCtrlWrite s v).pending = s.pending ∧ (tbCtrlWrite s v).mem = s.mem := by
  simp [tbCtrlWrite]

@[simp] theorem respond_keep (s : State) (p : Path) (ok : Bool) (data : List Byte) :
    (respond s p ok data).pending = s.pending ∧ (respond s p ok data).mem = s.mem := by
  simp [respond]

@[simp] theorem tbDtHalf_keep (s : State) (p : Path) (high : Bool) :
    (tbDtHalf s p high).2.pending = s.pending ∧ (tbDtHalf s p high).2.mem = s.mem := by
  unfold tbDtHalf; (try generalize regionOf _ _ = R); (try dsimp only); (repeat' split) <;> simp

@[simp] theorem execTbDtRead_keep (path : Path) (half : Option Bool) (s : State) :
    OutKeeps s (execTbDtRead path half s) := by
  unfold execTbDtRead; apply clocked_keeps; (try dsimp only); (repeat' split) <;> simp [OutKeeps]

@[simp] theorem execTimeExchange_keep (s : State) :
    OutKeeps s (execTimeExchange s) := by
  unfold execTimeExchange; apply clocked_keeps; (try dsimp only); (repeat' split) <;> simp [OutKeeps]

@[simp] theorem execTimePacketArrival_keep (n : Fin 6) (pk : Packet) (s : State) :
    OutKeeps s (execTimePacketArrival n pk s) := by
  unfold execTimePacketArrival; apply clocked_keeps; (try dsimp only); (repeat' split) <;> simp [OutKeeps]

/-! ### Rim -/

@[simp] theorem execRimCellCycle_keep (c : Fin 64) (pins : BitVec 32) (hard : W64) (s : State) :
    OutKeeps s (execRimCellCycle c pins hard s) := by
  unfold execRimCellCycle; apply clocked_keeps; (try dsimp only); (repeat' split) <;> simp [OutKeeps]

@[simp] theorem setSlot_keep (s : State) (slot : Bool) (x : SlotState) :
    (setSlot s slot x).pending = s.pending ∧ (setSlot s slot x).mem = s.mem := by
  simp [setSlot]

@[simp] theorem rimWindow_keep (s : State) (off : Nat) (v : W64) :
    (rimWindow s off v).pending = s.pending ∧ (rimWindow s off v).mem = s.mem := by
  unfold rimWindow; (try generalize regionOf _ _ = R); (try dsimp only); (repeat' split) <;> simp

@[simp] theorem execRimWindowWrite_keep (off : BitVec 15) (v : W64) (s : State) :
    OutKeeps s (execRimWindowWrite off v s) := by
  unfold execRimWindowWrite; apply clocked_keeps; simp [OutKeeps]

@[simp] theorem rimCommitGo_keep (s : State) (slot : Bool) :
    (rimCommitGo s slot).pending = s.pending ∧ (rimCommitGo s slot).mem = s.mem := by
  unfold rimCommitGo; (try generalize regionOf _ _ = R); (repeat' split) <;> simp

@[simp] theorem execRimCommitGo_keep (slot : Bool) (s : State) :
    OutKeeps s (execRimCommitGo slot s) := by
  unfold execRimCommitGo; apply clocked_keeps; simp [OutKeeps]

@[simp] theorem execRimCommitComplete_keep (s : State) :
    OutKeeps s (execRimCommitComplete s) := by
  unfold execRimCommitComplete; apply clocked_keeps; (try dsimp only); (repeat' split) <;> simp [OutKeeps]

@[simp] theorem rimUnload_keep (s : State) (slot : Bool) :
    (rimUnload s slot).pending = s.pending ∧ (rimUnload s slot).mem = s.mem := by
  unfold rimUnload; (try generalize regionOf _ _ = R); (try dsimp only); (repeat' split) <;> simp

@[simp] theorem execRimCommitUnload_keep (slot : Bool) (s : State) :
    OutKeeps s (execRimCommitUnload slot s) := by
  unfold execRimCommitUnload; apply clocked_keeps; simp [OutKeeps]

@[simp] theorem rimSelect_keep (s : State) (slot : Bool) :
    (rimSelect s slot).pending = s.pending ∧ (rimSelect s slot).mem = s.mem := by
  unfold rimSelect; (try generalize regionOf _ _ = R); (try dsimp only); (repeat' split) <;> simp

@[simp] theorem execRimSelect_keep (slot : Bool) (s : State) :
    OutKeeps s (execRimSelect slot s) := by
  unfold execRimSelect; apply clocked_keeps; simp [OutKeeps]

@[simp] theorem rimDeselect_keep (s : State) :
    (rimDeselect s).pending = s.pending ∧ (rimDeselect s).mem = s.mem := by
  simp [rimDeselect]

@[simp] theorem execRimDeselect_keep (s : State) :
    OutKeeps s (execRimDeselect s) := by
  unfold execRimDeselect; apply clocked_keeps; simp [OutKeeps]

@[simp] theorem rimCtrlWrite_keep (s : State) (v : W64) :
    (rimCtrlWrite s v).pending = s.pending ∧ (rimCtrlWrite s v).mem = s.mem := by
  simp [rimCtrlWrite]

@[simp] theorem rimCapture_keep (s : State) :
    (rimCapture s).pending = s.pending ∧ (rimCapture s).mem = s.mem := by
  simp [rimCapture]

@[simp] theorem rimCapWrite_keep (s : State) (v : W64) :
    (rimCapWrite s v).pending = s.pending ∧ (rimCapWrite s v).mem = s.mem := by
  simp [rimCapWrite]

@[simp] theorem execRimCaptureArm_keep (v : W64) (s : State) :
    OutKeeps s (execRimCaptureArm v s) := by
  unfold execRimCaptureArm; apply clocked_keeps; simp [OutKeeps]

@[simp] theorem execRimCaptureNow_keep (s : State) :
    OutKeeps s (execRimCaptureNow s) := by
  unfold execRimCaptureNow; apply clocked_keeps; simp [OutKeeps]

@[simp] theorem execRimCaptureTaken_keep (s : State) :
    OutKeeps s (execRimCaptureTaken s) := by
  unfold execRimCaptureTaken; apply clocked_keeps; (repeat' split) <;> simp [OutKeeps]

@[simp] theorem execRimStampEdge_keep (k : Fin 8) (s : State) :
    OutKeeps s (execRimStampEdge k s) := by
  unfold execRimStampEdge; apply clocked_keeps; (try dsimp only); (repeat' split) <;> simp [OutKeeps]

@[simp] theorem rimStampRead_keep (s : State) (k : Nat) :
    (rimStampRead s k).2.pending = s.pending ∧ (rimStampRead s k).2.mem = s.mem := by
  unfold rimStampRead; split <;> simp

@[simp] theorem execRimStampRead_keep (k : Fin 8) (s : State) :
    OutKeeps s (execRimStampRead k s) := by
  unfold execRimStampRead; apply clocked_keeps; (try dsimp only); simp [OutKeeps]

@[simp] theorem rimIrq_keep (s : State) :
    (rimIrq s).pending = s.pending ∧ (rimIrq s).mem = s.mem := by
  simp [rimIrq]

@[simp] theorem execHardSerialBlockTransfer_keep (b : SerialBlock) (rx : List Byte) (s : State) :
    OutKeeps s (execHardSerialBlockTransfer b rx s) := by
  unfold execHardSerialBlockTransfer; apply clocked_keeps; (try dsimp only); (repeat' split) <;> simp [OutKeeps]

@[simp] theorem oscTick_keep (s : State) :
    (oscTick s).pending = s.pending ∧ (oscTick s).mem = s.mem := by
  simp [oscTick]

/-! ### Pmu -/

@[simp] theorem pmuClear_keep (s : State) :
    (pmuClear s).pending = s.pending ∧ (pmuClear s).mem = s.mem := by
  simp [pmuClear]

@[simp] theorem pmuCtrlWrite_keep (s : State) (v : W64) :
    (pmuCtrlWrite s v).pending = s.pending ∧ (pmuCtrlWrite s v).mem = s.mem := by
  simp [pmuCtrlWrite]

@[simp] theorem execPmuEnable_keep (en : Bool) (s : State) :
    OutKeeps s (execPmuEnable en s) := by
  unfold execPmuEnable; apply clocked_keeps; simp [OutKeeps]

@[simp] theorem execPmuClear_keep (s : State) :
    OutKeeps s (execPmuClear s) := by
  unfold execPmuClear; apply clocked_keeps; simp [OutKeeps]

@[simp] theorem execCounterOverflow_keep (n : Fin 32) (s : State) :
    OutKeeps s (execCounterOverflow n s) := by
  unfold execCounterOverflow; apply clocked_keeps; (repeat' split) <;> simp [OutKeeps]

@[simp] theorem pmuSelWrite_keep (s : State) (n : Nat) (v : W64) :
    (pmuSelWrite s n v).pending = s.pending ∧ (pmuSelWrite s n v).mem = s.mem := by
  simp [pmuSelWrite]

@[simp] theorem setProbe_keep (s : State) (k f v : Nat) :
    (setProbe s k f v).pending = s.pending ∧ (setProbe s k f v).mem = s.mem := by
  simp [setProbe]

@[simp] theorem probeSnap_keep (s : State) (k : Nat) :
    (probeSnap s k).pending = s.pending ∧ (probeSnap s k).mem = s.mem := by
  simp [probeSnap]

@[simp] theorem execBwWindowEnd_keep (s : State) :
    OutKeeps s (execBwWindowEnd s) := by
  unfold execBwWindowEnd; apply clocked_keeps; (try dsimp only); (repeat' split) <;> simp [OutKeeps]

@[simp] theorem execQueueProbeSample_keep (k : Fin 16) (s : State) :
    OutKeeps s (execQueueProbeSample k s) := by
  unfold execQueueProbeSample; apply clocked_keeps; (try dsimp only); (repeat' split) <;> simp [OutKeeps]

@[simp] theorem tagDraw_keep (s : State) :
    (tagDraw s).pending = s.pending ∧ (tagDraw s).mem = s.mem := by
  simp [tagDraw]

@[simp] theorem tagCtrlWrite_keep (s : State) (v : W64) :
    (tagCtrlWrite s v).pending = s.pending ∧ (tagCtrlWrite s v).mem = s.mem := by
  simp [tagCtrlWrite]

@[simp] theorem execTagSelect_keep (s : State) :
    OutKeeps s (execTagSelect s) := by
  unfold execTagSelect; apply clocked_keeps; (try dsimp only); (repeat' split) <;> simp [OutKeeps]

@[simp] theorem tagIssue_keep (s : State) (w i : Nat) (dw0 : Nat) :
    (tagIssue s w i dw0).pending = s.pending ∧ (tagIssue s w i dw0).mem = s.mem := by
  simp [tagIssue]

@[simp] theorem tagStroke_keep (s : State) (w i : Nat) (busy : Bool) :
    (tagStroke s w i busy).pending = s.pending ∧ (tagStroke s w i busy).mem = s.mem := by
  unfold tagStroke; split <;> simp

/-! ### Power -/

@[simp] theorem changeDone_keep (s : State) :
    (changeDone s).pending = s.pending ∧ (changeDone s).mem = s.mem := by
  simp [changeDone]

@[simp] theorem startChange_keep (s : State) (mhz : Nat) :
    (startChange s mhz).pending = s.pending ∧ (startChange s mhz).mem = s.mem := by
  simp [startChange]

@[simp] theorem modeRequest_keep (s : State) (m : Nat) :
    (modeRequest s m).pending = s.pending ∧ (modeRequest s m).mem = s.mem := by
  simp [modeRequest]

@[simp] theorem execModeRequest_keep (mode : BitVec 2) (s : State) :
    OutKeeps s (execModeRequest mode s) := by
  unfold execModeRequest; apply clocked_keeps; simp [OutKeeps]

@[simp] theorem execFrequencyStep_keep (s : State) :
    OutKeeps s (execFrequencyStep s) := by
  unfold execFrequencyStep; apply clocked_keeps; (try dsimp only); (repeat' split) <;> simp [OutKeeps]

@[simp] theorem execRegulatorSettled_keep (s : State) :
    OutKeeps s (execRegulatorSettled s) := by
  unfold execRegulatorSettled; apply clocked_keeps; (try dsimp only); simp [OutKeeps]

@[simp] theorem execDroopTrip_keep (w : WellIx) (d : Fin 16) (s : State) :
    OutKeeps s (execDroopTrip w d s) := by
  unfold execDroopTrip; apply clocked_keeps; (try dsimp only); (repeat' split) <;> simp [OutKeeps]

@[simp] theorem execDroopClear_keep (w : WellIx) (s : State) :
    OutKeeps s (execDroopClear w s) := by
  unfold execDroopClear; apply clocked_keeps; (try dsimp only); (repeat' split) <;> simp [OutKeeps]

@[simp] theorem execDroopMarginWindow_keep (w : WellIx) (s : State) :
    OutKeeps s (execDroopMarginWindow w s) := by
  unfold execDroopMarginWindow; apply clocked_keeps; (try dsimp only); (repeat' split) <;> simp [OutKeeps]

@[simp] theorem gUpdate_keep (s : State) :
    (gUpdate s).pending = s.pending ∧ (gUpdate s).mem = s.mem := by
  simp [gUpdate]

@[simp] theorem takeReading_keep (s : State) (n : Nat) (r : Reading) :
    (takeReading s n r).pending = s.pending ∧ (takeReading s n r).mem = s.mem := by
  simp [takeReading]

@[simp] theorem execSensorSample_keep (r : List Reading) (s : State) :
    OutKeeps s (execSensorSample r s) := by
  unfold execSensorSample; (try (first | apply clocked_keeps | apply powered_keeps)); (try dsimp only); (repeat' split) <;> simp [OutKeeps]

@[simp] theorem execPowerMeasure_keep (mv ma : Nat) (s : State) :
    OutKeeps s (execPowerMeasure mv ma s) := by
  unfold execPowerMeasure; apply clocked_keeps; (try dsimp only); (repeat' split) <;> simp [OutKeeps]

@[simp] theorem execThermalUpdate_keep (s : State) :
    OutKeeps s (execThermalUpdate s) := by
  unfold execThermalUpdate; apply clocked_keeps; (try dsimp only); simp [OutKeeps]

@[simp] theorem execOperatingPointDecision_keep (s : State) :
    OutKeeps s (execOperatingPointDecision s) := by
  unfold execOperatingPointDecision; apply clocked_keeps; (try dsimp only); (repeat' split) <;> simp [OutKeeps]

@[simp] theorem execCapUnmetDetect_keep (s : State) :
    OutKeeps s (execCapUnmetDetect s) := by
  unfold execCapUnmetDetect; apply clocked_keeps; (repeat' split) <;> simp [OutKeeps]

@[simp] theorem throtWrite_keep (s : State) (v : W64) :
    (throtWrite s v).pending = s.pending ∧ (throtWrite s v).mem = s.mem := by
  simp [throtWrite]

@[simp] theorem pwrCapWrite_keep (s : State) (v : W64) :
    (pwrCapWrite s v).pending = s.pending ∧ (pwrCapWrite s v).mem = s.mem := by
  simp [pwrCapWrite]

@[simp] theorem execThermalTrip_keep (sensor : Fin 64) (t : BitVec 16) (s : State) :
    OutKeeps s (execThermalTrip sensor t s) := by
  unfold execThermalTrip; (try (first | apply clocked_keeps | apply powered_keeps)); (try dsimp only); (repeat' split) <;> simp [OutKeeps]

@[simp] theorem execLimiterStep_keep (t : Thread) (s : State) :
    OutKeeps s (execLimiterStep t s) := by
  unfold execLimiterStep; apply clocked_keeps; (try dsimp only); simp [OutKeeps]

/-! ### Security -/

@[simp] theorem otpOr_keep (s : State) (a : Nat) (bs : List Byte) :
    (otpOr s a bs).pending = s.pending ∧ (otpOr s a bs).mem = s.mem := by
  simp [otpOr]

@[simp] theorem fwFlags_keep (s : State) :
    (fwFlags s).pending = s.pending ∧ (fwFlags s).mem = s.mem := by
  simp [fwFlags]

@[simp] theorem fwAccept_keep (s : State) :
    (fwAccept s).pending = s.pending ∧ (fwAccept s).mem = s.mem := by
  simp [fwAccept]

@[simp] theorem attestGo_keep (s : State) :
    (attestGo s).pending = s.pending ∧ (attestGo s).mem = s.mem := by
  simp [attestGo]

@[simp] theorem execAttestGo_keep (s : State) :
    OutKeeps s (execAttestGo s) := by
  unfold execAttestGo; apply clocked_keeps; simp [OutKeeps]

@[simp] theorem execAttestDone_keep (s : State) :
    OutKeeps s (execAttestDone s) := by
  unfold execAttestDone; apply clocked_keeps; (try dsimp only); (repeat' split) <;> simp [OutKeeps]

@[simp] theorem rngValue_keep (s : State) :
    (rngValue s).2.pending = s.pending ∧ (rngValue s).2.mem = s.mem := by
  unfold rngValue; split <;> simp

@[simp] theorem execRngRead_keep (s : State) :
    OutKeeps s (execRngRead s) := by
  unfold execRngRead; apply clocked_keeps; (try dsimp only); simp [OutKeeps]

@[simp] theorem execRngHealthFail_keep (s : State) :
    OutKeeps s (execRngHealthFail s) := by
  unfold execRngHealthFail; apply clocked_keeps; simp [OutKeeps]

@[simp] theorem otpProgram_keep (s : State) (p : Path) :
    (otpProgram s p).pending = s.pending ∧ (otpProgram s p).mem = s.mem := by
  simp [otpProgram]

@[simp] theorem execOtpProgram_keep (path : Path) (s : State) :
    OutKeeps s (execOtpProgram path s) := by
  unfold execOtpProgram; apply clocked_keeps; simp [OutKeeps]

@[simp] theorem debugChallenge_keep (s : State) :
    (debugChallenge s).pending = s.pending ∧ (debugChallenge s).mem = s.mem := by
  simp [debugChallenge]

@[simp] theorem execDebugChallenge_keep (s : State) :
    OutKeeps s (execDebugChallenge s) := by
  unfold execDebugChallenge; apply clocked_keeps; simp [OutKeeps]

@[simp] theorem debugSubmit_keep (s : State) (level : Nat) :
    (debugSubmit s level).pending = s.pending ∧ (debugSubmit s level).mem = s.mem := by
  simp [debugSubmit]

@[simp] theorem execDebugSubmit_keep (level : BitVec 2) (s : State) :
    OutKeeps s (execDebugSubmit level s) := by
  unfold execDebugSubmit; apply clocked_keeps; simp [OutKeeps]

@[simp] theorem execDebugClose_keep (s : State) :
    OutKeeps s (execDebugClose s) := by
  unfold execDebugClose; apply clocked_keeps; simp [OutKeeps]

@[simp] theorem dbgCtrlWrite_keep (s : State) (v : W64) :
    (dbgCtrlWrite s v).pending = s.pending ∧ (dbgCtrlWrite s v).mem = s.mem := by
  simp [dbgCtrlWrite]

@[simp] theorem execKeyEngineFault_keep (complement : Bool) (s : State) :
    OutKeeps s (execKeyEngineFault complement s) := by
  unfold execKeyEngineFault; apply clocked_keeps; simp [OutKeeps]

/-! ### SelfTest -/

@[simp] theorem sstStatus_keep (s : State) (st : Nat) :
    (sstStatus s st).pending = s.pending ∧ (sstStatus s st).mem = s.mem := by
  simp [sstStatus]

@[simp] theorem sstStart_keep (s : State) (shutdown : Bool) :
    (sstStart s shutdown).pending = s.pending ∧ (sstStart s shutdown).mem = s.mem := by
  simp [sstStart]

@[simp] theorem takeFailure_keep (s : State) (part mem addr bit : Nat) (logic : Bool) :
    (takeFailure s part mem addr bit logic).pending = s.pending ∧ (takeFailure s part mem addr bit logic).mem = s.mem := by
  unfold takeFailure; (try generalize regionOf _ _ = R); (try dsimp only); split <;> simp

@[simp] theorem clearMem_keep (s : State) (lo hi : Nat) :
    (clearMem s lo hi).pending = s.pending ∧ (s.mem.wf = true → (clearMem s lo hi).mem.wf = true) := by
  exact ⟨rfl, fun h => SMap.wf_filter _ _ h⟩

@[simp] theorem slicePart_keep (s : State) (w i : Nat) :
    (slicePart s w i).pending = s.pending ∧ (s.mem.wf = true → (slicePart s w i).mem.wf = true) := by
  constructor; simp [slicePart]; intro hw; simp [slicePart, hw]

@[simp] theorem columnPart_keep (s : State) (w c : Nat) :
    (columnPart s w c).pending = s.pending ∧ (s.mem.wf = true → (columnPart s w c).mem.wf = true) := by
  unfold columnPart; (try generalize regionOf _ _ = R); (try dsimp only); (repeat' (first | apply foldl_wf; intro _ _ | split)) <;> (constructor; simp; intro hw; simp [hw])

@[simp] theorem hubPart_keep (s : State) (w : Nat) :
    (hubPart s w).pending = s.pending ∧ (hubPart s w).mem = s.mem := by
  simp [hubPart]

@[simp] theorem partReset_keep (s : State) (p : Nat) :
    (partReset s p).pending = s.pending ∧ (s.mem.wf = true → (partReset s p).mem.wf = true) := by
  unfold partReset; (try generalize regionOf _ _ = R); (try dsimp only); (repeat' split) <;> (constructor; simp; intro hw; simp [hw])

@[simp] theorem execPartitionTestDone_keep (part : Fin 143) (r : BistResult) (s : State) :
    OutWf s (execPartitionTestDone part r s) := by
  unfold execPartitionTestDone; apply clocked_wf; (try dsimp only); (repeat' split) <;> (simp [OutWf]; (try (intro hw; simp [hw])))

@[simp] theorem repairSelect_keep (s : State) :
    (repairSelect s).pending = s.pending ∧ (repairSelect s).mem = s.mem := by
  simp [repairSelect]

@[simp] theorem applySlice_keep (l : List W64) (s : State) (p : Nat) :
    (applySlice l s p).pending = s.pending ∧ (applySlice l s p).mem = s.mem := by
  simp [applySlice]

@[simp] theorem wellMarkFailed_keep (s : State) (w : Nat) :
    (wellMarkFailed s w).pending = s.pending ∧ (wellMarkFailed s w).mem = s.mem := by
  simp [wellMarkFailed]

@[simp] theorem applyWell_keep (l : List W64) (s : State) (w : Nat) :
    (applyWell l s w).pending = s.pending ∧ (applyWell l s w).mem = s.mem := by
  simp [applyWell]

@[simp] theorem repairApply_keep (s : State) :
    (repairApply s).pending = s.pending ∧ (repairApply s).mem = s.mem := by
  simp [repairApply]

@[simp] theorem hardenAll_keep (s : State) (k0 : List W64) :
    (hardenAll s k0).2.pending = s.pending ∧ (hardenAll s k0).2.mem = s.mem := by
  fun_induction hardenAll s k0
  · exact ⟨rfl, rfl⟩
  · exact ⟨rfl, rfl⟩
  · rename_i ih
    exact ⟨ih.1.trans ((otpOr_keep _ _ _).1.trans (otpOr_keep _ _ _).1), ih.2.trans ((otpOr_keep _ _ _).2.trans (otpOr_keep _ _ _).2)⟩

@[simp] theorem writeRecord_keep (s : State) (reps : List W64) :
    (writeRecord s reps).pending = s.pending ∧ (writeRecord s reps).mem = s.mem := by
  simp [writeRecord]

@[simp] theorem execSstCommitComplete_keep (powerGood : Bool) (s : State) :
    OutKeeps s (execSstCommitComplete powerGood s) := by
  unfold execSstCommitComplete; apply clocked_keeps; (try dsimp only); (repeat' split) <;> simp [OutKeeps]

@[simp] theorem tearCommit_keep (s : State) :
    (tearCommit s).pending = s.pending ∧ (tearCommit s).mem = s.mem := by
  unfold tearCommit; (try generalize regionOf _ _ = R); (try dsimp only); (repeat' split) <;> simp

/-! ### Boot -/

@[simp] theorem setPhase_keep (s : State) (p : Nat) :
    (setPhase s p).pending = s.pending ∧ (setPhase s p).mem = s.mem := by
  simp [setPhase]

@[simp] theorem fuseRegs_keep (s : State) :
    (fuseRegs s).pending = s.pending ∧ (fuseRegs s).mem = s.mem := by
  simp [fuseRegs]

@[simp] theorem tearTraining_keep (s : State) :
    (tearTraining s).pending = s.pending ∧ (tearTraining s).mem = s.mem := by
  unfold tearTraining; (try generalize regionOf _ _ = R); (try dsimp only); (repeat' split) <;> simp

@[simp] theorem powerOn_keep (s : State) :
    (powerOn s).pending = s.pending ∧ (s.mem.wf = true → (powerOn s).mem.wf = true) := by
  unfold powerOn; dsimp only
  refine ⟨?_, ?_⟩
  · simp only [State.setBit_pending, State.setFld_pending, State.wr_pending, fuseRegs_keep, tearTraining_keep,
      tearCommit_keep]
  · simp only [State.setBit_mem, State.setFld_mem, State.wr_mem, fuseRegs_keep]
    exact fun _ => rfl

@[simp] theorem execPowerOnReset_keep (s : State) :
    OutWf s (execPowerOnReset s) := by
  unfold execPowerOnReset; (try dsimp only); (simp [OutWf]; (try (intro hw; simp [hw])))

@[simp] theorem execSupplyOutOfRange_keep (s : State) :
    OutWf s (execSupplyOutOfRange s) := by
  unfold execSupplyOutOfRange; (try dsimp only); (simp [OutWf]; (try (intro hw; simp [hw])))

@[simp] theorem execResetRisingEdge_keep (pin : ResetPin) (s : State) :
    OutKeeps s (execResetRisingEdge pin s) := by
  unfold execResetRisingEdge; (try dsimp only); (repeat' split) <;> simp [OutKeeps]

@[simp] theorem warmRequest_keep (s : State) (c : WarmCause) (cold : Bool) :
    (warmRequest s c cold).pending = s.pending ∧ (warmRequest s c cold).mem = s.mem := by
  unfold warmRequest; (try generalize regionOf _ _ = R); (try dsimp only); (repeat' split) <;> simp

@[simp] theorem execWarmReset_keep (s : State) :
    OutKeeps s (execWarmReset s) := by
  unfold execWarmReset; (try dsimp only); simp [OutKeeps]

@[simp] theorem execHiResetWarm_keep (key : BitVec 16) (cold : Bool) (s : State) :
    OutKeeps s (execHiResetWarm key cold s) := by
  unfold execHiResetWarm; simp [OutKeeps]

@[simp] theorem keepDram_keep (s r : State) :
    (keepDram s r).pending = r.pending ∧ (s.mem.wf = true → (keepDram s r).mem.wf = true) := by
  exact ⟨rfl, fun h => SMap.wf_filter _ _ h⟩

@[simp] theorem keepRegs_keep (s r : State) :
    (keepRegs s r).pending = r.pending ∧ (keepRegs s r).mem = r.mem := by
  unfold keepRegs
  have h := fun (l : List Nat) => foldl_keep (fun (t : State) o => t.wr o (s.rd o)) (fun _ _ => ⟨rfl, rfl⟩) l
  have h2 := fun (l : List Nat) => foldl_keep (fun (t : State) n => t.wr (rPwrTemp n) (s.rd (rPwrTemp n))) (fun _ _ => ⟨rfl, rfl⟩) l
  simp only [State.setBit_pending, State.setFld_pending, State.setBit_mem, State.setFld_mem]
  exact ⟨(h2 _ _).1.trans (h _ _).1, (h2 _ _).2.trans (h _ _).2⟩

@[simp] theorem warmBase_keep (s : State) (cold inStart : Bool) :
    (warmBase s cold inStart).pending = s.pending ∧ (s.mem.wf = true → (warmBase s cold inStart).mem.wf = true) := by
  exact ⟨rfl, fun _ => rfl⟩

@[simp] theorem warmMark_keep (r : State) (c : WarmCause) (kept inStart : Bool) :
    (warmMark r c kept inStart).pending = r.pending ∧ (warmMark r c kept inStart).mem = r.mem := by
  simp [warmMark]

@[simp] theorem warmEffect_keep (s : State) (c : WarmCause) (cold kept : Bool) :
    (warmEffect s c cold kept).pending = s.pending ∧ (s.mem.wf = true → (warmEffect s c cold kept).mem.wf = true) := by
  constructor; simp [warmEffect]; intro hw; simp [warmEffect, hw]

@[simp] theorem execWarmResetEffect_keep (confirmed : Bool) (s : State) :
    OutWf s (execWarmResetEffect confirmed s) := by
  unfold execWarmResetEffect; apply clocked_wf; (repeat' split) <;> (simp [OutWf]; (try (intro hw; simp [hw])))

@[simp] theorem startFail_keep (s : State) (status : Nat) :
    (startFail s status).pending = s.pending ∧ (startFail s status).mem = s.mem := by
  simp [startFail]

@[simp] theorem phaseFirmware_keep (s : State) :
    (phaseFirmware s).pending = s.pending ∧ (phaseFirmware s).mem = s.mem := by
  simp [phaseFirmware]

@[simp] theorem repairCheck_keep (s : State) :
    (repairCheck s).pending = s.pending ∧ (repairCheck s).mem = s.mem := by
  simp [repairCheck]

@[simp] theorem phaseRepair_keep (s : State) :
    (phaseRepair s).pending = s.pending ∧ (phaseRepair s).mem = s.mem := by
  simp [phaseRepair]

@[simp] theorem phaseInit_keep (s : State) (fail : List WellIx) :
    (phaseInit s fail).pending = s.pending ∧ (phaseInit s fail).mem = s.mem := by
  simp [phaseInit]

@[simp] theorem trained_keep (s : State) (rate : Nat) (saved : Bool) :
    (trained s rate saved).pending = s.pending ∧ (trained s rate saved).mem = s.mem := by
  simp [trained]

@[simp] theorem writeTraining_keep (s : State) (rate : Nat) :
    (writeTraining s rate).pending = s.pending ∧ (writeTraining s rate).mem = s.mem := by
  simp [writeTraining]

@[simp] theorem phaseDram_keep (s : State) (env : StartEnv) :
    (phaseDram s env).pending = s.pending ∧ (s.mem.wf = true → (phaseDram s env).mem.wf = true) := by
  have hp : (setPhase s 4).pending = s.pending ∧ (setPhase s 4).mem = s.mem := ⟨rfl, rfl⟩
  unfold phaseDram
  generalize setPhase s 4 = u at hp ⊢
  rw [← hp.1, ← hp.2]
  dsimp only
  split
  · rename_i r x h
    generalize ((savedTraining u).any fun c => c.rate == r) = b
    cases b <;> simp only [Bool.false_eq_true, if_false, if_true] <;> split <;> refine ⟨by simp, ?_⟩ <;>
      first | exact fun _ => rfl | (intro hw; simp [hw])
  · simp

@[simp] theorem phaseReady_keep (s : State) (env : StartEnv) :
    (phaseReady s env).pending = s.pending ∧ (phaseReady s env).mem = s.mem := by
  simp [phaseReady]

@[simp] theorem execStartPhase_keep (env : StartEnv) (s : State) :
    OutWf s (execStartPhase env s) := by
  unfold execStartPhase; (try dsimp only); (repeat' split) <;> (simp [OutWf]; (try (intro hw; simp [hw])))

end Sys2Proof.Machine
end

