-- ==== Sys2Proof/Laws/KeepWells.lean ====
section
/-! SUPPORT. What each shared operation and each command does to the command queue and to the
memory: the queue is left alone; memory is unchanged, or keeps its canonical form. -/

namespace Sys2Proof.Machine

/-! ### Queues -/

@[simp] theorem cisternRead_keep (s : State) (w k a : Nat) :
    (cisternRead s w k a).2.2.pending = s.pending ∧ (cisternRead s w k a).2.2.mem = s.mem := by
  unfold cisternRead; (try generalize regionOf _ _ = R); (try dsimp only); split <;> simp

@[simp] theorem cisternWrite_keep (s : State) (w k a : Nat) (l : Line) :
    (cisternWrite s w k a l).pending = s.pending ∧ (s.mem.wf = true → (cisternWrite s w k a l).mem.wf = true) := by
  constructor; simp [cisternWrite]; intro hw; simp [cisternWrite, hw]

@[simp] theorem cisternWriteback_keep (s : State) (w k a : Nat) :
    (cisternWriteback s w k a).pending = s.pending ∧ (s.mem.wf = true → (cisternWriteback s w k a).mem.wf = true) := by
  unfold cisternWriteback; (try generalize regionOf _ _ = R); (try dsimp only); (repeat' split) <;> (constructor; simp; intro hw; simp [hw])

@[simp] theorem execCisternEccWriteback_keep (w : WellIx) (k : Fin 48) (s : State) :
    OutWf s (execCisternEccWriteback w k s) := by
  unfold execCisternEccWriteback; apply clocked_wf; (try dsimp only); (repeat' split) <;> (simp [OutWf]; (try (intro hw; simp [hw])))

@[simp] theorem State.setSq_keep (s : State) (w e : Nat) (x : SqEntry) :
    (State.setSq s w e x).pending = s.pending ∧ (State.setSq s w e x).mem = s.mem := by
  simp [State.setSq]

@[simp] theorem sqPut_keep (s : State) (w e : Nat) (x : SqEntry) :
    (sqPut s w e x).pending = s.pending ∧ (sqPut s w e x).mem = s.mem := by
  simp [sqPut]

@[simp] theorem spillFull_keep (s : State) (w e : Nat) :
    (spillFull s w e).pending = s.pending ∧ (spillFull s w e).mem = s.mem := by
  simp [spillFull]

@[simp] theorem setRingSb_keep (s : State) (w k a : Nat) (b : Sideband) :
    (setRingSb s w k a b).pending = s.pending ∧ (setRingSb s w k a b).mem = s.mem := by
  simp [setRingSb]

@[simp] theorem ringSbRead_keep (s : State) (w k a : Nat) :
    (ringSbRead s w k a).2.2.pending = s.pending ∧ (ringSbRead s w k a).2.2.mem = s.mem := by
  unfold ringSbRead; (try generalize regionOf _ _ = R); (try dsimp only); (repeat' split) <;> simp

@[simp] theorem ringEnter_keep (s : State) (w e : Nat) (wd : Word) :
    (ringEnter s w e wd).pending = s.pending ∧ (s.mem.wf = true → (ringEnter s w e wd).mem.wf = true) := by
  constructor; simp [ringEnter]; intro hw; simp [ringEnter, hw]

@[simp] theorem sqPushAt_keep (s : State) (w e f0 : Nat) (wd : Word) :
    (sqPushAt s w e f0 wd).pending = s.pending ∧ (s.mem.wf = true → (sqPushAt s w e f0 wd).mem.wf = true) := by
  constructor; simp [sqPushAt]; intro hw; simp [sqPushAt, hw]

@[simp] theorem sqPush_keep (s : State) (w e : Nat) (wd : Word) :
    (sqPush s w e wd).pending = s.pending ∧ (s.mem.wf = true → (sqPush s w e wd).mem.wf = true) := by
  constructor; simp [sqPush]; intro hw; simp [sqPush, hw]

@[simp] theorem sqHead_keep (s : State) (w e : Nat) :
    (sqHead s w e).2.2.pending = s.pending ∧ (sqHead s w e).2.2.mem = s.mem := by
  simp [sqHead]

@[simp] theorem sqPop_keep (s : State) (w e : Nat) :
    (sqPop s w e).2.pending = s.pending ∧ (sqPop s w e).2.mem = s.mem := by
  simp [sqPop]

@[simp] theorem sqSidePop_keep (s : State) (w e : Nat) :
    (sqSidePop s w e).2.pending = s.pending ∧ (sqSidePop s w e).2.mem = s.mem := by
  simp [sqSidePop]

@[simp] theorem sqMark_keep (s : State) (w e : Nat) :
    (sqMark s w e).pending = s.pending ∧ (sqMark s w e).mem = s.mem := by
  simp [sqMark]

@[simp] theorem sqRewind_keep (s : State) (w e : Nat) :
    (sqRewind s w e).pending = s.pending ∧ (sqRewind s w e).mem = s.mem := by
  simp [sqRewind]

@[simp] theorem sqRelease_keep (s : State) (w e : Nat) :
    (sqRelease s w e).pending = s.pending ∧ (sqRelease s w e).mem = s.mem := by
  simp [sqRelease]

@[simp] theorem sideWait_keep (s : State) (w e : Nat) (wd : Word) :
    (sideWait s w e wd).pending = s.pending ∧ (sideWait s w e wd).mem = s.mem := by
  simp [sideWait]

@[simp] theorem sideEnter_keep (s : State) (w e : Nat) (wd : Word) :
    (sideEnter s w e wd).pending = s.pending ∧ (s.mem.wf = true → (sideEnter s w e wd).mem.wf = true) := by
  constructor; simp [sideEnter]; intro hw; simp [sideEnter, hw]

@[simp] theorem sidePush_keep (s : State) (w e : Nat) (wd : Word) :
    (sidePush s w e wd).pending = s.pending ∧ (s.mem.wf = true → (sidePush s w e wd).mem.wf = true) := by
  constructor; simp [sidePush]; intro hw; simp [sidePush, hw]

@[simp] theorem retryAll_keep (s : State) (w : Nat) :
    (retryAll s w).pending = s.pending ∧ (s.mem.wf = true → (retryAll s w).mem.wf = true) := by
  unfold retryAll; (try generalize regionOf _ _ = R); (try dsimp only); (repeat' (first | apply foldl_wf; intro _ _ | split)) <;> (constructor; simp; intro hw; simp [hw])

@[simp] theorem execSidePortWrite_keep (w : WellIx) (e : Fin 768) (wd : Word) (s : State) :
    OutWf s (execSidePortWrite w e wd s) := by
  unfold execSidePortWrite; apply clocked_wf; (repeat' split) <;> (simp [OutWf]; (try (intro hw; simp [hw])))

@[simp] theorem semSignal_keep (s : State) (w e : Nat) (sel : Bool) (n : Nat) :
    (semSignal s w e sel n).pending = s.pending ∧ (semSignal s w e sel n).mem = s.mem := by
  simp [semSignal]

@[simp] theorem semPort_keep (s : State) (w e : Nat) (sel : Bool) (n : Nat) :
    (semPort s w e sel n).pending = s.pending ∧ (semPort s w e sel n).mem = s.mem := by
  simp [semPort]

@[simp] theorem semArrive_keep (s : State) (w : Nat) :
    (semArrive s w).pending = s.pending ∧ (semArrive s w).mem = s.mem := by
  simp [semArrive]

@[simp] theorem execSemaphorePortUpdate_keep (w : WellIx) (e : Fin 768) (sel : Bool) (n : BitVec 16) (s : State) :
    OutKeeps s (execSemaphorePortUpdate w e sel n s) := by
  unfold execSemaphorePortUpdate; apply clocked_keeps; simp [OutKeeps]

@[simp] theorem sqCfgWrite_keep (s : State) (w e : Nat) (v : W32) :
    (sqCfgWrite s w e v).pending = s.pending ∧ (sqCfgWrite s w e v).mem = s.mem := by
  simp [sqCfgWrite]

@[simp] theorem execSqEnable_keep (w : WellIx) (e : Fin 768) (cfg : W32) (s : State) :
    OutKeeps s (execSqEnable w e cfg s) := by
  unfold execSqEnable; apply clocked_keeps; simp [OutKeeps]

@[simp] theorem sqSemWrite_keep (s : State) (w e : Nat) (v : W32) :
    (sqSemWrite s w e v).pending = s.pending ∧ (sqSemWrite s w e v).mem = s.mem := by
  simp [sqSemWrite]

@[simp] theorem execSqSemWrite_keep (w : WellIx) (e : Fin 768) (v : W32) (s : State) :
    OutKeeps s (execSqSemWrite w e v s) := by
  unfold execSqSemWrite; apply clocked_keeps; simp [OutKeeps]

@[simp] theorem pageStart_keep (s : State) (x : SqEntry) (j : Nat) :
    (pageStart s x j).pending = s.pending ∧ (s.mem.wf = true → (pageStart s x j).mem.wf = true) := by
  constructor; simp [pageStart]; intro hw; simp [pageStart, hw]

@[simp] theorem dramWrite16_keep (s : State) (a v : Nat) :
    (dramWrite16 s a v).pending = s.pending ∧ (s.mem.wf = true → (dramWrite16 s a v).mem.wf = true) := by
  constructor; simp [dramWrite16]; intro hw; simp [dramWrite16, hw]

@[simp] theorem execSpillWrite_keep (w : WellIx) (e : Fin 768) (s : State) :
    OutWf s (execSpillWrite w e s) := by
  unfold execSpillWrite; apply clocked_wf; dsimp only; split
  · split
    · simp only [OutWf]
      split <;>
        (refine ⟨by simp, fun hw => ?_⟩; simp
         exact (dramWrite16_keep _ _ _).2 ((pageStart_keep _ _ _).2 ((dramWrite_keep _ _ _ _).2 hw)))
    · exact ⟨rfl, id⟩
  · exact ⟨rfl, id⟩

@[simp] theorem execRefillRead_keep (w : WellIx) (e : Fin 768) (s : State) :
    OutKeeps s (execRefillRead w e s) := by
  unfold execRefillRead; apply clocked_keeps; (try dsimp only); (repeat' split) <;> simp [OutKeeps]

@[simp] theorem execRefillLanded_keep (w : WellIx) (e : Fin 768) (s : State) :
    OutWf s (execRefillLanded w e s) := by
  unfold execRefillLanded; apply clocked_wf; (try dsimp only); (repeat' split) <;> (simp [OutWf]; (try (intro hw; simp [hw])))

/-! ### Fabric -/

@[simp] theorem putOut_keep (s : State) (w f d ch n : Nat) (wd : Word) :
    (putOut s w f d ch n wd).pending = s.pending ∧ (putOut s w f d ch n wd).mem = s.mem := by
  unfold putOut; split <;> simp

@[simp] theorem putRoute_keep (s : State) (w f : Nat) (route : BitVec 4) (ch : Nat) (wd : Word) :
    (putRoute s w f route ch wd).pending = s.pending ∧ (putRoute s w f route ch wd).mem = s.mem := by
  simp [putRoute]

@[simp] theorem cuResult_keep (s : State) (w k : Nat) (op : CuOp) (c : CuF) (u : FUnit) (src : Sideband) (a : AluOut) :
    (cuResult s w k op c u src a).pending = s.pending ∧ (cuResult s w k op c u src a).mem = s.mem := by
  simp [cuResult]

@[simp] theorem cvtIssue_keep (s : State) (w k rep : Nat) (c : CuF) :
    (cvtIssue s w k rep c).pending = s.pending ∧ (cvtIssue s w k rep c).mem = s.mem := by
  simp [cvtIssue]

@[simp] theorem cuIssue_keep (s : State) (w k rep : Nat) (op : CuOp) (c : CuF) :
    (cuIssue s w k rep op c).pending = s.pending ∧ (cuIssue s w k rep op c).mem = s.mem := by
  unfold cuIssue; split <;> simp

@[simp] theorem agSet_keep (s : State) (w f ag part : Nat) (v : W64) :
    (agSet s w f ag part v).pending = s.pending ∧ (agSet s w f ag part v).mem = s.mem := by
  simp [agSet]

@[simp] theorem useBank_keep (s : State) (w b : Nat) :
    (useBank s w b).pending = s.pending ∧ (useBank s w b).mem = s.mem := by
  simp [useBank]

@[simp] theorem readAccess_keep (s : State) (w k : Nat) (k0 : RPend) (k1 : Nat) :
    (readAccess s w k k0 k1).2.pending = s.pending ∧ (readAccess s w k k0 k1).2.mem = s.mem := by
  induction k1 generalizing s w k k0 with | zero => simp [readAccess] | succ k ih => (unfold readAccess; (try dsimp only); (repeat' split) <;> simp [ih])

@[simp] theorem readRun_keep (s : State) (w f : Nat) (isB : Bool) (p : RPend) :
    (readRun s w f isB p).pending = s.pending ∧ (readRun s w f isB p).mem = s.mem := by
  simp [readRun]

@[simp] theorem writeHalves_keep (s : State) (w k : Nat) (wd : Line) (k0 : List (Nat × Nat)) (k1 : Nat) :
    (writeHalves s w k wd k0 k1).2.pending = s.pending ∧ (s.mem.wf = true → (writeHalves s w k wd k0 k1).2.mem.wf = true) := by
  induction k1 generalizing s k0 with
  | zero => unfold writeHalves; exact ⟨rfl, id⟩
  | succ n ih =>
    cases k0 with
    | nil => unfold writeHalves; exact ⟨rfl, id⟩
    | cons x r =>
      obtain ⟨a, h⟩ := x
      rw [writeHalves]
      dsimp only
      split
      · exact ⟨rfl, id⟩
      · have h1 : ∀ (c : Prop) [Decidable c] (t : State) (a : Nat), (if c then (0, false, t) else cisternRead t w k a).2.2.pending = t.pending ∧ (if c then (0, false, t) else cisternRead t w k a).2.2.mem = t.mem := by
          intro c _ t a; split <;> simp
        refine ⟨(ih _ _).1.trans ?_, fun hw => (ih _ _).2 ?_⟩
        · rw [(cisternWrite_keep _ _ _ _ _).1, (h1 _ _ _).1]; simp
        · refine (cisternWrite_keep _ _ _ _ _).2 ?_
          rw [(h1 _ _ _).2]; simpa using hw

@[simp] theorem writeRun_keep (s0 s : State) (w f : Nat) (p : WPend) (rest : List WPend) :
    (writeRun s0 s w f p rest).pending = s.pending
      ∧ (s.mem.wf = true → (writeRun s0 s w f p rest).mem.wf = true) := by
  unfold writeRun; dsimp only
  cases p.dest with
  | walk hs =>
    have h := writeHalves_keep s w (f - 48) p.word.data hs 3
    dsimp only
    split
    · exact ⟨by simp [h.1], fun hw => by simpa using h.2 hw⟩
    · exact ⟨by simp [h.1], fun hw => by simpa using h.2 hw⟩
  | queue qn =>
    dsimp only
    split
    · exact ⟨by simp, fun hw => by simpa using hw⟩
    · have h := fun t => sqPushAt_keep t w (16 * (f - 48) + qn) (s0.sq w (16 * (f - 48) + qn)).f p.word
      refine ⟨?_, fun hw => ?_⟩
      · rw [State.setWell_pending, (h _).1]; split <;> simp
      · rw [State.setWell_mem]; apply (h _).2; split <;> simpa using hw

@[simp] theorem slotIssue_keep (s : State) (w f : Nat) (r : RSlotF) (isB : Bool) (toW : Option WDest) :
    (slotIssue s w f r isB toW).pending = s.pending ∧ (slotIssue s w f r isB toW).mem = s.mem := by
  simp [slotIssue]

@[simp] theorem memIssue_keep (s : State) (w f : Nat) (m : MemF) :
    (memIssue s w f m).pending = s.pending ∧ (memIssue s w f m).mem = s.mem := by
  simp [memIssue]

@[simp] theorem psetIssue_keep (s : State) (w f : Nat) (pd cond arg : Nat) (neg : Bool) :
    (psetIssue s w f pd cond arg neg).pending = s.pending ∧ (psetIssue s w f pd cond arg neg).mem = s.mem := by
  unfold psetIssue; split <;> simp

@[simp] theorem switchIssue_keep (s : State) (w f ctx : Nat) (force : Bool) (mask : BitVec 7) (qna qnb : Nat) :
    (switchIssue s w f ctx force mask qna qnb).pending = s.pending ∧ (switchIssue s w f ctx force mask qna qnb).mem = s.mem := by
  simp [switchIssue]

@[simp] theorem unitNext_keep (s : State) (w f rep : Nat) :
    (unitNext s w f rep).pending = s.pending ∧ (unitNext s w f rep).mem = s.mem := by
  simp [unitNext]

@[simp] theorem unitIssue_keep (s : State) (w f : Nat) (h : SwHead) (op : SwOp) :
    (unitIssue s w f h op).pending = s.pending ∧ (unitIssue s w f h op).mem = s.mem := by
  unfold unitIssue; split <;> simp

@[simp] theorem resultsMove_keep (s0 s : State) (w f : Nat) :
    (resultsMove s0 s w f).pending = s.pending ∧ (resultsMove s0 s w f).mem = s.mem := by
  unfold resultsMove; (try generalize regionOf _ _ = R); (try dsimp only); (repeat' (first | apply foldl_keep; intro _ _ | split)) <;> simp

@[simp] theorem passMove_keep (s0 s : State) (w f : Nat) :
    (passMove s0 s w f).pending = s.pending ∧ (passMove s0 s w f).mem = s.mem := by
  unfold passMove; (try generalize regionOf _ _ = R); (try dsimp only); (repeat' (first | apply foldl_keep; intro _ _ | split)) <;> simp

@[simp] theorem flightsMove_keep (s : State) (w : Nat) :
    (flightsMove s w).pending = s.pending ∧ (flightsMove s w).mem = s.mem := by
  simp [flightsMove]

@[simp] theorem crossEnter_keep (s : State) (w key : Nat) (frozen : Bool) :
    (crossEnter s w key frozen).pending = s.pending ∧ (crossEnter s w key frozen).mem = s.mem := by
  unfold crossEnter; (try generalize regionOf _ _ = R); (try dsimp only); split <;> simp

@[simp] theorem crossingsMove_keep (s : State) (w : Nat) (frozen : Bool) :
    (crossingsMove s w frozen).pending = s.pending ∧ (crossingsMove s w frozen).mem = s.mem := by
  unfold crossingsMove; (try generalize regionOf _ _ = R); (try dsimp only); (repeat' (first | apply foldl_keep; intro _ _ | split)) <;> simp

@[simp] theorem execCrossingWordArrival_keep (w : WellIx) (row : Fin 24) (east express : Bool) (s : State) :
    OutKeeps s (execCrossingWordArrival w row east express s) := by
  unfold execCrossingWordArrival; apply clocked_keeps; (try dsimp only); simp [OutKeeps]

@[simp] theorem discardAt_keep (s : State) (w f : Nat) (t : SwWait) (b : Nat) :
    (discardAt s w f t b).pending = s.pending ∧ (discardAt s w f t b).mem = s.mem := by
  unfold discardAt; split <;> simp

@[simp] theorem waitStroke_keep (s : State) (w f : Nat) :
    (waitStroke s w f).pending = s.pending ∧ (waitStroke s w f).mem = s.mem := by
  unfold waitStroke; (try generalize regionOf _ _ = R); (try dsimp only); split <;> simp

@[simp] theorem wellSwitch_keep (s : State) (w ctx : Nat) :
    (wellSwitch s w ctx).pending = s.pending ∧ (wellSwitch s w ctx).mem = s.mem := by
  simp [wellSwitch]

@[simp] theorem execWellSwitch_keep (w : WellIx) (s : State) :
    OutKeeps s (execWellSwitch w s) := by
  unfold execWellSwitch; apply clocked_keeps; (repeat' split) <;> simp [OutKeeps]

/-! ### FabricOps -/

@[simp] theorem freezeWell_keep (s : State) (w cause : Nat) :
    (freezeWell s w cause).pending = s.pending ∧ (freezeWell s w cause).mem = s.mem := by
  simp [freezeWell]

@[simp] theorem unitStep_keep (s : State) (w f : Nat) (h : SwHead) (op : SwOp) :
    (unitStep s w f h op).pending = s.pending ∧ (unitStep s w f h op).mem = s.mem := by
  unfold unitStep; split <;> simp

@[simp] theorem unitRow_keep (s : State) (w f : Nat) (h : SwHead) (op : SwOp) (name : String) :
    OutKeeps s (unitRow s w f h op name) := by
  unfold unitRow; (repeat' split) <;> simp [OutKeeps]

@[simp] theorem execSwNop_keep (w : WellIx) (f : UnitIx) (h : SwHead) (s : State) :
    OutKeeps s (execSwNop w f h s) := by
  unfold execSwNop; apply clocked_keeps; simp

@[simp] theorem execSwLoop_keep (w : WellIx) (f : UnitIx) (h : SwHead) (lvl : BitVec 2) (count1 : BitVec 16) (last : BitVec 9) (s : State) :
    OutKeeps s (execSwLoop w f h lvl count1 last s) := by
  unfold execSwLoop; apply clocked_keeps; simp

@[simp] theorem execSwJmp_keep (w : WellIx) (f : UnitIx) (h : SwHead) (target : BitVec 9) (s : State) :
    OutKeeps s (execSwJmp w f h target s) := by
  unfold execSwJmp; apply clocked_keeps; simp

@[simp] theorem execPset_keep (w : WellIx) (f : UnitIx) (h : SwHead) (pd cond arg : BitVec 4) (neg : Bool) (s : State) :
    OutKeeps s (execPset w f h pd cond arg neg s) := by
  unfold execPset; apply clocked_keeps; simp

@[simp] theorem execSwitch_keep (w : WellIx) (f : UnitIx) (h : SwHead) (force : Bool) (mask : BitVec 7) (qna qnb : BitVec 4) (s : State) :
    OutKeeps s (execSwitch w f h force mask qna qnb s) := by
  unfold execSwitch; apply clocked_keeps; simp

@[simp] theorem execTagset_keep (w : WellIx) (f : UnitIx) (h : SwHead) (t : BitVec 6) (s : State) :
    OutKeeps s (execTagset w f h t s) := by
  unfold execTagset; apply clocked_keeps; simp

@[simp] theorem execMov_keep (w : WellIx) (k : Fin 48) (h : SwHead) (c : CuF) (s : State) :
    OutKeeps s (execMov w k h c s) := by
  unfold execMov; apply clocked_keeps; simp

@[simp] theorem execCvt_keep (w : WellIx) (k : Fin 48) (h : SwHead) (c : CuF) (s : State) :
    OutKeeps s (execCvt w k h c s) := by
  unfold execCvt; apply clocked_keeps; simp

@[simp] theorem execAdd_keep (w : WellIx) (k : Fin 48) (h : SwHead) (c : CuF) (s : State) :
    OutKeeps s (execAdd w k h c s) := by
  unfold execAdd; apply clocked_keeps; simp

@[simp] theorem execSub_keep (w : WellIx) (k : Fin 48) (h : SwHead) (c : CuF) (s : State) :
    OutKeeps s (execSub w k h c s) := by
  unfold execSub; apply clocked_keeps; simp

@[simp] theorem execMul_keep (w : WellIx) (k : Fin 48) (h : SwHead) (c : CuF) (s : State) :
    OutKeeps s (execMul w k h c s) := by
  unfold execMul; apply clocked_keeps; simp

@[simp] theorem execFma_keep (w : WellIx) (k : Fin 48) (h : SwHead) (c : CuF) (s : State) :
    OutKeeps s (execFma w k h c s) := by
  unfold execFma; apply clocked_keeps; simp

@[simp] theorem execMin_keep (w : WellIx) (k : Fin 48) (h : SwHead) (c : CuF) (s : State) :
    OutKeeps s (execMin w k h c s) := by
  unfold execMin; apply clocked_keeps; simp

@[simp] theorem execMax_keep (w : WellIx) (k : Fin 48) (h : SwHead) (c : CuF) (s : State) :
    OutKeeps s (execMax w k h c s) := by
  unfold execMax; apply clocked_keeps; simp

@[simp] theorem execCmp_keep (w : WellIx) (k : Fin 48) (h : SwHead) (c : CuF) (s : State) :
    OutKeeps s (execCmp w k h c s) := by
  unfold execCmp; apply clocked_keeps; simp

@[simp] theorem execSel_keep (w : WellIx) (k : Fin 48) (h : SwHead) (c : CuF) (s : State) :
    OutKeeps s (execSel w k h c s) := by
  unfold execSel; apply clocked_keeps; simp

@[simp] theorem execAnd_keep (w : WellIx) (k : Fin 48) (h : SwHead) (c : CuF) (s : State) :
    OutKeeps s (execAnd w k h c s) := by
  unfold execAnd; apply clocked_keeps; simp

@[simp] theorem execOr_keep (w : WellIx) (k : Fin 48) (h : SwHead) (c : CuF) (s : State) :
    OutKeeps s (execOr w k h c s) := by
  unfold execOr; apply clocked_keeps; simp

@[simp] theorem execXor_keep (w : WellIx) (k : Fin 48) (h : SwHead) (c : CuF) (s : State) :
    OutKeeps s (execXor w k h c s) := by
  unfold execXor; apply clocked_keeps; simp

@[simp] theorem execShl_keep (w : WellIx) (k : Fin 48) (h : SwHead) (c : CuF) (s : State) :
    OutKeeps s (execShl w k h c s) := by
  unfold execShl; apply clocked_keeps; simp

@[simp] theorem execShr_keep (w : WellIx) (k : Fin 48) (h : SwHead) (c : CuF) (s : State) :
    OutKeeps s (execShr w k h c s) := by
  unfold execShr; apply clocked_keeps; simp

@[simp] theorem execExp2_keep (w : WellIx) (k : Fin 48) (h : SwHead) (c : CuF) (s : State) :
    OutKeeps s (execExp2 w k h c s) := by
  unfold execExp2; apply clocked_keeps; simp

@[simp] theorem execLog2_keep (w : WellIx) (k : Fin 48) (h : SwHead) (c : CuF) (s : State) :
    OutKeeps s (execLog2 w k h c s) := by
  unfold execLog2; apply clocked_keeps; simp

@[simp] theorem execRcp_keep (w : WellIx) (k : Fin 48) (h : SwHead) (c : CuF) (s : State) :
    OutKeeps s (execRcp w k h c s) := by
  unfold execRcp; apply clocked_keeps; simp

@[simp] theorem execRsq_keep (w : WellIx) (k : Fin 48) (h : SwHead) (c : CuF) (s : State) :
    OutKeeps s (execRsq w k h c s) := by
  unfold execRsq; apply clocked_keeps; simp

@[simp] theorem execRsum_keep (w : WellIx) (k : Fin 48) (h : SwHead) (c : CuF) (s : State) :
    OutKeeps s (execRsum w k h c s) := by
  unfold execRsum; apply clocked_keeps; simp

@[simp] theorem execRmax_keep (w : WellIx) (k : Fin 48) (h : SwHead) (c : CuF) (s : State) :
    OutKeeps s (execRmax w k h c s) := by
  unfold execRmax; apply clocked_keeps; simp

@[simp] theorem execMem_keep (w : WellIx) (k : Fin 48) (h : SwHead) (m : MemF) (s : State) :
    OutKeeps s (execMem w k h m s) := by
  unfold execMem; apply clocked_keeps; simp

@[simp] theorem execAgset_keep (w : WellIx) (k : Fin 48) (h : SwHead) (ag : BitVec 2) (part : BitVec 3) (payload : W64) (s : State) :
    OutKeeps s (execAgset w k h ag part payload s) := by
  unfold execAgset; apply clocked_keeps; simp

/-! ### Slices -/

@[simp] theorem State.setSlc_keep (s : State) (w i : Nat) (y : Slice) :
    (State.setSlc s w i y).pending = s.pending ∧ (State.setSlc s w i y).mem = s.mem := by
  simp [State.setSlc]

@[simp] theorem tagMismatch_keep (s : State) (w i exp got : Nat) :
    (tagMismatch s w i exp got).pending = s.pending ∧ (tagMismatch s w i exp got).mem = s.mem := by
  unfold tagMismatch; (try generalize regionOf _ _ = R); (try dsimp only); split <;> simp

@[simp] theorem sliceSats_keep (s : State) (w i n : Nat) :
    (sliceSats s w i n).pending = s.pending ∧ (sliceSats s w i n).mem = s.mem := by
  simp [sliceSats]

@[simp] theorem weightLine_keep (s : State) (w i d line : Nat) :
    (weightLine s w i d line).2.2.pending = s.pending ∧ (weightLine s w i d line).2.2.mem = s.mem := by
  unfold weightLine; (try generalize regionOf _ _ = R); (try dsimp only); split <;> simp

@[simp] theorem weightWrite_keep (s : State) (w i d line : Nat) (l : Line) :
    (weightWrite s w i d line l).pending = s.pending ∧ (s.mem.wf = true → (weightWrite s w i d line l).mem.wf = true) := by
  constructor; simp [weightWrite]; intro hw; simp [weightWrite, hw]

@[simp] theorem weightWriteback_keep (s : State) (w i : Nat) :
    (weightWriteback s w i).pending = s.pending ∧ (s.mem.wf = true → (weightWriteback s w i).mem.wf = true) := by
  unfold weightWriteback; (try generalize regionOf _ _ = R); (try dsimp only); (repeat' split) <;> (constructor; simp; intro hw; simp [hw])

@[simp] theorem idleWriteback_keep (s : State) (w i : Nat) :
    (idleWriteback s w i).pending = s.pending ∧ (s.mem.wf = true → (idleWriteback s w i).mem.wf = true) := by
  constructor; simp [idleWriteback]; intro hw; simp [idleWriteback, hw]

@[simp] theorem sidecarCheck_keep (s : State) (w i : Nat) (f : MmaF) (elems d c : Nat) :
    (sidecarCheck s w i f elems d c).pending = s.pending ∧ (sidecarCheck s w i f elems d c).mem = s.mem := by
  unfold sidecarCheck; (try generalize regionOf _ _ = R); (try dsimp only); (repeat' split) <;> simp

@[simp] theorem dpuStep_keep (s : State) (w i : Nat) (f : MmaF) (p : Pair) (as : List Nat) (zero : Bool) (c a d : Nat) :
    (dpuStep s w i f p as zero c a d).1.pending = s.pending ∧ (dpuStep s w i f p as zero c a d).1.mem = s.mem := by
  simp [dpuStep]

@[simp] theorem broadcast_keep (s : State) (w i : Nat) (f : MmaF) (p : Pair) (v : Nat) (zero : Bool) (c a : Nat) :
    (broadcast s w i f p v zero c a).pending = s.pending ∧ (broadcast s w i f p v zero c a).mem = s.mem := by
  unfold broadcast; dsimp only
  have h := foldl_keep2 (fun (t : State × Nat) d =>
    ((dpuStep t.1 w i f p (codesOf f.afmt v p.elems) zero c a d).1, t.2 + (dpuStep t.1 w i f p (codesOf f.afmt v p.elems) zero c a d).2))
    (fun q x => dpuStep_keep q.1 w i f p _ zero c a x) (List.range 256) (s, 0)
  simp only [event_keep, sliceSats_keep, State.setSlc_keep]
  exact h

@[simp] theorem emitWord_keep (s : State) (w i : Nat) (o : OutWord) :
    (emitWord s w i o).pending = s.pending ∧ (emitWord s w i o).mem = s.mem := by
  unfold emitWord; (try generalize regionOf _ _ = R); (try dsimp only); (repeat' split) <;> simp

@[simp] theorem drainStroke_keep (s : State) (w i : Nat) :
    (drainStroke s w i).pending = s.pending ∧ (drainStroke s w i).mem = s.mem := by
  simp [drainStroke]

@[simp] theorem relaySend_keep (s : State) (w i late : Nat) (l : Line) :
    (relaySend s w i late l).pending = s.pending ∧ (relaySend s w i late l).mem = s.mem := by
  unfold relaySend; split <;> simp

@[simp] theorem loadStore_keep (s : State) (w i dfirst dcnt1 row lines1 side n : Nat) (l : Line) :
    (loadStore s w i dfirst dcnt1 row lines1 side n l).pending = s.pending ∧ (s.mem.wf = true → (loadStore s w i dfirst dcnt1 row lines1 side n l).mem.wf = true) := by
  constructor; simp [loadStore]; intro hw; simp [loadStore, hw]

@[simp] theorem lineDue_keep (s : State) (w i dfirst dcnt1 row lines1 side n : Nat) (l : Line) :
    (lineDue s w i dfirst dcnt1 row lines1 side n l).pending = s.pending ∧ (lineDue s w i dfirst dcnt1 row lines1 side n l).mem = s.mem := by
  simp [lineDue]

@[simp] theorem linesLand_keep (s : State) (w i : Nat) :
    (linesLand s w i).pending = s.pending ∧ (s.mem.wf = true → (linesLand s w i).mem.wf = true) := by
  unfold linesLand; (try generalize regionOf _ _ = R); (try dsimp only); (constructor <;> (try intro hw) <;> simp_all)

@[simp] theorem mmaVector_keep (s : State) (w i : Nat) (f : MmaF) (p : Pair) (bank : Nat) (zero : Bool) (c pos : Nat) :
    (mmaVector s w i f p bank zero c pos).pending = s.pending ∧ (mmaVector s w i f p bank zero c pos).mem = s.mem := by
  simp [mmaVector]

@[simp] theorem mmaStroke_keep (s : State) (w i : Nat) (f : MmaF) (bank : Nat) (zero : Bool) (c p sub : Nat) :
    (mmaStroke s w i f bank zero c p sub).pending = s.pending ∧ (mmaStroke s w i f bank zero c p sub).mem = s.mem := by
  unfold mmaStroke; split <;> simp

@[simp] theorem wldStroke_keep (s : State) (w i : Nat) (f : WldF) (dyn : Bool) (n : Nat) :
    (wldStroke s w i f dyn n).pending = s.pending ∧ (wldStroke s w i f dyn n).mem = s.mem := by
  simp [wldStroke]

@[simp] theorem relayStroke_keep (s : State) (w i : Nat) (f : WrelayF) (n : Nat) :
    (relayStroke s w i f n).pending = s.pending ∧ (relayStroke s w i f n).mem = s.mem := by
  unfold relayStroke; (try generalize regionOf _ _ = R); (try dsimp only); (repeat' split) <;> simp

@[simp] theorem passStroke_keep (s : State) (w i : Nat) :
    (passStroke s w i).pending = s.pending ∧ (passStroke s w i).mem = s.mem := by
  unfold passStroke; (try generalize regionOf _ _ = R); (try dsimp only); split <;> simp

@[simp] theorem bankStroke_keep (s : State) (w i : Nat) :
    (bankStroke s w i).pending = s.pending ∧ (s.mem.wf = true → (bankStroke s w i).mem.wf = true) := by
  unfold bankStroke; (try generalize regionOf _ _ = R); (repeat' split) <;> (constructor; simp; intro hw; simp [hw])

@[simp] theorem sideStroke_keep (s : State) (w i : Nat) :
    (sideStroke s w i).pending = s.pending ∧ (sideStroke s w i).mem = s.mem := by
  unfold sideStroke; (try generalize regionOf _ _ = R); (try dsimp only); (repeat' split) <;> simp

@[simp] theorem engineStroke_keep (s : State) (w i : Nat) :
    (engineStroke s w i).pending = s.pending ∧ (s.mem.wf = true → (engineStroke s w i).mem.wf = true) := by
  constructor; simp [engineStroke]; intro hw; simp [engineStroke, hw]

/-! ### Msq -/

@[simp] theorem barArrive_keep (s : State) (p b : Nat) :
    (barArrive s p b).pending = s.pending ∧ (barArrive s p b).mem = s.mem := by
  simp [barArrive]

@[simp] theorem barRelease_keep (s : State) (w b : Nat) :
    (barRelease s w b).pending = s.pending ∧ (barRelease s w b).mem = s.mem := by
  simp [barRelease]

@[simp] theorem barCounted_keep (s : State) (w i : Nat) :
    (barCounted s w i).pending = s.pending ∧ (barCounted s w i).mem = s.mem := by
  unfold barCounted; (try generalize regionOf _ _ = R); (try dsimp only); (repeat' split) <;> simp

@[simp] theorem threadArrive_keep (s : State) (w i : Nat) (op : MsqOp) :
    (threadArrive s w i op).pending = s.pending ∧ (threadArrive s w i op).mem = s.mem := by
  unfold threadArrive; (try generalize regionOf _ _ = R); (repeat' split) <;> simp

@[simp] theorem semTake_keep (s : State) (f : SemF) :
    (semTake s f).pending = s.pending ∧ (semTake s f).mem = s.mem := by
  simp [semTake]

@[simp] theorem mmaIssue_keep (s : State) (w i : Nat) (f : MmaF) (zero : Bool) :
    (mmaIssue s w i f zero).pending = s.pending ∧ (mmaIssue s w i f zero).mem = s.mem := by
  simp [mmaIssue]

@[simp] theorem drainIssue_keep (s : State) (w i : Nat) (f : DrainF) :
    (drainIssue s w i f).pending = s.pending ∧ (drainIssue s w i f).mem = s.mem := by
  simp [drainIssue]

@[simp] theorem threadIssue_keep (s : State) (w i : Nat) (op : MsqOp) :
    (threadIssue s w i op).pending = s.pending ∧ (threadIssue s w i op).mem = s.mem := by
  unfold threadIssue; split <;> simp

@[simp] theorem threadStay_keep (s : State) (w i : Nat) (op : MsqOp) (v : Verdict) :
    (threadStay s w i op v).pending = s.pending ∧ (threadStay s w i op v).mem = s.mem := by
  unfold threadStay; split <;> simp

@[simp] theorem threadStep_keep (s : State) (w i : Nat) (op : MsqOp) :
    (threadStep s w i op).pending = s.pending ∧ (threadStep s w i op).mem = s.mem := by
  unfold threadStep; (try generalize regionOf _ _ = R); (try dsimp only); split <;> simp

@[simp] theorem threadRow_keep (s : State) (t : Thread) (op : MsqOp) (name : String) :
    OutKeeps s (threadRow s t op name) := by
  unfold threadRow; (repeat' split) <;> simp [OutKeeps]

@[simp] theorem execMsqNop_keep (t : Thread) (s : State) :
    OutKeeps s (execMsqNop t s) := by
  unfold execMsqNop; apply clocked_keeps; simp

@[simp] theorem execHalt_keep (t : Thread) (code : BitVec 16) (s : State) :
    OutKeeps s (execHalt t code s) := by
  unfold execHalt; apply clocked_keeps; simp

@[simp] theorem execMsqLoop_keep (t : Thread) (lvl : BitVec 2) (count1 : BitVec 16) (last : BitVec 8) (s : State) :
    OutKeeps s (execMsqLoop t lvl count1 last s) := by
  unfold execMsqLoop; apply clocked_keeps; simp

@[simp] theorem execMsqJmp_keep (t : Thread) (target : BitVec 8) (s : State) :
    OutKeeps s (execMsqJmp t target s) := by
  unfold execMsqJmp; apply clocked_keeps; simp

@[simp] theorem execBrc_keep (t : Thread) (cond : BitVec 4) (neg : Bool) (lvl : BitVec 2) (target : BitVec 8) (s : State) :
    OutKeeps s (execBrc t cond neg lvl target s) := by
  unfold execBrc; apply clocked_keeps; simp

@[simp] theorem execWld_keep (t : Thread) (f : WldF) (s : State) :
    OutKeeps s (execWld t f s) := by
  unfold execWld; apply clocked_keeps; simp

@[simp] theorem execWrelay_keep (t : Thread) (f : WrelayF) (s : State) :
    OutKeeps s (execWrelay t f s) := by
  unfold execWrelay; apply clocked_keeps; simp

@[simp] theorem execWdyn_keep (t : Thread) (f : WdynF) (s : State) :
    OutKeeps s (execWdyn t f s) := by
  unfold execWdyn; apply clocked_keeps; simp

@[simp] theorem execMma_keep (t : Thread) (f : MmaF) (s : State) :
    OutKeeps s (execMma t f s) := by
  unfold execMma; apply clocked_keeps; simp

@[simp] theorem execMmaz_keep (t : Thread) (f : MmaF) (s : State) :
    OutKeeps s (execMmaz t f s) := by
  unfold execMmaz; apply clocked_keeps; simp

@[simp] theorem execDrain_keep (t : Thread) (f : DrainF) (s : State) :
    OutKeeps s (execDrain t f s) := by
  unfold execDrain; apply clocked_keeps; simp

@[simp] theorem execScl_keep (t : Thread) (f : SclF) (s : State) :
    OutKeeps s (execScl t f s) := by
  unfold execScl; apply clocked_keeps; simp

@[simp] theorem execScls_keep (t : Thread) (kind : Bool) (ch : BitVec 2) (s : State) :
    OutKeeps s (execScls t kind ch s) := by
  unfold execScls; apply clocked_keeps; simp

@[simp] theorem execZpc_keep (t : Thread) (f : ZpcF) (s : State) :
    OutKeeps s (execZpc t f s) := by
  unfold execZpc; apply clocked_keeps; simp

@[simp] theorem execQwait_keep (t : Thread) (f : SemF) (s : State) :
    OutKeeps s (execQwait t f s) := by
  unfold execQwait; apply clocked_keeps; simp

@[simp] theorem execSemsig_keep (t : Thread) (f : SemF) (s : State) :
    OutKeeps s (execSemsig t f s) := by
  unfold execSemsig; apply clocked_keeps; simp

@[simp] theorem execSemwait_keep (t : Thread) (f : SemF) (s : State) :
    OutKeeps s (execSemwait t f s) := by
  unfold execSemwait; apply clocked_keeps; simp

@[simp] theorem execBar_keep (t : Thread) (bid : BitVec 4) (s : State) :
    OutKeeps s (execBar t bid s) := by
  unfold execBar; apply clocked_keeps; simp

@[simp] theorem execFence_keep (t : Thread) (s : State) :
    OutKeeps s (execFence t s) := by
  unfold execFence; apply clocked_keeps; simp

@[simp] theorem execDrainall_keep (t : Thread) (mask : BitVec 4) (s : State) :
    OutKeeps s (execDrainall t mask s) := by
  unfold execDrainall; apply clocked_keeps; simp

@[simp] theorem execCtxsw_keep (t : Thread) (ctx : BitVec 2) (force : Bool) (mask : BitVec 4) (s : State) :
    OutKeeps s (execCtxsw t ctx force mask s) := by
  unfold execCtxsw; apply clocked_keeps; simp

@[simp] theorem execPtok_keep (t : Thread) (duty : BitVec 7) (s : State) :
    OutKeeps s (execPtok t duty s) := by
  unfold execPtok; apply clocked_keeps; simp

@[simp] theorem execStat_keep (t : Thread) (perTensor unit : Bool) (winLen : BitVec 16) (s : State) :
    OutKeeps s (execStat t perTensor unit winLen s) := by
  unfold execStat; apply clocked_keeps; simp

@[simp] theorem execTag_keep (t : Thread) (l1 : BitVec 12) (s : State) :
    OutKeeps s (execTag t l1 s) := by
  unfold execTag; apply clocked_keeps; simp

@[simp] theorem execTrap_keep (t : Thread) (code : BitVec 16) (s : State) :
    OutKeeps s (execTrap t code s) := by
  unfold execTrap; apply clocked_keeps; simp

@[simp] theorem execThreadWaitEnd_keep (t : Thread) (s : State) :
    OutKeeps s (execThreadWaitEnd t s) := by
  unfold execThreadWaitEnd; apply clocked_keeps; (try dsimp only); (repeat' split) <;> simp [OutKeeps]

@[simp] theorem execThreadContextSwitch_keep (t : Thread) (s : State) :
    OutKeeps s (execThreadContextSwitch t s) := by
  unfold execThreadContextSwitch; apply clocked_keeps; (try dsimp only); simp [OutKeeps]

@[simp] theorem execWsEccWriteback_keep (t : Thread) (s : State) :
    OutWf s (execWsEccWriteback t s) := by
  unfold execWsEccWriteback; apply clocked_wf; (try dsimp only); (repeat' split) <;> (simp [OutWf]; (try (intro hw; simp [hw])))

@[simp] theorem execRelayLineArrival_keep (t : Thread) (s : State) :
    OutKeeps s (execRelayLineArrival t s) := by
  unfold execRelayLineArrival; apply clocked_keeps; (try dsimp only); simp [OutKeeps]

@[simp] theorem threadStart_keep (s : State) (w i : Nat) :
    (threadStart s w i).pending = s.pending ∧ (threadStart s w i).mem = s.mem := by
  simp [threadStart]

@[simp] theorem threadStop_keep (s : State) (w i : Nat) :
    (threadStop s w i).pending = s.pending ∧ (threadStop s w i).mem = s.mem := by
  simp [threadStop]

@[simp] theorem msqCtrlWrite_keep (s : State) (w i : Nat) (v : W32) :
    (msqCtrlWrite s w i v).pending = s.pending ∧ (msqCtrlWrite s w i v).mem = s.mem := by
  simp [msqCtrlWrite]

@[simp] theorem execMsqStart_keep (t : Thread) (ctx : BitVec 2) (swflag : Bool) (s : State) :
    OutKeeps s (execMsqStart t ctx swflag s) := by
  unfold execMsqStart; apply clocked_keeps; simp [OutKeeps]

@[simp] theorem execMsqStop_keep (t : Thread) (ctx : BitVec 2) (swflag start : Bool) (s : State) :
    OutKeeps s (execMsqStop t ctx swflag start s) := by
  unfold execMsqStop; apply clocked_keeps; simp [OutKeeps]

@[simp] theorem meScaleWrite_keep (s : State) (w i n : Nat) (v : W32) :
    (meScaleWrite s w i n v).pending = s.pending ∧ (meScaleWrite s w i n v).mem = s.mem := by
  simp [meScaleWrite]

@[simp] theorem execMeScaleWrite_keep (t : Thread) (n : Fin 256) (v : W32) (s : State) :
    OutKeeps s (execMeScaleWrite t n v s) := by
  unfold execMeScaleWrite; apply clocked_keeps; simp [OutKeeps]

@[simp] theorem statCtrlWrite_keep (s : State) (u : StatUnit) (v : W32) :
    (statCtrlWrite s u v).pending = s.pending ∧ (statCtrlWrite s u v).mem = s.mem := by
  unfold statCtrlWrite; split <;> simp

@[simp] theorem execStatCtrlWrite_keep (u : StatUnit) (v : W32) (s : State) :
    OutKeeps s (execStatCtrlWrite u v s) := by
  unfold execStatCtrlWrite; apply clocked_keeps; simp [OutKeeps]

@[simp] theorem execStatWindowEnd_keep (u : StatUnit) (s : State) :
    OutKeeps s (execStatWindowEnd u s) := by
  unfold execStatWindowEnd; apply clocked_keeps; (try dsimp only); (repeat' split) <;> simp [OutKeeps]

/-! ### Tasks -/

@[simp] theorem dcSettle_keep (s : State) (p : Nat) :
    (dcSettle s p).pending = s.pending ∧ (dcSettle s p).mem = s.mem := by
  simp [dcSettle]

@[simp] theorem ringSettle_keep (s : State) (n : Nat) :
    (ringSettle s n).pending = s.pending ∧ (ringSettle s n).mem = s.mem := by
  simp [ringSettle]

@[simp] theorem pushRecord_keep (s : State) (n : Nat) (r : DoneRec) :
    (pushRecord s n r).pending = s.pending ∧ (pushRecord s n r).mem = s.mem := by
  simp [pushRecord]

@[simp] theorem heldMap_keep (s : State) (p : Nat) (f : Held → Held) :
    (heldMap s p f).pending = s.pending ∧ (heldMap s p f).mem = s.mem := by
  simp [heldMap]

@[simp] theorem heldRelease_keep (s : State) (n seq : Nat) :
    (heldRelease s n seq).pending = s.pending ∧ (heldRelease s n seq).mem = s.mem := by
  simp [heldRelease]

end Sys2Proof.Machine
end

