-- ==== Sys2Proof/Laws/KeepStreams.lean ====
section
/-! SUPPORT. What each shared operation and each command does to the command queue and to the
memory: the queue is left alone; memory is unchanged, or keeps its canonical form. -/

namespace Sys2Proof.Machine

/-! ### Intake -/

@[simp] theorem hostIssue_keep (s : State) (wr : Bool) (addr : Nat) (data : Line) (mask : BitVec 64) (o : Owner) :
    (hostIssue s wr addr data mask o).2.pending = s.pending ∧ (hostIssue s wr addr data mask o).2.mem = s.mem := by
  unfold hostIssue; (try generalize regionOf _ _ = R); (try dsimp only); split <;> simp

@[simp] theorem hiError_keep (s : State) (kind addr : Nat) :
    (hiError s kind addr).pending = s.pending ∧ (hiError s kind addr).mem = s.mem := by
  simp [hiError]

@[simp] theorem hostTry_keep (s : State) (wr : Bool) (h : Nat) :
    (hostTry s wr h).2.pending = s.pending ∧ (hostTry s wr h).2.mem = s.mem := by
  unfold hostTry; (try generalize regionOf _ _ = R); (try dsimp only); (repeat' split) <;> simp

@[simp] theorem listRead_keep (s : State) (a n : Nat) :
    (listRead s a n).2.pending = s.pending ∧ (listRead s a n).2.mem = s.mem := by
  induction n generalizing s a with
  | zero => exact ⟨rfl, rfl⟩
  | succ n ih =>
    simp only [listRead, ih]
    split <;> simp

@[simp] theorem fiListRead_keep (s : State) (u p : Nat) (task : Option Nat) :
    (fiListRead s u p task).2.pending = s.pending ∧ (fiListRead s u p task).2.mem = s.mem := by
  unfold fiListRead; dsimp only; (repeat' split) <;> simp

/-! ### Streams -/

@[simp] theorem strReport_keep (s : State) (i status addr off : Nat) (task pipe : Option Nat) :
    (strReport s i status addr off task pipe).pending = s.pending ∧ (strReport s i status addr off task pipe).mem = s.mem := by
  unfold strReport; (try generalize regionOf _ _ = R); (try dsimp only); (repeat' split) <;> simp

@[simp] theorem taskJoin_keep (s : State) (t : Option Nat) (i : Nat) :
    (taskJoin s t i).pending = s.pending ∧ (taskJoin s t i).mem = s.mem := by
  unfold taskJoin; split <;> simp

@[simp] theorem taskSettle_keep (s : State) (t : Option Nat) :
    (taskSettle s t).pending = s.pending ∧ (taskSettle s t).mem = s.mem := by
  unfold taskSettle; split <;> simp

@[simp] theorem strArm_keep (s : State) (i : Nat) (a : StrSlot) :
    (strArm s i a).2.pending = s.pending ∧ (strArm s i a).2.mem = s.mem := by
  unfold strArm; (try generalize regionOf _ _ = R); (try dsimp only); (repeat' split) <;> simp

@[simp] theorem taskDrop_keep (s : State) (t i : Nat) :
    (taskDrop s t i).pending = s.pending ∧ (taskDrop s t i).mem = s.mem := by
  simp [taskDrop]

@[simp] theorem dcArmNext_keep (s : State) (i : Nat) :
    (dcArmNext s i).pending = s.pending ∧ (dcArmNext s i).mem = s.mem := by
  unfold dcArmNext; (try generalize regionOf _ _ = R); (try dsimp only); (repeat' split) <;> simp

@[simp] theorem taskStreamEnd_keep (s : State) (t i code bytes : Nat) :
    (taskStreamEnd s t i code bytes).pending = s.pending ∧ (taskStreamEnd s t i code bytes).mem = s.mem := by
  simp [taskStreamEnd]

@[simp] theorem heldStream_keep (s : State) (i bytes : Nat) :
    (heldStream s i bytes).pending = s.pending ∧ (heldStream s i bytes).mem = s.mem := by
  simp [heldStream]

@[simp] theorem strReserve_keep (s : State) (i w e n : Nat) :
    (strReserve s i w e n).pending = s.pending ∧ (strReserve s i w e n).mem = s.mem := by
  simp [strReserve]

@[simp] theorem strUnreserve_keep (s : State) (i w e : Nat) :
    (strUnreserve s i w e).pending = s.pending ∧ (strUnreserve s i w e).mem = s.mem := by
  simp [strUnreserve]

@[simp] theorem strRelease_keep (s : State) (i : Nat) :
    (strRelease s i).pending = s.pending ∧ (strRelease s i).mem = s.mem := by
  simp [strRelease]

@[simp] theorem strFree_keep (s : State) (i : Nat) :
    (strFree s i).pending = s.pending ∧ (strFree s i).mem = s.mem := by
  simp [strFree]

@[simp] theorem strEnd_keep (s : State) (i code : Nat) :
    (strEnd s i code).pending = s.pending ∧ (strEnd s i code).mem = s.mem := by
  unfold strEnd; (try generalize regionOf _ _ = R); (try dsimp only); split <;> simp

@[simp] theorem strSignal_keep (s : State) (c : W32) :
    (strSignal s c).pending = s.pending ∧ (strSignal s c).mem = s.mem := by
  unfold strSignal; split <;> simp

@[simp] theorem strComplete_keep (s : State) (i : Nat) (k0 : Nat) :
    (strComplete s i k0).pending = s.pending ∧ (strComplete s i k0).mem = s.mem := by
  induction k0 generalizing s i with | zero => simp [strComplete] | succ k ih => (unfold strComplete; (try dsimp only); (repeat' split) <;> simp [ih])

@[simp] theorem strVisible_keep (s : State) (i : Nat) :
    (strVisible s i).pending = s.pending ∧ (strVisible s i).mem = s.mem := by
  simp [strVisible]

@[simp] theorem sendSterr_keep (s : State) (i status : Nat) :
    (sendSterr s i status).pending = s.pending ∧ (sendSterr s i status).mem = s.mem := by
  unfold sendSterr; (try generalize regionOf _ _ = R); (try dsimp only); split <;> simp

@[simp] theorem boundaryLost_keep (s : State) (i : Nat) :
    (boundaryLost s i).pending = s.pending ∧ (boundaryLost s i).mem = s.mem := by
  simp [boundaryLost]

@[simp] theorem strCancel_keep (s : State) (i : Nat) (sink : Bool) :
    (strCancel s i sink).pending = s.pending ∧ (strCancel s i sink).mem = s.mem := by
  unfold strCancel; (try generalize regionOf _ _ = R); (try dsimp only); (repeat' split) <;> simp

@[simp] theorem strFlush_keep (s : State) (i : Nat) (sink : Bool) :
    (strFlush s i sink).pending = s.pending ∧ (strFlush s i sink).mem = s.mem := by
  unfold strFlush; (try generalize regionOf _ _ = R); (try dsimp only); split <;> simp

@[simp] theorem strFaultOf_keep (s : State) (i status addr off : Nat) (at_ : List (Nat × Nat)) :
    (strFaultOf s i status addr off at_).pending = s.pending ∧ (strFaultOf s i status addr off at_).mem = s.mem := by
  simp [strFaultOf]

@[simp] theorem strFault_keep (s : State) (i status addr off : Nat) :
    (strFault s i status addr off).pending = s.pending ∧ (strFault s i status addr off).mem = s.mem := by
  simp [strFault]

theorem lineRead_keep (s : State) (a : Nat) (rr : _) :
    (lineRead s a) = some rr → rr.2.2.pending = s.pending ∧ rr.2.2.mem = s.mem := by
  intro h; unfold lineRead at h; (try generalize regionOf _ _ = R at h); (try dsimp only at h); (repeat' split at h) <;> (first | contradiction | (injection h with h; subst h; simp_all) | simp_all)

@[simp] theorem execPmpArm_keep (p : PumpIx) (c : StreamIx) (s : State) :
    OutKeeps s (execPmpArm p c s) := by
  unfold execPmpArm; apply clocked_keeps; (try dsimp only); simp [OutKeeps]

@[simp] theorem execPmpCancel_keep (p : PumpIx) (c : StreamIx) (s : State) :
    OutKeeps s (execPmpCancel p c s) := by
  unfold execPmpCancel; apply clocked_keeps; simp [OutKeeps]

@[simp] theorem execPmpFlush_keep (p : PumpIx) (c : StreamIx) (s : State) :
    OutKeeps s (execPmpFlush p c s) := by
  unfold execPmpFlush; apply clocked_keeps; simp [OutKeeps]

@[simp] theorem pmpCtrlWrite_keep (s : State) (i : Nat) (v : W64) :
    (pmpCtrlWrite s i v).pending = s.pending ∧ (pmpCtrlWrite s i v).mem = s.mem := by
  simp [pmpCtrlWrite]

@[simp] theorem descArrive_keep (s : State) (i a : Nat) (dw : List W64) :
    (descArrive s i a dw).pending = s.pending ∧ (descArrive s i a dw).mem = s.mem := by
  simp [descArrive]

@[simp] theorem descFail_keep (s : State) (i status a : Nat) :
    (descFail s i status a).pending = s.pending ∧ (descFail s i status a).mem = s.mem := by
  simp [descFail]

@[simp] theorem descHost_keep (s : State) (p c a h : Nat) (line : Line) (err : Bool) :
    (descHost s p c a h line err).pending = s.pending ∧ (descHost s p c a h line err).mem = s.mem := by
  unfold descHost; (try generalize regionOf _ _ = R); (try dsimp only); (repeat' split) <;> simp

@[simp] theorem execDescriptorCheck_keep (p : PumpIx) (c : StreamIx) (host : Line) (hostErr : Bool) (s : State) :
    OutKeeps s (execDescriptorCheck p c host hostErr s) := by
  unfold execDescriptorCheck; apply clocked_keeps; (try generalize regionOf _ _ = R); (try dsimp only); (repeat' split) <;> (try have h0 := lineRead_keep _ _ _ ‹lineRead _ _ = some _›) <;> simp_all [OutKeeps, OutWf]

@[simp] theorem execCancelComplete_keep (p : PumpIx) (c : StreamIx) (s : State) :
    OutKeeps s (execCancelComplete p c s) := by
  unfold execCancelComplete; apply clocked_keeps; (try dsimp only); (repeat' split) <;> simp [OutKeeps]

@[simp] theorem execTteSample_keep (p : PumpIx) (c : StreamIx) (s : State) :
    OutKeeps s (execTteSample p c s) := by
  unfold execTteSample; apply clocked_keeps; (try dsimp only); (repeat' split) <;> simp [OutKeeps]

/-! ### Dc -/

@[simp] theorem State.setRing_keep (s : State) (n : Nat) (g : Ring) :
    (State.setRing s n g).pending = s.pending ∧ (State.setRing s n g).mem = s.mem := by
  simp [State.setRing]

@[simp] theorem State.setPipe_keep (s : State) (p : Nat) (x : DcPipe) :
    (State.setPipe s p x).pending = s.pending ∧ (State.setPipe s p x).mem = s.mem := by
  simp [State.setPipe]

@[simp] theorem ringTail_keep (s : State) (n v : Nat) :
    (ringTail s n v).pending = s.pending ∧ (ringTail s n v).mem = s.mem := by
  simp [ringTail]

@[simp] theorem execDcCringHeadWrite_keep (n : Fin 256) (v : W32) (s : State) :
    OutKeeps s (execDcCringHeadWrite n v s) := by
  unfold execDcCringHeadWrite; apply clocked_keeps; (try dsimp only); simp [OutKeeps]

@[simp] theorem ringUpdate_keep (s : State) (n : Nat) :
    (ringUpdate s n).pending = s.pending ∧ (ringUpdate s n).mem = s.mem := by
  simp [ringUpdate]

@[simp] theorem intakeArrive_keep (s : State) (n : Nat) (dw : List W64) :
    (intakeArrive s n dw).pending = s.pending ∧ (intakeArrive s n dw).mem = s.mem := by
  simp [intakeArrive]

@[simp] theorem intakeFail_keep (s : State) (n a : Nat) :
    (intakeFail s n a).pending = s.pending ∧ (intakeFail s n a).mem = s.mem := by
  simp [intakeFail]

@[simp] theorem execIntakeDescriptorFetch_keep (host : Line) (hostErr : Bool) (s : State) :
    OutKeeps s (execIntakeDescriptorFetch host hostErr s) := by
  unfold execIntakeDescriptorFetch; apply clocked_keeps; (try generalize regionOf _ _ = R); (try dsimp only); (repeat' split) <;> (try have h0 := lineRead_keep _ _ _ ‹lineRead _ _ = some _›) <;> simp_all [OutKeeps, OutWf]

@[simp] theorem dcRead_keep (s : State) (a : Nat) :
    (dcRead s a).2.2.pending = s.pending ∧ (dcRead s a).2.2.mem = s.mem := by
  unfold dcRead; (try generalize regionOf _ _ = R); (try dsimp only); (repeat' split) <;> (try have h0 := lineRead_keep _ _ _ ‹lineRead _ _ = some _›) <;> simp_all

@[simp] theorem lineWrite_keep (s : State) (a : Nat) (l : Line) :
    (lineWrite s a l).2.pending = s.pending ∧ (s.mem.wf = true → (lineWrite s a l).2.mem.wf = true) := by
  unfold lineWrite; (try generalize regionOf _ _ = R); (try dsimp only); (repeat' split) <;> (constructor; simp; intro hw; simp [hw])

@[simp] theorem readTemplates_keep (s : State) (a : Nat) (k0 : Nat) :
    (readTemplates s a k0).2.2.pending = s.pending ∧ (readTemplates s a k0).2.2.mem = s.mem := by
  induction k0 generalizing s a with | zero => simp [readTemplates] | succ k ih => (unfold readTemplates; (try dsimp only); (repeat' split) <;> simp [ih])

@[simp] theorem writeCopies_keep (s : State) (l : List (Nat × List W64)) :
    (writeCopies s l).2.pending = s.pending
      ∧ (s.mem.wf = true → (writeCopies s l).2.mem.wf = true) := by
  induction l generalizing s with
  | nil => exact ⟨rfl, id⟩
  | cons x r ih =>
    obtain ⟨a, dw⟩ := x
    have h := lineWrite_keep s a (BitVec.ofNat 512 (ofLanes 64 (dw.map (·.toNat))))
    simp only [writeCopies]
    split
    · exact h
    · exact ⟨(ih _).1.trans h.1, fun hw => (ih _).2 (h.2 hw)⟩

@[simp] theorem templatesOf_keep (s : State) (p : Nat) :
    (templatesOf s p).2.2.2.pending = s.pending ∧ (templatesOf s p).2.2.2.mem = s.mem := by
  unfold templatesOf; (try generalize regionOf _ _ = R); (try dsimp only); split <;> simp

@[simp] theorem admitEntry_keep (s : State) (p t : Nat) (k : Task) :
    (admitEntry s p t k).pending = s.pending ∧ (admitEntry s p t k).mem = s.mem := by
  simp [admitEntry]

@[simp] theorem closeBatch_keep (s : State) (p : Nat) :
    (closeBatch s p).pending = s.pending ∧ (s.mem.wf = true → (closeBatch s p).mem.wf = true) := by
  unfold closeBatch; (try generalize regionOf _ _ = R); (try dsimp only); (repeat' split) <;> (constructor; simp; intro hw; simp [hw])

@[simp] theorem admitStreams_keep (s : State) (p t base : Nat) (k : Task) :
    (admitStreams s p t base k).pending = s.pending
      ∧ (s.mem.wf = true → (admitStreams s p t base k).mem.wf = true) := by
  unfold admitStreams; dsimp only
  refine ⟨by simp, fun hw => ?_⟩
  simp only [dcArmNext_keep]
  exact (closeBatch_keep _ _).2 (by simpa using hw)

@[simp] theorem admitCopies_keep (s : State) (p t st : Nat) (d : WinDesc) (k : Task) (ins outs : List (List W64)) :
    (admitCopies s p t st d k ins outs).pending = s.pending
      ∧ (s.mem.wf = true → (admitCopies s p t st d k ins outs).mem.wf = true) := by
  unfold admitCopies; dsimp only
  generalize linkCopies (bits s.dc.taskmem 12 36 * 4096 + 256 * t) 0
    ((List.range ins.length).map fun j => fillIntake s d j (ins.getD j [])) ++
      linkCopies (bits s.dc.taskmem 12 36 * 4096 + 256 * t + 128) 0 outs = l
  have h : (if st ≠ 0 then (st, s) else writeCopies s l).2.pending = s.pending ∧
      (s.mem.wf = true → (if st ≠ 0 then (st, s) else writeCopies s l).2.mem.wf = true) := by
    split
    · exact ⟨rfl, id⟩
    · exact writeCopies_keep s l
  generalize (if st ≠ 0 then (st, s) else writeCopies s l) = q at h ⊢
  split
  · exact ⟨by simp [h.1], fun hw => (closeBatch_keep _ _).2 (by simpa using h.2 hw)⟩
  · exact ⟨by simp [h.1], fun hw => (admitStreams_keep _ _ _ _ _).2 (by simpa using h.2 hw)⟩

def AdmKeeps (s : State) : Admission → Prop
  | .wait => True
  | .held _ => True
  | .rejected _ t => t.pending = s.pending ∧ (s.mem.wf = true → t.mem.wf = true)
  | .admitted t => t.pending = s.pending ∧ (s.mem.wf = true → t.mem.wf = true)

theorem admitTask_keep (s : State) (p n : Nat) (d : WinDesc) (re : Nat) : AdmKeeps s (admitTask s p n d re) := by
  unfold admitTask
  cases freeTask s with
  | none => trivial
  | some t =>
    dsimp only
    cases hostHeld s p t with
    | some h => trivial
    | none =>
      dsimp only
      split
      · trivial
      · split
        · exact ⟨by simp, fun hw => by simpa using hw⟩
        · exact ⟨by simp, fun hw => (admitCopies_keep _ _ _ _ _ _ _ _).2 (by simpa using hw)⟩

@[simp] theorem takeUpdates_keep (s : State) :
    (takeUpdates s).pending = s.pending ∧ (takeUpdates s).mem = s.mem := by
  simp [takeUpdates]

@[simp] theorem admitNoted_keep (s : State) (p : Nat) :
    (admitNoted s p).pending = s.pending ∧ (admitNoted s p).mem = s.mem := by
  simp [admitNoted]

@[simp] theorem windowDrop_keep (s : State) (n count : Nat) :
    (windowDrop s n count).pending = s.pending ∧ (windowDrop s n count).mem = s.mem := by
  simp [windowDrop]

@[simp] theorem windowDone_keep (s : State) (n count st : Nat) :
    (windowDone s n count st).pending = s.pending ∧ (windowDone s n count st).mem = s.mem := by
  simp [windowDone]

@[simp] theorem reissueDone_keep (s : State) (p n : Nat) (d : WinDesc) (st : Nat) :
    (reissueDone s p n d st).pending = s.pending ∧ (reissueDone s p n d st).mem = s.mem := by
  simp [reissueDone]

@[simp] theorem dcWaits_keep (s : State) (a : Nat) :
    (dcWaits s a).pending = s.pending ∧ (dcWaits s a).mem = s.mem := by
  unfold dcWaits; (try generalize regionOf _ _ = R); (repeat' split) <;> simp

@[simp] theorem execTaskAdmit_keep (p : PipeIx) (s : State) :
    OutWf s (execTaskAdmit p s) := by
  unfold execTaskAdmit
  apply clocked_wf
  dsimp only
  have h0 := admitNoted_keep s p.val
  generalize admitNoted s p.val = u at h0 ⊢
  split
  · split
    · rename_i n d k rest _
      have h := admitTask_keep (takeUpdates u) p.val n d k
      cases ha : admitTask (takeUpdates u) p.val n d k with
      | wait => exact ⟨by simp [h0.1], fun hw => by simpa [h0.2] using hw⟩
      | held a => exact ⟨by simp [h0.1], fun hw => by simpa [h0.2] using hw⟩
      | rejected st t =>
        rw [ha] at h
        exact ⟨by simp [h.1, h0.1], fun hw => by simpa using h.2 (by simpa [h0.2] using hw)⟩
      | admitted t =>
        rw [ha] at h
        exact ⟨by simp [h.1, h0.1], fun hw => by simpa using h.2 (by simpa [h0.2] using hw)⟩
    · split
      · exact ⟨by simp [h0.1], fun hw => by simpa [h0.2] using hw⟩
      · rename_i c rs rl _
        split
        · exact ⟨by simp [h0.1], fun hw => by simpa [h0.2] using hw⟩
        · have h := admitTask_keep (takeUpdates u) p.val c.2.1 c.2.2 0
          cases ha : admitTask (takeUpdates u) p.val c.2.1 c.2.2 0 with
          | wait => exact ⟨by simp [h0.1], fun hw => by simpa [h0.2] using hw⟩
          | held a => exact ⟨by simp [h0.1], fun hw => by simpa [h0.2] using hw⟩
          | rejected st t =>
            rw [ha] at h
            exact ⟨by simp [h.1, h0.1], fun hw => by simpa using h.2 (by simpa [h0.2] using hw)⟩
          | admitted t =>
            rw [ha] at h
            exact ⟨by simp [h.1, h0.1], fun hw => by simpa using h.2 (by simpa [h0.2] using hw)⟩
  · exact ⟨h0.1, fun hw => by rw [h0.2]; exact hw⟩

@[simp] theorem dcMarker_keep (s : State) (i : Nat) (wd : Word) :
    (dcMarker s i wd).pending = s.pending ∧ (dcMarker s i wd).mem = s.mem := by
  unfold dcMarker; (try generalize regionOf _ _ = R); (repeat' split) <;> simp

@[simp] theorem execMarkerReport_keep (p : PumpIx) (c : StreamIx) (wd : Word) (s : State) :
    OutKeeps s (execMarkerReport p c wd s) := by
  unfold execMarkerReport; apply clocked_keeps; simp [OutKeeps]

@[simp] theorem dcBarrier_keep (s : State) (p b : Nat) :
    (dcBarrier s p b).pending = s.pending ∧ (dcBarrier s p b).mem = s.mem := by
  simp [dcBarrier]

@[simp] theorem execCompletionRecordWrite_keep (n : Fin 256) (s : State) :
    OutWf s (execCompletionRecordWrite n s) := by
  unfold execCompletionRecordWrite; apply clocked_wf; (try dsimp only); (repeat' split) <;> (simp [OutWf]; (try (intro hw; simp [hw])))

@[simp] theorem ringSignal_keep (s : State) (n : Nat) :
    (ringSignal s n).pending = s.pending ∧ (ringSignal s n).mem = s.mem := by
  simp [ringSignal]

@[simp] theorem taskGone_keep (s : State) (r : DoneRec) :
    (taskGone s r).pending = s.pending ∧ (taskGone s r).mem = s.mem := by
  unfold taskGone; split <;> simp

@[simp] theorem execCompletionRecordWritten_keep (n : Fin 256) (s : State) :
    OutKeeps s (execCompletionRecordWritten n s) := by
  unfold execCompletionRecordWritten; apply clocked_keeps; (try dsimp only); (repeat' split) <;> simp [OutKeeps]

@[simp] theorem execCoalesceTimeout_keep (n : Fin 256) (s : State) :
    OutKeeps s (execCoalesceTimeout n s) := by
  unfold execCoalesceTimeout; apply clocked_keeps; (try dsimp only); (repeat' split) <;> simp [OutKeeps]

@[simp] theorem execHiIntMaskWrite_keep (v : W64) (s : State) :
    OutKeeps s (execHiIntMaskWrite v s) := by
  unfold execHiIntMaskWrite; apply clocked_keeps; simp [OutKeeps]

@[simp] theorem srcRefuse_keep (s : State) :
    (srcRefuse s).pending = s.pending ∧ (srcRefuse s).mem = s.mem := by
  simp [srcRefuse]

@[simp] theorem srcWrite_keep (s : State) (i : Nat) (v : W64) :
    (srcWrite s i v).pending = s.pending ∧ (srcWrite s i v).mem = s.mem := by
  unfold srcWrite; split <;> simp

@[simp] theorem execSourceMap_keep (i : Fin 4096) (v : W64) (s : State) :
    OutKeeps s (execSourceMap i v s) := by
  unfold execSourceMap; apply clocked_keeps; simp [OutKeeps]

@[simp] theorem execSourceUpdate_keep (i : Fin 4096) (v : W64) (s : State) :
    OutKeeps s (execSourceUpdate i v s) := by
  unfold execSourceUpdate; apply clocked_keeps; simp [OutKeeps]

@[simp] theorem execSourceDrain_keep (i : Fin 4096) (s : State) :
    OutKeeps s (execSourceDrain i s) := by
  unfold execSourceDrain; apply clocked_keeps; simp [OutKeeps]

@[simp] theorem execSourceFreed_keep (i : Fin 4096) (s : State) :
    OutKeeps s (execSourceFreed i s) := by
  unfold execSourceFreed; apply clocked_keeps; (try dsimp only); (repeat' split) <;> simp [OutKeeps]

@[simp] theorem ringCfgWrite_keep (s : State) (n : Nat) (v : W32) :
    (ringCfgWrite s n v).pending = s.pending ∧ (ringCfgWrite s n v).mem = s.mem := by
  simp [ringCfgWrite]

@[simp] theorem execRingEnable_keep (n : Fin 256) (cfg : W32) (s : State) :
    OutKeeps s (execRingEnable n cfg s) := by
  unfold execRingEnable; apply clocked_keeps; simp [OutKeeps]

@[simp] theorem execRingDisable_keep (n : Fin 256) (cfg : W32) (s : State) :
    OutKeeps s (execRingDisable n cfg s) := by
  unfold execRingDisable; apply clocked_keeps; simp [OutKeeps]

@[simp] theorem pipeControl_keep (s : State) (p : Nat) (admitting throughput : Bool) :
    (pipeControl s p admitting throughput).pending = s.pending
      ∧ (s.mem.wf = true → (pipeControl s p admitting throughput).mem.wf = true) := by
  unfold pipeControl
  exact ⟨by simp, fun hw => (closeBatch_keep _ _).2 (by simpa using hw)⟩

@[simp] theorem execAdmitControl_keep (p : PipeIx) (admitting throughput : Bool) (s : State) :
    OutWf s (execAdmitControl p admitting throughput s) := by
  unfold execAdmitControl; apply clocked_wf; (simp [OutWf]; (try (intro hw; simp [hw])))

/-! ### WellOps -/

@[simp] theorem ctxWrite_keep (s : State) (w x : Nat) (f : Well → Well) :
    (ctxWrite s w x f).pending = s.pending ∧ (ctxWrite s w x f).mem = s.mem := by
  unfold ctxWrite; (try generalize regionOf _ _ = R); (try dsimp only); split <;> simp

@[simp] theorem swWrite_keep (s : State) (w x f i half : Nat) (v : W64) :
    (swWrite s w x f i half v).pending = s.pending ∧ (swWrite s w x f i half v).mem = s.mem := by
  simp [swWrite]

@[simp] theorem switchWrite_keep (s : State) (w x f : Nat) (v : W64) :
    (switchWrite s w x f v).pending = s.pending ∧ (switchWrite s w x f v).mem = s.mem := by
  simp [switchWrite]

@[simp] theorem progWrite_keep (s : State) (w i x n : Nat) (v : W64) :
    (progWrite s w i x n v).pending = s.pending ∧ (progWrite s w i x n v).mem = s.mem := by
  simp [progWrite]

@[simp] theorem execSmwWrite_keep (w : WellIx) (a : SmwTarget) (v : W64) (s : State) :
    OutKeeps s (execSmwWrite w a v s) := by
  unfold execSmwWrite; apply clocked_keeps; (try dsimp only); (repeat' split) <;> simp [OutKeeps]

@[simp] theorem commitGo_keep (s : State) (w x : Nat) :
    (commitGo s w x).pending = s.pending ∧ (commitGo s w x).mem = s.mem := by
  unfold commitGo; (try generalize regionOf _ _ = R); (try dsimp only); (repeat' split) <;> simp

@[simp] theorem execSfCommitGo_keep (w : WellIx) (ctx : BitVec 2) (s : State) :
    OutKeeps s (execSfCommitGo w ctx s) := by
  unfold execSfCommitGo; apply clocked_keeps; simp [OutKeeps]

@[simp] theorem commitEnd_keep (s : State) (w x : Nat) :
    (commitEnd s w x).pending = s.pending ∧ (commitEnd s w x).mem = s.mem := by
  simp [commitEnd]

@[simp] theorem execCommitComplete_keep (w : WellIx) (s : State) :
    OutKeeps s (execCommitComplete w s) := by
  unfold execCommitComplete; apply clocked_keeps; (repeat' split) <;> simp [OutKeeps]

@[simp] theorem unloadGo_keep (s : State) (w x : Nat) :
    (unloadGo s w x).pending = s.pending ∧ (unloadGo s w x).mem = s.mem := by
  simp [unloadGo]

@[simp] theorem execSfCommitUnload_keep (w : WellIx) (ctx : BitVec 2) (s : State) :
    OutKeeps s (execSfCommitUnload w ctx s) := by
  unfold execSfCommitUnload; apply clocked_keeps; simp [OutKeeps]

@[simp] theorem unloadEnd_keep (s : State) (w x : Nat) :
    (unloadEnd s w x).pending = s.pending ∧ (unloadEnd s w x).mem = s.mem := by
  simp [unloadEnd]

@[simp] theorem execUnloadComplete_keep (w : WellIx) (s : State) :
    OutKeeps s (execUnloadComplete w s) := by
  unfold execUnloadComplete; apply clocked_keeps; (repeat' split) <;> simp [OutKeeps]

@[simp] theorem capTake_keep (s : State) (w cause : Nat) :
    (capTake s w cause).pending = s.pending ∧ (capTake s w cause).mem = s.mem := by
  simp [capTake]

@[simp] theorem captureWrite_keep (s : State) (w : Nat) (v : W32) :
    (captureWrite s w v).pending = s.pending ∧ (captureWrite s w v).mem = s.mem := by
  simp [captureWrite]

@[simp] theorem execSfCaptureArm_keep (w : WellIx) (at_ : W64) (onStall : Bool) (s : State) :
    OutKeeps s (execSfCaptureArm w at_ onStall s) := by
  unfold execSfCaptureArm; apply clocked_keeps; (try dsimp only); simp [OutKeeps]

@[simp] theorem execSfCaptureNow_keep (w : WellIx) (s : State) :
    OutKeeps s (execSfCaptureNow w s) := by
  unfold execSfCaptureNow; apply clocked_keeps; (try dsimp only); simp [OutKeeps]

@[simp] theorem captureDue_keep (s : State) (w : Nat) :
    (captureDue s w).pending = s.pending ∧ (captureDue s w).mem = s.mem := by
  simp [captureDue]

@[simp] theorem execCaptureTaken_keep (w : WellIx) (s : State) :
    OutKeeps s (execCaptureTaken w s) := by
  unfold execCaptureTaken; apply clocked_keeps; simp [OutKeeps]

@[simp] theorem wellStart_keep (s : State) (w : Nat) :
    (wellStart s w).pending = s.pending ∧ (wellStart s w).mem = s.mem := by
  simp [wellStart]

@[simp] theorem wellStop_keep (s : State) (w : Nat) :
    (wellStop s w).pending = s.pending ∧ (s.mem.wf = true → (wellStop s w).mem.wf = true) := by
  unfold wellStop; dsimp only
  split
  · generalize List.foldl _ _ _ = y
    exact ⟨by simp, fun hw => (retryAll_keep _ _).2 (by simpa using hw)⟩
  · exact ⟨rfl, id⟩

@[simp] theorem sfCtrlWrite_keep (s : State) (w : Nat) (v : W32) :
    (sfCtrlWrite s w v).pending = s.pending
      ∧ (s.mem.wf = true → (sfCtrlWrite s w v).mem.wf = true) := by
  unfold sfCtrlWrite; dsimp only
  split
  · exact ⟨by simp, fun hw => (wellStop_keep _ _).2 (by simpa using hw)⟩
  · split <;> exact ⟨by simp, fun hw => by simpa using hw⟩

@[simp] theorem execSfStart_keep (w : WellIx) (ctx : BitVec 2) (s : State) :
    OutWf s (execSfStart w ctx s) := by
  unfold execSfStart; apply clocked_wf; (repeat' split) <;> (simp [OutWf]; (try (intro hw; simp [hw])))

@[simp] theorem execSfStop_keep (w : WellIx) (ctx : BitVec 2) (start : Bool) (s : State) :
    OutWf s (execSfStop w ctx start s) := by
  unfold execSfStop; apply clocked_wf; (repeat' split) <;> (simp [OutWf]; (try (intro hw; simp [hw])))

@[simp] theorem barWrite_keep (s : State) (w b : Nat) (v : W32) :
    (barWrite s w b v).pending = s.pending ∧ (barWrite s w b v).mem = s.mem := by
  simp [barWrite]

@[simp] theorem ctlWrite_keep (s : State) (w off : Nat) (v : W64) :
    (ctlWrite s w off v).pending = s.pending ∧ (s.mem.wf = true → (ctlWrite s w off v).mem.wf = true) := by
  unfold ctlWrite; (try generalize regionOf _ _ = R); (try dsimp only); (repeat' split) <;> (constructor; simp; intro hw; simp [hw])

@[simp] theorem sliceWrite_keep (s : State) (w i off : Nat) (v : W64) :
    (sliceWrite s w i off v).pending = s.pending ∧ (sliceWrite s w i off v).mem = s.mem := by
  unfold sliceWrite; (try generalize regionOf _ _ = R); (try dsimp only); (repeat' split) <;> simp

@[simp] theorem sqWrite_keep (s : State) (w e off : Nat) (v : W64) :
    (sqWrite s w e off v).pending = s.pending ∧ (sqWrite s w e off v).mem = s.mem := by
  unfold sqWrite; split <;> simp

@[simp] theorem windowWrite_keep (s : State) (w off : Nat) (v : W64) :
    (windowWrite s w off v).pending = s.pending ∧ (windowWrite s w off v).mem = s.mem := by
  simp [windowWrite]

@[simp] theorem wellWrite_keep (s : State) (w off : Nat) (v : W64) :
    (wellWrite s w off v).pending = s.pending ∧ (s.mem.wf = true → (wellWrite s w off v).mem.wf = true) := by
  constructor; simp [wellWrite]; intro hw; simp [wellWrite, hw]

end Sys2Proof.Machine
end

