-- ==== Sys2Proof/Laws/KeepAccess.lean ====
section
/-! SUPPORT. What each shared operation and each command does to the command queue and to the
memory: the queue is left alone; memory is unchanged, or keeps its canonical form. -/

namespace Sys2Proof.Machine

/-! ### Harts -/

@[simp] theorem hartRun_keep (s : State) (c n : Nat) :
    (hartRun s c n).pending = s.pending ∧ (hartRun s c n).mem = s.mem := by
  simp [hartRun]

@[simp] theorem hartHalt_keep (s : State) (c n : Nat) :
    (hartHalt s c n).pending = s.pending ∧ (hartHalt s c n).mem = s.mem := by
  simp [hartHalt]

@[simp] theorem execScRun_keep (c : Fin 4) (n : Fin 8) (s : State) :
    OutKeeps s (execScRun c n s) := by
  unfold execScRun; apply clocked_keeps; simp [OutKeeps]

@[simp] theorem execScHalt_keep (c : Fin 4) (n : Fin 8) (s : State) :
    OutKeeps s (execScHalt c n s) := by
  unfold execScHalt; apply clocked_keeps; simp [OutKeeps]

@[simp] theorem hartLoaded_keep (s : State) (i rd size : Nat) (uns : Bool) (v : Nat) :
    (hartLoaded s i rd size uns v).pending = s.pending ∧ (hartLoaded s i rd size uns v).mem = s.mem := by
  simp [hartLoaded]

@[simp] theorem hartStored_keep (s : State) (i : Nat) :
    (hartStored s i).pending = s.pending ∧ (hartStored s i).mem = s.mem := by
  simp [hartStored]

@[simp] theorem accessFault_keep (s : State) (i : Nat) (store : Bool) (addr : Nat) :
    (accessFault s i store addr).pending = s.pending ∧ (accessFault s i store addr).mem = s.mem := by
  simp [accessFault]

@[simp] theorem misaligned_keep (s : State) (i : Nat) (store : Bool) (addr : Nat) :
    (misaligned s i store addr).pending = s.pending ∧ (misaligned s i store addr).mem = s.mem := by
  simp [misaligned]

@[simp] theorem hartAnswer_keep (s : State) (i rd size : Nat) (uns wr : Bool) (addr : Nat) (data : Line) (failed : Bool) :
    (hartAnswer s i rd size uns wr addr data failed).pending = s.pending ∧ (hartAnswer s i rd size uns wr addr data failed).mem = s.mem := by
  simp [hartAnswer]

@[simp] theorem xcsqFault_keep (s : State) (i : Nat) (rs1 : W64) :
    (xcsqFault s i rs1).pending = s.pending ∧ (xcsqFault s i rs1).mem = s.mem := by
  simp [xcsqFault]

@[simp] theorem xcsqDone_keep (s : State) (i : Nat) (try_ : Bool) (rd : Nat) :
    (xcsqDone s i try_ rd).pending = s.pending ∧ (xcsqDone s i try_ rd).mem = s.mem := by
  simp [xcsqDone]

@[simp] theorem xcsqHold_keep (s : State) (i : Nat) (try_ : Bool) (rd : Nat) :
    (xcsqHold s i try_ rd).pending = s.pending ∧ (xcsqHold s i try_ rd).mem = s.mem := by
  simp [xcsqHold]

@[simp] theorem execCsqWait_keep (c : Fin 4) (n : Fin 8) (try_ : Bool) (rd : Fin 32) (rs1 rs2 : W64) (s : State) :
    OutKeeps s (execCsqWait c n try_ rd rs1 rs2 s) := by
  unfold execCsqWait; apply clocked_keeps; (try dsimp only); (repeat' split) <;> simp [OutKeeps]

@[simp] theorem execCsqSig_keep (c : Fin 4) (n : Fin 8) (rs1 rs2 : W64) (s : State) :
    OutKeeps s (execCsqSig c n rs1 rs2 s) := by
  unfold execCsqSig; apply clocked_keeps; (try dsimp only); (repeat' split) <;> simp [OutKeeps]

@[simp] theorem execCsqPeek_keep (c : Fin 4) (n : Fin 8) (rd : Fin 32) (rs1 : W64) (s : State) :
    OutKeeps s (execCsqPeek c n rd rs1 s) := by
  unfold execCsqPeek; apply clocked_keeps; (try dsimp only); (repeat' split) <;> simp [OutKeeps]

@[simp] theorem execCsqPush_keep (c : Fin 4) (n : Fin 8) (try_ : Bool) (rd : Fin 32) (rs1 : W64) (vs2 : Fin 32) (s : State) :
    OutWf s (execCsqPush c n try_ rd rs1 vs2 s) := by
  unfold execCsqPush; apply clocked_wf; (try dsimp only); (repeat' split) <;> (simp [OutWf]; (try (intro hw; simp [hw])))

@[simp] theorem execCsqPop_keep (c : Fin 4) (n : Fin 8) (try_ : Bool) (vd : Fin 32) (rs1 : W64) (s : State) :
    OutKeeps s (execCsqPop c n try_ vd rs1 s) := by
  unfold execCsqPop; apply clocked_keeps; (try dsimp only); (repeat' split) <;> simp [OutKeeps]

@[simp] theorem execCsqBar_keep (c : Fin 4) (n : Fin 8) (rs1 : W64) (s : State) :
    OutKeeps s (execCsqBar c n rs1 s) := by
  unfold execCsqBar; apply clocked_keeps; (try dsimp only); (repeat' split) <;> simp [OutKeeps]

@[simp] theorem barComplete_keep (s : State) (p b : Nat) :
    (barComplete s p b).pending = s.pending ∧ (barComplete s p b).mem = s.mem := by
  simp [barComplete]

@[simp] theorem execBarrierComplete_keep (p : PipeIx) (b : Fin 16) (s : State) :
    OutKeeps s (execBarrierComplete p b s) := by
  unfold execBarrierComplete; apply clocked_keeps; simp [OutKeeps]

/-! ### Mailbox -/

@[simp] theorem State.setMbox_keep (s : State) (k : Nat) (b : Mbox) :
    (State.setMbox s k b).pending = s.pending ∧ (State.setMbox s k b).mem = s.mem := by
  simp [State.setMbox]

@[simp] theorem setMbQueue_keep (s : State) (q : List MbReq) :
    (setMbQueue s q).pending = s.pending ∧ (setMbQueue s q).mem = s.mem := by
  simp [setMbQueue]

@[simp] theorem mbDoor_keep (s : State) (k : Nat) :
    (mbDoor s k).pending = s.pending ∧ (mbDoor s k).mem = s.mem := by
  unfold mbDoor; (try generalize regionOf _ _ = R); (try dsimp only); (repeat' split) <;> simp

@[simp] theorem mbRstat_keep (s : State) (k : Nat) :
    (mbRstat s k).2.pending = s.pending ∧ (mbRstat s k).2.mem = s.mem := by
  unfold mbRstat; (try generalize regionOf _ _ = R); (try dsimp only); split <;> simp

@[simp] theorem execMbRstatRead_keep (ch : MbChan) (s : State) :
    OutKeeps s (execMbRstatRead ch s) := by
  unfold execMbRstatRead; (try (first | apply clocked_keeps | apply powered_keeps)); (try dsimp only); (repeat' split) <;> simp [OutKeeps]

@[simp] theorem mbAnswer_keep (s : State) (q : MbReq) (status : Nat) (payload : List W64) :
    (mbAnswer s q status payload).pending = s.pending ∧ (mbAnswer s q status payload).mem = s.mem := by
  simp [mbAnswer]

@[simp] theorem attestAbort_keep (s : State) :
    (attestAbort s).pending = s.pending ∧ (attestAbort s).mem = s.mem := by
  simp [attestAbort]

@[simp] theorem sstMpReset_keep (s : State) :
    (sstMpReset s).pending = s.pending ∧ (sstMpReset s).mem = s.mem := by
  unfold sstMpReset; split <;> simp

@[simp] theorem mpReset_keep (s : State) :
    (mpReset s).pending = s.pending ∧ (mpReset s).mem = s.mem := by
  simp [mpReset]

@[simp] theorem hiReset_keep (s : State) (v : W32) :
    (hiReset s v).pending = s.pending ∧ (hiReset s v).mem = s.mem := by
  simp [hiReset]

@[simp] theorem execHiResetMp_keep (key : BitVec 16) (s : State) :
    OutKeeps s (execHiResetMp key s) := by
  unfold execHiResetMp; simp [OutKeeps]

/-! ### Views -/

/-! ### Access -/

theorem bucketWrite_keep (s : State) (a : Nat) (l : Line) (mask : BitVec 64) (rr : _) :
    (bucketWrite s a l mask) = some rr → rr.pending = s.pending ∧ (s.mem.wf = true → rr.mem.wf = true) := by
  intro h; unfold bucketWrite at h; (try generalize regionOf _ _ = R at h); (try dsimp only at h); (repeat' split at h) <;> (first | contradiction | (injection h with h; subst h; simp_all) | simp_all)

@[simp] theorem tagPut_keep (s : State) (a v : Nat) :
    (tagPut s a v).pending = s.pending ∧ (s.mem.wf = true → (tagPut s a v).mem.wf = true) := by
  unfold tagPut; dsimp only
  split
  · exact ⟨by simp, fun hw => by simpa using hw⟩
  · cases h : bucketWrite s (a / 64 * 64) (BitVec.ofNat 512 (v <<< (8 * (a % 64))))
      (BitVec.ofNat 64 (0xFFFFFFFF <<< (a % 64))) with
    | none => exact ⟨rfl, id⟩
    | some t => exact bucketWrite_keep _ _ _ _ _ h

@[simp] theorem execTagRecordWrite_keep (s : State) :
    OutWf s (execTagRecordWrite s) := by
  unfold execTagRecordWrite; apply clocked_wf; (try dsimp only); (repeat' split) <;> (simp [OutWf]; (try (intro hw; simp [hw])))

@[simp] theorem memPut_keep (s : State) (a : Nat) (bs : List Byte) :
    (memPut s a bs).pending = s.pending ∧ (s.mem.wf = true → (memPut s a bs).mem.wf = true) := by
  unfold memPut
  apply foldl_wf
  intro t j
  dsimp only
  generalize hb : bucketWrite t _ _ _ = o
  cases o with
  | none => exact ⟨rfl, id⟩
  | some u => exact bucketWrite_keep _ _ _ _ _ hb

@[simp] theorem linesGet_keep (s : State) (b : Nat) (k0 : Nat) :
    (linesGet s b k0).2.2.pending = s.pending ∧ (linesGet s b k0).2.2.mem = s.mem := by
  induction k0 generalizing s b with
  | zero => unfold linesGet; exact ⟨rfl, rfl⟩
  | succ n ih =>
    rw [linesGet]
    generalize hl : lineRead s b = o
    cases o with
    | none => exact ⟨rfl, rfl⟩
    | some x =>
      have h := lineRead_keep _ _ _ hl
      exact ⟨(ih _ _).1.trans h.1, (ih _ _).2.trans h.2⟩

@[simp] theorem memGet_keep (s : State) (a n : Nat) :
    (memGet s a n).2.2.pending = s.pending ∧ (memGet s a n).2.2.mem = s.mem := by
  simp [memGet]

@[simp] theorem dpIntrude_keep (s : State) (n : Nat) :
    (dpIntrude s n).pending = s.pending ∧ (dpIntrude s n).mem = s.mem := by
  simp [dpIntrude]

@[simp] theorem dpTake_keep (s : State) (n : Nat) (bs : List Byte) (k0 : Nat) :
    (dpTake s n bs k0).pending = s.pending ∧ (dpTake s n bs k0).mem = s.mem := by
  induction k0 generalizing s n bs with | zero => simp [dpTake] | succ k ih => (unfold dpTake; (try dsimp only); (repeat' split) <;> simp [ih])

@[simp] theorem dpWrite_keep (s : State) (n : Nat) (p : Path) (bs : List Byte) :
    (dpWrite s n p bs).pending = s.pending ∧ (dpWrite s n p bs).mem = s.mem := by
  simp [dpWrite]

@[simp] theorem dpFetch_keep (s : State) (n len : Nat) :
    (dpFetch s n len).2.2.pending = s.pending ∧ (dpFetch s n len).2.2.mem = s.mem := by
  unfold dpFetch; (try generalize regionOf _ _ = R); (try dsimp only); (repeat' split) <;> simp

@[simp] theorem dpRead_keep (s : State) (n : Nat) (p : Path) (len : Nat) :
    (dpRead s n p len).2.2.pending = s.pending ∧ (dpRead s n p len).2.2.mem = s.mem := by
  unfold dpRead; (try generalize regionOf _ _ = R); (try dsimp only); (repeat' split) <;> simp

@[simp] theorem dpAddrWrite_keep (s : State) (n : Nat) (p : Path) (a : Nat) :
    (dpAddrWrite s n p a).pending = s.pending ∧ (dpAddrWrite s n p a).mem = s.mem := by
  simp [dpAddrWrite]

@[simp] theorem dpCtrlWrite_keep (s : State) (n : Nat) (p : Path) (dir : Bool) :
    (dpCtrlWrite s n p dir).pending = s.pending ∧ (dpCtrlWrite s n p dir).mem = s.mem := by
  simp [dpCtrlWrite]

@[simp] theorem dpLock_keep (s : State) (n : Nat) (p : Path) (owner : Nat) (release : Bool) :
    (dpLock s n p owner release).pending = s.pending ∧ (dpLock s n p owner release).mem = s.mem := by
  simp [dpLock]

@[simp] theorem mbWrite_keep (s : State) (k o : Nat) (v : W64) :
    (mbWrite s k o v).pending = s.pending ∧ (mbWrite s k o v).mem = s.mem := by
  simp [mbWrite]

@[simp] theorem hiWrite_keep (s : State) (off : Nat) (v : W64) :
    (hiWrite s off v).pending = s.pending ∧ (hiWrite s off v).mem = s.mem := by
  unfold hiWrite; (try generalize regionOf _ _ = R); (try dsimp only); (repeat' split) <;> simp

@[simp] theorem pipeWrite_keep (s : State) (p o : Nat) (v : W64) :
    (pipeWrite s p o v).pending = s.pending ∧ (s.mem.wf = true → (pipeWrite s p o v).mem.wf = true) := by
  unfold pipeWrite; (try generalize regionOf _ _ = R); (try dsimp only); (repeat' split) <;> (constructor; simp; intro hw; simp [hw])

@[simp] theorem ringWrite_keep (s : State) (n o : Nat) (v : W64) :
    (ringWrite s n o v).pending = s.pending ∧ (ringWrite s n o v).mem = s.mem := by
  unfold ringWrite; (try generalize regionOf _ _ = R); (try dsimp only); (repeat' split) <;> simp

@[simp] theorem dcWrite_keep (s : State) (off : Nat) (v : W64) :
    (dcWrite s off v).pending = s.pending ∧ (s.mem.wf = true → (dcWrite s off v).mem.wf = true) := by
  constructor; simp [dcWrite]; intro hw; simp [dcWrite, hw]

@[simp] theorem fiWrite_keep (s : State) (off : Nat) (v : W64) :
    (fiWrite s off v).pending = s.pending ∧ (fiWrite s off v).mem = s.mem := by
  simp [fiWrite]

@[simp] theorem pwrWrite_keep (s : State) (off : Nat) (v : W64) :
    (pwrWrite s off v).pending = s.pending ∧ (pwrWrite s off v).mem = s.mem := by
  unfold pwrWrite; split <;> simp

@[simp] theorem tbWrite_keep (s : State) (off : Nat) (v : W64) :
    (tbWrite s off v).pending = s.pending ∧ (tbWrite s off v).mem = s.mem := by
  unfold tbWrite; split <;> simp

@[simp] theorem secWrite_keep (s : State) (p : Path) (off : Nat) (v : W64) :
    (secWrite s p off v).pending = s.pending ∧ (secWrite s p off v).mem = s.mem := by
  unfold secWrite; split <;> simp

@[simp] theorem respWrite_keep (s : State) (o : Nat) (bs : List Byte) :
    (respWrite s o bs).pending = s.pending ∧ (respWrite s o bs).mem = s.mem := by
  simp [respWrite]

@[simp] theorem serialWrite_keep (s : State) (j o : Nat) (v : W64) :
    (serialWrite s j o v).pending = s.pending ∧ (serialWrite s j o v).mem = s.mem := by
  unfold serialWrite; split <;> simp

@[simp] theorem rimWrite_keep (s : State) (off : Nat) (v : W64) :
    (rimWrite s off v).pending = s.pending ∧ (rimWrite s off v).mem = s.mem := by
  unfold rimWrite; split <;> simp

@[simp] theorem pmuWrite_keep (s : State) (off : Nat) (v : W64) :
    (pmuWrite s off v).pending = s.pending ∧ (pmuWrite s off v).mem = s.mem := by
  simp [pmuWrite]

@[simp] theorem lkWrite_keep (s : State) (off : Nat) (v : W64) :
    (lkWrite s off v).pending = s.pending ∧ (lkWrite s off v).mem = s.mem := by
  simp [lkWrite]

@[simp] theorem pmpWrite_keep (s : State) (off : Nat) (v : W64) :
    (pmpWrite s off v).pending = s.pending ∧ (pmpWrite s off v).mem = s.mem := by
  unfold pmpWrite; (try generalize regionOf _ _ = R); (try dsimp only); (repeat' split) <;> simp

@[simp] theorem scWrite_keep (s : State) (off : Nat) (v : W64) :
    (scWrite s off v).pending = s.pending ∧ (scWrite s off v).mem = s.mem := by
  unfold scWrite; (try generalize regionOf _ _ = R); (try dsimp only); (repeat' split) <;> simp

@[simp] theorem dpRegWrite_keep (s : State) (p : Path) (off : Nat) (v : W64) :
    (dpRegWrite s p off v).pending = s.pending ∧ (dpRegWrite s p off v).mem = s.mem := by
  unfold dpRegWrite; split <;> simp

@[simp] theorem mcWrite_keep (s : State) (off : Nat) (v : W64) :
    (mcWrite s off v).pending = s.pending ∧ (mcWrite s off v).mem = s.mem := by
  simp [mcWrite]

@[simp] theorem regPut_keep (s : State) (p : Path) (off : Nat) (v : W64) :
    (regPut s p off v).pending = s.pending ∧ (s.mem.wf = true → (regPut s p off v).mem.wf = true) := by
  constructor; simp [regPut]; intro hw; simp [regPut, hw]

@[simp] theorem regWrite_keep (s : State) (p : Path) (off : Nat) (wide : Bool) (v : W64) :
    (regWrite s p off wide v).pending = s.pending ∧ (s.mem.wf = true → (regWrite s p off wide v).mem.wf = true) := by
  constructor; simp [regWrite]; intro hw; simp [regWrite, hw]

@[simp] theorem regPop_keep (s : State) (off : Nat) :
    (regPop s off).2.pending = s.pending ∧ (regPop s off).2.mem = s.mem := by
  unfold regPop; (try generalize regionOf _ _ = R); (try dsimp only); (repeat' split) <;> simp

@[simp] theorem regRead_keep (s : State) (p : Path) (off : Nat) (wide : Bool) :
    (regRead s p off wide).2.pending = s.pending ∧ (regRead s p off wide).2.mem = s.mem := by
  unfold regRead; (try generalize regionOf _ _ = R); (try dsimp only); (repeat' split) <;> simp

@[simp] theorem pathError_keep (s : State) (p : Path) (kind addr : Nat) :
    (pathError s p kind addr).pending = s.pending ∧ (pathError s p kind addr).mem = s.mem := by
  unfold pathError; split <;> simp

@[simp] theorem dpBucket_keep (s : State) (n a : Nat) (bs : List Byte) :
    (dpBucket s n a bs).pending = s.pending ∧ (s.mem.wf = true → (dpBucket s n a bs).mem.wf = true) := by
  unfold dpBucket; (try generalize regionOf _ _ = R); (try dsimp only); (repeat' split) <;> (try have h0 := bucketWrite_keep _ _ _ _ _ ‹bucketWrite _ _ _ _ = some _›) <;> simp_all

@[simp] theorem dpBucketOut_keep (s : State) (n : Nat) :
    (dpBucketOut s n).pending = s.pending ∧ (s.mem.wf = true → (dpBucketOut s n).mem.wf = true) := by
  unfold dpBucketOut; (try generalize regionOf _ _ = R); (try dsimp only); (repeat' split) <;> (constructor; simp; intro hw; simp [hw])

@[simp] theorem dpDrain_keep (s : State) (n : Nat) (k0 : Nat) :
    (dpDrain s n k0).pending = s.pending ∧ (s.mem.wf = true → (dpDrain s n k0).mem.wf = true) := by
  induction k0 generalizing s n with | zero => simp [dpDrain] | succ k ih => (unfold dpDrain; (repeat' split) <;> (constructor; simp [ih]; intro hw; simp [ih, hw]))

@[simp] theorem dpDrainAll_keep (s : State) :
    (dpDrainAll s).pending = s.pending ∧ (s.mem.wf = true → (dpDrainAll s).mem.wf = true) := by
  unfold dpDrainAll; (try generalize regionOf _ _ = R); (repeat' (first | apply foldl_wf; intro _ _ | split)) <;> (constructor; simp; intro hw; simp [hw])

@[simp] theorem dpPrefetch_keep (s : State) (n : Nat) :
    (dpPrefetch s n).pending = s.pending ∧ (dpPrefetch s n).mem = s.mem := by
  unfold dpPrefetch; (try generalize regionOf _ _ = R); (try dsimp only); (repeat' split) <;> (try have h0 := lineRead_keep _ _ _ ‹lineRead _ _ = some _›) <;> simp_all

@[simp] theorem dpDrainBut_keep (s : State) (n : Nat) :
    (dpDrainBut s n).pending = s.pending ∧ (s.mem.wf = true → (dpDrainBut s n).mem.wf = true) := by
  unfold dpDrainBut; (try generalize regionOf _ _ = R); (constructor <;> (try intro hw) <;> simp_all)

@[simp] theorem pathWrite_keep (s : State) (p : Path) (off : Nat) (wide : Bool) (v : W64) :
    (pathWrite s p off wide v).pending = s.pending ∧ (s.mem.wf = true → (pathWrite s p off wide v).mem.wf = true) := by
  unfold pathWrite; (try generalize regionOf _ _ = R); (repeat' split) <;> (constructor; simp; intro hw; simp [hw])

@[simp] theorem execDataPortBucketComplete_keep (n : Fin 4) (s : State) :
    OutWf s (execDataPortBucketComplete n s) := by
  unfold execDataPortBucketComplete; apply clocked_wf; (repeat' split) <;> (simp [OutWf]; (try (intro hw; simp [hw])))

/-! ### Pumps -/

@[simp] theorem clusterSat_keep (s : State) (i n : Nat) :
    (clusterSat s i n).pending = s.pending ∧ (clusterSat s i n).mem = s.mem := by
  simp [clusterSat]

@[simp] theorem peerReadLine_keep (s : State) (o : Nat) :
    (peerReadLine s o).2.2.pending = s.pending ∧ (peerReadLine s o).2.2.mem = s.mem := by
  unfold peerReadLine; (try generalize regionOf _ _ = R); (try dsimp only); (repeat' split) <;> simp

@[simp] theorem peerWriteLine_keep (s : State) (o : Nat) (l : Line) (mask : BitVec 64) :
    (peerWriteLine s o l mask).2.pending = s.pending ∧ (s.mem.wf = true → (peerWriteLine s o l mask).2.mem.wf = true) := by
  unfold peerWriteLine; (try generalize regionOf _ _ = R); (repeat' split) <;> (constructor; simp; intro hw; simp [hw])

@[simp] theorem addRead_keep (s : State) (i : Nat) (d : FDesc) (kind : RdKind) (a n : Nat) (data : Option Line) (err : Nat) :
    (addRead s i d kind a n data err).pending = s.pending ∧ (addRead s i d kind a n data err).mem = s.mem := by
  simp [addRead]

@[simp] theorem readMoved_keep (s : State) (i k n : Nat) (ends : Bool) :
    (readMoved s i k n ends).pending = s.pending ∧ (readMoved s i k n ends).mem = s.mem := by
  simp [readMoved]

@[simp] theorem issueQueueRead_keep (s : State) (i : Nat) (d : FDesc) (w e : Nat) :
    (issueQueueRead s i d w e).pending = s.pending ∧ (issueQueueRead s i d w e).mem = s.mem := by
  simp [issueQueueRead]

@[simp] theorem issueAddrRead_keep (s : State) (i : Nat) (d : FDesc) :
    (issueAddrRead s i d).pending = s.pending ∧ (issueAddrRead s i d).mem = s.mem := by
  unfold issueAddrRead; (try generalize regionOf _ _ = R); (try dsimp only); split <;> simp

@[simp] theorem issueRead_keep (s : State) (p c : Nat) :
    (issueRead s p c).pending = s.pending ∧ (issueRead s p c).mem = s.mem := by
  unfold issueRead; (try generalize regionOf _ _ = R); (try dsimp only); (repeat' split) <;> simp

@[simp] theorem readHeld_keep (s : State) (p c : Nat) :
    (readHeld s p c).pending = s.pending ∧ (readHeld s p c).mem = s.mem := by
  unfold readHeld; (try generalize regionOf _ _ = R); (try dsimp only); split <;> simp

@[simp] theorem execPumpReadIssue_keep (p : PumpIx) (s : State) :
    OutKeeps s (execPumpReadIssue p s) := by
  unfold execPumpReadIssue; apply clocked_keeps; (try dsimp only); (repeat' split) <;> simp [OutKeeps]

@[simp] theorem regPiecesRead_keep (s : State) (l : List (Nat × Nat)) :
    (regPiecesRead s l).2.pending = s.pending ∧ (regPiecesRead s l).2.mem = s.mem := by
  induction l generalizing s with
  | nil => exact ⟨rfl, rfl⟩
  | cons x r ih => simp [regPiecesRead, ih]

@[simp] theorem memBucket_keep (s : State) (a n : Nat) :
    (memBucket s a n).2.2.pending = s.pending ∧ (memBucket s a n).2.2.mem = s.mem := by
  unfold memBucket; (try generalize regionOf _ _ = R); (try dsimp only); (repeat' split) <;> (try have h0 := lineRead_keep _ _ _ ‹lineRead _ _ = some _›) <;> simp_all

theorem readOutcome_keep (s : State) (r : RdOut) (rr : _) :
    (readOutcome s r) = some rr → rr.2.2.pending = s.pending ∧ rr.2.2.mem = s.mem := by
  intro h; unfold readOutcome at h
  (repeat' split at h) <;> (first | contradiction | (injection h with h; subst h; simp))

@[simp] theorem fiJoin_keep (s : State) (i : Nat) (d : FDesc) :
    (fiJoin s i d).pending = s.pending ∧ (fiJoin s i d).mem = s.mem := by
  simp [fiJoin]

@[simp] theorem absorb_keep (s : State) (i : Nat) (r : RdOut) (d : FDesc) (v : Nat) :
    (absorb s i r d v).pending = s.pending ∧ (absorb s i r d v).mem = s.mem := by
  unfold absorb; split <;> simp

@[simp] theorem popHeads_keep (s : State) (i : Nat) (k0 : Nat) :
    (popHeads s i k0).pending = s.pending ∧ (popHeads s i k0).mem = s.mem := by
  induction k0 generalizing s i with | zero => simp [popHeads] | succ k ih => (unfold popHeads; (try dsimp only); (repeat' split) <;> simp [ih])

@[simp] theorem strSettle_keep (s : State) (i : Nat) :
    (strSettle s i).pending = s.pending ∧ (strSettle s i).mem = s.mem := by
  simp [strSettle]

@[simp] theorem execReadBucketReturn_keep (p : PumpIx) (c : StreamIx) (s : State) :
    OutKeeps s (execReadBucketReturn p c s) := by
  unfold execReadBucketReturn; apply clocked_keeps; dsimp only
  split
  · exact ⟨rfl, rfl⟩
  · rename_i r rest _
    cases h : readOutcome s r with
    | none => exact ⟨rfl, rfl⟩
    | some rr =>
      have h0 := readOutcome_keep _ _ _ h
      obtain ⟨st, v, u⟩ := rr
      dsimp only at h0 ⊢
      have h1 : ((if r.deadline < (bwCount u (48 + p.val / 4) 0).dt then
          event (bwCount u (48 + p.val / 4) 0) 1 (strIx p c) 6 else bwCount u (48 + p.val / 4) 0)).pending = s.pending ∧
          ((if r.deadline < (bwCount u (48 + p.val / 4) 0).dt then
          event (bwCount u (48 + p.val / 4) 0) 1 (strIx p c) 6 else bwCount u (48 + p.val / 4) 0)).mem = s.mem := by
        split <;> simp [h0.1, h0.2]
      generalize (if r.deadline < (bwCount u (48 + p.val / 4) 0).dt then
          event (bwCount u (48 + p.val / 4) 0) 1 (strIx p c) 6 else bwCount u (48 + p.val / 4) 0) = q at h1 ⊢
      (repeat' split) <;> simp [OutKeeps, h1.1, h1.2]

@[simp] theorem fiNext_keep (s : State) (u i : Nat) :
    (fiNext s u i).pending = s.pending ∧ (fiNext s u i).mem = s.mem := by
  simp [fiNext]

@[simp] theorem execFrameIntake_keep (u : Fin 2) (s : State) :
    OutKeeps s (execFrameIntake u s) := by
  unfold execFrameIntake; apply clocked_keeps; (try dsimp only); (repeat' split) <;> simp [OutKeeps]

/-! ### Encoder -/

@[simp] theorem State.setEncoder_keep (s : State) (i : Nat) (e : Encoder) :
    (State.setEncoder s i e).pending = s.pending ∧ (State.setEncoder s i e).mem = s.mem := by
  simp [State.setEncoder]

@[simp] theorem noteBlock_keep (s : State) (n i : Nat) (l : List FVal) (b : CodedBlock) :
    (noteBlock s n i l b).pending = s.pending ∧ (noteBlock s n i l b).mem = s.mem := by
  simp [noteBlock]

@[simp] theorem noteMarker_keep (s : State) (n i : Nat) :
    (noteMarker s n i).pending = s.pending ∧ (noteMarker s n i).mem = s.mem := by
  simp [noteMarker]

@[simp] theorem encodeBlocks_keep (s : State) (n i : Nat) (wire : Fmt) (k0 : List (List FVal)) :
    (encodeBlocks s n i wire k0).2.pending = s.pending ∧ (encodeBlocks s n i wire k0).2.mem = s.mem := by
  induction k0 generalizing s n i wire <;> simp [encodeBlocks, *]

@[simp] theorem encodeWord_keep (s : State) (n i : Nat) (wire dec : Fmt) (v : Nat) (b : Sideband) :
    (encodeWord s n i wire dec v b).2.pending = s.pending ∧ (encodeWord s n i wire dec v b).2.mem = s.mem := by
  unfold encodeWord; (try generalize regionOf _ _ = R); (try dsimp only); (repeat' split) <;> simp

@[simp] theorem encodeWords_keep (s : State) (n i : Nat) (wire dec : Fmt) (k0 : List (Nat × Sideband)) :
    (encodeWords s n i wire dec k0).2.pending = s.pending ∧ (encodeWords s n i wire dec k0).2.mem = s.mem := by
  induction k0 generalizing s n i wire dec <;> simp [encodeWords, *]

@[simp] theorem execLinkScaleWindowEnd_keep (n : Fin 6) (p : PumpIx) (c : StreamIx) (s : State) :
    OutKeeps s (execLinkScaleWindowEnd n p c s) := by
  unfold execLinkScaleWindowEnd; apply clocked_keeps; (try dsimp only); simp [OutKeeps]

/-! ### PumpWrite -/

@[simp] theorem addWrite_keep (s : State) (i : Nat) (d : FDesc) (kind : WrKind) (a : Nat) (l : Line) (m : BitVec 64) :
    (addWrite s i d kind a l m).pending = s.pending ∧ (addWrite s i d kind a l m).mem = s.mem := by
  simp [addWrite]

@[simp] theorem issueAddrWrite_keep (s : State) (i : Nat) (d : FDesc) (a n : Nat) :
    (issueAddrWrite s i d a n).pending = s.pending ∧ (issueAddrWrite s i d a n).mem = s.mem := by
  unfold issueAddrWrite; split <;> simp

@[simp] theorem askCredit_keep (s : State) (i : Nat) :
    (askCredit s i).pending = s.pending ∧ (askCredit s i).mem = s.mem := by
  unfold askCredit; (try generalize regionOf _ _ = R); (try dsimp only); split <;> simp

@[simp] theorem issuePacket_keep (s : State) (i : Nat) (d : FDesc) (ws : List (Nat × Sideband)) (d' : FDesc) (tag : BitVec 6) (last : Bool) :
    (issuePacket s i d ws d' tag last).pending = s.pending ∧ (issuePacket s i d ws d' tag last).mem = s.mem := by
  simp [issuePacket]

@[simp] theorem issueWrite_keep (s : State) (i : Nat) (it : WriteItem) :
    (issueWrite s i it).pending = s.pending ∧ (issueWrite s i it).mem = s.mem := by
  unfold issueWrite; (try generalize regionOf _ _ = R); (try dsimp only); (repeat' split) <;> simp

@[simp] theorem fillPops_keep (s : State) (i : Nat) (k0 : Nat) :
    (fillPops s i k0).pending = s.pending ∧ (fillPops s i k0).mem = s.mem := by
  induction k0 generalizing s i with | zero => simp [fillPops] | succ k ih => (unfold fillPops; (try dsimp only); (repeat' split) <;> simp [ih])

@[simp] theorem writeSettle_keep (s : State) (i : Nat) :
    (writeSettle s i).pending = s.pending ∧ (writeSettle s i).mem = s.mem := by
  simp [writeSettle]

@[simp] theorem execPumpWriteIssue_keep (p : PumpIx) (s : State) :
    OutKeeps s (execPumpWriteIssue p s) := by
  unfold execPumpWriteIssue; apply clocked_keeps; (try dsimp only); (repeat' split) <;> simp [OutKeeps]

@[simp] theorem memWrite_keep (s : State) (w : WrOut) :
    (memWrite s w).2.pending = s.pending ∧ (s.mem.wf = true → (memWrite s w).2.mem.wf = true) := by
  unfold memWrite; (try generalize regionOf _ _ = R); (try dsimp only); (repeat' split) <;> (try have h0 := bucketWrite_keep _ _ _ _ _ ‹bucketWrite _ _ _ _ = some _›) <;> simp_all

@[simp] theorem writeGone_keep (s : State) (i j n : Nat) :
    (writeGone s i j n).pending = s.pending ∧ (writeGone s i j n).mem = s.mem := by
  simp [writeGone]

@[simp] theorem writeFail_keep (s : State) (i j status : Nat) (w : WrOut) :
    (writeFail s i j status w).pending = s.pending ∧ (writeFail s i j status w).mem = s.mem := by
  simp [writeFail]

theorem pushWord_keep (s : State) (i w e : Nat) (wd : Word) (rr : _) :
    (pushWord s i w e wd) = some rr → rr.pending = s.pending ∧ (s.mem.wf = true → rr.mem.wf = true) := by
  intro h; unfold pushWord at h; (try generalize regionOf _ _ = R at h); (try dsimp only at h); (repeat' split at h) <;> (first | contradiction | (injection h with h; subst h; simp_all) | simp_all)

@[simp] theorem execWriteBucketComplete_keep (p : PumpIx) (c : StreamIx) (j : Nat) (s : State) :
    OutWf s (execWriteBucketComplete p c j s) := by
  unfold execWriteBucketComplete; (first | apply clocked_keeps | apply clocked_wf); (try generalize regionOf _ _ = R); (try dsimp only); (repeat' split) <;> (try have h0 := pushWord_keep _ _ _ _ _ _ ‹pushWord _ _ _ _ _ = some _›) <;> simp_all [OutKeeps, OutWf]

/-! ### HostLink -/

@[simp] theorem setAccs_keep (s : State) (l : List HostAcc) :
    (setAccs s l).pending = s.pending ∧ (setAccs s l).mem = s.mem := by
  simp [setAccs]

@[simp] theorem hostReadAnswer_keep (s : State) (i id : Nat) (data : Option Line) (err : Nat) :
    (hostReadAnswer s i id data err).pending = s.pending ∧ (hostReadAnswer s i id data err).mem = s.mem := by
  simp [hostReadAnswer]

@[simp] theorem hostWriteAnswer_keep (s : State) (i id : Nat) (failed : Bool) :
    (hostWriteAnswer s i id failed).pending = s.pending ∧ (hostWriteAnswer s i id failed).mem = s.mem := by
  unfold hostWriteAnswer; (try generalize regionOf _ _ = R); (try dsimp only); (repeat' split) <;> simp

@[simp] theorem accEnd_keep (s : State) (a : HostAcc) (data : Line) (failed : Bool) :
    (accEnd s a data failed).pending = s.pending ∧ (accEnd s a data failed).mem = s.mem := by
  unfold accEnd; (try generalize regionOf _ _ = R); (try dsimp only); (repeat' split) <;> simp

@[simp] theorem execHrdCompletion_keep (id : Nat) (data : Line) (err : Bool) (s : State) :
    OutKeeps s (execHrdCompletion id data err s) := by
  unfold execHrdCompletion; apply clocked_keeps; (try dsimp only); (repeat' split) <;> simp [OutKeeps]

@[simp] theorem execHwrCompletion_keep (id : Nat) (err : Bool) (s : State) :
    OutKeeps s (execHwrCompletion id err s) := by
  unfold execHwrCompletion; apply clocked_keeps; (repeat' split) <;> simp [OutKeeps]

@[simp] theorem countAccs_keep (s : State) (m : Nat) (l : List HostAcc) :
    (countAccs s m l).pending = s.pending ∧ (countAccs s m l).mem = s.mem := by
  simp [countAccs]

@[simp] theorem execUcieModuleDown_keep (m : Fin 2) (s : State) :
    OutKeeps s (execUcieModuleDown m s) := by
  unfold execUcieModuleDown; apply clocked_keeps; (try dsimp only); (repeat' split) <;> simp [OutKeeps]

@[simp] theorem execUcieModuleTrained_keep (m : Fin 2) (rate : BitVec 3) (s : State) :
    OutKeeps s (execUcieModuleTrained m rate s) := by
  unfold execUcieModuleTrained; apply clocked_keeps; (try dsimp only); (repeat' split) <;> simp [OutKeeps]

@[simp] theorem execHostAccessTimeout_keep (id : Nat) (s : State) :
    OutKeeps s (execHostAccessTimeout id s) := by
  unfold execHostAccessTimeout; apply clocked_keeps; (try dsimp only); (repeat' split) <;> simp [OutKeeps]

/-! ### PeerStreams -/

@[simp] theorem sendOwn_keep (s : State) (kind dst dw1 dw2 : Nat) (data : List Line) :
    (sendOwn s kind dst dw1 dw2 data).pending = s.pending ∧ (sendOwn s kind dst dw1 dw2 data).mem = s.mem := by
  simp [sendOwn]

@[simp] theorem State.setIngress_keep (s : State) (k : Nat) (e : Ingress) :
    (State.setIngress s k e).pending = s.pending ∧ (State.setIngress s k e).mem = s.mem := by
  simp [State.setIngress]

@[simp] theorem ingressReserve_keep (s : State) (k n : Nat) :
    (ingressReserve s k n).pending = s.pending ∧ (ingressReserve s k n).mem = s.mem := by
  simp [ingressReserve]

@[simp] theorem ingressReturn_keep (s : State) (k n : Nat) :
    (ingressReturn s k n).pending = s.pending ∧ (ingressReturn s k n).mem = s.mem := by
  simp [ingressReturn]

@[simp] theorem ingressFree_keep (s : State) (k : Nat) :
    (ingressFree s k).pending = s.pending ∧ (ingressFree s k).mem = s.mem := by
  simp [ingressFree]

@[simp] theorem ingressAbort_keep (s : State) (k status : Nat) :
    (ingressAbort s k status).pending = s.pending ∧ (s.mem.wf = true → (ingressAbort s k status).mem.wf = true) := by
  constructor; simp [ingressAbort]; intro hw; simp [ingressAbort, hw]

theorem ingressPush_keep (s : State) (k : Nat) (k0 : List Word) (rr : _) :
    (ingressPush s k k0) = some rr → rr.pending = s.pending ∧ (s.mem.wf = true → rr.mem.wf = true) := by
  induction k0 generalizing s with
  | nil => intro h; unfold ingressPush at h; cases h; exact ⟨rfl, id⟩
  | cons x r ih =>
    intro h
    rw [ingressPush] at h
    split at h
    · have := ih _ h
      exact ⟨this.1.trans (by simp), fun hw => this.2 (by simp [hw])⟩
    · cases h

@[simp] theorem streamCompl_keep (s : State) (p : Packet) (status : Nat) :
    (streamCompl s p status).pending = s.pending ∧ (streamCompl s p status).mem = s.mem := by
  simp [streamCompl]

@[simp] theorem execStreamPacketArrival_keep (pk : Packet) (s : State) :
    OutWf s (execStreamPacketArrival pk s) := by
  unfold execStreamPacketArrival; (first | apply clocked_keeps | apply clocked_wf); (try generalize regionOf _ _ = R); (try dsimp only); (repeat' split) <;> (try have h0 := ingressPush_keep _ _ _ _ ‹ingressPush _ _ _ = some _›) <;> simp_all [OutKeeps, OutWf]

@[simp] theorem execCreditRequest_keep (pk : Packet) (s : State) :
    OutKeeps s (execCreditRequest pk s) := by
  unfold execCreditRequest; apply clocked_keeps; (try dsimp only); (repeat' split) <;> simp [OutKeeps]

@[simp] theorem execCreditReply_keep (pk : Packet) (s : State) :
    OutKeeps s (execCreditReply pk s) := by
  unfold execCreditReply; apply clocked_keeps; (try dsimp only); (repeat' split) <;> simp [OutKeeps]

@[simp] theorem sentGone_keep (s : State) (i key : Nat) :
    (sentGone s i key).pending = s.pending ∧ (sentGone s i key).mem = s.mem := by
  simp [sentGone]

@[simp] theorem writeAnswer_keep (s : State) (i : Nat) (kind : WrKind) (status : Nat) :
    (writeAnswer s i kind status).pending = s.pending ∧ (writeAnswer s i kind status).mem = s.mem := by
  unfold writeAnswer; (try generalize regionOf _ _ = R); (try dsimp only); (repeat' split) <;> simp

@[simp] theorem readAnswer_keep (s : State) (i tag : Nat) (data : Option Line) (err : Nat) :
    (readAnswer s i tag data err).pending = s.pending ∧ (readAnswer s i tag data err).mem = s.mem := by
  simp [readAnswer]

@[simp] theorem execComplArrival_keep (pk : Packet) (s : State) :
    OutKeeps s (execComplArrival pk s) := by
  unfold execComplArrival; apply clocked_keeps; (try dsimp only); (repeat' split) <;> simp [OutKeeps]

@[simp] theorem execPwrArrival_keep (pk : Packet) (s : State) :
    OutWf s (execPwrArrival pk s) := by
  unfold execPwrArrival
  apply clocked_wf
  dsimp only
  split
  · refine ⟨?_, fun hw => ?_⟩
    · simp only [sendOwn_keep]
      split
      · exact (foldl_wf _ (fun t j => peerWriteLine_keep _ _ _ _) _ _).1
      · rfl
    · simp only [sendOwn_keep]
      split
      · exact (foldl_wf _ (fun t j => peerWriteLine_keep _ _ _ _) _ _).2 hw
      · exact hw
  · exact ⟨rfl, id⟩

@[simp] theorem prdLines_keep (s : State) (o : Nat) (k0 : Nat) :
    (prdLines s o k0).2.2.pending = s.pending ∧ (prdLines s o k0).2.2.mem = s.mem := by
  induction k0 generalizing s o <;> simp [prdLines, *]

@[simp] theorem execPrdArrival_keep (pk : Packet) (s : State) :
    OutKeeps s (execPrdArrival pk s) := by
  unfold execPrdArrival; apply clocked_keeps; (try dsimp only); (repeat' split) <;> simp [OutKeeps]

@[simp] theorem dropPackets_keep (s : State) (i : Nat) (wr : WrOut → Bool) (rd : RdOut → Bool) :
    (dropPackets s i wr rd).pending = s.pending ∧ (dropPackets s i wr rd).mem = s.mem := by
  simp [dropPackets]

@[simp] theorem execSterrArrival_keep (pk : Packet) (s : State) :
    OutWf s (execSterrArrival pk s) := by
  unfold execSterrArrival; apply clocked_wf; (try dsimp only); (repeat' split) <;> (simp [OutWf]; (try (intro hw; simp [hw])))

@[simp] theorem execE2eTimeout_keep (p : PumpIx) (c : StreamIx) (s : State) :
    OutKeeps s (execE2eTimeout p c s) := by
  unfold execE2eTimeout; apply clocked_keeps; (try dsimp only); (repeat' split) <;> simp [OutKeeps]

@[simp] theorem strPeerLost_keep (s : State) (id i : Nat) :
    (strPeerLost s id i).pending = s.pending ∧ (strPeerLost s id i).mem = s.mem := by
  simp [strPeerLost]

@[simp] theorem execPeerLoss_keep (id : BitVec 10) (s : State) :
    OutWf s (execPeerLoss id s) := by
  unfold execPeerLoss
  apply clocked_wf
  dsimp only
  split
  · refine ⟨?_, fun hw => ?_⟩
    · refine (foldl_wf _ (fun t j => ingressAbort_keep _ _ _) _ _).1.trans ?_
      refine (foldl_keep _ (fun t j => strPeerLost_keep _ _ _) _ _).1.trans ?_
      simp
    · refine (foldl_wf _ (fun t j => ingressAbort_keep _ _ _) _ _).2 ?_
      rw [(foldl_keep _ (fun t j => strPeerLost_keep t id.toNat j) _ _).2]
      simpa using hw
  · exact ⟨rfl, fun h => h⟩

@[simp] theorem portDisable_keep (s : State) (n : Nat) :
    (portDisable s n).pending = s.pending ∧ (portDisable s n).mem = s.mem := by
  simp [portDisable]

@[simp] theorem execLeaveComplete_keep (s : State) :
    OutKeeps s (execLeaveComplete s) := by
  unfold execLeaveComplete; apply clocked_keeps; (try dsimp only); (repeat' split) <;> simp [OutKeeps]

end Sys2Proof.Machine
end

