-- ==== Sys2Proof/Laws/KeepChip.lean ====
section
/-! SUPPORT. What each shared operation and each command does to the command queue and to the
memory: the queue is left alone; memory is unchanged, or keeps its canonical form. -/

namespace Sys2Proof.Machine

/-! ### Cores -/

@[simp] theorem coreLoad_keep (s : State) (p : Path) (a n : Nat) :
    (coreLoad s p a n).2.pending = s.pending ∧ (s.mem.wf = true → (coreLoad s p a n).2.mem.wf = true) := by
  unfold coreLoad; (try generalize regionOf _ _ = R); (try dsimp only); (repeat' split) <;> (try have h0 := lineRead_keep _ _ _ ‹lineRead _ _ = some _›) <;> simp_all

theorem coreStore_keep (s : State) (p : Path) (a n : Nat) (v : W64) (rr : _) :
    (coreStore s p a n v) = some rr → rr.pending = s.pending ∧ (s.mem.wf = true → rr.mem.wf = true) := by
  intro h
  unfold coreStore at h
  generalize regionOf s a = R at h
  have hb := fun t => bucketWrite_keep s (a / 64 * 64) (storeLine a n v).1 (storeLine a n v).2 t
  cases R <;> dsimp only at h
  case regs off =>
    split at h
    · cases h; exact pathWrite_keep _ _ _ _ _
    · cases h
  case cistern w k o =>
    obtain ⟨t, h1, h2⟩ := Option.map_eq_some_iff.1 h
    subst h2
    exact ⟨by simp [(hb t h1).1], fun hw => by simpa using (hb t h1).2 hw⟩
  case weight w k o d =>
    obtain ⟨t, h1, h2⟩ := Option.map_eq_some_iff.1 h
    subst h2
    exact ⟨by simp [(hb t h1).1], fun hw => by simpa using (hb t h1).2 hw⟩
  all_goals exact hb rr h

@[simp] theorem sramSeen_keep (s : State) (i c a : Nat) (e : EccSeen) (store : Bool) :
    (sramSeen s i c a e store).pending = s.pending ∧ (sramSeen s i c a e store).mem = s.mem := by
  unfold sramSeen; split <;> simp

@[simp] theorem loseResv_keep (s : State) (i a : Nat) :
    (loseResv s i a).pending = s.pending ∧ (loseResv s i a).mem = s.mem := by
  unfold loseResv; (try generalize regionOf _ _ = R); (try dsimp only); (repeat' (first | apply foldl_keep; intro _ _ | split)) <;> simp

theorem coreStored_keep (s : State) (i a : Nat) (o : Option State)
    (h : ∀ t, o = some t → t.pending = s.pending ∧ (s.mem.wf = true → t.mem.wf = true)) :
    (coreStored s i a o).pending = s.pending ∧ (s.mem.wf = true → (coreStored s i a o).mem.wf = true) := by
  cases o with
  | none => exact ⟨(accessFault_keep _ _ _ _).1, fun hw => by rw [coreStored, (accessFault_keep _ _ _ _).2]; exact hw⟩
  | some t =>
    have ht := h t rfl
    exact ⟨by simp [coreStored, ht.1], fun hw => by simpa [coreStored] using ht.2 hw⟩

@[simp] theorem coreLoaded_keep (s : State) (i rd a n : Nat) (u : Bool) (k0 : Option Nat) :
    (coreLoaded s i rd a n u k0).pending = s.pending ∧ (coreLoaded s i rd a n u k0).mem = s.mem := by
  unfold coreLoaded; split <;> simp

@[simp] theorem coreHost_keep (s : State) (i rd h : Nat) (x : ScAccess) :
    (coreHost s i rd h x).pending = s.pending ∧ (coreHost s i rd h x).mem = s.mem := by
  simp [coreHost]

@[simp] theorem coreTarget_keep (s : State) (c : Fin 4) (i rd : Nat) (x : ScAccess) :
    (coreTarget s c i rd x).pending = s.pending ∧
      (s.mem.wf = true → (coreTarget s c i rd x).mem.wf = true) := by
  unfold coreTarget
  dsimp only
  have hs := coreStored_keep s i x.addr.toNat _ (fun t => coreStore_keep s (.sc c) x.addr.toNat (2 ^ x.size.toNat) x.value t)
  have hl : ∀ o, (coreLoaded (coreLoad s (.sc c) x.addr.toNat (2 ^ x.size.toNat)).2 i rd x.addr.toNat (2 ^ x.size.toNat) x.unsigned o).pending = s.pending ∧
      (s.mem.wf = true → (coreLoaded (coreLoad s (.sc c) x.addr.toNat (2 ^ x.size.toNat)).2 i rd x.addr.toNat (2 ^ x.size.toNat) x.unsigned o).mem.wf = true) :=
    fun o => ⟨by simp, fun hw => by simp [hw]⟩
  split
  · exact ⟨by simp, fun hw => by simpa using hw⟩
  · split
    · exact hs
    · exact hl _

@[simp] theorem condResult_keep (s : State) (i rd : Nat) (ok : Bool) (v : W64) :
    (condResult s i rd ok v).pending = s.pending ∧ (condResult s i rd ok v).mem = s.mem := by
  simp [condResult]

@[simp] theorem coreAtomic_keep (s : State) (c : Fin 4) (i rd : Nat) (x : ScAccess) :
    (coreAtomic s c i rd x).pending = s.pending ∧
      (s.mem.wf = true → (coreAtomic s c i rd x).mem.wf = true) := by
  unfold coreAtomic
  dsimp only
  split
  · split
    · have hs := coreStored_keep (s.setHart i { s.hart i with resv := none }) i x.addr.toNat _ (fun t => coreStore_keep _ (.sc c) x.addr.toNat (2 ^ x.size.toNat) x.value t)
      exact ⟨by simpa using hs.1, fun hw => by simpa using hs.2 hw⟩
    · exact ⟨by simp, fun hw => by simpa using hw⟩
  · split
    · exact ⟨by simp, fun hw => by simp [hw]⟩
    · exact ⟨by simp, fun hw => by simp [hw]⟩

@[simp] theorem coreAccess_keep (s : State) (c : Fin 4) (i rd : Nat) (x : ScAccess) :
    (coreAccess s c i rd x).pending = s.pending ∧ (s.mem.wf = true → (coreAccess s c i rd x).mem.wf = true) := by
  unfold coreAccess; (try generalize regionOf _ _ = R); (try dsimp only); (repeat' split) <;> (constructor; simp; intro hw; simp [hw])

@[simp] theorem execScAccess_keep (c : Fin 4) (n : Fin 8) (rd : Fin 32) (a : ScAccess) (s : State) :
    OutWf s (execScAccess c n rd a s) := by
  unfold execScAccess; apply clocked_wf; (repeat' split) <;> (simp [OutWf]; (try (intro hw; simp [hw])))

/-! ### Strokes -/

@[simp] theorem eachUnit_wf (s : State) (g : State → Nat → State)
    (h : ∀ s x, (g s x).pending = s.pending ∧ (s.mem.wf = true → (g s x).mem.wf = true)) :
    (eachUnit s g).pending = s.pending ∧ (s.mem.wf = true → (eachUnit s g).mem.wf = true) :=
  foldl_wf g h _ _

@[simp] theorem eachSlice_wf (s : State) (g : State → Nat → State)
    (h : ∀ s x, (g s x).pending = s.pending ∧ (s.mem.wf = true → (g s x).mem.wf = true)) :
    (eachSlice s g).pending = s.pending ∧ (s.mem.wf = true → (eachSlice s g).mem.wf = true) :=
  foldl_wf g h _ _

@[simp] theorem threadsArrive_keep (s : State) (w : Nat) :
    (threadsArrive s w).pending = s.pending ∧ (threadsArrive s w).mem = s.mem := by
  unfold threadsArrive; (try generalize regionOf _ _ = R); (repeat' (first | apply foldl_keep; intro _ _ | split)) <;> simp

@[simp] theorem barsIssue_keep (s : State) (w : Nat) :
    (barsIssue s w).pending = s.pending ∧ (barsIssue s w).mem = s.mem := by
  unfold barsIssue
  apply foldl_keep; intro s i
  (repeat' split) <;> simp

@[simp] theorem enginesMove_keep (s : State) (w : Nat) :
    (enginesMove s w).pending = s.pending ∧ (s.mem.wf = true → (enginesMove s w).mem.wf = true) :=
  foldl_wf _ (fun s i => engineStroke_keep s w i) _ _

@[simp] theorem owedRead_keep (s : State) (w f : Nat) (isB : Bool) :
    (owedRead s w f isB).pending = s.pending ∧ (owedRead s w f isB).mem = s.mem := by
  unfold owedRead; (try generalize regionOf _ _ = R); (try dsimp only); split <;> simp

@[simp] theorem owedWrite_keep (s0 s : State) (w f : Nat) (frozen : Bool) :
    (owedWrite s0 s w f frozen).pending = s.pending
      ∧ (s.mem.wf = true → (owedWrite s0 s w f frozen).mem.wf = true) := by
  unfold owedWrite; dsimp only
  split
  · exact ⟨rfl, id⟩
  · split
    · (repeat' split) <;> first | exact ⟨rfl, id⟩ | exact writeRun_keep _ _ _ _ _ _
    · exact ⟨rfl, id⟩

@[simp] theorem eachUnit_keep (s : State) (g : State → Nat → State)
    (h : ∀ s x, (g s x).pending = s.pending ∧ (g s x).mem = s.mem) :
    (eachUnit s g).pending = s.pending ∧ (eachUnit s g).mem = s.mem := foldl_keep g h _ _

@[simp] theorem eachSlice_keep (s : State) (g : State → Nat → State)
    (h : ∀ s x, (g s x).pending = s.pending ∧ (g s x).mem = s.mem) :
    (eachSlice s g).pending = s.pending ∧ (eachSlice s g).mem = s.mem := foldl_keep g h _ _

@[simp] theorem wordsMove_keep (s0 s : State) (w : Nat) (frozen : Bool) :
    (wordsMove s0 s w frozen).pending = s.pending ∧ (wordsMove s0 s w frozen).mem = s.mem := by
  simp [wordsMove]

@[simp] theorem elasticMove_keep (s : State) (w : Nat) :
    (elasticMove s w).pending = s.pending ∧ (s.mem.wf = true → (elasticMove s w).mem.wf = true) := by
  constructor; simp [elasticMove]; intro hw; simp [elasticMove, hw]

@[simp] theorem barriersMove_keep (s : State) (w : Nat) :
    (barriersMove s w).pending = s.pending ∧ (barriersMove s w).mem = s.mem := by
  simp [barriersMove]

@[simp] theorem stallCycle_keep (s : State) (w c cls unit detail : Nat) :
    (stallCycle s w c cls unit detail).pending = s.pending ∧ (stallCycle s w c cls unit detail).mem = s.mem := by
  simp [stallCycle]

@[simp] theorem freezeWatch_keep (s : State) (w : Nat) :
    (freezeWatch s w).pending = s.pending ∧ (freezeWatch s w).mem = s.mem := by
  simp [freezeWatch]

@[simp] theorem waitWatch_keep (s : State) (w : Nat) :
    (waitWatch s w).pending = s.pending ∧ (waitWatch s w).mem = s.mem := by
  unfold waitWatch; (try generalize regionOf _ _ = R); (try dsimp only); split <;> simp

@[simp] theorem execFreezeWatchExpiry_keep (w : WellIx) (s : State) :
    OutKeeps s (execFreezeWatchExpiry w s) := by
  unfold execFreezeWatchExpiry; apply clocked_keeps; simp [OutKeeps]

@[simp] theorem execWaitWatchExpiry_keep (w : WellIx) (s : State) :
    OutKeeps s (execWaitWatchExpiry w s) := by
  unfold execWaitWatchExpiry; apply clocked_keeps; simp [OutKeeps]

@[simp] theorem threadsFrozen_keep (s : State) (w : Nat) (vs : List (Option (MsqOp × Verdict))) :
    (threadsFrozen s w vs).pending = s.pending ∧ (threadsFrozen s w vs).mem = s.mem := by
  unfold threadsFrozen; (try generalize regionOf _ _ = R); (try dsimp only); (repeat' (first | apply foldl_keep; intro _ _ | split)) <;> simp

@[simp] theorem limitersSave_keep (s : State) (w : Nat) :
    (limitersSave s w).pending = s.pending ∧ (limitersSave s w).mem = s.mem := by
  unfold limitersSave; (try generalize regionOf _ _ = R); (repeat' (first | apply foldl_keep; intro _ _ | split)) <;> simp

@[simp] theorem frozenMark_keep (s : State) (w cause : Nat) :
    (frozenMark s w cause).pending = s.pending ∧ (frozenMark s w cause).mem = s.mem := by
  simp [frozenMark]

@[simp] theorem frozenMove_keep (s0 s : State) (w : Nat) (vs : List (Option (MsqOp × Verdict))) :
    (frozenMove s0 s w vs).pending = s.pending
      ∧ (s.mem.wf = true → (frozenMove s0 s w vs).mem.wf = true) := by
  unfold frozenMove
  dsimp only
  have h1 := eachUnit_wf s (fun s f => owedWrite s0 (owedRead (owedRead s w f false) w f true) w f true)
    (fun s f => ⟨by simp, fun hw => by simp [hw]⟩)
  have h2 := fun t => eachSlice_keep t
    (fun s i => if scaleAwaited s w i vs then s.setSlc w i (scaleStep (s.slc w i)) else s)
    (fun s i => by split <;> simp)
  have h3 := fun t => wordsMove_keep s0 t w true
  split
  · rw [State.setWell_pending, State.setWell_mem, (h3 _).1, (h3 _).2, (h2 _).1, (h2 _).2]; exact h1
  · rw [(h3 _).1, (h3 _).2, (h2 _).1, (h2 _).2]; exact h1

@[simp] theorem frozenEnd_keep (s : State) (w : Nat) :
    (frozenEnd s w).pending = s.pending ∧ (s.mem.wf = true → (frozenEnd s w).mem.wf = true) := by
  constructor; simp [frozenEnd]; intro hw; simp [frozenEnd, hw]

@[simp] theorem frozenCycle_keep (s : State) (w cause : Nat) (vs : List (Option (MsqOp × Verdict))) :
    (frozenCycle s w cause vs).pending = s.pending
      ∧ (s.mem.wf = true → (frozenCycle s w cause vs).mem.wf = true) := by
  unfold frozenCycle; dsimp only
  have h : ((threadsFrozen (frozenMark s w cause) w vs)).pending = s.pending ∧
      ((threadsFrozen (frozenMark s w cause) w vs)).mem = s.mem := by simp
  generalize threadsFrozen (frozenMark s w cause) w vs = t at h ⊢
  split
  · exact ⟨by simp [h.1], fun hw => (frozenEnd_keep _ _).2 (by simpa [h.2] using hw)⟩
  · split
    · exact ⟨by simp [h.1], fun hw => (frozenEnd_keep _ _).2 (by simpa [h.2] using hw)⟩
    · exact ⟨by simp [h.1],
        fun hw => (frozenEnd_keep _ _).2 ((frozenMove_keep _ _ _ _).2 (by rw [h.2]; exact hw))⟩

@[simp] theorem unitsIssue_keep (s0 s : State) (w : Nat) :
    (unitsIssue s0 s w).pending = s.pending ∧ (s.mem.wf = true → (unitsIssue s0 s w).mem.wf = true) := by
  unfold unitsIssue
  apply eachUnit_wf; intro s f; dsimp only
  have h1 : (if newReadA (s0.well w) f = true then owedRead s w f false
      else owedRead (owedRead s w f false) w f true).pending = s.pending ∧
      (if newReadA (s0.well w) f = true then owedRead s w f false
      else owedRead (owedRead s w f false) w f true).mem = s.mem := by split <;> simp
  generalize (if newReadA (s0.well w) f = true then owedRead s w f false
      else owedRead (owedRead s w f false) w f true) = u at h1 ⊢
  cases unitWord (s0.well w) f with
  | none =>
    dsimp only
    split
    · exact ⟨by simp [h1.1], fun hw => (owedWrite_keep _ _ _ _ _).2 (by simp [h1.2, hw])⟩
    · exact ⟨by simp [h1.1], fun hw => (owedWrite_keep _ _ _ _ _).2 (by simp [h1.2, hw])⟩
  | some q =>
    dsimp only
    split
    · exact ⟨by simp [h1.1], fun hw => (owedWrite_keep _ _ _ _ _).2 (by simp [h1.2, hw])⟩
    · exact ⟨by simp [h1.1], fun hw => (owedWrite_keep _ _ _ _ _).2 (by simp [h1.2, hw])⟩

@[simp] theorem threadsIssue_keep (s : State) (w : Nat) (vs : List (Option (MsqOp × Verdict))) :
    (threadsIssue s w vs).pending = s.pending ∧ (threadsIssue s w vs).mem = s.mem := by
  unfold threadsIssue; (try generalize regionOf _ _ = R); (try dsimp only); (repeat' (first | apply foldl_keep; intro _ _ | split)) <;> simp

@[simp] theorem slicesCount_keep (s0 s : State) (w : Nat) :
    (slicesCount s0 s w).pending = s.pending ∧ (slicesCount s0 s w).mem = s.mem := by
  unfold slicesCount; (try generalize regionOf _ _ = R); (try dsimp only); (repeat' (first | apply foldl_keep; intro _ _ | split)) <;> simp

@[simp] theorem waitsMove_keep (s0 s : State) (w : Nat) :
    (waitsMove s0 s w).pending = s.pending ∧ (waitsMove s0 s w).mem = s.mem := by
  simp [waitsMove]

@[simp] theorem strokeMove_keep (s0 s1 : State) (w : Nat) (vs : List (Option (MsqOp × Verdict))) :
    (strokeMove s0 s1 w vs).pending = s1.pending ∧ (s1.mem.wf = true → (strokeMove s0 s1 w vs).mem.wf = true) := by
  constructor; simp [strokeMove]; intro hw; simp [strokeMove, hw]

@[simp] theorem switchDue_keep (s : State) (w : Nat) (k0 : Option Nat) :
    (switchDue s w k0).pending = s.pending ∧ (switchDue s w k0).mem = s.mem := by
  unfold switchDue; split <;> simp

@[simp] theorem strokeEnd_keep (s : State) (w : Nat) :
    (strokeEnd s w).pending = s.pending ∧ (s.mem.wf = true → (strokeEnd s w).mem.wf = true) := by
  constructor; simp [strokeEnd]; intro hw; simp [strokeEnd, hw]

@[simp] theorem fullStroke_keep (s0 s1 : State) (w : Nat) (vs : List (Option (MsqOp × Verdict))) :
    (fullStroke s0 s1 w vs).pending = s1.pending ∧ (s1.mem.wf = true → (fullStroke s0 s1 w vs).mem.wf = true) := by
  constructor; simp [fullStroke]; intro hw; simp [fullStroke, hw]

@[simp] theorem wellCycle_keep (s : State) (w : Nat) :
    (wellCycle s w).pending = s.pending ∧ (s.mem.wf = true → (wellCycle s w).mem.wf = true) := by
  unfold wellCycle; (try generalize regionOf _ _ = R); (try dsimp only); (repeat' split) <;> (constructor; simp; intro hw; simp [hw])

@[simp] theorem execStroke_keep (w : WellIx) (s : State) :
    OutWf s (execStroke w s) := by
  unfold execStroke; apply clocked_wf; (repeat' split) <;> (simp [OutWf]; (try (intro hw; simp [hw])))

/-! ### Checks -/

/-! ### Image -/

@[simp] theorem mpReads_keep (s : State) (base size : Nat) :
    (mpReads s base size).pending = s.pending ∧ (mpReads s base size).mem = s.mem := by
  unfold mpReads; (try generalize regionOf _ _ = R); (try dsimp only); (repeat' (first | apply foldl_keep; intro _ _ | split)) <;> simp

@[simp] theorem ctxCommit_keep (s : State) (w x : Nat) (crc : W32) :
    (ctxCommit s w x crc).2.pending = s.pending ∧ (ctxCommit s w x crc).2.mem = s.mem := by
  unfold ctxCommit; (try generalize regionOf _ _ = R); (try dsimp only); (repeat' split) <;> simp

@[simp] theorem commitAll_keep (s : State) (crcs : SMap W32) (k0 k1 : List (Nat × Nat)) :
    (commitAll s crcs k0 k1).2.2.pending = s.pending ∧ (commitAll s crcs k0 k1).2.2.mem = s.mem := by
  induction k0 generalizing s k1 with
  | nil => unfold commitAll; exact ⟨rfl, rfl⟩
  | cons x r ih =>
    obtain ⟨w, c⟩ := x
    rw [commitAll]
    split
    · exact ⟨(ih _ _).1.trans (ctxCommit_keep _ _ _ _).1, (ih _ _).2.trans (ctxCommit_keep _ _ _ _).2⟩
    · exact ctxCommit_keep _ _ _ _

@[simp] theorem unloadAll_keep (s : State) (l : List (Nat × Nat)) :
    (unloadAll s l).pending = s.pending ∧ (unloadAll s l).mem = s.mem := by
  simp [unloadAll]

@[simp] theorem wellsReleased_keep (s : State) (l : List Nat) :
    (wellsReleased s l).pending = s.pending ∧ (wellsReleased s l).mem = s.mem := by
  simp [wellsReleased]

@[simp] theorem wellsTaken_keep (s : State) (r : Run) :
    (wellsTaken s r).pending = s.pending ∧ (wellsTaken s r).mem = s.mem := by
  simp [wellsTaken]

@[simp] theorem dcTable_keep (s : State) (m : Memory) (p : Plan) (home : Nat) (task : W64) :
    (dcTable s m p home task).pending = s.pending ∧ (dcTable s m p home task).mem = s.mem := by
  simp [dcTable]

@[simp] theorem attach_keep (s : State) (l : List Nat) (home p0 n : Nat) (reversed : Bool) :
    (attach s l home p0 n reversed).pending = s.pending ∧ (attach s l home p0 n reversed).mem = s.mem := by
  simp [attach]

@[simp] theorem detach_keep (s : State) (l : List Nat) :
    (detach s l).pending = s.pending ∧ (detach s l).mem = s.mem := by
  simp [detach]

theorem imageLoad_keep (s : State) (base : W64) (p0 : Nat) (reversed : Bool) (task : W64) (rr : _) :
    (imageLoad s base p0 reversed task) = some rr → rr.2.2.pending = s.pending ∧ rr.2.2.mem = s.mem := by
  intro h
  unfold imageLoad at h
  dsimp only at h
  split at h
  · cases h
  · generalize hu : mpReads s base.toNat (planAt (correctedMem s) base.toNat).bytes = u at h
    have h0 : u.pending = s.pending ∧ u.mem = s.mem := hu ▸ mpReads_keep _ _ _
    generalize imageFault _ _ _ _ _ _ = o at h
    cases o with
    | some x =>
      cases h; dsimp only
      split <;> simp [h0.1, h0.2]
    | none =>
      dsimp only at h
      generalize hc : commitAll _ _ _ _ = q at h
      have h1 : q.2.2.pending = u.pending ∧ q.2.2.mem = u.mem := hc ▸ commitAll_keep _ _ _ _
      obtain ⟨a, b, t⟩ := q
      dsimp only at h1
      cases a with
      | some x => cases h; exact ⟨by simp [h1.1, h0.1], by simp [h1.2, h0.2]⟩
      | none => cases h; exact ⟨by simp [h1.1, h0.1], by simp [h1.2, h0.2]⟩

@[simp] theorem pipeStop_keep (s : State) (l : List Nat) :
    (pipeStop s l).pending = s.pending ∧ (s.mem.wf = true → (pipeStop s l).mem.wf = true) := by
  unfold pipeStop
  apply foldl_wf; intro s w; dsimp only
  have h : ∀ t : State, (List.foldl (fun s i => if (s.slc w i).active = true then threadStop s w i else s) t
      (List.range 8)).pending = t.pending ∧ (List.foldl (fun s i => if (s.slc w i).active = true then
        threadStop s w i else s) t (List.range 8)).mem = t.mem := by
    intro t; apply foldl_keep; intro s i; split <;> simp
  exact ⟨by simp [(h s).1], fun hw => (wellStop_keep _ _).2 (by rw [(h s).2]; exact hw)⟩

@[simp] theorem imageUnload_keep (s : State) (p : Nat) :
    (imageUnload s p).pending = s.pending ∧ (s.mem.wf = true → (imageUnload s p).mem.wf = true) := by
  constructor; simp [imageUnload]; intro hw; simp [imageUnload, hw]

@[simp] theorem segsWritten_keep (s : State) (m : Memory) (p : Plan) (p0 : Nat) (reversed : Bool) (l : List (Nat × Nat)) :
    (segsWritten s m p p0 reversed l).pending = s.pending ∧ (segsWritten s m p p0 reversed l).mem = s.mem := by
  simp [segsWritten]

@[simp] theorem segsCommit_keep (s : State) (crcs : SMap W32) (l : List (Nat × Nat)) :
    (segsCommit s crcs l).2.2.pending = s.pending ∧ (segsCommit s crcs l).2.2.mem = s.mem := by
  induction l generalizing s with
  | nil => exact ⟨rfl, rfl⟩
  | cons x r ih =>
    obtain ⟨w, g⟩ := x
    rw [segsCommit]
    split
    · exact ⟨(ih _).1.trans (ctxCommit_keep _ _ _ _).1, (ih _).2.trans (ctxCommit_keep _ _ _ _).2⟩
    · exact ctxCommit_keep _ _ _ _

@[simp] theorem segsInto_keep (s : State) (m : Memory) (p : Plan) (r : Run) (i : Image) (l : List (Nat × Nat)) :
    (segsInto s m p r i l).2.2.pending = s.pending ∧ (segsInto s m p r i l).2.2.mem = s.mem := by
  unfold segsInto; dsimp only; split <;> simp

@[simp] theorem imageReload_keep (s : State) (p : Nat) :
    (imageReload s p).2.2.pending = s.pending ∧ (s.mem.wf = true → (imageReload s p).2.2.mem.wf = true) := by
  unfold imageReload; (try generalize regionOf _ _ = R); (try dsimp only); (repeat' split) <;> (constructor; simp; intro hw; simp [hw])

@[simp] theorem pipeStart_keep (s : State) (p : Nat) :
    (pipeStart s p).pending = s.pending ∧ (s.mem.wf = true → (pipeStart s p).mem.wf = true) := by
  unfold pipeStart; dsimp only
  generalize correctedMem s = m
  generalize s.mp.image p = i
  apply foldl_wf; intro s w
  split
  · exact ⟨rfl, id⟩
  · generalize 0x80000000 = v
    have h : ∀ t : State, (List.foldl (fun s j => if (planAt m i.base.toNat).usesSlice m i.p0 i.reversed w j = true
        then msqCtrlWrite s w j (BitVec.ofNat 32 (1 <<< 31 + b2n (s.slc w j).swflag <<< 27)) else s) t
        (List.range 8)).pending = t.pending ∧ (List.foldl (fun s j =>
        if (planAt m i.base.toNat).usesSlice m i.p0 i.reversed w j = true
        then msqCtrlWrite s w j (BitVec.ofNat 32 (1 <<< 31 + b2n (s.slc w j).swflag <<< 27)) else s) t
        (List.range 8)).mem = t.mem := by
      intro t; apply foldl_keep; intro s j; split <;> simp
    exact ⟨by rw [(sfCtrlWrite_keep _ _ _).1, (h s).1],
      fun hw => (sfCtrlWrite_keep _ _ _).2 (by rw [(h s).2]; exact hw)⟩

@[simp] theorem execSegmentContextLoad_keep (p : PipeIx) (seg : Fin 16) (s : State) :
    OutKeeps s (execSegmentContextLoad p seg s) := by
  unfold execSegmentContextLoad; apply clocked_keeps; (try dsimp only); (repeat' split) <;> simp [OutKeeps]

@[simp] theorem mpDone_keep (s : State) (cmd st : Nat) (payload : List W64) :
    (mpDone s cmd st payload).pending = s.pending ∧ (mpDone s cmd st payload).mem = s.mem := by
  unfold mpDone; split <;> simp

@[simp] theorem mpLoad_keep (s : State) (base : W64) (p0 : Nat) (reversed : Bool) (task : W64) :
    (mpLoad s base p0 reversed task).pending = s.pending ∧ (mpLoad s base p0 reversed task).mem = s.mem := by
  unfold mpLoad; (try generalize regionOf _ _ = R); (repeat' split) <;> (try have h0 := imageLoad_keep _ _ _ _ _ _ ‹imageLoad _ _ _ _ _ = some _›) <;> simp_all

@[simp] theorem execLoad_keep (base : W64) (p0 : WellIx) (reversed : Bool) (task : W64) (s : State) :
    OutKeeps s (execLoad base p0 reversed task s) := by
  unfold execLoad; apply clocked_keeps; simp [OutKeeps]

@[simp] theorem mpUnload_keep (s : State) (p : Nat) :
    (mpUnload s p).pending = s.pending ∧ (s.mem.wf = true → (mpUnload s p).mem.wf = true) := by
  constructor; simp [mpUnload]; intro hw; simp [mpUnload, hw]

@[simp] theorem execUnload_keep (p : PipeIx) (s : State) :
    OutWf s (execUnload p s) := by
  unfold execUnload; apply clocked_wf; (simp [OutWf]; (try (intro hw; simp [hw])))

@[simp] theorem mpReload_keep (s : State) (p : Nat) :
    (mpReload s p).pending = s.pending ∧ (s.mem.wf = true → (mpReload s p).mem.wf = true) := by
  constructor; simp [mpReload]; intro hw; simp [mpReload, hw]

@[simp] theorem execReload_keep (p : PipeIx) (s : State) :
    OutWf s (execReload p s) := by
  unfold execReload; apply clocked_wf; (simp [OutWf]; (try (intro hw; simp [hw])))

/-! ### Recovery -/

@[simp] theorem execTaskFaultReport_keep (task : Fin 1024) (f : FaultInfo) (s : State) :
    OutKeeps s (execTaskFaultReport task f s) := by
  unfold execTaskFaultReport; apply clocked_keeps; simp [OutKeeps]

@[simp] theorem execDeviceFault_keep (f : FaultInfo) (s : State) :
    OutKeeps s (execDeviceFault f s) := by
  unfold execDeviceFault; apply clocked_keeps; simp [OutKeeps]

@[simp] theorem tagEnds_keep (s : State) (l : List Nat) :
    (tagEnds s l).pending = s.pending ∧ (tagEnds s l).mem = s.mem := by
  unfold tagEnds; split <;> simp

@[simp] theorem resetFlush_keep (l : List Nat) (s : State) (i : Nat) :
    (resetFlush l s i).pending = s.pending ∧ (resetFlush l s i).mem = s.mem := by
  simp [resetFlush]

@[simp] theorem queuesEmptied_keep (s : State) (w : Nat) :
    (queuesEmptied s w).pending = s.pending ∧ (queuesEmptied s w).mem = s.mem := by
  simp [queuesEmptied]

@[simp] theorem barriersCleared_keep (s : State) (w : Nat) :
    (barriersCleared s w).pending = s.pending ∧ (barriersCleared s w).mem = s.mem := by
  simp [barriersCleared]

@[simp] theorem coresInterrupted_keep (s : State) (p : Nat) :
    (coresInterrupted s p).pending = s.pending ∧ (coresInterrupted s p).mem = s.mem := by
  simp [coresInterrupted]

@[simp] theorem tasksTaken_keep (s : State) (p : Nat) :
    (tasksTaken s p).pending = s.pending ∧ (tasksTaken s p).mem = s.mem := by
  simp [tasksTaken]

@[simp] theorem resetSteps_keep (s : State) (p : Nat) :
    (resetSteps s p).pending = s.pending ∧ (s.mem.wf = true → (resetSteps s p).mem.wf = true) := by
  constructor; simp [resetSteps]; intro hw; simp [resetSteps, hw]

@[simp] theorem execPipelineReset_keep (p : PipeIx) (f : FaultInfo) (s : State) :
    OutWf s (execPipelineReset p f s) := by
  unfold execPipelineReset; apply clocked_wf; (try dsimp only); (repeat' split) <;> (simp [OutWf]; (try (intro hw; simp [hw])))

@[simp] theorem execPipelineReload_keep (p : PipeIx) (s : State) :
    OutWf s (execPipelineReload p s) := by
  unfold execPipelineReload; apply clocked_wf; (try dsimp only); (repeat' split) <;> (simp [OutWf]; (try (intro hw; simp [hw])))

/-! ### Manage -/

@[simp] theorem selfRefresh_keep (s : State) (on : Bool) :
    (selfRefresh s on).pending = s.pending ∧ (selfRefresh s on).mem = s.mem := by
  simp [selfRefresh]

@[simp] theorem execWakeEntry_keep (s : State) :
    OutKeeps s (execWakeEntry s) := by
  unfold execWakeEntry; apply clocked_keeps; (try dsimp only); (repeat' split) <;> simp [OutKeeps]

@[simp] theorem wellRepowered_keep (s : State) (w : Nat) :
    (wellRepowered s w).pending = s.pending ∧ (s.mem.wf = true → (wellRepowered s w).mem.wf = true) := by
  constructor; simp [wellRepowered]; intro hw; simp [wellRepowered, hw]

@[simp] theorem pipeRevive_keep (s : State) (p : Nat) :
    (pipeRevive s p).pending = s.pending ∧ (s.mem.wf = true → (pipeRevive s p).mem.wf = true) := by
  unfold pipeRevive; dsimp only
  generalize hu : List.foldl (fun (s : State) w => barriersCleared (queuesEmptied s w) w) s (s.mp.image p).wells = u
  have h0 : u.pending = s.pending ∧ u.mem = s.mem := by
    rw [← hu]; apply foldl_keep; intro s w; simp
  have h1 := imageReload_keep u p
  split
  · exact ⟨by simp [h1.1, h0.1], fun hw => (pipeStart_keep _ _).2 (h1.2 (by rw [h0.2]; exact hw))⟩
  · exact ⟨by simp [h1.1, h0.1], fun hw => by simpa using h1.2 (by rw [h0.2]; exact hw)⟩

@[simp] theorem reviveAll_keep (s : State) :
    (reviveAll s).pending = s.pending ∧ (s.mem.wf = true → (reviveAll s).mem.wf = true) := by
  unfold reviveAll; (try generalize regionOf _ _ = R); (constructor <;> (try intro hw) <;> simp_all)

@[simp] theorem wakeUp_keep (s : State) :
    (wakeUp s).pending = s.pending ∧ (s.mem.wf = true → (wakeUp s).mem.wf = true) := by
  unfold wakeUp
  dsimp only
  have h := fun (t : State) => foldl_wf (fun s w => if s.hasWell w then wellRepowered s w else s)
    (fun s w => by split; exact wellRepowered_keep _ _; exact ⟨rfl, id⟩) (List.range 8) t
  split
  · exact ⟨by rw [(reviveAll_keep _).1, (h _).1]; simp, fun hw => by rw [(reviveAll_keep _).2]; exact (h _).2 (by simpa using hw)⟩
  · split
    · exact ⟨by simp, fun hw => by simpa using hw⟩
    · exact ⟨by simp, fun hw => by simpa using hw⟩

@[simp] theorem sstAbandon_keep (s : State) :
    (sstAbandon s).pending = s.pending ∧ (s.mem.wf = true → (sstAbandon s).mem.wf = true) := by
  unfold sstAbandon; dsimp only
  generalize hu : List.foldl partReset s s.sst.testing = u
  have h0 : u.pending = s.pending ∧ (s.mem.wf = true → u.mem.wf = true) := by
    rw [← hu]; exact foldl_wf _ partReset_keep _ _
  generalize hv : selfRefresh _ _ = v
  have h1 : v.pending = u.pending ∧ v.mem = u.mem := by rw [← hv]; simp
  exact ⟨by simp [h1.1, h0.1], fun hw => (reviveAll_keep _).2 (by rw [h1.2]; exact h0.2 hw)⟩

@[simp] theorem roused_keep (s : State) (e : WakeEvent) :
    (roused s e).pending = s.pending ∧ (s.mem.wf = true → (roused s e).mem.wf = true) := by
  constructor; simp [roused]; intro hw; simp [roused, hw]

@[simp] theorem execWakeExit_keep (e : WakeEvent) (s : State) :
    OutWf s (execWakeExit e s) := by
  unfold execWakeExit; apply clocked_wf; (simp [OutWf]; (try (intro hw; simp [hw])))

@[simp] theorem lattolSet_keep (s : State) (us : W32) :
    (lattolSet s us).pending = s.pending ∧ (s.mem.wf = true → (lattolSet s us).mem.wf = true) := by
  constructor; simp [lattolSet]; intro hw; simp [lattolSet, hw]

@[simp] theorem execLattolWrite_keep (v : W32) (s : State) :
    OutWf s (execLattolWrite v s) := by
  unfold execLattolWrite; apply clocked_wf; (simp [OutWf]; (try (intro hw; simp [hw])))

@[simp] theorem mpSetMode_keep (s : State) (m : Nat) :
    (mpSetMode s m).pending = s.pending ∧ (mpSetMode s m).mem = s.mem := by
  simp [mpSetMode]

@[simp] theorem execSetMode_keep (mode : BitVec 2) (s : State) :
    OutKeeps s (execSetMode mode s) := by
  unfold execSetMode; apply clocked_keeps; simp [OutKeeps]

@[simp] theorem mpSetCap_keep (s : State) (w : Nat) :
    (mpSetCap s w).pending = s.pending ∧ (mpSetCap s w).mem = s.mem := by
  simp [mpSetCap]

@[simp] theorem execSetCap_keep (watts : BitVec 9) (s : State) :
    OutKeeps s (execSetCap watts s) := by
  unfold execSetCap; apply clocked_keeps; simp [OutKeeps]

@[simp] theorem mpSetLattol_keep (s : State) (us : W32) :
    (mpSetLattol s us).pending = s.pending ∧ (s.mem.wf = true → (mpSetLattol s us).mem.wf = true) := by
  constructor; simp [mpSetLattol]; intro hw; simp [mpSetLattol, hw]

@[simp] theorem execSetLattol_keep (us : W32) (s : State) :
    OutWf s (execSetLattol us s) := by
  unfold execSetLattol; apply clocked_wf; (simp [OutWf]; (try (intro hw; simp [hw])))

@[simp] theorem mpTelemetry_keep (s : State) (selector : W64) :
    (mpTelemetry s selector).pending = s.pending ∧ (mpTelemetry s selector).mem = s.mem := by
  simp [mpTelemetry]

@[simp] theorem execTelemetry_keep (selector : W64) (s : State) :
    OutKeeps s (execTelemetry selector s) := by
  unfold execTelemetry; (try (first | apply clocked_keeps | apply powered_keeps)); simp [OutKeeps]

@[simp] theorem mpLogRead_keep (s : State) (n : W32) :
    (mpLogRead s n).pending = s.pending ∧ (mpLogRead s n).mem = s.mem := by
  simp [mpLogRead]

@[simp] theorem execLogRead_keep (n : W32) (s : State) :
    OutKeeps s (execLogRead n s) := by
  unfold execLogRead; (try (first | apply clocked_keeps | apply powered_keeps)); simp [OutKeeps]

@[simp] theorem portEnable_keep (s : State) (n : Nat) :
    (portEnable s n).pending = s.pending ∧ (portEnable s n).mem = s.mem := by
  simp [portEnable]

@[simp] theorem execMembershipJoin_keep (id : BitVec 10) (topo : Topology) (s : State) :
    OutKeeps s (execMembershipJoin id topo s) := by
  unfold execMembershipJoin; apply clocked_keeps; (try dsimp only); simp [OutKeeps]

@[simp] theorem execMembershipLeave_keep (s : State) :
    OutKeeps s (execMembershipLeave s) := by
  unfold execMembershipLeave; apply clocked_keeps; simp [OutKeeps]

@[simp] theorem mpServe_keep (s : State) (q : MbReq) :
    (mpServe s q).pending = s.pending ∧ (s.mem.wf = true → (mpServe s q).mem.wf = true) := by
  unfold mpServe; (try generalize regionOf _ _ = R); (try dsimp only); (repeat' split) <;> (constructor; simp; intro hw; simp [hw])

@[simp] theorem execMailboxResponse_keep (s : State) :
    OutWf s (execMailboxResponse s) := by
  unfold execMailboxResponse; (try (first | apply clocked_wf | apply powered_wf)); (try dsimp only); (repeat' split) <;> (simp [OutWf]; (try (intro hw; simp [hw])))

@[simp] theorem execMpWatchdogExpiry_keep (s : State) :
    OutKeeps s (execMpWatchdogExpiry s) := by
  unfold execMpWatchdogExpiry; (try (first | apply clocked_keeps | apply powered_keeps)); (try dsimp only); (repeat' split) <;> simp [OutKeeps]

@[simp] theorem execMpRestartComplete_keep (s : State) :
    OutKeeps s (execMpRestartComplete s) := by
  unfold execMpRestartComplete; (try (first | apply clocked_keeps | apply powered_keeps)); (try dsimp only); (repeat' split) <;> simp [OutKeeps]

@[simp] theorem execTelemetrySample_keep (s : State) :
    OutKeeps s (execTelemetrySample s) := by
  unfold execTelemetrySample; (try (first | apply clocked_keeps | apply powered_keeps)); (try dsimp only); simp [OutKeeps]

@[simp] theorem execMpBusyMeasure_keep (busy : BitVec 8) (s : State) :
    OutKeeps s (execMpBusyMeasure busy s) := by
  unfold execMpBusyMeasure; (try (first | apply clocked_keeps | apply powered_keeps)); (try dsimp only); (repeat' split) <;> simp [OutKeeps]

@[simp] theorem idleTick_keep (s : State) :
    (idleTick s).pending = s.pending ∧ (idleTick s).mem = s.mem := by
  simp [idleTick]

/-! ### Commands -/

@[simp] theorem hostCall_keep (s : State) (p : Path) :
    (hostCall s p).pending = s.pending ∧ (s.mem.wf = true → (hostCall s p).mem.wf = true) := by
  constructor; simp [hostCall]; intro hw; simp [hostCall, hw]

@[simp] theorem lattolSeen_keep (s : State) (o : Nat) :
    (lattolSeen s o).pending = s.pending ∧ (s.mem.wf = true → (lattolSeen s o).mem.wf = true) := by
  constructor; simp [lattolSeen]; intro hw; simp [lattolSeen, hw]

@[simp] theorem execRegrd_keep (path : Path) (off : BitVec 26) (wide : Bool) (s : State) :
    OutWf s (execRegrd path off wide s) := by
  unfold execRegrd; (try dsimp only); (repeat' split) <;> (simp [OutWf]; (try (intro hw; simp [hw])))

@[simp] theorem regTransaction_keep (s : State) (path : Path) (o : Nat) (wide : Bool) (v : W64) :
    (regTransaction s path o wide v).pending = s.pending ∧ (s.mem.wf = true → (regTransaction s path o wide v).mem.wf = true) := by
  constructor; simp [regTransaction]; intro hw; simp [regTransaction, hw]

@[simp] theorem execRegwr_keep (path : Path) (off : BitVec 26) (wide : Bool) (v : W64) (s : State) :
    OutWf s (execRegwr path off wide v s) := by
  unfold execRegwr; (simp [OutWf]; (try (intro hw; simp [hw])))

@[simp] theorem execRegisterWrite_keep (off : BitVec 26) (wide : Bool) (v : W64) (s : State) :
    OutWf s (execRegisterWrite off wide v s) := by
  unfold execRegisterWrite; (simp [OutWf]; (try (intro hw; simp [hw])))

@[simp] theorem execDbell_keep (path : Path) (ring : BitVec 8) (tail : W32) (s : State) :
    OutWf s (execDbell path ring tail s) := by
  unfold execDbell; (simp [OutWf]; (try (intro hw; simp [hw])))

@[simp] theorem execMemrd_keep (path : Path) (addr : BitVec 48) (len : Nat) (s : State) :
    OutWf s (execMemrd path addr len s) := by
  unfold execMemrd; (try dsimp only); (repeat' split) <;> (simp [OutWf]; (try (intro hw; simp [hw])))

@[simp] theorem execMemwr_keep (path : Path) (addr : BitVec 48) (data : List Byte) (s : State) :
    OutWf s (execMemwr path addr data s) := by
  unfold execMemwr; dsimp only
  have h := hostCall_keep s path
  generalize hostCall s path = u at h ⊢
  (repeat' split) <;> simp only [OutWf] <;>
    first
    | exact h
    | exact ⟨by simp [h.1], fun hw => by simpa using h.2 hw⟩
    | exact ⟨by simp [h.1], fun hw => by
        rw [(dpWrite_keep _ _ _ _).2]; exact (dpDrainBut_keep _ _).2 (h.2 hw)⟩
    | exact ⟨by simp [h.1], fun hw => (memPut_keep _ _ _).2 ((dpDrainAll_keep _).2 (h.2 hw))⟩

@[simp] theorem execDpDataWrite_keep (path : Path) (n : Fin 4) (data : List Byte) (s : State) :
    OutWf s (execDpDataWrite path n data s) := by
  unfold execDpDataWrite; apply clocked_wf; (try dsimp only); (repeat' split) <;> (simp [OutWf]; (try (intro hw; simp [hw])))

@[simp] theorem execDpDataRead_keep (path : Path) (n : Fin 4) (len : Nat) (s : State) :
    OutWf s (execDpDataRead path n len s) := by
  unfold execDpDataRead; apply clocked_wf; (try dsimp only); (repeat' split) <;> (simp [OutWf]; (try (intro hw; simp [hw])))

@[simp] theorem execDpAddrWrite_keep (path : Path) (n : Fin 4) (addr : BitVec 48) (s : State) :
    OutWf s (execDpAddrWrite path n addr s) := by
  unfold execDpAddrWrite; apply clocked_wf; (try dsimp only); (repeat' split) <;> (simp [OutWf]; (try (intro hw; simp [hw])))

@[simp] theorem execDpLockWrite_keep (path : Path) (n : Fin 4) (owner : BitVec 16) (s : State) :
    OutWf s (execDpLockWrite path n owner s) := by
  unfold execDpLockWrite; apply clocked_wf; (try dsimp only); (repeat' split) <;> (simp [OutWf]; (try (intro hw; simp [hw])))

@[simp] theorem execDpLockRelease_keep (path : Path) (n : Fin 4) (owner : BitVec 16) (s : State) :
    OutWf s (execDpLockRelease path n owner s) := by
  unfold execDpLockRelease; apply clocked_wf; (try dsimp only); (repeat' split) <;> (simp [OutWf]; (try (intro hw; simp [hw])))

@[simp] theorem execDcRingTailWrite_keep (n : Fin 256) (v : W32) (s : State) :
    OutWf s (execDcRingTailWrite n v s) := by
  unfold execDcRingTailWrite; apply clocked_wf; (simp [OutWf]; (try (intro hw; simp [hw])))

@[simp] theorem execMailboxDoorbell_keep (ch : MbChan) (s : State) :
    OutWf s (execMailboxDoorbell ch s) := by
  unfold execMailboxDoorbell; (try (first | apply clocked_wf | apply powered_wf)); (repeat' split) <;> (simp [OutWf]; (try (intro hw; simp [hw])))

@[simp] theorem execRimIrqEdge_keep (s : State) :
    OutWf s (execRimIrqEdge s) := by
  unfold execRimIrqEdge; apply clocked_wf; (simp [OutWf]; (try (intro hw; simp [hw])))

@[simp] theorem execPpsEdge_keep (offset : Int) (s : State) :
    OutWf s (execPpsEdge offset s) := by
  unfold execPpsEdge; (try (first | apply clocked_wf | apply powered_wf)); (simp [OutWf]; (try (intro hw; simp [hw])))

@[simp] theorem execFlitReceive_keep (n : Fin 6) (f : Flit) (s : State) :
    OutWf s (execFlitReceive n f s) := by
  unfold execFlitReceive; apply clocked_wf; (try dsimp only); (repeat' split) <;> (simp [OutWf]; (try (intro hw; simp [hw])))

end Sys2Proof.Machine
end

