-- ==== Sys2Proof/Laws/PerInstr.lean ====
section
/-! SUPPORT. Statements made of every command, one lemma per constructor: a command is well formed exactly
when the MSQ instruction or schedule word it carries passes the field checks of R132 or R196. -/

namespace Sys2Proof

/-- The MSQ instruction a command issues (R132). -/
def Instr.msq : Instr → Option MsqOp
  | .msqNop _ => some (.nop)
  | .halt _ code => some (.halt code)
  | .msqLoop _ lvl count1 last => some (.loop lvl count1 last)
  | .msqJmp _ target => some (.jmp target)
  | .brc _ cond neg lvl target => some (.brc cond neg lvl target)
  | .wld _ f => some (.wld f)
  | .wrelay _ f => some (.wrelay f)
  | .wdyn _ f => some (.wdyn f)
  | .mma _ f => some (.mma f)
  | .mmaz _ f => some (.mmaz f)
  | .drain _ f => some (.drain f)
  | .scl _ f => some (.scl f)
  | .scls _ kind ch => some (.scls kind ch)
  | .zpc _ f => some (.zpc f)
  | .qwait _ f => some (.qwait f)
  | .semsig _ f => some (.semsig f)
  | .semwait _ f => some (.semwait f)
  | .bar _ bid => some (.bar bid)
  | .fence _ => some (.fence)
  | .drainall _ mask => some (.drainall mask)
  | .ctxsw _ ctx force mask => some (.ctxsw ctx force mask)
  | .ptok _ duty => some (.ptok duty)
  | .stat _ perTensor unit winLen => some (.stat perTensor unit winLen)
  | .tag _ l1 => some (.tag l1)
  | .trap _ code => some (.trap code)
  | _ => none

/-- The schedule word a command issues, with the fabric unit it issues at (R195). -/
def Instr.sched : Instr → Option (Nat × SwHead × SwOp)
  | .swNop _ f h => some (f.val, h, .nop)
  | .swLoop _ f h lvl count1 last => some (f.val, h, .loop lvl count1 last)
  | .swJmp _ f h target => some (f.val, h, .jmp target)
  | .pset _ f h pd cond arg neg => some (f.val, h, .pset pd cond arg neg)
  | .switch _ f h force mask qna qnb => some (f.val, h, .switch force mask qna qnb)
  | .tagset _ f h t => some (f.val, h, .tagset t)
  | .mov _ k h c => some (k.val, h, .cu .mov c)
  | .cvt _ k h c => some (k.val, h, .cu .cvt c)
  | .add _ k h c => some (k.val, h, .cu .add c)
  | .sub _ k h c => some (k.val, h, .cu .sub c)
  | .mul _ k h c => some (k.val, h, .cu .mul c)
  | .fma _ k h c => some (k.val, h, .cu .fma c)
  | .min _ k h c => some (k.val, h, .cu .min c)
  | .max _ k h c => some (k.val, h, .cu .max c)
  | .cmp _ k h c => some (k.val, h, .cu .cmp c)
  | .sel _ k h c => some (k.val, h, .cu .sel c)
  | .and _ k h c => some (k.val, h, .cu .and c)
  | .or _ k h c => some (k.val, h, .cu .or c)
  | .xor _ k h c => some (k.val, h, .cu .xor c)
  | .shl _ k h c => some (k.val, h, .cu .shl c)
  | .shr _ k h c => some (k.val, h, .cu .shr c)
  | .exp2 _ k h c => some (k.val, h, .cu .exp2 c)
  | .log2 _ k h c => some (k.val, h, .cu .log2 c)
  | .rcp _ k h c => some (k.val, h, .cu .rcp c)
  | .rsq _ k h c => some (k.val, h, .cu .rsq c)
  | .rsum _ k h c => some (k.val, h, .cu .rsum c)
  | .rmax _ k h c => some (k.val, h, .cu .rmax c)
  | .mem _ k h m => some (48 + k.val, h, .mem m)
  | .agset _ k h ag part v => some (48 + k.val, h, .agset ag.toNat part.toNat v)
  | _ => none

end Sys2Proof

namespace Sys2Proof.Laws

/-- A command is well formed exactly when the word it carries, if any, has no field out of range. -/
def Fields.Statement (i : Instr) : Prop :=
  i.ok = (i.msq.all MsqOp.ok && i.sched.all fun x => SwOp.ok x.1 x.2.1 x.2.2)

theorem Fields.stroke (w : WellIx) : Fields.Statement (.stroke w) := rfl
theorem Fields.crossingWordArrival (w : WellIx) (row : Fin 24) (east : Bool) (express : Bool) :
    Fields.Statement (.crossingWordArrival w row east express) := rfl
theorem Fields.sidePortWrite (w : WellIx) (e : Fin 768) (wd : Word) : Fields.Statement (.sidePortWrite w e wd) := rfl
theorem Fields.semaphorePortUpdate (w : WellIx) (e : Fin 768) (sel : Bool) (n : BitVec 16) :
    Fields.Statement (.semaphorePortUpdate w e sel n) := rfl
theorem Fields.registerWrite (off : BitVec 26) (wide : Bool) (v : W64) :
    Fields.Statement (.registerWrite off wide v) := rfl
theorem Fields.msqNop (t : Thread) :
    Fields.Statement (.msqNop t) := (Bool.and_true _).symm
theorem Fields.halt (t : Thread) (code : BitVec 16) :
    Fields.Statement (.halt t code) := (Bool.and_true _).symm
theorem Fields.msqLoop (t : Thread) (lvl : BitVec 2) (count1 : BitVec 16) (last : BitVec 8) :
    Fields.Statement (.msqLoop t lvl count1 last) := (Bool.and_true _).symm
theorem Fields.msqJmp (t : Thread) (target : BitVec 8) :
    Fields.Statement (.msqJmp t target) := (Bool.and_true _).symm
theorem Fields.brc (t : Thread) (cond : BitVec 4) (neg : Bool) (lvl : BitVec 2) (target : BitVec 8) :
    Fields.Statement (.brc t cond neg lvl target) := (Bool.and_true _).symm
theorem Fields.wld (t : Thread) (f : WldF) :
    Fields.Statement (.wld t f) := (Bool.and_true _).symm
theorem Fields.wrelay (t : Thread) (f : WrelayF) :
    Fields.Statement (.wrelay t f) := (Bool.and_true _).symm
theorem Fields.wdyn (t : Thread) (f : WdynF) :
    Fields.Statement (.wdyn t f) := (Bool.and_true _).symm
theorem Fields.mma (t : Thread) (f : MmaF) :
    Fields.Statement (.mma t f) := (Bool.and_true _).symm
theorem Fields.mmaz (t : Thread) (f : MmaF) :
    Fields.Statement (.mmaz t f) := (Bool.and_true _).symm
theorem Fields.drain (t : Thread) (f : DrainF) :
    Fields.Statement (.drain t f) := (Bool.and_true _).symm
theorem Fields.scl (t : Thread) (f : SclF) :
    Fields.Statement (.scl t f) := (Bool.and_true _).symm
theorem Fields.scls (t : Thread) (kind : Bool) (ch : BitVec 2) :
    Fields.Statement (.scls t kind ch) := (Bool.and_true _).symm
theorem Fields.zpc (t : Thread) (f : ZpcF) :
    Fields.Statement (.zpc t f) := (Bool.and_true _).symm
theorem Fields.qwait (t : Thread) (f : SemF) :
    Fields.Statement (.qwait t f) := (Bool.and_true _).symm
theorem Fields.semsig (t : Thread) (f : SemF) :
    Fields.Statement (.semsig t f) := (Bool.and_true _).symm
theorem Fields.semwait (t : Thread) (f : SemF) :
    Fields.Statement (.semwait t f) := (Bool.and_true _).symm
theorem Fields.bar (t : Thread) (bid : BitVec 4) :
    Fields.Statement (.bar t bid) := (Bool.and_true _).symm
theorem Fields.fence (t : Thread) :
    Fields.Statement (.fence t) := (Bool.and_true _).symm
theorem Fields.drainall (t : Thread) (mask : BitVec 4) :
    Fields.Statement (.drainall t mask) := (Bool.and_true _).symm
theorem Fields.ctxsw (t : Thread) (ctx : BitVec 2) (force : Bool) (mask : BitVec 4) :
    Fields.Statement (.ctxsw t ctx force mask) := (Bool.and_true _).symm
theorem Fields.threadWaitEnd (t : Thread) : Fields.Statement (.threadWaitEnd t) := rfl
theorem Fields.threadContextSwitch (t : Thread) : Fields.Statement (.threadContextSwitch t) := rfl
theorem Fields.ptok (t : Thread) (duty : BitVec 7) :
    Fields.Statement (.ptok t duty) := (Bool.and_true _).symm
theorem Fields.stat (t : Thread) (perTensor : Bool) (unit : Bool) (winLen : BitVec 16) :
    Fields.Statement (.stat t perTensor unit winLen) := (Bool.and_true _).symm
theorem Fields.tag (t : Thread) (l1 : BitVec 12) :
    Fields.Statement (.tag t l1) := (Bool.and_true _).symm
theorem Fields.trap (t : Thread) (code : BitVec 16) :
    Fields.Statement (.trap t code) := (Bool.and_true _).symm
theorem Fields.wsEccWriteback (t : Thread) : Fields.Statement (.wsEccWriteback t) := rfl
theorem Fields.relayLineArrival (t : Thread) : Fields.Statement (.relayLineArrival t) := rfl
theorem Fields.msqStart (t : Thread) (ctx : BitVec 2) (swflag : Bool) :
    Fields.Statement (.msqStart t ctx swflag) := rfl
theorem Fields.msqStop (t : Thread) (ctx : BitVec 2) (swflag : Bool) (start : Bool) :
    Fields.Statement (.msqStop t ctx swflag start) := rfl
theorem Fields.meScaleWrite (t : Thread) (n : Fin 256) (v : W32) : Fields.Statement (.meScaleWrite t n v) := rfl
theorem Fields.statCtrlWrite (u : StatUnit) (v : W32) : Fields.Statement (.statCtrlWrite u v) := rfl
theorem Fields.statWindowEnd (u : StatUnit) : Fields.Statement (.statWindowEnd u) := rfl
theorem Fields.swNop (w : WellIx) (f : UnitIx) (h : SwHead) :
    Fields.Statement (.swNop w f h) := rfl
theorem Fields.swLoop (w : WellIx) (f : UnitIx) (h : SwHead) (lvl : BitVec 2) (count1 : BitVec 16) (last : BitVec 9) :
    Fields.Statement (.swLoop w f h lvl count1 last) := rfl
theorem Fields.swJmp (w : WellIx) (f : UnitIx) (h : SwHead) (target : BitVec 9) :
    Fields.Statement (.swJmp w f h target) := rfl
theorem Fields.pset (w : WellIx) (f : UnitIx) (h : SwHead) (pd : BitVec 4) (cond : BitVec 4) (arg : BitVec 4) (neg : Bool) :
    Fields.Statement (.pset w f h pd cond arg neg) := rfl
theorem Fields.switch (w : WellIx) (f : UnitIx) (h : SwHead) (force : Bool) (mask : BitVec 7) (qna : BitVec 4) (qnb : BitVec 4) :
    Fields.Statement (.switch w f h force mask qna qnb) := rfl
theorem Fields.tagset (w : WellIx) (f : UnitIx) (h : SwHead) (t : BitVec 6) :
    Fields.Statement (.tagset w f h t) := rfl
theorem Fields.mov (w : WellIx) (k : Fin 48) (h : SwHead) (c : CuF) :
    Fields.Statement (.mov w k h c) := rfl
theorem Fields.cvt (w : WellIx) (k : Fin 48) (h : SwHead) (c : CuF) :
    Fields.Statement (.cvt w k h c) := rfl
theorem Fields.add (w : WellIx) (k : Fin 48) (h : SwHead) (c : CuF) :
    Fields.Statement (.add w k h c) := rfl
theorem Fields.sub (w : WellIx) (k : Fin 48) (h : SwHead) (c : CuF) :
    Fields.Statement (.sub w k h c) := rfl
theorem Fields.mul (w : WellIx) (k : Fin 48) (h : SwHead) (c : CuF) :
    Fields.Statement (.mul w k h c) := rfl
theorem Fields.fma (w : WellIx) (k : Fin 48) (h : SwHead) (c : CuF) :
    Fields.Statement (.fma w k h c) := rfl
theorem Fields.min (w : WellIx) (k : Fin 48) (h : SwHead) (c : CuF) :
    Fields.Statement (.min w k h c) := rfl
theorem Fields.max (w : WellIx) (k : Fin 48) (h : SwHead) (c : CuF) :
    Fields.Statement (.max w k h c) := rfl
theorem Fields.cmp (w : WellIx) (k : Fin 48) (h : SwHead) (c : CuF) :
    Fields.Statement (.cmp w k h c) := rfl
theorem Fields.sel (w : WellIx) (k : Fin 48) (h : SwHead) (c : CuF) :
    Fields.Statement (.sel w k h c) := rfl
theorem Fields.and (w : WellIx) (k : Fin 48) (h : SwHead) (c : CuF) :
    Fields.Statement (.and w k h c) := rfl
theorem Fields.or (w : WellIx) (k : Fin 48) (h : SwHead) (c : CuF) :
    Fields.Statement (.or w k h c) := rfl
theorem Fields.xor (w : WellIx) (k : Fin 48) (h : SwHead) (c : CuF) :
    Fields.Statement (.xor w k h c) := rfl
theorem Fields.shl (w : WellIx) (k : Fin 48) (h : SwHead) (c : CuF) :
    Fields.Statement (.shl w k h c) := rfl
theorem Fields.shr (w : WellIx) (k : Fin 48) (h : SwHead) (c : CuF) :
    Fields.Statement (.shr w k h c) := rfl
theorem Fields.exp2 (w : WellIx) (k : Fin 48) (h : SwHead) (c : CuF) :
    Fields.Statement (.exp2 w k h c) := rfl
theorem Fields.log2 (w : WellIx) (k : Fin 48) (h : SwHead) (c : CuF) :
    Fields.Statement (.log2 w k h c) := rfl
theorem Fields.rcp (w : WellIx) (k : Fin 48) (h : SwHead) (c : CuF) :
    Fields.Statement (.rcp w k h c) := rfl
theorem Fields.rsq (w : WellIx) (k : Fin 48) (h : SwHead) (c : CuF) :
    Fields.Statement (.rsq w k h c) := rfl
theorem Fields.rsum (w : WellIx) (k : Fin 48) (h : SwHead) (c : CuF) :
    Fields.Statement (.rsum w k h c) := rfl
theorem Fields.rmax (w : WellIx) (k : Fin 48) (h : SwHead) (c : CuF) :
    Fields.Statement (.rmax w k h c) := rfl
theorem Fields.mem (w : WellIx) (k : Fin 48) (h : SwHead) (m : MemF) :
    Fields.Statement (.mem w k h m) := rfl
theorem Fields.agset (w : WellIx) (k : Fin 48) (h : SwHead) (ag : BitVec 2) (part : BitVec 3) (payload : W64) :
    Fields.Statement (.agset w k h ag part payload) := rfl
theorem Fields.cisternEccWriteback (w : WellIx) (k : Fin 48) : Fields.Statement (.cisternEccWriteback w k) := rfl
theorem Fields.wellSwitch (w : WellIx) : Fields.Statement (.wellSwitch w) := rfl
theorem Fields.sfStart (w : WellIx) (ctx : BitVec 2) : Fields.Statement (.sfStart w ctx) := rfl
theorem Fields.sfStop (w : WellIx) (ctx : BitVec 2) (start : Bool) : Fields.Statement (.sfStop w ctx start) := rfl
theorem Fields.smwWrite (w : WellIx) (a : SmwTarget) (v : W64) : Fields.Statement (.smwWrite w a v) := rfl
theorem Fields.sfCommitGo (w : WellIx) (ctx : BitVec 2) : Fields.Statement (.sfCommitGo w ctx) := rfl
theorem Fields.commitComplete (w : WellIx) : Fields.Statement (.commitComplete w) := rfl
theorem Fields.sfCommitUnload (w : WellIx) (ctx : BitVec 2) : Fields.Statement (.sfCommitUnload w ctx) := rfl
theorem Fields.unloadComplete (w : WellIx) : Fields.Statement (.unloadComplete w) := rfl
theorem Fields.sfCaptureArm (w : WellIx) (at_ : W64) (onStall : Bool) :
    Fields.Statement (.sfCaptureArm w at_ onStall) := rfl
theorem Fields.sfCaptureNow (w : WellIx) : Fields.Statement (.sfCaptureNow w) := rfl
theorem Fields.captureTaken (w : WellIx) : Fields.Statement (.captureTaken w) := rfl
theorem Fields.sqEnable (w : WellIx) (e : Fin 768) (cfg : W32) : Fields.Statement (.sqEnable w e cfg) := rfl
theorem Fields.sqSemWrite (w : WellIx) (e : Fin 768) (v : W32) : Fields.Statement (.sqSemWrite w e v) := rfl
theorem Fields.spillWrite (w : WellIx) (e : Fin 768) : Fields.Statement (.spillWrite w e) := rfl
theorem Fields.refillRead (w : WellIx) (e : Fin 768) : Fields.Statement (.refillRead w e) := rfl
theorem Fields.refillLanded (w : WellIx) (e : Fin 768) : Fields.Statement (.refillLanded w e) := rfl
theorem Fields.freezeWatchExpiry (w : WellIx) : Fields.Statement (.freezeWatchExpiry w) := rfl
theorem Fields.waitWatchExpiry (w : WellIx) : Fields.Statement (.waitWatchExpiry w) := rfl
theorem Fields.pmpArm (p : PumpIx) (c : StreamIx) : Fields.Statement (.pmpArm p c) := rfl
theorem Fields.pmpCancel (p : PumpIx) (c : StreamIx) : Fields.Statement (.pmpCancel p c) := rfl
theorem Fields.pmpFlush (p : PumpIx) (c : StreamIx) : Fields.Statement (.pmpFlush p c) := rfl
theorem Fields.descriptorCheck (p : PumpIx) (c : StreamIx) (host : Line) (hostErr : Bool) :
    Fields.Statement (.descriptorCheck p c host hostErr) := rfl
theorem Fields.pumpReadIssue (p : PumpIx) : Fields.Statement (.pumpReadIssue p) := rfl
theorem Fields.pumpWriteIssue (p : PumpIx) : Fields.Statement (.pumpWriteIssue p) := rfl
theorem Fields.readBucketReturn (p : PumpIx) (c : StreamIx) : Fields.Statement (.readBucketReturn p c) := rfl
theorem Fields.writeBucketComplete (p : PumpIx) (c : StreamIx) (i : Nat) :
    Fields.Statement (.writeBucketComplete p c i) := rfl
theorem Fields.cancelComplete (p : PumpIx) (c : StreamIx) : Fields.Statement (.cancelComplete p c) := rfl
theorem Fields.tteSample (p : PumpIx) (c : StreamIx) : Fields.Statement (.tteSample p c) := rfl
theorem Fields.barrierComplete (p : PipeIx) (b : Fin 16) : Fields.Statement (.barrierComplete p b) := rfl
theorem Fields.segmentContextLoad (p : PipeIx) (seg : Fin 16) : Fields.Statement (.segmentContextLoad p seg) := rfl
theorem Fields.regrd (path : Path) (off : BitVec 26) (wide : Bool) : Fields.Statement (.regrd path off wide) := rfl
theorem Fields.regwr (path : Path) (off : BitVec 26) (wide : Bool) (v : W64) :
    Fields.Statement (.regwr path off wide v) := rfl
theorem Fields.memrd (path : Path) (addr : BitVec 48) (len : Nat) : Fields.Statement (.memrd path addr len) := rfl
theorem Fields.memwr (path : Path) (addr : BitVec 48) (data : List Byte) :
    Fields.Statement (.memwr path addr data) := rfl
theorem Fields.dbell (path : Path) (ring : BitVec 8) (tail : W32) : Fields.Statement (.dbell path ring tail) := rfl
theorem Fields.hrdCompletion (id : Nat) (data : Line) (err : Bool) :
    Fields.Statement (.hrdCompletion id data err) := rfl
theorem Fields.hwrCompletion (id : Nat) (err : Bool) : Fields.Statement (.hwrCompletion id err) := rfl
theorem Fields.ucieModuleDown (m : Fin 2) : Fields.Statement (.ucieModuleDown m) := rfl
theorem Fields.ucieModuleTrained (m : Fin 2) (rate : BitVec 3) : Fields.Statement (.ucieModuleTrained m rate) := rfl
theorem Fields.hostAccessTimeout (id : Nat) : Fields.Statement (.hostAccessTimeout id) := rfl
theorem Fields.mailboxDoorbell (ch : MbChan) : Fields.Statement (.mailboxDoorbell ch) := rfl
theorem Fields.mailboxResponse : Fields.Statement .mailboxResponse := rfl
theorem Fields.mbRstatRead (ch : MbChan) : Fields.Statement (.mbRstatRead ch) := rfl
theorem Fields.load (base : W64) (p0 : WellIx) (reversed : Bool) (task : W64) :
    Fields.Statement (.load base p0 reversed task) := rfl
theorem Fields.unload (p : PipeIx) : Fields.Statement (.unload p) := rfl
theorem Fields.reload (p : PipeIx) : Fields.Statement (.reload p) := rfl
theorem Fields.setMode (mode : BitVec 2) : Fields.Statement (.setMode mode) := rfl
theorem Fields.setCap (watts : BitVec 9) : Fields.Statement (.setCap watts) := rfl
theorem Fields.setLattol (us : W32) : Fields.Statement (.setLattol us) := rfl
theorem Fields.telemetry (selector : W64) : Fields.Statement (.telemetry selector) := rfl
theorem Fields.logRead (n : W32) : Fields.Statement (.logRead n) := rfl
theorem Fields.membershipJoin (id : BitVec 10) (topo : Topology) : Fields.Statement (.membershipJoin id topo) := rfl
theorem Fields.membershipLeave : Fields.Statement .membershipLeave := rfl
theorem Fields.dpDataWrite (path : Path) (n : Fin 4) (data : List Byte) :
    Fields.Statement (.dpDataWrite path n data) := rfl
theorem Fields.dpDataRead (path : Path) (n : Fin 4) (len : Nat) : Fields.Statement (.dpDataRead path n len) := rfl
theorem Fields.dpAddrWrite (path : Path) (n : Fin 4) (addr : BitVec 48) :
    Fields.Statement (.dpAddrWrite path n addr) := rfl
theorem Fields.dpLockWrite (path : Path) (n : Fin 4) (owner : BitVec 16) :
    Fields.Statement (.dpLockWrite path n owner) := rfl
theorem Fields.dpLockRelease (path : Path) (n : Fin 4) (owner : BitVec 16) :
    Fields.Statement (.dpLockRelease path n owner) := rfl
theorem Fields.dcRingTailWrite (n : Fin 256) (v : W32) : Fields.Statement (.dcRingTailWrite n v) := rfl
theorem Fields.dcCringHeadWrite (n : Fin 256) (v : W32) : Fields.Statement (.dcCringHeadWrite n v) := rfl
theorem Fields.intakeDescriptorFetch (host : Line) (hostErr : Bool) :
    Fields.Statement (.intakeDescriptorFetch host hostErr) := rfl
theorem Fields.taskAdmit (p : PipeIx) : Fields.Statement (.taskAdmit p) := rfl
theorem Fields.markerReport (p : PumpIx) (c : StreamIx) (wd : Word) : Fields.Statement (.markerReport p c wd) := rfl
theorem Fields.completionRecordWrite (n : Fin 256) : Fields.Statement (.completionRecordWrite n) := rfl
theorem Fields.completionRecordWritten (n : Fin 256) : Fields.Statement (.completionRecordWritten n) := rfl
theorem Fields.coalesceTimeout (n : Fin 256) : Fields.Statement (.coalesceTimeout n) := rfl
theorem Fields.hiIntMaskWrite (v : W64) : Fields.Statement (.hiIntMaskWrite v) := rfl
theorem Fields.sourceMap (s : Fin 4096) (v : W64) : Fields.Statement (.sourceMap s v) := rfl
theorem Fields.sourceUpdate (s : Fin 4096) (v : W64) : Fields.Statement (.sourceUpdate s v) := rfl
theorem Fields.sourceDrain (s : Fin 4096) : Fields.Statement (.sourceDrain s) := rfl
theorem Fields.sourceFreed (s : Fin 4096) : Fields.Statement (.sourceFreed s) := rfl
theorem Fields.ringEnable (n : Fin 256) (cfg : W32) : Fields.Statement (.ringEnable n cfg) := rfl
theorem Fields.ringDisable (n : Fin 256) (cfg : W32) : Fields.Statement (.ringDisable n cfg) := rfl
theorem Fields.admitControl (p : PipeIx) (admitting : Bool) (throughput : Bool) :
    Fields.Statement (.admitControl p admitting throughput) := rfl
theorem Fields.frameIntake (u : Fin 2) : Fields.Statement (.frameIntake u) := rfl
theorem Fields.ceWriteback (n : Fin 8) : Fields.Statement (.ceWriteback n) := rfl
theorem Fields.patrolScrubRead (n : Fin 8) : Fields.Statement (.patrolScrubRead n) := rfl
theorem Fields.refresh (n : Fin 8) (ch : Fin 4) (bank : Fin 16) (hot : Bool) :
    Fields.Statement (.refresh n ch bank hot) := rfl
theorem Fields.linkEnable (n : Fin 6) (v : W32) : Fields.Statement (.linkEnable n v) := rfl
theorem Fields.linkTrained (n : Fin 6) (lanes : BitVec 8) : Fields.Statement (.linkTrained n lanes) := rfl
theorem Fields.linkTrainRetry (n : Fin 6) : Fields.Statement (.linkTrainRetry n) := rfl
theorem Fields.flitReceive (n : Fin 6) (f : Flit) : Fields.Statement (.flitReceive n f) := rfl
theorem Fields.nakReceive (n : Fin 6) (seq : BitVec 9) : Fields.Statement (.nakReceive n seq) := rfl
theorem Fields.linkAckTimeout (n : Fin 6) : Fields.Statement (.linkAckTimeout n) := rfl
theorem Fields.linkLockLoss (n : Fin 6) : Fields.Statement (.linkLockLoss n) := rfl
theorem Fields.packetForward (n : Fin 6) (pk : Packet) : Fields.Statement (.packetForward n pk) := rfl
theorem Fields.membHello (n : Fin 6) (h : Hello) : Fields.Statement (.membHello n h) := rfl
theorem Fields.membUpdate (n : Fin 6) (u : LinkState) : Fields.Statement (.membUpdate n u) := rfl
theorem Fields.joinAck : Fields.Statement .joinAck := rfl
theorem Fields.leaveComplete : Fields.Statement .leaveComplete := rfl
theorem Fields.peerLoss (id : BitVec 10) : Fields.Statement (.peerLoss id) := rfl
theorem Fields.streamPacketArrival (pk : Packet) : Fields.Statement (.streamPacketArrival pk) := rfl
theorem Fields.creditRequest (pk : Packet) : Fields.Statement (.creditRequest pk) := rfl
theorem Fields.creditReply (pk : Packet) : Fields.Statement (.creditReply pk) := rfl
theorem Fields.complArrival (pk : Packet) : Fields.Statement (.complArrival pk) := rfl
theorem Fields.pwrArrival (pk : Packet) : Fields.Statement (.pwrArrival pk) := rfl
theorem Fields.prdArrival (pk : Packet) : Fields.Statement (.prdArrival pk) := rfl
theorem Fields.sterrArrival (pk : Packet) : Fields.Statement (.sterrArrival pk) := rfl
theorem Fields.e2eTimeout (p : PumpIx) (c : StreamIx) : Fields.Statement (.e2eTimeout p c) := rfl
theorem Fields.linkScaleWindowEnd (n : Fin 6) (p : PumpIx) (c : StreamIx) :
    Fields.Statement (.linkScaleWindowEnd n p c) := rfl
theorem Fields.tbrefLoss : Fields.Statement .tbrefLoss := rfl
theorem Fields.tbrefReturn : Fields.Statement .tbrefReturn := rfl
theorem Fields.ppsEdge (offset : Int) : Fields.Statement (.ppsEdge offset) := rfl
theorem Fields.ppsHoldover : Fields.Statement .ppsHoldover := rfl
theorem Fields.timeExchange : Fields.Statement .timeExchange := rfl
theorem Fields.timePacketArrival (n : Fin 6) (pk : Packet) : Fields.Statement (.timePacketArrival n pk) := rfl
theorem Fields.tbSet (v : W64) : Fields.Statement (.tbSet v) := rfl
theorem Fields.tbTrimWrite (v : W32) : Fields.Statement (.tbTrimWrite v) := rfl
theorem Fields.tbDtRead (path : Path) (half : Option Bool) : Fields.Statement (.tbDtRead path half) := rfl
theorem Fields.tsyncEdge : Fields.Statement .tsyncEdge := rfl
theorem Fields.triggerArm (k : Fin 8) (v : W32) : Fields.Statement (.triggerArm k v) := rfl
theorem Fields.triggerEdge (k : Fin 8) : Fields.Statement (.triggerEdge k) := rfl
theorem Fields.csqWait (c : Fin 4) (n : Fin 8) (try_ : Bool) (rd : Fin 32) (rs1 : W64) (rs2 : W64) :
    Fields.Statement (.csqWait c n try_ rd rs1 rs2) := rfl
theorem Fields.csqSig (c : Fin 4) (n : Fin 8) (rs1 : W64) (rs2 : W64) : Fields.Statement (.csqSig c n rs1 rs2) := rfl
theorem Fields.csqPeek (c : Fin 4) (n : Fin 8) (rd : Fin 32) (rs1 : W64) :
    Fields.Statement (.csqPeek c n rd rs1) := rfl
theorem Fields.csqPush (c : Fin 4) (n : Fin 8) (try_ : Bool) (rd : Fin 32) (rs1 : W64) (vs2 : Fin 32) :
    Fields.Statement (.csqPush c n try_ rd rs1 vs2) := rfl
theorem Fields.csqPop (c : Fin 4) (n : Fin 8) (try_ : Bool) (vd : Fin 32) (rs1 : W64) :
    Fields.Statement (.csqPop c n try_ vd rs1) := rfl
theorem Fields.csqBar (c : Fin 4) (n : Fin 8) (rs1 : W64) : Fields.Statement (.csqBar c n rs1) := rfl
theorem Fields.scRun (c : Fin 4) (n : Fin 8) : Fields.Statement (.scRun c n) := rfl
theorem Fields.scHalt (c : Fin 4) (n : Fin 8) : Fields.Statement (.scHalt c n) := rfl
theorem Fields.scAccess (c : Fin 4) (n : Fin 8) (rd : Fin 32) (a : ScAccess) :
    Fields.Statement (.scAccess c n rd a) := rfl
theorem Fields.mpWatchdogExpiry : Fields.Statement .mpWatchdogExpiry := rfl
theorem Fields.telemetrySample : Fields.Statement .telemetrySample := rfl
theorem Fields.mpBusyMeasure (busy : BitVec 8) : Fields.Statement (.mpBusyMeasure busy) := rfl
theorem Fields.rimCellCycle (c : Fin 64) (pins : BitVec 32) (hard : W64) :
    Fields.Statement (.rimCellCycle c pins hard) := rfl
theorem Fields.rimWindowWrite (off : BitVec 15) (v : W64) : Fields.Statement (.rimWindowWrite off v) := rfl
theorem Fields.rimCommitGo (slot : Bool) : Fields.Statement (.rimCommitGo slot) := rfl
theorem Fields.rimCommitComplete : Fields.Statement .rimCommitComplete := rfl
theorem Fields.rimCommitUnload (slot : Bool) : Fields.Statement (.rimCommitUnload slot) := rfl
theorem Fields.rimSelect (slot : Bool) : Fields.Statement (.rimSelect slot) := rfl
theorem Fields.rimDeselect : Fields.Statement .rimDeselect := rfl
theorem Fields.rimCaptureArm (v : W64) : Fields.Statement (.rimCaptureArm v) := rfl
theorem Fields.rimCaptureNow : Fields.Statement .rimCaptureNow := rfl
theorem Fields.rimCaptureTaken : Fields.Statement .rimCaptureTaken := rfl
theorem Fields.rimStampEdge (k : Fin 8) : Fields.Statement (.rimStampEdge k) := rfl
theorem Fields.rimStampRead (k : Fin 8) : Fields.Statement (.rimStampRead k) := rfl
theorem Fields.rimIrqEdge : Fields.Statement .rimIrqEdge := rfl
theorem Fields.modeRequest (mode : BitVec 2) : Fields.Statement (.modeRequest mode) := rfl
theorem Fields.frequencyStep : Fields.Statement .frequencyStep := rfl
theorem Fields.regulatorSettled : Fields.Statement .regulatorSettled := rfl
theorem Fields.droopTrip (w : WellIx) (d : Fin 16) : Fields.Statement (.droopTrip w d) := rfl
theorem Fields.droopClear (w : WellIx) : Fields.Statement (.droopClear w) := rfl
theorem Fields.droopMarginWindow (w : WellIx) : Fields.Statement (.droopMarginWindow w) := rfl
theorem Fields.sensorSample (r : List Reading) : Fields.Statement (.sensorSample r) := rfl
theorem Fields.powerMeasure (mv : Nat) (ma : Nat) : Fields.Statement (.powerMeasure mv ma) := rfl
theorem Fields.thermalUpdate : Fields.Statement .thermalUpdate := rfl
theorem Fields.limiterStep (t : Thread) : Fields.Statement (.limiterStep t) := rfl
theorem Fields.operatingPointDecision : Fields.Statement .operatingPointDecision := rfl
theorem Fields.capUnmetDetect : Fields.Statement .capUnmetDetect := rfl
theorem Fields.thermalTrip (sensor : Fin 64) (t : BitVec 16) : Fields.Statement (.thermalTrip sensor t) := rfl
theorem Fields.wakeEntry : Fields.Statement .wakeEntry := rfl
theorem Fields.wakeExit (e : WakeEvent) : Fields.Statement (.wakeExit e) := rfl
theorem Fields.lattolWrite (v : W32) : Fields.Statement (.lattolWrite v) := rfl
theorem Fields.taskFaultReport (task : Fin 1024) (f : FaultInfo) : Fields.Statement (.taskFaultReport task f) := rfl
theorem Fields.pipelineReset (p : PipeIx) (f : FaultInfo) : Fields.Statement (.pipelineReset p f) := rfl
theorem Fields.pipelineReload (p : PipeIx) : Fields.Statement (.pipelineReload p) := rfl
theorem Fields.deviceFault (f : FaultInfo) : Fields.Statement (.deviceFault f) := rfl
theorem Fields.powerOnReset : Fields.Statement .powerOnReset := rfl
theorem Fields.warmReset : Fields.Statement .warmReset := rfl
theorem Fields.hiResetWarm (key : BitVec 16) (cold : Bool) : Fields.Statement (.hiResetWarm key cold) := rfl
theorem Fields.hiResetMp (key : BitVec 16) : Fields.Statement (.hiResetMp key) := rfl
theorem Fields.warmResetEffect (confirmed : Bool) : Fields.Statement (.warmResetEffect confirmed) := rfl
theorem Fields.supplyOutOfRange : Fields.Statement .supplyOutOfRange := rfl
theorem Fields.startPhase (env : StartEnv) : Fields.Statement (.startPhase env) := rfl
theorem Fields.partitionTestDone (part : Fin 143) (r : BistResult) :
    Fields.Statement (.partitionTestDone part r) := rfl
theorem Fields.attestGo : Fields.Statement .attestGo := rfl
theorem Fields.attestDone : Fields.Statement .attestDone := rfl
theorem Fields.rngRead : Fields.Statement .rngRead := rfl
theorem Fields.rngHealthFail : Fields.Statement .rngHealthFail := rfl
theorem Fields.otpProgram (path : Path) : Fields.Statement (.otpProgram path) := rfl
theorem Fields.debugChallenge : Fields.Statement .debugChallenge := rfl
theorem Fields.debugSubmit (level : BitVec 2) : Fields.Statement (.debugSubmit level) := rfl
theorem Fields.debugClose : Fields.Statement .debugClose := rfl
theorem Fields.keyEngineFault (complement : Bool) : Fields.Statement (.keyEngineFault complement) := rfl
theorem Fields.pmuEnable (en : Bool) : Fields.Statement (.pmuEnable en) := rfl
theorem Fields.pmuClear : Fields.Statement .pmuClear := rfl
theorem Fields.counterOverflow (n : Fin 32) : Fields.Statement (.counterOverflow n) := rfl
theorem Fields.bwWindowEnd : Fields.Statement .bwWindowEnd := rfl
theorem Fields.queueProbeSample (k : Fin 16) : Fields.Statement (.queueProbeSample k) := rfl
theorem Fields.tagSelect : Fields.Statement .tagSelect := rfl
theorem Fields.tagRecordWrite : Fields.Statement .tagRecordWrite := rfl
theorem Fields.resetRisingEdge (pin : ResetPin) : Fields.Statement (.resetRisingEdge pin) := rfl
theorem Fields.mpRestartComplete : Fields.Statement .mpRestartComplete := rfl
theorem Fields.sstCommitComplete (powerGood : Bool) : Fields.Statement (.sstCommitComplete powerGood) := rfl
theorem Fields.dataPortBucketComplete (n : Fin 4) : Fields.Statement (.dataPortBucketComplete n) := rfl
theorem Fields.hardSerialBlockTransfer (b : SerialBlock) (rx : List Byte) :
    Fields.Statement (.hardSerialBlockTransfer b rx) := rfl

end Sys2Proof.Laws
end

