-- ==== Sys2Proof/Laws/Regs.lean ====
section
/-! SUPPORT. Reading back what an update wrote: fields of registers, and the numbered pieces of the state
(wells, slices, units, queues, streams, ports, harts, rings), and the error log. -/

namespace Sys2Proof.Machine

/-! ### Fields of a 64-bit value -/

theorem bits_lt {w : Nat} (v : BitVec w) (lo len : Nat) : bits v lo len < 2 ^ len :=
  Nat.mod_lt _ (Nat.pow_pos (by decide))

theorem testBit_bits {w : Nat} (v : BitVec w) (lo len i : Nat) :
    (bits v lo len).testBit i = (decide (i < len) && v.getLsbD (lo + i)) := by
  simp [bits, Nat.testBit_mod_two_pow, Nat.testBit_shiftRight, BitVec.getLsbD]

theorem getLsbD_putBits (v : W64) (lo len x i : Nat) (hi : i < 64) :
    (putBits v lo len x).getLsbD i
      = if lo ≤ i ∧ i < lo + len then x.testBit (i - lo) else v.getLsbD i := by
  unfold putBits
  simp only [BitVec.getLsbD_or, BitVec.getLsbD_and, BitVec.getLsbD_not, BitVec.getLsbD_shiftLeft,
    BitVec.getLsbD_ofNat, Nat.testBit_two_pow_sub_one, Nat.testBit_mod_two_pow, hi, decide_true, Bool.true_and]
  by_cases h : lo ≤ i
  · have h1 : ¬ i < lo := by omega
    by_cases h2 : i < lo + len
    · have h3 : i - lo < len := by omega
      have h4 : i - lo < 64 := by omega
      simp [h, h1, h2, h3, h4]
    · have h3 : ¬ i - lo < len := by omega
      simp [h, h1, h2, h3]
  · have h1 : i < lo := by omega
    simp [h, h1]

theorem bits_putBits_same (v : W64) (lo len x : Nat) (h : lo + len ≤ 64) :
    bits (putBits v lo len x) lo len = x % 2 ^ len := by
  apply Nat.eq_of_testBit_eq
  intro i
  rw [testBit_bits, Nat.testBit_mod_two_pow]
  by_cases hi : i < len
  · rw [getLsbD_putBits _ _ _ _ _ (by omega)]
    simp [hi]
  · simp [hi]

theorem bits_putBits_other (v : W64) (lo len x lo' len' : Nat) (h : lo' + len' ≤ lo ∨ lo + len ≤ lo')
    (h' : lo' + len' ≤ 64) : bits (putBits v lo len x) lo' len' = bits v lo' len' := by
  apply Nat.eq_of_testBit_eq
  intro i
  rw [testBit_bits, testBit_bits]
  by_cases hi : i < len'
  · rw [getLsbD_putBits _ _ _ _ _ (by omega), if_neg (by omega)]
  · simp [hi]

theorem bitAt_putBits (v : W64) (lo len x i : Nat) (hi : i < 64) :
    bitAt (putBits v lo len x) i = if lo ≤ i ∧ i < lo + len then x.testBit (i - lo) else bitAt v i :=
  getLsbD_putBits v lo len x i hi

@[simp] theorem testBit_b2n (b : Bool) : (b2n b).testBit 0 = b := by cases b <;> decide
@[simp] theorem b2n_mod_two (b : Bool) : b2n b % 2 = b2n b := by cases b <;> decide

/-! ### Registers -/

theorem State.rd_setFld (s : State) (o l n x p : Nat) :
    (s.setFld o l n x).rd p = if p = o then putBits (s.rd o) l n x else s.rd p := State.rd_wr ..
theorem State.rd_setBit (s : State) (o l p : Nat) (b : Bool) :
    (s.setBit o l b).rd p = if p = o then putBits (s.rd o) l 1 (b2n b) else s.rd p := State.rd_wr ..
theorem State.rd_addSat (s : State) (o l n x p : Nat) : (s.addSat o l n x).rd p =
    if p = o then putBits (s.rd o) l n (Nat.min (s.fld o l n + x) (2 ^ n - 1)) else s.rd p := State.rd_wr ..
theorem State.rd_addWrap (s : State) (o l n p : Nat) : (s.addWrap o l n).rd p =
    if p = o then putBits (s.rd o) l n ((s.fld o l n + 1) % 2 ^ n) else s.rd p := State.rd_wr ..

/-- A register read sees the register part only. -/
theorem State.rd_of_regs {s t : State} (h : t.regs = s.regs) (o : Nat) : t.rd o = s.rd o :=
  congrArg (fun m => SMap.get regReset m o) h

theorem State.fld_setFld_same (s : State) (o l n x : Nat) (h : l + n ≤ 64) :
    (s.setFld o l n x).fld o l n = x % 2 ^ n := by
  unfold State.fld
  rw [State.rd_setFld, if_pos rfl, bits_putBits_same _ _ _ _ h]

theorem State.fld_setFld_other (s : State) (o l n x p l' n' : Nat)
    (h : p ≠ o ∨ ((l' + n' ≤ l ∨ l + n ≤ l') ∧ l' + n' ≤ 64)) :
    (s.setFld o l n x).fld p l' n' = s.fld p l' n' := by
  unfold State.fld
  rw [State.rd_setFld]
  split
  · subst_vars
    rcases h with h | ⟨h, h'⟩
    · exact absurd rfl h
    · exact bits_putBits_other _ _ _ _ _ _ h h'
  · rfl

theorem State.bit_setFld_other (s : State) (o l n x p i : Nat) (hi : i < 64)
    (h : p ≠ o ∨ i < l ∨ l + n ≤ i) : (s.setFld o l n x).bit p i = s.bit p i := by
  unfold State.bit
  rw [State.rd_setFld]
  split
  · subst_vars
    rw [bitAt_putBits _ _ _ _ _ hi, if_neg]
    rcases h with h | h
    · exact absurd rfl h
    · omega
  · rfl

theorem State.bit_setBit_same (s : State) (o l : Nat) (b : Bool) (h : l < 64) :
    (s.setBit o l b).bit o l = b := by
  unfold State.bit
  rw [State.rd_setBit, if_pos rfl, bitAt_putBits _ _ _ _ _ h, if_pos (by omega)]
  cases b <;> simp [b2n]

theorem State.fld_wr (s : State) (o : Nat) (v : W64) (p l n : Nat) :
    (s.wr o v).fld p l n = if p = o then bits v l n else s.fld p l n := by
  unfold State.fld; rw [State.rd_wr]; split <;> rfl
theorem State.bit_wr (s : State) (o : Nat) (v : W64) (p l : Nat) :
    (s.wr o v).bit p l = if p = o then bitAt v l else s.bit p l := by
  unfold State.bit; rw [State.rd_wr]; split <;> rfl
theorem State.fld_setBit_other (s : State) (o l : Nat) (b : Bool) (p l' n' : Nat)
    (h : p ≠ o ∨ ((l' + n' ≤ l ∨ l + 1 ≤ l') ∧ l' + n' ≤ 64)) :
    (s.setBit o l b).fld p l' n' = s.fld p l' n' := State.fld_setFld_other _ _ _ _ _ _ _ _ h
theorem State.bit_setBit_other (s : State) (o l : Nat) (b : Bool) (p i : Nat) (hi : i < 64)
    (h : p ≠ o ∨ i < l ∨ l + 1 ≤ i) : (s.setBit o l b).bit p i = s.bit p i :=
  State.bit_setFld_other _ _ _ _ _ _ _ hi h
theorem State.fld_addWrap_same (s : State) (o l n : Nat) (h : l + n ≤ 64) :
    (s.addWrap o l n).fld o l n = (s.fld o l n + 1) % 2 ^ n := by
  unfold State.addWrap; rw [State.fld_setFld_same _ _ _ _ _ h, Nat.mod_mod]
theorem State.fld_addWrap_other (s : State) (o l n p l' n' : Nat)
    (h : p ≠ o ∨ ((l' + n' ≤ l ∨ l + n ≤ l') ∧ l' + n' ≤ 64)) :
    (s.addWrap o l n).fld p l' n' = s.fld p l' n' := State.fld_setFld_other _ _ _ _ _ _ _ _ h
theorem State.bit_addWrap_other (s : State) (o l n p i : Nat) (hi : i < 64)
    (h : p ≠ o ∨ i < l ∨ l + n ≤ i) : (s.addWrap o l n).bit p i = s.bit p i :=
  State.bit_setFld_other _ _ _ _ _ _ _ hi h
theorem State.fld_addSat_same (s : State) (o l n x : Nat) (h : l + n ≤ 64) :
    (s.addSat o l n x).fld o l n = Nat.min (s.fld o l n + x) (2 ^ n - 1) := by
  unfold State.addSat; rw [State.fld_setFld_same _ _ _ _ _ h]
  exact Nat.mod_eq_of_lt (Nat.lt_of_le_of_lt (Nat.min_le_right _ _)
    (Nat.sub_lt (Nat.two_pow_pos n) (by decide)))
theorem State.fld_addSat_other (s : State) (o l n x p l' n' : Nat)
    (h : p ≠ o ∨ ((l' + n' ≤ l ∨ l + n ≤ l') ∧ l' + n' ≤ 64)) :
    (s.addSat o l n x).fld p l' n' = s.fld p l' n' := State.fld_setFld_other _ _ _ _ _ _ _ _ h
theorem State.bit_addSat_other (s : State) (o l n x p i : Nat) (hi : i < 64)
    (h : p ≠ o ∨ i < l ∨ l + n ≤ i) : (s.addSat o l n x).bit p i = s.bit p i :=
  State.bit_setFld_other _ _ _ _ _ _ _ hi h
theorem State.fld_lt (s : State) (o l n : Nat) : s.fld o l n < 2 ^ n := bits_lt _ _ _

/-! ### The error log -/

/-- What the overwriting of the oldest entry marks. -/
def markFull (s : State) (b : Bool) : State :=
  if b then (s.setBit rErrStatus 30 true).addSat rErrStatus 0 16 1 else s

@[simp] theorem markFull_err (s : State) (b : Bool) : (markFull s b).err = s.err := by cases b <;> rfl

theorem rd_markFull (s : State) (b : Bool) {o : Nat} (h : o ≠ rErrStatus) : (markFull s b).rd o = s.rd o := by
  cases b
  · rfl
  · simp [markFull, State.rd_addSat, State.rd_setBit, h]

theorem fld_markFull (s : State) (b : Bool) (o l n : Nat) (h : o ≠ rErrStatus ∨ (16 ≤ l ∧ (l + n ≤ 30 ∨ 31 ≤ l) ∧ l + n ≤ 64)) :
    (markFull s b).fld o l n = s.fld o l n := by
  cases b
  · rfl
  · show ((s.setBit rErrStatus 30 true).addSat rErrStatus 0 16 1).fld _ _ _ = _
    rw [State.fld_addSat_other, State.fld_setBit_other]
    · rcases h with h | ⟨_, h, h'⟩
      · exact .inl h
      · exact .inr ⟨h, h'⟩
    · rcases h with h | ⟨h, _, h'⟩
      · exact .inl h
      · exact .inr ⟨.inr h, h'⟩

/-- A register after a log entry. -/
theorem logEntry_rd (s : State) (f : FaultInfo) (c : Nat) (t p : Option Nat) {o : Nat} (h : o ≠ rErrHead)
    (h' : o ≠ rErrStatus) : (logEntry s f c t p).rd o = s.rd o := by
  unfold logEntry
  rw [State.rd_of_regs (signalVec_regs _ _)]
  exact (rd_markFull _ _ h').trans (by rw [State.rd_addWrap, if_neg h]; rfl)

/-- A field after a log entry: all but the head and the overflow fields of `ERR_STATUS`. -/
theorem logEntry_fld (s : State) (f : FaultInfo) (c : Nat) (t p : Option Nat) (o l n : Nat) (h : o ≠ rErrHead)
    (h' : o ≠ rErrStatus ∨ (16 ≤ l ∧ (l + n ≤ 30 ∨ 31 ≤ l) ∧ l + n ≤ 64)) :
    (logEntry s f c t p).fld o l n = s.fld o l n := by
  unfold logEntry
  rw [show ∀ (u : State) (v : Nat), (signalVec u v).fld o l n = u.fld o l n from
    fun u v => congrArg (bits · l n) (State.rd_of_regs (signalVec_regs u v) o)]
  exact (fld_markFull _ _ _ _ _ h').trans (by rw [State.fld_addWrap_other _ _ _ _ _ _ _ (.inl h)]; rfl)

theorem bit_fld (s : State) (o l : Nat) : s.bit o l = decide (s.fld o l 1 = 1) := by
  simp [State.bit, State.fld, bits, bitAt, BitVec.getLsbD, Nat.testBit_eq_decide_div_mod_eq, Nat.shiftRight_eq_div_pow]

theorem logEntry_bit (s : State) (f : FaultInfo) (c : Nat) (t p : Option Nat) (o l : Nat) (h : o ≠ rErrHead)
    (h' : o ≠ rErrStatus ∨ (16 ≤ l ∧ (l + 1 ≤ 30 ∨ 31 ≤ l) ∧ l + 1 ≤ 64)) :
    (logEntry s f c t p).bit o l = s.bit o l := by
  rw [bit_fld, bit_fld, logEntry_fld _ _ _ _ _ _ _ _ h h']

/-- A log entry stands where the head pointed, seen from any state with the same head and time. -/
theorem logEntry_logged (s u : State) (f : FaultInfo) (scope : Nat) (task pipe : Option Nat)
    (hd : u.fld rErrHead 0 32 = s.fld rErrHead 0 32) (ht : u.dt = s.dt) :
    Logged s (logEntry u f scope task pipe) f scope task pipe := by
  unfold Logged logEntry
  simp only [hd, ht]
  refine ⟨?_, ?_, ?_, ?_, ?_⟩
  iterate 4
    · simp only [signalVec_err]
      change SMap.get _ (markFull _ _ : State).err.log _ = _
      simp [SMap.get_set]
  · rw [show ∀ (u : State) (v : Nat), (signalVec u v).fld rErrHead 0 32 = u.fld rErrHead 0 32 from
      fun u v => congrArg (bits · 0 32) (State.rd_of_regs (signalVec_regs u v) _)]
    exact (fld_markFull _ _ _ _ _ (.inl (by decide))).trans (by
      rw [State.fld_addWrap_same _ _ _ _ (by decide)]; exact congrArg (fun x => (x + 1) % 2 ^ 32) hd)

/-- Nothing but the log, its registers and the interrupt message differs after an entry. -/
theorem logEntry_only (s : State) (f : FaultInfo) (c : Nat) (t p : Option Nat) :
    Only logParts s (logEntry s f c t p) := by
  intro q hq
  cases q <;> simp_all [Part.same, logParts]

/-! ### Numbered pieces of the state -/

@[simp] theorem Well.slice_setSlice (x : Well) (i : Nat) (y : Slice) : (x.setSlice i y).slice i = y := by
  simp [Well.slice, Well.setSlice]
theorem Well.slice_setSlice_other (x : Well) {i j : Nat} (y : Slice) (h : j ≠ i) :
    (x.setSlice i y).slice j = x.slice j := by simp [Well.slice, Well.setSlice, SMap.get_set_other _ _ h]
@[simp] theorem Well.unit_setUnit (x : Well) (f : Nat) (u : FUnit) : (x.setUnit f u).unit f = u := by
  simp [Well.unit, Well.setUnit]
theorem Well.unit_setUnit_other (x : Well) {f g : Nat} (u : FUnit) (h : g ≠ f) :
    (x.setUnit f u).unit g = x.unit g := by simp [Well.unit, Well.setUnit, SMap.get_set_other _ _ h]
@[simp] theorem Well.sq_setSq (x : Well) (e : Nat) (y : SqEntry) : (x.setSq e y).sq e = y := by
  simp [Well.sq, Well.setSq]
theorem Well.sq_setSq_other (x : Well) {e f : Nat} (y : SqEntry) (h : f ≠ e) :
    (x.setSq e y).sq f = x.sq f := by simp [Well.sq, Well.setSq, SMap.get_set_other _ _ h]
@[simp] theorem Well.bar_setBar (x : Well) (b : Nat) (y : Barrier) : (x.setBar b y).bar b = y := by
  simp [Well.bar, Well.setBar]
theorem Well.bar_setBar_other (x : Well) {b c : Nat} (y : Barrier) (h : c ≠ b) :
    (x.setBar b y).bar c = x.bar c := by simp [Well.bar, Well.setBar, SMap.get_set_other _ _ h]
@[simp] theorem Well.ctxState_setCtx (x : Well) (c : Nat) (y : CtxState) : (x.setCtx c y).ctxState c = y := by
  simp [Well.ctxState, Well.setCtx]
theorem Well.ctxState_setCtx_other (x : Well) {c d : Nat} (y : CtxState) (h : d ≠ c) :
    (x.setCtx c y).ctxState d = x.ctxState d := by simp [Well.ctxState, Well.setCtx, SMap.get_set_other _ _ h]
@[simp] theorem State.slc_setSlc (s : State) (w i : Nat) (y : Slice) : (s.setSlc w i y).slc w i = y := by
  simp [State.slc, State.setSlc]
@[simp] theorem State.sq_setSq (s : State) (w e : Nat) (x : SqEntry) : (s.setSq w e x).sq w e = x := by
  simp [State.sq, State.setSq]

@[simp] theorem State.mbox_setMbox (s : State) (k : Nat) (b : Mbox) : (s.setMbox k b).mbox k = b := by
  simp [State.mbox, State.setMbox]
theorem State.mbox_setMbox_other (s : State) {k j : Nat} (b : Mbox) (h : j ≠ k) :
    (s.setMbox k b).mbox j = s.mbox j := by simp [State.mbox, State.setMbox, SMap.get_set_other _ _ h]
@[simp] theorem Dc.ring_setRing (d : Dc) (n : Nat) (r : Ring) : (d.setRing n r).ring n = r := by
  simp [Dc.ring, Dc.setRing]
theorem Dc.ring_setRing_other (d : Dc) {n m : Nat} (r : Ring) (h : m ≠ n) :
    (d.setRing n r).ring m = d.ring m := by simp [Dc.ring, Dc.setRing, SMap.get_set_other _ _ h]
@[simp] theorem Dc.pipe_setPipe (d : Dc) (n : Nat) (r : DcPipe) : (d.setPipe n r).pipe n = r := by
  simp [Dc.pipe, Dc.setPipe]
theorem Dc.pipe_setPipe_other (d : Dc) {n m : Nat} (r : DcPipe) (h : m ≠ n) :
    (d.setPipe n r).pipe m = d.pipe m := by simp [Dc.pipe, Dc.setPipe, SMap.get_set_other _ _ h]
@[simp] theorem Dc.task_setTask (d : Dc) (n : Nat) (r : Task) : (d.setTask n r).task n = r := by
  simp [Dc.task, Dc.setTask]
theorem Dc.task_setTask_other (d : Dc) {n m : Nat} (r : Task) (h : m ≠ n) :
    (d.setTask n r).task m = d.task m := by simp [Dc.task, Dc.setTask, SMap.get_set_other _ _ h]
@[simp] theorem Dc.src_setSrc (d : Dc) (n : Nat) (v : W64) : (d.setSrc n v).src n = v := by
  simp [Dc.src, Dc.setSrc]
theorem Dc.src_setSrc_other (d : Dc) {n m : Nat} (v : W64) (h : m ≠ n) :
    (d.setSrc n v).src m = d.src m := by simp [Dc.src, Dc.setSrc, SMap.get_set_other _ _ h]
@[simp] theorem Mp.image_setImage (m : Mp) (p : Nat) (i : Image) : (m.setImage p i).image p = i := by
  simp [Mp.image, Mp.setImage]
theorem Mp.image_setImage_other (m : Mp) {p q : Nat} (i : Image) (h : q ≠ p) :
    (m.setImage p i).image q = m.image q := by simp [Mp.image, Mp.setImage, SMap.get_set_other _ _ h]
@[simp] theorem Tb.trig_setTrig (t : Tb) (k : Nat) (x : Trig) : (t.setTrig k x).trig k = x := by
  simp [Tb.trig, Tb.setTrig]
theorem Tb.trig_setTrig_other (t : Tb) {k j : Nat} (x : Trig) (h : j ≠ k) :
    (t.setTrig k x).trig j = t.trig j := by simp [Tb.trig, Tb.setTrig, SMap.get_set_other _ _ h]

end Sys2Proof.Machine
end

