-- ==== Sys2Proof/Tests/Slice0.lean ====
section
/-! SUPPORT. Tests of the model against worked words and figures of the specification, and for every
statement a concrete state and operands that meet the hypotheses of each of its clauses. -/

set_option Elab.async false

namespace Sys2Proof.Tests

open Sys2Proof Sys2Proof.Machine

/-! ### Small states -/

/-- Thread of slice 0 of matrix engine 0. -/
def th0 : Thread := ⟨0, 0⟩

/-- The state after reset with well 0 running in a pipeline of its own. -/
def inWell (f : Well → Well) : State :=
  State.reset.setWell 0 (f { Well.reset with run := .running, pipe := 0x80000001 })

/-- The same with the thread of slice 0 issuing. -/
def inSlice (f : Slice → Slice) : State :=
  inWell fun x => x.setSlice 0 (f { Slice.reset with st := .issuing })

/-- The same with a fabric unit changed. -/
def inUnit (n : Nat) (f : FUnit → FUnit) : State := inWell fun x => x.setUnit n (f FUnit.reset)

/-- The same with a stage-queue entry changed. -/
def inQueue (e : Nat) (q : SqEntry) : State := inWell fun x => x.setSq e q

/-- The state after reset with stream context 0 of pump 0 changed. -/
def inStr (f : Stream → Stream) : State := State.reset.setStr 0 (f Stream.reset)

/-- The state after reset with ECC in force. -/
def eccState : State := State.reset.setBit rMemCfg 31 true

/-- A word with its sideband. -/
def word0 (ctag : BitVec 2) (marker : Bool) : Word := ⟨0, { Sideband.zero with ctag := ctag, marker := marker }⟩

/-! ### Ill-formed words are refused (R103, R116, R132, R137 to R139, R143, R144, R146, R152) -/

theorem test_refuses_brc_condition_6 : (MsqOp.brc 6 false 0 0).ok = false := by decide
theorem test_refuses_odd_row : (WldF.mk 0 0 1 0 0 false false 0).ok = false := by decide
theorem test_refuses_load_past_dpu_255 : (WldF.mk 255 1 0 0 0 false false 0).ok = false := by decide
theorem test_refuses_load_past_row_127 : (WldF.mk 0 0 126 1 0 false false 0).ok = false := by decide
theorem test_refuses_side_3 : (WldF.mk 0 0 0 0 3 false false 0).ok = false := by decide
theorem test_refuses_nst_without_fwd : (WldF.mk 0 0 0 0 0 false true 0).ok = false := by decide
theorem test_refuses_wrelay_mode_3 : (WrelayF.mk 0 0 0 0 0 3).ok = false := by decide
theorem test_refuses_wdyn_odd_row : (WdynF.mk 0 0 3 0 0 0).ok = false := by decide
theorem test_refuses_absent_pair : (MmaF.mk .int8 .fp4 0 0 0 0 false false 0).ok = false := by decide
theorem test_refuses_chunks_past_bank : (MmaF.mk .int8 .int8 0 0 1 127 false false 0).ok = false := by decide
theorem test_refuses_scaled_int8 : (MmaF.mk .int8 .int8 0 0 0 0 true false 0).ok = false := by decide
theorem test_refuses_scaled_int8_weights : (MmaF.mk .int8 .int8 0 0 0 0 false true 0).ok = false := by decide
theorem test_refuses_drain_to_bell4 : (DrainF.mk .bell4 0 0 0 false false).ok = false := by decide
theorem test_refuses_mark_and_monly : (DrainF.mk .int8 0 0 0 true true).ok = false := by decide
theorem test_refuses_scales_past_255 : (SclF.mk 255 1 0).ok = false := by decide
theorem test_refuses_rowsums_past_255 : (ZpcF.mk 1 255 false 0).ok = false := by decide
theorem test_refuses_entry_768 : (SemF.mk 0 768 false 1).ok = false := by decide
theorem test_refuses_count_0 : (SemF.mk 0 0 false 0).ok = false := by decide
theorem test_refuses_duty_65 : (MsqOp.ptok 65).ok = false := by decide
theorem test_refuses_tag_length_3 : (MsqOp.tag 2).ok = false := by decide
theorem test_takes_extremes : (WldF.mk 255 0 126 0 2 true true 3).ok = true
    ∧ (MmaF.mk .int8 .int8 3 7 0 127 false false 3).ok = true ∧ (SemF.mk 7 767 true 0xFFFF).ok = true
    ∧ (MsqOp.ptok 64).ok = true ∧ (MsqOp.tag 3).ok = true ∧ (MsqOp.brc 5 true 3 255).ok = true := by decide

/-- A schedule-word header with nothing set. -/
def h0 : SwHead := ⟨false, false, 0, 0, 0⟩

/-- `MOV` from the west input to the east output (R202, R203). -/
def cu0 : CuF := ⟨4, 0, 0, false, 0, 0x13, 0, 0, .int8, .int8, 0, 0, 0⟩

/-- A `MEM` word with no slot in use (R209). -/
def mem0 : MemF :=
  ⟨⟨false, false, 0, 0, 0, 0, 0, false⟩, ⟨false, false, 0, 0, 0, 0, 0, false⟩, ⟨false, false, 0, 0⟩⟩

theorem test_refuses_repeated_loop : SwOp.ok 0 { h0 with rep := 1 } (.loop 0 0 1) = false := by decide
theorem test_refuses_repeated_jmp : SwOp.ok 0 { h0 with rep := 1 } (.jmp 0) = false := by decide
theorem test_refuses_repeated_tagset : SwOp.ok 0 { h0 with rep := 1 } (.tagset 0) = false := by decide
theorem test_refuses_pset_condition_8 : SwOp.ok 0 h0 (.pset 0 8 0 false) = false := by decide
theorem test_refuses_pset_walk_end_at_cu : SwOp.ok 0 h0 (.pset 0 5 0 false) = false := by decide
theorem test_refuses_queue_mask_at_cu : SwOp.ok 0 h0 (.switch false 1 0 0) = false := by decide
theorem test_refuses_force_of_nothing : SwOp.ok 48 h0 (.switch true 0 0 0) = false := by decide
theorem test_refuses_cu_word_at_mu : SwOp.ok 48 h0 (.cu .mov cu0) = false := by decide
theorem test_refuses_no_destination : SwOp.ok 0 h0 (.cu .mov { cu0 with route := 0 }) = false := by decide
theorem test_refuses_blk_3 : SwOp.ok 0 h0 (.cu .mov { cu0 with blk := 3 }) = false := by decide
theorem test_refuses_channel_off_slice : SwOp.ok 2 h0 (.cu .mov { cu0 with ch := 1 }) = false := by decide
theorem test_refuses_blk_2_without_input :
    SwOp.ok 0 h0 (.cu .mov { cu0 with blk := 2, srca := 0 }) = false := by decide
theorem test_refuses_source_x_inside :
    SwOp.ok 2 h0 (.cu .mov { cu0 with srca := 0x14 }) = false := by decide
theorem test_refuses_unused_source : SwOp.ok 0 h0 (.cu .mov { cu0 with srcb := 1 }) = false := by decide
theorem test_refuses_unused_third_source : SwOp.ok 0 h0 (.cu .add { cu0 with srcc := 1 }) = false := by decide
theorem test_refuses_exp2_of_int8 : SwOp.ok 0 h0 (.cu .exp2 cu0) = false := by decide
theorem test_refuses_ofmt_outside_cvt :
    SwOp.ok 0 h0 (.cu .mov { cu0 with ofmt := .fp32 }) = false := by decide
theorem test_refuses_chained_int8 : SwOp.ok 0 h0 (.cu .add { cu0 with chn := 1 }) = false := by decide
theorem test_refuses_mov_of_int32 : SwOp.ok 0 h0 (.cu .mov { cu0 with fmt := .int32 }) = false := by decide
theorem test_refuses_cmp_6 : SwOp.ok 0 h0 (.cu .cmp { cu0 with fn := 6 }) = false := by decide
theorem test_refuses_mem_word_at_cu : SwOp.ok 47 h0 (.mem mem0) = false := by decide
theorem test_refuses_one_queue_twice : SwOp.ok 48 h0 (.mem
    { mem0 with a := ⟨true, true, 3, 1, 0, 0, 0, false⟩, b := ⟨true, true, 3, 2, 0, 0, 0, false⟩ })
    = false := by decide
theorem test_refuses_write_source_7 :
    SwOp.ok 48 h0 (.mem { mem0 with w := ⟨true, false, 0, 7⟩ }) = false := by decide
theorem test_refuses_walk_with_nord :
    SwOp.ok 48 h0 (.mem { mem0 with a := ⟨true, false, 0, 1, 0, 0, 0, true⟩ }) = false := by decide
theorem test_refuses_generator_3 : SwOp.ok 48 h0 (.agset 3 3 0) = false := by decide
theorem test_refuses_part_5 : SwOp.ok 48 h0 (.agset 0 5 0) = false := by decide
theorem test_refuses_base_12288 : SwOp.ok 48 h0 (.agset 0 2 (12288 <<< 32)) = false := by decide
theorem test_takes_mov_and_mem : SwOp.ok 0 h0 (.cu .mov cu0) = true ∧ SwOp.ok 95 h0 (.mem mem0) = true
    ∧ SwOp.ok 48 h0 (.agset 2 2 (12287 <<< 32)) = true := by decide

/-- A command is well formed when the word it carries is. -/
theorem test_instr_ok : (Instr.tag th0 2).ok = false ∧ (Instr.tag th0 3).ok = true
    ∧ (Instr.rimDeselect).ok = true := by decide

/-! ### Words of the two instruction encodings, their fields from the highest bit down (R132, R194) -/

theorem test_decode_nop : decodeMsq 0 = some .nop := by decide
theorem test_decode_loop : decodeMsq (0x02#8 ++ 2#2 ++ 0#6 ++ 9#16 ++ 0#24 ++ 7#8) = some (.loop 2 9 7) := by decide
theorem test_decode_brc :
    decodeMsq (0x04#8 ++ 3#4 ++ 1#1 ++ 0#1 ++ 2#2 ++ 0#40 ++ 200#8) = some (.brc 3 true 2 200) := by decide
theorem test_decode_wld :
    decodeMsq (0x08#8 ++ 16#8 ++ 31#8 ++ 4#7 ++ 61#6 ++ 1#2 ++ 1#1 ++ 0#1 ++ 2#2 ++ 0#21)
      = some (.wld ⟨16, 31, 4, 61, 1, true, false, 2⟩) := by decide
theorem test_decode_mma :
    decodeMsq (0x10#8 ++ 0#4 ++ 2#4 ++ 2#2 ++ 7#3 ++ 5#9 ++ 40#9 ++ 0#1 ++ 0#1 ++ 1#2 ++ 0#21)
      = some (.mma ⟨.int8, .int4, 2, 7, 5, 40, false, false, 1⟩) := by decide
theorem test_decode_drain :
    decodeMsq (0x12#8 ++ 10#4 ++ 1#2 ++ 3#3 ++ 255#8 ++ 1#1 ++ 0#1 ++ 0#37)
      = some (.drain ⟨.bf16, 1, 3, 255, true, false⟩) := by decide
theorem test_decode_semwait :
    decodeMsq (0x22#8 ++ 0#1 ++ 5#3 ++ 767#10 ++ 1#1 ++ 0#9 ++ 0#16 ++ 0#16) = none
    ∧ decodeMsq (0x22#8 ++ 0#1 ++ 5#3 ++ 767#10 ++ 1#1 ++ 0#9 ++ 6#16 ++ 0#16)
      = some (.semwait ⟨5, 767, true, 6⟩) := by decide
theorem test_decode_tag : decodeMsq (0x38#8 ++ 511#12 ++ 0#44) = some (.tag 511) := by decide
theorem test_decode_refuses_reserved_bit : decodeMsq 0x8000 = none ∧ decodeMsq (0x05#8 ++ 0#56) = none := by decide

theorem test_decode_sw_loop :
    decodeSw 5 (0x01#8 ++ 1#1 ++ 0#1 ++ 3#4 ++ 2#2 ++ 0#16 ++ 1#2 ++ 0#14 ++ 99#16 ++ 0#55 ++ 300#9)
      = some (⟨true, false, 3, 2, 0⟩, .loop 1 99 300) := by decide
theorem test_decode_sw_fma :
    decodeSw 0 (0x15#8 ++ 0#8 ++ 511#16 ++ 4#4 ++ 0#2 ++ 1#2 ++ 1#1 ++ 9#4 ++ 0x13#6 ++ 0x02#6 ++ 0x20#6
        ++ 12#4 ++ 0#4 ++ 0#2 ++ 0#4 ++ 0#19 ++ 0x3F800000#32)
      = some (⟨false, false, 0, 0, 511⟩,
          .cu .fma ⟨4, 0, 1, true, 9, 0x13, 2, 0x20, .fp32, .int8, 0, 0, 0x3F800000⟩) := by decide
theorem test_decode_sw_mem :
    decodeSw 60 (0x40#8 ++ 0#8 ++ 0#16 ++ 1#1 ++ 1#1 ++ 5#4 ++ 8#4 ++ 0#2 ++ 0#2 ++ 1#2 ++ 0#1 ++ 0#7
        ++ 0#1 ++ 0#1 ++ 0#4 ++ 0#4 ++ 0#2 ++ 0#2 ++ 0#2 ++ 0#1 ++ 0#7 ++ 1#1 ++ 0#1 ++ 0#4 ++ 3#3 ++ 0#39)
      = some (⟨false, false, 0, 0, 0⟩,
          .mem ⟨⟨true, true, 5, 8, 0, 0, 1, false⟩, ⟨false, false, 0, 0, 0, 0, 0, false⟩, ⟨true, false, 0, 3⟩⟩) := by
  decide
theorem test_decode_sw_switch :
    decodeSw 50 (0x04#8 ++ 0#1 ++ 0#1 ++ 0#4 ++ 3#2 ++ 0#16 ++ 1#1 ++ 0x43#7 ++ 2#4 ++ 7#4 ++ 0#80)
      = some (⟨false, false, 0, 3, 0⟩, .switch true 0x43 2 7) := by decide
theorem test_decode_sw_refuses : decodeSw 0 (0x40#8 ++ 0#120) = none ∧ decodeSw 50 (0x10#8 ++ 0#120) = none
    ∧ decodeSw 0 (0x06#8 ++ 0#120) = none := by decide
theorem test_no_word_spells_a_command : decodeTableWord 64 0x0800000000000000 = none := rfl

/-! ### Every statement's hypotheses are met -/

theorem witness_EmptyQueueCountsOneTick : State.reset.pending = [] := rfl

theorem takes_inSlice : (inSlice id).takes th0 := ⟨by decide +kernel, by decide +kernel⟩

theorem witness_ThreadControlFlowCompletes : (inSlice id).takes th0
    ∧ ((inSlice id).slot th0).enginesFree = true
    ∧ ((5 : BitVec 4).toNat ≤ 5 ∧ (((5 : BitVec 4) = 1 ∨ (5 : BitVec 4) = 2) → ((inSlice id).slot th0).markers ≠ []))
    ∧ (inSlice fun y => { y with markers := [word0 0 true] }).takes th0
    ∧ ((inSlice fun y => { y with markers := [word0 0 true] }).slot th0).markers ≠ [] :=
  ⟨takes_inSlice, by decide +kernel, by decide +kernel, ⟨by decide +kernel, by decide +kernel⟩, by decide +kernel⟩

/-- A slice at the end of loop level 2 with a number of iterations left. -/
def atEnd (left : Nat) : Slice := { Slice.reset with pc := 9, loops := noLoops.set 2 ⟨true, 4, 9, left⟩ }

theorem witness_MoveToTheNextMsqInstruction : loopAt Slice.reset.loops Slice.reset.pc = none
    ∧ (loopAt (atEnd 2).loops (atEnd 2).pc = some 2 ∧ (atEnd 2).loops[2]? = some ⟨true, 4, 9, 2⟩ ∧ 1 < 2)
    ∧ (loopAt (atEnd 1).loops (atEnd 1).pc = some 2 ∧ (atEnd 1).loops[2]? = some ⟨true, 4, 9, 1⟩ ∧ 1 ≤ 1
      ∧ loopAt ((atEnd 1).loops.set 2 ⟨false, 4, 9, 1⟩) (atEnd 1).pc = none) := by decide +kernel

/-- The boundary of R139: the last chunk of the bank. -/
def mmaLast : MmaF := ⟨.int8, .int8, 3, 7, 0, 127, false, false, 3⟩

theorem witness_BankOperationsBegin : (inSlice id).takes th0
    ∧ (WldF.ok ⟨255, 0, 126, 0, 2, true, true, 3⟩ = true ∧ ((inSlice id).slot th0).bankOp = none
      ∧ ((inSlice id).slot th0).sideOp = none)
    ∧ WdynF.ok ⟨255, 0, 126, 0, 2, 3⟩ = true
    ∧ (WrelayF.ok ⟨255, 0, 126, 0, 2, 2⟩ = true ∧ (2 : BitVec 2) ≠ 1)
    ∧ WrelayF.ok ⟨255, 255, 127, 63, 3, 1⟩ = true
    ∧ (mmaLast.ok = true
      ∧ drainEndOf ((inSlice id).slot th0) (bankSel ((inSlice id).slot th0) mmaLast.bank.toNat)
        ≤ ((inSlice id).well (thWell th0)).tick + 11
      ∧ ((inSlice id).slot th0).lineTick ≤ ((inSlice id).well (thWell th0)).tick) :=
  ⟨takes_inSlice, by decide +kernel, by decide +kernel, by decide +kernel, by decide +kernel, by decide +kernel⟩

theorem witness_ScaleAndTagInstructionsComplete : (inSlice id).takes th0
    ∧ (SclF.ok ⟨255, 0, 3⟩ = true ∧ ((inSlice id).slot th0).sideOp = none ∧ ((inSlice id).slot th0).outQ = []
      ∧ drained ((inSlice id).slot th0) ((inSlice id).well (thWell th0)).tick = true
      ∧ ((inSlice id).slot th0).wholeIn = false)
    ∧ ZpcF.ok ⟨0, 255, true, 3⟩ = true ∧ 3 ≤ (3 : BitVec 12).toNat ∧ (64 : BitVec 7).toNat ≤ 64 :=
  ⟨takes_inSlice, by decide +kernel, by decide +kernel, by decide +kernel, by decide +kernel⟩

/-- A slice whose streamed scale block carries the tag of its data. -/
def scaledState : State := inSlice fun y => { y with streamed := true, scaleBuf := [⟨0, { Sideband.zero with bs := true }⟩], scaleHalf := false }

theorem witness_DrainPutsItsWordsInTheOutputQueue : (inSlice id).takes th0
    ∧ DrainF.ok ⟨.bf16, 3, 7, 255, true, false⟩ = true
    ∧ ((inSlice id).slot th0).streamed = false ∧ runsInto ((inSlice id).slot th0) 1 = false
    ∧ updOf ((inSlice id).slot th0) 1 ≤ ((inSlice id).well (thWell th0)).tick
    ∧ ((inSlice id).slot th0).outQ = []
    ∧ (scaledState.takes th0 ∧ (scaledState.slot th0).streamed = true ∧ (scaledState.slot th0).mx = false
      ∧ (scaledState.slot th0).discard = false
      ∧ scaleMatches { scaledState.slot th0 with dataTag := (scaledState.slot th0).tagB } 1 = true) :=
  ⟨takes_inSlice, by decide +kernel, by decide +kernel, by decide +kernel, by decide +kernel, by decide +kernel,
    ⟨by decide +kernel, by decide +kernel⟩, by decide +kernel, by decide +kernel, by decide +kernel, by decide +kernel⟩

/-- A running thread beside an enabled entry of size zero with FREE 6 and FILLED 7. -/
def semState : State := inWell fun x =>
  (x.setSlice 0 { Slice.reset with st := .issuing }).setSq 767
    { SqEntry.reset with cfg := 0x80000000, free := 6, filled := 7 }

theorem witness_SemaphoreInstructionsComplete : semState.takes th0 ∧ SemF.ok ⟨0, 767, true, 6⟩ = true
    ∧ (6 : BitVec 16).toNat ≤ semOf semState ⟨0, 767, true, 6⟩
    ∧ (semState.sq 0 767).isSem = true
    ∧ (semState.sq 0 767).enabled = true ∧ (0 : BitVec 3).toNat = thWell th0
    ∧ (7 : BitVec 3).toNat ≠ thWell th0 ∧ ((semState.setWell 7 { Well.reset with run := .running, pipe := 0x80000001 }).well 7).run = .running
    ∧ (semState.setWell 7 { Well.reset with run := .running, pipe := 0x80000001 }).takes th0
    ∧ (semState.setWell 7 { Well.reset with run := .running, pipe := 0x80000001 }).wellClock 7 = true :=
  ⟨⟨by decide +kernel, by decide +kernel⟩, by decide +kernel, by decide +kernel, by decide +kernel, by decide +kernel,
    by decide +kernel, by decide +kernel, by decide +kernel, ⟨by decide +kernel, by decide +kernel⟩, by decide +kernel⟩

/-- A thread whose barrier has released it. -/
def barState : State := inSlice fun y => { y with arrived := true, counted := true, released := true }

/-- A thread beside a committed context 2. -/
def ctxState : State := inWell fun x => (x.setSlice 0 { Slice.reset with st := .issuing }).setCtx 2 .committed

theorem witness_WaitingInstructionsComplete : (inSlice id).takes th0
    ∧ fenceMet ((inSlice id).slot th0) ((inSlice id).well (thWell th0)).tick = true
    ∧ waitMet ((inSlice id).slot th0) ((inSlice id).well (thWell th0)).tick (.drainall 15) = true
    ∧ (((inSlice id).slot th0).arrived = false ∧ ((inSlice id).slot th0).released = false)
    ∧ barState.takes th0 ∧ ((barState.slot th0).arrived = true ∧ (barState.slot th0).counted = true
      ∧ (barState.slot th0).released = true)
    ∧ ctxState.takes th0 ∧ (ctxState.well (thWell th0)).ctxState 2 = .committed
    ∧ waitMet (ctxState.slot th0) (ctxState.well (thWell th0)).tick (.ctxsw 2 false 0) = true :=
  ⟨takes_inSlice, by decide +kernel, by decide +kernel, by decide +kernel, ⟨by decide +kernel, by decide +kernel⟩,
    by decide +kernel, ⟨by decide +kernel, by decide +kernel⟩, by decide +kernel, by decide +kernel⟩

/-- A thread that waits in the `FENCE` its program begins with. -/
def fenceState : State := inSlice fun y => { y with st := .threadWait, prog := [(0, 0x2400000000000000)] }

/-- A thread that is switching to context 3. -/
def switchingState : State := inSlice fun y => { y with switching := true, barId := 3 }

/-- A thread that waits in the `CTXSW` its program begins with, beside the committed context it names. -/
def ctxWait : State := inWell fun x =>
  (x.setSlice 0 { Slice.reset with st := .threadWait, prog := [(0, 0x2880000000000000)] }).setCtx 2 .committed

/-- A line that has come the whole way to a slice. -/
def relayState : State := inSlice fun y => { y with relayIn := [(0, 7)] }

/-- A slice with a weight line to write back whose check bits are wrong in one symbol. -/
def wsState : State :=
  { inWell fun x => { x.setSlice 0 { Slice.reset with wb := [0] } with tick := 1 } with
    ecc := SMap.set (fun _ => 0) [] (weightAddr 0 0 0 0 / 64) 0x000F }

theorem witness_TrapsAndThreadEventsComplete :
    ((inSlice id).takes th0 ∧ ((inSlice id).slot th0).enginesFree = true
      ∧ (inSlice id).pipeOf (thWell th0) = some 0 ∧ (inSlice id).err.resetting.contains 0 = false)
    ∧ (fenceState.clocksRun = true ∧ fenceState.threadRuns th0 = true
      ∧ (fenceState.slot th0).st = .threadWait ∧ thInstr (fenceState.slot th0) = some .fence
      ∧ fenceMet (fenceState.slot th0) (fenceState.well (thWell th0)).tick = true)
    ∧ (ctxWait.threadRuns th0 = true ∧ (ctxWait.slot th0).st = .threadWait
      ∧ thInstr (ctxWait.slot th0) = some (.ctxsw 2 false 0) ∧ (ctxWait.well (thWell th0)).ctxState 2 = .committed
      ∧ waitMet (ctxWait.slot th0) (ctxWait.well (thWell th0)).tick (.ctxsw 2 false 0) = true)
    ∧ (switchingState.clocksRun = true ∧ switchingState.running (thWell th0) = true
      ∧ (switchingState.slot th0).active = true ∧ (switchingState.slot th0).switching = true)
    ∧ (relayState.hasWell (thWell th0) = true ∧ (relayState.slot th0).relayIn = [(0, 7)]
      ∧ (relayState.slot th0).relayFifo.length < 8)
    ∧ (wsState.clocksRun = true ∧ wsState.hasWell (thWell th0) = true ∧ (wsState.slot th0).bankOp = none
      ∧ (wsState.slot th0).lineTick < (wsState.well (thWell th0)).tick ∧ (wsState.slot th0).wb = [0]
      ∧ decodeLine (wsState.mem.line (weightAddr 0 0 0 0)) (wsState.delta (weightAddr 0 0 0 0)) = .corrected 0) :=
  ⟨⟨takes_inSlice, by decide +kernel, by decide +kernel, by decide +kernel⟩, by decide +kernel, by decide +kernel,
    by decide +kernel, by decide +kernel, by decide +kernel⟩

theorem witness_ThreadRegistersComplete : ctxState.clocksRun = true ∧ ctxState.hasSlice th0 = true
    ∧ ((ctxState.setSlc 0 0 Slice.reset).slot th0).active = false
    ∧ ((ctxState.setSlc 0 0 Slice.reset).well (thWell th0)).run ≠ .failed
    ∧ ((ctxState.setSlc 0 0 Slice.reset).well (thWell th0)).ctxState (2 : BitVec 2).toNat = .committed
    ∧ (State.reset.slot th0).st = .notStarted ∧ State.reset.hasSlice th0 = true ∧ State.reset.hasWell 7 = true
    ∧ ((State.reset.setSlc 0 0 { Slice.reset with stat := { StatBlk.reset with ctrl := 1, units := 1 } }).slot th0).stat.due
        = true
    ∧ (((State.reset.setWell 7 (Well.reset.setCuStats 47 { StatBlk.reset with ctrl := 1 })).well 7).cuStats 47).due
        = true
    ∧ (State.reset.hasLink 5 = true
      ∧ ((State.reset.setPort 5 { LinkPort.reset with stat := { StatBlk.reset with ctrl := 1, units := 1 } }).port 5).stat.due
        = true) := by decide +kernel

/-! Schedule words -/

theorem witness_ScheduleControlWordsComplete : (inUnit 0 id).clocksRun = true ∧ (inUnit 0 id).running 0 = true
    ∧ (((inUnit 0 id).well 0).unit 0).wait = none ∧ wordRuns (((inUnit 0 id).well 0).unit 0) h0 = true
    ∧ SwOp.ok 0 { h0 with rep := 0xFFFF } .nop = true ∧ SwOp.ok 0 h0 (.loop 3 0xFFFF 511) = true
    ∧ SwOp.ok 0 h0 (.jmp 511) = true
    ∧ (SwOp.ok 0 h0 (.pset 15 7 0 true) = true ∧ (7 : BitVec 4) ≠ 5
      ∧ (psetValue (inUnit 0 id) 0 0 7 0).isSome = true)
    ∧ (SwOp.ok 48 h0 (.pset 15 5 2 true) = true ∧ ((inUnit 48 id).well 0).unit 48 = FUnit.reset)
    ∧ SwOp.ok 0 h0 (.tagset 63) = true
    ∧ (SwOp.ok 0 { h0 with cx := 2 } (.switch false 0 0 0) = true
      ∧ ((ctxState.well 0).unit 0).settled = true ∧ (ctxState.well 0).ctxState 2 = .committed) := by decide +kernel

/-- A unit at the end of a loop with two iterations left. -/
def unitAtEnd : State := inUnit 0 fun u => { u with pc := 511, loops := noLoops.set 3 ⟨true, 500, 511, 2⟩ }

theorem witness_RepeatedWordIssuesThenMovesOn : ((State.reset.well 0).unit 0).reps < 1
    ∧ (0 ≤ ((State.reset.well 0).unit 0).reps
      ∧ loopAt ((State.reset.well 0).unit 0).loops ((State.reset.well 0).unit 0).pc = none)
    ∧ (loopAt ((unitAtEnd.well 0).unit 0).loops ((unitAtEnd.well 0).unit 0).pc = some 3
      ∧ ((unitAtEnd.well 0).unit 0).loops[3]? = some ⟨true, 500, 511, 2⟩ ∧ 1 < 2) := by decide +kernel

/-- Sources of an operation as registers, its destination register 15. -/
def regWord (op : CuOp) (fmt : Fmt) : CuF :=
  ⟨0, 0, 0, true, 15, 1, if 2 ≤ op.sources then 2 else 0, if 3 ≤ op.sources then 3 else 0, fmt, .int8, 0, 0, 0⟩

/-- The operation is ready at CU 47 of the running well. -/
def readyAt (op : CuOp) (fmt : Fmt) : Bool :=
  (inUnit 0 id).clocksRun && (inUnit 0 id).running 0 && SwOp.ok 47 h0 (.cu op (regWord op fmt))
    && (((inUnit 0 id).well 0).unit 47).wait.isNone && wordRuns (((inUnit 0 id).well 0).unit 47) h0
    && (cuBlocks (inUnit 0 id) 0 47 0 op (regWord op fmt)).isNone

theorem witness_ComputeWordsIssue : readyAt .mov .int8 = true ∧ readyAt .add .bf16 = true
    ∧ readyAt .sub .int32 = true ∧ readyAt .mul .fp32 = true ∧ readyAt .fma .int8 = true
    ∧ readyAt .min .fp32 = true ∧ readyAt .max .bf16 = true ∧ readyAt .cmp .int32 = true
    ∧ readyAt .sel .int8 = true ∧ readyAt .and .int8 = true ∧ readyAt .or .int8 = true
    ∧ readyAt .xor .int8 = true ∧ readyAt .shl .int32 = true ∧ readyAt .shr .int8 = true
    ∧ readyAt .exp2 .fp32 = true ∧ readyAt .log2 .fp32 = true ∧ readyAt .rcp .fp32 = true
    ∧ readyAt .rsq .fp32 = true ∧ readyAt .rsum .int32 = true ∧ readyAt .rmax .fp32 = true := by decide +kernel

theorem witness_CuReady : CuReady (inUnit 0 id) 0 47 h0 .fma (regWord .fma .int8) :=
  ⟨by decide +kernel, by decide +kernel, by decide +kernel, by decide +kernel, by decide +kernel, by decide +kernel⟩

theorem witness_IntegerAndBitwiseComputeWords : 63 < 512 / Fmt.int8.slot ∧ 15 < 512 / Fmt.int32.slot := by decide +kernel

/-- A memory unit whose west input holds a word. -/
def memState : State := inUnit 48 fun u => u.setPort 3 [word0 0 false]

/-- A word that writes its west input along its walk. -/
def storeWord : MemF := { mem0 with w := ⟨true, false, 0, 3⟩ }

theorem witness_ConvertMemoryAndGeneratorWordsComplete :
    (SwOp.ok 47 h0 (.cu .cvt { regWord .cvt .int8 with ofmt := .bf16 }) = true
      ∧ cuBlocks (inUnit 0 id) 0 47 0 .cvt { regWord .cvt .int8 with ofmt := .bf16 } = none)
    ∧ (memState.clocksRun = true ∧ memState.running 0 = true ∧ ((memState.well 0).unit 48).wait = none
      ∧ wordRuns ((memState.well 0).unit 48) h0 = true ∧ SwOp.ok 48 h0 (.mem storeWord) = true
      ∧ memBlocks memState 0 48 storeWord = none)
    ∧ SwOp.ok 95 h0 (.agset (2 : BitVec 2).toNat (4 : BitVec 3).toNat 0x1FF000) = true := by decide +kernel

theorem witness_WordsWithFieldsOutOfRangeNeverIssue : State.reset.clocksRun = true
    ∧ WldF.ok ⟨0, 0, 1, 0, 0, false, false, 0⟩ = false ∧ MmaF.ok ⟨.int8, .fp4, 0, 0, 0, 0, false, false, 0⟩ = false
    ∧ DrainF.ok ⟨.e8m0, 0, 0, 0, false, false⟩ = false ∧ 767 < (768 : BitVec 10).toNat
    ∧ 64 < (65 : BitVec 7).toNat ∧ (2 : BitVec 12).toNat < 3 ∧ 5 < (6 : BitVec 4).toNat
    ∧ SwOp.ok 0 h0 (.cu .add cu0) = true ∧ SwOp.ok 0 h0 (.cu .add { cu0 with route := 0 }) = false
    ∧ SwOp.ok 48 h0 (.mem { mem0 with w := ⟨true, false, 0, 7⟩ }) = false
    ∧ SwOp.ok 0 h0 (.switch true 0 0 0) = false := by decide +kernel

/-! Wells and queues -/

/-- Unit 0 has a `MOV` from its empty west input, and a thread a `QWAIT` that is not met. -/
def starved : State := inWell fun x => { x with sw := [(1, 0x1000000040026000)] }
def waiting : State := inSlice fun y => { y with prog := [(0, 0x2000000000010000)] }

theorem witness_StrokeOfARunningWell : (inWell id).clocksRun = true ∧ (inWell id).running 0 = true
    ∧ (inWell id).running 7 = false
    ∧ ((inWell fun x => { x with droop := 0x8000 }).well 0).droop ≠ 0
    ∧ (((inWell id).well 0).droop = 0 ∧ stageCause (threadsArrive (inWell id) 0) 0 = none
      ∧ leastCause ((verdicts (enginesMove (threadsArrive (inWell id) 0) 0) 0).map verdictCause) = none)
    ∧ (starved.running 0 = true ∧ (starved.well 0).droop = 0 ∧ stageCause (threadsArrive starved 0) 0 = some 1)
    ∧ (waiting.running 0 = true ∧ (waiting.well 0).droop = 0 ∧ stageCause (threadsArrive waiting 0) 0 = none
      ∧ leastCause ((verdicts (enginesMove (threadsArrive waiting 0) 0) 0).map verdictCause) = some 3) := by
  decide +kernel

/-- A word waits at the highest row of the east edge, express track, and the edge unit takes that track. -/
def crossState : State := inWell fun x =>
  { x.setCrossing 47 [(1, word0 0 false)] with switches := (List.range 96).map fun f => (f, 0x3000) }

/-- An enabled data queue of one word at the last entry, and an entry with one full queue. -/
def dataState : State := inQueue 767 { SqEntry.reset with cfg := 0x80000001 }
def fullState : State := inQueue 767 { SqEntry.reset with cfg := 0x80000001, t := 1, w := 1 }
/-- The same as the first, its bank in use. -/
def bankState : State := inWell fun x =>
  { x.setSq 767 { SqEntry.reset with cfg := 0x80000001 } with banks := [16 * 47] }
/-- A stopped well beside an enabled semaphore entry. -/
def semStopped : State := State.reset.setWell 7 (Well.reset.setSq 767 { SqEntry.reset with cfg := 0x80000000 })

theorem witness_WordsEnterAtCrossingsAndSidePorts :
    (crossState.clocksRun = true ∧ crossState.hasWell 0 = true
      ∧ (crossState.well 0).crossing 47 = [(1, word0 0 false)] ∧ crossTaken (crossState.well 0) 47 = true
      ∧ (crossState.well 0).droop = 0 ∧ (crossState.well 0).frozen = false
      ∧ (((crossState.well 0).unit (crossPlace 47).1).port (crossPlace 47).2).length < 8)
    ∧ ((dataState.sq 0 767).spilling = false ∧ (dataState.sq 0 767).canPush (slotsComing (dataState.well 0) 767) = true
      ∧ (dataState.sq 0 767).ringFree = true
      ∧ retriesOf (dataState.well 0) 767 = 0 ∧ (dataState.well 0).banks.contains (16 * 47 + 0) = false)
    ∧ ((bankState.sq 0 767).canPush (retriesOf (bankState.well 0) 767 + slotsComing (bankState.well 0) 767) = true
      ∧ (bankState.sq 0 767).ringFree = true ∧ (bankState.well 0).banks.contains (16 * 47 + 0) = true)
    ∧ (fullState.sq 0 767).canPush (retriesOf (fullState.well 0) 767 + slotsComing (fullState.well 0) 767) = false
    ∧ ((inWell id).well 0).run = .running ∧ (inWell id).wellClock 0 = true
    ∧ ((semStopped.well 7).run ≠ .running ∧ (semStopped.sq 7 767).enabled = true
      ∧ (semStopped.sq 7 767).isSem = true) := by decide +kernel

/-- A running well whose units all wait for the committed context 3. -/
def allWait : State := inWell fun x =>
  { x.setCtx 3 .committed with
    units := (List.range 96).map fun f => (f, { FUnit.reset with wait := some ⟨3, false, 0, 0, 0, 0⟩ }) }

/-- A stopped well with context 3 committed, and the same with the window on that context. -/
def ctxStopped : State := State.reset.setWell 7 (Well.reset.setCtx 3 .committed)
def ctxSelected : State := State.reset.setWell 7 { Well.reset.setCtx 3 .committed with smwSel := 12 }

theorem witness_WellStartStopAndSwitch :
    (ctxStopped.clocksRun = true ∧ ctxStopped.hasWell 7 = true ∧ (ctxStopped.well 7).run ≠ .running
      ∧ (ctxStopped.well 7).run ≠ .failed ∧ (ctxStopped.well 7).ctxState (3 : BitVec 2).toNat = .committed)
    ∧ (((inWell id).well 0).run = .running ∧ ((inWell id).well 0).retry = [])
    ∧ (allWait.running 0 = true ∧ wellReady allWait 0 = some 3) := by decide +kernel

/-- A well whose commit engine works on context 3. -/
def busyState (unloading : Bool) : State := State.reset.setWell 7 { Well.reset with busy := some (unloading, 3) }

theorem witness_ContextWritesCommitAndUnload :
    (State.reset.clocksRun = true ∧ State.reset.hasWell 7 = true ∧ (31 : Nat) / 32 = smwGroup (State.reset.well 7)
      ∧ (State.reset.well 7).run ≠ .failed ∧ (State.reset.well 7).ctxState (smwCtx (State.reset.well 7)) = .empty)
    ∧ ((State.reset.well 7).ctxState (3 : Fin 4).val = .empty ∧ (ctxStopped.well 7).ctxState (3 : Fin 4).val = .committed)
    ∧ (ctxSelected.well 7).ctxState (smwCtx (ctxSelected.well 7)) = .committed
    ∧ ((State.reset.well 7).busy = none ∧ (State.reset.well 7).ctxState (3 : BitVec 2).toNat = .empty)
    ∧ (busyState false).clocksRun = true ∧ ((busyState false).well 7).busy = some (false, 3)
    ∧ ((ctxStopped.well 7).busy = none ∧ (ctxStopped.well 7).ctxState (3 : BitVec 2).toNat = .committed
      ∧ unloadRefused (ctxStopped.well 7) (3 : BitVec 2).toNat = false)
    ∧ ((busyState true).well 7).busy = some (true, 3) := by decide +kernel

/-- A well with a capture due, with or without one held. -/
def capState (held : Bool) : State :=
  State.reset.setWell 7 { Well.reset with capArm := true, capAt := 5, strokes := 5, capValid := held }

theorem witness_CapturesAreArmedAndTaken :
    (((inWell id).well 0).frozen = false ∧ ((inWell id).well 0).run = .running)
    ∧ ((State.reset.well 7).run ≠ .running ∧ (State.reset.well 7).capValid = false)
    ∧ (capDue ((capState false).well 7) = some 0 ∧ ((capState false).well 7).capValid = false)
    ∧ (capDue ((capState true).well 7) = some 0 ∧ ((capState true).well 7).capValid = true) := by decide +kernel

/-- An entry that spills: one word staged, a region of one spill line, the ring of one word full. -/
def spillState : State := inQueue 767
  { SqEntry.reset with cfg := 0xC0000001, ovfBase := 0x1000, ovfSize := 1, t := 1, w := 2, staging := [word0 0 false],
                       spilling := true }
/-- The same once the word is in the region and the ring has a place. -/
def regionState : State := inQueue 767
  { SqEntry.reset with cfg := 0xC0000001, ovfBase := 0x1000, ovfSize := 1, t := 1, w := 2, r := 1, f := 1, regW := 1,
                       spilling := true }
/-- The same with its read outstanding. -/
def refillState : State := inQueue 767
  { SqEntry.reset with cfg := 0xC0000001, ovfBase := 0x1000, ovfSize := 1, t := 1, w := 2, r := 1, f := 1, regW := 1,
                       regR := 1, refills := [0], spilling := true }
/-- A memory unit with a word to write back. -/
def wbState : State :=
  { inWell fun x => x.setMu 47 { MuErr.reset with wb := [6143] } with
    ecc := SMap.set (fun _ => 0) [] (cisternAddr 0 47 (64 * 6143) / 64) 0x000F }

/-- Well 7 belongs to the image of pipeline 7. -/
def lockedState : State :=
  { State.reset with mp := State.reset.mp.setImage 7 { Image.none_ with p0 := 7, wells := [7], resident := true } }

theorem witness_QueueRegistersSpillAndRefill :
    (State.reset.clocksRun = true ∧ State.reset.hasWell 7 = true ∧ wellLocked State.reset 7 = false
      ∧ bitAt ((0xFFFFFFFF : W32).setWidth 64) 31 = true ∧ (State.reset.sq 7 767).enabled = false)
    ∧ ((semStopped.sq 7 767).enabled = true ∧ wellLocked semStopped 7 = false)
    ∧ wellLocked lockedState 7 = true
    ∧ (State.reset.sq 7 767).isSem = true
    ∧ ((spillState.sq 0 767).staging = [word0 0 false] ∧ (spillState.sq 0 767).enabled = true
      ∧ (spillState.sq 0 767).ovf = true ∧ (spillState.sq 0 767).regionUsed < (spillState.sq 0 767).cap
      ∧ (spillState.sq 0 767).ovfBase.toNat % 4096 = 0)
    ∧ ((regionState.sq 0 767).enabled = true ∧ (regionState.sq 0 767).spilling = true
      ∧ (regionState.sq 0 767).regR < (regionState.sq 0 767).regW
      ∧ (regionState.sq 0 767).t + (regionState.sq 0 767).refills.length - (regionState.sq 0 767).f
        < (regionState.sq 0 767).size)
    ∧ ((refillState.sq 0 767).refills = [0]
      ∧ (dramRead refillState (regionAddr (refillState.sq 0 767) 0)).2.1 = false
      ∧ (dramRead (dramRead refillState (regionAddr (refillState.sq 0 767) 0)).2.2
          (regionSbAddr (refillState.sq 0 767) 0 / 64 * 64)).2.1 = false)
    ∧ (((wbState.well 0).mu 47).wb.find? fun a => !(wbState.well 0).banks.contains (16 * 47 + a % 16)) = some 6143
    ∧ decodeLine (wbState.mem.line (cisternAddr 0 47 (64 * 6143))) (wbState.delta (cisternAddr 0 47 (64 * 6143)))
      = .corrected 0 := by decide +kernel

/-- A well frozen, and a thread waiting, for the limit of the watch with task 1023 in flight. -/
def watchState : State :=
  (inWell fun x => { x.setSlice 7 { Slice.reset with st := .threadWait, waited := 2 ^ 20 } with
    frozen := true, watch := 2 ^ 20, cause := 4 }).setPipe 0 { DcPipe.reset with flight := [1023] }

/-- A unit that has stood in switch wait for the limit. -/
def switchWatch : State := inWell fun x =>
  x.setUnit 95 { FUnit.reset with wait := some ⟨3, false, 0, 0, 0, 2 ^ 20⟩ }

theorem witness_WatchExpiriesRaiseStallCycle : watchState.clocksRun = true ∧ watchState.running 0 = true
    ∧ watchState.pipeOf 0 = some 0 ∧ freezeExpired watchState 0 = true
    ∧ dldOn (watchState.well 0) = true ∧ threadExpired (watchState.well 0) = some 7
    ∧ (switchWatch.running 0 = true ∧ switchWatch.pipeOf 0 = some 0 ∧ dldOn (switchWatch.well 0) = true
      ∧ threadExpired (switchWatch.well 0) = none ∧ switchExpired (switchWatch.well 0) = some 95) := by decide +kernel

/-! DRAM -/

/-- A controller with a line to correct, one with a scrub that has a line left, and a trained one. -/
def mcState : State := ((({ eccState with ecc := SMap.set (fun _ => 0) [] 0 0x000F }.setMc 7 { Mc.reset with wbq := [(3, 0)] }).setBit (rMcScrub 7) 31 true).setFld
  (rMcStatus 7) 30 2 2).setFld rCapMem 20 4 1

theorem witness_MemoryControllerCommandsComplete : mcState.clocksRun = true ∧ (mcState.mc 7).wbq = [(3, 0)]
    ∧ mcState.eccOn = true ∧ decodeLine (mcState.mem.line 0) (mcState.delta 0) = .corrected 0 ∧ mcState.bit (rMcScrub 7) 31 = true ∧ mcState.bit (rMcStatus 7) 31 = true
    ∧ mcState.bit (rMcStatus 7) 30 = false ∧ (mcState.mc 7).scrubPos + 1 < channelBytes mcState / 64 * 4 := by
  decide +kernel

/-- A line whose check bits differ from the code of its data. -/
def badLine (d : BitVec 16) : State := { eccState with ecc := SMap.set (fun _ => 0) [] 0 d }

theorem witness_LineReadReturnsCorrectedData : (State.reset.setBit rMemCfg 31 false).eccOn = false
    ∧ eccState.eccOn = true ∧ decodeLine (eccState.mem.line 0) (eccState.delta 0) = .ok
    ∧ decodeLine ((badLine 0x000F).mem.line 0) ((badLine 0x000F).delta 0) = .corrected 0
    ∧ decodeLine ((badLine poison).mem.line 0) ((badLine poison).delta 0) = .uncorrectable := by decide +kernel

theorem witness_SingleSymbolErrorsAreCorrected : 127 < 128 ∧ 0 < 15 ∧ 15 < 16 ∧ 3 < 4 := by decide +kernel

theorem witness_EccOffNeverReportsAnError : (State.reset.setBit rMemCfg 31 false).eccOn = false := by decide +kernel

/-! Pumps -/

/-- A descriptor of one byte at address 0 that goes nowhere, and one that writes its byte to 0x2000. -/
def sinkDw : List W64 := [0, 0, 0, 0, 0, 0, 0x0003000000000000, 0]
def storeDw : List W64 := [0, 0, 0, 0, 0, 0, 0x2000, 0]

/-- The last stream context of the last pump changed, with 64 MiB of DRAM fitted. -/
def lastStr (f : Stream → Stream) : State := (State.reset.setStr 2047 (f Stream.reset)).wr rCapMemUsable 64

/-- A stream that holds the descriptor. -/
def holds (st : StrState) (d : FDesc) : State := lastStr fun x => { x with st := st, fetched := [d] }

theorem witness_StreamArmCancelAndFlush :
    (State.reset.clocksRun = true ∧ semOk State.reset Stream.reset.cfg = true ∧ (State.reset.str 2047).shadow = none
      ∧ (State.reset.str 2047).st = .idle)
    ∧ ((holds .running (.fresh 0 0x40 sinkDw)).str 2047).st ≠ .idle
    ∧ (((lastStr fun x => { x with shadow := some ⟨0, 0⟩ }).str 2047).shadow ≠ none ∧ cfgTask 0 = none)
    ∧ ((FDesc.fresh 0 0x40 sinkDw).cxl ≠ 1 ∧ (FDesc.fresh 0 0x40 sinkDw).dkind ≠ 2)
    ∧ (FDesc.fresh 0 0x40 (sinkDw.set 6 0x4003000000000000)).cxl = 1 := by decide +kernel

/-- A stream that wants its descriptor from 0x40, where one byte of memory is not zero. -/
def fetchState (a : Nat) (b : Byte) : State :=
  { lastStr fun x => { x with st := .running, next := some 0x40 } with mem := [(a, b)] }
/-- The descriptor that stands at 0x40 in the state. -/
def atHead (s : State) : FDesc := .fresh 0 0x40 (lineWords (dramRead s 0x40).1)

theorem witness_DescriptorsAreFetchedAndChecked : (fetchState 0x76 3).clocksRun = true
    ∧ wantsDesc ((fetchState 0x76 3).str 2047) = true ∧ ((fetchState 0x76 3).str 2047).next = some 0x40
    ∧ regionOf (fetchState 0x76 3) 0x40 = .dram ∧ (dramRead (fetchState 0x76 3) 0x40).2.1 = false
    ∧ ((fetchState 0x76 3).str 2047).fill = none ∧ descHeld (fetchState 0x76 3) 31 63 = false
    ∧ ((fetchState 0x76 3).str 2047).st = .running ∧ ((fetchState 0x76 3).str 2047).boundary = none
    ∧ descStatus (dramRead (fetchState 0x76 3) 0x40).2.2 ((fetchState 0x76 3).str 2047) (atHead (fetchState 0x76 3)) = 0
    ∧ (descStatus (dramRead (fetchState 0x78 1) 0x40).2.2 ((fetchState 0x78 1).str 2047) (atHead (fetchState 0x78 1)) ≠ 0
      ∧ ((fetchState 0x78 1).str 2047).st = .running ∧ ((fetchState 0x78 1).str 2047).task = none
      ∧ ((fetchState 0x78 1).str 2047).fetched = []) := by decide +kernel

/-- A stream with its byte converted and not yet written. -/
def writing : State := holds .running { FDesc.fresh 0 0x40 storeDw with
  rdPos := 1, rdDone := true, taken := 1, out := 0x55, outLen := 8, converted := true }
/-- A cancelling stream with a read outstanding, and one with a write outstanding. -/
def dropping : State := lastStr fun x => { x with
  st := .cancelling, reads := [⟨0, .mem, 0x1000, 64, 0x7FFFFFFFFFFFFFFF, none, 0⟩] }
def landing : State := lastStr fun x => { x with
  st := .running, writes := [⟨0, .mem, 0x1000, 0, fullMask, 0x7FFFFFFFFFFFFFFF, 0, 0⟩] }
/-- A running stream whose read of a byte is outstanding. -/
def taking : State := lastStr fun x => { x with
  st := .running, fetched := [FDesc.fresh 0 0x40 storeDw], reads := [⟨0, .mem, 0x1000, 1, 0x7FFFFFFFFFFFFFFF, none, 0⟩] }
/-- A stream into a queue whose rate window has ended. -/
def sampled : State :=
  { lastStr fun x => { x with st := .running, fetched := [.fresh 0 0x40 (storeDw.set 6 0x00010000000002FF)], tteWin := 1, tteQueue := some (true, 767) } with
    tb := { Tb.reset with clk := 1025 } }

theorem witness_PumpBucketsIssueAndReturn : State.reset.clocksRun = true
    ∧ (busyContexts (holds .running (.fresh 0 0x40 sinkDw)) 31 = [63]
      ∧ readWhy (holds .running (.fresh 0 0x40 sinkDw)) 31 63 = .ready
      ∧ readNext ((holds .running (.fresh 0 0x40 sinkDw)).str 2047) = some (.fresh 0 0x40 sinkDw)
      ∧ (FDesc.fresh 0 0x40 sinkDw).srcQueue = none ∧ (FDesc.fresh 0 0x40 sinkDw).destQueue = none
      ∧ regionOf (holds .running (.fresh 0 0x40 sinkDw)) (readSpan (.fresh 0 0x40 sinkDw)).1 = .dram)
    ∧ (busyContexts writing 31 = [63] ∧ askCredit writing 2047 = writing ∧ writeSettle writing 2047 = writing
      ∧ pumpWrites writing 31 < 32 ∧ writeNext writing 2047 = some (.bytes 0x2000 1)
      ∧ regionOf writing 0x2000 = .dram ∧ taskAborted writing (writing.str 2047) = false)
    ∧ ((readOutcome dropping ⟨0, .mem, 0x1000, 64, 0x7FFFFFFFFFFFFFFF, none, 0⟩).map (fun o => o.1) = some 0
      ∧ (readOutcome dropping ⟨0, .mem, 0x1000, 64, 0x7FFFFFFFFFFFFFFF, none, 0⟩).map (fun o => o.2.2.str 2047)
        = some (dropping.str 2047)
      ∧ wanted (dropping.str 2047) ⟨0, .mem, 0x1000, 64, 0x7FFFFFFFFFFFFFFF, none, 0⟩ = none)
    ∧ ((readOutcome taking ⟨0, .mem, 0x1000, 1, 0x7FFFFFFFFFFFFFFF, none, 0⟩).map (fun o => o.1) = some 0
      ∧ (wanted (taking.str 2047) ⟨0, .mem, 0x1000, 1, 0x7FFFFFFFFFFFFFFF, none, 0⟩).isSome = true)
    ∧ (writeBlocked landing (landing.str 2047) 0 ⟨0, .mem, 0x1000, 0, fullMask, 0x7FFFFFFFFFFFFFFF, 0, 0⟩ = false
      ∧ landing.dt ≤ 0x7FFFFFFFFFFFFFFF
      ∧ (memWrite landing ⟨0, .mem, 0x1000, 0, fullMask, 0x7FFFFFFFFFFFFFFF, 0, 0⟩).1 = 0)
    ∧ (((lastStr fun x => { x with st := .cancelling }).str 2047).task = none
      ∧ ((lastStr fun x => { x with st := .cancelling }).dc.armq.find? fun q => q.1 == 2047) = none)
    ∧ ((sampled.str 2047).st ≠ .idle
      ∧ (tteMeasure sampled (sampled.str 2047)).map (fun q => q.1) = some (true, 767)
      ∧ (sampled.str 2047).tteQueue = some (true, 767) ∧ 1024 ≤ sampled.clk - (sampled.str 2047).tteWin) := by decide +kernel

theorem witness_MemoryWriteBucketStoresItsBytes : (0x1FFFFFFFFC0 : Nat) % 64 = 0
    ∧ (State.reset.setBit rMemCfg 31 false).eccOn = false
    ∧ decodeLine (State.reset.mem.line 0x1FFFFFFFFC0) (State.reset.delta 0x1FFFFFFFFC0) = .ok := by decide +kernel

/-- A barrier whose only thread has arrived. -/
def barReadyState : State := inWell fun x =>
  (x.setBar 15 ⟨0x80000000, 1, 0, 255⟩).setSlice 0
    { Slice.reset with st := .threadWait, wait := .bar, arrived := true, counted := true, barId := 15 }

/-- The output stream of pipeline 0 with task 1023, and a frame marker that names no task. -/
def markState : State :=
  let s := State.reset.setStr 0 { Stream.reset with st := .running, act := ⟨0, 0xFFE00000⟩ }
  { s with dc := s.dc.setTask 1023 { Task.none_ with desc := ⟨[0], 0, none⟩ } }
def frameMark : Word := ⟨1, { Sideband.zero with marker := true }⟩

theorem witness_BarriersAndMarkers :
    (barReadyState.clocksRun = true ∧ barReadyState.pipeOf 0 = some 0 ∧ barReady barReadyState 0 15 = true
      ∧ bitAt (((barReadyState.well 0).bar 15).cfg.setWidth 64) 29 = false
      ∧ (0 ∈ barReadyState.pipeWells 0 ∧ (barReadyState.slc 0 0).arrived = true
        ∧ (barReadyState.slc 0 0).active = true ∧ (barReadyState.slc 0 0).barId = 15))
    ∧ (markState.clocksRun = true ∧ frameMark.sb.marker = true ∧ (markState.str 0).task = some 1023
      ∧ markState.taskPipe 1023 = some 0 ∧ markKind frameMark = 1 ∧ 0 = outStream markState 0
      ∧ markTask frameMark ≠ some 1023)
    ∧ (word0 0 false).sb.marker = false ∧ markKind (word0 0 true) ≠ 1 := by decide +kernel

/-! Dispatch -/

/-- The last ring changed. -/
def lastRing (g : Ring) : State := (State.reset.setRing 255 g).wr rCapMemUsable 64
/-- An enabled ring of sixteen slots whose tail stands at 5. -/
def ring5 : Ring := { Ring.reset with cfg := 0x84000000, tail := 5 }

theorem witness_RingRegistersComplete : State.reset.clocksRun = true ∧ Awake State.reset
    ∧ segsOf State.reset 7 = 0
    ∧ ((lastRing ring5).dc.ring 255).enabled = true
    ∧ ((16 + 2 ^ 32 - ring5.tail) % 2 ^ 32 < 2 ^ 31 ∧ (16 + 2 ^ 32 - ring5.head) % 2 ^ 32 ≤ ring5.size)
    ∧ 2 ^ 31 ≤ (4 + 2 ^ 32 - ring5.tail) % 2 ^ 32 ∧ ring5.size < (17 + 2 ^ 32 - ring5.head) % 2 ^ 32
    ∧ (State.reset.dc.ring 255).enabled = false :=
  ⟨by decide +kernel, ⟨by decide +kernel, by decide +kernel⟩, by decide +kernel, by decide +kernel, by decide +kernel,
    by decide +kernel, by decide +kernel, by decide +kernel⟩

/-- The last source in a state. -/
def srcState2 (st : W64) : State := { State.reset with dc := State.reset.dc.setSrc 4095 (st <<< 62) }

theorem witness_SourcesMapUpdateDrainAndFree : State.reset.clocksRun = true ∧ srcState State.reset 4095 = 0
    ∧ bits (0x4000000000000000 : W64) 62 2 = 1 ∧ srcState (srcState2 1) 4095 = 1
    ∧ (srcState (srcState2 2) 4095 = 2 ∧ inFlightOf (srcState2 2) 4095 = 0
      ∧ (((srcState2 2).dc.pipe (srcPipe (srcState2 2) 4095)).reissue.any fun r => r.2.1.source == 4095) = false
      ∧ (((srcState2 2).dc.ring (srcRing (srcState2 2) 4095)).window.any fun d => d.orderKey == 4095) = false) := by
  decide +kernel

/-- An enabled controller with a descriptor to fetch. -/
def intakeState : State := let s := lastRing ring5; { s with dc := { s.dc with en := true } }
/-- A task of source 0 in the window, its pipeline admitting, its templates goes-nowhere descriptors at 0. -/
def admitState : State :=
  let s := ((inWell id).wr rCapMemUsable 64).wr (rFiProfOut 0 0) 0x00100040
  { s with mem := [(0x36, 3)], dc := ((({ s.dc with en := true }.setSrc 0 0x4000000100000000).setPipe 0
    { DcPipe.reset with en := true, admitting := true }).setRing 0
    { ring5 with head := 1, window := [⟨[0x0100000000000000, 0, 0x0000010000100040, 0, 0, 0, 0, 0], 0, none⟩], open_ := [(0, 0)] }) }
/-- What becomes of the descriptor that pipeline 0 takes next: its status, and whether it gives a task. -/
def admits (s : State) : Option (Nat × Bool) :=
  let u := takeUpdates (admitNoted s 0)
  (roundRobin u 0).map fun r => (intakeStatus u r.1.2.1 r.1.2.2,
    match admitTask u 0 r.1.2.1 r.1.2.2 0 with
    | .admitted _ => true
    | _ => false)
/-- The same with a descriptor of an opcode that does not exist. -/
def refusedState : State :=
  let g : Ring := { ring5 with head := 1, window := [⟨[0x0200000000000000, 0, 0, 0, 0, 0, 0, 0], 0, none⟩], open_ := [(0, 0)] }
  { admitState with dc := admitState.dc.setRing 0 g }

/-- Frame intake unit 1 with a stream that does not run, and with both planes of a frame of one byte each. -/
def fiState (x : Stream) : State := { State.reset.setStr 2047 x with fiq := [(1, [2047])] }
def frameDesc (chroma : Bool) : FDesc :=
  { FDesc.fresh 0 0x40 (storeDw.set 6 0x0031000000000000) with raw := 0, rawLen := 1, rdPos := 1, rdDone := true, chroma := chroma }

/-- The status of the frame that a unit's first stream holds whole: the region list read without error, and the
result of the unit. -/
def frameSeen (s : State) (i : Nat) : Option (Bool × Nat) :=
  let x := s.str i
  ((fiLuma x).bind fun j => frameWhole x j).map fun lc =>
    let q := fiListRead s lc.1.fiu lc.1.fiprof x.task
    let bps := fiBps q.2 lc.1.fiu lc.1.fiprof
    (q.1.isNone, (fiFrameOut q.2 lc.1.fiu lc.1.fiprof
      ⟨lc.1.count 0 / bps, lc.1.count 1, bps, lc.1.raw, lc.2.raw⟩ x.task).2)
/-- A running stream that holds both planes of a frame. -/
def fiRun : State := fiState { Stream.reset with st := .running, fetched := [frameDesc false, frameDesc true] }

theorem witness_IntakeAndAdmission :
    (intakeState.clocksRun = true ∧ intakeState.dc.en = true ∧ dcRuns intakeState = true
      ∧ nextRing intakeState = some 255 ∧ regionOf intakeState 0 = .dram ∧ (dramRead intakeState 0).2.1 = false)
    ∧ (canAdmit (admitNoted admitState 0) 0 = true
      ∧ ((takeUpdates (admitNoted admitState 0)).dc.pipe 0).reissue = [] ∧ admits admitState = some (0, true))
    ∧ (canAdmit (admitNoted refusedState 0) 0 = true
      ∧ ((takeUpdates (admitNoted refusedState 0)).dc.pipe 0).reissue = []
      ∧ (admits refusedState).map (fun r => r.1 != 0) = some true)
    ∧ (SMap.get (fun _ => []) (fiState Stream.reset).fiq 1 = [2047] ∧ ((fiState Stream.reset).str 2047).st ≠ .running
      ∧ ((fiState Stream.reset).str 2047).boundary = none)
    ∧ (SMap.get (fun _ => []) fiRun.fiq 1 = [2047] ∧ (fiRun.str 2047).st = .running
      ∧ frameSeen fiRun 2047 = some (true, 0)) := by
  decide +kernel

/-- A completion record. -/
def rec0 : DoneRec := ⟨0, 4095, 1023, 0, 0, 0, 0, true, none⟩
/-- A ring with one task unsignalled for the coalescing time. -/
def waited : State := { lastRing { ring5 with cfg := 0x84000001, unsig := 1 } with tb := { Tb.reset with clk := 1000 } }

theorem witness_CompletionRecordsAndInterrupts : State.reset.clocksRun = true
    ∧ (dcRuns (lastRing { ring5 with due := [rec0] }) = true ∧ ringFull { ring5 with due := [rec0] } = false
      ∧ recordInOrder (lastRing { ring5 with due := [rec0] }) rec0 = true
      ∧ heldBefore (lastRing { ring5 with due := [rec0] }) 255 rec0 = false
      ∧ regionOf (lastRing { ring5 with due := [rec0] }) 0 = .dram)
    ∧ ((lastRing { ring5 with writing := [rec0] }).hi.accs.any fun a => a.owner == .ring 255) = false
    ∧ (bits ((waited.dc.ring 255).cfg.setWidth 64) 0 8 ≠ 0 ∧ (waited.dc.ring 255).unsig ≠ 0
      ∧ (waited.dc.ring 255).oldest + 1000 * bits ((waited.dc.ring 255).cfg.setWidth 64) 0 8 ≤ waited.clk) := by
  decide +kernel

/-! Host interface -/

/-- A device that has started, with 64 MiB of DRAM and module 1 up. -/
def started : State :=
  let s := ((State.reset.setFld rHiStart 29 3 5).wr rCapMemUsable 64).setBit rCapMem 31 true
  { s with hi := { s.hi with up1 := true } }

theorem witness_RegisterAccessesComplete : Awake started ∧
    (pathOpen started .u1 = true ∧ regServed started .u1 0x60000 true = true ∧ (regDef 0x60000).isSome = true
      ∧ pathOpen started .mp = true ∧ regServed started .mp 0x60000 true = true)
    ∧ regServed started .u1 0x67FF8 true = true ∧ (∀ n, n < 4 → (started.dp n).wbuf = [])
    ∧ (pathOpen started .sideband = true ∧ tapHidden .sideband 0x60000 = false
      ∧ regServed started .sideband 0x60000 true = false)
    ∧ pathOpen started .u0 = false
    ∧ (regServed started .u1 (0x24010 + 0x40 * 255) false = true ∧ tapHidden .u1 (0x24010 + 0x40 * 255) = false
      ∧ partTesting started 142 = false ∧ started.clocksRun = true) :=
  ⟨⟨by decide +kernel, by decide +kernel⟩, by decide +kernel⟩

theorem witness_MemoryTransactionsComplete : memPath .u1 = true ∧ pathOpen started .u1 = true ∧ started.ready = true
    ∧ (memForm 0x3FFFFF8 8 = true ∧ regionOf started 0x3FFFFC0 = .dram ∧ regionOf started 0x3FFFFF8 = .dram
      ∧ decodeLine (started.mem.line 0x3FFFFC0) (started.delta 0x3FFFFC0) = .ok)
    ∧ (memForm 0x1000831FFFC0 64 = true ∧ memWindow started 0x1000831FFFC0 64 = none
      ∧ linesOf 0x1000831FFFC0 64 = 1 ∧ regionOf started 0x1000831FFFC0 = .scSram 3 0x1FFFC0)
    ∧ (memForm 0x4000000 4096 = true ∧ memWindow started 0x4000000 4096 = none
      ∧ rangeMapped started 0x4000000 4096 = false) := by decide +kernel

/-- Data port 3 changed. -/
def portState3 (d : Dp) : State := started.setDp 3 d

theorem witness_DataPortsComplete : started.clocksRun = true ∧ Awake started ∧ dpServed started .u1 = true
    ∧ (started.dp 3).owner = 0
    ∧ ((portState3 { Dp.reset with owner := 0xFFFF, path := some .u1 }).dp 3).owner = (0xFFFF : BitVec 16).toNat
    ∧ ({ Dp.reset with owner := 0xFFFF, path := some .u1 } : Dp).shut .u1 = false
    ∧ ((started.dp 3).shut .u1 = false ∧ (started.dp 3).dir = false ∧ (started.dp 3).err = false
      ∧ (started.dp 3).addr % 64 + 64 ≤ 64 ∧ dpPlace started (started.dp 3).addr ≠ .unmapped)
    ∧ (dpPlace (portState3 { Dp.reset with dir := true, pref := List.replicate 64 0xA5 }) 0 = .memory
      ∧ (∀ m, m < 4 → ((portState3 { Dp.reset with dir := true, pref := List.replicate 64 0xA5 }).dp m).wbuf = [])
      ∧ dpServed (portState3 { Dp.reset with dir := true, pref := List.replicate 64 0xA5 }) .u1 = true)
    ∧ ((portState3 { Dp.reset with owner := 1, path := some .mp }).dp 3).shut .u1 = true
    ∧ ((portState3 { Dp.reset with wbuf := [(0, [1])] }).dp 3).wbuf = [(0, [1])]
    ∧ ((started.dp 3).wbuf = [] ∧ (started.dp 3).dir = false)
    ∧ (let s := portState3 { Dp.reset with dir := true, addr := 8 }
       (s.dp 3).wbuf = [] ∧ (s.dp 3).dir = true ∧ (s.dp 3).err = false ∧ (s.dp 3).pref.length + 64 ≤ 4096
       ∧ regionOf s 8 = .dram ∧ dpPlace s 8 = .memory ∧ (dramRead s 8).2.1 = false) :=
  ⟨by decide +kernel, ⟨by decide +kernel, by decide +kernel⟩, by decide +kernel⟩

/-- A state with one host access. -/
def hostState (up0 up1 : Bool) (a : HostAcc) (dt : Nat) : State :=
  { State.reset with hi := { State.reset.hi with up0 := up0, up1 := up1, accs := [a] }, tb := { Tb.reset with clk := dt } }
/-- An access of the DC, and one of ring 255. -/
def acc (wr : Bool) (m : Option Nat) : HostAcc := ⟨7, wr, 0, 0, fullMask, .dc, m, 0⟩
def ringAcc : HostAcc := ⟨7, true, 0, 0, fullMask, .ring 255, none, 0⟩

theorem witness_HostAccessesComplete : (hostState true true (acc false (some 1)) 0).clocksRun = true
    ∧ accOf (hostState true true (acc false (some 1)) 0) 7 = some (acc false (some 1))
    ∧ accOf (hostState true true (acc true (some 1)) 0) 7 = some (acc true (some 1))
    ∧ moduleUp (hostState true true (acc false (some 1)) 0) 1 = true
    ∧ moduleUp (hostState true true (acc false (some 1)) 0) 0 = true
    ∧ (moduleUp (hostState false true (acc false (some 1)) 0) 1 = true
      ∧ moduleUp (hostState false true (acc false (some 1)) 0) 0 = false)
    ∧ (State.reset.hasUcie 1 = true ∧ (5 : BitVec 3).toNat ≤ 5)
    ∧ (accOf (hostState false false (acc false none) 10000000) 7 = some (acc false none)
      ∧ (acc false none).since + 10000000 ≤ (hostState false false (acc false none) 10000000).clk
      ∧ (hostState false false (acc false none) 10000000).mainbandUp = false)
    ∧ accOf (hostState false false ringAcc 10000000) 7 = some ringAcc := by decide +kernel

/-- A started device with n requests of a command waiting, and an answer or none. -/
def asked (n : Nat) (cmd : W64) (answer : Option (Nat × List W64)) : State :=
  { started with mp := { started.mp with queue := List.replicate n ⟨33, [cmd]⟩, answer := answer } }
/-- The channel of core 7 of cluster 3 in a state. -/
def chanIn (st : MbState) : State := started.setMbox 33 { Mbox.reset with st := st }

theorem witness_MailboxRequestsAreQueuedAndAnswered : started.powerUp = true ∧ started.hasChan (.core 3 7) = true
    ∧ (started.ready = true ∧ (started.mbox 33).st ≠ .queued ∧ (asked 15 0 none).mp.queue.length < 16)
    ∧ State.reset.ready = false ∧ 16 ≤ (asked 16 0 none).mp.queue.length
    ∧ ((chanIn .queued).mbox (mbKey (.core 3 7))).st = .queued
    ∧ ((asked 1 1 (some (0, [5]))).mp.queue = ⟨33, [1]⟩ :: [] ∧ (asked 1 1 (some (0, [5]))).mp.answer = some (0, [5])
      ∧ (asked 1 1 (some (0, [5]))).mpTurn 2 = true)
    ∧ ((asked 1 0x41 none).mp.answer = none ∧ (asked 1 0x41 none).mpTurn 2 = true
      ∧ (asked 1 0x41 none).clocksRun = true
      ∧ [0x01, 0x02, 0x03, 0x10, 0x11, 0x12, 0x20, 0x30, 0x40].contains (bits (0x41 : W64) 0 16) = false) := by
  decide +kernel

/-- A device in a membership state. -/
def inState (d : Nat) : State := started.setFld rLkEpoch 29 3 d

theorem witness_ManagementCommandsComplete : started.clocksRun = true ∧ started.mp.restarting = false
    ∧ (mpAsked started 0x10 && started.mp.begun) = false ∧ wakeState started = 0
    ∧ mpAsked (asked 1 0x20 none) 0x20 = true ∧ mpAsked (asked 1 0x30 none) 0x30 = true
    ∧ (dstate started = 0 ∧ started.fld rCapUnits 16 6 ≠ 0) ∧ dstate (inState 2) = 2 ∧ dstate (inState 3) ≠ 2 := by
  decide +kernel

/-- An image at 0x1000 of one well with the given number of segments, resident in pipeline 7 or not. -/
def imageState (nsegs : Byte) (resident : Bool) : State :=
  let s := { started with mem := (if nsegs = 0 then [(0x1008, 1)] else [(0x1008, 1), (0x1009, nsegs)]) }
  let t := s.setWell 7 { Well.reset with run := .stopped, seg := 1, pipe := if resident then 0x87770001 else 0x07770001 }
  if resident then
    { t with mp := (s.mp.setImage 7 { Image.none_ with base := 0x1000, p0 := 7, wells := [7], resident := true }) }
  else t

theorem witness_ImagesAreLoadedUnloadedAndReloaded : started.clocksRun = true ∧ started.mp.restarting = false
    ∧ ((imageLoad (imageState 0 false) 0x1000 7 true 0).map fun r => (r.1, r.2.1)) = some (0, [])
    ∧ ((imageLoad started 0x1000 7 true 0).map fun r => r.1) = some stCtxInvalid
    ∧ (enginesBusy (imageState 16 true) 7 = false ∧ unloadable (imageState 16 true) 7 = true)
    ∧ (((imageState 16 true).mp.image 7).wells = [7] ∧ ((imageState 16 true).well 7).retry = [])
    ∧ (enginesBusy started 7 = false ∧ unloadable started 7 = false)
    ∧ (((imageState 16 true).mp.image 7).resident = true ∧ ((imageState 16 true).dc.pipe 7).flight = [])
    ∧ (let q := planAt (correctedMem (imageState 16 true)) 0x1000
       4 < q.nsegs ∧ 4 < q.nsegs ∧ segDue q.nsegs ((imageState 16 true).well 7).seg 0 4 = true
       ∧ ctxFree (imageState 16 true) [7] 0 = true) := by decide +kernel

/-- Pipeline 0 in reset, and pipeline 7 in reset with its image to load again. -/
def inReset : State := { inWell id with err := { Err.reset with resetting := [0] } }
def reloading : State := { imageState 16 true with err := { Err.reset with resetting := [7] } }

/-- The same with an image whose FABRIC section holds a word of no instruction. -/
def badReload : State := { reloading with mem :=
  [(0x1008, 1), (0x1009, 1), (0x100A, 1), (0x1018, 0x40), (0x1040, 2), (0x1049, 1), (0x1107, 0xFF), (0x110F, 0xFF)] }

theorem witness_FaultsAreReportedByScope : State.reset.clocksRun = true
    ∧ (markState.dc.task 1023).desc.dw ≠ [] ∧ (State.reset.dc.task 1023).desc.dw = []
    ∧ State.reset.bit rErrStatus 31 = false ∧ (State.reset.setBit rErrStatus 31 true).bit rErrStatus 31 = true
    ∧ (inReset.pipeWells 0 ≠ [] ∧ inReset.err.resetting.contains 0 = true)
    ∧ ((inWell id).pipeWells 0 ≠ [] ∧ (inWell id).err.resetting.contains 0 = false ∧ dcRuns (inWell id) = true)
    ∧ (reloading.err.resetting.contains 7 = true ∧ dcRuns reloading = true ∧ reloading.mpTurn 2 = true
      ∧ (reloading.strs.all fun e => !(e.2.st == .cancelling && e.2.fill == some stAborted)) = true
      ∧ enginesBusy reloading 7 = false ∧ (imageReload reloading 7).1 = 0)
    ∧ (imageReload badReload 7).1 ≠ 0 := by decide +kernel

/-! Chip links -/

/-- The last port in a state, enabled, in a device that is a member or not. -/
def linkState (st : Nat) (x : LinkPort) : State :=
  (((State.reset.setPort 5 x).setBit (rLkCfg 5) 31 true).setFld (rLkStatus 5) 29 3 st)
/-- A packet for device 5. -/
def pkTo : Packet := ⟨7, false, 5, 0, 0, 0, 0, 0, []⟩

theorem witness_LinkPortsTrainReceiveAndGoDown : State.reset.clocksRun = true ∧ State.reset.hasLink 5 = true
    ∧ bitAt ((0x80000000 : W32).setWidth 64) 31 = true ∧ portState (linkState lkDown .reset) 5 = lkDown
    ∧ bitAt ((0 : W32).setWidth 64) 31 = false
    ∧ ((linkState lkTraining .reset).bit (rLkCfg 5) 31 = true ∧ portState (linkState lkTraining .reset) 5 = lkTraining
      ∧ dstate (linkState lkTraining .reset) = 0 ∧ (linkState lkTraining .reset).bit (rLkCfg 5) 27 = true
      ∧ ((linkState lkTraining .reset).setBit (rLkCfg 5) 27 false).bit (rLkCfg 5) 27 = false)
    ∧ (portLive (linkState lkUp .reset) 5 = true ∧ Awake (linkState lkUp .reset))
    ∧ (511 : BitVec 9).toNat = ({ LinkPort.reset with rxExp := 511 } : LinkPort).rxExp
    ∧ (({ LinkPort.reset with nakSeq := 3, nakRun := 15 } : LinkPort).nakRun + 1 = 16
      ∧ ([(3, [])].findIdx? fun (e : Nat × List Line) => e.1 == (3 : BitVec 9).toNat) = some 0)
    ∧ (let s := { linkState lkUp { LinkPort.reset with retry := [(0, [])] } with tb := { Tb.reset with clk := 20000 } }
       portLive s 5 = true ∧ (s.port 5).retry ≠ [] ∧ (s.port 5).ackDt + 20000 ≤ s.clk)
    ∧ (let s := linkState lkUp { LinkPort.reset with rx := [pkTo] }
       portLive s 5 = true ∧ (s.port 5).rx = [pkTo] ∧ portState s 5 ≠ lkIsolated
       ∧ routeTo (s.setFld (rLkRt 5) 0 3 6) 5 = 6 ∧ routeTo (s.setFld (rLkRt 5) 0 3 7) 5 = 7
       ∧ routeTo (s.setFld (rLkRt 5) 0 3 0) 5 < 6) :=
  ⟨by decide +kernel, by decide +kernel, by decide +kernel, by decide +kernel, by decide +kernel, by decide +kernel,
    ⟨by decide +kernel, ⟨by decide +kernel, by decide +kernel⟩⟩, by decide +kernel, by decide +kernel, by decide +kernel,
    by decide +kernel⟩

/-- A hello of device 5 and an update of device 1023. -/
def hello5 : Hello := ⟨5, 0, 0, 0, 0⟩
def update : LinkState := ⟨1023, 5, 0, [], false⟩

theorem witness_MembershipIsAgreedHopByHop : State.reset.clocksRun = true ∧ State.reset.hasLink 5 = true
    ∧ (portState (linkState lkUp .reset) 5 = lkUp ∧ (linkState lkUp .reset).bit rLkId 31 = false
      ∧ dstate (linkState lkUp .reset) = 0 ∧ isMember (linkState lkUp .reset) 5 = false)
    ∧ (let s := (linkState lkAttached .reset).wr rLkId 0x80000005
       portState s 5 = lkAttached ∧ s.bit rLkId 31 = true ∧ hello5.id.toNat = ownId s)
    ∧ (let s := setMember { linkState lkUp .reset with lk := { State.reset.lk with serials := [(5, 1)] } } 5 true
       portState s 5 = lkUp ∧ isMember s 5 = true
       ∧ (s.lk.serials.find? fun e => e.1 == hello5.id.toNat) = some (5, 1) ∧ (1 : W64) ≠ hello5.serial)
    ∧ (let s := linkState lkAttached .reset
       portState s 5 = lkAttached ∧ update.origin.toNat ≠ ownId s
       ∧ (s.lk.states.find? fun e => e.1 == update.origin.toNat) = none)
    ∧ (let s := { linkState lkAttached .reset with lk := { (linkState lkAttached .reset).lk with states := [(1023, update)] } }
       (s.lk.states.find? fun e => e.1 == update.origin.toNat) = some (1023, update) ∧ update.seq.toNat ≤ update.seq.toNat
       ∧ update.seq.toNat < ({ update with seq := 6, leave := true } : LinkState).seq.toNat)
    ∧ (let s := (linkState lkAttached .reset).setFld rLkEpoch 29 3 1
       dstate s = 1 ∧ portState s 5 = lkAttached)
    ∧ (dstate (inState 3) = 3 ∧ peersQuiet (inState 3) = true ∧ (inState 3).mpTurn 3 = true)
    ∧ (let s := setMember { State.reset with lk := { State.reset.lk with left := [5] } } 5 true
       peerLost s 5 = true ∧ s.mpTurn 3 = true) := by decide +kernel

/-- Device 5 with a queue of one word that a stream of device 9 has reserved. -/
def ingressState (f : Ingress → Ingress) : State :=
  ((((linkState lkUp .reset).wr rLkId 0x80000005).setWell 0 (Well.reset.setSq 767 { SqEntry.reset with
    cfg := 0x80000001, resv := 1 })).setIngress 18432 (f ⟨true, 0, 767, 1, 255, 0, 0, 0⟩))
/-- A packet of a kind from device 9 to device 5 with two words. -/
def pk5 (kind : BitVec 4) (dw1 dw2 : W64) : Packet := ⟨kind, false, 5, 9, dw1, dw2, 0, 0, []⟩
/-- A STREAM packet of one word with a sequence number, and its words. -/
def streamPk (seq : W64) : Packet := pk5 1 (767 + seq <<< 24) 0
def wordsOf (pk : Packet) : List Word :=
  decodeWords (Fmt.ofCode (bits pk.dw1 32 4)) (Fmt.ofCode (bits pk.dw1 36 4)) (f32 (bits pk.dw2 0 32))
    (bits pk.dw1 40 6 + 1) (slotBytes pk.data)
/-- Device 5 with a stream that waits for the answer to a request. -/
def askedState : State := ((linkState lkUp .reset).wr rLkId 0x80000005).setStr 2047
  { Stream.reset with st := .running, asked := true, sent := [(0, 65536 + 3)] }
/-- The same with a peer window of 4 KiB at address 0. -/
def windowState : State := ((askedState.wr rCapMemUsable 64).setBit rLkPwCtrl 31 true).setFld rLkPwSize 12 25 1
/-- A stream of device 5 into entry 0 of well 0 of device 9. -/
def sourceState : State := askedState.setStr 0
  { Stream.reset with st := .running, fetched := [FDesc.fresh 0 0x40 (storeDw.set 6 0x0002000000012000)] }

/-- A delayed-scaling stream whose encoder has passed a window on port 5. -/
def delayedState : State :=
  ((State.reset.setStr 2047 { Stream.reset with link := 0x100000000 }).setEncoder 2047 ⟨true, 5, 0, 0, 1⟩)

theorem witness_PeerPacketsAreTakenAndAnswered : State.reset.clocksRun = true
    ∧ (forHere (ingressState id) (streamPk 255) 1 = true
      ∧ ((ingressState id).ingress (ingressKey (streamPk 255))).used = true
      ∧ pkSeqNo (streamPk 254) ≠ ((ingressState id).ingress (ingressKey (streamPk 254))).seq
      ∧ pkSeqNo (streamPk 255) = ((ingressState id).ingress (ingressKey (streamPk 255))).seq
      ∧ (ingressPush (ingressState id) 18432 (wordsOf (streamPk 255))).isSome = true
      ∧ ingressPush (ingressState fun e => { e with resv := 0 }) 18432 (wordsOf (streamPk 255)) = none)
    ∧ (forHere (ingressState id) (pk5 2 767 0x10000) 2 = true ∧ bitAt (pk5 2 767 0x10000).dw2 16 = true
      ∧ creditMay (ingressState id) (pk5 2 767 0x10000) = true
      ∧ ((ingressState id).ingress (ingressKey (pk5 2 767 0x10000))).used = true)
    ∧ (forHere askedState (pk5 2 0xFFE000 5) 2 = true ∧ bitAt (pk5 2 0xFFE000 5).dw2 16 = false
      ∧ (askedState.str (pkStrIdx (pk5 2 0xFFE000 5))).asked = true)
    ∧ (forHere askedState (pk5 4 0 0) 4 = true ∧ pwrStatus askedState 0 1 ≠ 0 ∧ pwrStatus windowState 0 1 = 0
      ∧ forHere windowState (pk5 4 0 0) 4 = true ∧ forHere askedState (pk5 5 0 0) 5 = true)
    ∧ (forHere (ingressState id) (pk5 7 767 0) 7 = true
      ∧ ((ingressState id).ingress (ingressKey (pk5 7 767 0))).used = true
      ∧ ((ingressState id).ingress (ingressKey (pk5 7 767 0))).well = pkQWell (pk5 7 767 0)
      ∧ ((ingressState id).ingress (ingressKey (pk5 7 767 0))).entry = pkQEntry (pk5 7 767 0))
    ∧ (forHere sourceState (pk5 7 0 0) 7 = true ∧ (sourceState.str (pkStrIdx (pk5 7 0 0))).st = .running
      ∧ ((sourceState.str 0).fetched.find? fun d => d.dkind == 2 && refPeer d.dest == (pk5 7 0 0).src.toNat
        && refWell d.dest == pkQWell (pk5 7 0 0) && refEntry d.dest == pkQEntry (pk5 7 0 0)).isSome = true)
    ∧ (forHere askedState (pk5 3 4 0) 3 = true ∧ bitAt (pk5 3 4 0).dw1 40 = false ∧ tagOwner askedState 4 = none
      ∧ tagOwner askedState 3 = some 2047 ∧ bits (pk5 3 3 0).dw1 32 8 = 0)
    ∧ (forHere askedState (pk5 3 0x10000000000 0) 3 = true ∧ bitAt (pk5 3 0x10000000000 0).dw1 40 = true)
    ∧ (forHere askedState (pk5 6 3 0) 6 = true ∧ bits (pk5 6 3 0).dw1 16 8 = 0)
    ∧ (lateKeys askedState (askedState.str 2047) = []
      ∧ (let s := { askedState with tb := { Tb.reset with clk := 2000000 } }
         lateKeys s (s.str 2047) = [65539] ∧ (s.str 2047).st = .running))
    ∧ ((delayedState.encoder 2047).used = true ∧ (delayedState.encoder 2047).port = 5
      ∧ delayed (delayedState.str 2047) = true ∧ windowW (delayedState.str 2047) ≤ (delayedState.encoder 2047).blocks) := by
  decide +kernel

/-! Time -/

/-- A member under a time-base source, its wellhead device 1. -/
def timeState (src : Nat) : State := ((inState 2).setFld rTbCtrl 30 2 src).setFld rTbCtrl 16 10 1
/-- A TIME packet with its message. -/
def timePk (msg : W64) : Packet := ⟨9, false, 0, 0, msg, 0, 0, 0, []⟩

theorem witness_DeviceTimeIsSetSteppedAndSlewed : State.reset.clocksRun = true ∧ State.reset.tb.internal = false
    ∧ Awake State.reset
    ∧ ((timeState 1).fld rTbCtrl 30 2 = 1 ∧ (timeState 0).fld rTbCtrl 30 2 = 0)
    ∧ (let s := { timeState 1 with tb := { Tb.reset with clk := 2000000000 } }
       s.tb.ppsDt + 2000000000 ≤ s.clk ∧ s.fld rTbStatus 29 3 ≠ 3)
    ∧ ((timeState 2).fld rTbCtrl 30 2 = 2 ∧ dstate (timeState 2) = 2 ∧ ownId (timeState 2) ≠ (timeState 2).fld rTbCtrl 16 10
      ∧ routeTo ((timeState 2).setFld (rLkRt 1) 0 3 5) ((timeState 2).fld rTbCtrl 16 10) < 6
      ∧ 6 ≤ routeTo ((timeState 2).setFld (rLkRt 1) 0 3 7) ((timeState 2).fld rTbCtrl 16 10))
    ∧ (let s := { (timeState 2).setFld (rLkStatus 5) 29 3 lkAttached with tb := { Tb.reset with exch := some (7, 5) } }
       portState s 5 = lkAttached ∧ (timePk 1).kind = 9 ∧ bits (timePk 1).dw1 0 2 = 1 ∧ bits (timePk 0).dw1 0 2 = 0
       ∧ s.tb.exch = some (7, (5 : Fin 6).val) ∧ s.fld rTbCtrl 30 2 = 2)
    ∧ (State.reset.tb.dt < 2 ^ 96 ∧ State.reset.dt + 1000000 < (1000001 : W64).toNat
      ∧ ((1000000 : W64).toNat ≤ State.reset.dt + 1000000 ∧ State.reset.dt ≤ (1000000 : W64).toNat + 1000000))
    ∧ (let s := { State.reset.setBit rTbCtrl 29 true with tb := { Tb.reset with dt := 1000001 * 2 ^ 32 } }
       (0 : W64).toNat + 1000000 < s.dt ∧ s.bit rTbCtrl 29 = true ∧ tasksInFlight s = 0
       ∧ State.reset.bit rTbCtrl 29 = false)
    ∧ ((State.reset.tb.latch.find? fun e => e.1 == pathNum .u1) = none
      ∧ ([(pathNum .u1, (5 : W32))].find? fun e => e.1 == pathNum .u1) = some (pathNum .u1, 5))
    ∧ (let s := { started with tb := { Tb.reset with dt := 1000000000 * 2 ^ 32 } }
       s.fld rTbTsync 0 16 ≠ 0 ∧ s.tb.tsyncNext ≤ s.dt ∧ s.fld rHiStart 29 3 ≠ 0)
    ∧ (State.reset.bit (rTbTrgCtrl 7) 31 = false ∧ bitAt ((0x80000000 : W32).setWidth 64) 31 = true
      ∧ bitAt ((0 : W32).setWidth 64) 31 = false ∧ State.reset.dt ≤ (State.reset.rd (rTbTrgStart 7)).toNat)
    ∧ (let s := State.reset.setBit (rTbTrgCtrl 7) 31 true
       s.bit (rTbTrgCtrl 7) 31 = true ∧ edgeDt s 7 (s.tb.trig 7).next ≤ s.dt) :=
  ⟨by decide +kernel, by decide +kernel, ⟨by decide +kernel, by decide +kernel⟩, by decide +kernel⟩

/-! Service cores and the management processor -/

/-- Core 7 of cluster 3 as the core of a pipeline at well 0 that holds an entry 767. -/
def coreState (h : Hart → Hart) (q : SqEntry) : State :=
  (((inQueue 767 q).setBit (rScClCtrl 3) 31 true).setFld (rScClMap 3) 0 4 1).setHart 31 (h { Hart.reset with run := .running })
/-- A semaphore entry with counts, and data queues with a place and with a word. -/
def sem6 : SqEntry := { SqEntry.reset with cfg := 0x80000000, free := 6, filled := 6 }
def room : SqEntry := { SqEntry.reset with cfg := 0x80000001 }
def full1 : SqEntry := { SqEntry.reset with cfg := 0x80000001, t := 1, w := 1 }


theorem witness_ServiceCoreInstructionsComplete : (coreState id sem6).clocksRun = true
    ∧ (coreState id sem6).hasSc 3 = true
    ∧ (((coreState id sem6).hart (hartIx 3 7)).live = true ∧ queueRef (coreState id sem6) 3 767 = some (0, 767)
      ∧ ((coreState id sem6).sq 0 767).isSem = true ∧ countOk 6 = true ∧ countOk 7 = true ∧ countOk 0xFFFF = true
      ∧ (6 : W64).toNat ≤ ((coreState id sem6).sq 0 767).semCount (refSel 767)
      ∧ ((coreState id sem6).sq 0 767).semCount (refSel 767) < (7 : W64).toNat)
    ∧ (queueRef (coreState id room) 3 767 = some (0, 767) ∧ ((coreState id room).sq 0 767).isSem = false
      ∧ ((coreState id room).sq 0 767).canPush (retriesOf ((coreState id room).well 0) 767
        + slotsComing ((coreState id room).well 0) 767) = true
      ∧ ((coreState id room).sq 0 767).canPop = false)
    ∧ (((coreState id full1).sq 0 767).canPop = true ∧ sideReadFree (coreState id full1) 0 767 = true
      ∧ ((coreState id full1).sq 0 767).canPush (retriesOf ((coreState id full1).well 0) 767
        + slotsComing ((coreState id full1).well 0) 767) = false)
    ∧ queueRef (coreState id sem6) 3 0 = none
    ∧ (clusterPipe (coreState id sem6) 3 = some 0 ∧ ((coreState id sem6).hart 31).released = false
      ∧ ((coreState id sem6).hart 31).arrived = false
      ∧ ((coreState (fun h => { h with released := true }) sem6).hart 31).released = true)
    ∧ (((coreState id sem6).hart 31).run = .running ∧ 0x1000831FFFC1 % 2 ≠ 0 ∧ 0x1000831FFFC0 % 8 = 0
      ∧ ((coreState id sem6).hart 31).pmpAllows 0x1000831FFFC0 8 true = true
      ∧ ((coreState id sem6).hart 31).pmpAllows 0x1000831FFFC0 8 false = true
      ∧ regionOf (coreState id sem6) 0x1000831FFFC0 = .scSram 3 0x1FFFC0) := by decide +kernel

/-- A device that restarts its MP, one in a start, and one in a wake state. -/
def restartingState : State := { started with mp := { started.mp with restarting := true } }
def inStart (n : Nat) : State := { State.reset with boot := { State.reset.boot with starting := true, expiries := n } }
def asleep (w : Nat) : State := started.setFld rPwrWake 29 3 w
/-- A device whose start is over. -/
def started1 : State := { started with boot := { State.reset.boot with starting := false } }
/-- A device long idle that tolerates a wake latency, with W5 allowed and SST set or not. -/
def idleState (us : Nat) (w5 sst : Bool) : State :=
  let s := ((started.setFld rPwrLattol 0 32 us).setBit rPwrWake 24 w5).setBit rPwrWake 25 sst
  { s with pwr := { s.pwr with idleSince := some 0 }, tb := { s.tb with clk := 70000000 } }

theorem witness_MpDutiesAndWakeStates : State.reset.clocksRun = true
    ∧ (started1.clocksRun = true ∧ started1.boot.starting = false ∧ started1.mp.restarting = false)
    ∧ ((inStart 1).clocksRun = true ∧ (inStart 1).boot.starting = true ∧ (inStart 1).boot.expiries < 2
      ∧ 2 ≤ (inStart 2).boot.expiries)
    ∧ restartingState.mp.restarting = true
    ∧ (State.reset.mpTurn 5 = true ∧ (asked 1 1 none).mpTurn 5 = false)
    ∧ (765 < 4 * (192 : BitVec 8).toNat ∧ 2 * (127 : BitVec 8).toNat < 255
      ∧ (255 ≤ 2 * (128 : BitVec 8).toNat ∧ 4 * (191 : BitVec 8).toNat ≤ 765))
    ∧ (let ok := fun (s : State) => wakeState s = 0 ∧ s.ready = true ∧ s.mp.restarting = false ∧ sstBusy s = false
         ∧ idleLong s = true
       (ok (idleState 0 false false) ∧ deepest (idleState 0 false false) = 0)
       ∧ (ok (idleState 0xFFFFFFFF false false) ∧ deepest (idleState 0xFFFFFFFF false false) = 4
         ∧ (idleState 0xFFFFFFFF false false).hasMc 7 = true)
       ∧ (ok (idleState 0xFFFFFFFF true false) ∧ deepest (idleState 0xFFFFFFFF true false) = 5
         ∧ (idleState 0xFFFFFFFF true false).bit rPwrWake 25 = false)
       ∧ (ok (idleState 0xFFFFFFFF true true) ∧ deepest (idleState 0xFFFFFFFF true true) = 5
         ∧ (idleState 0xFFFFFFFF true true).bit rPwrWake 25 = true))
    ∧ ((asleep 1).clocksRun = true ∧ wakeState (asleep 1) = 1 ∧ wakeState (asleep 3) = 3 ∧ wakeState (asleep 4) = 4)
    ∧ Awake State.reset :=
  ⟨by decide +kernel, by decide +kernel, by decide +kernel, by decide +kernel, by decide +kernel, by decide +kernel,
    by decide +kernel, by decide +kernel, ⟨by decide +kernel, by decide +kernel⟩⟩

/-! Rim -/

/-- Slots of the Rim in given states, slot B selected by the window or not. -/
def rimSlots (a b : SlotState) (win : Bool) : State :=
  { State.reset.setBit rRimCtrl 29 win with rim := { State.reset.rim with slotA := a, slotB := b } }
/-- A device whose pins slot A drives. -/
def rimOn : State := (((rimSlots .committed .empty false).setBit rRimCtrl 31 true).setBit rRimStatus 31 true)

theorem witness_RimCommandsComplete : State.reset.clocksRun = true
    ∧ ((19455 : BitVec 15).toNat < 19456 ∧ slotState (rimSlots .empty .loading true) ((rimSlots .empty .loading true).bit rRimCtrl 29) = .loading
      ∧ slotState (rimSlots .committed .loading false) ((rimSlots .committed .loading false).bit rRimCtrl 29) = .committed)
    ∧ ((rimSlots .empty .loading true).bit rRimStatus 29 = false ∧ slotState (rimSlots .empty .loading true) true = .loading)
    ∧ (rimSlots .committing .empty false).rim.slotA = .committing
    ∧ ((rimSlots .committed .committing false).rim.slotA ≠ .committing
      ∧ (rimSlots .committed .committing false).rim.slotB = .committing)
    ∧ (rimActive rimOn = true ∧ rimSel rimOn ≠ true ∧ slotState rimOn true ≠ .committing ∧ slotState rimOn true ≠ .committed)
    ∧ (rimActive (rimSlots .committed .empty false) = false ∧ slotState (rimSlots .committed .empty false) false = .committed)
    ∧ ((State.reset.setBit rRimCapStatus 31 true).bit rRimCapStatus 31 = true ∧ State.reset.bit rRimCapStatus 31 = false)
    ∧ (let s := (State.reset.setBit rRimCap 31 true).setBit rRimCap 25 false
       s.bit rRimCap 31 = true ∧ s.bit rRimCap 25 = false ∧ s.bit rRimCapStatus 31 = false
       ∧ (s.setBit rRimCapStatus 31 true).bit rRimCapStatus 31 = true)
    ∧ (let s := State.reset.setBit (rRimStampCfg 7) 31 true
       s.bit (rRimStampCfg 7) 31 = true ∧ (s.rim.stamp 7).length < 16
       ∧ 16 ≤ ((s.rim.setStamp 7 (List.replicate 16 0)).stamp 7).length
       ∧ (s.rim.setStamp 7 [3, 4]).stamp 7 = 3 :: [4])
    ∧ (rimActive (rimOn.setFld rRimCtrl 0 11 5) = true ∧ (rimOn.setFld rRimCtrl 0 11 5).fld rRimCtrl 0 11 ≠ 0x7FE)
    ∧ Awake (rimOn.setFld rRimCtrl 0 11 5) :=
  ⟨by decide +kernel, by decide +kernel, by decide +kernel, by decide +kernel, by decide +kernel, by decide +kernel,
    by decide +kernel, by decide +kernel, by decide +kernel, by decide +kernel, by decide +kernel,
    ⟨by decide +kernel, by decide +kernel⟩⟩

/-! Power -/

/-- A change to a rate is in progress at a present rate. -/
def changing (now tgt : Nat) (settled : Bool) : State :=
  let s := (State.reset.setBit rPwrMode 27 true).setFld rPwrMode 16 11 now
  { s with pwr := { s.pwr with tgtMhz := tgt, settled := settled } }
/-- A well in a droop of n cycles, with a number of trips in the window. -/
def drooping (n trips : Nat) : State :=
  State.reset.setWell 7 { Well.reset with droop := 0x8000, droopCycles := n, trips := trips }
/-- The count clock at 10 ms, with the power manager changed. -/
def at10ms (f : Pwr → Pwr) : State :=
  { (State.reset.setFld rPwrMode 16 11 1200) with tb := { Tb.reset with clk := 10000000 }, pwr := f State.reset.pwr }

theorem witness_PowerCommandsComplete : State.reset.clocksRun = true
    ∧ ((changing 1000 1200 true).fld rPwrMode 16 11 = modeRate 1 ∧ droopCalm (changing 1000 1200 true) = true)
    ∧ ((changing 1000 1200 true).bit rPwrMode 27 = true ∧ (changing 1000 1200 true).pwr.tgtMhz < 2048
      ∧ anyDroop (changing 1000 1200 true) = false ∧ (changing 1000 1200 true).pwr.droopHold ≤ (changing 1000 1200 true).clk
      ∧ (changing 1000 1200 true).pwr.settled = true)
    ∧ ((changing 1000 1200 false).fld rPwrMode 16 11 < (changing 1000 1200 false).pwr.tgtMhz
      ∧ (changing 1000 1200 false).pwr.settled = false)
    ∧ (changing 1000 400 false).pwr.tgtMhz ≤ (changing 1000 400 false).fld rPwrMode 16 11
    ∧ (anyDroop ((changing 1000 1200 true).setWell 7 { Well.reset with droop := 1 }) = true ∧ State.reset.hasWell 7 = true)
    ∧ (((drooping 32 1001).well 7).droop ≠ 0 ∧ 32 ≤ ((drooping 32 1001).well 7).droopCycles
      ∧ 1000 < ((drooping 32 1001).well 7).trips ∧ (drooping 32 1001).pwr.margin < 30
      ∧ (drooping 32 1001).pwr.marginDt = none ∧ (drooping 32 1001).fld rPwrMode 0 16 < 65000
      ∧ ((drooping 32 1000).well 7).trips ≤ 1000)
    ∧ (sensorFitted State.reset 63 = true ∧ ([⟨true, 2000⟩] : List Reading).getD 0 ⟨false, 0⟩ = ⟨true, 2000⟩)
    ∧ (State.reset.mpTurn 4 = true ∧ (asked 1 1 none).mpTurn 4 = false)
    ∧ (let s := at10ms fun p => { p with gLowSince := some 0, unmetSince := some 0 }
       s.mpTurn 4 = true ∧ s.bit rPwrMode 27 = false ∧ s.pwr.gLowSince = some 0 ∧ 0 + 10000000 ≤ s.clk
       ∧ 400 < s.fld rPwrMode 16 11 ∧ s.pwr.unmetSince = some 0 ∧ s.bit rPwrStatus 31 = false)
    ∧ (bitAt ({ State.reset.pwr with hotOnce := 0x8000000000000000 } : Pwr).hotOnce (63 : Fin 64).val = true
      ∧ 2000 ≤ signedOf 16 (2000 : BitVec 16).toNat) := by decide +kernel

/-! Resets, starts and the self-test -/

/-- A start that can go on, at a phase. -/
def startState (n : Nat) : State :=
  { State.reset.setFld rHiStart 29 3 n with boot :=
    { State.reset.boot with starting := true, porst := true, supply := true, wrst := true } }
/-- A self-test pass in a state, with partitions under test. -/
def passState (st : Nat) (l : List Nat) : State :=
  { State.reset.setFld rSstStatus 29 3 st with sst := { State.reset.sst with testing := l } }

theorem witness_ResetsStartsAndSelfTest :
    (({ State.reset with boot := { State.reset.boot with porst := false } } : State).boot.porst = false)
    ∧ (State.reset.tripped = false ∧ State.reset.powerUp = true ∧ State.reset.boot.warm = none)
    ∧ ((0xA5C4 : BitVec 16) ≠ 0xA5C3 ∧ State.reset.boot.wrst = true)
    ∧ (let s := { State.reset.setBit rCapMem 31 true with boot := { State.reset.boot with warm := some (.pin, true) } }
       s.clocksRun = true ∧ s.boot.warm = some (.pin, true) ∧ (.pin : WarmCause) ≠ .security ∧ s.bit rCapMem 31 = true)
    ∧ (startGoes (startState 0) = true ∧ startPhase (startState 0) = 0)
    ∧ (startPhase (startState 1) = 1 ∧ (startState 1).boot.fromOne = false ∧ selectCopy (startState 1) = 0)
    ∧ (startPhase (startState 2) = 2 ∧ sstBusy (startState 2) = false ∧ startPhase (repairCheck (startState 2)) = 2)
    ∧ sstBusy ((startState 2).setFld rSstStatus 29 3 1) = true
    ∧ (startPhase (startState 3) = 3 ∧ startPhase (startState 4) = 4 ∧ startGoes (startState 4) = true)
    ∧ startGoes started1 = false
    ∧ ((passState 1 [142]).fld rSstStatus 29 3 = 1 ∧ (passState 1 [142]).sst.testing.contains (142 : Fin 143).val = true
      ∧ (passState 1 [142]).clocksRun = true)
    ∧ (passState 2 []).fld rSstStatus 29 3 = 2
    ∧ ({ State.reset.sst with shutdown := true } : Sst).shutdown = true := by decide +kernel

/-! Security -/

theorem witness_SecurityCommandsComplete : State.reset.clocksRun = true ∧ State.reset.bit rSecAttest 30 = false
    ∧ (let s := State.reset.setBit rSecAttest 30 true
       s.bit rSecAttest 30 = true ∧ s.bit rSecStatus 27 = false ∧ s.bit rSecStatus 30 = false
       ∧ (s.setBit rSecStatus 27 true).bit rSecStatus 27 = true ∧ (s.setBit rSecStatus 30 true).bit rSecStatus 30 = true)
    ∧ (otpAllowed State.reset .u0 0x2097 = false
      ∧ (let s := State.reset.setFld rSecProvAddr 3 13 (0x2098 / 8)
         otpAllowed s .u0 (s.fld rSecProvAddr 3 13 * 8) = true ∧ powerGood s = true)
      ∧ otpAllowed State.reset .u0 (State.reset.fld rSecProvAddr 3 13 * 8) = false)
    ∧ (State.reset.fld rDbgStatus 0 5 < 16 ∧ 16 ≤ (State.reset.setFld rDbgStatus 0 5 16).fld rDbgStatus 0 5)
    ∧ State.reset.bit rDbgStatus 27 = false := by decide +kernel

/-! Performance -/

/-- A PMU with every counter running, counter n at its greatest value. -/
def atMax (n : Nat) : State := (State.reset.setBit rPmuCtrl 31 true).setFld (rPmuCnt n) 0 48 (2 ^ 48 - 1)
/-- A tagger whose instruction has finished, with a ring at 0x1000 and n records in it. -/
def tagDone (n : Nat) : State :=
  let s := ((State.reset.wr rCapMemUsable 64).wr rPmuTagBase 0x1000).setFld rPmuTagHead 0 32 n
  { s with pmu := { s.pmu with run := some ⟨7, 1, 2, 3, 4, 5, 6, 7, true⟩ } }

theorem witness_PerformanceCountersComplete : State.reset.clocksRun = true
    ∧ ((atMax 31).bit rPmuCtrl 31 = true ∧ (atMax 31).fld (rPmuCnt 31) 0 48 = 2 ^ 48 - 1 ∧ 31 % 2 = 1
      ∧ (atMax 0).fld (rPmuCnt 0) 0 48 = 2 ^ 48 - 1 ∧ (atMax 0).bit (rPmuSel 1) 7 = false)
    ∧ (State.reset.setBit rPmuBwCtrl 31 true).bit rPmuBwCtrl 31 = true
    ∧ (let s := (dataState.setBit rPmuQpCtrl 31 true).wr (rPmuQp 15) 0x800002FF
       let q := s.rd (rPmuQp 15)
       s.clocksRun = true ∧ s.bit rPmuQpCtrl 31 = true ∧ bitAt q 31 = true ∧ bits q 0 10 ≤ 767
       ∧ ((s.well (bits q 10 3)).sq (bits q 0 10)).enabled = true)
    ∧ ((State.reset.setBit rPmuTagCtrl 31 true).bit rPmuTagCtrl 31 = true ∧ State.reset.pmu.left = 0
      ∧ State.reset.pmu.run = none)
    ∧ ((tagDone 5).pmu.run = some ⟨7, 1, 2, 3, 4, 5, 6, 7, true⟩
      ∧ (5 + 2 ^ 32 - (tagDone 5).fld rPmuTagTail 0 32) % 2 ^ 32 ≠ tagRing (tagDone 5)
      ∧ (tagRing (tagDone 5) + 2 ^ 32 - (tagDone (tagRing (tagDone 5))).fld rPmuTagTail 0 32) % 2 ^ 32 = tagRing (tagDone 5)
      ∧ ((tagDone 5).rd rPmuTagBase).toNat + 5 % tagRing (tagDone 5) * 32 = 0x10A0
      ∧ regionOf (tagDone 5) 0x10A0 = .dram ∧ regionOf (tagDone 5) 0x1080 = .dram
      ∧ decodeLine ((tagDone 5).mem.line 0x1080) ((tagDone 5).delta 0x10A0) = .ok) := by decide +kernel

/-! Invariants -/

/-- The state after reset with a command waiting. -/
def withNext (c : Instr) : State := { State.reset with pending := [c] }

theorem witness_EveryStepKeepsMemoryCanonical : (withNext .tbrefLoss).Inv
    ∧ ∃ t, Sys2Proof.Machine.step (withNext .tbrefLoss) = .next t :=
  ⟨show Memory.wf (withNext .tbrefLoss).mem = true by decide +kernel, _, rfl⟩

theorem witness_CommandsLeaveTheQueueAndTheirMemoryAlone : (∃ t, exec .tbrefLoss State.reset = .next t)
    ∧ Instr.mayStore .tbrefLoss = false ∧ Instr.wakesOnly .rimIrqEdge = true ∧ Awake State.reset :=
  ⟨⟨_, rfl⟩, by decide +kernel, by decide +kernel, by decide +kernel, by decide +kernel⟩

end Sys2Proof.Tests
end

section
/-! What decides whether the device is awake, and that the counters, the error log and the link ports leave it
alone (R475, R524). -/

namespace Sys2Proof.Machine

/-- What decides whether the device is awake: `PWR_WAKE` and the self-test record. -/
def State.wakeView (s : State) : W64 × Sst := (s.rd rPwrWake, s.sst)

theorem wakeView_ext {s t : State} (hr : t.rd rPwrWake = s.rd rPwrWake) (hs : t.sst = s.sst) :
    t.wakeView = s.wakeView := by rw [State.wakeView, hr, hs, State.wakeView]

theorem Awake.of_wakeView {s t : State} (h : t.wakeView = s.wakeView) (hs : Awake s) : Awake t := by
  obtain ⟨hr, hsst⟩ := Prod.mk.inj h
  exact ⟨(congrArg (bits · 29 3) hr).trans hs.1, (congrArg Sst.shutdown hsst).trans hs.2⟩

theorem wakeView_of_parts {s t : State} (hr : t.regs = s.regs) (hs : t.sst = s.sst) :
    t.wakeView = s.wakeView := wakeView_ext (State.rd_of_regs hr _) hs

/-! Registers that the links and the counters write are not `PWR_WAKE`. -/

@[simp] theorem rPmuCnt_ne_rPwrWake (n : Nat) : rPmuCnt n ≠ rPwrWake := by unfold rPmuCnt rPwrWake; omega
@[simp] theorem rLkStatus_ne_rPwrWake (n : Nat) : rLkStatus n ≠ rPwrWake := by unfold rLkStatus rPwrWake; omega
@[simp] theorem rLkFec_ne_rPwrWake (n : Nat) : rLkFec n ≠ rPwrWake := by unfold rLkFec rPwrWake; omega
@[simp] theorem rLkRetry_ne_rPwrWake (n : Nat) : rLkRetry n ≠ rPwrWake := by unfold rLkRetry rPwrWake; omega
@[simp] theorem rLkRt_ne_rPwrWake (n : Nat) : rLkRt n ≠ rPwrWake := by unfold rLkRt rPwrWake; omega

theorem wakeView_wr (s : State) {o : Nat} (v : W64) (h : o ≠ rPwrWake) : (s.wr o v).wakeView = s.wakeView :=
  wakeView_ext (State.rd_wr_other s v h.symm) rfl
@[simp] theorem wakeView_setFld (s : State) {o : Nat} (l n x : Nat) (h : o ≠ rPwrWake) :
    (s.setFld o l n x).wakeView = s.wakeView := wakeView_wr s _ h
@[simp] theorem wakeView_setBit (s : State) {o : Nat} (l : Nat) (b : Bool) (h : o ≠ rPwrWake) :
    (s.setBit o l b).wakeView = s.wakeView := wakeView_wr s _ h
@[simp] theorem wakeView_addSat (s : State) {o : Nat} (l n x : Nat) (h : o ≠ rPwrWake) :
    (s.addSat o l n x).wakeView = s.wakeView := wakeView_wr s _ h
@[simp] theorem wakeView_addWrap (s : State) {o : Nat} (l n : Nat) (h : o ≠ rPwrWake) :
    (s.addWrap o l n).wakeView = s.wakeView := wakeView_wr s _ h
@[simp] theorem wakeView_setPort (s : State) (n : Nat) (x : LinkPort) :
    (s.setPort n x).wakeView = s.wakeView := rfl
theorem wakeView_lk (s : State) (x : LinkDev) : ({ s with lk := x } : State).wakeView = s.wakeView := rfl
theorem wakeView_tb (s : State) (x : Tb) : ({ s with tb := x } : State).wakeView = s.wakeView := rfl
@[simp] theorem wakeView_ite (c : Prop) [Decidable c] (a b : State) :
    (if c then a else b).wakeView = if c then a.wakeView else b.wakeView := apply_ite _ c a b
@[simp] theorem wakeView_foldl {α : Type} (g : State → α → State) (h : ∀ s x, (g s x).wakeView = s.wakeView)
    (l : List α) (s : State) : (l.foldl g s).wakeView = s.wakeView := foldl_part _ g h l s

@[simp] theorem wakeView_signalVec (s : State) (v : Nat) : (signalVec s v).wakeView = s.wakeView :=
  wakeView_of_parts (signalVec_regs s v) (signalVec_sst s v)
@[simp] theorem wakeView_countUp (s : State) (n : Nat) : (countUp s n).wakeView = s.wakeView := by
  simp [countUp]
@[simp] theorem wakeView_event (s : State) (c u e : Nat) : (event s c u e).wakeView = s.wakeView := by
  simp [event]
@[simp] theorem wakeView_bwCount (s : State) (i d : Nat) : (bwCount s i d).wakeView = s.wakeView := by
  unfold bwCount; split <;> rfl
@[simp] theorem wakeView_logOnly (s : State) (f : FaultInfo) : (logOnly s f).wakeView = s.wakeView := by
  unfold logOnly
  exact wakeView_ext (logEntry_rd s f 0 none none (by decide) (by decide)) (logEntry_sst s f 0 none none)
@[simp] theorem wakeView_enterHoldover (s : State) : (enterHoldover s).wakeView = s.wakeView := by
  simp only [enterHoldover, setTrim, wakeView_tb]
  simp

/-! ### Link ports -/

@[simp] theorem wakeView_putFlit (s : State) (n k q : Nat) (l : List Line) :
    (putFlit s n k q l).wakeView = s.wakeView := rfl
@[simp] theorem wakeView_putIdle (s : State) (n : Nat) : (putIdle s n).wakeView = s.wakeView := rfl
@[simp] theorem wakeView_formFlits (s : State) (n k : Nat) : (formFlits s n k).wakeView = s.wakeView := by
  induction k generalizing s with
  | zero => rfl
  | succ k ih => simp [formFlits, ih]
@[simp] theorem wakeView_runPort (s : State) (n : Nat) : (runPort s n).wakeView = s.wakeView := by
  simp [runPort]
@[simp] theorem wakeView_sendPacket (s : State) (n : Nat) (p : Packet) :
    (sendPacket s n p).wakeView = s.wakeView := by simp [sendPacket]
@[simp] theorem wakeView_floodState (s : State) (u : LinkState) (o : Option Nat) :
    (floodState s u o).wakeView = s.wakeView := by simp [floodState]
@[simp] theorem wakeView_storeState (s : State) (u : LinkState) : (storeState s u).wakeView = s.wakeView := rfl
@[simp] theorem wakeView_installRoutes (s : State) : (installRoutes s).wakeView = s.wakeView := by
  simp only [installRoutes, wakeView_ite, wakeView_enterHoldover, wakeView_lk]
  simp
@[simp] theorem wakeView_ownUpdate (s : State) (leave : Bool) : (ownUpdate s leave).wakeView = s.wakeView := by
  simp only [ownUpdate, wakeView_ite, wakeView_installRoutes, wakeView_floodState, wakeView_storeState,
    wakeView_lk, ite_self]
@[simp] theorem wakeView_setPortState (s : State) (n x : Nat) :
    (setPortState s n x).wakeView = s.wakeView := wakeView_setFld _ _ _ _ (rLkStatus_ne_rPwrWake n)
@[simp] theorem wakeView_portClose (s : State) (n : Nat) : (portClose s n).wakeView = s.wakeView := by
  simp [portClose]
@[simp] theorem wakeView_portDown (s : State) (n : Nat) : (portDown s n).wakeView = s.wakeView := by
  simp [portDown]
@[simp] theorem wakeView_ackTo (s : State) (n a : Nat) : (ackTo s n a).wakeView = s.wakeView := by
  unfold ackTo; dsimp only; split <;> simp
@[simp] theorem wakeView_nakAt (s : State) (n q : Nat) : (nakAt s n q).wakeView = s.wakeView := by
  unfold nakAt; dsimp only; (repeat' split) <;> simp
@[simp] theorem wakeView_sendNak (s : State) (n : Nat) (again : Bool) :
    (sendNak s n again).wakeView = s.wakeView := by simp [sendNak]
@[simp] theorem wakeView_flitData (s : State) (n : Nat) (f : Flit) : (flitData s n f).wakeView = s.wakeView := by
  unfold flitData; dsimp only; split <;> simp
@[simp] theorem wakeView_flitCredit (s : State) (n : Nat) (f : Flit) :
    (flitCredit s n f).wakeView = s.wakeView := by simp [flitCredit]
@[simp] theorem wakeView_flitTaken (s : State) (n : Nat) (f : Flit) :
    (flitTaken s n f).wakeView = s.wakeView := by
  unfold flitTaken; dsimp only; (repeat' split) <;> simp

end Sys2Proof.Machine
end

section
/-! The command queue and memory over every command (R15, R40, R45). -/

namespace Sys2Proof.Machine

/-! ### Events that meet an awake device -/

/-- An awake device has no wake state to end and no shutdown pass to abandon (R475, R524). -/
theorem roused_awake {s : State} (h : Awake s) (e : WakeEvent) : roused s e = s := by
  obtain ⟨hw, hs⟩ := h
  simp [roused, hw, hs]

theorem hostCall_awake {s : State} (h : Awake s) (p : Path) : hostCall s p = s := by
  simp [hostCall, roused_awake h]

theorem lattolSet_awake {s : State} (h : Awake s) (us : W32) :
    lattolSet s us = s.setFld rPwrLattol 0 32 us.toNat :=
  roused_awake (h.of_wakeView (wakeView_setFld _ _ _ _ (by decide))) _

theorem OutKeeps.outWf {s : State} {o : Out} (h : OutKeeps s o) : OutWf s o :=
  match o, h with
  | .next _, ⟨hp, hm⟩ => ⟨hp, fun hw => by rw [hm]; exact hw⟩
  | .fault _, _ => trivial
  | .refused _, _ => trivial

/-- Each command by the law of its own arm under Laws/: outside the listed ones it leaves the queue and memory
alone, and a listed one leaves the queue alone and keeps memory canonical. -/
theorem exec_law (c : Instr) (s : State) :
    bif c.mayStore then OutWf s (exec c s) else OutKeeps s (exec c s) := by
  unfold exec Instr.mayStore
  cases c <;> dsimp only [cond] <;> simp

theorem exec_keeps {c : Instr} (h : c.mayStore = false) (s : State) : OutKeeps s (exec c s) := by
  simpa [h] using exec_law c s

theorem exec_outWf (c : Instr) (s : State) : OutWf s (exec c s) := by
  cases h : c.mayStore with
  | true => simpa [h] using exec_law c s
  | false => exact (exec_keeps h s).outWf

/-- A command that may store only by ending a wake state stores nothing while the device is awake. -/
theorem exec_keeps_of_wakesOnly {c : Instr} (h : c.wakesOnly = true) {s : State} (ha : Awake s) :
    OutKeeps s (exec c s) := by
  cases c
  case dcRingTailWrite n v =>
    refine clocked_keeps ?_
    simp [OutKeeps, roused_awake ha]
  case flitReceive n f =>
    refine clocked_keeps ?_
    have hf : Awake (flitTaken s n.val f) := ha.of_wakeView (wakeView_flitTaken ..)
    simp [OutKeeps, roused_awake hf]
  case lattolWrite v =>
    refine clocked_keeps ?_
    simp [OutKeeps, lattolSet_awake ha]
  case mailboxDoorbell ch =>
    refine powered_keeps ?_
    simp [OutKeeps, roused_awake ha]
  case ppsEdge offset =>
    refine powered_keeps ?_
    simp [OutKeeps, roused_awake ha]
  case rimIrqEdge =>
    refine clocked_keeps ?_
    simp [OutKeeps, roused_awake ha]
  case setLattol us =>
    refine clocked_keeps ?_
    simp [OutKeeps, mpSetLattol, lattolSet_awake ha]
  case wakeExit e =>
    refine clocked_keeps ?_
    simp [OutKeeps, roused_awake ha]
  all_goals exact Bool.noConfusion h

/-- Settles O59: every command by its own law, the commands that only end a wake state by the awake device. -/
theorem commandsLeaveTheQueueAndTheirMemoryAlone : Obligations.CommandsLeaveTheQueueAndTheirMemoryAlone := by
  intro c s t ht
  have keepsMem (h : OutKeeps s (exec c s)) (a : Nat) : t.mem.byte a = s.mem.byte a := by
    rw [ht] at h
    exact congrArg (Memory.byte · a) h.2
  have hq := exec_outWf c s
  rw [ht] at hq
  exact ⟨hq.1, fun h => keepsMem (exec_keeps h s), fun h ha => keepsMem (exec_keeps_of_wakesOnly h ha)⟩

end Sys2Proof.Machine
end

section
/-! Register accesses of an awake device (R16, R48, R336, R339, R340). -/

namespace Sys2Proof.Machine

/-! ### The parts that one update leaves -/

theorem only_regs (s : State) (r : SMap W64) : Only [.regs] s { s with regs := r } := by
  intro q hq
  cases q <;> simp_all [Part.same]
theorem only_hi (s : State) (h : HostIf) : Only [.hi] s { s with hi := h } := by
  intro q hq
  cases q <;> simp_all [Part.same]
theorem only_hi_regs (s : State) (h : HostIf) (r : SMap W64) :
    Only [.hi, .regs] s { s with hi := h, regs := r } := by
  intro q hq
  cases q <;> simp_all [Part.same]
theorem only_dc (s : State) (d : Dc) : Only [.dc] s { s with dc := d } := by
  intro q hq
  cases q <;> simp_all [Part.same]

/-- What one register write leaves. -/
theorem wr_frame (s : State) (o : Nat) (v : W64) :
    (s.wr o v).rd o = v ∧ OnlyRegs [o] s (s.wr o v) ∧ Only [.regs] s (s.wr o v) :=
  ⟨State.rd_wr_same s o v, fun _ hp => State.rd_wr_other s v (by simpa using hp), only_regs s _⟩

/-! ### Register accesses -/

theorem dpDrainAll_empty {s : State} (h : ∀ n, n < 4 → (s.dp n).wbuf = []) : dpDrainAll s = s := by
  simp [dpDrainAll, List.range_succ, dpDrain, h]

/-- A served access of 8 bytes is aligned (R48). -/
theorem regServed_wide_aligned {s : State} {p : Path} {off : Nat} (h : regServed s p off true = true) :
    off % 8 = 0 := by
  simp only [regServed, regMapped, Bool.and_eq_true] at h
  obtain ⟨⟨⟨hal, -⟩, -⟩, -⟩ := h
  simpa using hal

/-- The blocks from PWR to SEC belong to no unit that can be absent. -/
theorem blockAbsent_chip (s : State) {off : Nat} (lo : 0x40000 ≤ off) (hi : off < 0x90000) :
    blockAbsent s off = false := by
  unfold blockAbsent
  iterate 3 rw [if_neg (by omega)]
  rw [if_pos hi]

theorem dpWindow_none {off : Nat} (h : off < 0x1000000) : dpWindow off = none := if_neg (by omega)

theorem tapHidden_low (p : Path) {off : Nat} (h : off < 0x1000000) : tapHidden p off = false := by
  cases p <;> simp [tapHidden, h]

/-- ERR and SST registers are written by their access types alone (R16). -/
theorem regWrite_err_sst (s : State) (p : Path) {off : Nat} (v : W64) {d : RegDef} (hd : regDef off = some d)
    (ha : off % 8 = 0) (lo : 0x60000 ≤ off) (hi : off < 0x80000) :
    regWrite s p off true v = s.wr off (d.apply (s.rd off) (if d.wide then v else v &&& 0xFFFFFFFF)) := by
  have hb : off / 8 * 8 = off := by omega
  have habs := blockAbsent_chip s (by omega : 0x40000 ≤ off) (by omega)
  have hw : regIsWide off = d.wide := by simp [regIsWide, hd]
  have hput (x : W64) : regPut s p off x = s.plainWrite off x := by
    unfold regPut
    iterate 6 rw [if_neg (by omega)]
    rw [if_pos hi]
  have hwin : ¬(0x84000 ≤ off ∧ off < 0x86000) := by omega
  cases hd' : d.wide <;>
    simp [regWrite, hb, habs, hw, hput, State.plainWrite, hd, hwin, hd', BitVec.and_assoc]

/-- A register write whose path is open and serves it, on an awake device with no data-window write waiting, is
the write alone (R336, R339). -/
theorem regTransaction_served {s : State} {p : Path} {o : Nat} {wide : Bool} (v : W64) (ha : Awake s)
    (hb : ∀ n, n < 4 → (s.dp n).wbuf = []) (ho : pathOpen s p = true) (hs : regServed s p o wide = true)
    (hlow : o < 0x1000000) (hl : o / 8 * 8 ≠ rPwrLattol) :
    regTransaction s p o wide v = regWrite s p o wide v := by
  simp [regTransaction, hostCall_awake ha, ho, hs, tapHidden_low p hlow, lattolSeen, hl, pathWrite,
    dpWindow_none (show o / 8 * 8 < 0x1000000 by omega), dpDrainAll_empty hb]

/-- A read of 8 bytes below the entries of the error log returns the register and has no effect (R363, R492). -/
theorem regRead_err (s : State) (p : Path) {off : Nat} (ha : off % 8 = 0) (lo : 0x60000 ≤ off)
    (hi : off < 0x68000) : regRead s p off true = ((s.rd off).toNat, s) := by
  have hb : off / 8 * 8 = off := by omega
  have habs := blockAbsent_chip s (by omega : 0x40000 ≤ off) (by omega)
  have hlock : dpLockedOut s p off = none := if_neg (by omega)
  have hmb : mbPlace off = none := by
    unfold mbPlace
    iterate 2 rw [if_neg (by omega)]
  have hview : regView s off = (s.rd off).toNat := by
    unfold regView
    iterate 5 rw [if_neg (by omega)]
    rw [if_pos (by omega), if_neg (by omega)]
  have hpop : regPop s off = ((s.rd off).toNat, s) := by
    unfold regPop
    iterate 3 rw [if_neg (by omega)]
    rw [hmb, hview]
  simp [regRead, hb, habs, dpWindow_none (show off < 0x1000000 by omega), hlock, hpop]

/-- `DC_RING_TAIL` is a register of 4 bytes (R363). -/
theorem regIsWide_ringTail (n : Fin 256) : regIsWide (0x24010 + 0x40 * n.val) = false := by
  have hn := n.isLt
  have hdef : regDef (0x24010 + 0x40 * n.val) = none := by
    have hblk : (0x24010 + 0x40 * n.val) / 0x10000 = 2 := by omega
    simp [regDef, regBlock, hblk]
  have hmb : mbPlace (0x24010 + 0x40 * n.val) = none := by
    unfold mbPlace
    iterate 2 rw [if_neg (by omega)]
  have hoff : (0x24010 + 0x40 * n.val - 0x20000) % 0x40 = 0x10 := by omega
  simp only [regIsWide, hdef, hmb, hoff]
  rw [if_neg (by omega), if_pos (by omega)]
  simp
  omega

theorem ringWrite_tail (s : State) (n : Nat) {o : Nat} (v : W64) (h : o = 0x10) :
    ringWrite s n o v = ringTail s n (bits v 0 32) := by
  unfold ringWrite
  dsimp only
  split
  case h_3 => rfl
  all_goals simp_all

/-- A write of 4 bytes at `DC_RING_TAIL` of ring n is a write of its tail (R346). -/
theorem regWrite_ringTail (s : State) (p : Path) (n : Fin 256) (v : W32) (hp : partTesting s 142 = false) :
    regWrite s p (0x24010 + 0x40 * n.val) false (v.setWidth 64) = ringTail s n.val v.toNat := by
  have hw := regIsWide_ringTail n
  have hn := n.isLt
  have hring : (0x24010 + 0x40 * n.val - 0x20000 - 0x4000) / 0x40 = n.val := by omega
  have hreg : (0x24010 + 0x40 * n.val - 0x20000) % 0x40 = 0x10 := by omega
  have hv : bits (v.setWidth 64 &&& (0xFFFFFFFF : W64)) 0 32 = v.toNat := by
    have hlt := v.isLt
    have hand : v.toNat % 18446744073709551616 &&& 4294967295 = v.toNat := by
      rw [Nat.mod_eq_of_lt (by omega)]
      exact (Nat.and_two_pow_sub_one_eq_mod _ 32).trans (Nat.mod_eq_of_lt hlt)
    simp [bits, hand, Nat.mod_eq_of_lt hlt]
  have hput (x : W64) : regPut s p (0x24010 + 0x40 * n.val) x = ringTail s n.val (bits x 0 32) := by
    unfold regPut dcWrite
    iterate 2 rw [if_neg (by omega)]
    rw [if_pos (by omega)]
    dsimp only
    iterate 4 rw [if_neg (by omega)]
    rw [if_pos (by omega), hring, ringWrite_tail _ _ _ hreg]
  have habs : blockAbsent s (0x24010 + 0x40 * n.val) = false := by
    unfold blockAbsent
    rw [if_neg (by omega), if_pos (by omega), hp]
  have hb : (0x24010 + 0x40 * n.val) / 8 * 8 = 0x24010 + 0x40 * n.val := by omega
  have hhalf : (0x24010 + 0x40 * n.val) % 8 ≠ 4 := by omega
  have hwin : ¬(0x84000 ≤ 0x24010 + 0x40 * n.val ∧ 0x24010 + 0x40 * n.val < 0x86000) := by omega
  simp only [regWrite, hb, habs, hw, if_neg hwin, if_neg hhalf, hput, hv, Bool.false_eq_true, if_false]

theorem pathError_regs (s : State) (p : Path) (k a : Nat) : ∃ r, pathError s p k a = { s with regs := r } := by
  cases p <;> exact ⟨_, rfl⟩

/-- A path that does not serve the register answers an error with zeros (R336, R340). -/
theorem execRegrd_unserved {s : State} {p : Path} {off : BitVec 26} {wide : Bool} (ha : Awake s)
    (ho : pathOpen s p = true) (ht : tapHidden p off.toNat = false) (hs : regServed s p off.toNat wide = false) :
    execRegrd p off wide s = .next (respond (pathError s p 0 (regAddr off.toNat)) p false
      (leBytes 0 (if wide then 8 else 4))) := by
  simp [execRegrd, hostCall_awake ha, ho, ht, hs]

theorem execRegrd_err {s : State} {p : Path} {off : BitVec 26} (ha : Awake s) (ho : pathOpen s p = true)
    (hs : regServed s p off.toNat true = true) (lo : 0x60000 ≤ off.toNat) (hi : off.toNat < 0x68000)
    (hb : ∀ n, n < 4 → (s.dp n).wbuf = []) :
    execRegrd p off true s = .next (respond s p true (leBytes (s.rd off.toNat).toNat 8)) := by
  have hread := regRead_err s p (regServed_wide_aligned hs) lo hi
  simp [execRegrd, hostCall_awake ha, ho, hs, tapHidden_low p (show off.toNat < 0x1000000 by omega),
    dpDrainAll_empty hb, hread]

/-- `DBELL` on an open path that serves `DC_RING_TAIL` is the write of the tail. -/
theorem execDbell_served {s : State} {p : Path} (n : Fin 256) (tail : W32) (ha : Awake s)
    (hb : ∀ m, m < 4 → (s.dp m).wbuf = []) (ho : pathOpen s p = true)
    (hs : regServed s p (0x24010 + 0x40 * n.val) false = true) (hp : partTesting s 142 = false) :
    execDbell p (BitVec.ofNat 8 n.val) tail s = .next (ringTail s n.val tail.toNat) := by
  have hn := n.isLt
  have hoff : 0x24000 + 0x40 * (BitVec.ofNat 8 n.val).toNat + 0x10 = 0x24010 + 0x40 * n.val := by
    simp only [BitVec.toNat_ofNat]
    omega
  have hwake : (0x24010 + 0x40 * n.val) / 8 * 8 ≠ rPwrLattol := by
    unfold rPwrLattol
    omega
  rw [execDbell, hoff, regTransaction_served _ ha hb ho hs (by omega) hwake, regWrite_ringTail _ _ _ _ hp]

theorem ringTail_setRing (s : State) (n v : Nat) : ∃ g, ringTail s n v = s.setRing n g := by
  unfold ringTail
  extract_lets
  split
  · exact ⟨_, rfl⟩
  · exact ⟨_, rfl⟩

theorem ringTail_frame (s : State) (n v : Nat) :
    (∀ m, m ≠ n → (ringTail s n v).dc.ring m = s.dc.ring m) ∧ Only [.dc] s (ringTail s n v) := by
  obtain ⟨g, hg⟩ := ringTail_setRing s n v
  rw [hg]
  exact ⟨fun _ hm => Dc.ring_setRing_other _ _ hm, only_dc s _⟩

/-- Settles O39: each access is reduced to the one operation it carries out. -/
theorem registerAccessesComplete : Obligations.RegisterAccessesComplete := by
  refine ⟨?write, ?read, ?unserved, ?closed, ?doorbell⟩
  case write =>
    intro s p off v d ha hb ho hs lo hi hd
    have hal := regServed_wide_aligned hs
    have hwake : off.toNat / 8 * 8 ≠ rPwrLattol := by
      unfold rPwrLattol
      omega
    have hw := (regTransaction_served v ha hb ho hs (by omega) hwake).trans
      (regWrite_err_sst s p v hd hal lo hi)
    have hpost := wr_frame s off.toNat (d.apply (s.rd off.toNat) (if d.wide then v else v &&& 0xFFFFFFFF))
    refine ⟨⟨_, congrArg Host.Outcome.next hw, hpost⟩, fun hmp => ?_⟩
    subst hmp
    exact ⟨_, congrArg Host.Outcome.next hw, hpost⟩
  case read =>
    intro s p off ha ho hs lo hi hb
    exact ⟨_, execRegrd_err ha ho hs lo hi hb, rfl, fun _ _ => rfl, only_hi s _⟩
  case unserved =>
    intro s p off wide ha ho ht hs
    refine ⟨_, execRegrd_unserved ha ho ht hs, rfl, ?_⟩
    obtain ⟨r, hr⟩ := pathError_regs s p 0 (regAddr off.toNat)
    rw [hr]
    exact only_hi_regs s _ r
  case closed =>
    intro s p off wide v ho
    have hcall : hostCall s p = s := by simp [hostCall, ho]
    exact ⟨by simp [exec, execRegrd, hcall, ho], by simp [exec, execRegwr, regTransaction, hcall, ho]⟩
  case doorbell =>
    intro s p n tail ha hb ho hs _ hp hc
    have hbell := execDbell_served n tail ha hb ho hs hp
    refine ⟨hbell.trans ?_, _, hbell, ringTail_frame s n.val tail.toNat⟩
    show _ = execDcRingTailWrite n tail s
    rw [execDcRingTailWrite, clocked_run hc, roused_awake ha]

end Sys2Proof.Machine
end

section
/-! The canonical form of memory over every step (R40, R41, R45). -/

namespace Sys2Proof.Machine

/-- Settles O58: a tick of the count clock leaves memory alone, and every command keeps the canonical form by
its own law. -/
theorem everyStepKeepsMemoryCanonical : Obligations.EveryStepKeepsMemoryCanonical := by
  intro s t hinv hstep
  unfold step at hstep
  split at hstep
  · have hmem := (idleTick_keep s).2
    cases hstep
    exact (congrArg Memory.wf hmem).trans hinv
  · rename_i c r _
    have hlaw := exec_outWf c { s with pending := r }
    rw [hstep] at hlaw
    exact hlaw.2 hinv

end Sys2Proof.Machine
end

section
/-! Frames put together, and the pieces of a well read through the updates of its other pieces. -/

namespace Sys2Proof.Machine

theorem Part.same_trans {s t u : State} {p : Part} (h : p.same s t) (h' : p.same t u) : p.same s u := by
  cases p
  case mem => exact fun a => (h' a).trans (h a)
  all_goals exact Eq.trans h' h

theorem Only.trans {l : List Part} {s t u : State} (h : Only l s t) (h' : Only l t u) : Only l s u :=
  fun p hp => Part.same_trans (h p hp) (h' p hp)

/-- A frame stays one when more parts may differ. -/
theorem Only.mono {l l' : List Part} {s t : State} (h : Only l s t) (hl : l ⊆ l') : Only l' s t := by
  intro p hp
  refine h p ?_
  simp only [List.contains_eq_mem, decide_eq_false_iff_not] at hp ⊢
  exact fun hm => hp (hl hm)

theorem only_wells (s : State) (m : SMap Well) : Only [.wells] s { s with wells := m } := by
  intro q hq
  cases q <;> simp_all [Part.same]

theorem tagIssue_only (s : State) (w i d : Nat) : Only [.pmu] s (tagIssue s w i d) := by
  intro q hq
  cases q <;> simp_all [Part.same]

theorem sqPut_only (s : State) (w e : Nat) (x : SqEntry) : Only [.wells, .regs, .hi] s (sqPut s w e x) := by
  intro q hq
  cases q <;> simp_all [Part.same]

theorem State.well_of_wells {s t : State} (h : t.wells = s.wells) (v : Nat) : t.well v = s.well v :=
  congrArg (SMap.get (fun _ => Well.reset) · v) h
theorem State.sq_of_wells {s t : State} (h : t.wells = s.wells) (v e : Nat) : t.sq v e = s.sq v e :=
  congrArg (Well.sq · e) (State.well_of_wells h v)
theorem State.slc_of_wells {s t : State} (h : t.wells = s.wells) (v i : Nat) : t.slc v i = s.slc v i :=
  congrArg (Well.slice · i) (State.well_of_wells h v)

/-- A piece of every well that one well's update leaves. -/
theorem State.piece_setWell {α : Type} (p : Well → α) (s : State) (w : Nat) (x : Well)
    (h : p x = p (s.well w)) (v : Nat) : p ((s.setWell w x).well v) = p (s.well v) := by
  by_cases hv : v = w
  · rw [hv, State.well_setWell_same, h]
  · rw [State.well_setWell_other s x hv]

@[simp] theorem State.sq_setSlc (s : State) (w i : Nat) (y : Slice) (v e : Nat) :
    (s.setSlc w i y).sq v e = s.sq v e := State.piece_setWell (Well.sq · e) s w ((s.well w).setSlice i y) rfl v
@[simp] theorem State.slc_setSq (s : State) (w e : Nat) (x : SqEntry) (v i : Nat) :
    (s.setSq w e x).slc v i = s.slc v i := State.piece_setWell (Well.slice · i) s w ((s.well w).setSq e x) rfl v

theorem State.sq_setSq_other (s : State) {w e v g : Nat} (x : SqEntry) (h : (v, g) ≠ (w, e)) :
    (s.setSq w e x).sq v g = s.sq v g := by
  by_cases hv : v = w
  · subst hv
    have hg : g ≠ e := fun hg => h (by rw [hg])
    simp [State.sq, State.setSq, Well.sq_setSq_other _ _ hg]
  · exact congrArg (Well.sq · g) (State.well_setWell_other s _ hv)

/-! ### An entry whose counts move (R229) -/

theorem sqPut_sq (s : State) (w e : Nat) (x : SqEntry) :
    (sqPut s w e x).sq w e = { x with valve := x.valveNow } :=
  (State.sq_of_wells (sqPut_wells s w e x) w e).trans (State.sq_setSq s w e _)
theorem sqPut_sq_other (s : State) {w e v g : Nat} (x : SqEntry) (h : (v, g) ≠ (w, e)) :
    (sqPut s w e x).sq v g = s.sq v g :=
  (State.sq_of_wells (sqPut_wells s w e x) v g).trans (State.sq_setSq_other s _ h)
@[simp] theorem sqPut_slc (s : State) (w e : Nat) (x : SqEntry) (v i : Nat) :
    (sqPut s w e x).slc v i = s.slc v i :=
  (State.slc_of_wells (sqPut_wells s w e x) v i).trans (State.slc_setSq s w e _ v i)

/-- Both counts a semaphore reference may name, without the valve. -/
@[simp] theorem semCount_valve (x : SqEntry) (b sel : Bool) :
    ({ x with valve := b } : SqEntry).semCount sel = x.semCount sel := rfl

@[simp] theorem isSem_semAdd (x : SqEntry) (sel : Bool) (n : Nat) : (x.semAdd sel n).isSem = x.isSem := by
  cases sel <;> rfl

theorem semCount_sem {x : SqEntry} (h : x.isSem = true) (sel : Bool) :
    x.semCount sel = if sel then x.free else x.filled := by
  simp [SqEntry.semCount, SqEntry.freeCount, SqEntry.filledCount, h]

/-- A signal adds to the count it names, up to 0xFFFF, and leaves the other (R226). -/
theorem semCount_semAdd {x : SqEntry} (h : x.isSem = true) (sel : Bool) (n : Nat) :
    (x.semAdd sel n).semCount sel = Nat.min 0xFFFF (x.semCount sel + n)
      ∧ (x.semAdd sel n).semCount (!sel) = x.semCount (!sel) := by
  have hadd : (x.semAdd sel n).isSem = true := (isSem_semAdd x sel n).trans h
  rw [semCount_sem hadd, semCount_sem hadd, semCount_sem h, semCount_sem h]
  cases sel <;> exact ⟨Nat.min_comm _ _, rfl⟩

/-- A signal to an enabled semaphore entry (R226). -/
theorem semSignal_sem {s : State} {w e : Nat} (he : (s.sq w e).enabled = true) (hs : (s.sq w e).isSem = true)
    (sel : Bool) (n : Nat) : semSignal s w e sel n = sqPut s w e ((s.sq w e).semAdd sel n) := by
  simp [semSignal, he, hs]

theorem semSignal_counts {s : State} {w e : Nat} (he : (s.sq w e).enabled = true)
    (hs : (s.sq w e).isSem = true) (sel : Bool) (n : Nat) :
    ((semSignal s w e sel n).sq w e).semCount sel = Nat.min 0xFFFF ((s.sq w e).semCount sel + n)
      ∧ ((semSignal s w e sel n).sq w e).semCount (!sel) = (s.sq w e).semCount (!sel) := by
  rw [semSignal_sem he hs, sqPut_sq, semCount_valve, semCount_valve]
  exact semCount_semAdd hs sel n

/-- A running well takes the signal at its next stroke (R30). -/
theorem semPort_running {s : State} {w : Nat} (hr : (s.well w).run = .running) (hc : s.wellClock w = true)
    (e : Nat) (sel : Bool) (n : Nat) : semPort s w e sel n
      = s.setWell w { s.well w with semNext := (s.well w).semNext ++ [(e, sel, n)] } := by
  simp [semPort, hr, hc]

/-- Signals that wait move no slice and no count. -/
theorem setWell_semNext_frame (s : State) (w : Nat) (l : List (Nat × Bool × Nat)) :
    let t := s.setWell w { s.well w with semNext := l }
    (∀ v i, t.slc v i = s.slc v i) ∧ (∀ v e, t.sq v e = s.sq v e) ∧ Only [.wells] s t :=
  ⟨fun v i => State.piece_setWell (Well.slice · i) s w { s.well w with semNext := l } rfl v,
    fun v e => State.piece_setWell (Well.sq · e) s w { s.well w with semNext := l } rfl v, only_wells s _⟩

/-- A well that does not run takes the signal at once (R30). -/
theorem semPort_stopped {s : State} {w : Nat} (hr : (s.well w).run ≠ .running) (e : Nat) (sel : Bool) (n : Nat) :
    semPort s w e sel n = semSignal s w e sel n := by
  simp [semPort, hr]

end Sys2Proof.Machine
end

section
/-! The semaphore instructions of a thread (R30, R146, R226). -/

namespace Sys2Proof.Machine

/-- The thread past its instruction, with the instruction tagger moved on (R125, R548). -/
def pastState (s : State) (th : Thread) (op : MsqOp) : State :=
  (tagIssue s (thWell th) (thIx th) (tagDw0 (s.slot th) (thWell th) (thIx th) op)).setSlc
    (thWell th) (thIx th) (s.slot th).past

/-- An instruction of a thread that takes it, once its verdict is to issue. -/
theorem threadRow_issue {s : State} {th : Thread} {op : MsqOp} (ht : s.takes th) (hok : op.ok = true)
    (harrive : threadArrive s (thWell th) (thIx th) op = s)
    (hv : verdict s (thWell th) (thIx th) op = .issue) (name : String) :
    clocked s (threadRow s th op name) = .next (threadIssue
      (tagIssue s (thWell th) (thIx th) (tagDw0 (s.slot th) (thWell th) (thIx th) op)) (thWell th) (thIx th) op) := by
  obtain ⟨hclk, hruns⟩ := ht
  simp only [clocked_run hclk, threadRow, hok, hruns, threadStep, harrive, hv, if_true]
  rfl

section
variable (s : State) (th : Thread) (op : MsqOp)

theorem slc_tagIssue (w i d v j : Nat) : (tagIssue s w i d).slc v j = s.slc v j :=
  State.slc_of_wells (tagIssue_wells s w i d) v j

theorem pastState_wells : (pastState s th op).wells = (s.setSlc (thWell th) (thIx th) (s.slot th).past).wells := by
  unfold pastState State.setSlc State.setWell
  dsimp only
  rw [tagIssue_wells, State.well_of_wells (tagIssue_wells s _ _ _)]

theorem pastState_only : Only [.wells, .pmu] s (pastState s th op) :=
  ((tagIssue_only s _ _ _).mono (by simp)).trans ((only_wells _ _).mono (by simp))

@[simp] theorem pastState_sq (v e : Nat) : (pastState s th op).sq v e = s.sq v e :=
  (State.sq_of_wells (pastState_wells s th op) v e).trans (State.sq_setSlc s _ _ _ v e)

@[simp] theorem pastState_slot : (pastState s th op).slot th = (s.slot th).past :=
  (State.slc_of_wells (pastState_wells s th op) _ _).trans (State.slc_setSlc s _ _ _)

theorem pastState_well_other {v : Nat} (h : v ≠ thWell th) : (pastState s th op).well v = s.well v :=
  (State.well_of_wells (pastState_wells s th op) v).trans (State.well_setWell_other s _ h)

/-- What moving an entry's counts after the thread has passed its instruction leaves. -/
theorem sqPut_pastState_frame (v e : Nat) (x : SqEntry) :
    ((sqPut (pastState s th op) v e x).slot th).pc = (s.slot th).past.pc
      ∧ (∀ v' e', (v', e') ≠ (v, e) → (sqPut (pastState s th op) v e x).sq v' e' = s.sq v' e')
      ∧ Only [.wells, .pmu, .regs, .hi] s (sqPut (pastState s th op) v e x) := by
  refine ⟨?_, fun v' e' h => ?_, ?_⟩
  · exact congrArg Slice.pc ((sqPut_slc ..).trans (pastState_slot s th op))
  · rw [sqPut_sq_other _ _ h, pastState_sq]
  · exact ((pastState_only s th op).mono (by simp)).trans ((sqPut_only _ _ _ _).mono (by simp))

end

/-- `QWAIT` moves on once the count is there (R146). -/
theorem exec_qwait {s : State} {th : Thread} {f : SemF} (ht : s.takes th) (hok : f.ok = true)
    (hn : f.n.toNat ≤ semOf s f) : exec (.qwait th f) s = .next (pastState s th (.qwait f)) := by
  refine (threadRow_issue (op := .qwait f) ht hok rfl (if_pos hn) "QWAIT").trans ?_
  simp only [threadIssue, slc_tagIssue, pastState, State.slot]

/-- `SEMWAIT` takes its count from a semaphore entry that has it (R146). -/
theorem exec_semwait {s : State} {th : Thread} {f : SemF} (ht : s.takes th) (hok : f.ok = true)
    (hn : f.n.toNat ≤ semOf s f) (hs : (s.sq f.well.toNat f.sq.toNat).isSem = true) :
    exec (.semwait th f) s = .next (sqPut (pastState s th (.semwait f)) f.well.toNat f.sq.toNat
      ((s.sq f.well.toNat f.sq.toNat).semSub f.sel f.n.toNat)) := by
  refine (threadRow_issue (op := .semwait f) ht hok rfl (if_pos hn) "SEMWAIT").trans ?_
  have hpast := pastState_sq s th (.semwait f) f.well.toNat f.sq.toNat
  simp only [threadIssue, slc_tagIssue]
  change Host.Outcome.next (semTake (pastState s th (.semwait f)) f) = _
  simp [semTake, hpast, hs]

/-- `SEMSIG` signals an entry of its own well at once, and the semaphore port of another well (R30, R146). -/
theorem exec_semsig {s : State} {th : Thread} {f : SemF} (ht : s.takes th) (hok : f.ok = true) :
    exec (.semsig th f) s = .next (if f.well.toNat = thWell th then
        semSignal (pastState s th (.semsig f)) (thWell th) f.sq.toNat f.sel f.n.toNat
      else semPort (pastState s th (.semsig f)) f.well.toNat f.sq.toNat f.sel f.n.toNat) := by
  refine (threadRow_issue (op := .semsig f) ht hok rfl rfl "SEMSIG").trans ?_
  simp only [threadIssue, slc_tagIssue, pastState, State.slot]

/-- Settles O8: each instruction issues, and its effect on the count is the one update of the entry it names. -/
theorem semaphoreInstructionsComplete : Obligations.SemaphoreInstructionsComplete := by
  intro s th f ht hok
  refine ⟨?qwait, ?semwait, ?own, ?other⟩
  case qwait =>
    intro hn
    exact ⟨_, exec_qwait ht hok hn, pastState_wells s th _, pastState_only s th _⟩
  case semwait =>
    intro hn hs
    refine ⟨_, exec_semwait ht hok hn hs, ?_, ?_, sqPut_pastState_frame ..⟩
    · rw [sqPut_sq]
      cases f.sel <;> rfl
    · rw [sqPut_sq]
      cases f.sel <;> rfl
  case own =>
    intro hv he hs
    have hpast := pastState_sq s th (.semsig f) f.well.toNat f.sq.toNat
    have hcounts := semSignal_counts (hpast.symm ▸ he) (hpast.symm ▸ hs) f.sel f.n.toNat
    have hput := semSignal_sem (hpast.symm ▸ he) (hpast.symm ▸ hs) f.sel f.n.toNat
    rw [hpast] at hcounts
    have hexec := exec_semsig ht hok
    rw [if_pos hv, ← hv] at hexec
    refine ⟨_, hexec, hcounts.1, hcounts.2, ?_⟩
    rw [hput]
    exact sqPut_pastState_frame ..
  case other =>
    intro hv hr hc
    have hwell := pastState_well_other s th (.semsig f) hv
    have hclk : (pastState s th (.semsig f)).wellClock f.well.toNat = true := by
      have hregs : (pastState s th (.semsig f)).regs = s.regs := pastState_only s th _ .regs rfl
      rw [State.wellClock, State.pipeOf, hwell, State.fld, State.rd_of_regs hregs]
      exact hc
    have hport := semPort_running (hwell.symm ▸ hr) hclk f.sq.toNat f.sel f.n.toNat
    have hexec := exec_semsig ht hok
    rw [if_neg hv, hport] at hexec
    obtain ⟨hslc, hsq, honly⟩ := setWell_semNext_frame (pastState s th (.semsig f)) f.well.toNat
      (((pastState s th (.semsig f)).well f.well.toNat).semNext ++ [(f.sq.toNat, f.sel, f.n.toNat)])
    refine ⟨_, hexec, ?_, (hslc ..).trans (pastState_slot s th _),
      fun v' e' => (hsq v' e').trans (pastState_sq s th _ v' e'),
      (pastState_only s th _).trans (honly.mono (by simp))⟩
    rw [State.well_setWell_same, hwell]

end Sys2Proof.Machine
end

section
/-! Bytes of lines and of memory (R54, R240). -/

namespace Sys2Proof.Machine

theorem leNat_lt (l : List Byte) : leNat l < 2 ^ (8 * l.length) := by
  induction l with
  | nil => decide
  | cons b r ih =>
    have hb := b.isLt
    have hpow : 2 ^ (8 * (b :: r).length) = 256 * 2 ^ (8 * r.length) := by
      rw [List.length_cons, show 8 * (r.length + 1) = 8 * r.length + 8 by omega, Nat.pow_add, Nat.mul_comm]
    rw [hpow, leNat]
    omega

theorem toNat_ofNat_leNat {l : List Byte} {w : Nat} (h : 8 * l.length ≤ w) :
    (BitVec.ofNat w (leNat l)).toNat = leNat l := by
  rw [BitVec.toNat_ofNat]
  exact Nat.mod_eq_of_lt ((leNat_lt l).trans_le (Nat.pow_le_pow_right (by decide) h))

theorem laneOf_succ (v i : Nat) : laneOf v 8 (i + 1) = laneOf (v / 256) 8 i := by
  simp only [laneOf, Nat.shiftRight_eq_div_pow, Nat.div_div_eq_div_mul]
  rw [show 8 * (i + 1) = 8 + 8 * i by omega, Nat.pow_add]

/-- Byte i of a little-endian number. -/
theorem laneOf_leNat (l : List Byte) (i : Nat) : laneOf (leNat l) 8 i = (l.getD i 0).toNat := by
  induction l generalizing i with
  | nil => simp [leNat, laneOf]
  | cons b r ih =>
    have hb := b.isLt
    cases i with
    | zero =>
      simp only [leNat, laneOf, Nat.mul_zero, Nat.shiftRight_zero, List.getD_cons_zero]
      omega
    | succ i =>
      rw [laneOf_succ, show leNat (b :: r) / 256 = leNat r by rw [leNat]; omega, ih, List.getD_cons_succ]

theorem leBytes_getD (v : Nat) {n i : Nat} (h : i < n) :
    (leBytes v n).getD i 0 = BitVec.ofNat 8 (laneOf v 8 i) := by
  induction n generalizing v i with
  | zero => omega
  | succ n ih =>
    cases i with
    | zero =>
      apply BitVec.eq_of_toNat_eq
      simp [leBytes, laneOf]
    | succ i => rw [leBytes, List.getD_cons_succ, ih _ (by omega), laneOf_succ]

/-- Byte i of a line made of bytes. -/
theorem laneOf_lineOf {bs : List Byte} (h : bs.length = 64) (i : Nat) :
    laneOf (lineOf bs).toNat 8 i = (bs.getD i 0).toNat := by
  rw [lineOf, toNat_ofNat_leNat (by omega), laneOf_leNat]

/-- Byte i of a merged line is of the new line where the mask says so (R240). -/
theorem laneOf_mergeLine (old new : Line) (mask : BitVec 64) {i : Nat} (h : i < 64) :
    laneOf (mergeLine old new mask).toNat 8 i = laneOf (if bitAt mask i then new.toNat else old.toNat) 8 i := by
  have hlt : laneOf (if bitAt mask i then new.toNat else old.toNat) 8 i < 2 ^ 8 :=
    Nat.mod_lt _ (by decide)
  refine (laneOf_lineOf (by simp) i).trans ?_
  simp only [List.getD_eq_getElem?_getD, List.getElem?_map, List.getElem?_range h, Option.map_some,
    Option.getD_some, BitVec.toNat_ofNat, Nat.mod_eq_of_lt hlt]

theorem Memory.read_eq_map (m : Memory) (a n : Nat) :
    m.read a n = (List.range n).map fun i => m.byte (a + i) := by
  induction n generalizing a with
  | zero => rfl
  | succ n ih =>
    rw [Memory.read, ih, List.range_succ_eq_map, List.map_cons, List.map_map, Nat.add_zero]
    congr 1
    exact List.map_congr_left fun i _ => congrArg m.byte (by simp; omega)

@[simp] theorem Memory.read_length (m : Memory) (a n : Nat) : (m.read a n).length = n := by
  simp [Memory.read_eq_map]

theorem Memory.read_getD (m : Memory) (a : Nat) {n i : Nat} (h : i < n) : (m.read a n).getD i 0 = m.byte (a + i) := by
  simp [Memory.read_eq_map, List.getElem?_range h]

theorem Memory.read_append (m : Memory) (a n k : Nat) : m.read a (n + k) = m.read a n ++ m.read (a + n) k := by
  simp [Memory.read_eq_map, List.range_add, Nat.add_assoc]

/-- The bytes of a line read from memory. -/
theorem Memory.lineBytes_line (m : Memory) (a : Nat) : lineBytes (m.line a) = m.read a 64 := by
  refine List.ext_getElem (by simp [lineBytes]) fun i h h' => ?_
  have hi : i < 64 := by simpa using h'
  rw [← List.getD_eq_getElem _ 0 h, ← List.getD_eq_getElem _ 0 h', lineBytes, leBytes_getD _ hi, Memory.line,
    laneOf_lineOf (m.read_length a 64), BitVec.ofNat_toNat, BitVec.setWidth_eq]

/-- Bytes that a write stores. -/
theorem Memory.byte_write (m : Memory) (a : Nat) (l : List Byte) {i : Nat} (h : i < l.length) :
    (m.write a l).byte (a + i) = l.getD i 0 := by
  induction l generalizing m a i with
  | nil => exact absurd h (Nat.not_lt_zero i)
  | cons b r ih =>
    cases i with
    | zero =>
      show (Memory.write (m.setByte a b) (a + 1) r).byte a = b
      rw [Memory.byte_write_other _ _ _ _ (by omega), Memory.byte_setByte_same]
    | succ i =>
      have := ih (m.setByte a b) (a + 1) (Nat.lt_of_succ_lt_succ h)
      rwa [show a + 1 + i = a + (i + 1) by omega] at this

/-- Bytes of a stored line. -/
theorem Memory.byte_setLine (m : Memory) (a : Nat) (l : Line) {i : Nat} (h : i < 64) :
    (m.setLine a l).byte (a + i) = BitVec.ofNat 8 (laneOf l.toNat 8 i) := by
  rw [Memory.setLine, Memory.byte_write _ _ _ (by simpa [lineBytes] using h), lineBytes, leBytes_getD _ h]

/-- A line read whole is the line that was stored. -/
theorem Memory.line_setLine (m : Memory) (a : Nat) (l : Line) : (m.setLine a l).line a = l := by
  have hread : (m.setLine a l).read a 64 = lineBytes l := by
    refine List.ext_getElem (by simp [lineBytes]) fun i h h' => ?_
    have hi : i < 64 := by simpa using h
    rw [← List.getD_eq_getElem _ 0 h, ← List.getD_eq_getElem _ 0 h', Memory.read_getD _ _ hi,
      Memory.byte_setLine _ _ _ hi, lineBytes, leBytes_getD _ hi]
  have hlane (i : Nat) (hi : i < 64) : laneOf (leNat (lineBytes l)) 8 i = laneOf l.toNat 8 i := by
    have hlt : laneOf l.toNat 8 i < 2 ^ 8 := Nat.mod_lt _ (by decide)
    rw [laneOf_leNat, lineBytes, leBytes_getD _ hi, BitVec.toNat_ofNat, Nat.mod_eq_of_lt hlt]
  have hlen : (lineBytes l).length = 64 := by simp [lineBytes]
  refine BitVec.eq_of_getLsbD_eq fun j hj => ?_
  have hbit (v : Nat) : v.testBit j = (laneOf v 8 (j / 8)).testBit (j % 8) := by
    rw [laneOf, Nat.testBit_mod_two_pow, Nat.testBit_shiftRight, Nat.div_add_mod]
    simp [Nat.mod_lt]
  rw [Memory.line, hread, lineOf, BitVec.getLsbD_ofNat, BitVec.getLsbD, hbit, hbit l.toNat, hlane _ (by omega)]
  simp [hj]

/-! ### The mask of the bytes of a line that a byte string covers -/

theorem testBit_foldl_b2n (p : Nat → Bool) (n : Nat) :
    (List.range n).foldl (fun t i => t + b2n (p i) <<< i) 0 < 2 ^ n
      ∧ ∀ i, i < n → ((List.range n).foldl (fun t i => t + b2n (p i) <<< i) 0).testBit i = p i := by
  induction n with
  | zero => exact ⟨Nat.zero_lt_one, fun i h => absurd h (Nat.not_lt_zero i)⟩
  | succ n ih =>
    obtain ⟨hlt, hbits⟩ := ih
    rw [List.range_succ, List.foldl_append, List.foldl_cons, List.foldl_nil]
    generalize (List.range n).foldl (fun t i => t + b2n (p i) <<< i) 0 = v at hlt hbits
    have hsum : v + b2n (p n) <<< n = 2 ^ n * b2n (p n) + v := by
      rw [Nat.shiftLeft_eq, Nat.mul_comm, Nat.add_comm]
    have hone : b2n (p n) ≤ 1 := by cases p n <;> decide
    refine ⟨?_, fun i hi => ?_⟩
    · have hmul : 2 ^ n * b2n (p n) ≤ 2 ^ n * 1 := Nat.mul_le_mul_left _ hone
      rw [hsum, Nat.pow_succ]
      omega
    · rw [hsum, Nat.testBit_two_pow_mul_add _ hlt]
      split
      · rename_i h
        exact hbits i h
      · obtain rfl : i = n := by omega
        rw [Nat.sub_self, testBit_b2n]

theorem bitAt_lineCut (a : Nat) (bs : List Byte) (b : Nat) {i : Nat} (h : i < 64) :
    bitAt (lineCut a bs b).2 i = decide (a ≤ b + i ∧ b + i < a + bs.length) := by
  have hbits := (testBit_foldl_b2n (fun i =>
    (if a ≤ b + i ∧ b + i < a + bs.length then some (bs.getD (b + i - a) 0) else none).isSome) 64).2 i h
  simp only [lineCut, bitAt, BitVec.getLsbD_ofNat, h, decide_true, Bool.true_and]
  rw [hbits]
  split <;> simp_all

theorem laneOf_lineCut (a : Nat) (bs : List Byte) (b : Nat) {i : Nat} (h : i < 64)
    (hin : a ≤ b + i ∧ b + i < a + bs.length) :
    laneOf (lineCut a bs b).1.toNat 8 i = (bs.getD (b + i - a) 0).toNat := by
  refine (laneOf_lineOf (by simp) i).trans ?_
  simp [List.getElem?_range h, hin]

end Sys2Proof.Machine
end

section
/-! Memory transactions of an awake device (R42, R336, R339, R363). -/

namespace Sys2Proof.Machine

@[simp] theorem bwCount_ecc (s : State) (i d : Nat) : (bwCount s i d).ecc = s.ecc := by
  unfold bwCount
  split <;> rfl
@[simp] theorem checkOut_ecc (s : State) (key : Nat) : (checkOut s key).ecc = s.ecc := by
  simp [checkOut, apply_ite State.ecc]
@[simp] theorem cacheTouch_ecc (s : State) (ch l : Nat) : (cacheTouch s ch l).ecc = s.ecc := by
  simp [cacheTouch, apply_ite State.ecc]

/-- A read of a valid line returns it as it stands (R372, R377). -/
theorem dramRead_valid {s : State} {a : Nat}
    (h : decodeLine (s.mem.line (a / 64 * 64)) (s.delta a) = .ok) (count : Bool) :
    (dramRead s a count).1 = s.mem.line (a / 64 * 64) ∧ (dramRead s a count).2.1 = false := by
  have hdelta {u : State} (hu : u.ecc = s.ecc) : u.delta a = s.delta a := by rw [State.delta, hu, State.delta]
  unfold dramRead
  dsimp only
  split
  · rw [hdelta (by simp), h]
    exact ⟨rfl, rfl⟩
  · exact ⟨rfl, rfl⟩

/-- Memory after a write bucket to a DRAM line that reads valid, or with ECC off: the masked bytes replaced in
the line (R374, R377). -/
theorem dramWrite_mem (s : State) (a : Nat) (new : Line) (mask : BitVec 64)
    (h : s.eccOn = false ∨ decodeLine (s.mem.line (a / 64 * 64)) (s.delta a) = .ok) :
    (dramWrite s a new mask).mem = s.mem.setLine (a / 64 * 64)
      (if mask = fullMask then new else mergeLine (s.mem.line (a / 64 * 64)) new mask) := by
  by_cases hm : mask = fullMask
  · simp [dramWrite, hm, State.putLine]
  · cases he : s.eccOn with
    | false => simp [dramWrite, hm, he, State.putLine]
    | true =>
      obtain ⟨hline, hue⟩ := dramRead_valid (h.resolve_left (by simp [he])) true
      simp [dramWrite, hm, he, hline, hue, State.putLine]

theorem bitAt_fullMask {i : Nat} (h : i < 64) : bitAt fullMask i = true := by
  rw [show fullMask = BitVec.allOnes 64 by decide, bitAt, BitVec.getLsbD_allOnes]
  exact decide_eq_true h

/-- The bytes of that write: those of the mask from the new line, every other byte as before. -/
theorem dramWrite_byte (s : State) {a : Nat} (ha : a % 64 = 0) (new : Line) (mask : BitVec 64)
    (h : s.eccOn = false ∨ decodeLine (s.mem.line a) (s.delta a) = .ok) (b : Nat) :
    (dramWrite s a new mask).mem.byte b = if a ≤ b ∧ b < a + 64 ∧ bitAt mask (b - a) = true then
      BitVec.ofNat 8 (laneOf new.toNat 8 (b - a)) else s.mem.byte b := by
  have hal : a / 64 * 64 = a := by omega
  rw [dramWrite_mem s a new mask (by rwa [hal]), hal]
  by_cases hin : a ≤ b ∧ b < a + 64
  · obtain ⟨i, rfl⟩ := Nat.exists_eq_add_of_le hin.1
    have hi : i < 64 := by omega
    rw [Memory.byte_setLine _ _ _ hi, Nat.add_sub_cancel_left]
    by_cases hm : mask = fullMask
    · simp [hm, bitAt_fullMask hi, hi]
    · have hold : BitVec.ofNat 8 (laneOf (s.mem.line a).toNat 8 i) = s.mem.byte (a + i) := by
        rw [Memory.line, laneOf_lineOf (Memory.read_length ..), Memory.read_getD _ _ hi, BitVec.ofNat_toNat,
          BitVec.setWidth_eq]
      rw [if_neg hm, laneOf_mergeLine _ _ _ hi]
      cases hbit : bitAt mask i with
      | true => simp [hi]
      | false => simpa using hold
  · rw [Memory.byte_setLine_other _ _ _ _ (by omega), if_neg (by tauto)]

/-- Bytes written within one DRAM line (R42, R336). -/
theorem memPut_byte (s : State) {a : Nat} {bs : List Byte} (hne : 0 < bs.length) (hin : a % 64 + bs.length ≤ 64)
    (hd : regionOf s (a / 64 * 64) = .dram)
    (h : s.eccOn = false ∨ decodeLine (s.mem.line (a / 64 * 64)) (s.delta a) = .ok) (b : Nat) :
    (memPut s a bs).mem.byte b
      = if a ≤ b ∧ b < a + bs.length then bs.getD (b - a) 0 else s.mem.byte b := by
  have hlines : linesOf a bs.length = 1 := by unfold linesOf; omega
  have hput : memPut s a bs
      = dramWrite s (a / 64 * 64) (lineCut a bs (a / 64 * 64)).1 (lineCut a bs (a / 64 * 64)).2 := by
    simp [memPut, hlines, List.range_succ, bucketWrite, hd]
  have hdelta : s.delta (a / 64 * 64) = s.delta a := by
    rw [State.delta, State.delta, Nat.mul_div_cancel _ (by decide)]
  rw [hput, dramWrite_byte s (Nat.mul_mod_left ..) _ _ (by rwa [hdelta])]
  by_cases hb : a ≤ b ∧ b < a + bs.length
  · have hi : b - a / 64 * 64 < 64 := by omega
    have hplace : a / 64 * 64 + (b - a / 64 * 64) = b := by omega
    have hcut : a ≤ a / 64 * 64 + (b - a / 64 * 64) ∧ a / 64 * 64 + (b - a / 64 * 64) < a + bs.length := by omega
    rw [if_pos hb, if_pos ⟨by omega, by omega, (bitAt_lineCut a bs _ hi).trans (decide_eq_true hcut)⟩,
      laneOf_lineCut a bs _ hi hcut, hplace, BitVec.ofNat_toNat, BitVec.setWidth_eq]
  · rw [if_neg hb, if_neg]
    rintro ⟨hlo, hhi, hbit⟩
    rw [bitAt_lineCut a bs _ (by omega), decide_eq_true_eq] at hbit
    omega

/-- Lines of service-core SRAM read as their bytes and change nothing. -/
theorem linesGet_scSram (s : State) {b n : Nat} (hb : b % 64 = 0)
    (h : ∀ j, j < n → ∃ c o, regionOf s (b + 64 * j) = .scSram c o) :
    linesGet s b n = (s.mem.read b (64 * n), false, s) := by
  induction n generalizing b with
  | zero => rfl
  | succ n ih =>
    obtain ⟨c, o, hr⟩ := h 0 (by omega)
    have hline : lineRead s b = some (s.mem.line b, false, s) := by
      have hal : b / 64 * 64 = b := by omega
      simp only [Nat.mul_zero, Nat.add_zero] at hr
      simp [lineRead, hr, hal]
    have hrest := ih (b := b + 64) (by omega) fun j hj => by
      obtain ⟨c, o, hr⟩ := h (j + 1) (by omega)
      exact ⟨c, o, by rwa [show b + 64 * (j + 1) = b + 64 + 64 * j by omega] at hr⟩
    rw [linesGet, hline]
    dsimp only
    rw [hrest, Memory.lineBytes_line, ← Memory.read_append, show 64 + 64 * n = 64 * (n + 1) by omega]
    rfl

theorem memGet_scSram (s : State) {a n : Nat}
    (h : ∀ j, j < linesOf a n → ∃ c o, regionOf s (a / 64 * 64 + 64 * j) = .scSram c o) :
    memGet s a n = (s.mem.read a n, false, s) := by
  have hlen : 64 * linesOf a n = a % 64 + (n + (64 * linesOf a n - a % 64 - n)) := by unfold linesOf; omega
  have hbytes : ((s.mem.read (a / 64 * 64) (64 * linesOf a n)).drop (a % 64)).take n = s.mem.read a n := by
    rw [hlen, Memory.read_append, List.drop_left' (Memory.read_length ..), Memory.read_append,
      List.take_left' (Memory.read_length ..), Nat.div_add_mod' a 64]
  simp only [memGet, linesGet_scSram s (Nat.mul_mod_left ..) h, hbytes]

theorem rangeMapped_iff (s : State) (a n : Nat) :
    rangeMapped s a n = true ↔ ∀ j, j < linesOf a n → memMapped s (a / 64 * 64 + 64 * j) = true := by
  simp [rangeMapped]

theorem rangeMapped_scSram {s : State} {a n : Nat}
    (h : ∀ j, j < linesOf a n → ∃ c o, regionOf s (a / 64 * 64 + 64 * j) = .scSram c o) :
    rangeMapped s a n = true := by
  refine (rangeMapped_iff s a n).2 fun j hj => ?_
  obtain ⟨c, o, hr⟩ := h j hj
  simp [memMapped, hr]

theorem rangeMapped_dram {s : State} {a n : Nat} (hin : a % 64 + n ≤ 64) (h : regionOf s (a / 64 * 64) = .dram) :
    rangeMapped s a n = true := by
  refine (rangeMapped_iff s a n).2 fun j hj => ?_
  obtain rfl : j = 0 := by unfold linesOf at hj; omega
  simp [memMapped, h]

/-- An error on a mainband stands in `HI_ERR`; nothing else but registers changes (R363). -/
theorem pathError_mainband (s : State) {p : Path} (hp : memPath p = true) (k a : Nat) :
    (pathError s p k a).bit rHiErr 31 = true ∧ ∃ r, pathError s p k a = { s with regs := r } := by
  refine ⟨?_, pathError_regs s p k a⟩
  have herr : pathError s p k a = hiError s k a := by
    cases p
    case u0 => rfl
    case u1 => rfl
    all_goals exact Bool.noConfusion hp
  rw [herr, hiError, State.bit_setFld_other _ _ _ _ _ _ _ (by decide) (.inl (by decide)),
    State.bit_setFld_other _ _ _ _ _ _ _ (by decide) (.inr (by decide)),
    State.bit_setBit_same _ _ _ _ (by decide)]

/-- Settles O40: the bytes of one DRAM line, the lines of service-core SRAM, and the error of the path. -/
theorem memoryTransactionsComplete : Obligations.MemoryTransactionsComplete := by
  intro s path addr ha hp ho hready hbuf
  have hdrain := dpDrainAll_empty hbuf
  refine ⟨?write, ?read, ?readError, ?writeError⟩
  case write =>
    intro data hform hline hd hin hvalid
    have hwin : memWindow s addr.toNat data.length = none := by simp [memWindow, hd]
    have hmapped := rangeMapped_dram (n := data.length) hin hline
    have hpos : 0 < data.length := by
      simp only [memForm, Bool.and_eq_true, decide_eq_true_eq] at hform
      omega
    refine ⟨memPut s addr.toNat data, ?_, memPut_byte s hpos hin hline hvalid⟩
    show execMemwr path addr data s = _
    simp [execMemwr, hostCall_awake ha, hp, ho, hform, hready, hwin, hmapped, hdrain]
  case read =>
    intro len hform hwin hlines
    refine ⟨respond s path true (s.mem.read addr.toNat len), ?_, rfl, fun _ _ => rfl, only_hi s _⟩
    show execMemrd path addr len s = _
    simp [execMemrd, hostCall_awake ha, hp, ho, hform, hready, hwin, rangeMapped_scSram hlines, hdrain,
      memGet_scSram s hlines]
  case readError =>
    intro len hform hwin hun
    obtain ⟨hbit, r, hr⟩ := pathError_mainband s hp 0 addr.toNat
    refine ⟨respond (pathError s path 0 addr.toNat) path false (List.replicate len 0), ?_, rfl, hbit, ?_⟩
    · show execMemrd path addr len s = _
      simp [execMemrd, hostCall_awake ha, hp, ho, hform, hready, hwin, hun]
    · rw [hr]
      exact only_hi_regs s _ r
  case writeError =>
    intro data hform hwin hun
    obtain ⟨hbit, r, hr⟩ := pathError_mainband s hp 0 addr.toNat
    refine ⟨pathError s path 0 addr.toNat, ?_, hbit, ?_⟩
    · show execMemwr path addr data s = _
      simp [execMemwr, hostCall_awake ha, hp, ho, hform, hready, hwin, hun]
    · rw [hr]
      exact only_regs s r

end Sys2Proof.Machine
end

section
/-! Words that enter at crossings and side ports, and semaphore signals (R29, R30, R32, R227, R228). -/

namespace Sys2Proof.Machine

/-! ### Crossings -/

@[simp] theorem FUnit.port_setPort (u : FUnit) (i : Nat) (l : List Word) : (u.setPort i l).port i = l := by
  simp [FUnit.port, FUnit.setPort]
theorem FUnit.port_setPort_other (u : FUnit) {i j : Nat} (l : List Word) (h : j ≠ i) :
    (u.setPort i l).port j = u.port j := by simp [FUnit.port, FUnit.setPort, SMap.get_set_other _ _ h]
@[simp] theorem Well.crossing_setCrossing (x : Well) (k : Nat) (l : List (Nat × Word)) :
    (x.setCrossing k l).crossing k = l := by simp [Well.crossing, Well.setCrossing]
theorem Well.crossing_setCrossing_other (x : Well) {k j : Nat} (l : List (Nat × Word)) (h : j ≠ k) :
    (x.setCrossing k l).crossing j = x.crossing j := by
  simp [Well.crossing, Well.setCrossing, SMap.get_set_other _ _ h]

theorem landWord_port (x : Well) (n f i : Nat) (wd : Word) :
    ((landWord x ⟨n, .port f i, wd⟩).unit f).port i = (x.unit f).port i ++ [wd] := by
  simp [landWord]

/-- A word that lands at a port leaves every other port. -/
theorem landWord_port_other (x : Well) (n : Nat) {f i g j : Nat} (wd : Word) (h : (g, j) ≠ (f, i)) :
    ((landWord x ⟨n, .port f i, wd⟩).unit g).port j = (x.unit g).port j := by
  unfold landWord
  by_cases hg : g = f
  · subst hg
    have hj : j ≠ i := fun hj => h (by rw [hj])
    simp [FUnit.port_setPort_other _ _ hj]
  · simp [Well.unit_setUnit_other _ _ hg]

/-- The head word of a crossing whose edge unit takes it from there, with room at the port, enters the port
(R32). -/
theorem crossEnter_head {s : State} {w key n : Nat} {wd : Word} {r : List (Nat × Word)} {frozen : Bool}
    (hc : (s.well w).crossing key = (n, wd) :: r) (ht : crossTaken (s.well w) key = true)
    (hroom : (((s.well w).unit (crossPlace key).1).port (crossPlace key).2).length < 8)
    (hf : frozen = true → crossWanted s w (crossPlace key).1 (crossPlace key).2 = true) :
    crossEnter s w key frozen = s.setWell w
      (landWord ((s.well w).setCrossing key r) ⟨0, .port (crossPlace key).1 (crossPlace key).2, wd⟩) := by
  have hgo : (!frozen || crossWanted s w (crossPlace key).1 (crossPlace key).2) = true := by
    cases frozen with
    | false => rfl
    | true => exact hf rfl
  simp [crossEnter, hc, ht, hroom, hgo]

/-! ### Side ports -/

theorem cisternAddr_line (w k a : Nat) : cisternAddr w k (64 * a) / 64 * 64 = cisternAddr w k (64 * a) := by
  unfold cisternAddr
  omega

/-- A write of one cistern word: its line in memory, and nothing else but its check bits and the words of the
MU that wait for write-back (R161). -/
theorem cisternWrite_frame (s : State) (w k a : Nat) (l : Line) :
    (cisternWrite s w k a l).mem = s.mem.setLine (cisternAddr w k (64 * a)) l
      ∧ (∀ v e, (cisternWrite s w k a l).sq v e = s.sq v e)
      ∧ Only [.wells, .mem, .ecc] s (cisternWrite s w k a l) := by
  have hput : Only [.wells, .mem, .ecc] s (s.putLine (cisternAddr w k (64 * a)) l 0) := by
    intro q hq
    cases q <;> simp_all [Part.same, State.putLine]
  have hmem : (s.putLine (cisternAddr w k (64 * a)) l 0).mem = s.mem.setLine (cisternAddr w k (64 * a)) l := by
    simp [State.putLine, cisternAddr_line]
  unfold cisternWrite
  dsimp only
  split
  · exact ⟨hmem, fun v e => State.piece_setWell (Well.sq · e) (s.putLine _ l 0) w
      (Well.setMu _ k _) rfl v, hput.trans ((only_wells _ _).mono (by simp))⟩
  · exact ⟨hmem, fun _ _ => rfl, hput⟩

/-- The sideband of a ring word, as it is set (R223). -/
theorem setRingSb_frame (s : State) (w k a : Nat) (b : Sideband) :
    ringSb (setRingSb s w k a b) w k a = b ∧ (setRingSb s w k a b).mem = s.mem
      ∧ (∀ v e, (setRingSb s w k a b).sq v e = s.sq v e) ∧ Only [.wells] s (setRingSb s w k a b) := by
  refine ⟨by simp [ringSb, setRingSb], rfl, fun v e => ?_, only_wells s _⟩
  exact State.piece_setWell (Well.sq · e) s w { s.well w with
    qsb := SMap.set (fun _ => Sideband.zero) (s.well w).qsb (k * 6144 + a) b
    qsbErr := SMap.set (fun _ => 0) (s.well w).qsbErr (k * 6144 + a) 0 } rfl v

theorem ringSb_of_wells {s t : State} (h : t.wells = s.wells) (w k a : Nat) : ringSb t w k a = ringSb s w k a :=
  congrArg (fun x : Well => SMap.get (fun _ => Sideband.zero) x.qsb (k * 6144 + a)) (State.well_of_wells h w)
@[simp] theorem ringSb_setSq (s : State) (v e : Nat) (x : SqEntry) (w k a : Nat) :
    ringSb (s.setSq v e x) w k a = ringSb s w k a :=
  State.piece_setWell (fun y => SMap.get (fun _ => Sideband.zero) y.qsb (k * 6144 + a)) s v
    ((s.well v).setSq e x) rfl w

/-- The place that the next word of an entry's ring takes. -/
def SqEntry.ringPlace (x : SqEntry) : Nat := x.base + x.t % Nat.max 1 x.size

theorem ringEnter_eq (s : State) (w e : Nat) (wd : Word) : ringEnter s w e wd =
    let u := setRingSb (cisternWrite s w (e / 16) (s.sq w e).ringPlace wd.data) w (e / 16) (s.sq w e).ringPlace wd.sb
    u.setSq w e { u.sq w e with t := (s.sq w e).t + 1 } := rfl

/-- A word enters the ring at T: its bytes and its sideband stand there, and T moves on (R227). -/
theorem ringEnter_frame (s : State) (w e : Nat) (wd : Word) :
    (ringEnter s w e wd).mem = s.mem.setLine (cisternAddr w (e / 16) (64 * (s.sq w e).ringPlace)) wd.data
      ∧ ringSb (ringEnter s w e wd) w (e / 16) (s.sq w e).ringPlace = wd.sb
      ∧ (ringEnter s w e wd).sq w e = { s.sq w e with t := (s.sq w e).t + 1 }
      ∧ Only [.wells, .mem, .ecc] s (ringEnter s w e wd) := by
  obtain ⟨hmem, hsq, honly⟩ := cisternWrite_frame s w (e / 16) (s.sq w e).ringPlace wd.data
  obtain ⟨hsb, hmem', hsq', honly'⟩ := setRingSb_frame
    (cisternWrite s w (e / 16) (s.sq w e).ringPlace wd.data) w (e / 16) (s.sq w e).ringPlace wd.sb
  rw [ringEnter_eq]
  dsimp only
  rw [hsq', hsq]
  exact ⟨hmem'.trans hmem, (ringSb_setSq ..).trans hsb, State.sq_setSq ..,
    honly.trans ((honly'.trans (only_wells _ _)).mono (by simp))⟩

/-- A word for a ring that has a free place, with no word before it in staging (R227, R232). -/
theorem sqPush_ring {s : State} {w e : Nat} (hs : (s.sq w e).spilling = false) (hfree : (s.sq w e).ringFree = true)
    (wd : Word) : let u := ringEnter (event s 4 (queueNo w e) 1) w e wd
      sqPush s w e wd = sqPut u w e { u.sq w e with w := (u.sq w e).w + 1 } := by
  simp only [SqEntry.ringFree] at hfree
  simp [sqPush, sqPushAt, hs, hfree]

/-- What that write stores and what it leaves. -/
theorem sqPush_ring_frame {s : State} {w e : Nat} (hs : (s.sq w e).spilling = false)
    (hfree : (s.sq w e).ringFree = true) (wd : Word) :
    let q := s.sq w e
    let t := sqPush s w e wd
    (t.sq w e).w = q.w + 1 ∧ (t.sq w e).t = q.t + 1 ∧ (t.sq w e).r = q.r ∧ (t.sq w e).f = q.f
      ∧ t.mem = s.mem.setLine (cisternAddr w (e / 16) (64 * q.ringPlace)) wd.data
      ∧ ringSb t w (e / 16) q.ringPlace = wd.sb ∧ Only [.wells, .mem, .ecc, .regs, .hi] s t := by
  have hev : (event s 4 (queueNo w e) 1).sq w e = s.sq w e := State.sq_of_wells (event_wells ..) w e
  obtain ⟨hmem, hsb, hsq, honly⟩ := ringEnter_frame (event s 4 (queueNo w e) 1) w e wd
  rw [hev] at hmem hsb hsq
  have hpush := sqPush_ring hs hfree wd
  dsimp only at hpush ⊢
  rw [hpush, sqPut_sq, hsq]
  refine ⟨rfl, rfl, rfl, rfl, ?_, ?_, ?_⟩
  · rw [sqPut_mem, hmem, event_mem]
  · rw [ringSb_of_wells (sqPut_wells ..), ringSb_setSq, hsb]
  · have hevent : Only [.regs, .hi] s (event s 4 (queueNo w e) 1) := by
      intro q hq
      cases q <;> simp_all [Part.same]
    exact ((hevent.mono (by simp)).trans (honly.mono (by simp))).trans ((sqPut_only _ _ _ _).mono (by simp))

/-- A word offered to the side port of an entry that has a place for it. -/
theorem sidePush_place {s : State} {w e : Nat} {wd : Word}
    (h : (s.sq w e).canPush (retriesOf (s.well w) e + slotsComing (s.well w) e) = true) :
    sidePush s w e wd = sideEnter s w e wd := if_pos h

/-- It is stored where no word waits before it and the schedule has left its bank idle (R29). -/
theorem sideEnter_free {s : State} {w e : Nat} {wd : Word}
    (h : (s.sq w e).canPush (retriesOf (s.well w) e + slotsComing (s.well w) e) = true)
    (hretry : retriesOf (s.well w) e = 0)
    (hbank : (s.well w).banks.contains (16 * (e / 16) + ((s.well w).sq e).ringPlace % 16) = false) :
    sideEnter s w e wd = sqPush s w e wd := by
  rw [State.sq, hretry, Nat.zero_add] at h
  simp only [SqEntry.ringPlace, List.contains_eq_mem, decide_eq_false_iff_not] at hbank
  simp [sideEnter, h, hretry, hbank]

/-- It waits at the side port where the schedule has used the bank of its ring word (R29). -/
theorem sideEnter_busy {s : State} {w e : Nat} {wd : Word} (hs : ((s.well w).sq e).spilling = false)
    (hfree : ((s.well w).sq e).ringFree = true)
    (hbank : (s.well w).banks.contains (16 * (e / 16) + ((s.well w).sq e).ringPlace % 16) = true) :
    sideEnter s w e wd = sideWait s w e wd := by
  simp only [SqEntry.ringPlace, List.contains_eq_mem, decide_eq_true_eq] at hbank
  simp [sideEnter, hs, hfree, hbank]

/-- Settles O19: each arrival is the one update that its condition allows. -/
theorem wordsEnterAtCrossingsAndSidePorts : Obligations.WordsEnterAtCrossingsAndSidePorts := by
  intro s w hclk hw
  have hexec (e : Fin 768) (wd : Word) :
      exec (.sidePortWrite w e wd) s = .next (sidePush s w.val e.val wd) := by
    show execSidePortWrite w e wd s = _
    rw [execSidePortWrite, clocked_run hclk, if_pos hw]
  have hsem (e : Fin 768) (sel : Bool) (n : BitVec 16) :
      exec (.semaphorePortUpdate w e sel n) s = .next (semPort s w.val e.val sel n.toNat) := by
    show execSemaphorePortUpdate w e sel n s = _
    rw [execSemaphorePortUpdate, clocked_run hclk, if_pos hw]
  refine ⟨?crossing, ?enters, ?waits, ?refused, ?running, ?stopped⟩
  case crossing =>
    intro row east express n wd r key p hcross hn htaken hdroop hroom hfrozen
    have hexec : exec (.crossingWordArrival w row east express) s
        = .next (crossEnter s w.val key (s.well w.val).frozen) := by
      show execCrossingWordArrival w row east express s = _
      have hdue : crossDue (s.well w.val) key = true := by simp [crossDue, hcross, hn]
      rw [execCrossingWordArrival, clocked_run hclk]
      simp [hw, hdroop, hdue, key]
    refine ⟨_, hexec.trans (by rw [crossEnter_head hcross htaken hroom hfrozen]), ?_⟩
    dsimp only
    rw [State.well_setWell_same]
    refine ⟨landWord_port .., ?_, ?_, ?_, only_wells s _⟩
    · exact Well.crossing_setCrossing ..
    · exact fun f i h => landWord_port_other _ 0 wd h
    · exact fun k h => Well.crossing_setCrossing_other _ _ h
  case enters =>
    intro e wd q a hs hpush hfree hretry hbank
    obtain ⟨hw1, ht1, hr1, hf1, hmem, hsb, honly⟩ := sqPush_ring_frame (s := s) (w := w.val) hs hfree wd
    have hplace : (s.sq w.val e.val).canPush
        (retriesOf (s.well w.val) e.val + slotsComing (s.well w.val) e.val) = true := by
      rw [hretry, Nat.zero_add]
      exact hpush
    have henter : sideEnter s w.val e.val wd = sqPush s w.val e.val wd := sideEnter_free hplace hretry hbank
    refine ⟨sqPush s w.val e.val wd, ?_, hw1, ht1, hr1, hf1, ?_, hsb, fun b hb => ?_, honly⟩
    · rw [hexec e wd, sidePush_place hplace, henter]
    · rw [hmem]
      exact Memory.line_setLine ..
    · rw [hmem]
      exact Memory.byte_setLine_other _ _ _ _ hb
  case waits =>
    intro e wd q hs hpush hfree hbank
    rw [hexec e wd, sidePush_place hpush, sideEnter_busy hs hfree hbank]
    rfl
  case refused =>
    intro e wd hpush
    rw [hexec e wd, sidePush, if_neg (by rw [State.sq, hpush]; decide)]
  case running =>
    intro e sel n hr hc
    rw [hsem e sel n, semPort_running hr hc]
  case stopped =>
    intro e sel n hr he hs
    have hport := (hsem e sel n).trans (congrArg Host.Outcome.next (semPort_stopped hr e.val sel n.toNat))
    refine ⟨_, hport, (semSignal_counts he hs sel n.toNat).1, ?_⟩
    rw [semSignal_sem he hs]
    exact ⟨fun v g h => sqPut_sq_other _ _ h, sqPut_only _ _ _ _⟩

end Sys2Proof.Machine
end

section
/-! What a well counts of its cycles, read through everything that goes on in one (R21, R187). One lemma per
operation of a cycle: it leaves the counts, and whether the cycle is frozen, of every well. -/

namespace Sys2Proof.Machine

/-- Whether the cycle is frozen and for what cause, and the counts of strokes, frozen cycles and ticks (R187). -/
def Well.clock (x : Well) : Bool × Nat × Nat × Nat × Nat :=
  (x.frozen, x.cause, x.strokes, x.frozenCount, x.tick)

/-- The same of every well. -/
def State.clocks (s : State) (w : Nat) : Bool × Nat × Nat × Nat × Nat := (s.well w).clock

/-- An update of a well beside its clock. -/
@[simp] theorem Well.clock_update (x : Well) (ctx : Nat) (capValid capLost : Bool) (capCause capStroke : Nat)
    (capArm capNow : Bool) (cap : SMap W64) (discUnit discCount dldCause watch seg : Nat)
    (bars : SMap Barrier) (muErr : SMap MuErr) (cuStat : SMap StatBlk)
    (units : SMap FUnit) (slices : SMap Slice) (queues : SMap SqEntry) (qsb : SMap Sideband)
    (qsbErr : SMap Nat) (flights : List Flight) (cross : SMap (List (Nat × Word))) (banks : List Nat)
    (retry : List (Nat × Word)) (semNext : List (Nat × Bool × Nat)) (droopCycles : Nat) :
    ({ x with
        ctx := ctx, capValid := capValid, capLost := capLost, capCause := capCause, capStroke := capStroke
        capArm := capArm, capNow := capNow, cap := cap, discUnit := discUnit, discCount := discCount
        dldCause := dldCause, watch := watch, seg := seg, bars := bars, muErr := muErr, cuStat := cuStat
        units := units, slices := slices, queues := queues, qsb := qsb, qsbErr := qsbErr, flights := flights
        cross := cross, banks := banks, retry := retry, semNext := semNext, droopCycles := droopCycles } : Well).clock
      = x.clock := (rfl)

/-! ### A well -/

@[simp] theorem Well.clock_setUnit (x : Well) (f : Nat) (u : FUnit) : (x.setUnit f u).clock = x.clock := (rfl)
@[simp] theorem Well.clock_setSlice (x : Well) (i : Nat) (y : Slice) : (x.setSlice i y).clock = x.clock := (rfl)
@[simp] theorem Well.clock_setSq (x : Well) (e : Nat) (y : SqEntry) : (x.setSq e y).clock = x.clock := (rfl)
@[simp] theorem Well.clock_setBar (x : Well) (b : Nat) (y : Barrier) : (x.setBar b y).clock = x.clock := (rfl)
@[simp] theorem Well.clock_setMu (x : Well) (k : Nat) (y : MuErr) : (x.setMu k y).clock = x.clock := (rfl)
@[simp] theorem Well.clock_setCuStats (x : Well) (k : Nat) (y : StatBlk) : (x.setCuStats k y).clock = x.clock := (rfl)
@[simp] theorem Well.clock_setCrossing (x : Well) (k : Nat) (l : List (Nat × Word)) :
    (x.setCrossing k l).clock = x.clock := (rfl)
@[simp] theorem Well.clock_ite (c : Prop) [Decidable c] (x y : Well) :
    (if c then x else y).clock = if c then x.clock else y.clock := apply_ite _ c x y

@[simp] theorem Well.clock_foldl {α : Type} (g : Well → α → Well) (h : ∀ x a, (g x a).clock = x.clock)
    (l : List α) (x : Well) : (l.foldl g x).clock = x.clock := by
  induction l generalizing x with
  | nil => rfl
  | cons a r ih => exact (ih _).trans (h x a)

@[simp] theorem landWord_clock (x : Well) (g : Flight) : (landWord x g).clock = x.clock := by
  unfold landWord
  split <;> simp
@[simp] theorem waitsReset_clock (x : Well) : (waitsReset x).clock = x.clock := by simp [waitsReset]
@[simp] theorem cuStatNote_clock (x : Well) (k : Nat) (blk : Bool) (sb : Sideband) (a : AluOut) :
    (cuStatNote x k blk sb a).clock = x.clock := by simp [cuStatNote]

/-! ### The state -/

@[simp] theorem State.well_clock (s : State) (w : Nat) : (s.well w).clock = s.clocks w := (rfl)
theorem clocks_of_wells {s t : State} (h : t.wells = s.wells) : t.clocks = s.clocks :=
  funext fun w => congrArg Well.clock (State.well_of_wells h w)
@[simp] theorem clocks_setWell {s : State} {w : Nat} {x : Well} (h : x.clock = s.clocks w) :
    (s.setWell w x).clocks = s.clocks :=
  funext fun v => State.piece_setWell Well.clock s w x h v

/-- An update of the state beside the wells. -/
@[simp] theorem State.clocks_update (s : State) (freeCtr : Nat) (mem : Memory) (ecc : SMap (BitVec 16)) (regs : SMap W64)
    (strs : SMap Stream) (hi : HostIf) (dc : Dc) (fiq : SMap (List Nat)) (mcs : SMap Mc) (err : Err) (pmu : Pmu) :
    ({ s with freeCtr := freeCtr, mem := mem, ecc := ecc, regs := regs, strs := strs, hi := hi, dc := dc, fiq := fiq
              mcs := mcs, err := err, pmu := pmu } : State).clocks = s.clocks := (rfl)

@[simp] theorem clocks_ite (c : Prop) [Decidable c] (s t : State) :
    (if c then s else t).clocks = if c then s.clocks else t.clocks := apply_ite _ c s t
@[simp] theorem clocks_foldl {α : Type} (g : State → α → State) (h : ∀ s x, (g s x).clocks = s.clocks)
    (l : List α) (s : State) : (l.foldl g s).clocks = s.clocks := foldl_part _ g h l s
@[simp] theorem eachUnit_clocks (s : State) (g : State → Nat → State) (h : ∀ s x, (g s x).clocks = s.clocks) :
    (eachUnit s g).clocks = s.clocks := clocks_foldl g h _ s
@[simp] theorem eachSlice_clocks (s : State) (g : State → Nat → State) (h : ∀ s x, (g s x).clocks = s.clocks) :
    (eachSlice s g).clocks = s.clocks := clocks_foldl g h _ s
@[simp] theorem State.wr_clocks (s : State) (off : Nat) (v : W64) :
    (State.wr s off v).clocks = s.clocks := clocks_of_wells (by simp)
@[simp] theorem State.setFld_clocks (s : State) (off lo len x : Nat) :
    (State.setFld s off lo len x).clocks = s.clocks := clocks_of_wells (by simp)
@[simp] theorem State.setBit_clocks (s : State) (off lo : Nat) (b : Bool) :
    (State.setBit s off lo b).clocks = s.clocks := clocks_of_wells (by simp)
@[simp] theorem State.addSat_clocks (s : State) (off lo len n : Nat) :
    (State.addSat s off lo len n).clocks = s.clocks := clocks_of_wells (by simp)
@[simp] theorem State.setStr_clocks (s : State) (i : Nat) (x : Stream) :
    (State.setStr s i x).clocks = s.clocks := clocks_of_wells (by simp)
@[simp] theorem State.setMc_clocks (s : State) (n : Nat) (x : Mc) :
    (State.setMc s n x).clocks = s.clocks := clocks_of_wells (by simp)
@[simp] theorem State.setHart_clocks (s : State) (i : Nat) (x : Hart) :
    (State.setHart s i x).clocks = s.clocks := clocks_of_wells (by simp)
@[simp] theorem State.drawn_clocks (s : State) : (State.drawn s).clocks = s.clocks := clocks_of_wells (by simp)

/-! ### Events, faults and memory -/

@[simp] theorem event_clocks (s : State) (cls unit ev : Nat) :
    (event s cls unit ev).clocks = s.clocks := clocks_of_wells (by simp)
@[simp] theorem bwCount_clocks (s : State) (i dir : Nat) : (bwCount s i dir).clocks = s.clocks := by simp [bwCount]
@[simp] theorem logEntry_clocks (s : State) (f : FaultInfo) (scope : Nat) (task pipe : Option Nat) :
    (logEntry s f scope task pipe).clocks = s.clocks := clocks_of_wells (by simp)
@[simp] theorem logOnly_clocks (s : State) (f : FaultInfo) : (logOnly s f).clocks = s.clocks := by simp [logOnly]
@[simp] theorem reportTask_clocks (s : State) (t status : Nat) :
    (reportTask s t status).clocks = s.clocks := clocks_of_wells (by simp)
@[simp] theorem taskFault_clocks (s : State) (t : Nat) (f : FaultInfo) :
    (taskFault s t f).clocks = s.clocks := clocks_of_wells (by simp)
@[simp] theorem pipeFault_clocks (s : State) (p : Nat) (f : FaultInfo) (task : Option Nat) :
    (pipeFault s p f task).clocks = s.clocks := clocks_of_wells (by simp)
@[simp] theorem wellFault_clocks (s : State) (w : Nat) (f : FaultInfo) :
    (wellFault s w f).clocks = s.clocks := clocks_of_wells (by simp)
@[simp] theorem State.putLine_clocks (s : State) (a : Nat) (l : Line) (d : BitVec 16) :
    (State.putLine s a l d).clocks = s.clocks := by simp [State.putLine]
@[simp] theorem checkOut_clocks (s : State) (key : Nat) : (checkOut s key).clocks = s.clocks := by simp [checkOut]
@[simp] theorem cacheTouch_clocks (s : State) (ch l : Nat) :
    (cacheTouch s ch l).clocks = s.clocks := by simp [cacheTouch]
@[simp] theorem noteError_clocks (s : State) (ch a kind : Nat) :
    (noteError s ch a kind).clocks = s.clocks := by simp [noteError]
@[simp] theorem noteCorrected_clocks (s : State) (ch a : Nat) (inCheck : Bool) :
    (noteCorrected s ch a inCheck).clocks = s.clocks := by simp [noteCorrected]
@[simp] theorem noteUncorrectable_clocks (s : State) (ch a kind : Nat) :
    (noteUncorrectable s ch a kind).clocks = s.clocks := by simp [noteUncorrectable]

@[simp] theorem dramRead_clocks (s : State) (a : Nat) (count : Bool) : (dramRead s a count).2.2.clocks = s.clocks := by
  unfold dramRead
  dsimp only
  (repeat' split) <;> simp

@[simp] theorem tagIssue_clocks (s : State) (w i : Nat) (dw0 : Nat) :
    (tagIssue s w i dw0).clocks = s.clocks := clocks_of_wells (by simp)
@[simp] theorem tagStroke_clocks (s : State) (w i : Nat) (busy : Bool) : (tagStroke s w i busy).clocks = s.clocks := by
  unfold tagStroke
  split <;> simp

/-! ### Cistern words and queues -/

@[simp] theorem cisternRead_clocks (s : State) (w k a : Nat) : (cisternRead s w k a).2.2.clocks = s.clocks := by
  unfold cisternRead
  dsimp only
  split <;> simp

@[simp] theorem cisternWrite_clocks (s : State) (w k a : Nat) (l : Line) :
    (cisternWrite s w k a l).clocks = s.clocks := by simp [cisternWrite]
@[simp] theorem State.setSq_clocks (s : State) (w e : Nat) (x : SqEntry) :
    (State.setSq s w e x).clocks = s.clocks := by simp [State.setSq]
@[simp] theorem sqPut_clocks (s : State) (w e : Nat) (x : SqEntry) : (sqPut s w e x).clocks = s.clocks :=
  (clocks_of_wells (sqPut_wells s w e x)).trans (by simp)
@[simp] theorem spillFull_clocks (s : State) (w e : Nat) : (spillFull s w e).clocks = s.clocks := by simp [spillFull]
@[simp] theorem setRingSb_clocks (s : State) (w k a : Nat) (b : Sideband) :
    (setRingSb s w k a b).clocks = s.clocks := by simp [setRingSb]

@[simp] theorem ringSbRead_clocks (s : State) (w k a : Nat) : (ringSbRead s w k a).2.2.clocks = s.clocks := by
  unfold ringSbRead
  dsimp only
  split <;> simp

@[simp] theorem ringEnter_clocks (s : State) (w e : Nat) (wd : Word) :
    (ringEnter s w e wd).clocks = s.clocks := by simp [ringEnter]
@[simp] theorem sqPushAt_clocks (s : State) (w e f0 : Nat) (wd : Word) :
    (sqPushAt s w e f0 wd).clocks = s.clocks := by simp [sqPushAt]
@[simp] theorem sqPush_clocks (s : State) (w e : Nat) (wd : Word) :
    (sqPush s w e wd).clocks = s.clocks := by simp [sqPush]
@[simp] theorem sqHead_clocks (s : State) (w e : Nat) : (sqHead s w e).2.2.clocks = s.clocks := by simp [sqHead]
@[simp] theorem sqPop_clocks (s : State) (w e : Nat) : (sqPop s w e).2.clocks = s.clocks := by simp [sqPop]
@[simp] theorem sqSidePop_clocks (s : State) (w e : Nat) : (sqSidePop s w e).2.clocks = s.clocks := by simp [sqSidePop]
@[simp] theorem sqMark_clocks (s : State) (w e : Nat) : (sqMark s w e).clocks = s.clocks := by simp [sqMark]
@[simp] theorem sqRewind_clocks (s : State) (w e : Nat) : (sqRewind s w e).clocks = s.clocks := by simp [sqRewind]
@[simp] theorem sqRelease_clocks (s : State) (w e : Nat) : (sqRelease s w e).clocks = s.clocks := by simp [sqRelease]
@[simp] theorem sideWait_clocks (s : State) (w e : Nat) (wd : Word) :
    (sideWait s w e wd).clocks = s.clocks := by simp [sideWait]
@[simp] theorem sideEnter_clocks (s : State) (w e : Nat) (wd : Word) :
    (sideEnter s w e wd).clocks = s.clocks := by simp [sideEnter]
@[simp] theorem retryAll_clocks (s : State) (w : Nat) : (retryAll s w).clocks = s.clocks := by simp [retryAll]
@[simp] theorem semSignal_clocks (s : State) (w e : Nat) (sel : Bool) (n : Nat) :
    (semSignal s w e sel n).clocks = s.clocks := by simp [semSignal]
@[simp] theorem semPort_clocks (s : State) (w e : Nat) (sel : Bool) (n : Nat) :
    (semPort s w e sel n).clocks = s.clocks := by simp [semPort]
@[simp] theorem semArrive_clocks (s : State) (w : Nat) : (semArrive s w).clocks = s.clocks := by simp [semArrive]

/-! ### What a unit issues -/

@[simp] theorem putOut_clocks (s : State) (w f d ch n : Nat) (wd : Word) :
    (putOut s w f d ch n wd).clocks = s.clocks := by
  unfold putOut
  split <;> simp

@[simp] theorem putRoute_clocks (s : State) (w f : Nat) (route : BitVec 4) (ch : Nat) (wd : Word) :
    (putRoute s w f route ch wd).clocks = s.clocks := by simp [putRoute]
@[simp] theorem cuResult_clocks (s : State) (w k : Nat) (op : CuOp) (c : CuF) (u : FUnit) (src : Sideband) (a : AluOut) :
    (cuResult s w k op c u src a).clocks = s.clocks := by simp [cuResult]
@[simp] theorem cvtIssue_clocks (s : State) (w k rep : Nat) (c : CuF) :
    (cvtIssue s w k rep c).clocks = s.clocks := by simp [cvtIssue]

@[simp] theorem cuIssue_clocks (s : State) (w k rep : Nat) (op : CuOp) (c : CuF) :
    (cuIssue s w k rep op c).clocks = s.clocks := by
  unfold cuIssue
  split <;> simp

@[simp] theorem agSet_clocks (s : State) (w f ag part : Nat) (v : W64) :
    (agSet s w f ag part v).clocks = s.clocks := by simp [agSet]
@[simp] theorem useBank_clocks (s : State) (w b : Nat) : (useBank s w b).clocks = s.clocks := by simp [useBank]

@[simp] theorem readAccess_clocks (s : State) (w k : Nat) (p : RPend) (n : Nat) :
    (readAccess s w k p n).2.clocks = s.clocks := by
  induction n generalizing s p with
  | zero => rfl
  | succ n ih =>
    unfold readAccess
    split
    · rfl
    · split
      · rfl
      · simp [ih]

@[simp] theorem readRun_clocks (s : State) (w f : Nat) (isB : Bool) (p : RPend) :
    (readRun s w f isB p).clocks = s.clocks := by simp [readRun]

@[simp] theorem writeHalves_clocks (s : State) (w k : Nat) (wd : Line) (l : List (Nat × Nat)) (n : Nat) :
    (writeHalves s w k wd l n).2.clocks = s.clocks := by
  induction n generalizing s l with
  | zero => unfold writeHalves; rfl
  | succ n ih =>
    cases l with
    | nil => unfold writeHalves; rfl
    | cons x r =>
      obtain ⟨a, h⟩ := x
      rw [writeHalves]
      dsimp only
      split
      · rfl
      · rw [ih, cisternWrite_clocks]
        split <;> simp

@[simp] theorem writeRun_clocks (s0 s : State) (w f : Nat) (p : WPend) (rest : List WPend) :
    (writeRun s0 s w f p rest).clocks = s.clocks := by
  unfold writeRun
  split <;> simp

@[simp] theorem slotIssue_clocks (s : State) (w f : Nat) (r : RSlotF) (isB : Bool) (toW : Option WDest) :
    (slotIssue s w f r isB toW).clocks = s.clocks := by simp [slotIssue]
@[simp] theorem memIssue_clocks (s : State) (w f : Nat) (m : MemF) :
    (memIssue s w f m).clocks = s.clocks := by simp [memIssue]

@[simp] theorem psetIssue_clocks (s : State) (w f : Nat) (pd cond arg : Nat) (neg : Bool) :
    (psetIssue s w f pd cond arg neg).clocks = s.clocks := by
  unfold psetIssue
  split <;> simp

/-- The counts alone: a `SWITCH` to a context that is not committed ends a freeze but keeps these (R217). -/
def State.counts (s : State) (w : Nat) : Nat × Nat × Nat := (s.clocks w).2.2

theorem counts_of_clocks {s t : State} (h : t.clocks = s.clocks) : t.counts = s.counts := by
  unfold State.counts
  rw [h]

theorem switchIssue_counts (s : State) (w f ctx : Nat) (force : Bool) (mask : BitVec 7) (qna qnb : Nat) :
    (switchIssue s w f ctx force mask qna qnb).counts = s.counts := by
  unfold switchIssue
  dsimp only
  split
  · exact counts_of_clocks (by simp)
  · refine (counts_of_clocks (wellFault_clocks ..)).trans (funext fun v => ?_)
    exact State.piece_setWell (fun x => x.clock.2.2) s w
      { s.well w with run := .stopped, frozen := false, banks := [] } rfl v

@[simp] theorem unitNext_clocks (s : State) (w f rep : Nat) :
    (unitNext s w f rep).clocks = s.clocks := by simp [unitNext]

theorem unitIssue_counts (s : State) (w f : Nat) (h : SwHead) (op : SwOp) :
    (unitIssue s w f h op).counts = s.counts := by
  unfold unitIssue
  dsimp only
  split
  · rfl
  · split
    · exact counts_of_clocks (by simp)
    · cases op with
      | switch force mask qna qnb =>
        dsimp only
        split
        · exact switchIssue_counts ..
        · rfl
      | _ => exact counts_of_clocks (by simp)

/-! ### Words in flight and crossings -/

@[simp] theorem resultsMove_clocks (s0 s : State) (w f : Nat) : (resultsMove s0 s w f).clocks = s.clocks := by
  unfold resultsMove
  dsimp only
  refine (clocks_foldl _ (fun s r => ?_) _ _).trans (by simp)
  split
  · split <;> simp
  · rfl

@[simp] theorem passMove_clocks (s0 s : State) (w f : Nat) : (passMove s0 s w f).clocks = s.clocks := by
  refine clocks_foldl _ (fun s i => ?_) _ s
  dsimp only
  split
  · rfl
  · rfl
  · split <;> simp

@[simp] theorem flightsMove_clocks (s : State) (w : Nat) : (flightsMove s w).clocks = s.clocks := by simp [flightsMove]

@[simp] theorem crossEnter_clocks (s : State) (w key : Nat) (frozen : Bool) :
    (crossEnter s w key frozen).clocks = s.clocks := by
  unfold crossEnter
  dsimp only
  split <;> simp

@[simp] theorem crossingsMove_clocks (s : State) (w : Nat) (frozen : Bool) :
    (crossingsMove s w frozen).clocks = s.clocks := by
  refine clocks_foldl _ (fun s k => ?_) _ s
  dsimp only
  split
  · rfl
  · split <;> simp

@[simp] theorem discardAt_clocks (s : State) (w f : Nat) (t : SwWait) (b : Nat) :
    (discardAt s w f t b).clocks = s.clocks := by
  unfold discardAt
  split <;> simp

@[simp] theorem waitStroke_clocks (s : State) (w f : Nat) : (waitStroke s w f).clocks = s.clocks := by
  unfold waitStroke
  dsimp only
  split <;> simp

/-! ### Slices and their engines -/

@[simp] theorem wellSwitch_clocks (s : State) (w ctx : Nat) :
    (wellSwitch s w ctx).clocks = s.clocks := by simp [wellSwitch]
@[simp] theorem State.setSlc_clocks (s : State) (w i : Nat) (y : Slice) :
    (State.setSlc s w i y).clocks = s.clocks := by simp [State.setSlc]

@[simp] theorem tagMismatch_clocks (s : State) (w i exp got : Nat) :
    (tagMismatch s w i exp got).clocks = s.clocks := by
  unfold tagMismatch
  dsimp only
  split <;> simp

@[simp] theorem sliceSats_clocks (s : State) (w i n : Nat) :
    (sliceSats s w i n).clocks = s.clocks := by simp [sliceSats]

@[simp] theorem weightLine_clocks (s : State) (w i d line : Nat) :
    (weightLine s w i d line).2.2.clocks = s.clocks := by
  unfold weightLine
  dsimp only
  split <;> simp

@[simp] theorem weightWrite_clocks (s : State) (w i d line : Nat) (l : Line) :
    (weightWrite s w i d line l).clocks = s.clocks := by simp [weightWrite]

@[simp] theorem weightWriteback_clocks (s : State) (w i : Nat) : (weightWriteback s w i).clocks = s.clocks := by
  unfold weightWriteback
  dsimp only
  (repeat' split) <;> simp

@[simp] theorem idleWriteback_clocks (s : State) (w i : Nat) :
    (idleWriteback s w i).clocks = s.clocks := by simp [idleWriteback]

@[simp] theorem sidecarCheck_clocks (s : State) (w i : Nat) (f : MmaF) (elems d c : Nat) :
    (sidecarCheck s w i f elems d c).clocks = s.clocks := by
  unfold sidecarCheck
  dsimp only
  (repeat' split) <;> simp

@[simp] theorem dpuStep_clocks (s : State) (w i : Nat) (f : MmaF) (p : Pair) (as : List Nat) (zero : Bool) (c a d : Nat) :
    (dpuStep s w i f p as zero c a d).1.clocks = s.clocks := by simp [dpuStep]

@[simp] theorem broadcast_clocks (s : State) (w i : Nat) (f : MmaF) (p : Pair) (v : Nat) (zero : Bool) (c a : Nat) :
    (broadcast s w i f p v zero c a).clocks = s.clocks := by
  have hfold (as : List Nat) (l : List Nat) (t : State × Nat) : (l.foldl (fun (t : State × Nat) d =>
      ((dpuStep t.1 w i f p as zero c a d).1, t.2 + (dpuStep t.1 w i f p as zero c a d).2)) t).1.clocks
      = t.1.clocks := by
    induction l generalizing t with
    | nil => rfl
    | cons d r ih => exact (ih _).trans (dpuStep_clocks ..)
  simp [broadcast, hfold]

@[simp] theorem emitWord_clocks (s : State) (w i : Nat) (o : OutWord) : (emitWord s w i o).clocks = s.clocks := by
  unfold emitWord
  dsimp only
  (repeat' split) <;> simp

@[simp] theorem drainStroke_clocks (s : State) (w i : Nat) :
    (drainStroke s w i).clocks = s.clocks := by simp [drainStroke]

@[simp] theorem relaySend_clocks (s : State) (w i late : Nat) (l : Line) :
    (relaySend s w i late l).clocks = s.clocks := by
  unfold relaySend
  split <;> simp

@[simp] theorem loadStore_clocks (s : State) (w i dfirst dcnt1 row lines1 side n : Nat) (l : Line) :
    (loadStore s w i dfirst dcnt1 row lines1 side n l).clocks = s.clocks := by simp [loadStore]
@[simp] theorem lineDue_clocks (s : State) (w i dfirst dcnt1 row lines1 side n : Nat) (l : Line) :
    (lineDue s w i dfirst dcnt1 row lines1 side n l).clocks = s.clocks := by simp [lineDue]
@[simp] theorem linesLand_clocks (s : State) (w i : Nat) : (linesLand s w i).clocks = s.clocks := by simp [linesLand]
@[simp] theorem mmaVector_clocks (s : State) (w i : Nat) (f : MmaF) (p : Pair) (bank : Nat) (zero : Bool) (c pos : Nat) :
    (mmaVector s w i f p bank zero c pos).clocks = s.clocks := by simp [mmaVector]

@[simp] theorem mmaStroke_clocks (s : State) (w i : Nat) (f : MmaF) (bank : Nat) (zero : Bool) (c p sub : Nat) :
    (mmaStroke s w i f bank zero c p sub).clocks = s.clocks := by
  unfold mmaStroke
  split <;> simp

@[simp] theorem wldStroke_clocks (s : State) (w i : Nat) (f : WldF) (dyn : Bool) (n : Nat) :
    (wldStroke s w i f dyn n).clocks = s.clocks := by simp [wldStroke]

@[simp] theorem relayStroke_clocks (s : State) (w i : Nat) (f : WrelayF) (n : Nat) :
    (relayStroke s w i f n).clocks = s.clocks := by
  unfold relayStroke
  dsimp only
  split <;> simp

@[simp] theorem passStroke_clocks (s : State) (w i : Nat) : (passStroke s w i).clocks = s.clocks := by
  unfold passStroke
  dsimp only
  split <;> simp

@[simp] theorem bankStroke_clocks (s : State) (w i : Nat) : (bankStroke s w i).clocks = s.clocks := by
  unfold bankStroke
  split <;> simp

@[simp] theorem sideStroke_clocks (s : State) (w i : Nat) : (sideStroke s w i).clocks = s.clocks := by
  unfold sideStroke
  dsimp only
  (repeat' split) <;> simp

@[simp] theorem engineStroke_clocks (s : State) (w i : Nat) :
    (engineStroke s w i).clocks = s.clocks := by simp [engineStroke]

/-! ### Barriers and threads -/

@[simp] theorem barArrive_clocks (s : State) (p b : Nat) : (barArrive s p b).clocks = s.clocks := by simp [barArrive]
@[simp] theorem barRelease_clocks (s : State) (w b : Nat) : (barRelease s w b).clocks = s.clocks := by simp [barRelease]

@[simp] theorem barCounted_clocks (s : State) (w i : Nat) : (barCounted s w i).clocks = s.clocks := by
  unfold barCounted
  dsimp only
  (repeat' split) <;> simp

@[simp] theorem semTake_clocks (s : State) (f : SemF) : (semTake s f).clocks = s.clocks := by simp [semTake]
@[simp] theorem mmaIssue_clocks (s : State) (w i : Nat) (f : MmaF) (zero : Bool) :
    (mmaIssue s w i f zero).clocks = s.clocks := by simp [mmaIssue]
@[simp] theorem drainIssue_clocks (s : State) (w i : Nat) (f : DrainF) :
    (drainIssue s w i f).clocks = s.clocks := by simp [drainIssue]

@[simp] theorem threadIssue_clocks (s : State) (w i : Nat) (op : MsqOp) :
    (threadIssue s w i op).clocks = s.clocks := by
  unfold threadIssue
  split <;> simp

@[simp] theorem threadStay_clocks (s : State) (w i : Nat) (op : MsqOp) (v : Verdict) :
    (threadStay s w i op v).clocks = s.clocks := by
  unfold threadStay
  split <;> simp

/-! ### Streams, host and dispatch controller -/

@[simp] theorem dcSettle_clocks (s : State) (p : Nat) : (dcSettle s p).clocks = s.clocks := by simp [dcSettle]
@[simp] theorem hiError_clocks (s : State) (kind addr : Nat) :
    (hiError s kind addr).clocks = s.clocks := by simp [hiError]

@[simp] theorem hostTry_clocks (s : State) (wr : Bool) (h : Nat) : (hostTry s wr h).2.clocks = s.clocks := by
  unfold hostTry
  dsimp only
  (repeat' split) <;> simp

@[simp] theorem strReport_clocks (s : State) (i status addr off : Nat) (task pipe : Option Nat) :
    (strReport s i status addr off task pipe).clocks = s.clocks := by
  unfold strReport
  dsimp only
  (repeat' split) <;> simp

@[simp] theorem taskJoin_clocks (s : State) (t : Option Nat) (i : Nat) : (taskJoin s t i).clocks = s.clocks := by
  unfold taskJoin
  split <;> simp
@[simp] theorem taskSettle_clocks (s : State) (t : Option Nat) : (taskSettle s t).clocks = s.clocks := by
  unfold taskSettle
  split <;> simp

@[simp] theorem strArm_clocks (s : State) (i : Nat) (a : StrSlot) : (strArm s i a).2.clocks = s.clocks := by
  unfold strArm
  dsimp only
  (repeat' split) <;> simp

theorem lineRead_clocks {s : State} {a : Nat} {r : Line × Bool × State} (h : lineRead s a = some r) :
    r.2.2.clocks = s.clocks := by
  unfold lineRead at h
  generalize regionOf s a = R at h
  cases R with
  | dram | cistern =>
    dsimp only at h
    rw [← Option.some.inj h]
    simp
  | scSram => rw [← Option.some.inj h]
  | weight =>
    dsimp only at h
    split at h
    · rw [← Option.some.inj h]
      simp
    · exact (Option.some_ne_none _ h.symm).elim
  | regs | host | peer | unmapped => exact (Option.some_ne_none _ h.symm).elim

@[simp] theorem dcRead_clocks (s : State) (a : Nat) : (dcRead s a).2.2.clocks = s.clocks := by
  unfold dcRead
  generalize regionOf s a = R
  split
  · simp
  · split
    · rfl
    · rename_i h
      exact lineRead_clocks h

@[simp] theorem dcBarrier_clocks (s : State) (p b : Nat) : (dcBarrier s p b).clocks = s.clocks := by simp [dcBarrier]

/-! ### The parts of a cycle -/

@[simp] theorem capTake_clocks (s : State) (w cause : Nat) : (capTake s w cause).clocks = s.clocks := by simp [capTake]
@[simp] theorem captureDue_clocks (s : State) (w : Nat) : (captureDue s w).clocks = s.clocks := by simp [captureDue]
@[simp] theorem barComplete_clocks (s : State) (p b : Nat) :
    (barComplete s p b).clocks = s.clocks := by simp [barComplete]
@[simp] theorem threadsArrive_clocks (s : State) (w : Nat) :
    (threadsArrive s w).clocks = s.clocks := by simp [threadsArrive]

@[simp] theorem barsIssue_clocks (s : State) (w : Nat) : (barsIssue s w).clocks = s.clocks := by
  refine clocks_foldl _ (fun s i => ?_) _ s
  split
  · split <;> simp
  · rfl

@[simp] theorem enginesMove_clocks (s : State) (w : Nat) : (enginesMove s w).clocks = s.clocks := by simp [enginesMove]

@[simp] theorem owedRead_clocks (s : State) (w f : Nat) (isB : Bool) : (owedRead s w f isB).clocks = s.clocks := by
  unfold owedRead
  dsimp only
  split <;> simp

@[simp] theorem owedWrite_clocks (s0 s : State) (w f : Nat) (frozen : Bool) :
    (owedWrite s0 s w f frozen).clocks = s.clocks := by
  unfold owedWrite
  dsimp only
  (repeat' split) <;> simp

@[simp] theorem wordsMove_clocks (s0 s : State) (w : Nat) (frozen : Bool) :
    (wordsMove s0 s w frozen).clocks = s.clocks := by simp [wordsMove]
@[simp] theorem elasticMove_clocks (s : State) (w : Nat) : (elasticMove s w).clocks = s.clocks := by simp [elasticMove]
@[simp] theorem barriersMove_clocks (s : State) (w : Nat) :
    (barriersMove s w).clocks = s.clocks := by simp [barriersMove]
@[simp] theorem stallCycle_clocks (s : State) (w c cls unit detail : Nat) :
    (stallCycle s w c cls unit detail).clocks = s.clocks := by simp [stallCycle]
@[simp] theorem freezeWatch_clocks (s : State) (w : Nat) : (freezeWatch s w).clocks = s.clocks := by simp [freezeWatch]

@[simp] theorem waitWatch_clocks (s : State) (w : Nat) : (waitWatch s w).clocks = s.clocks := by
  unfold waitWatch
  dsimp only
  split <;> simp

@[simp] theorem threadsFrozen_clocks (s : State) (w : Nat) (vs : List (Option (MsqOp × Verdict))) :
    (threadsFrozen s w vs).clocks = s.clocks := by simp [threadsFrozen]
@[simp] theorem limitersSave_clocks (s : State) (w : Nat) : (limitersSave s w).clocks = s.clocks := by
  refine eachSlice_clocks s _ fun s i => ?_
  split <;> simp
@[simp] theorem frozenMove_clocks (s0 s : State) (w : Nat) (vs : List (Option (MsqOp × Verdict))) :
    (frozenMove s0 s w vs).clocks = s.clocks := by simp [frozenMove]
@[simp] theorem frozenEnd_clocks (s : State) (w : Nat) : (frozenEnd s w).clocks = s.clocks := by simp [frozenEnd]

theorem unitsIssue_counts (s0 s : State) (w : Nat) : (unitsIssue s0 s w).counts = s.counts := by
  refine foldl_part State.counts _ (fun s f => ?_) _ s
  have hread (u : State) (b : Bool) : (owedRead u w f b).counts = u.counts := counts_of_clocks (owedRead_clocks ..)
  dsimp only
  rw [counts_of_clocks (owedWrite_clocks ..), apply_ite State.counts, hread, ite_self]
  cases unitWord (s0.well w) f with
  | none => simp only [apply_ite State.counts, hread, ite_self]
  | some q => exact (unitIssue_counts ..).trans (by simp only [apply_ite State.counts, hread, ite_self])

@[simp] theorem threadsIssue_clocks (s : State) (w : Nat) (vs : List (Option (MsqOp × Verdict))) :
    (threadsIssue s w vs).clocks = s.clocks := by
  refine eachSlice_clocks s _ fun s i => ?_
  dsimp only
  split
  · simp
  · split <;> simp

@[simp] theorem slicesCount_clocks (s0 s : State) (w : Nat) : (slicesCount s0 s w).clocks = s.clocks := by
  refine eachSlice_clocks s _ fun s i => ?_
  dsimp only
  split
  · split <;> simp
  · simp

@[simp] theorem waitsMove_clocks (s0 s : State) (w : Nat) : (waitsMove s0 s w).clocks = s.clocks := by simp [waitsMove]
@[simp] theorem switchDue_clocks (s : State) (w : Nat) (k0 : Option Nat) : (switchDue s w k0).clocks = s.clocks := by
  unfold switchDue
  split <;> simp

end Sys2Proof.Machine
end

section
/-! A cycle of a well: frozen, or a completed stroke (R21 to R23, R183, R187, R468). -/

namespace Sys2Proof.Machine

/-! ### A frozen cycle -/

theorem frozenMark_clock (s : State) (w cause : Nat) : (frozenMark s w cause).clocks w
    = (true, cause, (s.well w).strokes, (s.well w).frozenCount + 1, (s.well w).tick) := by
  unfold frozenMark
  rw [event_clocks, event_clocks, State.clocks, State.well_setWell_same]
  rfl

/-- A frozen cycle marks the well frozen for its cause and counts itself, and no stroke and no tick (R21, R187). -/
theorem frozenCycle_clock (s : State) (w cause : Nat) (vs : List (Option (MsqOp × Verdict))) :
    (frozenCycle s w cause vs).clocks w
      = (true, cause, (s.well w).strokes, (s.well w).frozenCount + 1, (s.well w).tick) := by
  have hmarked : (frozenCycle s w cause vs).clocks = (frozenMark s w cause).clocks := by
    unfold frozenCycle
    dsimp only
    rw [frozenEnd_clocks]
    split
    · simp
    · split <;> simp
  rw [hmarked, frozenMark_clock]

/-- The parts of a well's clock after a frozen cycle that began with the clocks of s. -/
theorem frozenCycle_parts {s u : State} (h : u.clocks = s.clocks) (w cause : Nat)
    (vs : List (Option (MsqOp × Verdict))) :
    let x := (frozenCycle u w cause vs).well w
    x.frozen = true ∧ x.cause = cause ∧ x.frozenCount = (s.well w).frozenCount + 1
      ∧ x.strokes = (s.well w).strokes := by
  have hu : (u.well w).clock = (s.well w).clock := congrFun h w
  have ht : ((frozenCycle u w cause vs).well w).clock = _ := frozenCycle_clock u w cause vs
  simp only [Well.clock, Prod.mk.injEq] at hu ht
  obtain ⟨-, -, hstrokes, hcount, -⟩ := hu
  obtain ⟨hf, hc, hs, hn, -⟩ := ht
  exact ⟨hf, hc, hn.trans (by rw [hcount]), hs.trans hstrokes⟩

/-! ### A completed stroke -/

/-- The end of a completed stroke counts one stroke and one tick (R23, R187). -/
theorem strokeEnd_counts (s : State) (w : Nat) : ((strokeEnd s w).well w).strokes = (s.counts w).1 + 1
    ∧ ((strokeEnd s w).well w).tick = (s.counts w).2.2 + 1 := by
  have hclock : (strokeEnd s w).clocks = ((elasticMove s w).setWell w { (elasticMove s w).well w with
      strokes := ((elasticMove s w).well w).strokes + 1, tick := ((elasticMove s w).well w).tick + 1 }).clocks := by
    unfold strokeEnd
    dsimp only
    split <;> simp
  have hold : (elasticMove s w).clocks w = s.clocks w := congrFun (elasticMove_clocks s w) w
  have hw := congrFun hclock w
  simp only [State.clocks, State.well_setWell_same, Well.clock, Prod.mk.injEq] at hold hw
  obtain ⟨-, -, hstrokes, -, htick⟩ := hold
  obtain ⟨-, -, hs, -, ht⟩ := hw
  exact ⟨hs.trans (congrArg (· + 1) hstrokes), ht.trans (congrArg (· + 1) htick)⟩

theorem strokeMove_counts (s0 s1 : State) (w : Nat) (vs : List (Option (MsqOp × Verdict))) :
    (strokeMove s0 s1 w vs).counts = s1.counts := by
  unfold strokeMove
  dsimp only
  rw [counts_of_clocks (waitsMove_clocks ..), counts_of_clocks (wordsMove_clocks ..),
    counts_of_clocks (slicesCount_clocks ..), counts_of_clocks (threadsIssue_clocks ..), unitsIssue_counts]
  exact funext fun v => State.piece_setWell (fun x => x.clock.2.2) s1 w
    { s1.well w with banks := [], frozen := false, watch := 0 } rfl v

/-- A completed stroke counts itself and a tick. -/
theorem fullStroke_counts {s s0 s1 : State} (h : s1.clocks = s.clocks) (w : Nat)
    (vs : List (Option (MsqOp × Verdict))) :
    ((fullStroke s0 s1 w vs).well w).strokes = (s.well w).strokes + 1
      ∧ ((fullStroke s0 s1 w vs).well w).tick = (s.well w).tick + 1 := by
  have hmove : (switchDue (eachSlice (strokeMove s0 s1 w vs) fun s i => tagStroke s w i (!(s.slc w i).enginesFree)) w
      (wellReady s0 w)).counts = s.counts := by
    rw [counts_of_clocks (switchDue_clocks ..), counts_of_clocks (eachSlice_clocks _ _ fun s i => tagStroke_clocks ..),
      strokeMove_counts, counts_of_clocks h]
  have hend := strokeEnd_counts (switchDue (eachSlice (strokeMove s0 s1 w vs) fun s i =>
    tagStroke s w i (!(s.slc w i).enginesFree)) w (wellReady s0 w)) w
  rw [hmove] at hend
  exact hend

/-! ### Which of the two -/

section
variable {s : State} {w : Nat}

theorem wellCycle_droop (h : (s.well w).droop ≠ 0) : wellCycle s w = frozenCycle s w 4 [] := if_pos h

theorem wellCycle_stage (hd : (s.well w).droop = 0) {c : Nat} (hc : stageCause (threadsArrive s w) w = some c) :
    ∃ d, wellCycle s w = frozenCycle (threadsArrive s w) w d (verdicts (threadsArrive s w) w) := by
  simp only [wellCycle, hd, ne_eq, not_true_eq_false, if_false, hc]
  exact ⟨_, rfl⟩

theorem wellCycle_thread (hd : (s.well w).droop = 0) (hn : stageCause (threadsArrive s w) w = none) {c : Nat}
    (hc : leastCause ((verdicts (enginesMove (threadsArrive s w) w) w).map verdictCause) = some c) :
    ∃ u vs, u.clocks = s.clocks ∧ wellCycle s w = frozenCycle u w c vs := by
  simp only [wellCycle, hd, ne_eq, not_true_eq_false, if_false, hn, hc]
  exact ⟨_, _, by simp, rfl⟩

theorem wellCycle_full (hd : (s.well w).droop = 0) (hn : stageCause (threadsArrive s w) w = none)
    (hc : leastCause ((verdicts (enginesMove (threadsArrive s w) w) w).map verdictCause) = none) :
    wellCycle s w = fullStroke (threadsArrive s w) (enginesMove (threadsArrive s w) w) w
      (verdicts (enginesMove (threadsArrive s w) w) w) := by
  simp only [wellCycle, hd, ne_eq, not_true_eq_false, if_false, hn, hc]

end

/-- Settles O18: the cycle is frozen for the droop, a unit, an engine or a thread, or else it is a completed
stroke; its counts follow. -/
theorem strokeOfARunningWell : Obligations.StrokeOfARunningWell := by
  intro s w hclk s0 s1 vs
  have hidle (h : s.running w.val = false) : exec (.stroke w) s = .next s := by
    show execStroke w s = _
    rw [execStroke, clocked_run hclk, h]
    rfl
  have hcycle (h : s.running w.val = true) : exec (.stroke w) s = .next (wellCycle s w.val) := by
    show execStroke w s = _
    rw [execStroke, clocked_run hclk, if_pos h]
  have harrive : s0.clocks = s.clocks := threadsArrive_clocks s w.val
  refine ⟨hidle, ?droop, ?stage, ?thread, ?full⟩
  case droop =>
    intro hr hd
    exact ⟨_, (hcycle hr).trans (congrArg Host.Outcome.next (wellCycle_droop hd)), frozenCycle_parts rfl ..⟩
  case stage =>
    intro c hr hd hc
    obtain ⟨d, hfrozen⟩ := wellCycle_stage hd hc
    obtain ⟨-, -, hparts⟩ := frozenCycle_parts harrive w.val d (verdicts s0 w.val)
    exact ⟨_, (hcycle hr).trans (congrArg Host.Outcome.next hfrozen), hparts⟩
  case thread =>
    intro c hr hd hn hc
    obtain ⟨u, vs', hu, hfrozen⟩ := wellCycle_thread hd hn hc
    obtain ⟨-, -, hparts⟩ := frozenCycle_parts hu w.val c vs'
    exact ⟨_, (hcycle hr).trans (congrArg Host.Outcome.next hfrozen), hparts⟩
  case full =>
    intro hr hd hn hc
    have hfull := (hcycle hr).trans (congrArg Host.Outcome.next (wellCycle_full hd hn hc))
    exact ⟨hfull, _, hfull, fullStroke_counts ((enginesMove_clocks ..).trans harrive) ..⟩

end Sys2Proof.Machine
end

section
/-! Lanes of words, and the saturated integers in them (R54, R68). -/

namespace Sys2Proof.Machine

/-! ### Lanes of lines -/

theorem laneOf_lt (v w i : Nat) : laneOf v w i < 2 ^ w :=
  Nat.mod_lt _ (Nat.two_pow_pos w)

theorem laneOf_zero (v w : Nat) : laneOf v w 0 = v % 2 ^ w := by simp [laneOf]

theorem laneOf_shift (v w i : Nat) : laneOf v w (i + 1) = laneOf (v >>> w) w i := by
  rw [laneOf, laneOf, ← Nat.shiftRight_add, Nat.mul_succ, Nat.add_comm]

theorem laneOf_line (l : Line) (w i : Nat) : laneOf l.toNat w i = (l.extractLsb' (w * i) w).toNat :=
  (BitVec.extractLsb'_toNat ..).symm

theorem laneOf_and (a b : Line) (w i : Nat) :
    laneOf (a &&& b).toNat w i = laneOf a.toNat w i &&& laneOf b.toNat w i := by
  rw [laneOf_line, laneOf_line, laneOf_line, BitVec.extractLsb'_and, BitVec.toNat_and]

theorem laneOf_or (a b : Line) (w i : Nat) :
    laneOf (a ||| b).toNat w i = laneOf a.toNat w i ||| laneOf b.toNat w i := by
  rw [laneOf_line, laneOf_line, laneOf_line, BitVec.extractLsb'_or, BitVec.toNat_or]

theorem laneOf_xor (a b : Line) (w i : Nat) :
    laneOf (a ^^^ b).toNat w i = laneOf a.toNat w i ^^^ laneOf b.toNat w i := by
  rw [laneOf_line, laneOf_line, laneOf_line, BitVec.extractLsb'_xor, BitVec.toNat_xor]

/-- The complement of a lane, as `SEL` writes it; the lane lies within the line. -/
theorem laneOf_not (c : Line) {w i : Nat} (h : w * i + w ≤ 512) :
    laneOf (~~~c).toNat w i = 2 ^ w - 1 - laneOf c.toNat w i := by
  have hnot : (~~~c).extractLsb' (w * i) w = ~~~c.extractLsb' (w * i) w := by
    refine BitVec.eq_of_getLsbD_eq fun j hj => ?_
    have hin : w * i + j < 512 := by omega
    simp [hj, hin]
  rw [laneOf_line, laneOf_line, hnot, BitVec.toNat_not]

/-- A line is its 64 bytes. -/
theorem line_eq_of_bytes {l m : Line} (h : ∀ i < 64, laneOf l.toNat 8 i = laneOf m.toNat 8 i) : l = m := by
  refine BitVec.eq_of_getLsbD_eq fun j hj => ?_
  have hbit (x : Line) : x.getLsbD j = (laneOf x.toNat 8 (j / 8)).testBit (j % 8) := by
    rw [laneOf, Nat.testBit_mod_two_pow, Nat.testBit_shiftRight, Nat.div_add_mod, BitVec.getLsbD]
    simp [Nat.mod_lt]
  rw [hbit l, hbit m, h _ (by omega)]

/-! ### Lines made of lanes -/

theorem ofLanes_shift (w c : Nat) (r : List Nat) : ofLanes w (c :: r) >>> w = ofLanes w r := by
  rw [ofLanes, Nat.shiftRight_eq_div_pow, Nat.shiftLeft_eq, Nat.add_mul_div_right _ _ (Nat.two_pow_pos w),
    Nat.div_eq_of_lt (Nat.mod_lt _ (Nat.two_pow_pos w)), Nat.zero_add]

theorem laneOf_ofLanes (w : Nat) (l : List Nat) (i : Nat) : laneOf (ofLanes w l) w i = l.getD i 0 % 2 ^ w := by
  induction l generalizing i with
  | nil => simp [ofLanes, laneOf]
  | cons c r ih =>
    cases i with
    | zero => simp [laneOf_zero, ofLanes, Nat.shiftLeft_eq]
    | succ i => rw [laneOf_shift, ofLanes_shift, ih, List.getD_cons_succ]

theorem ofLanes_lt (w : Nat) (l : List Nat) : ofLanes w l < 2 ^ (w * l.length) := by
  induction l with
  | nil => simp [ofLanes]
  | cons c r ih =>
    rw [List.length_cons, Nat.mul_succ, Nat.pow_add, ← Nat.div_lt_iff_lt_mul (Nat.two_pow_pos w),
      ← Nat.shiftRight_eq_div_pow, ofLanes_shift]
    exact ih

theorem toNat_ofNat_ofLanes {n w : Nat} {l : List Nat} (h : w * l.length ≤ n) :
    (BitVec.ofNat n (ofLanes w l)).toNat = ofLanes w l := by
  rw [BitVec.toNat_ofNat]
  exact Nat.mod_eq_of_lt ((ofLanes_lt w l).trans_le (Nat.pow_le_pow_right (by decide) h))

/-- Lane i of a packed word is its element i (R54). -/
theorem laneOf_packElems {w : Nat} {l : List Elem} (hlen : w * l.length ≤ 512) {i : Nat} (h : i < l.length) :
    laneOf (packElems w l).line.toNat w i = l[i].code % 2 ^ w := by
  rw [packElems, toNat_ofNat_ofLanes (by simpa using hlen), laneOf_ofLanes]
  simp [h]

/-! ### Integers in lanes -/

theorem signedOf_range {w c : Nat} (hw : 0 < w) (hc : c < 2 ^ w) :
    -(2 ^ (w - 1)) ≤ signedOf w c ∧ signedOf w c ≤ 2 ^ (w - 1) - 1 := by
  have hdouble := mul_pow_sub_one hw.ne' (2 : Int)
  have hc' : (c : Int) < 2 ^ w := by exact_mod_cast hc
  have hhalf : c < 2 ^ (w - 1) ↔ (c : Int) < 2 ^ (w - 1) := by exact_mod_cast Iff.rfl
  unfold signedOf
  split <;> omega

theorem codeOfInt_cast (w : Nat) (z : Int) : (codeOfInt w z : Int) = z % 2 ^ w :=
  Int.toNat_of_nonneg (Int.emod_nonneg _ (Int.pow_pos (by decide)).ne')

theorem codeOfInt_lt (w : Nat) (z : Int) : codeOfInt w z < 2 ^ w := by
  have hlt : z % 2 ^ w < 2 ^ w := Int.emod_lt_of_pos z (Int.pow_pos (by decide))
  rw [← codeOfInt_cast] at hlt
  exact_mod_cast hlt

/-- An integer in the signed range of w bits is what its code reads as. -/
theorem signedOf_codeOfInt {w : Nat} {z : Int} (hw : 0 < w) (hlo : -(2 ^ (w - 1)) ≤ z) (hhi : z ≤ 2 ^ (w - 1) - 1) :
    signedOf w (codeOfInt w z) = z := by
  have hdouble := mul_pow_sub_one hw.ne' (2 : Int)
  have hhalf : codeOfInt w z < 2 ^ (w - 1) ↔ (codeOfInt w z : Int) < 2 ^ (w - 1) := by exact_mod_cast Iff.rfl
  simp only [signedOf, hhalf, codeOfInt_cast]
  rcases Int.lt_or_le z 0 with hneg | hpos
  · have hmod : z % 2 ^ w = z + 2 ^ w := by
      rw [← Int.add_emod_right, Int.emod_eq_of_lt (by omega) (by omega)]
    rw [hmod, if_neg (by omega), Int.add_sub_cancel]
  · rw [Int.emod_eq_of_lt hpos (by omega), if_pos (by omega)]

/-- Saturation clamps (R68). -/
theorem satInt_eq_clamp {lo hi : Int} (h : lo ≤ hi) (z : Int) : (satInt lo hi z).1 = max lo (min hi z) := by
  unfold satInt
  split
  · omega
  · split <;> omega

/-- An integer element reads as its value clamped to the signed range of its width (R68). -/
theorem signedOf_intElem {w : Nat} (hw : 0 < w) (z : Int) :
    signedOf w ((intElem w z).code % 2 ^ w) = max (-(2 ^ (w - 1))) (min (2 ^ (w - 1) - 1) z) := by
  have hpos : (0 : Int) < 2 ^ (w - 1) := Int.pow_pos (by decide)
  have hsat := satInt_eq_clamp (show -(2 ^ (w - 1)) ≤ (2 : Int) ^ (w - 1) - 1 by omega) z
  have hcode : (intElem w z).code = codeOfInt w (max (-(2 ^ (w - 1))) (min (2 ^ (w - 1) - 1) z)) :=
    congrArg (codeOfInt w) hsat
  rw [hcode, Nat.mod_eq_of_lt (codeOfInt_lt ..), signedOf_codeOfInt hw (by omega) (by omega)]

/-- An integer that w bits hold is kept as it is. -/
theorem signedOf_intElem_of_range {w : Nat} (hw : 0 < w) {z : Int} (hlo : -(2 ^ (w - 1)) ≤ z)
    (hhi : z ≤ 2 ^ (w - 1) - 1) : signedOf w ((intElem w z).code % 2 ^ w) = z := by
  rw [signedOf_intElem hw]
  omega

end Sys2Proof.Machine
end

section
/-! Integer and bitwise operations of a compute unit on whole words (R54, R68, R206). -/

namespace Sys2Proof.Machine

theorem slot_pos (f : Fmt) : 0 < f.slot := by
  cases f <;> decide

/-- Element i of an integer operation without chaining is that operation on the elements i of its sources. -/
theorem laneOf_aluOp_int {op : CuOp} {fmt : Fmt} (hop : op ≠ .rsum ∧ op ≠ .rmax) (hint : fmt.isInt = true)
    (fn : Nat) (a b c : Line) {i : Nat} (h : i < 512 / fmt.slot) :
    laneOf (aluOp op fmt 0 fn a b c).line.toNat fmt.slot i
      = (intOp op fn fmt.slot (laneOf a.toNat fmt.slot i) (laneOf b.toNat fmt.slot i)
          (laneOf c.toNat fmt.slot i)).code % 2 ^ fmt.slot := by
  have hpack : aluOp op fmt 0 fn a b c = packElems fmt.slot ((List.range (512 / fmt.slot)).map fun i =>
      intOp op fn fmt.slot (laneOf a.toNat fmt.slot i) (laneOf b.toNat fmt.slot i) (laneOf c.toNat fmt.slot i)) := by
    unfold aluOp
    split
    · exact absurd rfl hop.1
    · exact absurd rfl hop.2
    · simp only [elemWidth, hint, if_true]
  rw [hpack, laneOf_packElems (by simpa using Nat.mul_div_le 512 fmt.slot) (by simpa using h)]
  simp

/-- An operation on bytes gives the line whose bytes are its elements. -/
theorem aluOp_int8_eq {op : CuOp} (hop : op ≠ .rsum ∧ op ≠ .rmax) {a b c l : Line}
    (h : ∀ i < 64, (intOp op 0 8 (laneOf a.toNat 8 i) (laneOf b.toNat 8 i) (laneOf c.toNat 8 i)).code
      = laneOf l.toNat 8 i) : (aluOp op .int8 0 0 a b c).line = l := by
  refine line_eq_of_bytes fun i hi => ?_
  refine (laneOf_aluOp_int hop rfl 0 a b c hi).trans ?_
  rw [show Fmt.int8.slot = 8 from rfl, h i hi, Nat.mod_eq_of_lt (laneOf_lt ..)]

/-- Bits that are a lane already are not cut. -/
theorem bitElem_laneOf (l : Line) (w i : Nat) : (bitElem w (laneOf l.toNat w i)).code = laneOf l.toNat w i :=
  Nat.mod_eq_of_lt (laneOf_lt ..)

/-- Settles O15: element i of the result is the operation on the elements i, saturated; a bitwise operation is
the line whose bytes are those of its operator. -/
theorem integerAndBitwiseComputeWords : Obligations.IntegerAndBitwiseComputeWords := by
  refine ⟨fun fmt a b c fn i hfmt hi => ?_, fun a b c => ?_⟩
  · have hint : fmt.isInt = true := by rcases hfmt with rfl | rfl <;> rfl
    have hw := slot_pos fmt
    have lane (op : CuOp) (hop : op ≠ .rsum ∧ op ≠ .rmax) := laneOf_aluOp_int hop hint fn a b c hi
    obtain ⟨halo, hahi⟩ := signedOf_range hw (laneOf_lt a.toNat fmt.slot i)
    obtain ⟨hblo, hbhi⟩ := signedOf_range hw (laneOf_lt b.toNat fmt.slot i)
    dsimp only
    rw [lane .add (by decide), lane .sub (by decide), lane .mul (by decide), lane .fma (by decide),
      lane .min (by decide), lane .max (by decide), lane .cmp (by decide)]
    refine ⟨signedOf_intElem hw _, signedOf_intElem hw _, signedOf_intElem hw _, signedOf_intElem hw _, ?_, ?_, ?_⟩
    · rw [intOp, ← Int.min_def]
      exact signedOf_intElem_of_range hw (by omega) (by omega)
    · rw [intOp, ← Int.max_def]
      exact signedOf_intElem_of_range hw (by omega) (by omega)
    · rw [intOp, bitElem, Nat.mod_mod]
      have hpos := Nat.two_pow_pos fmt.slot
      exact Nat.mod_eq_of_lt (by split <;> omega)
  · refine ⟨?_, ?_, ?_, ?_, ?_⟩
    · exact aluOp_int8_eq (by decide) fun i _ => bitElem_laneOf a 8 i
    · refine aluOp_int8_eq (by decide) fun i _ => ?_
      rw [intOp, ← laneOf_and, bitElem_laneOf]
    · refine aluOp_int8_eq (by decide) fun i _ => ?_
      rw [intOp, ← laneOf_or, bitElem_laneOf]
    · refine aluOp_int8_eq (by decide) fun i _ => ?_
      rw [intOp, ← laneOf_xor, bitElem_laneOf]
    · refine aluOp_int8_eq (by decide) fun i hi => ?_
      rw [intOp, ← laneOf_not c (by omega), ← laneOf_and, ← laneOf_and, ← laneOf_or, bitElem_laneOf]

end Sys2Proof.Machine
end

section
/-! The scale, statistics, tag and duty instructions of a thread and its drains (R77, R80, R84, R90, R142 to R145,
R152, R329). -/

namespace Sys2Proof.Machine

/-- A slice set after the tagger has noted the instruction: nothing else changes. -/
theorem slotOnly_tagged (s : State) (th : Thread) (d : Nat) (z : Slice) :
    SlotOnly s th z ((tagIssue s (thWell th) (thIx th) d).setSlc (thWell th) (thIx th) z) := by
  refine ⟨?_, ((tagIssue_only s _ _ _).mono (by simp)).trans ((only_wells _ _).mono (by simp))⟩
  unfold State.setSlc State.setWell
  dsimp only
  rw [tagIssue_wells, State.well_of_wells (tagIssue_wells s _ _ _)]

/-- An instruction whose verdict is to issue and whose effect is one new value of its slice. -/
theorem threadRow_slotOnly {s : State} {th : Thread} {op : MsqOp} {z : Slice} (ht : s.takes th)
    (hok : op.ok = true) (harrive : threadArrive s (thWell th) (thIx th) op = s)
    (hv : verdict s (thWell th) (thIx th) op = .issue)
    (hput : ∀ u : State, u.well (thWell th) = s.well (thWell th) →
      threadIssue u (thWell th) (thIx th) op = u.setSlc (thWell th) (thIx th) z) (name : String) :
    ∃ t, clocked s (threadRow s th op name) = .next t ∧ SlotOnly s th z t := by
  refine ⟨_, threadRow_issue ht hok harrive hv name, ?_⟩
  rw [hput _ (State.well_of_wells (tagIssue_wells ..) _)]
  exact slotOnly_tagged ..

/-- A scale transfer may begin: the side engine is free and no word of an earlier drain is left (R144). -/
theorem sideFree_issues {y : Slice} {now : Nat} (hside : y.sideOp = none) (hdrained : drained y now = true)
    (hwhole : y.wholeIn = false) :
    (if y.sideOp.isNone && drained y now && !y.wholeIn then Verdict.issue else .hold) = .issue := by
  simp [hside, hdrained, hwhole]

/-- A duty above the declared one leaves the thread with the duty it had (R329). -/
theorem past_duty (y : Slice) (d : Nat) : (if d ≤ y.declared then { y.past with duty := d } else y.past)
    = { y.past with duty := if d ≤ y.declared then d else y.duty } := by
  by_cases h : d ≤ y.declared
  · rw [if_pos h, if_pos h]
  · rw [if_neg h, if_neg h]
    rfl

/-- Settles O6: each instruction issues, and its effect is one new value of its slice. -/
theorem scaleAndTagInstructionsComplete : Obligations.ScaleAndTagInstructionsComplete := by
  intro s th ht
  refine ⟨?scl, ?zpc, ?scls, ?stat, ?tag, ?ptok⟩
  case scl =>
    intro f hok hside hdrained hwhole
    exact threadRow_slotOnly (op := .scl f) ht hok rfl (sideFree_issues hside hdrained hwhole)
      (fun u hu => by simp only [threadIssue, State.slot, State.slc, hu]) "SCL"
  case zpc =>
    intro f hok hside hdrained hwhole
    exact threadRow_slotOnly (op := .zpc f) ht hok rfl (sideFree_issues hside hdrained hwhole)
      (fun u hu => by simp only [threadIssue, State.slot, State.slc, hu]) "ZPC"
  case scls =>
    intro kind ch hside
    exact threadRow_slotOnly (op := .scls kind ch) ht rfl rfl (if_pos (Option.isNone_iff_eq_none.2 hside))
      (fun u hu => by simp only [threadIssue, State.slot, State.slc, hu]) "SCLS"
  case stat =>
    intro pt unit len hout
    exact threadRow_slotOnly (op := .stat pt unit len) ht rfl rfl (if_pos (List.isEmpty_iff.2 hout))
      (fun u hu => by simp only [threadIssue, State.slot, State.slc, hu]) "STAT"
  case tag =>
    intro l1 hl
    exact threadRow_slotOnly (op := .tag l1) ht (decide_eq_true hl) rfl rfl
      (fun u hu => by simp only [threadIssue, State.slot, State.slc, hu]) "TAG"
  case ptok =>
    intro duty hd
    refine threadRow_slotOnly (op := .ptok duty) ht (decide_eq_true hd) rfl rfl (fun u hu => ?_) "PTOK"
    simp only [threadIssue, State.slot, State.slc, hu]
    exact congrArg (u.setSlc _ _) (past_duty ..)

/-! ### Drains (R80, R83, R85, R110, R142, R143) -/

/-- A drain takes a block of streamed channel scales (R80, R142). -/
def takesScales (y : Slice) (f : DrainF) : Bool := y.streamed && !y.mx && !y.discard && !f.monly

/-- Words of a drain's scale block. -/
def drainScaleWords (f : DrainF) : Nat := (f.n1.toNat + 16) / 16

/-- The scale block that a drain takes. -/
def drainBlock (y : Slice) (f : DrainF) : List Word :=
  if takesScales y f then y.scaleBuf.take (drainScaleWords f) else []

/-- The scale block of a drain, where it takes one, is there and bears the tag of the data it drains (R84). -/
def ScalesFit (y : Slice) (f : DrainF) : Prop :=
  takesScales y f = true →
    scaleMatches { y with dataTag := if bankSel y f.bank.toNat = 0 then y.tagA else y.tagB } (drainScaleWords f) = true

theorem scaleReady_of_matches {y : Slice} {tag : BitVec 6} {n : Nat}
    (h : scaleMatches { y with dataTag := tag } n = true) : scaleReady y n = true := by
  simp only [scaleMatches, Bool.and_eq_true] at h
  exact Bool.or_eq_true_iff.2 (.inl h.1)

/-- A drain issues once its bank stands still, the drain before it leaves in time and its scales are there
(R110, R142, R143). -/
theorem drainVerdict_issue {y : Slice} {now : Nat} {f : DrainF} (hrun : runsInto y (bankSel y f.bank.toNat) = false)
    (hupd : updOf y (bankSel y f.bank.toNat) ≤ now)
    (hout : y.outQ = [] ∨ y.drainEnd ≤ now + (if f.monly then 0 else 5)) (hfit : ScalesFit y f) :
    drainVerdict y now f = .issue := by
  have hready : takesScales y f = true → scaleReady y (drainScaleWords f) = true :=
    fun h => scaleReady_of_matches (hfit h)
  have hstill : ¬ (runsInto y (bankSel y f.bank.toNat)
      || decide (now < updOf y (bankSel y f.bank.toNat))) = true := by
    simpa [hrun] using hupd
  unfold drainVerdict
  dsimp only
  rw [if_neg hstill]
  by_cases hm : f.monly = true
  · rw [if_pos hm, if_pos]
    rcases hout with h | h
    · simp [h]
    · rw [if_pos hm] at h
      simp [show y.drainEnd ≤ now from h]
  · have hlate : ¬ (!y.outQ.isEmpty && decide (now + 5 < y.drainEnd)) = true := by
      rcases hout with h | h
      · simp [h]
      · rw [if_neg hm] at h
        simp [h]
    rw [if_neg hm, if_neg hlate, if_neg]
    simp only [takesScales, hm] at hready
    simp only [Bool.and_eq_true, not_and, Bool.not_eq_true']
    intro hs hno
    exact absurd (hready (by simpa using hs)) (by simpa [drainScaleWords] using hno)

/-- The slice after a drain whose scales fit. -/
def drainSlice (y : Slice) (w i now : Nat) (f : DrainF) : Slice :=
  let b := bankSel y f.bank.toNat
  let ws := drainWords y w i now f (drainBlock y f) b
  let data := ws.foldl (fun m o => if o.word.isSome then Nat.max m o.tick else m) 0
  let z := { (bankTurn y f.bank.toNat).past with
    outQ := y.outQ ++ ws, drainEnd := ws.foldl (fun m o => Nat.max m o.tick) 0
    scaleBuf := if takesScales y f then y.scaleBuf.drop (drainScaleWords f) else y.scaleBuf }
  if f.monly then z else if b = 0 then { z with drainEndA := data } else { z with drainEndB := data }

/-- A drain whose scales fit raises no TAG_MISMATCH and gives its slice that value. -/
theorem drainIssue_fit {s : State} {w i : Nat} {f : DrainF} (hfit : ScalesFit (s.slc w i) f) :
    drainIssue s w i f = s.setSlc w i (drainSlice (s.slc w i) w i (s.well w).tick f) := by
  unfold drainIssue drainSlice drainBlock
  have hbad : (takesScales (s.slc w i) f && !scaleMatches { s.slc w i with
      dataTag := if bankSel (s.slc w i) f.bank.toNat = 0 then (s.slc w i).tagA else (s.slc w i).tagB }
      (drainScaleWords f)) = false := by
    cases h : takesScales (s.slc w i) f
    · rfl
    · simp [hfit h]
  unfold takesScales drainScaleWords at *
  simp only [hbad, Bool.not_false, Bool.and_true]
  rfl

section
variable (y : Slice) (w i now : Nat) (f : DrainF)

@[simp] theorem bankTurn_acc (b : Nat) : (bankTurn y b).acc = y.acc := by
  unfold bankTurn
  split <;> rfl

/-- What a drain leaves in its slice. -/
theorem drainSlice_reads :
    let ws := drainWords y w i now f (drainBlock y f) (bankSel y f.bank.toNat)
    let z := drainSlice y w i now f
    z.outQ = y.outQ ++ ws ∧ z.drainEnd = ws.foldl (fun m o => Nat.max m o.tick) 0
      ∧ z.scaleBuf = (if takesScales y f then y.scaleBuf.drop (drainScaleWords f) else y.scaleBuf)
      ∧ z.pc = (bankTurn y f.bank.toNat).past.pc ∧ z.acc = y.acc := by
  have hacc : (bankTurn y f.bank.toNat).past.acc = y.acc := bankTurn_acc y _
  unfold drainSlice
  dsimp only
  split
  · exact ⟨rfl, rfl, rfl, rfl, hacc⟩
  · split <;> exact ⟨rfl, rfl, rfl, rfl, hacc⟩

end

/-- Settles O7: the drain issues, and its effect is one new value of its slice with the words it computes last in
the output queue. -/
theorem drainPutsItsWordsInTheOutputQueue : Obligations.DrainPutsItsWordsInTheOutputQueue := by
  intro s th f ht hok
  dsimp only
  intro hrun hupd hout hfit
  have hput (u : State) (hu : u.well (thWell th) = s.well (thWell th)) :
      threadIssue u (thWell th) (thIx th) (.drain f) = u.setSlc (thWell th) (thIx th)
        (drainSlice (s.slot th) (thWell th) (thIx th) (s.well (thWell th)).tick f) := by
    have hslc : u.slc (thWell th) (thIx th) = s.slot th := congrArg (Well.slice · (thIx th)) hu
    rw [← hslc] at hfit ⊢
    rw [← hu]
    exact drainIssue_fit hfit
  obtain ⟨t, hexec, hwells, honly⟩ :=
    threadRow_slotOnly (op := .drain f) ht hok rfl (drainVerdict_issue hrun hupd hout hfit) hput "DRAIN"
  have hslot : t.slot th = drainSlice (s.slot th) (thWell th) (thIx th) (s.well (thWell th)).tick f :=
    (State.slc_of_wells hwells _ _).trans (State.slc_setSlc ..)
  obtain ⟨houtQ, hend, hbuf, hpc, hacc⟩ :=
    drainSlice_reads (s.slot th) (thWell th) (thIx th) (s.well (thWell th)).tick f
  rw [← hslot] at houtQ hend hbuf hpc hacc hwells
  exact ⟨t, hexec, houtQ, hend, hbuf, hpc, hacc, hwells, honly⟩

end Sys2Proof.Machine
end

section
/-! Two writes of one piece, and the control registers of a thread, its scales and its statistics (R78, R90, R92,
R93, R153, R154). -/

namespace Sys2Proof.Machine

/-! ### Two writes of one piece -/

section
variable {α : Type} {d : Nat → α}

theorem SMap.erase_of_absent {m : SMap α} {k : Nat} (h : ∀ e ∈ m, e.1 ≠ k) : SMap.erase m k = m := by
  induction m with
  | nil => rfl
  | cons e r ih =>
    rw [SMap.erase, if_neg (h e (by simp)), ih fun e' h' => h e' (by simp [h'])]

theorem SMap.erase_insert {m : SMap α} {k : Nat} (h : ∀ e ∈ m, e.1 ≠ k) (x : α) :
    SMap.erase (SMap.insert m k x) k = m := by
  induction m with
  | nil => simp [SMap.insert, SMap.erase]
  | cons e r ih =>
    unfold SMap.insert
    split
    · rw [SMap.erase, if_pos rfl, SMap.erase_of_absent h]
    · rw [SMap.erase, if_neg (h e (by simp)), ih fun e' h' => h e' (by simp [h'])]

variable [DecidableEq α]

/-- A later write of a key is all that is left of an earlier one. -/
theorem SMap.set_set (m : SMap α) (k : Nat) (x z : α) :
    SMap.set d (SMap.set d m k x) k z = SMap.set d m k z := by
  have herase : SMap.erase (SMap.set d m k x) k = SMap.erase m k := by
    unfold SMap.set
    split
    · exact SMap.erase_of_absent (SMap.erase_keys m k)
    · exact SMap.erase_insert (SMap.erase_keys m k) x
  rw [SMap.set, herase, SMap.set]

end

theorem State.setWell_setWell (s : State) (w : Nat) (x y : Well) : (s.setWell w x).setWell w y = s.setWell w y :=
  congrArg (fun m => ({ s with wells := m } : State)) (SMap.set_set s.wells w x y)
theorem Well.setSlice_setSlice (x : Well) (i : Nat) (y z : Slice) : (x.setSlice i y).setSlice i z = x.setSlice i z :=
  congrArg (fun m => ({ x with slices := m } : Well)) (SMap.set_set x.slices i y z)

@[simp] theorem State.setSlc_setSlc (s : State) (w i : Nat) (y z : Slice) :
    (s.setSlc w i y).setSlc w i z = s.setSlc w i z := by
  unfold State.setSlc
  rw [State.setWell_setWell, State.well_setWell_same, Well.setSlice_setSlice]

/-- One new value of a thread's slice, read by its parts, and nothing else. -/
theorem setSlc_frame (s : State) (th : Thread) (y : Slice) :
    let t := s.setSlc (thWell th) (thIx th) y
    (∀ {α : Type} (p : Slice → α), p (t.slot th) = p y)
      ∧ t.wells = (s.setSlc (thWell th) (thIx th) (t.slot th)).wells ∧ Only [.wells] s t := by
  have hslot : (s.setSlc (thWell th) (thIx th) y).slot th = y := State.slc_setSlc ..
  refine ⟨fun p => congrArg p hslot, ?_, only_wells s _⟩
  rw [hslot]

/-! ### `MSQ_CTRL` (R153, R154) -/

/-- A slice whose thread starts in a context (R127, R153). -/
def Slice.started (y : Slice) (ctx : Nat) (swflag : Bool) : Slice :=
  { y with
    ctlCtx := ctx, swflag := swflag, pc := 0, ctx := ctx, loops := noLoops, toggles := [], markers := []
    relayPass := true, st := .issuing, wait := .none, waited := 0, arrived := false, counted := false
    released := false, switching := false, disc := 0, nextHold := 0, nextWait := 0, nextFrozen := 0 }

/-- A slice whose thread is stopped: issue and every engine end (R154). -/
def Slice.stopped (y : Slice) (ctx : Nat) (swflag : Bool) : Slice :=
  { y.stand .halted 0xFFFF with
    ctlCtx := ctx, swflag := swflag, bankOp := none, sideOp := none, outQ := [], drainEnd := 0, drainEndA := 0
    drainEndB := 0, updA := 0, updB := 0 }

section
variable {s : State} {w i : Nat} {v : W32}

/-- START of a thread that stands, in a committed context. -/
theorem msqCtrlWrite_start (hstop : bitAt v 30 = false) (hgo : bitAt v 31 = true)
    (hst : (s.slc w i).active = false) (hrun : (s.well w).run ≠ .failed)
    (hctx : (s.well w).ctxState (bits v 28 2) = .committed) :
    msqCtrlWrite s w i v = s.setSlc w i ((s.slc w i).started (bits v 28 2) (bitAt v 27)) := by
  let y := { s.slc w i with ctlCtx := bits v 28 2, swflag := bitAt v 27 }
  have hwell : (s.setSlc w i y).well w = (s.well w).setSlice i y := State.well_setWell_same ..
  have hgoes : ¬ (y.active || ((s.setSlc w i y).well w).run == .failed
      || ((s.setSlc w i y).well w).ctxState y.ctlCtx != .committed) = true := by
    rw [hwell, show y.active = false from hst]
    simpa using ⟨hrun, hctx⟩
  simp only [msqCtrlWrite, hstop, hgo, threadStart, State.slc_setSlc, State.setSlc_setSlc, Bool.false_eq_true,
    if_false, if_true]
  exact if_neg hgoes

/-- STOP, with or without START. -/
theorem msqCtrlWrite_stop (hstop : bitAt v 30 = true) :
    msqCtrlWrite s w i v = s.setSlc w i ((s.slc w i).stopped (bits v 28 2) (bitAt v 27)) := by
  simp only [msqCtrlWrite, hstop, threadStop, State.slc_setSlc, State.setSlc_setSlc]
  rfl

end

/-- The fields of the value that `MSQ_START` writes. -/
theorem startValue_fields : ∀ (ctx : BitVec 2) (swflag : Bool),
    let v : W32 := BitVec.ofNat 32 (1 <<< 31 + ctx.toNat <<< 28 + b2n swflag <<< 27)
    bits v 28 2 = ctx.toNat ∧ bitAt v 27 = swflag ∧ bitAt v 30 = false ∧ bitAt v 31 = true := by decide

/-- The value that `MSQ_STOP` writes has STOP set. -/
theorem stopValue_stops : ∀ (ctx : BitVec 2) (swflag start : Bool),
    bitAt (BitVec.ofNat 32 (b2n start <<< 31 + 1 <<< 30 + ctx.toNat <<< 28 + b2n swflag <<< 27)) 30 = true := by
  decide

/-! ### Scales and statistics (R78, R90, R92, R93) -/

theorem quietThread_of_stands {y : Slice} (h : y.st = .halted ∨ y.st = .notStarted) : y.quietThread = true := by
  rcases h with h | h <;> simp [Slice.quietThread, h]

/-- A command of a clocked part whose one condition holds. -/
theorem clocked_if {s t : State} {c : Bool} (hclk : s.clocksRun = true) (hc : c = true) :
    clocked s (.next (if c then t else s)) = .next t := by
  rw [clocked_run hclk, if_pos hc]

/-- Settles O11: each write is one new value of the slice, the CU statistics or the port that it names (a link's
control with PER_TENSOR set and its own mask, R404). -/
theorem threadRegistersComplete : Obligations.ThreadRegistersComplete := by
  intro s th hclk hth
  refine ⟨?start, ?stop, ?scale, ?statCtrl, ?windowEnd, ?cu, ?link,
    fun b => ⟨rfl, rfl, rfl, rfl, rfl, rfl, rfl⟩⟩
  case start =>
    intro ctx swflag hst hrun hctx
    obtain ⟨hc, hsw, hstop, hgo⟩ := startValue_fields ctx swflag
    have hwrite := msqCtrlWrite_start hstop hgo hst hrun (hc.symm ▸ hctx)
    rw [hc, hsw] at hwrite
    obtain ⟨reads, hwells, honly⟩ := setSlc_frame s th ((s.slot th).started ctx.toNat swflag)
    exact ⟨_, (clocked_if hclk hth).trans (congrArg _ hwrite), reads Slice.pc, reads Slice.ctx, reads Slice.loops,
      reads Slice.markers, reads Slice.st, reads Slice.swflag, reads Slice.acc, hwells, honly⟩
  case stop =>
    intro ctx swflag start
    have hwrite := msqCtrlWrite_stop (s := s) (w := thWell th) (i := thIx th) (stopValue_stops ctx swflag start)
    obtain ⟨reads, hwells, honly⟩ := setSlc_frame s th ((s.slot th).stopped _ _)
    exact ⟨_, (clocked_if hclk hth).trans (congrArg _ hwrite), reads Slice.st, reads Slice.code, reads Slice.bankOp,
      reads Slice.sideOp, reads Slice.outQ, reads Slice.acc, reads Slice.scale, reads Slice.rowsum, hwells, honly⟩
  case scale =>
    intro n v hst
    exact (clocked_if hclk hth).trans (congrArg _ (if_pos (quietThread_of_stands hst)))
  case statCtrl =>
    intro v hst
    exact (clocked_if hclk hth).trans (congrArg _ (if_pos (quietThread_of_stands hst)))
  case windowEnd =>
    exact fun hdue => clocked_if hclk (Bool.and_eq_true_iff.2 ⟨hth, hdue⟩)
  case cu =>
    exact fun w k hw => ⟨fun v => clocked_if hclk hw,
      fun hdue => clocked_if hclk (Bool.and_eq_true_iff.2 ⟨hw, hdue⟩)⟩
  case link =>
    exact fun n hn => ⟨fun v => clocked_if hclk hn,
      fun hdue => clocked_if hclk (Bool.and_eq_true_iff.2 ⟨hn, hdue⟩)⟩

end Sys2Proof.Machine
end

section
/-! What sending a packet, a word that enters a queue and a fault of a stream leave as it was: the ingress entries,
and every part beside their own (R227, R263, R396 to R402). -/

namespace Sys2Proof.Machine

/-! ### Sending a packet -/

/-- The parts that sending a packet may touch: the ports and what counts the flits. -/
def sendParts : List Part := [.lk, .regs, .hi, .pmu]

/-- Without what sending a packet touches. -/
def State.hideSend (s : State) : State :=
  { s with regs := [], hi := .reset, pmu := .reset, lk := { s.lk with ports := [] } }

theorem hideSend_of {s t : State} (h : t.hideRegs = s.hideRegs) : t.hideSend = s.hideSend :=
  congrArg (fun u : State => { u with pmu := .reset, lk := { u.lk with ports := [] } }) h

theorem hideSend_only {s t : State} (h : t.hideSend = s.hideSend) : Only sendParts s t := by
  intro q hq
  simp only [State.hideSend, State.mk.injEq] at h
  cases q <;> simp_all [Part.same, sendParts]

theorem hideSend_ingress {s t : State} (h : t.hideSend = s.hideSend) (k : Nat) : t.ingress k = s.ingress k :=
  (congrArg (State.ingress · k) h :)

theorem hideSend_setPort (s : State) (n : Nat) (x : LinkPort) : (s.setPort n x).hideSend = s.hideSend := rfl
theorem hideSend_event (s : State) (c u e : Nat) : (event s c u e).hideSend = s.hideSend :=
  hideSend_of (event_hides ..)
theorem hideSend_bwCount (s : State) (i d : Nat) : (bwCount s i d).hideSend = s.hideSend := by
  unfold bwCount
  split <;> rfl

theorem hideSend_putFlit (s : State) (n k q : Nat) (l : List Line) :
    (putFlit s n k q l).hideSend = s.hideSend := rfl

theorem hideSend_formFlits (s : State) (n k : Nat) : (formFlits s n k).hideSend = s.hideSend := by
  induction k generalizing s with
  | zero => rfl
  | succ k ih =>
    simp only [formFlits, apply_ite State.hideSend, ih, hideSend_event,
      foldl_part State.hideSend _ (fun _ _ => hideSend_bwCount ..), putIdle, hideSend_putFlit, hideSend_setPort,
      ite_self]

theorem hideSend_runPort (s : State) (n : Nat) : (runPort s n).hideSend = s.hideSend := by
  simp only [runPort, apply_ite State.hideSend, hideSend_formFlits, hideSend_setPort, ite_self]

theorem hideSend_sendTo (s : State) (i : Nat) (p : Packet) : (sendTo s i p).hideSend = s.hideSend := by
  simp only [sendTo, sendPacket, apply_ite State.hideSend, hideSend_runPort, hideSend_setPort, ite_self]

theorem hideSend_sendOwn (s : State) (kind dst dw1 dw2 : Nat) (data : List Line) :
    (sendOwn s kind dst dw1 dw2 data).hideSend = s.hideSend := hideSend_sendTo ..

theorem sendOwn_only (s : State) (kind dst dw1 dw2 : Nat) (data : List Line) :
    Only sendParts s (sendOwn s kind dst dw1 dw2 data) := hideSend_only (hideSend_sendOwn ..)

@[simp] theorem sendOwn_ingress (s : State) (kind dst dw1 dw2 : Nat) (data : List Line) (k : Nat) :
    (sendOwn s kind dst dw1 dw2 data).ingress k = s.ingress k := hideSend_ingress (hideSend_sendOwn ..) k

@[simp] theorem sendOwn_wells (s : State) (kind dst dw1 dw2 : Nat) (data : List Line) :
    (sendOwn s kind dst dw1 dw2 data).wells = s.wells := sendOwn_only s kind dst dw1 dw2 data .wells rfl

/-! ### A word that enters a queue -/

/-- The parts that a word entering a queue may touch: the wells, memory, and what counts and logs it. -/
def queueParts : List Part := [.wells, .mem, .ecc, .regs, .hi, .err]

theorem event_only (s : State) (c u e : Nat) : Only [.regs, .hi] s (event s c u e) := by
  intro q hq
  cases q <;> simp_all [Part.same]

theorem wellFault_only (s : State) (w : Nat) (f : FaultInfo) : Only logParts s (wellFault s w f) := by
  intro q hq
  cases q <;> simp_all [Part.same, logParts]

theorem sqPush_only (s : State) (w e : Nat) (wd : Word) : Only queueParts s (sqPush s w e wd) := by
  have hevent : Only queueParts s (event s 4 (queueNo w e) 1) := (event_only _ _ _ _).mono (by simp [queueParts])
  have hput (u : State) (x : SqEntry) : Only queueParts u (sqPut u w e x) :=
    (sqPut_only _ _ _ _).mono (by simp [queueParts])
  unfold sqPush sqPushAt
  dsimp only
  split
  · obtain ⟨-, -, -, hring⟩ := ringEnter_frame (event s 4 (queueNo w e) 1) w e wd
    exact (hevent.trans (hring.mono (by simp [queueParts]))).trans (hput _ _)
  · split
    · exact (hevent.trans (hput _ _)).trans ((wellFault_only _ _ _).mono (by simp [queueParts, logParts]))
    · exact hevent.trans (hput _ _)

theorem sideEnter_only (s : State) (w e : Nat) (wd : Word) : Only queueParts s (sideEnter s w e wd) := by
  unfold sideEnter
  dsimp only
  split
  · exact (only_wells s _).mono (by simp [queueParts])
  · exact sqPush_only _ _ _ _

/-! ### Ingress entries (R397, R402) -/

theorem State.ingress_of_lk {s t : State} (h : t.lk = s.lk) (k : Nat) : t.ingress k = s.ingress k :=
  congrArg (fun l : LinkDev => SMap.get (fun _ => Ingress.none_) l.ingress k) h

@[simp] theorem State.ingress_setIngress (s : State) (k : Nat) (e : Ingress) : (s.setIngress k e).ingress k = e :=
  SMap.get_set_same s.lk.ingress k e
theorem State.ingress_setIngress_other (s : State) {k j : Nat} (e : Ingress) (h : j ≠ k) :
    (s.setIngress k e).ingress j = s.ingress j := SMap.get_set_other s.lk.ingress e h
@[simp] theorem State.ingress_setSq (s : State) (w e : Nat) (x : SqEntry) (k : Nat) :
    (s.setSq w e x).ingress k = s.ingress k := rfl
@[simp] theorem State.sq_setIngress (s : State) (k : Nat) (e : Ingress) (w q : Nat) :
    (s.setIngress k e).sq w q = s.sq w q := rfl

theorem ingressReturn_seq (s : State) (k n : Nat) : ((ingressReturn s k n).ingress k).seq = (s.ingress k).seq := by
  simp [ingressReturn]
theorem ingressReturn_ingress_other (s : State) {k j : Nat} (n : Nat) (h : j ≠ k) :
    (ingressReturn s k n).ingress j = s.ingress j := by
  simp [ingressReturn, State.ingress_setIngress_other _ _ h]

/-- A freed entry is gone, and every other is as it was. -/
theorem ingressFree_ingress (s : State) (k : Nat) : (ingressFree s k).ingress k = Ingress.none_
    ∧ ∀ j, j ≠ k → (ingressFree s k).ingress j = s.ingress j := by
  refine ⟨State.ingress_setIngress .., fun j h => ?_⟩
  exact (State.ingress_setIngress_other _ _ h).trans (ingressReturn_ingress_other s _ h)

/-- An entry in use that is aborted is gone, and every other is as it was (log 105). -/
theorem ingressAbort_ingress {s : State} {k : Nat} (hu : (s.ingress k).used = true) (status : Nat) :
    (ingressAbort s k status).ingress k = Ingress.none_
      ∧ ∀ j, j ≠ k → (ingressAbort s k status).ingress j = s.ingress j := by
  have henter (u : State) (w e : Nat) (wd : Word) (j : Nat) : (sideEnter u w e wd).ingress j = u.ingress j :=
    State.ingress_of_lk (sideEnter_only u w e wd .lk rfl) j
  unfold ingressAbort
  dsimp only
  rw [if_pos hu, henter]
  obtain ⟨hgone, hother⟩ := ingressFree_ingress s k
  exact ⟨hgone, fun j h => (henter ..).trans (hother j h)⟩

theorem ingressAbort_strs (s : State) (k status : Nat) : (ingressAbort s k status).strs = s.strs := by
  unfold ingressAbort
  dsimp only
  split
  · exact sideEnter_only _ _ _ _ .strs rfl
  · rfl

theorem bwCount_lk (s : State) (i d : Nat) : (bwCount s i d).lk = s.lk := by
  unfold bwCount
  split <;> rfl

/-- Words that enter the destination queue leave the sequence of their entry. -/
theorem ingressPush_seq {s u : State} {k : Nat} {l : List Word} (h : ingressPush s k l = some u) :
    (u.ingress k).seq = (s.ingress k).seq := by
  induction l generalizing s with
  | nil =>
    cases h
    rfl
  | cons wd r ih =>
    rw [ingressPush] at h
    split at h
    · have hlk (v : State) (w e b : Nat) : (bwCount (sqPush v w e wd) b 0).lk = v.lk :=
        (bwCount_lk ..).trans (sqPush_only v w e wd .lk rfl)
      rw [ih h, State.ingress_of_lk (hlk ..), ingressReturn_seq]
    · cases h

/-- Reserving words adds them to the entry and to its queue, and leaves every other entry. -/
theorem ingressReserve_reads (s : State) (k n : Nat) :
    let e := s.ingress k
    (ingressReserve s k n).ingress k = { e with resv := e.resv + n }
      ∧ (∀ j, j ≠ k → (ingressReserve s k n).ingress j = s.ingress j)
      ∧ ((ingressReserve s k n).sq e.well e.entry).resv = (s.sq e.well e.entry).resv + n := by
  refine ⟨by simp [ingressReserve], fun j h => ?_, by simp [ingressReserve]⟩
  simp [ingressReserve, State.ingress_setIngress_other _ _ h]

/-- The rate of an entry's queue moves neither its use nor its reservation. -/
theorem ingressTte_reads (s : State) (e : Ingress) :
    (ingressTte s e).2.used = e.used ∧ (ingressTte s e).2.resv = e.resv := by
  unfold ingressTte
  dsimp only
  split <;> exact ⟨rfl, rfl⟩

/-! ### A fault of a stream (R263) -/

theorem strReport_strs_lk (s : State) (i status addr off : Nat) (task pipe : Option Nat) :
    let t := strReport s i status addr off task pipe
    t.strs = s.strs ∧ t.lk = s.lk := by
  unfold strReport
  dsimp only
  split
  · split
    · exact ⟨logEntry_strs .., logEntry_lk ..⟩
    · exact ⟨taskFault_strs .., taskFault_lk ..⟩
  · split
    · exact ⟨pipeFault_strs .., pipeFault_lk ..⟩
    · exact ⟨logEntry_strs .., logEntry_lk ..⟩

theorem hideSend_sendSterr (s : State) (i status : Nat) : (sendSterr s i status).hideSend = s.hideSend := by
  unfold sendSterr
  dsimp only
  split
  · split
    · exact hideSend_sendTo ..
    · rfl
  · rfl

/-- A running stream that faults no longer runs; ingress entries stay. -/
theorem strFault_reads (s : State) (i status addr off : Nat) :
    ((s.str i).st = .running → ((strFault s i status addr off).str i).st = .faulting)
      ∧ ∀ k, (strFault s i status addr off).ingress k = s.ingress k := by
  unfold strFault strFaultOf
  dsimp only
  split
  · exact ⟨fun h => absurd h ‹_›, fun _ => rfl⟩
  · refine ⟨fun _ => ?_, fun k => ?_⟩
    · rw [State.str, (strReport_strs_lk ..).1]
      exact congrArg Stream.st (State.str_setStr_same ..)
    · exact (State.ingress_of_lk (strReport_strs_lk ..).2 k).trans (hideSend_ingress (hideSend_sendSterr ..) k)

theorem dropPackets_st (s : State) (i : Nat) (wr : WrOut → Bool) (rd : RdOut → Bool) :
    ((dropPackets s i wr rd).str i).st = (s.str i).st := by
  rw [dropPackets, State.str_setStr_same]
theorem dropPackets_ingress (s : State) (i : Nat) (wr : WrOut → Bool) (rd : RdOut → Bool) (k : Nat) :
    (dropPackets s i wr rd).ingress k = s.ingress k := rfl

end Sys2Proof.Machine
end

section
/-! The packets of peer streams and peer windows as they arrive (R95, R396 to R402). -/

namespace Sys2Proof.Machine

/-- The words that a STREAM packet carries (R396). -/
def packetWords (pk : Packet) : List Word :=
  decodeWords (Fmt.ofCode (bits pk.dw1 32 4)) (Fmt.ofCode (bits pk.dw1 36 4)) (f32 (bits pk.dw2 0 32))
    (bits pk.dw1 40 6 + 1) (slotBytes pk.data)

/-- The state once the words of a STREAM packet have entered: the entry is freed at END, else its sequence moves
on (R397). -/
def packetTaken (s u : State) (pk : Packet) : State :=
  if bitAt pk.dw1 46 then ingressFree u (ingressKey pk)
  else u.setIngress (ingressKey pk)
    { u.ingress (ingressKey pk) with seq := ((s.ingress (ingressKey pk)).seq + 1) % 256 }

section
variable {s : State} {pk : Packet}

/-! ### Streams -/

section
variable (hclk : s.clocksRun = true) (hf : forHere s pk 1 = true) (hu : (s.ingress (ingressKey pk)).used = true)
include hclk hf hu

/-- A STREAM packet out of sequence aborts the stream at both ends (R401). -/
theorem exec_stream_gap (hseq : pkSeqNo pk ≠ (s.ingress (ingressKey pk)).seq) :
    exec (.streamPacketArrival pk) s = .next (ingressAbort
      (sendOwn s 7 pk.src.toNat (bits pk.dw1 0 32) stLinkDown []) (ingressKey pk) stLinkDown) := by
  refine (clocked_run hclk _).trans ?_
  dsimp only
  rw [hf, hu, Bool.and_self, if_pos rfl, if_pos hseq]

/-- A STREAM packet in sequence whose words have room is taken and answered (R396 to R398). -/
theorem exec_stream_taken (hseq : pkSeqNo pk = (s.ingress (ingressKey pk)).seq) {u : State}
    (hpush : ingressPush s (ingressKey pk) (packetWords pk) = some u) :
    exec (.streamPacketArrival pk) s = .next (streamCompl (packetTaken s u pk) pk 0) := by
  refine (clocked_run hclk _).trans ?_
  unfold packetWords at hpush
  dsimp only
  rw [hf, hu, Bool.and_self, if_pos rfl, if_neg (not_not.2 hseq), packetTaken, ← ingressPush_seq hpush]
  simp only [hpush]

/-- Without room for its words it waits. -/
theorem exec_stream_waits (hseq : pkSeqNo pk = (s.ingress (ingressKey pk)).seq)
    (hpush : ingressPush s (ingressKey pk) (packetWords pk) = none) :
    exec (.streamPacketArrival pk) s = .next s := by
  refine (clocked_run hclk _).trans ?_
  unfold packetWords at hpush
  dsimp only
  rw [hf, hu, Bool.and_self, if_pos rfl, if_neg (not_not.2 hseq)]
  simp only [hpush]

end

/-- A taken packet frees the entry at END, else moves its sequence on. -/
theorem packetTaken_ingress (u : State) :
    if bitAt pk.dw1 46 then ((packetTaken s u pk).ingress (ingressKey pk)).used = false
    else ((packetTaken s u pk).ingress (ingressKey pk)).seq = ((s.ingress (ingressKey pk)).seq + 1) % 256 := by
  unfold packetTaken
  split
  · rw [(ingressFree_ingress _ _).1]
    rfl
  · rw [State.ingress_setIngress]

/-! ### Credit (R397) -/

/-- A credit request for an entry in use reserves for it what its queue has open, up to 512 words, and grants it
(log 107). -/
theorem exec_creditRequest_used (hclk : s.clocksRun = true) (hf : forHere s pk 2 = true)
    (hreq : bitAt pk.dw2 16 = true) (hmay : creditMay s pk = true) (hu : (s.ingress (ingressKey pk)).used = true) :
    let e := s.ingress (ingressKey pk)
    let g := Nat.min (512 - e.resv) (s.sq e.well e.entry).freeOpen
    let u := ingressReserve s (ingressKey pk) g
    let r := ingressTte u (u.ingress (ingressKey pk))
    exec (.creditRequest pk) s = .next (sendOwn (u.setIngress (ingressKey pk) r.2) 2 pk.src.toNat
      (bits pk.dw1 0 24) (g + r.1 <<< 17) []) := by
  refine (clocked_run hclk _).trans ?_
  dsimp only
  simp only [hf, hreq, hmay, hu, Bool.and_self, if_true]

/-- A credit reply adds its grant to the stream that asked. -/
theorem exec_creditReply_asked (hclk : s.clocksRun = true) (hf : forHere s pk 2 = true)
    (hrep : bitAt pk.dw2 16 = false) (hask : (s.str (pkStrIdx pk)).asked = true) :
    exec (.creditReply pk) s = .next (s.setStr (pkStrIdx pk) { s.str (pkStrIdx pk) with
      credit := (s.str (pkStrIdx pk)).credit + bits pk.dw2 0 16, tte := bits pk.dw2 17 20, asked := false }) := by
  refine (clocked_run hclk _).trans (if_pos ?_)
  simp [hf, hrep, hask]

/-! ### The peer window (R400) -/

/-- A peer write is answered with the status of the window, which stores its lines or nothing. -/
theorem exec_pwrArrival (hclk : s.clocksRun = true) (hf : forHere s pk 4 = true) :
    let st := pwrStatus s (pkWinOff pk / 64 * 64) pk.data.length
    exec (.pwrArrival pk) s = .next (sendOwn (if st = 0 then (List.range pk.data.length).foldl
        (fun (u : State) j => (peerWriteLine u (pkWinOff pk / 64 * 64 + 64 * j) (pk.data.getD j 0)
          (pwrMask pk j pk.data.length)).2) s
      else s) 3 pk.src.toNat (pkReqTagNo pk + st <<< 32) 0 []) :=
  (clocked_run hclk _).trans (if_pos hf)

/-- A peer read is answered with its lines or the first failing status, and with a completion (log 108). -/
theorem exec_prdArrival (hclk : s.clocksRun = true) (hf : forHere s pk 5 = true) :
    let r := prdLines s (pkWinOff pk / 64 * 64) (bits pk.dw2 0 5 + 1)
    exec (.prdArrival pk) s = .next (sendOwn (sendOwn r.2.2 6 pk.src.toNat (pkReqTagNo pk + r.1 <<< 16) 0
      (if r.1 = 0 then r.2.1 else [])) 3 pk.src.toNat (pkReqTagNo pk + r.1 <<< 32) 0 []) :=
  (clocked_run hclk _).trans (if_pos hf)

/-! ### Stream errors (R401, R402) -/

/-- The descriptor whose destination an STERR packet names. -/
def sterrNames (pk : Packet) (d : FDesc) : Bool :=
  d.dkind == 2 && refPeer d.dest == pk.src.toNat && refWell d.dest == pkQWell pk && refEntry d.dest == pkQEntry pk

/-- An STERR packet frees the entry of its stream, where it names the queue of that entry. -/
def sterrFreed (s : State) (pk : Packet) : State :=
  let e := s.ingress (ingressKey pk)
  if e.used && e.well == pkQWell pk && e.entry == pkQEntry pk then ingressAbort s (ingressKey pk) stLinkDown else s

/-- At the source it faults the stream that holds a descriptor for the queue it names. -/
def sterrFaulted (u : State) (pk : Packet) : State :=
  ((u.str (pkStrIdx pk)).fetched.find? (sterrNames pk)).elim u fun d =>
    dropPackets (strFault u (pkStrIdx pk) stLinkDown d.addr 0) (pkStrIdx pk) isPeerQueue fun _ => false

/-- An STERR packet does both. -/
theorem exec_sterrArrival (hclk : s.clocksRun = true) (hf : forHere s pk 7 = true) :
    exec (.sterrArrival pk) s = .next (sterrFaulted (sterrFreed s pk) pk) := by
  refine (clocked_run hclk _).trans ((if_pos hf).trans ?_)
  unfold sterrFaulted
  cases h : ((sterrFreed s pk).str (pkStrIdx pk)).fetched.find? (sterrNames pk) with
  | none =>
    unfold sterrFreed sterrNames at h
    simp only [h]
    rfl
  | some d =>
    unfold sterrFreed sterrNames at h
    simp only [h]
    rfl

/-- A freed entry is not in use, whatever the packet names after it. -/
theorem sterrFreed_ingress (hu : (s.ingress (ingressKey pk)).used = true)
    (hw : (s.ingress (ingressKey pk)).well = pkQWell pk) (he : (s.ingress (ingressKey pk)).entry = pkQEntry pk) :
    (sterrFreed s pk).ingress (ingressKey pk) = Ingress.none_ := by
  have habort : sterrFreed s pk = ingressAbort s (ingressKey pk) stLinkDown := if_pos (by simp [hu, hw, he])
  rw [habort]
  exact (ingressAbort_ingress hu stLinkDown).1

theorem sterrFreed_str (i : Nat) : (sterrFreed s pk).str i = s.str i := by
  unfold sterrFreed
  dsimp only
  split
  · exact congrArg (SMap.get (fun _ => Stream.reset) · i) (ingressAbort_strs s _ _)
  · rfl

theorem sterrFaulted_ingress (u : State) (pk : Packet) (k : Nat) : (sterrFaulted u pk).ingress k = u.ingress k := by
  unfold sterrFaulted
  cases (u.str (pkStrIdx pk)).fetched.find? (sterrNames pk) with
  | none => rfl
  | some d => exact (dropPackets_ingress ..).trans ((strFault_reads ..).2 k)

theorem sterrFaulted_st {u : State} {d : FDesc} (hrun : (u.str (pkStrIdx pk)).st = .running)
    (hfind : (u.str (pkStrIdx pk)).fetched.find? (sterrNames pk) = some d) :
    ((sterrFaulted u pk).str (pkStrIdx pk)).st = .faulting := by
  rw [sterrFaulted, hfind]
  exact (dropPackets_st ..).trans ((strFault_reads ..).1 hrun)

/-! ### Answers (R398) -/

/-- A COMPL of a STREAM packet answers its write. -/
theorem exec_compl_stream (hclk : s.clocksRun = true) (hf : forHere s pk 3 = true) (hs : bitAt pk.dw1 40 = true) :
    exec (.complArrival pk) s = .next (writeAnswer (sentGone s (pkStrIdx pk) (pkSeqNo pk)) (pkStrIdx pk)
      (.peerQueue (pkSeqNo pk) pk.src.toNat) (bits pk.dw1 32 8)) :=
  (clocked_run hclk _).trans ((if_pos hf).trans (if_pos hs))

/-- A COMPL of a request, by the stream whose tag it bears. -/
theorem exec_compl_tag (hclk : s.clocksRun = true) (hf : forHere s pk 3 = true) (hs : bitAt pk.dw1 40 = false) :
    let tag := bits pk.dw1 0 16
    let status := bits pk.dw1 32 8
    exec (.complArrival pk) s = .next ((tagOwner s tag).elim s fun i =>
      let u := writeAnswer (sentGone s i (65536 + tag)) i (.peerMem tag) status
      if status = 0 then u else readAnswer u i tag none status) := by
  refine (clocked_run hclk _).trans ((if_pos hf).trans ?_)
  dsimp only
  rw [hs, if_neg Bool.false_ne_true]
  cases h : tagOwner s (bits pk.dw1 0 16) <;> rfl

/-- A PRSP answers the read that bears its tag. -/
theorem exec_compl_response (hclk : s.clocksRun = true) (hf : forHere s pk 6 = true) {i : Nat}
    (ho : tagOwner s (bits pk.dw1 0 16) = some i) (hs : bits pk.dw1 16 8 = 0) :
    exec (.complArrival pk) s = .next (readAnswer s i (bits pk.dw1 0 16) pk.data.head? 0) := by
  have hkind : ¬ forHere s pk 3 = true := by
    simp only [forHere, Bool.and_eq_true, beq_iff_eq] at hf
    simp [forHere, hf.1.1]
  refine (clocked_run hclk _).trans ((if_neg hkind).trans ((if_pos hf).trans ?_))
  simp only [ho, hs, if_true]

end

/-! ### Timeouts and windows (R95, R401) -/

section
variable {s : State} (p : PumpIx) (c : StreamIx)

theorem exec_e2eTimeout_none (hclk : s.clocksRun = true) (hl : lateKeys s (s.str (strIx p c)) = []) :
    exec (.e2eTimeout p c) s = .next s :=
  (clocked_run hclk _).trans (if_pos (List.isEmpty_iff.2 hl))

/-- A stream with late packets faults and gives them up. -/
theorem exec_e2eTimeout_late (hclk : s.clocksRun = true) (hl : lateKeys s (s.str (strIx p c)) ≠ []) :
    let i := strIx p c
    let l := lateKeys s (s.str i)
    ∃ status addr, let u := dropPackets (strFault s i status addr 0) i (writeKeyIn l) (readKeyIn l)
      exec (.e2eTimeout p c) s = .next (u.setStr i { u.str i with
        sent := (u.str i).sent.filter fun q => !l.contains q.2 }) :=
  ⟨_, _, (clocked_run hclk _).trans (if_neg fun h => hl (List.isEmpty_iff.1 h))⟩

end

@[simp] theorem State.encoder_setEncoder (s : State) (i : Nat) (e : Encoder) : (s.setEncoder i e).encoder i = e :=
  SMap.get_set_same s.lk.encoders i e
theorem State.encoder_setEncoder_other (s : State) {i j : Nat} (e : Encoder) (h : j ≠ i) :
    (s.setEncoder i e).encoder j = s.encoder j := SMap.get_set_other s.lk.encoders e h

theorem only_strs (s : State) (m : SMap Stream) : Only [.strs] s { s with strs := m } := by
  intro q hq
  cases q <;> simp_all [Part.same]
theorem only_lk (s : State) (l : LinkDev) : Only [.lk] s { s with lk := l } := by
  intro q hq
  cases q <;> simp_all [Part.same]

/-- Settles O49: each packet acts by its own equation, read through what sending, entering and faulting leave. -/
theorem peerPacketsAreTakenAndAnswered : Obligations.PeerPacketsAreTakenAndAnswered := by
  intro s hclk
  refine ⟨?stream, ?request, ?reply, ?refused, ?write, ?read, ?sterrEntry, ?sterrStream, ?complStream, ?complWrite,
    ?complNobody, ?response, ?inTime, ?late, ?window⟩
  case stream =>
    intro pk hf hu
    refine ⟨fun hseq => ?gap, fun u hseq hpush => ?taken, fun hseq hpush => ?waits⟩
    case gap =>
      refine ⟨_, exec_stream_gap hclk hf hu hseq, ?_⟩
      obtain ⟨hgone, hother⟩ := ingressAbort_ingress (k := ingressKey pk)
        (s := sendOwn s 7 pk.src.toNat (bits pk.dw1 0 32) stLinkDown []) (by rwa [sendOwn_ingress]) stLinkDown
      exact ⟨congrArg Ingress.used hgone, fun k hk => (hother k hk).trans (sendOwn_ingress ..)⟩
    case taken =>
      refine ⟨_, exec_stream_taken hclk hf hu hseq hpush, ?_, rfl⟩
      have hsent : (streamCompl (packetTaken s u pk) pk 0).ingress (ingressKey pk)
          = (packetTaken s u pk).ingress (ingressKey pk) := sendOwn_ingress ..
      rw [hsent]
      exact packetTaken_ingress u
    case waits => exact exec_stream_waits hclk hf hu hseq hpush
  case request =>
    intro pk hf hreq hmay hu
    dsimp only
    refine ⟨_, exec_creditRequest_used hclk hf hreq hmay hu, ?_⟩
    obtain ⟨hown, hother, hqueue⟩ := ingressReserve_reads s (ingressKey pk)
      (Nat.min (512 - (s.ingress (ingressKey pk)).resv)
        (s.sq (s.ingress (ingressKey pk)).well (s.ingress (ingressKey pk)).entry).freeOpen)
    refine ⟨?_, ?_, ?_, fun k hk => ?_⟩
    · rw [sendOwn_ingress, State.ingress_setIngress, (ingressTte_reads _ _).1, hown]
      exact hu
    · rw [sendOwn_ingress, State.ingress_setIngress, (ingressTte_reads _ _).2, hown]
    · rw [State.sq_of_wells (sendOwn_wells ..), State.sq_setIngress]
      exact hqueue
    · rw [sendOwn_ingress, State.ingress_setIngress_other _ _ hk]
      exact hother k hk
  case reply =>
    intro pk hf hrep hask
    exact ⟨_, exec_creditReply_asked hclk hf hrep hask, State.str_setStr_same ..,
      fun j hj => State.str_setStr_other s _ hj, only_strs s _⟩
  case refused =>
    intro pk hf hst
    have hexec := exec_pwrArrival hclk hf
    dsimp only at hexec
    rw [if_neg hst] at hexec
    have honly := sendOwn_only s 3 pk.src.toNat (pkReqTagNo pk
      + pwrStatus s (pkWinOff pk / 64 * 64) pk.data.length <<< 32) 0 []
    exact ⟨_, hexec, honly .mem rfl, honly.mono (by simp [sendParts])⟩
  case write =>
    intro pk hf hst
    have hexec := exec_pwrArrival hclk hf
    dsimp only at hexec
    rw [if_pos hst, hst] at hexec
    exact hexec
  case read =>
    intro pk hf
    have hexec := exec_prdArrival hclk hf
    have hkeep := exec_keeps (c := .prdArrival pk) rfl s
    rw [hexec] at hkeep
    exact ⟨_, hexec, fun b => congrArg (Memory.byte · b) hkeep.2, rfl⟩
  case sterrEntry =>
    intro pk hf hu hw he
    exact ⟨_, exec_sterrArrival hclk hf, congrArg Ingress.used
      ((sterrFaulted_ingress _ pk _).trans (sterrFreed_ingress hu hw he))⟩
  case sterrStream =>
    intro pk d hf hrun hfind
    refine ⟨_, exec_sterrArrival hclk hf, ?_⟩
    rw [← sterrFreed_str (s := s) (pk := pk)] at hrun hfind
    rw [sterrFaulted_st hrun hfind]
    exact nofun
  case complStream => exact fun pk hf hs => exec_compl_stream hclk hf hs
  case complWrite =>
    intro pk i hf hs ho hst
    refine (exec_compl_tag hclk hf hs).trans ?_
    simp only [ho, hst, Option.elim, if_true]
  case complNobody =>
    intro pk hf hs ho
    refine (exec_compl_tag hclk hf hs).trans ?_
    rw [ho]
    rfl
  case response => exact fun pk i hf ho hs => exec_compl_response hclk hf ho hs
  case inTime => exact fun p c hl => exec_e2eTimeout_none p c hclk hl
  case late =>
    intro p c hl
    obtain ⟨status, addr, hexec⟩ := exec_e2eTimeout_late p c hclk hl
    refine ⟨_, hexec, fun q hq => ?_, fun hrun => ?_⟩
    · rw [State.str_setStr_same] at hq
      simpa using (List.mem_filter.1 hq).2
    · rw [State.str_setStr_same]
      dsimp only
      rw [dropPackets_st, (strFault_reads ..).1 hrun]
      exact nofun
  case window =>
    intro n p c
    dsimp only
    intro hu hp hd hw
    have hall : ((s.encoder (strIx p c)).used && (s.encoder (strIx p c)).port == n.val
        && delayed (s.str (strIx p c))
        && decide (windowW (s.str (strIx p c)) ≤ (s.encoder (strIx p c)).blocks)) = true := by
      simp [hu, hp, hd, hw]
    exact ⟨_, (clocked_run hclk _).trans (congrArg _ (if_pos hall)), State.encoder_setEncoder ..,
      fun j hj => State.encoder_setEncoder_other s _ hj, only_lk s _⟩

end Sys2Proof.Machine
end

section
/-! The bank operations of a thread (R115, R116, R118, R120, R128, R138 to R141). -/

namespace Sys2Proof.Machine

/-! ### Bank operations begin (R116, R118, R120, R139) -/

/-- A load of a bank may begin: the bank engine and the side engine are free (R128). -/
theorem loadFree_issues {y : Slice} (hbank : y.bankOp = none) (hside : y.sideOp = none) :
    (if y.bankOp.isNone && y.sideOp.isNone then Verdict.issue else .hold) = .issue := by
  simp [hbank, hside]

/-- A run may begin: the bank engine is free, the words of the bank leave before its first update, and the last
line of a load is in (R110, R115, R141). -/
theorem mmaVerdict_issue {y : Slice} {now b : Nat} (hbank : y.bankOp = none) (hdrain : drainEndOf y b ≤ now + 11)
    (hline : y.lineTick ≤ now) : mmaVerdict y now b = .issue := by
  simp [mmaVerdict, hbank, hdrain, hline]

/-- Settles O5: each instruction issues, and its effect is one new value of its slice. That a `WLD` with NST 1
keeps WS_DYN is the model's choice (log 172). -/
theorem bankOperationsBegin : Obligations.BankOperationsBegin := by
  intro s th ht
  refine ⟨?wld, ?wdyn, ?relay, ?pass, ?run⟩
  case wld =>
    intro f hok hbank hside
    exact threadRow_slotOnly (op := .wld f) ht hok rfl (loadFree_issues hbank hside)
      (fun u hu => by simp only [threadIssue, State.slot, State.slc, hu]) "WLD"
  case wdyn =>
    intro f hok hbank hside
    exact threadRow_slotOnly (op := .wdyn f) ht hok rfl (loadFree_issues hbank hside)
      (fun u hu => by simp only [threadIssue, State.slot, State.slc, hu]) "WDYN"
  case relay =>
    intro f hok hmode hbank
    have hfree : (f.mode == 1 || (s.slot th).bankOp.isNone) = true := by simp [hbank]
    refine threadRow_slotOnly (op := .wrelay f) ht hok rfl (if_pos hfree) (fun u hu => ?_) "WRELAY"
    simp only [threadIssue, State.slot, State.slc, hu]
    exact if_neg (by simpa using hmode)
  case pass =>
    intro f hok hmode
    have hpass : (f.mode == 1 || (s.slot th).bankOp.isNone) = true := by simp [hmode]
    refine threadRow_slotOnly (op := .wrelay f) ht hok rfl (if_pos hpass) (fun u hu => ?_) "WRELAY"
    simp only [threadIssue, State.slot, State.slc, hu]
    exact if_pos (by simpa using hmode)
  case run =>
    intro f hok
    dsimp only
    intro hbank hdrain hline
    have hv := mmaVerdict_issue hbank hdrain hline
    exact ⟨threadRow_slotOnly (op := .mma f) ht hok rfl hv
        (fun u hu => by simp only [threadIssue, mmaIssue, State.slot, State.slc, hu]) "MMA",
      threadRow_slotOnly (op := .mmaz f) ht hok rfl hv
        (fun u hu => by simp only [threadIssue, mmaIssue, State.slot, State.slc, hu]) "MMAZ"⟩

end Sys2Proof.Machine
end

section
/-! The trap of a thread, and the events that end its waits and move its lines (R108, R115, R119, R124, R127, R136,
R148 to R150, R480, R492, R493). -/

namespace Sys2Proof.Machine

/-! ### A trap (R136, R480) -/

theorem logEntry_resetting (s : State) (f : FaultInfo) (scope : Nat) (task pipe : Option Nat) :
    (logEntry s f scope task pipe).err.resetting = s.err.resetting := by
  unfold logEntry
  simp only [signalVec_err]
  change (markFull _ _ : State).err.resetting = _
  simp

/-- A fault has made a reset of pipeline p due (R480). -/
def State.resetDue (s : State) (p : Nat) (f : FaultInfo) : State :=
  { s with err := { s.err with pending := SMap.set (fun _ => none) s.err.pending p (some f) } }

theorem resetDue_pending (s : State) (p : Nat) (f : FaultInfo) :
    SMap.get (fun _ => none) (s.resetDue p f).err.pending p = some f :=
  SMap.get_set_same (d := fun _ => none) s.err.pending p (some f)

/-- A reset that becomes due leaves the log and its registers. -/
theorem Logged.resetDue {s t : State} {f : FaultInfo} {scope : Nat} {task pipe : Option Nat}
    (h : Logged s t f scope task pipe) (p : Nat) (g : FaultInfo) : Logged s (t.resetDue p g) f scope task pipe := h

/-- A reset that is under way or due stays the one there is (R480, R489). -/
theorem pipeFault_eq (s : State) (p : Nat) (f : FaultInfo) (task : Option Nat) : pipeFault s p f task =
    let t := logEntry s f 2 task (some p)
    if t.err.resetting.contains p || (SMap.get (fun _ => none) t.err.pending p).isSome then t
    else t.resetDue p f := rfl

/-- A fault of a pipeline that is not being reset is logged, and a reset of that pipeline is then due (R480). -/
theorem pipeFault_due {s u : State} {p : Nat} (hreset : u.err.resetting.contains p = false)
    (hhead : u.fld rErrHead 0 32 = s.fld rErrHead 0 32) (hdt : u.dt = s.dt) (f : FaultInfo) (task : Option Nat) :
    Logged s (pipeFault u p f task) f 2 task (some p)
      ∧ (SMap.get (fun _ => none) (pipeFault u p f task).err.pending p).isSome = true := by
  have hlog := logEntry_logged s u f 2 task (some p) hhead hdt
  have hres := logEntry_resetting u f 2 task (some p)
  rw [pipeFault_eq]
  dsimp only
  split
  next h =>
    rw [hres, hreset, Bool.false_or] at h
    exact ⟨hlog, h⟩
  next => exact ⟨hlog.resetDue p f, by rw [resetDue_pending, Option.isSome_some]⟩

theorem wellFault_of_pipe {s : State} {w p : Nat} (h : s.pipeOf w = some p) (f : FaultInfo) :
    wellFault s w f = pipeFault s p f := by
  rw [wellFault, h]

theorem State.pipeOf_of_wells {s t : State} (h : t.wells = s.wells) (w : Nat) : t.pipeOf w = s.pipeOf w := by
  rw [State.pipeOf, State.pipeOf, State.well_of_wells h]
@[simp] theorem State.pipeOf_setSlc (s : State) (w i : Nat) (y : Slice) (v : Nat) :
    (s.setSlc w i y).pipeOf v = s.pipeOf v := by
  have hpipe : ((s.setSlc w i y).well v).pipe = (s.well v).pipe :=
    State.piece_setWell Well.pipe s w ((s.well w).setSlice i y) rfl v
  rw [State.pipeOf, State.pipeOf, hpipe]

/-- The thread halted by a trap, with the instruction tagger moved on (R136, R548). -/
def trapped (s : State) (th : Thread) (code : BitVec 16) : State :=
  (tagIssue s (thWell th) (thIx th) (tagDw0 (s.slot th) (thWell th) (thIx th) (.trap code))).setSlc (thWell th)
    (thIx th) ((s.slot th).stand .halted code.toNat)

/-- A trap of a thread whose engines are free halts it and raises its fault in its well. -/
theorem exec_trap {s : State} {th : Thread} {code : BitVec 16} (ht : s.takes th)
    (hfree : (s.slot th).enginesFree = true) : exec (.trap th code) s = .next (wellFault (trapped s th code)
      (thWell th) (mkFault stAborted 2 (sliceNo (thWell th) (thIx th)) 0 code.toNat)) := by
  refine (threadRow_issue (op := .trap code) ht rfl rfl (if_pos hfree) "TRAP").trans ?_
  simp only [threadIssue, slc_tagIssue, trapped, State.slot]

/-! ### Ends of waits (R148 to R150) -/

/-- A thread in a wait whose condition holds: its instruction takes effect. -/
theorem exec_threadWaitEnd {s : State} {th : Thread} {op : MsqOp} (hclk : s.clocksRun = true)
    (hrun : s.threadRuns th = true) (hst : (s.slot th).st = .threadWait) (hop : thInstr (s.slot th) = some op)
    (hmet : waitMet (s.slot th) (s.well (thWell th)).tick op = true) :
    exec (.threadWaitEnd th) s = .next (threadIssue s (thWell th) (thIx th) op) := by
  unfold State.slot at hst hop hmet
  refine (clocked_run hclk _).trans ?_
  simp [hop, hrun, hst, hmet]

/-! ### Weight lines written back (R108, R124) -/

theorem weightAddr_line (w i d n : Nat) : weightAddr w i d (64 * n) / 64 * 64 = weightAddr w i d (64 * n) := by
  unfold weightAddr
  split <;> omega

theorem Only.refl (l : List Part) (s : State) : Only l s s := by
  intro q _
  cases q <;> simp [Part.same]

theorem putLine_only (s : State) (a : Nat) (l : Line) (d : BitVec 16) : Only [.mem, .ecc] s (s.putLine a l d) := by
  intro q hq
  cases q <;> simp_all [Part.same, State.putLine]

theorem weightWrite_only (s : State) (w i d n : Nat) (l : Line) : Only queueParts s (weightWrite s w i d n l) :=
  ((putLine_only _ _ _ _).mono (by simp [queueParts])).trans
    (((only_wells _ _).mono (by simp [queueParts])).trans ((event_only _ _ _ _).mono (by simp [queueParts])))

theorem delta_putLine (s : State) (a : Nat) (l : Line) (d : BitVec 16) : (s.putLine a l d).delta a = d :=
  SMap.get_set_same ..

/-- A weight line that is written: its bytes and valid check bits, and no write-back of it is left (R108, R124). -/
theorem weightWrite_reads (s : State) (w i d n : Nat) (l : Line) :
    let t := weightWrite s w i d n l
    let a := weightAddr w i d (64 * n)
    t.mem.line a = l ∧ t.delta a = 0 ∧ (t.slc w i).wb = (s.slc w i).wb.filter (· != 64 * d + n) := by
  refine ⟨?_, ?_, ?_⟩
  · simp only [weightWrite, event_mem]
    change (s.mem.setLine (weightAddr w i d (64 * n) / 64 * 64) l).line _ = l
    rw [weightAddr_line, Memory.line_setLine]
  · simp only [weightWrite, State.delta, event_ecc]
    exact delta_putLine s (weightAddr w i d (64 * n)) l 0
  · simp only [weightWrite]
    rw [State.slc_of_wells (event_wells ..), State.slc_setSlc]
    rfl

theorem weightLine_only (s : State) (w i d n : Nat) : Only queueParts s (weightLine s w i d n).2.2 := by
  have hslc (y : Slice) : Only queueParts s (s.setSlc w i y) := (only_wells s _).mono (by simp [queueParts])
  unfold weightLine
  dsimp only
  split
  · exact Only.refl _ s
  · exact hslc _
  · exact (hslc _).trans ((wellFault_only _ _ _).mono (by simp [queueParts, logParts]))

theorem weightWriteback_only (s : State) (w i : Nat) : Only queueParts s (weightWriteback s w i) := by
  unfold weightWriteback
  dsimp only
  split
  · exact Only.refl _ s
  · split
    · exact weightWrite_only s w i _ _ _
    · exact weightWrite_only s w i _ _ _
    · exact (weightLine_only s w i _ _).trans ((only_wells _ _).mono (by simp [queueParts]))

/-- The oldest line leaves the list in each of the three outcomes of its decoding; a line that corrects is stored
corrected (R108, R124). -/
theorem weightWriteback_oldest {s : State} {w i q : Nat} {r : List Nat} (hwb : (s.slc w i).wb = q :: r) :
    let a := weightAddr w i (q / 64) (64 * (q % 64))
    q ∉ ((weightWriteback s w i).slc w i).wb
      ∧ ∀ l, decodeLine (s.mem.line a) (s.delta a) = .corrected l →
        (weightWriteback s w i).mem.line a = l ∧ (weightWriteback s w i).delta a = 0 := by
  have hq : 64 * (q / 64) + q % 64 = q := Nat.div_add_mod q 64
  have hgone (l : List Nat) : q ∉ l.filter (· != q) := by simp
  have hwrite (l : Line) := weightWrite_reads s w i (q / 64) (q % 64) l
  simp only [hq] at hwrite
  unfold weightWriteback
  simp only [hwb]
  split
  next h =>
    obtain ⟨-, -, hleft⟩ := hwrite (s.mem.line (weightAddr w i (q / 64) (64 * (q % 64))))
    exact ⟨hleft ▸ hgone _, fun l hl => nomatch h.symm.trans hl⟩
  next c h =>
    obtain ⟨hline, hdelta, hleft⟩ := hwrite c
    refine ⟨hleft ▸ hgone _, fun l hl => ?_⟩
    obtain rfl : c = l := EccResult.corrected.inj (h.symm.trans hl)
    exact ⟨hline, hdelta⟩
  next h =>
    rw [State.slc_setSlc]
    exact ⟨hgone _, fun l hl => nomatch h.symm.trans hl⟩

/-- Settles O10: the trap by its entry and the reset that is due, each event by its one new value of the slice, and
the write-back by the three outcomes of decoding its line. -/
theorem trapsAndThreadEventsComplete : Obligations.TrapsAndThreadEventsComplete := by
  refine ⟨?trap, fun s th hclk => ⟨fun hrun hst => ⟨?wait, ?switchWait⟩, ?switch, ?relay, ?writeback⟩⟩
  case trap =>
    intro s th code p ht hfree hpipe hreset
    obtain ⟨hwells, honly⟩ : SlotOnly s th _ (trapped s th code) := slotOnly_tagged ..
    have hpipe' : (trapped s th code).pipeOf (thWell th) = some p := by
      rw [State.pipeOf_of_wells hwells, State.pipeOf_setSlc, hpipe]
    have hreset' : (trapped s th code).err.resetting.contains p = false :=
      (congrArg (·.resetting.contains p) (honly .err rfl)).trans hreset
    have hhead : (trapped s th code).fld rErrHead 0 32 = s.fld rErrHead 0 32 :=
      congrArg (bits · 0 32) (State.rd_of_regs (honly .regs rfl) _)
    have hdt : (trapped s th code).dt = s.dt := congrArg (fun x : Tb => x.dt / 2 ^ 32 % 2 ^ 64) (honly .tb rfl)
    have hexec := exec_trap (code := code) ht hfree
    generalize mkFault stAborted 2 (sliceNo (thWell th) (thIx th)) 0 code.toNat = f at hexec ⊢
    have hraised := wellFault_only (trapped s th code) (thWell th) f
    rw [wellFault_of_pipe hpipe'] at hexec hraised
    obtain ⟨hlog, hdue⟩ := pipeFault_due hreset' hhead hdt f none
    have hkeep := (pipeFault_wells (trapped s th code) p f none).trans hwells
    have hslot : (pipeFault (trapped s th code) p f).slot th = (s.slot th).stand .halted code.toNat :=
      (State.slc_of_wells hkeep _ _).trans (State.slc_setSlc ..)
    exact ⟨_, hexec, hslot, hlog, hdue, hslot ▸ hkeep, (honly.mono (by simp)).trans (hraised.mono (by simp))⟩
  case wait =>
    intro op hop hkind hmet
    refine (exec_threadWaitEnd hclk hrun hst hop hmet).trans ?_
    rcases hkind with rfl | ⟨mask, rfl⟩ <;> rfl
  case switchWait =>
    intro ctx force mask hop hctx hmet
    exact (exec_threadWaitEnd hclk hrun hst hop hmet).trans (congrArg _ (if_pos hctx))
  case switch =>
    intro hrun hact hsw
    have hall : (s.running (thWell th) && (s.slot th).active && (s.slot th).switching) = true := by
      rw [hrun, hact, hsw]; rfl
    obtain ⟨hread, hframe⟩ := setSlc_frame s th (threadSwitch (s.slot th))
    exact ⟨_, clocked_if hclk hall, hread Slice.pc, hread Slice.ctx, hread Slice.loops, hread Slice.relayPass,
      hread Slice.markers, hread Slice.switching, hframe⟩
  case relay =>
    intro l r hwell hin hroom
    have hentered : relayEnter (s.slot th) = { s.slot th with
        relayIn := r, relayFifo := (s.slot th).relayFifo ++ [l] } := by
      simp [relayEnter, hin, hroom]
    exact hentered ▸ clocked_if hclk hwell
  case writeback =>
    intro hwell hbank hline
    have hidle : (s.hasWell (thWell th) && bankIdle s (thWell th) (thIx th)) = true := by
      have hnone : (s.slc (thWell th) (thIx th)).bankOp = none := hbank
      have htick : (s.slc (thWell th) (thIx th)).lineTick < (s.well (thWell th)).tick := hline
      simp [bankIdle, hwell, hnone, htick]
    exact ⟨_, clocked_if hclk hidle, fun q r hwb => weightWriteback_oldest hwb, weightWriteback_only s _ _⟩

end Sys2Proof.Machine
end

section
/-! The flow of a thread's program, its waiting instructions, and fields out of range (R125, R127, R132 to R136, R147
to R150, R196). -/

namespace Sys2Proof.Machine

/-! ### Past the end of a loop body (R133, R200) -/

section
variable {ls : List Loop} {pc i : Nat} {l : Loop} (size n : Nat)

/-- No active loop ends at pc: the next instruction follows. -/
theorem stepPast_none (h : loopAt ls pc = none) : stepPast ls pc size n = (ls, (pc + 1) % size) := by
  cases n with
  | zero => rfl
  | succ n => rw [stepPast, h]

/-- The innermost loop that ends at pc has an iteration left after this one: its body begins again. -/
theorem stepPast_again (hat : loopAt ls pc = some i) (hl : ls[i]? = some l) (hleft : 1 < l.left) :
    stepPast ls pc size (n + 1) = (ls.set i { l with left := l.left - 1 }, l.first) := by
  have hget : ls.getD i .none = l := by rw [List.getD_eq_getElem?_getD, hl, Option.getD_some]
  rw [stepPast, hat]
  dsimp only
  rw [hget, if_pos hleft]

/-- That loop is in its last iteration: it is over, and the next outer one is asked. -/
theorem stepPast_leave (hat : loopAt ls pc = some i) (hl : ls[i]? = some l) (hleft : l.left ≤ 1) :
    stepPast ls pc size (n + 1) = stepPast (ls.set i { l with active := false }) pc size n := by
  have hget : ls.getD i .none = l := by rw [List.getD_eq_getElem?_getD, hl, Option.getD_some]
  rw [stepPast, hat]
  dsimp only
  rw [hget, if_neg (Nat.not_lt.2 hleft)]

end

/-- Where a thread goes past its instruction, by the step past its pc. -/
theorem past_flow {y : Slice} {ls : List Loop} {pc : Nat} (h : stepPast y.loops y.pc 256 5 = (ls, pc)) :
    y.past.pc = pc ∧ y.past.loops = ls :=
  ⟨congrArg Prod.snd h, congrArg Prod.fst h⟩

/-- Settles O4: the step past the pc finds no loop, an iteration left, or a loop that is over. -/
theorem moveToTheNextMsqInstruction : Obligations.MoveToTheNextMsqInstruction := by
  intro y
  refine ⟨?next, ?again, ?leave⟩
  case next => exact fun hnone => past_flow (stepPast_none 256 5 hnone)
  case again => exact fun i l hat hl hleft => past_flow (stepPast_again 256 4 hat hl hleft)
  case leave =>
    exact fun i l hat hl hleft hnone =>
      past_flow ((stepPast_leave 256 4 hat hl hleft).trans (stepPast_none 256 4 hnone))

/-! ### Control flow (R125, R133 to R136) -/

/-- A branch issues unless its condition asks for the kind of a marker and none is pending (R135). -/
theorem brcVerdict_issue {y : Slice} {cond : BitVec 4} (h : (cond = 1 ∨ cond = 2) → y.markers ≠ []) :
    (if (cond == 1 || cond == 2) && y.markers.isEmpty then Verdict.freeze 3 .marker else .issue) = .issue := by
  refine if_neg ?_
  simpa using h

/-- Settles O3: each instruction issues, and its effect is one new value of its slice. -/
theorem threadControlFlowCompletes : Obligations.ThreadControlFlowCompletes := by
  intro s th ht
  refine ⟨?nop, ?halt, ?loop, ?jmp, ?brc⟩
  case nop =>
    exact threadRow_slotOnly (op := .nop) ht rfl rfl rfl
      (fun u hu => by simp only [threadIssue, State.slot, State.slc, hu]) "MSQ_NOP"
  case halt =>
    intro code hfree
    exact threadRow_slotOnly (op := .halt code) ht rfl rfl (if_pos hfree)
      (fun u hu => by simp only [threadIssue, State.slot, State.slc, hu]) "HALT"
  case loop =>
    intro lvl count1 last
    exact threadRow_slotOnly (op := .loop lvl count1 last) ht rfl rfl rfl
      (fun u hu => by simp only [threadIssue, State.slot, State.slc, hu]) "MSQ_LOOP"
  case jmp =>
    intro target
    exact threadRow_slotOnly (op := .jmp target) ht rfl rfl rfl
      (fun u hu => by simp only [threadIssue, Slice.goto, State.slot, State.slc, hu]) "MSQ_JMP"
  case brc =>
    intro cond neg lvl target hcond hmarker
    refine threadRow_slotOnly (op := .brc cond neg lvl target) ht (decide_eq_true hcond) rfl
      (brcVerdict_issue hmarker) (fun u hu => ?_) "BRC"
    simp only [threadIssue, State.slot, State.slc, hu]
    exact (apply_ite (u.setSlc _ _) _ _ _).symm

/-! ### Instructions that wait (R127, R147 to R150) -/

/-- A `BAR` met for the first time: its thread arrives and freezes the well (R147). -/
theorem exec_bar_arrives {s : State} {th : Thread} (bid : BitVec 4) (ht : s.takes th)
    (harrived : (s.slot th).arrived = false) (hreleased : (s.slot th).released = false) :
    exec (.bar th bid) s = .next (freezeWell (s.setSlc (thWell th) (thIx th)
      { barIssue (s.slot th) bid.toNat with st := .freezing, wait := .bar }) (thWell th) 3) := by
  obtain ⟨hclk, hruns⟩ := ht
  have harrive : threadArrive s (thWell th) (thIx th) (.bar bid)
      = s.setSlc (thWell th) (thIx th) (barIssue (s.slot th) bid.toNat) := if_neg (Bool.eq_false_iff.1 harrived)
  have hslc : (s.setSlc (thWell th) (thIx th) (barIssue (s.slot th) bid.toNat)).slc (thWell th) (thIx th)
      = barIssue (s.slot th) bid.toNat := State.slc_setSlc ..
  have hverdict : verdict (s.setSlc (thWell th) (thIx th) (barIssue (s.slot th) bid.toNat)) (thWell th) (thIx th)
      (.bar bid) = .freeze 3 .bar :=
    if_neg (Bool.eq_false_iff.1 ((congrArg Slice.released hslc).trans hreleased))
  have hstep : exec (.bar th bid) s = .next (threadStep s (thWell th) (thIx th) (.bar bid)) := clocked_if hclk hruns
  simp only [hstep, threadStep, harrive, hverdict, threadStay, hslc, State.setSlc_setSlc]

/-- Settles O9: each instruction whose condition holds issues with one new value of its slice; a first `BAR`
freezes the well. -/
theorem waitingInstructionsComplete : Obligations.WaitingInstructionsComplete := by
  intro s th ht
  refine ⟨?fence, ?drainall, ?bar, ?arrive, ?ctxsw⟩
  case fence =>
    intro hmet
    exact threadRow_slotOnly (op := .fence) ht rfl rfl (if_pos hmet)
      (fun u hu => by simp only [threadIssue, State.slot, State.slc, hu]) "FENCE"
  case drainall =>
    intro mask hmet
    exact threadRow_slotOnly (op := .drainall mask) ht rfl rfl (if_pos hmet)
      (fun u hu => by simp only [threadIssue, State.slot, State.slc, hu]) "DRAINALL"
  case bar =>
    intro bid harrived hcounted hreleased
    have hstays : barCounted s (thWell th) (thIx th) = s := by
      refine if_neg ?_
      change ¬ ((s.slot th).active && (s.slot th).arrived && !(s.slot th).counted) = true
      simp [hcounted]
    exact threadRow_slotOnly (op := .bar bid) ht rfl ((if_pos harrived).trans hstays) (if_pos hreleased)
      (fun u hu => by simp only [threadIssue, State.slot, State.slc, hu]) "BAR"
  case arrive => exact fun bid => exec_bar_arrives bid ht
  case ctxsw =>
    intro ctx force mask hctx hmet
    have hissues : ((s.well (thWell th)).ctxState ctx.toNat != .committed
        || waitMet (s.slot th) (s.well (thWell th)).tick (.ctxsw ctx force mask)) = true := by
      rw [hmet, Bool.or_true]
    refine threadRow_slotOnly (op := .ctxsw ctx force mask) ht rfl rfl (if_pos hissues) (fun u hu => ?_) "CTXSW"
    simp only [threadIssue, State.slot, State.slc, hu]
    exact if_pos hctx

/-! ### Fields out of range (R132, R196) -/

theorem threadRow_outOfRange {s : State} {op : MsqOp} (hclk : s.clocksRun = true) (hbad : op.ok = false)
    (th : Thread) (name : String) : clocked s (threadRow s th op name) = .fault (.outOfRange name) :=
  (clocked_run hclk _).trans (if_neg (by simp [hbad]))

theorem unitRow_outOfRange {s : State} {f : Nat} {h : SwHead} {op : SwOp} (hclk : s.clocksRun = true)
    (hbad : op.ok f h = false) (w : Nat) (name : String) :
    clocked s (unitRow s w f h op name) = .fault (.outOfRange name) :=
  (clocked_run hclk _).trans (if_neg (by simp [hbad]))

/-- A semaphore instruction names an entry beyond the last or asks for a count of zero (R146). -/
theorem semF_not_ok {f : SemF} (h : 767 < f.sq.toNat ∨ f.n = 0) : f.ok = false := by
  rcases h with hentry | hcount
  · simp [SemF.ok, hentry]
  · simp [SemF.ok, hcount]

/-- Settles O17: the check of the fields stands before everything else an instruction or word does. That such a
word, which a commit refuses (R132, R196), stops the machine when it is stepped is the model's choice (log 10). -/
theorem wordsWithFieldsOutOfRangeNeverIssue : Obligations.WordsWithFieldsOutOfRangeNeverIssue := by
  intro s hclk
  refine ⟨?wld, ?mma, ?drain, ?qwait, ?ptok, ?tag, ?brc, ?add, ?mem, ?switch⟩
  case wld => exact fun th f hbad => threadRow_outOfRange (op := .wld f) hclk hbad th "WLD"
  case mma => exact fun th f hbad => threadRow_outOfRange (op := .mma f) hclk hbad th "MMA"
  case drain => exact fun th f hbad => threadRow_outOfRange (op := .drain f) hclk hbad th "DRAIN"
  case qwait => exact fun th f hbad => threadRow_outOfRange (op := .qwait f) hclk (semF_not_ok hbad) th "QWAIT"
  case ptok =>
    exact fun th d hbad => threadRow_outOfRange (op := .ptok d) hclk (decide_eq_false (Nat.not_le.2 hbad)) th "PTOK"
  case tag =>
    exact fun th l hbad => threadRow_outOfRange (op := .tag l) hclk (decide_eq_false (Nat.not_le.2 hbad)) th "TAG"
  case brc =>
    exact fun th cond neg lvl tg hbad =>
      threadRow_outOfRange (op := .brc cond neg lvl tg) hclk (decide_eq_false (Nat.not_le.2 hbad)) th "BRC"
  case add => exact fun w k h c hbad => unitRow_outOfRange hclk hbad w.val "ADD"
  case mem => exact fun w k h m hbad => unitRow_outOfRange hclk hbad w.val "MEM"
  case switch => exact fun w f h force mask qna qnb hbad => unitRow_outOfRange hclk hbad w.val "SWITCH"

end Sys2Proof.Machine
end

section
/-! A well whose slices or units are updated one after another, read by its pieces. -/

namespace Sys2Proof.Machine

/-- Each piece below n is updated once and every other piece stays, by the laws of one write. -/
theorem foldl_range_update {β γ : Type} {get : β → Nat → γ} {put : β → Nat → γ → β}
    (hsame : ∀ x i y, get (put x i y) i = y) (hother : ∀ x i y j, j ≠ i → get (put x i y) j = get x j)
    (g : γ → γ) (x : β) (n j : Nat) :
    get ((List.range n).foldl (fun x i => put x i (g (get x i))) x) j = if j < n then g (get x j) else get x j := by
  induction n with
  | zero => rfl
  | succ n ih =>
    rw [List.range_succ, List.foldl_append, List.foldl_cons, List.foldl_nil]
    by_cases hj : j = n
    · subst hj
      rw [hsame, ih, if_neg (Nat.lt_irrefl j), if_pos (Nat.lt_succ_self j)]
    · rw [hother _ _ _ _ hj, ih]
      exact if_congr (by omega) rfl rfl

theorem Well.slice_foldl_setSlice (g : Slice → Slice) (x : Well) (n j : Nat) :
    ((List.range n).foldl (fun x i => x.setSlice i (g (x.slice i))) x).slice j
      = if j < n then g (x.slice j) else x.slice j :=
  foldl_range_update Well.slice_setSlice (fun x _ y _ h => Well.slice_setSlice_other x y h) g x n j

theorem Well.unit_foldl_setUnit (g : FUnit → FUnit) (x : Well) (n f : Nat) :
    ((List.range n).foldl (fun x i => x.setUnit i (g (x.unit i))) x).unit f
      = if f < n then g (x.unit f) else x.unit f :=
  foldl_range_update Well.unit_setUnit (fun x _ u _ h => Well.unit_setUnit_other x u h) g x n f

section
variable {β : Type} (p : Well → β) (x : Well) (n : Nat)

/-- A part of a well that no write of a slice touches. -/
theorem Well.foldl_setSlice_part (g : Slice → Slice) (h : ∀ x i y, p (x.setSlice i y) = p x) :
    p ((List.range n).foldl (fun x i => x.setSlice i (g (x.slice i))) x) = p x :=
  List.foldlRecOn (motive := fun y => p y = p x) _ _ rfl fun y hy i _ => (h y i _).trans hy

/-- A part of a well that no write of a unit touches. -/
theorem Well.foldl_setUnit_part (g : FUnit → FUnit) (h : ∀ x f u, p (x.setUnit f u) = p x) :
    p ((List.range n).foldl (fun x f => x.setUnit f (g (x.unit f))) x) = p x :=
  List.foldlRecOn (motive := fun y => p y = p x) _ _ rfl fun y hy f _ => (h y f _).trans hy

end

end Sys2Proof.Machine
end

section
/-! The watches of a well (R151, R177, R234, R237). -/

namespace Sys2Proof.Machine

/-! ### Wait counts that begin anew -/

/-- The slice with its wait count at zero. -/
def Slice.waitZero (y : Slice) : Slice := { y with waited := 0 }

/-- The unit with the count of its switch wait at zero. -/
def FUnit.waitZero (u : FUnit) : FUnit := { u with wait := u.wait.map fun t => { t with strokes := 0 } }

theorem waitsReset_eq (x : Well) : waitsReset x =
    (List.range 96).foldl (fun x f => x.setUnit f (x.unit f).waitZero)
      ((List.range 8).foldl (fun x i => x.setSlice i (x.slice i).waitZero) x) := rfl

/-- A part of a well beside its slices and units stays when the wait counts begin anew. -/
theorem waitsReset_part {β : Type} (p : Well → β) (hslice : ∀ x i y, p (x.setSlice i y) = p x)
    (hunit : ∀ x f u, p (x.setUnit f u) = p x) (x : Well) : p (waitsReset x) = p x := by
  rw [waitsReset_eq, Well.foldl_setUnit_part p _ 96 FUnit.waitZero hunit,
    Well.foldl_setSlice_part p x 8 Slice.waitZero hslice]

theorem waitsReset_waited (x : Well) {j : Nat} (h : j < 8) : ((waitsReset x).slice j).waited = 0 := by
  rw [waitsReset_eq, Well.foldl_setUnit_part (Well.slice · j) _ 96 FUnit.waitZero fun _ _ _ => rfl,
    Well.slice_foldl_setSlice, if_pos h, Slice.waitZero]

theorem waitsReset_wait (x : Well) {f : Nat} (h : f < 96) :
    ((waitsReset x).unit f).wait.map (·.strokes) = (x.unit f).wait.map fun _ => 0 := by
  rw [waitsReset_eq, Well.unit_foldl_setUnit, if_pos h,
    Well.foldl_setSlice_part (Well.unit · f) x 8 Slice.waitZero fun _ _ _ => rfl, FUnit.waitZero, Option.map_map]
  rfl

/-- The wait watch reports a thread before a switch wait (R151, R177). -/
theorem waitWatch_thread {s : State} {w i : Nat} (h : threadExpired (s.well w) = some i) :
    waitWatch s w = stallCycle (s.setWell w (waitsReset (s.well w))) w 2 2 (sliceNo w i)
      (msqStatus ((s.well w).slice i)) := by
  rw [waitWatch, h]

theorem waitWatch_switch {s : State} {w : Nat} (h : threadExpired (s.well w) = none) :
    waitWatch s w = stallCycle (s.setWell w (waitsReset (s.well w))) w 3 3 (unitNo w 127) (sfStatus s w) := by
  rw [waitWatch, h]

/-! ### The report of a watch (R234, R237) -/

/-- A capture writes the capture registers of its well and nothing else (R184, R190). -/
theorem capTake_setWell (s : State) (w cause : Nat) : ∃ y : Well, capTake s w cause = s.setWell w y
    ∧ y.dldCause = (s.well w).dldCause ∧ y.watch = (s.well w).watch
    ∧ (∀ j, y.slice j = (s.well w).slice j) ∧ (∀ f, y.unit f = (s.well w).unit f) := by
  have hnow : ∃ now, (if cause = 1 then { s.well w with capNow := false } else s.well w)
      = { s.well w with capNow := now } := by
    split
    · exact ⟨_, rfl⟩
    · exact ⟨_, rfl⟩
  obtain ⟨now, hnow⟩ := hnow
  unfold capTake
  dsimp only
  rw [hnow]
  split
  · exact ⟨_, rfl, rfl, rfl, fun _ => rfl, fun _ => rfl⟩
  · exact ⟨_, rfl, rfl, rfl, fun _ => rfl, fun _ => rfl⟩

/-- A fault of a well that belongs to a pipeline is logged with the scope of that pipeline (R480, R492). -/
theorem wellFault_logged {s u : State} {w p : Nat} (hpipe : u.pipeOf w = some p)
    (hhead : u.fld rErrHead 0 32 = s.fld rErrHead 0 32) (hdt : u.dt = s.dt) (f : FaultInfo) :
    Logged s (wellFault u w f) f 2 none (some p) := by
  have hlog := logEntry_logged s u f 2 none (some p) hhead hdt
  rw [wellFault_of_pipe hpipe, pipeFault_eq]
  dsimp only
  split
  · exact hlog
  · exact hlog.resetDue p f

/-- The report of a watch that expires in a well, whose value x with a new count may differ from the one it has
beside its pipeline and its freeze cause: the cause and the entry, with the count and the waits of x kept. That the
counts begin anew after a report is the model's choice (log 40). -/
theorem stallCycle_reports {s : State} {w p : Nat} {x : Well} (hpipe : s.pipeOf w = some p)
    (hx : x.pipe = (s.well w).pipe) (c cls unit detail : Nat) :
    let t := stallCycle (s.setWell w x) w c cls unit detail
    (t.well w).dldCause = c ∧ (t.well w).watch = x.watch
      ∧ (∀ j, (t.well w).slice j = x.slice j) ∧ (∀ f, (t.well w).unit f = x.unit f)
      ∧ Logged s t (mkFault stStallCycle cls unit 0 (x.cause <<< 32 + detail)) 2 none (some p)
      ∧ (∀ v, v ≠ w → t.well v = s.well v) ∧ Only (.wells :: logParts) s t := by
  let noted := s.setWell w { x with dldCause := c }
  let f := mkFault stStallCycle cls unit 0 (x.cause <<< 32 + detail)
  let logged := wellFault noted w f
  have hpipe' : noted.pipeOf w = some p := by
    rw [State.pipeOf, State.well_setWell_same]
    change (if bitAt x.pipe 31 then some (bits x.pipe 24 3) else none) = some p
    rw [hx]
    exact hpipe
  have hlogged : Logged s logged f 2 none (some p) := wellFault_logged hpipe' rfl rfl f
  have hwells : logged.wells = noted.wells := wellFault_wells ..
  have hwell : logged.well w = { x with dldCause := c } :=
    (State.well_of_wells hwells w).trans (State.well_setWell_same ..)
  have hothers (v : Nat) (hv : v ≠ w) : logged.well v = s.well v :=
    (State.well_of_wells hwells v).trans (State.well_setWell_other s _ hv)
  have honly : Only (.wells :: logParts) s logged :=
    ((only_wells s _).mono (by simp)).trans ((wellFault_only _ _ _).mono (by simp))
  have hstall : stallCycle (s.setWell w x) w c cls unit detail
      = if (logged.well w).capOnStall then capTake logged w 2 else logged := by
    simp only [stallCycle, State.well_setWell_same, State.setWell_setWell]
    rfl
  rw [hstall]
  split
  · obtain ⟨y, hcap, hcause, hwatch, hslices, hunits⟩ := capTake_setWell logged w 2
    rw [hwell] at hcause hwatch hslices hunits
    simp only [hcap, State.well_setWell_same]
    exact ⟨hcause, hwatch, hslices, hunits, hlogged,
      fun v hv => (State.well_setWell_other logged _ hv).trans (hothers v hv),
      honly.trans ((only_wells logged _).mono (by simp))⟩
  · simp only [hwell]
    exact ⟨trivial, trivial, fun _ => rfl, fun _ => rfl, hlogged, hothers, honly⟩

/-- Settles O24: each expiry is the report of its watch, of a well whose count or counts are zero. That they begin
anew after a report is the model's choice (log 40). -/
theorem watchExpiriesRaiseStallCycle : Obligations.WatchExpiriesRaiseStallCycle := by
  intro s w p hclk hrun hpipe
  have hpipeKept : (waitsReset (s.well w.val)).pipe = (s.well w.val).pipe :=
    waitsReset_part Well.pipe (fun _ _ _ => rfl) (fun _ _ _ => rfl) _
  have hcauseKept : (waitsReset (s.well w.val)).cause = (s.well w.val).cause :=
    waitsReset_part Well.cause (fun _ _ _ => rfl) (fun _ _ _ => rfl) _
  have hreport := stallCycle_reports (x := waitsReset (s.well w.val)) hpipe hpipeKept
  refine ⟨?freeze, ?thread, ?switch⟩
  case freeze =>
    intro hexpired
    obtain ⟨hcause, hwatch, -, -, hlogged, hothers, honly⟩ :=
      stallCycle_reports (x := { s.well w.val with watch := 0 }) hpipe rfl 1 3 (unitNo w.val 127)
        (msqStatus ((s.well w.val).slice (freezingSlice (s.well w.val))))
    exact ⟨_, clocked_if hclk (Bool.and_eq_true_iff.2 ⟨hrun, hexpired⟩), hcause, hwatch, hlogged, hothers, honly⟩
  case thread =>
    intro i hon hthread
    obtain ⟨hcause, -, hslices, -, hlogged, hothers, honly⟩ :=
      hreport 2 2 (sliceNo w.val i) (msqStatus ((s.well w.val).slice i))
    have hexpired : (s.running w.val && waitExpired s w.val) = true := by simp [hrun, waitExpired, hon, hthread]
    rw [hcauseKept] at hlogged
    refine ⟨_, (clocked_if hclk hexpired).trans (congrArg _ (waitWatch_thread hthread)), hcause, fun j hj => ?_,
      hlogged, hothers, honly⟩
    rw [hslices, waitsReset_waited _ hj]
  case switch =>
    intro f hon hthread hswitch
    obtain ⟨hcause, -, -, hunits, hlogged, hothers, honly⟩ := hreport 3 3 (unitNo w.val 127) (sfStatus s w.val)
    have hexpired : (s.running w.val && waitExpired s w.val) = true := by simp [hrun, waitExpired, hon, hswitch]
    rw [hcauseKept] at hlogged
    refine ⟨_, (clocked_if hclk hexpired).trans (congrArg _ (waitWatch_switch hthread)), hcause, fun g hg => ?_,
      hlogged, hothers, honly⟩
    rw [hunits, waitsReset_wait _ hg]

end Sys2Proof.Machine
end

section
/-! The four states of a context: its writes, its commit and its unload (R126, R178 to R182). -/

namespace Sys2Proof.Machine

/-! ### Writes of a context (R126, R178, R179) -/

section
variable {s : State} {w c : Nat} (f : Well → Well)

/-- A context in EMPTY or LOADING takes a write. -/
theorem ctxWrite_open (hrun : (s.well w).run ≠ .failed)
    (hopen : (s.well w).ctxState c = .empty ∨ (s.well w).ctxState c = .loading) :
    ctxWrite s w c f = s.setWell w (f ((s.well w).setCtx c .loading)) := by
  rcases hopen with h | h <;> simp only [ctxWrite, h, if_neg hrun]

/-- A context in COMMITTED or COMMITTING takes no write. -/
theorem ctxWrite_closed (hclosed : (s.well w).ctxState c = .committed ∨ (s.well w).ctxState c = .committing) :
    ctxWrite s w c f = s := by
  rcases hclosed with h | h <;> simp only [ctxWrite, h]

end

/-- GO of a context in EMPTY or LOADING starts the engine (R179). -/
theorem commitGo_open {s : State} {w c : Nat} (hbusy : (s.well w).busy = none) (hrun : (s.well w).run ≠ .failed)
    (hopen : (s.well w).ctxState c = .empty ∨ (s.well w).ctxState c = .loading) :
    commitGo s w c = s.setWell w { (s.well w).setCtx c .committing with busy := some (false, c) } := by
  have hfree : ¬ ((s.well w).busy.isSome || (s.well w).run == .failed) = true := by simp [hbusy, hrun]
  rcases hopen with h | h <;> simp only [commitGo, if_neg hfree, h]

/-- UNLOAD of a committed context that nobody names starts the engine (R182). -/
theorem unloadGo_unnamed {s : State} {w c : Nat} (hbusy : (s.well w).busy = none)
    (hctx : (s.well w).ctxState c = .committed) (hunnamed : unloadRefused (s.well w) c = false) :
    unloadGo s w c = s.setWell w { s.well w with busy := some (true, c) } := by
  have hfree : ¬ ((s.well w).busy.isSome || (s.well w).ctxState c != .committed) = true := by simp [hbusy, hctx]
  rw [unloadGo, if_neg hfree, if_neg (Bool.eq_false_iff.1 hunnamed)]

/-! ### A commit ends (R180, R181) -/

/-- The engine at rest takes no part in what a commit checks. -/
theorem commitEnd_eq (s : State) (w c : Nat) : commitEnd s w c = s.setWell w
    (if crcWords (commitWords (s.well w) c) ≠ (s.well w).commitCrc.toNat then
      { ({ s.well w with busy := none } : Well).setCtx c .loading with result := 0x21 }
    else commitVerdict { s.well w with busy := none } c (firstConflict (s.well w) c)) := rfl

theorem commitVerdict_busy (x : Well) (c : Nat) (conflict : Option (Nat × Nat)) :
    (commitVerdict x c conflict).busy = x.busy := by
  cases conflict <;> rfl

/-! ### An unload ends (R182) -/

/-- A key that is not listed reads its default. -/
theorem SMap.get_of_absent {α : Type} {d : Nat → α} {m : SMap α} {k : Nat} (h : ∀ e ∈ m, e.1 ≠ k) :
    SMap.get d m k = d k := by
  induction m with
  | nil => rfl
  | cons e r ih =>
    obtain ⟨he, hr⟩ := List.forall_mem_cons.1 h
    rw [SMap.get, if_neg he]
    exact ih hr

/-- A key in the cleared range reads its default. -/
theorem clearRange_get {α : Type} {d : Nat → α} (m : SMap α) {lo hi k : Nat} (hlo : lo ≤ k) (hhi : k < hi) :
    SMap.get d (clearRange m lo hi) k = d k := by
  refine SMap.get_of_absent fun e he hk => ?_
  have hkept := (List.mem_filter.1 he).2
  simp only [Bool.or_eq_true, decide_eq_true_eq] at hkept
  omega

/-- The schedule words of context c, of every unit, lie between the first key of c and that of the next. -/
theorem swKey_range {c f i h : Nat} (hf : f < 96) (hi : i < 512) (hh : h < 2) :
    swKey c 0 0 0 ≤ swKey c f i h ∧ swKey c f i h < swKey (c + 1) 0 0 0 := by
  unfold swKey
  omega

/-- The slice with the program of context c cleared. -/
def Slice.progCleared (y : Slice) (c : Nat) : Slice :=
  { y with prog := clearRange y.prog (256 * c) (256 * c + 256) }

theorem clearCtx_eq (x : Well) (c : Nat) : clearCtx x c =
    let y := (List.range 8).foldl (fun x i => x.setSlice i ((x.slice i).progCleared c)) x
    { y.setCtx c .empty with sw := clearRange y.sw (swKey c 0 0 0) (swKey (c + 1) 0 0 0)
                             switches := clearRange y.switches (96 * c) (96 * c + 96) } := rfl

/-- What an unload leaves in its well beside the settings and programs. -/
theorem unloadEnd_reads (s : State) (w c : Nat) :
    let y := (unloadEnd s w c).well w
    y.busy = none ∧ y.ctxs = ((s.well w).setCtx c .empty).ctxs
      ∧ y.sw = clearRange (s.well w).sw (swKey c 0 0 0) (swKey (c + 1) 0 0 0) := by
  have part {β : Type} (p : Well → β) (h : ∀ x i y, p (x.setSlice i y) = p x) :=
    Well.foldl_setSlice_part p (s.well w) 8 (Slice.progCleared · c) h
  rw [unloadEnd, State.well_setWell_same, clearCtx_eq]
  dsimp only [Well.setCtx]
  rw [part Well.ctxs fun _ _ _ => rfl, part Well.sw fun _ _ _ => rfl]
  exact ⟨rfl, rfl, rfl⟩

/-- The states of the contexts, by where they are held. -/
theorem Well.ctxState_of_ctxs {x y : Well} (h : x.ctxs = y.ctxs) (c : Nat) : x.ctxState c = y.ctxState c :=
  congrArg (SMap.get (fun _ => CtxState.empty) · c) h

/-- Settles O21: each write, GO and UNLOAD is one new value of the well, by the state of its context; a commit ends
by its CRC and its wires, and an unload clears the keys of its context. -/
theorem contextWritesCommitAndUnload : Obligations.ContextWritesCommitAndUnload := by
  intro s w hclk hwell
  refine ⟨?word, ?switch, ?program, ?programClosed, ?closed, ?go, ?complete, ?unload, ?unloaded⟩
  case word =>
    intro f i high v hgroup hrun hopen
    refine ⟨_, (clocked_if hclk hwell).trans (congrArg _ ((if_pos hgroup).trans (ctxWrite_open _ hrun hopen))),
      ?_, ?_, fun k hk => ?_, only_wells s _⟩
    all_goals rw [State.well_setWell_same]
    · exact SMap.get_set_same ..
    · exact (Well.ctxState_of_ctxs rfl _).trans (Well.ctxState_setCtx (s.well w.val) _ .loading)
    · exact SMap.get_set_other _ _ hk
  case switch =>
    intro f v hrun hopen
    exact (clocked_if hclk hwell).trans (congrArg _ (ctxWrite_open _ hrun hopen))
  case program =>
    intro south sl c i v hrun hopen
    refine ⟨_, (clocked_if hclk hwell).trans (congrArg _ (ctxWrite_open _ hrun hopen)), ?_, ?_, only_wells s _⟩
    all_goals rw [State.well_setWell_same]
    · exact (Well.ctxState_of_ctxs rfl _).trans (Well.ctxState_setCtx (s.well w.val) _ .loading)
    · rw [Well.slice_setSlice]
      exact SMap.get_set_same ..
  case programClosed =>
    intro south sl c i v hclosed
    exact (clocked_if hclk hwell).trans (congrArg _ (ctxWrite_closed _ hclosed))
  case closed =>
    intro a v hclosed hother
    refine (clocked_if hclk hwell).trans (congrArg _ ?_)
    cases a with
    | word f i high => exact (congrArg (ite _ · s) (ctxWrite_closed _ hclosed)).trans (ite_self s)
    | switch f => exact ctxWrite_closed _ hclosed
    | program south sl c i => exact absurd rfl (hother south sl c i)
  case go =>
    intro ctx hbusy hrun hopen
    exact (clocked_if hclk hwell).trans (congrArg _ (commitGo_open hbusy hrun hopen))
  case complete =>
    intro c hbusy
    have hexec : exec (.commitComplete w) s = .next (commitEnd s w.val c) := by
      refine (clocked_run hclk _).trans ?_
      rw [hbusy]
    refine ⟨_, hexec, ?_, only_wells s _, fun hcrc hwires => ?_, fun hcrc => ?_⟩
    all_goals rw [commitEnd_eq, State.well_setWell_same]
    · split
      · rfl
      · exact commitVerdict_busy ..
    · rw [if_neg (not_not.2 hcrc), hwires]
      exact ⟨(Well.ctxState_of_ctxs rfl _).trans (Well.ctxState_setCtx (s.well w.val) _ .committed), rfl⟩
    · rw [if_pos hcrc]
      exact ⟨(Well.ctxState_of_ctxs rfl _).trans (Well.ctxState_setCtx (s.well w.val) _ .loading), rfl⟩
  case unload =>
    intro ctx hbusy hctx hunnamed
    exact (clocked_if hclk hwell).trans (congrArg _ (unloadGo_unnamed hbusy hctx hunnamed))
  case unloaded =>
    intro c hbusy
    have hexec : exec (.unloadComplete w) s = .next (unloadEnd s w.val c) := by
      refine (clocked_run hclk _).trans ?_
      rw [hbusy]
    obtain ⟨hbusy', hctxs, hsw⟩ := unloadEnd_reads s w.val c
    refine ⟨_, hexec, hbusy', ?_, fun f i h hf hi hh => ?_, fun c' hc' => ?_, only_wells s _⟩
    · rw [Well.ctxState_of_ctxs hctxs, Well.ctxState_setCtx]
    · obtain ⟨hlo, hhi⟩ := swKey_range (c := c) hf hi hh
      rw [Well.swHalf, hsw, clearRange_get _ hlo hhi]
    · rw [Well.ctxState_of_ctxs hctxs, Well.ctxState_setCtx_other _ _ hc']

end Sys2Proof.Machine
end

section
/-! Start, stop and switch of a well (R172, R175, R183, R186, R218). -/

namespace Sys2Proof.Machine

/-! ### Units that clear or leave switch wait -/

/-- The unit out of switch wait. -/
def FUnit.waitEnded (u : FUnit) : FUnit := { u with wait := none }

/-- The well with every unit out of switch wait. -/
def waitsEnded (x : Well) : Well := (List.range 96).foldl (fun x f => x.setUnit f (x.unit f).waitEnded) x

theorem unitsCleared_unit (x : Well) (f : Nat) :
    (unitsCleared x).unit f = if f < 96 then (x.unit f).cleared else x.unit f :=
  Well.unit_foldl_setUnit FUnit.cleared x 96 f

theorem waitsEnded_unit (x : Well) (f : Nat) :
    (waitsEnded x).unit f = if f < 96 then (x.unit f).waitEnded else x.unit f :=
  Well.unit_foldl_setUnit FUnit.waitEnded x 96 f

section
variable {β : Type} (p : Well → β) (h : ∀ x f u, p (x.setUnit f u) = p x) (x : Well)
include h

/-- A part of a well beside its units stays when they clear. -/
theorem unitsCleared_part : p (unitsCleared x) = p x := Well.foldl_setUnit_part p x 96 FUnit.cleared h

theorem waitsEnded_part : p (waitsEnded x) = p x := Well.foldl_setUnit_part p x 96 FUnit.waitEnded h

end

/-- Every unit of the well is at word 0 with no loop, predicate or switch wait. -/
def Well.AtZero (x : Well) : Prop :=
  ∀ f, f < 96 → (x.unit f).pc = 0 ∧ (x.unit f).loops = noLoops ∧ (x.unit f).wait = none ∧ (x.unit f).preds = 0

/-- The registers of the units, the slices and the queues of well y are those of well x. -/
def Well.KeptBy (x y : Well) : Prop :=
  (∀ f, (y.unit f).regs = (x.unit f).regs) ∧ y.slices = x.slices ∧ y.queues = x.queues

theorem unitsCleared_atZero (x : Well) : (unitsCleared x).AtZero := by
  intro f hf
  rw [unitsCleared_unit, if_pos hf]
  exact ⟨rfl, rfl, rfl, rfl⟩

theorem unitsCleared_kept (x : Well) : x.KeptBy (unitsCleared x) := by
  refine ⟨fun f => ?_, unitsCleared_part _ (fun _ _ _ => rfl) x, unitsCleared_part _ (fun _ _ _ => rfl) x⟩
  rw [unitsCleared_unit]
  split <;> rfl

theorem waitsEnded_wait (x : Well) {f : Nat} (h : f < 96) : ((waitsEnded x).unit f).wait = none := by
  rw [waitsEnded_unit, if_pos h]
  rfl

theorem waitsEnded_pc (x : Well) (f : Nat) : ((waitsEnded x).unit f).pc = (x.unit f).pc := by
  rw [waitsEnded_unit]
  split <;> rfl

theorem waitsEnded_kept (x : Well) : x.KeptBy (waitsEnded x) := by
  refine ⟨fun f => ?_, waitsEnded_part _ (fun _ _ _ => rfl) x, waitsEnded_part _ (fun _ _ _ => rfl) x⟩
  rw [waitsEnded_unit]
  split <;> rfl

/-! ### The new value of the well -/

/-! The new values are functions of the well whose units have cleared or left switch wait. -/

/-- That well, started in the context of its control register (R172, R183). -/
def Well.started (y : Well) : Well :=
  { y with run := .running, frozen := false, ctx := y.ctlCtx, strokes := 0, frozenCount := 0, discCount := 0, watch := 0,
           seg := y.ctlCtx }

/-- That well, stopped, with every bank left to the side ports (R29, R186). -/
def Well.stopped (y : Well) : Well := { y with run := .stopped, frozen := false, watch := 0, banks := [] }

/-- That well, in context c and the segment it begins (R175). -/
def Well.switched (y : Well) (c : Nat) : Well := { y with ctx := c, seg := nextSeg y c }

theorem wellSwitch_eq (s : State) (w c : Nat) :
    wellSwitch s w c = s.setWell w ((unitsCleared (s.well w)).switched c) := rfl

/-- A start of a context that is committed, in a well that neither runs nor has failed. -/
theorem wellStart_committed {s : State} {w : Nat} (hrun : (s.well w).run ≠ .running) (hfail : (s.well w).run ≠ .failed)
    (hctx : (s.well w).ctxState (s.well w).ctlCtx = .committed) :
    wellStart s w = s.setWell w (unitsCleared (s.well w)).started := if_pos (by simp [hrun, hfail, hctx])

/-- With no word waiting at a side port there is nothing to try again (R29). -/
theorem retryAll_empty {s : State} {w : Nat} (h : (s.well w).retry = []) : retryAll s w = s.setWell w (s.well w) := by
  rw [retryAll, h]
  exact congrArg (fun l => s.setWell w { s.well w with retry := l }) h.symm

theorem stopped_retry (y : Well) : y.stopped.retry = y.retry := rfl

/-- A stop of a running well with no word waiting at a side port. -/
theorem wellStop_running {s : State} {w : Nat} (hrun : (s.well w).run = .running) (hretry : (s.well w).retry = []) :
    wellStop s w = s.setWell w (waitsEnded (s.well w)).stopped := by
  have hstop : wellStop s w = retryAll (s.setWell w (waitsEnded (s.well w)).stopped) w := if_pos (by simp [hrun])
  have hkept : (waitsEnded (s.well w)).retry = [] := (waitsEnded_part Well.retry (fun _ _ _ => rfl) _).trans hretry
  rw [hstop, retryAll_empty (by rw [State.well_setWell_same, stopped_retry, hkept]), State.well_setWell_same,
    State.setWell_setWell]

/-! ### Writes of the control register (R186) -/

/-- The fields of the value that `SF_START` writes. -/
theorem sfStartValue_fields : ∀ ctx : BitVec 2, let v : W32 := BitVec.ofNat 32 (1 <<< 31 + ctx.toNat <<< 28)
    bits v 28 2 = ctx.toNat ∧ bitAt v 30 = false ∧ bitAt v 31 = true := by decide

/-- The value that `SF_STOP` writes has STOP set. -/
theorem sfStopValue_stops : ∀ (ctx : BitVec 2) (start : Bool),
    bitAt (BitVec.ofNat 32 (b2n start <<< 31 + 1 <<< 30 + ctx.toNat <<< 28)) 30 = true := by decide

/-- The well with context c in its control register. -/
def Well.control (x : Well) (c : Nat) : Well := { x with ctlCtx := c }

theorem control_unit (x : Well) (c f : Nat) : (x.control c).unit f = x.unit f := rfl

theorem Well.KeptBy.of_control {x y : Well} {c : Nat} (h : (x.control c).KeptBy y) : x.KeptBy y := h

/-- START of a committed context, in a well that neither runs nor has failed. -/
theorem sfCtrlWrite_start {s : State} {w : Nat} {v : W32} (hstop : bitAt v 30 = false) (hstart : bitAt v 31 = true)
    (hrun : (s.well w).run ≠ .running) (hfail : (s.well w).run ≠ .failed)
    (hctx : (s.well w).ctxState (bits v 28 2) = .committed) :
    sfCtrlWrite s w v = s.setWell w (unitsCleared ((s.well w).control (bits v 28 2))).started := by
  have hnew := wellStart_committed (s := s.setWell w ((s.well w).control (bits v 28 2))) (w := w)
  rw [State.well_setWell_same, State.setWell_setWell] at hnew
  exact (if_neg (by simp [hstop])).trans ((if_pos hstart).trans (hnew hrun hfail hctx))

/-- STOP of a running well with no word waiting at a side port. -/
theorem sfCtrlWrite_stop {s : State} {w : Nat} {v : W32} (hstop : bitAt v 30 = true)
    (hrun : (s.well w).run = .running) (hretry : (s.well w).retry = []) :
    sfCtrlWrite s w v = s.setWell w (waitsEnded ((s.well w).control (bits v 28 2))).stopped := by
  have hnew := wellStop_running (s := s.setWell w ((s.well w).control (bits v 28 2))) (w := w)
  rw [State.well_setWell_same, State.setWell_setWell] at hnew
  exact (if_pos hstop).trans (hnew hrun hretry)

theorem running_run {s : State} {w : Nat} (h : s.running w = true) : (s.well w).run = .running := by
  simp only [State.running, Bool.and_eq_true, beq_iff_eq] at h
  obtain ⟨⟨-, hrun⟩, -⟩ := h
  exact hrun

/-! ### What the new value holds -/

section
variable {x y : Well}

theorem started_reads (hzero : y.AtZero) (hkept : x.KeptBy y) : y.started.run = .running ∧ y.started.ctx = y.ctlCtx
    ∧ y.started.strokes = 0 ∧ y.started.frozenCount = 0 ∧ y.started.AtZero ∧ x.KeptBy y.started :=
  ⟨rfl, rfl, rfl, rfl, hzero, hkept⟩

theorem stopped_reads (hkept : x.KeptBy y) :
    y.stopped.run = .stopped ∧ (∀ f, y.stopped.unit f = y.unit f) ∧ x.KeptBy y.stopped :=
  ⟨rfl, fun _ => rfl, hkept⟩

theorem switched_reads (hzero : y.AtZero) (hkept : x.KeptBy y) (c : Nat) :
    (y.switched c).ctx = c ∧ (y.switched c).run = y.run ∧ (y.switched c).AtZero ∧ x.KeptBy (y.switched c) :=
  ⟨rfl, rfl, hzero, hkept⟩

end

/-- A new value of one well leaves every other well and every other part of the state. -/
theorem setWell_frame (s : State) (w : Nat) (y : Well) :
    (∀ v, v ≠ w → (s.setWell w y).well v = s.well v) ∧ Only [.wells] s (s.setWell w y) :=
  ⟨fun _ hv => State.well_setWell_other s y hv, only_wells s _⟩

/-- Settles O20: a start, a stop and a switch are each one new value of the well, whose units have cleared or left
switch wait. -/
theorem wellStartStopAndSwitch : Obligations.WellStartStopAndSwitch := by
  intro s w hclk hwell
  refine ⟨?start, ?stop, ?switch⟩
  case start =>
    intro ctx hrun hfail hctx
    obtain ⟨hcode, hstop, hstart⟩ := sfStartValue_fields ctx
    have hnew := sfCtrlWrite_start hstop hstart hrun hfail (by rw [hcode]; exact hctx)
    rw [hcode] at hnew
    have hctl := unitsCleared_part Well.ctlCtx (fun _ _ _ => rfl) ((s.well w.val).control ctx.toNat)
    obtain ⟨hruns, hin, hstrokes, hfrozen, hzero, hregs, hslices, hqueues⟩ := started_reads
      (unitsCleared_atZero ((s.well w.val).control ctx.toNat)) (Well.KeptBy.of_control (unitsCleared_kept _))
    refine ⟨_, (clocked_if hclk hwell).trans (congrArg _ hnew), ?_⟩
    simp only [State.well_setWell_same]
    exact ⟨hruns, hin.trans hctl, hstrokes, hfrozen, hzero, hregs, hslices, hqueues, setWell_frame ..⟩
  case stop =>
    intro ctx start hrun hretry
    have hnew := sfCtrlWrite_stop (sfStopValue_stops ctx start) hrun hretry
    generalize bits _ 28 2 = c at hnew
    obtain ⟨hstops, hunits, hregs, hslices, hqueues⟩ :=
      stopped_reads (Well.KeptBy.of_control (waitsEnded_kept ((s.well w.val).control c)))
    refine ⟨_, (clocked_if hclk hwell).trans (congrArg _ hnew), ?_⟩
    simp only [State.well_setWell_same]
    refine ⟨hstops, fun f hf => ?_, fun f => ?_, hregs, hslices, hqueues, setWell_frame ..⟩
    · rw [hunits, waitsEnded_wait _ hf]
    · rw [hunits, waitsEnded_pc, control_unit]
  case switch =>
    intro ctx hrun hready
    have hexec : exec (.wellSwitch w) s = .next (wellSwitch s w.val ctx) := by
      refine (clocked_run hclk _).trans ?_
      rw [hready]
      exact congrArg _ (if_pos hrun)
    have hrunKept := unitsCleared_part Well.run (fun _ _ _ => rfl) (s.well w.val)
    obtain ⟨hin, hruns, hzero, hregs, hslices, hqueues⟩ :=
      switched_reads (unitsCleared_atZero _) (unitsCleared_kept (s.well w.val)) ctx
    refine ⟨_, hexec, ?_⟩
    simp only [wellSwitch_eq, State.well_setWell_same]
    exact ⟨hin, hruns.trans (hrunKept.trans (running_run hrun)), hzero, hregs, hslices, hqueues, setWell_frame ..⟩

end Sys2Proof.Machine
end

section
/-! Captures: armed, asked for, taken, and kept while held (R184, R185, R190). -/

namespace Sys2Proof.Machine

/-! ### What a capture records -/

/-- A capture reads nothing but the wells (R185, R220). -/
theorem capAll_of_well {s t : State} (h : ∀ v, t.well v = s.well v) (w : Nat) : capAll t w = capAll s w := by
  have hwell : t.well = s.well := funext h
  have hdest (f d ch : Nat) : outDest t w f d ch = outDest s w f d ch := by unfold outDest; rw [hwell]
  have hvalid (f d : Nat) : outValid t w f d = outValid s w f d := by simp only [outValid, hdest, hwell]
  have hrecord (f : Nat) : capRecord t w f = capRecord s w f := by simp only [capRecord, hvalid, hwell]
  simp only [capAll, hrecord]

theorem State.well_setWell_self (s : State) (w v : Nat) : (s.setWell w (s.well w)).well v = s.well v :=
  State.piece_setWell id s w (s.well w) rfl v

/-! ### A capture is taken, or one is held -/

/-- The well with NOW answered, where the cause is NOW. -/
def Well.capAnswered (x : Well) (c : Nat) : Well := { x with capNow := x.capNow && c != 1 }

/-- The well with the records l captured for cause c. -/
def Well.captured (x : Well) (c : Nat) (l : SMap W64) : Well :=
  { x with cap := l, capValid := true, capCause := c, capStroke := x.strokes, capArm := x.capArm && c != 0 }

/-- The well with a capture marked lost. -/
def Well.capMissed (x : Well) : Well := { x with capLost := true }

theorem capAnswered_eq (x : Well) (c : Nat) :
    x.capAnswered c = if c = 1 then { x with capNow := false } else x := by
  have hput {b : Bool} (h : (x.capNow && c != 1) = b) : x.capAnswered c = { x with capNow := b } :=
    congrArg (fun b => ({ x with capNow := b } : Well)) h
  split
  case isTrue h => exact hput (by simp [h])
  case isFalse h => exact hput (by simp [h])

theorem capTake_eq (s : State) (w c : Nat) : capTake s w c =
    if (s.well w).capValid then s.setWell w ((s.well w).capAnswered c).capMissed
    else s.setWell w (((s.well w).capAnswered c).captured c (capAll s w)) := by
  change _ = if ((s.well w).capAnswered c).capValid then _ else _
  rw [capAnswered_eq]
  rfl

theorem capTake_free {s : State} {w : Nat} (h : (s.well w).capValid = false) (c : Nat) :
    capTake s w c = s.setWell w (((s.well w).capAnswered c).captured c (capAll s w)) := by
  rw [capTake_eq, h, if_neg Bool.false_ne_true]

theorem capTake_held {s : State} {w : Nat} (h : (s.well w).capValid = true) (c : Nat) :
    capTake s w c = s.setWell w ((s.well w).capAnswered c).capMissed := by
  rw [capTake_eq, if_pos h]

/-! ### Captures due at the end of a stroke (R184) -/

/-- The armed stroke has come. -/
def Well.capArmedDue (x : Well) : Bool := x.capArm && x.strokes == x.capAt.toNat

/-- What is due: NOW first, else the armed stroke. -/
theorem capDue_eq_some {x : Well} {c : Nat} (h : capDue x = some c) :
    (x.capNow = true ∧ c = 1) ∨ (x.capNow = false ∧ x.capArmedDue = true ∧ c = 0) := by
  unfold capDue at h
  cases hnow : x.capNow with
  | true =>
    rw [hnow, if_pos rfl] at h
    exact .inl ⟨rfl, (Option.some.inj h).symm⟩
  | false =>
    rw [hnow, if_neg Bool.false_ne_true] at h
    split at h
    · next harmed => exact .inr ⟨rfl, harmed, (Option.some.inj h).symm⟩
    · cases h

theorem captureDue_armed {s : State} {w : Nat} (hnow : (s.well w).capNow = false)
    (harmed : (s.well w).capArmedDue = true) : captureDue s w = capTake s w 0 := by
  unfold captureDue
  rw [hnow]
  exact if_pos harmed

/-- After NOW, which leaves a capture held, an armed one that is due too is only marked lost. -/
theorem captureDue_now {s : State} {w : Nat} {y : Well} (hnow : (s.well w).capNow = true)
    (htake : capTake s w 1 = s.setWell w y) (hvalid : y.capValid = true) :
    captureDue s w = s.setWell w (if y.capArmedDue then (y.capAnswered 0).capMissed else y) := by
  have hsecond : captureDue s w = if y.capArmedDue then capTake (s.setWell w y) w 0 else s.setWell w y := by
    unfold captureDue
    rw [hnow, if_pos rfl, htake]
    dsimp only
    rw [State.well_setWell_same]
    rfl
  rw [hsecond, apply_ite (s.setWell w), capTake_held (by rw [State.well_setWell_same, hvalid]),
    State.well_setWell_same, State.setWell_setWell]

/-- A capture that is due with none held. -/
theorem captureDue_free {s : State} {w c : Nat} (hdue : capDue (s.well w) = some c)
    (hfree : (s.well w).capValid = false) : ∃ y, captureDue s w = s.setWell w y ∧ y.cap = capAll s w
      ∧ (c = 0 → y.capArm = false) ∧ y.capValid = true ∧ y.capCause = c
      ∧ y.capStroke = (s.well w).strokes := by
  rcases capDue_eq_some hdue with ⟨hnow, rfl⟩ | ⟨hnow, harmed, rfl⟩
  · refine ⟨_, captureDue_now hnow (capTake_free hfree 1) rfl, ?_⟩
    split <;> simp [Well.capMissed, Well.capAnswered, Well.captured]
  · refine ⟨_, (captureDue_armed hnow harmed).trans (capTake_free hfree 0), ?_⟩
    simp [Well.capAnswered, Well.captured]

/-- A capture that is due with one held. -/
theorem captureDue_held {s : State} {w c : Nat} (hdue : capDue (s.well w) = some c)
    (hheld : (s.well w).capValid = true) : ∃ y, captureDue s w = s.setWell w y ∧ y.cap = (s.well w).cap
      ∧ y.capLost = true ∧ y.capArm = (s.well w).capArm := by
  rcases capDue_eq_some hdue with ⟨hnow, rfl⟩ | ⟨hnow, harmed, rfl⟩
  · refine ⟨_, captureDue_now hnow (capTake_held hheld 1) hheld, ?_⟩
    split <;> simp [Well.capMissed, Well.capAnswered]
  · refine ⟨_, (captureDue_armed hnow harmed).trans (capTake_held hheld 0), ?_⟩
    simp [Well.capMissed, Well.capAnswered]

/-! ### Writes of `SF_CAPTURE` (R184, R190) -/

/-- The fields of the value that `SF_CAPTURE_ARM` writes. -/
theorem captureArmValue_fields : ∀ onStall : Bool, let v : W32 := BitVec.ofNat 32 (1 <<< 31 + b2n onStall <<< 29)
    bitAt v 31 = true ∧ bitAt v 30 = false ∧ bitAt v 29 = onStall := by decide

/-- The fields of the value that `SF_CAPTURE_NOW` writes. -/
theorem captureNowValue_fields : ∀ arm onStall : Bool,
    let v : W32 := BitVec.ofNat 32 (b2n arm <<< 31 + 1 <<< 30 + b2n onStall <<< 29)
    bitAt v 31 = arm ∧ bitAt v 30 = true ∧ bitAt v 29 = onStall := by decide

/-- The well with ARM and ON_STALL written. -/
def Well.capControl (x : Well) (arm onStall : Bool) : Well := { x with capArm := arm, capOnStall := onStall }

theorem capControl_self (x : Well) : x.capControl x.capArm x.capOnStall = x := rfl

section
variable {s : State} {w : Nat} {v : W32}

theorem captureWrite_arm (h : bitAt v 30 = false) :
    captureWrite s w v = s.setWell w ((s.well w).capControl (bitAt v 31) (bitAt v 29)) := if_pos (by simp [h])

/-- NOW in a running well that is not frozen waits for the end of the stroke. -/
theorem captureWrite_later (h : bitAt v 30 = true) (hfrozen : (s.well w).frozen = false)
    (hrun : (s.well w).run = .running) : captureWrite s w v
      = s.setWell w { (s.well w).capControl (bitAt v 31) (bitAt v 29) with capNow := true } := by
  have hnow : captureWrite s w v = (s.setWell w ((s.well w).capControl (bitAt v 31) (bitAt v 29))).setWell w
      { (s.setWell w ((s.well w).capControl (bitAt v 31) (bitAt v 29))).well w with capNow := true } :=
    (if_neg (by simp [h])).trans (if_neg (by simp [hfrozen, hrun]))
  rw [hnow, State.setWell_setWell, State.well_setWell_same]

/-- NOW in a well that is frozen or does not run, which holds no capture, is taken at once. -/
theorem captureWrite_atOnce (h : bitAt v 30 = true) (harm : bitAt v 31 = (s.well w).capArm)
    (hstall : bitAt v 29 = (s.well w).capOnStall) (hstill : (s.well w).frozen = true ∨ (s.well w).run ≠ .running)
    (hfree : (s.well w).capValid = false) :
    captureWrite s w v = s.setWell w (((s.well w).capAnswered 1).captured 1 (capAll s w)) := by
  have hnow : captureWrite s w v
      = capTake (s.setWell w ((s.well w).capControl (bitAt v 31) (bitAt v 29))) w 1 :=
    (if_neg (by simp [h])).trans (if_pos (by simpa using hstill))
  rw [hnow, harm, hstall, capControl_self, capTake_free (by rw [State.well_setWell_same, hfree]),
    capAll_of_well (State.well_setWell_self s w), State.well_setWell_same, State.setWell_setWell]

end

/-- Settles O22: each write and each capture is one new value of the well. -/
theorem capturesAreArmedAndTaken : Obligations.CapturesAreArmedAndTaken := by
  intro s w hclk hwell
  refine ⟨?arm, ?later, ?atOnce, ?free, ?held⟩
  case arm =>
    intro a onStall
    obtain ⟨harm, hnow, hstall⟩ := captureArmValue_fields onStall
    have hnew := captureWrite_arm (s := s.setWell w.val { s.well w.val with capAt := a }) (w := w.val) hnow
    rw [State.well_setWell_same, State.setWell_setWell, harm, hstall] at hnew
    refine ⟨_, (clocked_if hclk hwell).trans (congrArg _ hnew), ?_⟩
    dsimp only
    rw [State.well_setWell_same]
    exact ⟨rfl, rfl, rfl, rfl, setWell_frame ..⟩
  case later =>
    intro hfrozen hrun
    obtain ⟨harm, hnow, hstall⟩ := captureNowValue_fields (s.well w.val).capArm (s.well w.val).capOnStall
    have hnew := captureWrite_later hnow hfrozen hrun
    rw [harm, hstall, capControl_self] at hnew
    refine ⟨_, (clocked_if hclk hwell).trans (congrArg _ hnew), ?_⟩
    dsimp only
    rw [State.well_setWell_same]
    exact ⟨rfl, rfl, rfl, setWell_frame ..⟩
  case atOnce =>
    intro hstill hfree
    obtain ⟨harm, hnow, hstall⟩ := captureNowValue_fields (s.well w.val).capArm (s.well w.val).capOnStall
    refine ⟨_, (clocked_if hclk hwell).trans (congrArg _ (captureWrite_atOnce hnow harm hstall hstill hfree)), ?_⟩
    dsimp only
    rw [State.well_setWell_same]
    exact ⟨rfl, rfl, rfl, Bool.and_true _, rfl, setWell_frame ..⟩
  case free =>
    intro c hdue hfree
    obtain ⟨y, hnew, hcap, harm, hvalid, hcause, hstroke⟩ := captureDue_free hdue hfree
    have htaken : (s.hasWell w.val && (capDue (s.well w.val)).isSome) = true := by simp [hwell, hdue]
    refine ⟨_, (clocked_if hclk htaken).trans (congrArg _ hnew), ?_⟩
    simp only [State.well_setWell_same]
    exact ⟨hcap, harm, hvalid, hcause, hstroke, setWell_frame ..⟩
  case held =>
    intro c hdue hheld
    obtain ⟨y, hnew, hcap, hlost, harm⟩ := captureDue_held hdue hheld
    have htaken : (s.hasWell w.val && (capDue (s.well w.val)).isSome) = true := by simp [hwell, hdue]
    refine ⟨_, (clocked_if hclk htaken).trans (congrArg _ hnew), ?_⟩
    simp only [State.well_setWell_same]
    exact ⟨hcap, hlost, harm, setWell_frame ..⟩

end Sys2Proof.Machine
end

section
/-! The control words of a unit (R174, R197 to R201, R217). -/

namespace Sys2Proof.Machine

/-! ### One issue of a word that executes -/

section
variable {s : State} {w f : Nat} {h : SwHead}

/-- A word in range of a running well that nothing blocks is issued. -/
theorem unitRow_issue {op : SwOp} (hclk : s.clocksRun = true) (hrun : s.running w = true) (hok : op.ok f h = true)
    (hblocks : unitBlocks s w f h op = none) (name : String) :
    clocked s (unitRow s w f h op name) = .next (unitIssue s w f h op) := by
  rw [clocked_run hclk, unitRow, if_pos hok, if_pos hrun, unitStep, hblocks]

/-- A `PSET` whose condition has a value is not blocked (R199). -/
theorem unitBlocks_pset {pd cond arg : BitVec 4} {neg v : Bool}
    (hv : psetValue s w f cond.toNat arg.toNat = some v) : unitBlocks s w f h (.pset pd cond arg neg) = none := by
  simp [unitBlocks, hv]

/-- The predicates with one of them written (R199). -/
theorem psetIssue_of_value {pd cond arg : Nat} {neg v : Bool} (hv : psetValue s w f cond arg = some v)
    (hcond : cond ≠ 5) :
    psetIssue s w f pd cond arg neg = s.setWell w ((s.well w).setUnit f { (s.well w).unit f with
      preds := if v != neg then ((s.well w).unit f).preds ||| (1 : BitVec 16) <<< pd
        else ((s.well w).unit f).preds &&& ~~~((1 : BitVec 16) <<< pd) }) := by
  simp only [psetIssue, hv, if_neg hcond]

/-- The test of a walk end has a value, and clears the flag it tests. -/
theorem psetIssue_walkEnd (pd arg : Nat) (neg : Bool) :
    let u := (s.well w).unit f
    psetIssue s w f pd 5 arg neg = s.setWell w ((s.well w).setUnit f
      (({ u with preds := if (u.ag arg).ended != neg then u.preds ||| (1 : BitVec 16) <<< pd
          else u.preds &&& ~~~((1 : BitVec 16) <<< pd) } : FUnit).setAg arg { u.ag arg with ended := false })) := rfl

/-- The branch that a unit outside switch wait takes for a word that executes (R198). -/
theorem executes_branch {u : FUnit} {a b t : State} (hwait : u.wait = none) (hruns : wordRuns u h = true) :
    (if u.wait.isSome then a else if !wordRuns u h then b else t) = t := by
  rw [hwait, hruns]
  rfl

end

/-- Settles O12: each word is not blocked, so it issues, and its issue is the one update of its own branch. -/
theorem scheduleControlWordsComplete : Obligations.ScheduleControlWordsComplete := by
  intro s w f h hclk hrun x u hwait hruns
  have issues {op : SwOp} {name : String} {t : State} (hok : op.ok f.val h = true)
      (hblocks : unitBlocks s w.val f.val h op = none) (hissue : unitIssue s w.val f.val h op = t) :
      clocked s (unitRow s w.val f.val h op name) = .next t :=
    (unitRow_issue hclk hrun hok hblocks name).trans (congrArg _ hissue)
  refine ⟨?nop, ?loop, ?jmp, ?pset, ?walkEnd, ?tagset, ?switch⟩
  case nop => exact fun hok => issues hok (ite_self none) (executes_branch hwait hruns)
  case loop => exact fun lvl c1 last hok => issues hok (ite_self none) (executes_branch hwait hruns)
  case jmp => exact fun tg hok => issues hok (ite_self none) (executes_branch hwait hruns)
  case pset =>
    intro pd cond arg neg v hok hcond hv
    have hne : cond.toNat ≠ 5 := fun h5 => hcond (BitVec.eq_of_toNat_eq h5)
    exact issues hok (unitBlocks_pset hv)
      ((executes_branch hwait hruns).trans (congrArg (unitNext · w.val f.val 0) (psetIssue_of_value hv hne)))
  case walkEnd =>
    intro pd arg neg hok
    exact issues hok (unitBlocks_pset rfl)
      ((executes_branch hwait hruns).trans (congrArg (unitNext · w.val f.val 0) (psetIssue_walkEnd _ _ _)))
  case tagset => exact fun tg hok => issues hok (ite_self none) (executes_branch hwait hruns)
  case switch =>
    intro force mask qna qnb hok hsettled hctx
    exact issues hok (ite_self none)
      ((executes_branch hwait hruns).trans ((if_pos hsettled).trans (if_pos hctx)))

end Sys2Proof.Machine
end

section
/-! Reads and writes of DRAM at every state of its check bits: the bytes that change, and the parts that do
(R240, R372 to R377). -/

namespace Sys2Proof.Machine

/-! ### The parts that an access touches -/

/-- The parts that an access of DRAM may touch: memory with its check bits, the controllers, and what counts and
logs the access. -/
def dramParts : List Part := [.mem, .ecc, .mcs, .regs, .hi, .err, .pmu, .freeCtr]

/-- Without what an access of DRAM touches. -/
def State.hideDram (s : State) : State :=
  { s with mem := [], ecc := [], mcs := [], regs := [], hi := .reset, err := .reset, pmu := .reset, freeCtr := 0 }

theorem hideDram_of {s t : State} (h : t.hideLog = s.hideLog) : t.hideDram = s.hideDram :=
  congrArg (fun u : State => { u with mem := [], ecc := [], mcs := [], pmu := .reset, freeCtr := 0 }) h

theorem hideDram_only {s t : State} (h : t.hideDram = s.hideDram) : Only dramParts s t := by
  intro q hq
  simp only [State.hideDram, State.mk.injEq] at h
  cases q <;> simp_all [Part.same, dramParts]

theorem hideDram_wells {s t : State} (h : t.hideDram = s.hideDram) : t.wells = s.wells := (congrArg State.wells h :)

section
variable (s : State)

@[simp] theorem hideDram_setMc (n : Nat) (m : Mc) : (s.setMc n m).hideDram = s.hideDram := (rfl)
@[simp] theorem hideDram_drawn : s.drawn.hideDram = s.hideDram := (rfl)
@[simp] theorem hideDram_putLine (a : Nat) (l : Line) (d : BitVec 16) : (s.putLine a l d).hideDram = s.hideDram := (rfl)
@[simp] theorem hideDram_wr (o : Nat) (v : W64) : (s.wr o v).hideDram = s.hideDram := (rfl)
@[simp] theorem hideDram_setBit (o l : Nat) (b : Bool) : (s.setBit o l b).hideDram = s.hideDram := (rfl)
@[simp] theorem hideDram_addSat (o l n x : Nat) : (s.addSat o l n x).hideDram = s.hideDram := (rfl)
@[simp] theorem hideDram_event (c u e : Nat) : (event s c u e).hideDram = s.hideDram :=
  hideDram_of (hideLog_of (event_hides ..))
@[simp] theorem hideDram_logOnly (f : FaultInfo) : (logOnly s f).hideDram = s.hideDram :=
  hideDram_of (logEntry_hides ..)
@[simp] theorem hideDram_bwCount (i d : Nat) : (bwCount s i d).hideDram = s.hideDram := by
  unfold bwCount
  split <;> rfl

@[simp] theorem hideDram_checkOut (key : Nat) : (checkOut s key).hideDram = s.hideDram := by
  simp [checkOut, apply_ite State.hideDram]
@[simp] theorem hideDram_cacheTouch (ch l : Nat) : (cacheTouch s ch l).hideDram = s.hideDram := by
  unfold cacheTouch
  dsimp only
  split
  · rfl
  · refine (hideDram_drawn _).trans ((hideDram_setMc _ _ _).trans ?_)
    split <;> simp
@[simp] theorem hideDram_cacheWrite (ch l : Nat) : (cacheWrite s ch l).hideDram = s.hideDram := by
  unfold cacheWrite
  dsimp only
  split
  · exact hideDram_cacheTouch s ch l
  · exact (hideDram_setMc _ _ _).trans (hideDram_cacheTouch s ch l)

@[simp] theorem hideDram_noteError (ch a kind : Nat) : (noteError s ch a kind).hideDram = s.hideDram := (rfl)
@[simp] theorem hideDram_noteCorrected (ch a : Nat) (inCheck : Bool) :
    (noteCorrected s ch a inCheck).hideDram = s.hideDram := by
  simp [noteCorrected, apply_ite State.hideDram]
@[simp] theorem hideDram_noteUncorrectable (ch a kind : Nat) :
    (noteUncorrectable s ch a kind).hideDram = s.hideDram := by
  simp [noteUncorrectable]

@[simp] theorem hideDram_dramRead (a : Nat) (count : Bool) : (dramRead s a count).2.2.hideDram = s.hideDram := by
  unfold dramRead
  dsimp only
  split
  · split <;> simp [apply_ite State.hideDram]
  · simp
@[simp] theorem hideDram_dramWrite (a : Nat) (new : Line) (mask : BitVec 64) :
    (dramWrite s a new mask).hideDram = s.hideDram := by
  simp [dramWrite, apply_ite State.hideDram]

end

theorem dramRead_mem (s : State) (a : Nat) (count : Bool) : (dramRead s a count).2.2.mem = s.mem :=
  (dramRead_keep s a count).2

/-! ### The bytes that a write changes -/

/-- A write bucket stores its whole line, or its masked bytes over what the line read, even where that could not be
corrected (R374, R376). -/
theorem dramWrite_stores (s : State) (a : Nat) (new : Line) (mask : BitVec 64) :
    ∃ old, (dramWrite s a new mask).mem = s.mem.setLine (a / 64 * 64)
      (if mask = fullMask then new else mergeLine old new mask) := by
  by_cases hmask : mask = fullMask
  · exact ⟨0, by simp [dramWrite, hmask, State.putLine]⟩
  · refine ⟨if s.eccOn then (dramRead s a).1 else s.mem.line (a / 64 * 64), ?_⟩
    simp only [dramWrite, if_neg hmask]
    cases s.eccOn with
    | false => simp [State.putLine]
    | true => cases (dramRead s a).2.1 <;> simp [State.putLine, noteError]

section
variable (s : State) (new : Line) (mask : BitVec 64)

theorem dramWrite_byte_other {a b : Nat} (h : b / 64 ≠ a / 64) :
    (dramWrite s a new mask).mem.byte b = s.mem.byte b := by
  obtain ⟨old, hmem⟩ := dramWrite_stores s a new mask
  rw [hmem, Memory.byte_setLine_other _ _ _ _ (by omega)]

/-- A byte of the mask, whatever the line held. -/
theorem dramWrite_byte_masked (a : Nat) {i : Nat} (hi : i < 64) (hbit : bitAt mask i = true) :
    (dramWrite s a new mask).mem.byte (a / 64 * 64 + i) = BitVec.ofNat 8 (laneOf new.toNat 8 i) := by
  obtain ⟨old, hmem⟩ := dramWrite_stores s a new mask
  rw [hmem, Memory.byte_setLine _ _ _ hi]
  split
  · rfl
  · rw [laneOf_mergeLine _ _ _ hi, if_pos hbit]

theorem dramWrite_line_full {a : Nat} (ha : a % 64 = 0) : (dramWrite s a new fullMask).mem.line a = new := by
  obtain ⟨old, hmem⟩ := dramWrite_stores s a new fullMask
  rw [hmem, if_pos rfl, show a / 64 * 64 = a by omega, Memory.line_setLine]

end

/-- A line whose bytes are those of another. -/
theorem Memory.line_congr {m m' : Memory} {a : Nat} (h : ∀ i, i < 64 → m'.byte (a + i) = m.byte (a + i)) :
    m'.line a = m.line a := by
  rw [Memory.line, Memory.line, Memory.read_eq_map, Memory.read_eq_map]
  exact congrArg lineOf (List.map_congr_left fun i hi => h i (List.mem_range.1 hi))

/-! ### Two bytes of a line -/

/-- A byte of a number, without the bytes above it. -/
theorem ofNat_laneOf (v k : Nat) : BitVec.ofNat 8 (laneOf v 8 k) = BitVec.ofNat 8 (v >>> (8 * k)) := by
  apply BitVec.eq_of_toNat_eq
  simp [laneOf]

theorem dramWrite16_byte_other (s : State) {a b : Nat} (v : Nat) (h : b / 64 ≠ a / 64) :
    (dramWrite16 s a v).mem.byte b = s.mem.byte b := dramWrite_byte_other s _ _ (by omega)

/-- Lane k of two bytes moved up by i lanes, within n bits. -/
theorem laneOf_twoBytes (v : Nat) {n i k : Nat} (hi : 16 + 8 * i ≤ n) (hk : k < 2) :
    laneOf (BitVec.ofNat n ((v % 65536) <<< (8 * i))).toNat 8 (i + k) = laneOf v 8 k := by
  have hfits : (v % 65536) <<< (8 * i) < 2 ^ n := by
    calc (v % 65536) <<< (8 * i) = v % 65536 * 2 ^ (8 * i) := Nat.shiftLeft_eq ..
      _ < 2 ^ 16 * 2 ^ (8 * i) := Nat.mul_lt_mul_of_pos_right (Nat.mod_lt _ (by decide)) (Nat.two_pow_pos _)
      _ = 2 ^ (16 + 8 * i) := (Nat.pow_add ..).symm
      _ ≤ 2 ^ n := Nat.pow_le_pow_right (by decide) hi
  have hdown : ((v % 65536) <<< (8 * i)) >>> (8 * (i + k)) = (v % 65536) >>> (8 * k) := by
    rw [Nat.mul_add, Nat.shiftRight_add, Nat.shiftLeft_shiftRight]
  rw [laneOf, BitVec.toNat_ofNat, Nat.mod_eq_of_lt hfits, hdown, laneOf]
  simp only [Nat.shiftRight_eq_div_pow]
  obtain rfl | rfl : k = 0 ∨ k = 1 := by omega
  · omega
  · omega

/-- Byte k of the two bytes written, which lie in one line. -/
theorem dramWrite16_byte (s : State) {a k : Nat} (v : Nat) (ha : a % 64 < 63) (hk : k < 2) :
    (dramWrite16 s a v).mem.byte (a + k) = BitVec.ofNat 8 (laneOf v 8 k) := by
  have hbit : bitAt (BitVec.ofNat 64 (3 <<< (a % 64))) (a % 64 + k) = true := by
    have hthree : Nat.testBit 3 k = true := by
      obtain rfl | rfl : k = 0 ∨ k = 1 := by omega
      · rfl
      · rfl
    have hin : a % 64 + k < 64 := by omega
    simp [bitAt, BitVec.getLsbD_ofNat, Nat.testBit_shiftLeft, hthree, hin]
  have hbyte := dramWrite_byte_masked s (BitVec.ofNat 512 ((v % 65536) <<< (8 * (a % 64)))) _ (a / 64 * 64)
    (by omega) hbit
  rwa [laneOf_twoBytes v (by omega) hk, show a / 64 * 64 / 64 * 64 + (a % 64 + k) = a + k by omega] at hbyte

end Sys2Proof.Machine
end

section
/-! Queue entries enabled and set, words spilled and read back, and corrected cistern words written back (R161, R222,
R224, R231 to R236). -/

namespace Sys2Proof.Machine

/-! ### Writes of an entry's registers (R222, R224, R235, R236) -/

section
variable {s : State} {w e : Nat}

theorem sqCfgWrite_locked (hlocked : wellLocked s w = true) (v : W32) : sqCfgWrite s w e v = s := if_pos hlocked

/-- EN from 0 to 1 empties the entry. -/
theorem sqCfgWrite_enables (hopen : wellLocked s w = false) {v : W32} (hen : bitAt v 31 = true)
    (hoff : (s.sq w e).enabled = false) :
    sqCfgWrite s w e v = sqPut s w e ({ s.sq w e with cfg := v &&& 0xDFFF1FFF } : SqEntry).emptied :=
  (if_neg (by simp [hopen])).trans (if_pos (by simp [hen, hoff]))

/-- An enabled entry keeps its pointers. -/
theorem sqCfgWrite_enabled (hopen : wellLocked s w = false) (hon : (s.sq w e).enabled = true) (v : W32) :
    sqCfgWrite s w e v = sqPut s w e { s.sq w e with cfg := v &&& 0xDFFF1FFF } :=
  (if_neg (by simp [hopen])).trans (if_neg (by simp [hon]))

theorem sqSemWrite_sem (hsem : (s.sq w e).isSem = true) (v : W32) :
    sqSemWrite s w e v = sqPut s w e { s.sq w e with filled := bits v 16 16, free := bits v 0 16 } := if_pos hsem

end

/-- What an entry that is put leaves. -/
theorem sqPut_frame (s : State) (w e : Nat) (x : SqEntry) :
    (∀ v g, (v, g) ≠ (w, e) → (sqPut s w e x).sq v g = s.sq v g) ∧ Only [.wells, .regs, .hi] s (sqPut s w e x) :=
  ⟨fun _ _ h => sqPut_sq_other s x h, sqPut_only s w e x⟩

/-! ### Corrected words written back (R161) -/

@[simp] theorem Well.mu_setMu (x : Well) (k : Nat) (m : MuErr) : (x.setMu k m).mu k = m := by
  simp [Well.mu, Well.setMu]

theorem cisternWrite_eq (s : State) (w k a : Nat) (l : Line) : cisternWrite s w k a l =
    let t := s.putLine (cisternAddr w k (64 * a)) l 0
    let m := (s.well w).mu k
    if m.wb.contains a then t.setWell w ((s.well w).setMu k { m with wb := m.wb.filter (· != a) }) else t := rfl

/-- The words of an MU that wait for write-back, once one of them has been written. -/
theorem cisternWrite_wb (s : State) (w k a : Nat) (l : Line) :
    (((cisternWrite s w k a l).well w).mu k).wb = (((s.well w).mu k).wb).filter (· != a) := by
  rw [cisternWrite_eq]
  dsimp only
  split
  · rw [State.well_setWell_same, Well.mu_setMu]
  case isFalse habsent =>
    have hkept : (s.putLine (cisternAddr w k (64 * a)) l 0).well w = s.well w := rfl
    have hne (b : Nat) (hb : b ∈ ((s.well w).mu k).wb) : (b != a) = true :=
      bne_iff_ne.2 fun hba => habsent (List.contains_iff_mem.2 (hba ▸ hb))
    rw [hkept, List.filter_eq_self.2 hne]

theorem cisternWrite_delta (s : State) (w k a : Nat) (l : Line) :
    (cisternWrite s w k a l).delta (cisternAddr w k (64 * a)) = 0 := by
  have hput := delta_putLine s (cisternAddr w k (64 * a)) l 0
  rw [cisternWrite_eq]
  dsimp only
  split
  · exact hput
  · exact hput

theorem cisternWriteback_corrected {s : State} {w k a : Nat} {l : Line}
    (h : decodeLine (s.mem.line (cisternAddr w k (64 * a))) (s.delta (cisternAddr w k (64 * a))) = .corrected l) :
    cisternWriteback s w k a = cisternWrite s w k a l := by
  rw [cisternWriteback, h]

/-- The oldest corrected word whose bank is idle is written back. -/
theorem cisternEccWriteback_oldest {s : State} {w : WellIx} {k : Fin 48} {a : Nat} {l : Line}
    (hclk : s.clocksRun = true)
    (hfind : ((s.well w.val).mu k.val).wb.find? (fun a => !(s.well w.val).banks.contains (16 * k.val + a % 16)) = some a)
    (hdecode : decodeLine (s.mem.line (cisternAddr w.val k.val (64 * a))) (s.delta (cisternAddr w.val k.val (64 * a)))
      = .corrected l) :
    exec (.cisternEccWriteback w k) s = .next (cisternWrite s w.val k.val a l) := by
  refine (clocked_run hclk _).trans ?_
  rw [hfind]
  exact congrArg _ (cisternWriteback_corrected hdecode)

/-- A cistern word is one line. -/
theorem Memory.byte_setCisternLine_other (m : Memory) {w k a b : Nat} (l : Line)
    (h : b / 64 ≠ cisternAddr w k (64 * a) / 64) :
    (m.setLine (cisternAddr w k (64 * a)) l).byte b = m.byte b := by
  have haddr := cisternAddr_line w k a
  exact Memory.byte_setLine_other _ _ _ _ (by omega)

/-! ### Spill (R231 to R233) -/

/-- Device address of the page of region word j. -/
def SqEntry.page (x : SqEntry) (j : Nat) : Nat := x.ovfBase.toNat + j % Nat.max 1 x.cap / 62 * 4096

theorem regionAddr_eq (x : SqEntry) (j : Nat) : regionAddr x j = x.page j + j % Nat.max 1 x.cap % 62 * 64 := rfl
theorem regionSbAddr_eq (x : SqEntry) (j : Nat) :
    regionSbAddr x j = x.page j + 62 * 64 + 2 * (j % Nat.max 1 x.cap % 62) := rfl

theorem pageStart_byte_other (s : State) (x : SqEntry) (j : Nat) {b : Nat}
    (h : j % Nat.max 1 x.cap % 62 = 0 → b / 64 ≠ (x.page j + 63 * 64) / 64) :
    (pageStart s x j).mem.byte b = s.mem.byte b := by
  unfold pageStart
  dsimp only
  split
  case isTrue hfirst => exact dramWrite_byte_other s _ _ (h hfirst)
  case isFalse => rfl

theorem hideDram_pageStart (s : State) (x : SqEntry) (j : Nat) : (pageStart s x j).hideDram = s.hideDram := by
  unfold pageStart
  dsimp only
  split
  · exact hideDram_dramWrite ..
  · rfl

/-- The word wd and its sideband are written in the region of entry x (R233). -/
def spillStore (s : State) (x : SqEntry) (wd : Word) : State :=
  dramWrite16 (pageStart (dramWrite s (regionAddr x x.regW) wd.data fullMask) x x.regW)
    (regionSbAddr x x.regW) (sbBits wd.sb)

section
variable (s : State) (x : SqEntry) (wd : Word)

theorem hideDram_spillStore : (spillStore s x wd).hideDram = s.hideDram :=
  (hideDram_dramWrite ..).trans ((hideDram_pageStart ..).trans (hideDram_dramWrite ..))

/-- Lines beside the word, its sideband and, at the first word of a page, the last one of the page. -/
theorem spillStore_byte_other {b : Nat} (hword : b / 64 ≠ regionAddr x x.regW / 64)
    (hsb : b / 64 ≠ regionSbAddr x x.regW / 64)
    (hlast : x.regW % Nat.max 1 x.cap % 62 = 0 → b / 64 ≠ (x.page x.regW + 63 * 64) / 64) :
    (spillStore s x wd).mem.byte b = s.mem.byte b := by
  rw [spillStore, dramWrite16_byte_other _ _ hsb, pageStart_byte_other _ _ _ hlast, dramWrite_byte_other _ _ _ hword]

variable (halign : x.ovfBase.toNat % 4096 = 0)
include halign

/-- A page begins at a line, and its 64 slots are lines of their own. -/
theorem page_aligned (j : Nat) : x.page j % 4096 = 0 := by
  unfold SqEntry.page
  omega

/-- The sideband and the last line of a page lie beside the word. -/
theorem spillStore_line : (spillStore s x wd).mem.line (regionAddr x x.regW) = wd.data := by
  have hpage := page_aligned x halign x.regW
  have hslot : x.regW % Nat.max 1 x.cap % 62 < 62 := Nat.mod_lt _ (by decide)
  have haddr := regionAddr_eq x x.regW
  have hsbAddr := regionSbAddr_eq x x.regW
  rw [Memory.line_congr (m := (dramWrite s (regionAddr x x.regW) wd.data fullMask).mem) fun i hi => ?_,
    dramWrite_line_full s wd.data (by omega)]
  rw [spillStore, dramWrite16_byte_other _ _ (by omega), pageStart_byte_other _ _ _ (fun _ => by omega)]

/-- The two bytes of the sideband, lowest first. -/
theorem spillStore_sb : (spillStore s x wd).mem.byte (regionSbAddr x x.regW) = BitVec.ofNat 8 (sbBits wd.sb)
    ∧ (spillStore s x wd).mem.byte (regionSbAddr x x.regW + 1) = BitVec.ofNat 8 (sbBits wd.sb / 256) := by
  have hpage := page_aligned x halign x.regW
  have hslot : x.regW % Nat.max 1 x.cap % 62 < 62 := Nat.mod_lt _ (by decide)
  have hsbAddr := regionSbAddr_eq x x.regW
  have hbyte {k : Nat} (hk : k < 2) := dramWrite16_byte
    (pageStart (dramWrite s (regionAddr x x.regW) wd.data fullMask) x x.regW) (k := k) (sbBits wd.sb)
    (show regionSbAddr x x.regW % 64 < 63 by omega) hk
  exact ⟨(hbyte (k := 0) (by decide)).trans (ofNat_laneOf ..),
    (hbyte (k := 1) (by decide)).trans ((ofNat_laneOf ..).trans (by rw [Nat.shiftRight_eq_div_pow]))⟩

end

/-- What `SPILL_WRITE` leaves: the word and its sideband stored, and counted as in the region. -/
def spilled (s : State) (w e : Nat) (wd : Word) (rest : List Word) : State :=
  sqPut (event (spillStore s (s.sq w e) wd) 4 (queueNo w e) 4) w e
    { s.sq w e with staging := rest, regW := (s.sq w e).regW + 1 }

theorem spilled_mem (s : State) (w e : Nat) (wd : Word) (rest : List Word) :
    (spilled s w e wd rest).mem = (spillStore s (s.sq w e) wd).mem :=
  (sqPut_mem ..).trans (event_mem ..)

theorem spilled_sq (s : State) (w e : Nat) (wd : Word) (rest : List Word) :
    let q := s.sq w e
    let y := (spilled s w e wd rest).sq w e
    y.staging = rest ∧ y.regW = q.regW + 1 ∧ y.w = q.w := by
  dsimp only
  rw [spilled, sqPut_sq]
  exact ⟨rfl, rfl, rfl⟩

/-- The parts that a word between a queue and its region may touch. -/
def regionParts : List Part := [.wells, .mem, .ecc, .mcs, .regs, .hi, .err, .pmu, .freeCtr]

theorem spilled_frame (s : State) (w e : Nat) (wd : Word) (rest : List Word) :
    (∀ v g, (v, g) ≠ (w, e) → (spilled s w e wd rest).sq v g = s.sq v g)
      ∧ Only regionParts s (spilled s w e wd rest) := by
  have hstore := hideDram_spillStore s (s.sq w e) wd
  have hevent := (hideDram_event (spillStore s (s.sq w e) wd) 4 (queueNo w e) 4).trans hstore
  refine ⟨fun v g h => ?_, ?_⟩
  · rw [spilled, sqPut_sq_other _ _ h, State.sq_of_wells (hideDram_wells hevent)]
  · exact ((hideDram_only hevent).mono (by simp [dramParts, regionParts])).trans
      ((sqPut_only _ _ _ _).mono (by simp [regionParts]))

/-- With room in the region, also for a further staged word, the oldest staged word is stored. -/
theorem spillWrite_room {s : State} {w : WellIx} {e : Fin 768} {wd : Word} {rest : List Word}
    (hclk : s.clocksRun = true) (hstaging : (s.sq w.val e.val).staging = wd :: rest)
    (hon : (s.sq w.val e.val).enabled = true) (hovf : (s.sq w.val e.val).ovf = true)
    (hroom : (s.sq w.val e.val).regionUsed < (s.sq w.val e.val).cap)
    (hnext : rest = [] ∨ (s.sq w.val e.val).regionUsed + 1 < (s.sq w.val e.val).cap) :
    exec (.spillWrite w e) s = .next (spilled s w.val e.val wd rest) := by
  have hfits : ¬ (!rest.isEmpty && decide ((s.sq w.val e.val).cap ≤ (s.sq w.val e.val).regionUsed + 1)) = true := by
    rcases hnext with h | h
    · simp [h]
    · simp [Nat.not_le.2 h]
  refine (clocked_run hclk _).trans ?_
  rw [hstaging]
  exact (if_pos (by simp [hon, hovf, hroom])).trans (congrArg _ (if_neg hfits))

/-! ### Refill (R232, R233) -/

theorem ringEnter_sq_other (s : State) {w e v g : Nat} (wd : Word) (h : (v, g) ≠ (w, e)) :
    (ringEnter s w e wd).sq v g = s.sq v g := by
  obtain ⟨-, hsq, -⟩ := cisternWrite_frame s w (e / 16) (s.sq w e).ringPlace wd.data
  obtain ⟨-, -, hsq', -⟩ := setRingSb_frame
    (cisternWrite s w (e / 16) (s.sq w e).ringPlace wd.data) w (e / 16) (s.sq w e).ringPlace wd.sb
  rw [ringEnter_eq]
  dsimp only
  rw [State.sq_setSq_other _ _ h, hsq', hsq]

/-- Returning to NORMAL moves no pointer. -/
theorem sqSettle_reads (x : SqEntry) :
    (sqSettle x).t = x.t ∧ (sqSettle x).refills = x.refills ∧ (sqSettle x).w = x.w := by
  unfold sqSettle
  split
  · exact ⟨rfl, rfl, rfl⟩
  · exact ⟨rfl, rfl, rfl⟩

/-- A word read back enters the ring, with the reads `rest` still outstanding. -/
def refillEnter (s : State) (w e : Nat) (wd : Word) (rest : List Nat) : State :=
  let u := event (ringEnter s w e wd) 4 (queueNo w e) 5
  sqPut u w e (sqSettle { u.sq w e with refills := rest })

section
variable (s : State) (w e : Nat) (wd : Word) (rest : List Nat)

theorem refillEnter_stores :
    (refillEnter s w e wd rest).mem = s.mem.setLine (cisternAddr w (e / 16) (64 * (s.sq w e).ringPlace)) wd.data
      ∧ ringSb (refillEnter s w e wd rest) w (e / 16) (s.sq w e).ringPlace = wd.sb := by
  obtain ⟨hmem, hsb, -, -⟩ := ringEnter_frame s w e wd
  refine ⟨(sqPut_mem ..).trans ((event_mem ..).trans hmem), ?_⟩
  rw [refillEnter, ringSb_of_wells (sqPut_wells ..), ringSb_setSq, ringSb_of_wells (event_wells ..), hsb]

theorem refillEnter_sq : let q := s.sq w e
    let y := (refillEnter s w e wd rest).sq w e
    y.t = q.t + 1 ∧ y.refills = rest ∧ y.w = q.w := by
  obtain ⟨-, -, hsq, -⟩ := ringEnter_frame s w e wd
  obtain ⟨ht, hrefills, hw⟩ :=
    sqSettle_reads { (event (ringEnter s w e wd) 4 (queueNo w e) 5).sq w e with refills := rest }
  dsimp only
  rw [refillEnter, sqPut_sq]
  refine ⟨ht.trans ?_, hrefills, hw.trans ?_⟩
  · rw [State.sq_of_wells (event_wells ..), hsq]
  · rw [State.sq_of_wells (event_wells ..), hsq]

theorem refillEnter_frame : (∀ v g, (v, g) ≠ (w, e) → (refillEnter s w e wd rest).sq v g = s.sq v g)
    ∧ Only regionParts s (refillEnter s w e wd rest) := by
  obtain ⟨-, -, -, honly⟩ := ringEnter_frame s w e wd
  refine ⟨fun v g h => ?_, ?_⟩
  · rw [refillEnter, sqPut_sq_other _ _ h, State.sq_of_wells (event_wells ..), ringEnter_sq_other s wd h]
  · exact ((honly.mono (by simp [regionParts])).trans ((event_only _ _ _ _).mono (by simp [regionParts]))).trans
      ((sqPut_only _ _ _ _).mono (by simp [regionParts]))

end

/-- With a ring word free, the oldest region word is asked for. -/
theorem refillRead_free {s : State} {w : WellIx} {e : Fin 768} (hclk : s.clocksRun = true)
    (hon : (s.sq w.val e.val).enabled = true) (hspill : (s.sq w.val e.val).spilling = true)
    (hword : (s.sq w.val e.val).regR < (s.sq w.val e.val).regW)
    (hfree : (s.sq w.val e.val).t + (s.sq w.val e.val).refills.length - (s.sq w.val e.val).f
      < (s.sq w.val e.val).size) :
    exec (.refillRead w e) s = .next (s.setSq w.val e.val { s.sq w.val e.val with
      refills := (s.sq w.val e.val).refills ++ [(s.sq w.val e.val).regR], regR := (s.sq w.val e.val).regR + 1 }) :=
  (clocked_run hclk _).trans (if_pos (by simp [hon, hspill, hword, hfree]))

/-- The state once the line of region word j and the line of its sideband have been read. -/
def regionRead (s : State) (x : SqEntry) (j : Nat) : State :=
  (dramRead (dramRead s (regionAddr x j)).2.2 (regionSbAddr x j / 64 * 64)).2.2

theorem hideDram_regionRead (s : State) (x : SqEntry) (j : Nat) : (regionRead s x j).hideDram = s.hideDram :=
  (hideDram_dramRead ..).trans (hideDram_dramRead ..)

theorem regionRead_mem (s : State) (x : SqEntry) (j : Nat) : (regionRead s x j).mem = s.mem :=
  (dramRead_mem ..).trans (dramRead_mem ..)

/-- With both lines clean the word enters the ring with its stored sideband. -/
theorem refillLanded_clean {s : State} {w : WellIx} {e : Fin 768} {j : Nat} {rest : List Nat}
    (hclk : s.clocksRun = true) (hrefills : (s.sq w.val e.val).refills = j :: rest)
    (hword : (dramRead s (regionAddr (s.sq w.val e.val) j)).2.1 = false)
    (hsb : (dramRead (dramRead s (regionAddr (s.sq w.val e.val) j)).2.2
      (regionSbAddr (s.sq w.val e.val) j / 64 * 64)).2.1 = false) :
    exec (.refillLanded w e) s = .next (refillEnter (regionRead s (s.sq w.val e.val) j) w.val e.val
      ⟨(dramRead s (regionAddr (s.sq w.val e.val) j)).1,
        sbOf (laneOf (dramRead (dramRead s (regionAddr (s.sq w.val e.val) j)).2.2
          (regionSbAddr (s.sq w.val e.val) j / 64 * 64)).1.toNat 16 (regionSbAddr (s.sq w.val e.val) j % 64 / 2))⟩
      rest) := by
  refine (clocked_run hclk _).trans ?_
  rw [hrefills]
  exact if_neg (by simp [hword, hsb])

/-- Settles O23: each write of a register is one new value of its entry; a spill and a refill are the bytes that they
store and one new value of the entry, and a write-back is one cistern word. -/
theorem queueRegistersSpillAndRefill : Obligations.QueueRegistersSpillAndRefill := by
  intro s w e hclk hwell
  refine ⟨?enables, ?enabled, ?locked, ?sem, ?spill, ?read, ?landed, ?writeback⟩
  case enables =>
    intro cfg hopen hen hoff
    refine ⟨_, (clocked_if hclk hwell).trans (congrArg _ (sqCfgWrite_enables hopen hen hoff)), ?_⟩
    dsimp only
    rw [sqPut_sq]
    exact ⟨rfl, rfl, rfl, rfl, rfl, rfl, sqPut_frame ..⟩
  case enabled =>
    intro cfg hopen hon
    refine ⟨_, (clocked_if hclk hwell).trans (congrArg _ (sqCfgWrite_enabled hopen hon cfg)), ?_⟩
    dsimp only
    rw [sqPut_sq]
    exact ⟨rfl, rfl, rfl, rfl, rfl, sqPut_frame ..⟩
  case locked =>
    exact fun cfg hlocked => (clocked_if hclk hwell).trans (congrArg _ (sqCfgWrite_locked hlocked cfg))
  case sem =>
    intro v hsem
    refine ⟨_, (clocked_if hclk hwell).trans (congrArg _ (sqSemWrite_sem hsem v)), ?_⟩
    dsimp only
    rw [sqPut_sq]
    exact ⟨rfl, rfl, sqPut_frame ..⟩
  case spill =>
    intro wd rest hstaging hon hovf hroom hnext
    obtain ⟨hstaged, hregW, hw⟩ := spilled_sq s w.val e.val wd rest
    obtain ⟨hothers, honly⟩ := spilled_frame s w.val e.val wd rest
    refine ⟨_, spillWrite_room hclk hstaging hon hovf hroom hnext, hstaged, hregW, hw, hothers, ?_, ?_, honly⟩
    · intro halign
      rw [spilled_mem]
      exact ⟨spillStore_line s _ wd halign, spillStore_sb s _ wd halign⟩
    · intro b hword hsb hlast
      rw [spilled_mem]
      exact spillStore_byte_other s _ wd hword hsb hlast
  case read => exact refillRead_free hclk
  case landed =>
    intro j rest hrefills hword sl hsb
    have hread := hideDram_regionRead s (s.sq w.val e.val) j
    have hsq := State.sq_of_wells (hideDram_wells hread)
    let sb := sbOf (laneOf sl.1.toNat 16 (regionSbAddr (s.sq w.val e.val) j % 64 / 2))
    let wd : Word := ⟨(dramRead s (regionAddr (s.sq w.val e.val) j)).1, sb⟩
    obtain ⟨hmem, hring⟩ := refillEnter_stores (regionRead s (s.sq w.val e.val) j) w.val e.val wd rest
    obtain ⟨ht, hrest, hw⟩ := refillEnter_sq (regionRead s (s.sq w.val e.val) j) w.val e.val wd rest
    obtain ⟨hothers, honly⟩ := refillEnter_frame (regionRead s (s.sq w.val e.val) j) w.val e.val wd rest
    rw [hsq] at hmem hring ht hw
    rw [regionRead_mem] at hmem
    refine ⟨_, refillLanded_clean hclk hrefills hword hsb, hring, ht, hrest, hw,
      fun v g h => (hothers v g h).trans (hsq v g), ?_, fun b hb => ?_,
      ((hideDram_only hread).mono (by simp [dramParts])).trans honly⟩
    · rw [hmem]
      exact Memory.line_setLine ..
    · rw [hmem]
      exact Memory.byte_setCisternLine_other _ _ hb
  case writeback =>
    intro k a hfind l hdecode
    obtain ⟨hmem, -, honly⟩ := cisternWrite_frame s w.val k.val a l
    refine ⟨_, cisternEccWriteback_oldest hclk hfind hdecode, ?_, cisternWrite_delta .., ?_, fun b hb => ?_, honly⟩
    · rw [hmem, Memory.line_setLine]
    · rw [cisternWrite_wb]
      simp
    · rw [hmem]
      exact Memory.byte_setCisternLine_other _ _ hb

end Sys2Proof.Machine
end

section
/-! A schedule word moves on under REP, and the words of the CUs and memory units issue (R197, R200, R202 to R213). -/

namespace Sys2Proof.Machine

/-! ### The unit moves on (R197, R200) -/

/-- The unit after an issue of a word with REP `rep`: again the same word, or past it. -/
def FUnit.moveOn (u : FUnit) (rep : Nat) : FUnit :=
  if u.reps < rep then { u with reps := u.reps + 1 }
  else { u with reps := 0, loops := (stepPast u.loops u.pc 512 5).1, pc := (stepPast u.loops u.pc 512 5).2 }

theorem unitNext_eq (s : State) (w f rep : Nat) :
    unitNext s w f rep = s.setWell w ((s.well w).setUnit f (((s.well w).unit f).moveOn rep)) := by
  unfold unitNext FUnit.moveOn
  dsimp only
  split <;> rfl

section
variable {u : FUnit} {rep : Nat}

theorem FUnit.moveOn_again (h : u.reps < rep) : u.moveOn rep = { u with reps := u.reps + 1 } := if_pos h

theorem FUnit.moveOn_past (h : rep ≤ u.reps) : u.moveOn rep =
    { u with reps := 0, loops := (stepPast u.loops u.pc 512 5).1, pc := (stepPast u.loops u.pc 512 5).2 } :=
  if_neg (Nat.not_lt.2 h)

/-- Moving on leaves the pipeline, the inputs, the registers, the predicates and the switch wait. -/
theorem FUnit.moveOn_keeps (u : FUnit) (rep : Nat) :
    (u.moveOn rep).results = u.results ∧ (u.moveOn rep).ports = u.ports ∧ (u.moveOn rep).regs = u.regs
      ∧ (u.moveOn rep).preds = u.preds ∧ (u.moveOn rep).wait = u.wait := by
  unfold FUnit.moveOn
  split <;> exact ⟨rfl, rfl, rfl, rfl, rfl⟩

end

/-- A unit of a state in which one unit has a new value. -/
theorem unit_setWell_setUnit_other (s : State) {w f w' g : Nat} (u : FUnit) (h : (w', g) ≠ (w, f)) :
    ((s.setWell w ((s.well w).setUnit f u)).well w').unit g = (s.well w').unit g := by
  by_cases hw : w' = w
  · subst hw
    rw [State.well_setWell_same, Well.unit_setUnit_other _ _ fun hg => h (by rw [hg])]
  · rw [State.well_setWell_other _ _ hw]

/-- Settles O13: moving on is one new value of the unit, by the step past its pc after the last repetition. -/
theorem repeatedWordIssuesThenMovesOn : Obligations.RepeatedWordIssuesThenMovesOn := by
  intro s w f rep u v
  have hv : v = u.moveOn rep := by
    simp only [v, unitNext_eq, State.well_setWell_same, Well.unit_setUnit, u]
  refine ⟨?again, ?past, ?iterate, ?others, ?frame⟩
  case again => exact fun hlt => hv.trans (FUnit.moveOn_again hlt)
  case past =>
    intro hle hnone
    rw [hv, FUnit.moveOn_past hle, stepPast_none 512 5 hnone]
  case iterate =>
    intro i l hle hat hl hleft
    rw [hv, FUnit.moveOn_past hle, stepPast_again 512 4 hat hl hleft]
  case others =>
    intro w' g hne
    rw [unitNext_eq]
    exact unit_setWell_setUnit_other s _ hne
  case frame =>
    rw [unitNext_eq]
    exact only_wells s _

/-! ### Writes of one unit and of the statistics of its CU -/

theorem Well.setUnit_setUnit (x : Well) (f : Nat) (u v : FUnit) : (x.setUnit f u).setUnit f v = x.setUnit f v :=
  congrArg (fun m => ({ x with units := m } : Well)) (SMap.set_set x.units f u v)

@[simp] theorem Well.unit_setCuStats (x : Well) (k g : Nat) (b : StatBlk) :
    (x.setCuStats k b).unit g = x.unit g := (rfl)

theorem Well.setUnit_setCuStats (x : Well) (f k : Nat) (u : FUnit) (b : StatBlk) :
    (x.setCuStats k b).setUnit f u = (x.setUnit f u).setCuStats k b := (rfl)

/-- Well w with unit k and its statistics at new values. -/
def State.setCu (s : State) (w k : Nat) (u : FUnit) (b : StatBlk) : State :=
  s.setWell w (((s.well w).setUnit k u).setCuStats k b)

section
variable (s : State) (w k : Nat) (u : FUnit) (b : StatBlk)

@[simp] theorem State.well_setCu : (s.setCu w k u b).well w = ((s.well w).setUnit k u).setCuStats k b :=
  State.well_setWell_same ..

theorem State.unit_setCu : ((s.setCu w k u b).well w).unit k = u := by simp

/-- Every other unit of the well, every other well and every other part of the state is as it was. -/
theorem setCu_frame : (∀ g, g ≠ k → ((s.setCu w k u b).well w).unit g = (s.well w).unit g)
    ∧ (∀ v, v ≠ w → (s.setCu w k u b).well v = s.well v) ∧ Only [.wells] s (s.setCu w k u b) := by
  refine ⟨fun g hg => ?_, setWell_frame ..⟩
  rw [State.well_setCu]
  exact Well.unit_setUnit_other _ _ hg

/-- The unit moves on from the value it was given. -/
theorem unitNext_setCu (rep : Nat) : unitNext (s.setCu w k u b) w k rep = s.setCu w k (u.moveOn rep) b := by
  rw [unitNext_eq, State.unit_setCu, State.well_setCu, State.setCu, State.setWell_setWell, Well.setUnit_setCuStats,
    Well.setUnit_setUnit]
  rfl

end

/-! ### Heads removed from inputs (R203) -/

/-- Removing heads touches the ports alone. -/
theorem FUnit.dropHeads_keeps (u : FUnit) (l : List Nat) : ∃ m, u.dropHeads l = { u with ports := m } := by
  induction l generalizing u with
  | nil => exact ⟨u.ports, rfl⟩
  | cons i r ih => exact ih (u.setPort i (u.port i).tail)

/-- Each listed input loses its head once. -/
theorem FUnit.port_dropHeads (u : FUnit) {l : List Nat} (hl : l.Nodup) (i : Nat) :
    (u.dropHeads l).port i = if l.contains i then (u.port i).tail else u.port i := by
  induction l generalizing u with
  | nil => rfl
  | cons j r ih =>
    obtain ⟨hj, hr⟩ := List.nodup_cons.1 hl
    have htail := ih (u.setPort j (u.port j).tail) hr
    refine htail.trans ?_
    by_cases hij : i = j
    · subst hij
      simp [hj]
    · simp [FUnit.port_setPort_other _ _ hij, hij]

theorem removedInputs_nodup (srcs : List Nat) : (removedInputs srcs).Nodup := List.nodup_range.filter _

/-! ### A CU word issues (R202 to R207) -/

/-- The sideband of the word at the head of a source's input. -/
def FUnit.headSideband (u : FUnit) (src : Nat) : Sideband :=
  match srcInput src with
  | some i => ((u.port i).headD Word.zero).sb
  | none => .zero

/-- The unit with a computed line and its sideband last in the pipeline, and the block-tag counter after it. -/
def FUnit.pushResult (u : FUnit) (op : CuOp) (c : CuF) (b : Sideband × BitVec 6) (l : Line) : FUnit :=
  { u with
    tagT := b.2
    results := u.results ++ [{
      due := op.latency c.fmt c.chn.toNat - 1
      dst := if c.dreg then some c.dst.toNat else none
      route := c.route, ch := c.ch, word := ⟨l, b.1⟩ }] }

/-- A computed word changes its unit and the statistics of the CU alone. -/
theorem cuResult_setCu (s : State) (w k : Nat) (op : CuOp) (c : CuF) (u : FUnit) (src : Sideband) (a : AluOut) :
    ∃ b, cuResult (s.setWell w ((s.well w).setUnit k u)) w k op c u src a
      = s.setCu w k (u.pushResult op c (blkSideband u c.blk src (s.well w).ctx) a.line) b := by
  unfold cuResult cuStatNote
  rw [State.well_setWell_same, State.setWell_setWell, Well.setUnit_setUnit]
  exact ⟨_, rfl⟩

/-- Removing heads leaves the block-tag counter. -/
theorem blkSideband_dropHeads (u : FUnit) (l : List Nat) (blk : BitVec 2) (src : Sideband) (ctx : Nat) :
    blkSideband (u.dropHeads l) blk src ctx = blkSideband u blk src ctx := by
  obtain ⟨m, hm⟩ := u.dropHeads_keeps l
  rw [hm]
  rfl

/-- The operation of a word on the sources that it names. -/
def FUnit.compute (u : FUnit) (op : CuOp) (c : CuF) : AluOut :=
  aluOp op c.fmt c.chn.toNat c.fn.toNat (sourceLine u c c.srca.toNat) (sourceLine u c c.srcb.toNat)
    (sourceLine u c c.srcc.toNat)

/-- The unit after one issue of a word other than `CVT`, in a well that runs context `ctx`. -/
def FUnit.computed (u : FUnit) (op : CuOp) (c : CuF) (ctx : Nat) : FUnit :=
  (u.dropHeads (removedInputs (usedSources op c))).pushResult op c
    (blkSideband u c.blk (u.headSideband c.srca.toNat) ctx) (u.compute op c).line

theorem FUnit.computed_port (u : FUnit) (op : CuOp) (c : CuF) (ctx i : Nat) :
    (u.computed op c ctx).port i
      = if (removedInputs (usedSources op c)).contains i then (u.port i).tail else u.port i :=
  u.port_dropHeads (removedInputs_nodup _) i

/-- A word computed adds its result, and touches neither registers nor predicates nor the unit's place. -/
theorem FUnit.computed_reads (u : FUnit) (op : CuOp) (c : CuF) (ctx : Nat) :
    (u.computed op c ctx).results = u.results ++ [{
        due := op.latency c.fmt c.chn.toNat - 1
        dst := if c.dreg then some c.dst.toNat else none
        route := c.route, ch := c.ch
        word := ⟨(u.compute op c).line, (blkSideband u c.blk (u.headSideband c.srca.toNat) ctx).1⟩ }]
      ∧ (u.computed op c ctx).regs = u.regs ∧ (u.computed op c ctx).preds = u.preds
      ∧ (u.computed op c ctx).wait = u.wait ∧ (u.computed op c ctx).reps = u.reps
      ∧ (u.computed op c ctx).pc = u.pc ∧ (u.computed op c ctx).loops = u.loops := by
  obtain ⟨m, hdrop⟩ := u.dropHeads_keeps (removedInputs (usedSources op c))
  rw [FUnit.computed, hdrop]
  exact ⟨rfl, rfl, rfl, rfl, rfl, rfl, rfl⟩

/-- Every operation but `CVT` issues in one way (R203 to R206). -/
theorem cuIssue_compute (s : State) (w k rep : Nat) {op : CuOp} (c : CuF) (hop : op ≠ .cvt) :
    ∃ b, cuIssue s w k rep op c = s.setCu w k (((s.well w).unit k).computed op c (s.well w).ctx) b := by
  let u := (s.well w).unit k
  let v := u.dropHeads (removedInputs (usedSources op c))
  have hissue : cuIssue s w k rep op c = cuResult (s.setWell w ((s.well w).setUnit k v)) w k op c v
      (u.headSideband c.srca.toNat) (u.compute op c) := by
    cases op
    case cvt => exact absurd rfl hop
    all_goals rfl
  obtain ⟨b, hcu⟩ := cuResult_setCu s w k op c v (u.headSideband c.srca.toNat) (u.compute op c)
  rw [blkSideband_dropHeads] at hcu
  exact ⟨b, hissue.trans hcu⟩

section
variable {s : State} {w f : Nat} {h : SwHead}

/-- A word that executes waits for what its operation waits for (R171). -/
theorem unitBlocks_cu {op : CuOp} {c : CuF} (hwait : ((s.well w).unit f).wait = none)
    (hruns : wordRuns ((s.well w).unit f) h = true) :
    unitBlocks s w f h (.cu op c) = cuBlocks s w f h.rep.toNat op c := by
  simp [unitBlocks, hwait, hruns]

theorem unitBlocks_mem {m : MemF} (hwait : ((s.well w).unit f).wait = none)
    (hruns : wordRuns ((s.well w).unit f) h = true) : unitBlocks s w f h (.mem m) = memBlocks s w f m := by
  simp [unitBlocks, hwait, hruns]

end

/-- A CU word that nothing blocks makes one issue and moves on. -/
theorem cuWord_issues {s : State} {w : WellIx} {k : Fin 48} {h : SwHead} {op : CuOp} {c : CuF}
    (hready : CuReady s w k h op c) (name : String) :
    clocked s (unitRow s w.val k.val h (.cu op c) name)
      = .next (unitNext (cuIssue s w.val k.val h.rep.toNat op c) w.val k.val h.rep.toNat) := by
  obtain ⟨hclk, hrun, hok, hwait, hruns, hfree⟩ := hready
  exact (unitRow_issue hclk hrun hok ((unitBlocks_cu hwait hruns).trans hfree) name).trans
    (congrArg _ (executes_branch hwait hruns))

/-- The state after a compute word. -/
theorem cuIssued_compute (s : State) (w : WellIx) (k : Fin 48) (h : SwHead) {op : CuOp} (c : CuF) (hop : op ≠ .cvt)
    (hwait : ((s.well w.val).unit k.val).wait = none) :
    CuIssued s w k h op c (unitNext (cuIssue s w.val k.val h.rep.toNat op c) w.val k.val h.rep.toNat) := by
  let v := ((s.well w.val).unit k.val).computed op c (s.well w.val).ctx
  obtain ⟨b, hissue⟩ := cuIssue_compute s w.val k.val h.rep.toNat c hop
  obtain ⟨hresults, hregs, hpreds, hkept, hreps, hpc, hloops⟩ :=
    ((s.well w.val).unit k.val).computed_reads op c (s.well w.val).ctx
  obtain ⟨hresults', hports', hregs', hpreds', hwait'⟩ := v.moveOn_keeps h.rep.toNat
  obtain ⟨hunits, hwells, honly⟩ := setCu_frame s w.val k.val (v.moveOn h.rep.toNat) b
  unfold CuIssued
  dsimp only
  rw [hissue, unitNext_setCu, State.unit_setCu]
  refine ⟨hresults'.trans hresults, fun i => ?ports, hregs'.trans hregs, hpreds'.trans hpreds,
    hwait'.trans (hkept.trans hwait), ?again, ?past, hunits, ?slices, ?queues, ?flights, ?cross, ?run, ?frozen, ?ctx,
    hwells, honly⟩
  case ports =>
    exact (congrArg (SMap.get (fun _ => []) · i) hports').trans (FUnit.computed_port ..)
  case again =>
    intro hlt
    rw [FUnit.moveOn_again (hreps.trans_lt hlt)]
    exact ⟨congrArg (· + 1) hreps, hpc⟩
  case past =>
    intro hle
    rw [FUnit.moveOn_past (hle.trans_eq hreps.symm), hloops, hpc]
    exact ⟨rfl, rfl⟩
  all_goals rw [State.well_setCu]; rfl

/-- A ready word of any operation but `CVT` completes as one issue. -/
theorem computeWord_completes {i : Instr} {s : State} {w : WellIx} {k : Fin 48} {h : SwHead} {op : CuOp} {c : CuF}
    {name : String} (hexec : exec i s = clocked s (unitRow s w.val k.val h (.cu op c) name)) (hop : op ≠ .cvt)
    (hready : CuReady s w k h op c) : Completes i s (CuIssued s w k h op c) := by
  have hissues := hexec.trans (cuWord_issues hready name)
  obtain ⟨-, -, -, hwait, -, -⟩ := hready
  exact ⟨_, hissues, cuIssued_compute s w k h c hop hwait⟩

/-- Settles O14: the twenty operations issue in one way, and one issue is one new value of the unit and of the
statistics of its CU. That the result holds the strokes still to go, one less than the latency, is the model's coding
of the pipeline (log 18). -/
theorem computeWordsIssue : Obligations.ComputeWordsIssue := by
  refine ⟨?mov, ?add, ?sub, ?mul, ?fma, ?min, ?max, ?cmp, ?sel, ?and, ?or, ?xor, ?shl, ?shr, ?exp2, ?log2, ?rcp, ?rsq,
    ?rsum, ?rmax⟩
  all_goals exact fun s w k h c hready => computeWord_completes rfl nofun hready

/-! ### `CVT` (R207) -/

/-- One issue of `CVT` changes its unit and the statistics of the CU alone: one phase further, and one result more
where the issue writes a word. -/
theorem cvtIssue_setCu (s : State) (w k rep : Nat) (c : CuF) :
    let u := (s.well w).unit k
    ∃ v b, cvtIssue s w k rep c = s.setCu w k v b
      ∧ v.cvtPhase = (if u.reps = 0 then 0 else u.cvtPhase) + 1
      ∧ v.results.length = u.results.length + (if cvtWrites u rep c then 1 else 0) := by
  intro u
  obtain ⟨m, hdrop⟩ := u.dropHeads_keeps (if cvtReads u c then removedInputs [c.srca.toNat] else [])
  unfold cvtIssue
  dsimp only
  rw [hdrop]
  split
  case isTrue hfull =>
    have hwrites : cvtWrites u rep c = true := hfull
    obtain ⟨b, hcu⟩ := cuResult_setCu s w k .cvt c _ _ _
    refine ⟨_, b, hcu, rfl, ?_⟩
    rw [if_pos hwrites]
    exact List.length_append
  case isFalse hpart =>
    have hwrites : ¬ cvtWrites u rep c = true := hpart
    refine ⟨_, _, rfl, rfl, ?_⟩
    rw [if_neg hwrites]
    rfl

/-! ### `MEM` words without a read slot (R209 to R213) -/

theorem slotIssue_off (s : State) (w f : Nat) {r : RSlotF} (isB : Bool) (toW : Option WDest) (h : r.en = false) :
    slotIssue s w f r isB toW = s := by
  simp [slotIssue, h]

/-- A write slot alone takes the head of an input for the walk of AG-W. -/
theorem memIssue_storeInput (s : State) (w f : Nat) {m : MemF} (ha : m.a.en = false) (hb : m.b.en = false)
    (hw : m.w.en = true) (hq : m.w.q = false) (hsrc : m.w.src.toNat < 5) :
    let u := (s.well w).unit f
    memIssue s w f m = s.setWell w ((s.well w).setUnit f
      { (({ u with agW := (agIssue u.agW).2 } : FUnit).dropHeads [m.w.src.toNat]) with
        wPend := u.wPend ++ [⟨.walk ((agIssue u.agW).1.filterMap fun p => p.2.map fun a => (a, p.1)),
          (u.port m.w.src.toNat).headD Word.zero, false⟩] }) := by
  unfold memIssue
  simp only [slotIssue_off _ _ _ _ _ ha, slotIssue_off _ _ _ _ _ hb, hw, hsrc, if_true, decide_true, Bool.and_true,
    writeDest, hq, State.well_setWell_same, Well.unit_setUnit, State.setWell_setWell, Well.setUnit_setUnit]
  rfl

/-- Settles O16: each word is not blocked, so it issues, and its issue is the one update of its own branch. -/
theorem convertMemoryAndGeneratorWordsComplete : Obligations.ConvertMemoryAndGeneratorWordsComplete := by
  intro s w k h hclk hrun x
  refine ⟨?cvt, ?mem, ?agset⟩
  case cvt =>
    intro c hwait hruns hok hfree
    obtain ⟨v, b, hcvt, hphase, hresults⟩ := cvtIssue_setCu s w.val k.val h.rep.toNat c
    refine ⟨cuWord_issues ⟨hclk, hrun, hok, hwait, hruns, hfree⟩ "CVT", ?_, ?_⟩
    · rw [hcvt]
      exact only_wells s _
    · rw [hcvt, State.unit_setCu]
      exact ⟨hphase, hresults⟩
  case mem =>
    intro m f hwait hruns hok hfree
    have hissue := (unitRow_issue hclk hrun hok ((unitBlocks_mem hwait hruns).trans hfree) "MEM").trans
      (congrArg _ (executes_branch hwait hruns))
    exact ⟨hissue, fun a => congrArg (Memory.byte · a) (memIssue_keep s w.val f m).2,
      memIssue_storeInput s w.val f⟩
  case agset =>
    intro ag part v f u hwait hruns hok
    exact (unitRow_issue hclk hrun hok (ite_self none) "AGSET").trans (congrArg _ (executes_branch hwait hruns))

end Sys2Proof.Machine
end

section
/-! Updates of one stream: what they read as, and what they leave (R238, R266). -/

namespace Sys2Proof.Machine

theorem State.str_of_strs {s t : State} (h : t.strs = s.strs) (j : Nat) : t.str j = s.str j :=
  congrArg (SMap.get (fun _ => Stream.reset) · j) h

theorem State.setStr_setStr (s : State) (i : Nat) (x y : Stream) : (s.setStr i x).setStr i y = s.setStr i y :=
  congrArg (fun m => ({ s with strs := m } : State)) (SMap.set_set s.strs i x y)

/-- A piece of every stream that one stream's update leaves. -/
theorem State.piece_setStr {α : Type} (p : Stream → α) (s : State) (i : Nat) {x : Stream} (h : p x = p (s.str i))
    (j : Nat) : p ((s.setStr i x).str j) = p (s.str j) := by
  by_cases hj : j = i
  · rw [hj, State.str_setStr_same, h]
  · rw [State.str_setStr_other s x hj]

/-- One stream takes a new value, and then parts beside the streams may change. -/
theorem setStr_then {s u : State} {i : Nat} {x : Stream} {l : List Part} (h : Only l (s.setStr i x) u)
    (hl : l.contains .strs = false) :
    u.str i = x ∧ (∀ j, j ≠ i → u.str j = s.str j) ∧ Only (.strs :: l) s u := by
  have hstrs : u.strs = (s.setStr i x).strs := h .strs hl
  refine ⟨?_, fun j hj => ?_, ?_⟩
  · rw [State.str_of_strs hstrs, State.str_setStr_same]
  · rw [State.str_of_strs hstrs, State.str_setStr_other s x hj]
  · exact ((only_strs s _).mono (by simp)).trans (h.mono (by simp))

theorem setStr_frame (s : State) (i : Nat) (x : Stream) :
    (s.setStr i x).str i = x ∧ (∀ j, j ≠ i → (s.setStr i x).str j = s.str j)
      ∧ Only [.strs] s (s.setStr i x) :=
  setStr_then (Only.refl [] _) rfl

theorem bwCount_only (s : State) (i d : Nat) : Only [.pmu] s (bwCount s i d) := by
  unfold bwCount
  split
  · intro q hq
    cases q <;> simp_all [Part.same]
  · exact Only.refl _ s

end Sys2Proof.Machine
end

section
/-! A memory write bucket to DRAM (R240, R374, R377). -/

namespace Sys2Proof.Machine

/-- A line written whole carries the check bits of its data (R374). -/
theorem dramWrite_delta_full (s : State) (a : Nat) (new : Line) : (dramWrite s a new fullMask).delta a = 0 := by
  simp only [dramWrite, if_pos, State.delta, bwCount_ecc, event_ecc]
  exact delta_putLine ..

/-- Settles O33: a whole line is stored as it is, a masked one over what the line reads, and both within the line. -/
theorem memoryWriteBucketStoresItsBytes : Obligations.MemoryWriteBucketStoresItsBytes := by
  intro s a new mask ha
  refine ⟨?full, ?masked, fun b hb => dramWrite_byte_other s new mask hb⟩
  case full =>
    rintro rfl
    exact ⟨dramWrite_line_full s new ha, dramWrite_delta_full s a new⟩
  case masked =>
    intro hvalid j hj
    rw [dramWrite_byte s ha new mask hvalid, Nat.add_sub_cancel_left]
    simp [hj]

end Sys2Proof.Machine
end
section
/-! A stream is armed, cancelled and flushed (R257 to R260, R266). -/

namespace Sys2Proof.Machine

/-! ### Arming (R257 to R259) -/

theorem taskJoin_only (s : State) (t : Option Nat) (i : Nat) : Only [.dc] s (taskJoin s t i) := by
  unfold taskJoin
  split
  · exact Only.refl _ s
  · dsimp only
    split
    · exact Only.refl _ s
    · exact only_dc s _

section
variable {s : State} {i : Nat} {a : StrSlot} (hsem : semOk s a.cfg = true)
include hsem

theorem strArm_idle (hfree : (s.str i).shadow = none) (hidle : (s.str i).st = .idle) :
    (strArm s i a).2 = taskJoin (s.setStr i (strStart (s.str i) a)) (cfgTask a.cfg) i := by
  simp [strArm, hsem, hfree, hidle]

theorem strArm_busy (hfree : (s.str i).shadow = none) (hbusy : (s.str i).st ≠ .idle) :
    (strArm s i a).2 = taskJoin (s.setStr i { s.str i with shadow := some a }) (cfgTask a.cfg) i := by
  simp [strArm, hsem, hfree, hbusy]

/-- An arm without a task that finds both slots taken is logged and no more (R259). -/
theorem strArm_full (htaken : (s.str i).shadow ≠ none) (htask : cfgTask a.cfg = none) :
    (strArm s i a).2 = logOnly (s.setStr i { s.str i with ovr := true })
      (mkFault stDescOverrun 1 i (bits a.head 6 42 * 64) 0) := by
  simp [strArm, hsem, Option.isSome_iff_ne_none.2 htaken, htask, strReport, taskSettle]

end

theorem exec_pmpArm {s : State} (hclk : s.clocksRun = true) (p : PumpIx) (c : StreamIx) :
    exec (.pmpArm p c) s
      = .next (strArm s (strIx p c) ⟨(s.str (strIx p c)).head, (s.str (strIx p c)).cfg⟩).2 := clocked_run hclk _

/-! ### Cancel and flush (R260) -/

/-- Only a peer stream has a destination to tell of its end (R402). -/
theorem sendSterr_local {s : State} {i : Nat} (h : ∀ d r, (s.str i).fetched = d :: r → d.dkind ≠ 2)
    (status : Nat) : sendSterr s i status = s := by
  unfold sendSterr
  dsimp only
  split
  · rw [if_neg (by simp [h _ _ ‹_›])]
  · rfl

/-- The stream that is to be cancelled: it reads no further descriptor and has dropped nothing yet. -/
def Stream.cancelled (x : Stream) : Stream := { x with st := .cancelling, next := none, sunk := 0 }

/-- The stream that is to be cancelled once descriptor d is done: a frame's chroma is still read (R359). -/
def Stream.bounded (x : Stream) (d : FDesc) : Stream :=
  { x.cancelled with
    boundary := some d.k
    next := if d.viafi && !d.chroma && !chromaHeld x d then x.next else none }

section
variable {s : State} {i : Nat} {d : FDesc} {r : List FDesc} (hrun : (s.str i).st = .running)
  (hfetched : (s.str i).fetched = d :: r)
include hrun hfetched

theorem strCancel_sink (hcxl : d.cxl ≠ 1) (hkind : d.dkind ≠ 2) :
    strCancel s i false = s.setStr i (dropHeld (s.str i).cancelled fun _ => false) := by
  have hlocal : sendSterr s i stCancelled = s := sendSterr_local (fun e t he => by
    obtain ⟨rfl, -⟩ := List.cons.inj (hfetched.symm.trans he)
    exact hkind) _
  simp [strCancel, hrun, hfetched, hcxl, hlocal, Stream.cancelled]

theorem strCancel_boundary (hcxl : d.cxl = 1) :
    strCancel s i false = s.setStr i (dropHeld ((s.str i).bounded d) (atBoundary ((s.str i).bounded d))) := by
  simp [strCancel, hrun, hfetched, hcxl, Stream.bounded, Stream.cancelled]

end

theorem atBoundary_bounded (x : Stream) (d e : FDesc) :
    atBoundary (x.bounded d) e = true ↔ e.k = d.k ∨ (e.chroma = true ∧ e.k = d.k + 1) := by
  simp [atBoundary, Stream.bounded]

/-- A flush without a task behind the shadow slot empties it and cancels. -/
theorem strFlush_noTask {s : State} {i : Nat} (h : (s.str i).shadow.bind (fun a => cfgTask a.cfg) = none)
    (sink : Bool) : strFlush s i sink = strCancel (s.setStr i { s.str i with shadow := none }) i sink := by
  simp only [strFlush, h]

theorem exec_pmpCancel {s : State} (hclk : s.clocksRun = true) (p : PumpIx) (c : StreamIx) :
    exec (.pmpCancel p c) s = .next (strCancel s (strIx p c) false) := clocked_run hclk _
theorem exec_pmpFlush {s : State} (hclk : s.clocksRun = true) (p : PumpIx) (c : StreamIx) :
    exec (.pmpFlush p c) s = .next (strFlush s (strIx p c) false) := clocked_run hclk _

/-- Settles O30: each command is one new value of its stream, beside the list of its task or the log entry. -/
theorem streamArmCancelAndFlush : Obligations.StreamArmCancelAndFlush := by
  intro s p c hclk
  refine ⟨?idle, ?busy, ?full, ?sink, ?boundary, ?flush⟩
  case idle =>
    intro hsem hfree hidle
    refine ⟨_, (exec_pmpArm hclk p c).trans (congrArg _ (strArm_idle hsem hfree hidle)), ?_⟩
    obtain ⟨hstr, hothers, honly⟩ := setStr_then (taskJoin_only _ _ _) rfl
    rw [hstr]
    exact ⟨rfl, rfl, rfl, rfl, rfl, rfl, hothers, honly⟩
  case busy =>
    intro hsem hfree hbusy
    exact ⟨_, (exec_pmpArm hclk p c).trans (congrArg _ (strArm_busy hsem hfree hbusy)),
      setStr_then (taskJoin_only _ _ _) rfl⟩
  case full =>
    intro hsem htaken htask
    refine ⟨_, (exec_pmpArm hclk p c).trans (congrArg _ (strArm_full hsem htaken htask)), ?_⟩
    obtain ⟨hstr, hothers, honly⟩ := setStr_then (logEntry_only _ _ _ _ _) rfl
    exact ⟨hstr, hothers, logEntry_logged s _ _ _ _ _ rfl rfl, honly⟩
  case sink =>
    intro d r hrun hfetched hcxl hkind
    refine ⟨_, (exec_pmpCancel hclk p c).trans (congrArg _ (strCancel_sink hrun hfetched hcxl hkind)), ?_⟩
    obtain ⟨hstr, hothers, honly⟩ := setStr_frame s (strIx p c) _
    rw [hstr]
    exact ⟨rfl, List.filter_false _, rfl, rfl, rfl, rfl, hothers, honly⟩
  case boundary =>
    intro d r hrun hfetched hcxl
    refine ⟨_, (exec_pmpCancel hclk p c).trans (congrArg _ (strCancel_boundary hrun hfetched hcxl)), ?_⟩
    obtain ⟨hstr, hothers, honly⟩ := setStr_frame s (strIx p c) _
    rw [hstr]
    have hd : d ∈ (s.str (strIx p c)).fetched := by simp [hfetched]
    exact ⟨rfl, rfl, List.mem_filter.2 ⟨hd, (atBoundary_bounded _ d d).2 (.inl rfl)⟩,
      fun e he => (atBoundary_bounded _ d e).1 (List.mem_filter.1 he).2, hothers, honly⟩
  case flush =>
    intro d r hrun htask hfetched hcxl hkind
    have hstr := State.str_setStr_same s (strIx p c) { s.str (strIx p c) with shadow := none }
    have hcancel := strCancel_sink ((congrArg Stream.st hstr).trans hrun)
      ((congrArg Stream.fetched hstr).trans hfetched) hcxl hkind
    rw [hstr, State.setStr_setStr] at hcancel
    refine ⟨_, (exec_pmpFlush hclk p c).trans (congrArg _ ((strFlush_noTask htask _).trans hcancel)), ?_⟩
    obtain ⟨hnew, hothers, honly⟩ := setStr_frame s (strIx p c) _
    rw [hnew]
    exact ⟨rfl, List.filter_false _, rfl, hothers, honly⟩

end Sys2Proof.Machine
end

section
/-! A stream's next descriptor is read and checked (R248, R249, R255, R262, R263). -/

namespace Sys2Proof.Machine

/-! ### The line of the descriptor -/

@[simp] theorem noteCorrected_ecc (s : State) (ch a : Nat) (inCheck : Bool) :
    (noteCorrected s ch a inCheck).ecc = s.ecc := by
  simp [noteCorrected, noteError, logOnly, apply_ite State.ecc]

theorem dramRead_ecc (s : State) (a : Nat) (count : Bool) : (dramRead s a count).2.2.ecc = s.ecc := by
  unfold dramRead
  dsimp only
  split
  · split <;> simp [apply_ite State.ecc, noteUncorrectable, noteError, logOnly]
  · simp

/-- A read of DRAM moves the controllers, and what counts and logs it; no byte and no check bit. -/
theorem dramRead_only (s : State) (a : Nat) (count : Bool) :
    Only [.mcs, .regs, .hi, .err, .pmu, .freeCtr] s (dramRead s a count).2.2 := by
  have hhide := hideDram_dramRead s a count
  have hmem := dramRead_mem s a count
  have hecc := dramRead_ecc s a count
  intro q hq
  simp only [State.hideDram, State.mk.injEq] at hhide
  cases q <;> simp_all [Part.same]

/-- A descriptor that stands in DRAM and is wanted arrives as its line reads (R262). -/
theorem exec_descriptorCheck_dram {s : State} {p : PumpIx} {c : StreamIx} {a : Nat} (hclk : s.clocksRun = true)
    (hwants : wantsDesc (s.str (strIx p c)) = true) (hfree : descHeld s p.val c.val = false)
    (hnext : (s.str (strIx p c)).next = some a) (hdram : regionOf s a = .dram) (hclean : (dramRead s a).2.1 = false)
    (host : Line) (e : Bool) :
    exec (.descriptorCheck p c host e) s
      = .next (descArrive (dramRead s a).2.2 (strIx p c) a (lineWords (dramRead s a).1)) := by
  refine (clocked_run hclk _).trans ?_
  simp [hwants, hfree, hnext, hdram, lineRead, hclean]

/-! ### The check (R248, R249, R263) -/

/-- The stream that has taken descriptor d and goes on to the address that d names (R255). -/
def Stream.holding (x : Stream) (d : FDesc) : Stream :=
  { x with
    fetched := x.fetched ++ [{ d with
      rdDone := x.fill.isSome && d.skind == 0, chroma := d.viafi && chromaNext x }]
    nFetched := x.nFetched + 1
    next := if d.nextA = 0 || x.st == .cancelling then none else some d.nextA }

/-- The stream without a task that has faulted: it holds nothing and fills nothing. -/
def Stream.faulted (x : Stream) (status : Nat) : Stream :=
  { x with st := .faulting, code := status, next := none, sunk := 0, fill := none }

theorem Stream.holding_next {x : Stream} (hrun : x.st = .running) (d : FDesc) :
    (x.holding d).next = if d.nextA = 0 then none else some d.nextA := by
  simp [Stream.holding, hrun]

section
variable {s : State} {x : Stream} {i a : Nat} {dw : List W64} (hx : s.str i = x)
include hx

theorem descArrive_valid (hvalid : descStatus s x (FDesc.fresh x.nFetched a dw) = 0) :
    descArrive s i a dw = s.setStr i (x.holding (FDesc.fresh x.nFetched a dw)) := by
  subst hx
  simp only [descArrive, if_pos hvalid, Stream.holding]

theorem descArrive_invalid (hbad : descStatus s x (FDesc.fresh x.nFetched a dw) ≠ 0) (hbound : x.boundary = none)
    (hfill : x.fill = none) :
    descArrive s i a dw = strFaultOf (s.setStr i { x with next := none }) i
      (descStatus s x (FDesc.fresh x.nFetched a dw)) a 0 (FDesc.fresh x.nFetched a dw).queues := by
  subst hx
  simp [descArrive, if_neg hbad, hbound, hfill]

/-- A running stream without a task that holds no descriptor faults with nothing to drop and nothing to fill. -/
theorem strFaultOf_bare (hrun : x.st = .running) (htask : x.task = none) (hbare : x.fetched = [])
    (status addr off : Nat) (at_ : List (Nat × Nat)) :
    ∃ pipe, strFaultOf s i status addr off at_
      = strReport (s.setStr i (x.faulted status)) i status addr off none pipe := by
  subst hx
  have hlocal : sendSterr s i status = s := sendSterr_local (fun d r h => by simp [hbare] at h) _
  refine ⟨pipeOfQueues s (at_ ++ strQueues (s.str i)), ?_⟩
  simp [strFaultOf, hrun, htask, hbare, hlocal, dropHeld, Stream.faulted]

end

/-- Settles O31: a valid descriptor is one new value of the stream, an invalid one a fault of a stream that holds
nothing; the read of its line moves neither bytes nor check bits. -/
theorem descriptorsAreFetchedAndChecked : Obligations.DescriptorsAreFetchedAndChecked := by
  intro s p c a host e hclk
  dsimp only
  intro hwants hfree hnext hdram hclean hfill hrun hbound
  have hexec := exec_descriptorCheck_dram hclk hwants hfree hnext hdram hclean host e
  have hread := dramRead_only s a true
  have hstr (j : Nat) : (dramRead s a).2.2.str j = s.str j := State.str_of_strs (hread .strs rfl) j
  refine ⟨fun hvalid => ?valid, fun hbad htask hbare => ?invalid⟩
  case valid =>
    refine ⟨_, hexec.trans (congrArg _ (descArrive_valid (hstr _) hvalid)), ?_⟩
    obtain ⟨hnew, hothers, honly⟩ := setStr_frame (dramRead s a).2.2 (strIx p c)
      ((s.str (strIx p c)).holding (FDesc.fresh (s.str (strIx p c)).nFetched a (lineWords (dramRead s a).1)))
    rw [hnew]
    refine ⟨List.length_append, ?_, rfl, Stream.holding_next hrun _, fun j hj => (hothers j hj).trans (hstr j),
      (hread.mono (by simp)).trans (honly.mono (by simp))⟩
    simp [Stream.holding, FDesc.fresh]
  case invalid =>
    have hkeep := exec_keeps (c := .descriptorCheck p c host e) rfl s
    obtain ⟨pipe, hfault⟩ := strFaultOf_bare (State.str_setStr_same (dramRead s a).2.2 (strIx p c)
      { s.str (strIx p c) with next := none }) hrun htask hbare _ a 0 _
    rw [descArrive_invalid (hstr _) hbad hbound hfill, hfault] at hexec
    rw [hexec] at hkeep
    refine ⟨_, hexec, ?_, ?_, ?_, fun b => congrArg (Memory.byte · b) hkeep.2⟩
    all_goals rw [State.str_of_strs (strReport_strs_lk ..).1, State.str_setStr_same]; rfl

end Sys2Proof.Machine
end
section
/-! Registers that counting an event leaves, and DRAM in the address map (R40, R542 to R545). -/

namespace Sys2Proof.Machine

section
variable {o : Nat} (hcnt : ∀ n, o ≠ rPmuCnt n) (hovf : o ≠ rPmuOvf) (hctrl : o ≠ rPmuCtrl)
include hcnt hovf hctrl

theorem countUp_rd (s : State) (n : Nat) : (countUp s n).rd o = s.rd o := by
  have hsignal (u : State) (v : Nat) : (signalVec u v).rd o = u.rd o := State.rd_of_regs (signalVec_regs u v) o
  simp [countUp, apply_ite (State.rd · o), hsignal, State.rd_setFld, State.rd_setBit, hcnt, hovf, hctrl]

/-- Counting moves the counters, their overflow bits and their control register only. -/
theorem event_rd (s : State) (cls unit ev : Nat) : (event s cls unit ev).rd o = s.rd o := by
  unfold event
  split
  · refine foldl_part (State.rd · o) _ (fun u n => ?_) _ _
    split
    · exact countUp_rd hcnt hovf hctrl u n
    · rfl
  · rfl

end

theorem sramRegion_ne_dram (s : State) (a : Nat) : sramRegion s a ≠ .dram := by
  unfold sramRegion
  dsimp only
  (repeat' split) <;> exact nofun

theorem regionOf_dram_iff (s : State) (a : Nat) :
    regionOf s a = .dram ↔ a / 2 ^ 20 < s.fld rCapMemUsable 0 32 ∧ a < 0x2000000000 := by
  unfold regionOf
  split
  · exact iff_of_true rfl ‹_›
  · refine iff_of_false ?_ ‹_›
    (repeat' split) <;> simp [sramRegion_ne_dram]

theorem event_dram (s : State) (cls unit ev : Nat) {a : Nat} (h : regionOf s a = .dram) :
    regionOf (event s cls unit ev) a = .dram := by
  have hmem : (event s cls unit ev).rd rCapMemUsable = s.rd rCapMemUsable :=
    event_rd (fun n => by unfold rCapMemUsable rPmuCnt; omega) (by decide) (by decide) s cls unit ev
  rw [regionOf_dram_iff] at h ⊢
  rwa [State.fld, hmem]

end Sys2Proof.Machine
end

section
/-! The pump's ready context issues a read or a write bucket (R240, R250, R254, R256). -/

namespace Sys2Proof.Machine

theorem earliest_single (c t : Nat) : earliest [(c, t)] = some c := rfl

/-! ### Reads (R240, R250, R254) -/

theorem busyContexts_congr {s t : State} (h : ∀ j, (t.str j).st = (s.str j).st) (p : Nat) :
    busyContexts t p = busyContexts s p := by
  simp only [busyContexts, h]

theorem pumpReads_congr {s t : State} (hst : ∀ j, (t.str j).st = (s.str j).st)
    (hreads : ∀ j, (t.str j).reads = (s.str j).reads) (p : Nat) : pumpReads t p = pumpReads s p := by
  simp only [pumpReads, busyContexts_congr hst, hreads]

/-- The VALVE bit of a context decides nothing of what it reads. -/
theorem readWhy_valve (s : State) (p c : Nat) (b : Bool) :
    readWhy (s.setStr (64 * p + c) { s.str (64 * p + c) with valve := b }) p c = readWhy s p c := by
  have hreads := pumpReads_congr (t := s.setStr (64 * p + c) { s.str (64 * p + c) with valve := b })
    (State.piece_setStr Stream.st s _ rfl) (State.piece_setStr Stream.reads s _ rfl) p
  unfold readWhy
  rw [State.str_setStr_same, hreads]
  rfl

theorem readHeld_ready {s : State} {p c : Nat} (h : readWhy s p c = .ready) :
    readHeld s p c = s.setStr (64 * p + c) { s.str (64 * p + c) with valve := false } := by
  simp only [readHeld, h]
  rfl

/-- The one busy context of a pump, ready to read, issues. -/
theorem exec_pumpReadIssue_one {s : State} {p : PumpIx} {c : Nat} (hclk : s.clocksRun = true)
    (hbusy : busyContexts s p.val = [c]) (hready : readWhy s p.val c = .ready) :
    exec (.pumpReadIssue p) s
      = .next (issueRead (s.setStr (64 * p.val + c) { s.str (64 * p.val + c) with valve := false }) p.val c) := by
  refine (clocked_run hclk _).trans ?_
  simp [hbusy, readHeld_ready hready, readWhy_valve, hready, earliest_single]

theorem readMoved_reads (s : State) (i k n : Nat) (ends : Bool) :
    ((readMoved s i k n ends).str i).reads = (s.str i).reads := by
  rw [readMoved, State.str_setStr_same]
  rfl

/-- A bucket from DRAM is one outstanding read of the next bytes of the walk, at the end of the list (R240). -/
theorem issueRead_dram {s : State} {p c : Nat} {d : FDesc} (hnext : readNext (s.str (64 * p + c)) = some d)
    (hsrc : d.srcQueue = none) (hdest : d.destQueue = none) (hdram : regionOf s (readSpan d).1 = .dram) :
    ∃ deadline, ((issueRead s p c).str (64 * p + c)).reads = (s.str (64 * p + c)).reads
      ++ [⟨d.k, .mem, (readSpan d).1, (readSpan d).2, deadline, none, 0⟩] := by
  refine ⟨bucketDeadline (event s 1 (64 * p + c) 1) (64 * p + c) d, ?_⟩
  have hstr := State.str_of_strs (event_strs s 1 (64 * p + c) 1) (64 * p + c)
  simp only [issueRead, hnext, hsrc, hdest, issueAddrRead, event_dram s 1 _ 1 hdram]
  rw [readMoved_reads, addRead, State.str_setStr_same, hstr]

/-! ### Writes (R240, R250) -/

/-- What can be written is of a descriptor that the stream holds. -/
theorem writeNext_held {s : State} {i : Nat} {it : WriteItem} (h : writeNext s i = some it) :
    ∃ d r, (s.str i).fetched = d :: r := by
  cases hf : (s.str i).fetched with
  | nil => simp [writeNext, hf] at h
  | cons d r => exact ⟨d, r, rfl⟩

/-- The one busy context of a pump issues what it writes next. -/
theorem exec_pumpWriteIssue_one {s : State} {p : PumpIx} {c : Nat} {it : WriteItem} (hclk : s.clocksRun = true)
    (hbusy : busyContexts s p.val = [c]) (hask : askCredit s (64 * p.val + c) = s)
    (hsettled : writeSettle s (64 * p.val + c) = s) (hroom : pumpWrites s p.val < 32)
    (hnext : writeNext s (64 * p.val + c) = some it) :
    exec (.pumpWriteIssue p) s
      = .next (writeSettle (issueWrite s (64 * p.val + c) it) (64 * p.val + c)) := by
  obtain ⟨d, r, hd⟩ := writeNext_held hnext
  refine (clocked_run hclk _).trans ?_
  simp [hbusy, hask, hsettled, hnext, hd, earliest_single, Nat.not_le.2 hroom]

/-- Bytes for DRAM are one outstanding write, at the end of the list (R240). -/
theorem issueWrite_dram {s : State} {i a n : Nat} {d : FDesc} {r : List FDesc} (hd : (s.str i).fetched = d :: r)
    (hdram : regionOf s a = .dram) (hlive : taskAborted s (s.str i) = false) :
    let l := bytesLine a n (d.out % 2 ^ (8 * n))
    ∃ deadline, ((issueWrite s i (.bytes a n)).str i).writes
      = (s.str i).writes ++ [⟨d.k, .mem, a, l.1, l.2, deadline, d.addr, d.wrPos⟩] := by
  refine ⟨bucketDeadline (event s 1 i 2) i d, ?_⟩
  have hstr := State.str_of_strs (event_strs s 1 i 2) i
  simp only [issueWrite, hd, hlive, issueAddrWrite, event_dram s 1 i 2 hdram]
  simp [addWrite, Stream.updDesc, hstr]

end Sys2Proof.Machine
end
section
/-! A stream settles, and ends without a task (R255, R257, R261). -/

namespace Sys2Proof.Machine

/-! ### Descriptors leave the head (R255, R257) -/

/-- A stream without what its descriptors move as they are issued and completed. -/
def Stream.besideDescs (x : Stream) : Stream := { x with fetched := [], sigs := [], boundary := none, descs := 0 }

/-- Only the descriptors of stream i, as they are issued and completed, differ among the streams of two states. -/
def DescsOnly (i : Nat) (s t : State) : Prop :=
  (t.str i).besideDescs = (s.str i).besideDescs ∧ ∀ j, j ≠ i → t.str j = s.str j

theorem DescsOnly.trans {i : Nat} {s t u : State} (h : DescsOnly i s t) (h' : DescsOnly i t u) : DescsOnly i s u :=
  ⟨h'.1.trans h.1, fun j hj => (h'.2 j hj).trans (h.2 j hj)⟩

theorem DescsOnly.of_strs (i : Nat) {s t : State} (h : t.strs = s.strs) : DescsOnly i s t :=
  ⟨congrArg _ (State.str_of_strs h i), fun j _ => State.str_of_strs h j⟩

theorem DescsOnly.setStr (s : State) {i : Nat} {x : Stream} (h : x.besideDescs = (s.str i).besideDescs) :
    DescsOnly i s (s.setStr i x) :=
  ⟨(congrArg _ (State.str_setStr_same s i x)).trans h, fun _ hj => State.str_setStr_other s x hj⟩

theorem DescsOnly.keeps {i : Nat} {s t : State} (h : DescsOnly i s t) : (t.str i).st = (s.str i).st
    ∧ (t.str i).reads = (s.str i).reads ∧ (t.str i).sunk = (s.str i).sunk :=
  ⟨(congrArg Stream.st h.1 :), (congrArg Stream.reads h.1 :), (congrArg Stream.sunk h.1 :)⟩

theorem popHeads_descs (s : State) (i n : Nat) : DescsOnly i s (popHeads s i n) := by
  induction n generalizing s with
  | zero => exact .of_strs i rfl
  | succ n ih =>
    unfold popHeads
    dsimp only
    split
    · exact .of_strs i rfl
    · split
      · refine DescsOnly.trans (.setStr s ?_) (ih _)
        rfl
      · exact .of_strs i rfl

theorem strSignal_strs (s : State) (c : W32) : (strSignal s c).strs = s.strs := by
  unfold strSignal
  split
  · simp [semPort, semSignal, apply_ite State.strs]
  · rfl

theorem strComplete_descs (s : State) (i n : Nat) : DescsOnly i s (strComplete s i n) := by
  induction n generalizing s with
  | zero => exact .of_strs i rfl
  | succ n ih =>
    unfold strComplete
    dsimp only
    split
    · exact .of_strs i rfl
    · split
      · exact .of_strs i rfl
      · split
        · refine DescsOnly.trans (.setStr s ?_) (.trans (.of_strs i (strSignal_strs ..)) (ih _))
          rfl
        · refine DescsOnly.trans (.setStr s ?_) (ih _)
          rfl

/-- A stream that does not run has no end to come to here: only its descriptors move. -/
theorem strSettle_descs {s : State} {i : Nat} (h : (s.str i).st ≠ .running) : DescsOnly i s (strSettle s i) := by
  have hpop := popHeads_descs s i (s.str i).fetched.length
  unfold strSettle
  generalize popHeads s i (s.str i).fetched.length = u at hpop ⊢
  have hdone := strComplete_descs u i (u.str i).sigs.length
  have hst := (hpop.trans hdone).keeps.1
  simpa [strVisible, hst, h] using hpop.trans hdone

/-! ### The end of a stream (R257, R258, R261) -/

theorem heldMap_reads (s : State) (p : Nat) (f : Held → Held) :
    (heldMap s p f).strs = s.strs ∧ (heldMap s p f).dc.armq = s.dc.armq := by
  unfold heldMap
  constructor
  · refine foldl_part State.strs _ ?_ _ _
    exact fun _ _ => rfl
  · refine foldl_part (fun u : State => u.dc.armq) _ ?_ _ _
    exact fun _ _ => rfl

theorem heldStream_reads (s : State) (i bytes : Nat) :
    (heldStream s i bytes).strs = s.strs ∧ (heldStream s i bytes).dc.armq = s.dc.armq := by
  unfold heldStream
  constructor
  · refine foldl_part State.strs _ ?_ _ _
    exact fun _ _ => (heldMap_reads ..).1
  · refine foldl_part (fun u : State => u.dc.armq) _ ?_ _ _
    exact fun _ _ => (heldMap_reads ..).2

theorem strRelease_reads (s : State) (i : Nat) :
    (strRelease s i).strs = (s.setStr i { s.str i with resv := [] }).strs ∧ (strRelease s i).dc = s.dc := by
  unfold strRelease
  constructor
  · refine foldl_part State.strs _ ?_ _ _
    exact fun _ _ => rfl
  · refine foldl_part State.dc _ ?_ _ _
    exact fun _ _ => rfl

/-- The stream that has come to IDLE with a code. -/
def Stream.ended (x : Stream) (code : Nat) : Stream :=
  { x with st := .idle, code := code, fetched := [], sigs := [], reads := [], writes := [], next := none,
           boundary := none, fill := none, valve := false, resv := [] }

theorem dcArmNext_none {s : State} {i : Nat} {q : List (Nat × Nat × Nat)} (hq : s.dc.armq = q)
    (h : (q.find? fun e => e.1 == i) = none) : dcArmNext s i = s := by
  rw [dcArmNext, hq, h]

/-- What is left of the end of a stream once its places are given back: the stream, the held records of its task,
and the arm that waited for it. -/
theorem strEnd_bare {s : State} {i : Nat} {x : Stream} (hx : (strFree (strRelease s i) i).str i = x)
    (hresv : x.resv = []) (hshadow : x.shadow = none) (htask : x.task = none) (code : Nat) :
    strEnd s i code
      = dcArmNext (heldStream ((strFree (strRelease s i) i).setStr i (x.ended code)) i x.bytes) i := by
  subst hx
  simp only [strEnd, hshadow, htask, Stream.ended, hresv]

/-- A stream without a task, with nothing armed behind it, ends and stays idle. -/
theorem strEnd_str {s : State} {i : Nat} (hshadow : (s.str i).shadow = none) (htask : (s.str i).task = none)
    (harm : (s.dc.armq.find? fun q => q.1 == i) = none) (code : Nat) :
    (strEnd s i code).str i = (s.str i).ended code := by
  obtain ⟨hstrs, hdc⟩ := strRelease_reads s i
  have hfreed : (strFree (strRelease s i) i).str i = { s.str i with resv := [] } :=
    (State.str_of_strs hstrs i).trans (State.str_setStr_same ..)
  have hdcFree : (strFree (strRelease s i) i).dc = s.dc := hdc
  rw [strEnd_bare hfreed rfl hshadow htask]
  generalize strFree (strRelease s i) i = u at hdcFree ⊢
  obtain ⟨hheld, hqueue⟩ := heldStream_reads (u.setStr i ((s.str i).ended code)) i (s.str i).bytes
  have hnone := dcArmNext_none (hqueue.trans (congrArg Dc.armq hdcFree)) harm
  exact (congrArg (State.str · i) hnone).trans ((State.str_of_strs hheld i).trans (State.str_setStr_same ..))

end Sys2Proof.Machine
end

section
/-! Buckets return and complete, a cancel ends, and a rate window ends (R240, R253, R256, R257, R261, R267). -/

namespace Sys2Proof.Machine

section
variable {s u : State} {p : PumpIx} {c : StreamIx} {r : RdOut} {rest : List RdOut} {v : Nat}
  (hclk : s.clocksRun = true) (hreads : (s.str (strIx p c)).reads = r :: rest)
  (hout : readOutcome s r = some (0, v, u)) (hstrs : u.strs = s.strs) (htb : u.tb = s.tb) (hdue : s.dt ≤ r.deadline)
include hclk hreads hout hstrs htb hdue

/-- The oldest read has come in time and clean: it leaves the list, and its data is taken up or sunk. -/
theorem exec_readBucketReturn_clean :
    let t := (bwCount u (48 + p.val / 4) 0).setStr (strIx p c) { s.str (strIx p c) with reads := rest }
    exec (.readBucketReturn p c) s = .next (strSettle ((wanted (s.str (strIx p c)) r).elim
      (t.setStr (strIx p c) { t.str (strIx p c) with sunk := (t.str (strIx p c)).sunk + r.len })
      (absorb t (strIx p c) r · v)) (strIx p c)) := by
  have honly := bwCount_only u (48 + p.val / 4) 0
  have hstr := State.str_of_strs ((honly .strs rfl).trans hstrs) (strIx p c)
  have hdt : (bwCount u (48 + p.val / 4) 0).dt = s.dt := by
    rw [State.dt, honly .tb rfl, htb, State.dt]
  have hlate : ¬ r.deadline < (bwCount u (48 + p.val / 4) 0).dt := by omega
  refine (clocked_run hclk _).trans ?_
  simp only [hreads, hout, if_neg hlate, hstr]
  cases wanted (s.str (strIx p c)) r with
  | none => rfl
  | some d => simp

end

/-- An unblocked memory write in time becomes visible and leaves the list (R256). -/
theorem exec_writeBucketComplete_mem {s : State} {p : PumpIx} {c : StreamIx} {j : Nat} {w : WrOut}
    (hclk : s.clocksRun = true) (hj : (s.str (strIx p c)).writes[j]? = some w)
    (hfree : writeBlocked s (s.str (strIx p c)) j w = false) (hkind : w.kind = .mem) (hdue : s.dt ≤ w.deadline)
    (hclean : (memWrite s w).1 = 0) :
    exec (.writeBucketComplete p c j) s
      = .next (writeGone (memWrite s w).2 (strIx p c) j (popcount w.mask.toNat 64)) := by
  refine (clocked_run hclk _).trans ?_
  simp [hj, hfree, hkind, hclean, Nat.not_lt.2 hdue]

/-- A cancelling stream with nothing outstanding and nothing held ends (R261). -/
theorem exec_cancelComplete_cancelling {s : State} {p : PumpIx} {c : StreamIx} (hclk : s.clocksRun = true)
    (hreads : (s.str (strIx p c)).reads = []) (hwrites : (s.str (strIx p c)).writes = [])
    (hst : (s.str (strIx p c)).st = .cancelling) (hfetched : (s.str (strIx p c)).fetched = []) :
    exec (.cancelComplete p c) s
      = .next (strEnd (s.setStr (strIx p c) { s.str (strIx p c) with disc := (s.str (strIx p c)).sunk })
          (strIx p c) ((s.str (strIx p c)).fill.getD stCancelled)) := by
  refine (clocked_run hclk _).trans ?_
  simp [hreads, hwrites, hst, hfetched]

/-- The stream whose rate window has ended with `rate` at n words and a level (R253). -/
def Stream.sampled (x : Stream) (now level n rate : Nat) : Stream :=
  { x with tteRate := rate, tteLast := n, tteWin := now, tte := Nat.min (level * 1024 / Nat.max rate 1) (2 ^ 20 - 1) }

theorem exec_tteSample_window {s : State} {p : PumpIx} {c : StreamIx} {at_ : Bool × Nat} {level n : Nat}
    (hclk : s.clocksRun = true) (hst : (s.str (strIx p c)).st ≠ .idle)
    (hmeasure : tteMeasure s (s.str (strIx p c)) = some (at_, level, n))
    (hqueue : (s.str (strIx p c)).tteQueue = some at_) (hwin : 1024 ≤ s.clk - (s.str (strIx p c)).tteWin) :
    exec (.tteSample p c) s = .next (s.setStr (strIx p c) ((s.str (strIx p c)).sampled s.clk level n
      ((n - (s.str (strIx p c)).tteLast) * 1024 / (s.clk - (s.str (strIx p c)).tteWin)))) := by
  refine (clocked_run hclk _).trans ?_
  simp [hst, hmeasure, hqueue, hwin, Stream.sampled]

/-- Settles O32: a bucket that is issued stands last in its list, one that returns or completes leaves its list, and
what is left of the stream is one new value. -/
theorem pumpBucketsIssueAndReturn : Obligations.PumpBucketsIssueAndReturn := by
  intro s p c hclk
  refine ⟨?read, ?write, ?returned, ?completed, ?cancelled, ?sample⟩
  case read =>
    intro hbusy hready
    refine ⟨exec_pumpReadIssue_one hclk hbusy hready, fun d hnext hsrc hdest hdram => ?_⟩
    obtain ⟨deadline, hreads⟩ := issueRead_dram hnext hsrc hdest hdram
    simp [strIx, hreads]
  case write =>
    intro it hbusy hask hsettled hroom hnext
    refine ⟨exec_pumpWriteIssue_one hclk hbusy hask hsettled hroom hnext, ?_⟩
    rintro a n d r rfl hd hdram hlive
    obtain ⟨deadline, hwrites⟩ := issueWrite_dram (n := n) hd hdram hlive
    simp [hwrites]
  case returned =>
    intro r rest v u hreads hout hstrs htb hdue
    have hexec := exec_readBucketReturn_clean hclk hreads hout hstrs htb hdue
    dsimp only at hexec
    refine ⟨fun d hwanted => ?taken, fun hwanted hst => ?sunk⟩
    case taken => rwa [hwanted] at hexec
    case sunk =>
      rw [hwanted, State.str_setStr_same, Option.elim_none, State.setStr_setStr] at hexec
      refine ⟨_, hexec, ?_⟩
      have hnew := State.str_setStr_same (bwCount u (48 + p.val / 4) 0) (strIx p c)
        { s.str (strIx p c) with reads := rest, sunk := (s.str (strIx p c)).sunk + r.len }
      have hdescs := strSettle_descs (by rw [hnew, hst]; exact nofun)
      obtain ⟨-, hlist, hsunk⟩ := hdescs.keeps
      rw [hnew] at hlist hsunk
      refine ⟨hlist, hsunk, fun j hj => ?_⟩
      rw [hdescs.2 j hj, State.str_setStr_other _ _ hj]
      exact State.str_of_strs ((bwCount_only u _ 0 .strs rfl).trans hstrs) j
  case completed =>
    exact fun j w hj hfree hkind hdue hclean => exec_writeBucketComplete_mem hclk hj hfree hkind hdue hclean
  case cancelled =>
    intro hreads hwrites hst hfetched hshadow htask harm
    have hexec := exec_cancelComplete_cancelling hclk hreads hwrites hst hfetched
    have hkeep := exec_keeps (c := .cancelComplete p c) rfl s
    rw [hexec] at hkeep
    have hnew := State.str_setStr_same s (strIx p c) { s.str (strIx p c) with disc := (s.str (strIx p c)).sunk }
    have hended := strEnd_str ((congrArg Stream.shadow hnew).trans hshadow) ((congrArg Stream.task hnew).trans htask)
      harm ((s.str (strIx p c)).fill.getD stCancelled)
    rw [hnew] at hended
    exact ⟨_, hexec, congrArg Stream.st hended, congrArg Stream.code hended, congrArg Stream.disc hended,
      fun b => congrArg (Memory.byte · b) hkeep.2⟩
  case sample =>
    intro at_ level n hst hmeasure hqueue hwin
    refine ⟨_, exec_tteSample_window hclk hst hmeasure hqueue hwin, ?_⟩
    obtain ⟨hnew, -, honly⟩ := setStr_frame s (strIx p c) ((s.str (strIx p c)).sampled s.clk level n
      ((n - (s.str (strIx p c)).tteLast) * 1024 / (s.clk - (s.str (strIx p c)).tteWin)))
    rw [hnew]
    exact ⟨rfl, rfl, rfl, rfl, honly⟩

end Sys2Proof.Machine
end

section
/-! The completion of a barrier and the markers that pumps report (R279 to R281, R356). -/

namespace Sys2Proof.Machine

/-! ### Pieces updated along a list -/

/-- Each piece that a list names is updated by a function that a second use of it does not move on. -/
theorem foldl_read_update {α β γ : Type} [DecidableEq α] {get : β → α → γ} {step : β → α → β} {g : γ → γ}
    (hg : ∀ y, g (g y) = g y) (hstep : ∀ x a j, get (step x a) j = if j = a then g (get x j) else get x j)
    (l : List α) (x : β) (j : α) : get (l.foldl step x) j = if j ∈ l then g (get x j) else get x j := by
  induction l generalizing x with
  | nil => rfl
  | cons a r ih =>
    rw [List.foldl_cons, ih, hstep]
    by_cases ha : j = a <;> by_cases hr : j ∈ r <;> simp [ha, hr, hg]

/-! ### Threads released from a barrier (R281) -/

/-- A thread as barrier b leaves it: released where it has arrived at it. -/
def Slice.barFreed (b : Nat) (y : Slice) : Slice :=
  { y with released := y.released || (y.active && y.arrived && y.barId == b) }

theorem Slice.barFreed_barFreed (b : Nat) (y : Slice) : (y.barFreed b).barFreed b = y.barFreed b :=
  congrArg (fun r => ({ y with released := r } : Slice)) (by
    show ((y.released || (y.active && y.arrived && y.barId == b)) || (y.active && y.arrived && y.barId == b)) = _
    rw [Bool.or_assoc, Bool.or_self])

theorem Slice.barFreed_released {b : Nat} {y : Slice} (hactive : y.active = true) (harrived : y.arrived = true)
    (hbar : y.barId = b) : (y.barFreed b).released = true := by
  simp [Slice.barFreed, hactive, harrived, hbar]

theorem Slice.barFreed_of_held {b : Nat} {y : Slice} (h : (y.active && y.arrived && y.barId == b) = true) :
    y.barFreed b = { y with released := true } := by
  rw [Slice.barFreed, h, Bool.or_true]

theorem Slice.barFreed_of_not_held {b : Nat} {y : Slice} (h : ¬(y.active && y.arrived && y.barId == b) = true) :
    y.barFreed b = y := by
  rw [Slice.barFreed, Bool.eq_false_iff.mpr h, Bool.or_false]

/-- What one well's release writes. -/
theorem barRelease_slc (s : State) (w b v j : Nat) : (barRelease s w b).slc v j =
    if v = w then if j < 8 then (s.slc v j).barFreed b else s.slc v j else s.slc v j := by
  by_cases hv : v = w
  · subst hv
    rw [if_pos rfl]
    unfold barRelease State.slc
    dsimp only
    rw [State.well_setWell_same]
    refine (foldl_read_update (get := Well.slice) (Slice.barFreed_barFreed b) (fun x i j => ?_) _ _ _).trans
      (if_congr List.mem_range rfl rfl)
    by_cases hj : j = i
    · subst hj
      rw [if_pos rfl]
      split
      · rename_i h
        exact (Well.slice_setSlice ..).trans (Slice.barFreed_of_held h).symm
      · rename_i h
        exact (Slice.barFreed_of_not_held h).symm
    · rw [if_neg hj]
      split
      · exact Well.slice_setSlice_other _ _ hj
      · rfl
  · rw [if_neg hv]
    exact congrArg (Well.slice · j) (State.well_setWell_other s _ hv)

/-- A release leaves the barriers of every well. -/
@[simp] theorem barRelease_bars (s : State) (w b v : Nat) : ((barRelease s w b).well v).bars = (s.well v).bars :=
  State.piece_setWell Well.bars s w _
    (List.foldlRecOn (motive := fun y : Well => y.bars = (s.well w).bars) _ _ rfl
      fun _ hy _ _ => by dsimp only; split <;> exact hy) v

theorem barRelease_only (s : State) (w b : Nat) : Only [.wells] s (barRelease s w b) := only_wells s _

/-- The threads of the wells of a list are released. -/
theorem foldl_barRelease_slc (s : State) (l : List Nat) (b w j : Nat) (hw : w ∈ l) (hj : j < 8) :
    (l.foldl (fun s w => barRelease s w b) s).slc w j = (s.slc w j).barFreed b := by
  have hstep (s : State) (a w : Nat) : (barRelease s a b).slc w j
      = if w = a then (s.slc w j).barFreed b else s.slc w j := by
    rw [barRelease_slc, if_pos hj]
  rw [foldl_read_update (get := fun s w => State.slc s w j) (Slice.barFreed_barFreed b) hstep l s w, if_pos hw]

/-! ### Completion (R280) -/

/-- Barrier b of pipeline p past its completion, before anything is released: the next generation, with the
early arrivals carried over (R279, R280). -/
def Barrier.completed (k : Barrier) : Barrier :=
  { k with arrived := Nat.min k.next (barCount k), next := k.next - Nat.min k.next (barCount k)
           gen := (k.gen + 1) % 256 }

/-- The state with that barrier in its next generation. -/
def barTurned (s : State) (p b : Nat) : State :=
  s.setWell p ((s.well p).setBar b ((s.well p).bar b).completed)

/-- A completion without an action table: the barrier turns, and the threads and harts held in it are
released. -/
theorem barComplete_plain {s : State} {p b : Nat} (h : bitAt ((s.well p).bar b).cfg 29 = false) :
    barComplete s p b = (pipeHarts ((s.pipeWells p).foldl (fun s w => barRelease s w b) (barTurned s p b)) p).foldl
      (fun (s : State) i => s.setHart i ((s.hart i).barFree b))
      ((s.pipeWells p).foldl (fun s w => barRelease s w b) (barTurned s p b)) := by
  have hwells : (barTurned s p b).pipeWells p = s.pipeWells p :=
    congrArg (List.filter · (List.range 8)) (funext fun w => by
      have hpipe : ((barTurned s p b).well w).pipe = (s.well w).pipe :=
        State.piece_setWell Well.pipe s p ((s.well p).setBar b ((s.well p).bar b).completed) rfl w
      simp only [State.pipeOf, hpipe])
  rw [← hwells]
  unfold barComplete
  dsimp only
  rw [h]
  rfl

/-- Releases of harts move nothing else. -/
theorem foldl_barFree_wells (s : State) (l : List Nat) (b : Nat) :
    (l.foldl (fun (s : State) i => s.setHart i ((s.hart i).barFree b)) s).wells = s.wells :=
  foldl_part State.wells (fun (s : State) i => s.setHart i ((s.hart i).barFree b)) (fun _ _ => rfl) l s

theorem only_harts (s : State) (m : SMap Hart) : Only [.harts] s { s with harts := m } := by
  intro q hq
  cases q <;> simp_all [Part.same]

/-- What a fold of updates touches, where each touches these parts only. -/
theorem foldl_only {α : Type} {parts : List Part} (g : State → α → State) (h : ∀ s a, Only parts s (g s a))
    (l : List α) (s : State) : Only parts s (l.foldl g s) :=
  List.foldlRecOn (motive := Only parts s) l g (Only.refl parts s) fun u hu a _ => hu.trans (h u a)

/-- A completion without an action table touches the wells and the harts only. -/
theorem barComplete_plain_only {s : State} {p b : Nat} (h : bitAt ((s.well p).bar b).cfg 29 = false) :
    Only [.wells, .harts] s (barComplete s p b) := by
  rw [barComplete_plain h]
  have hturn : Only [.wells] s (barTurned s p b) := only_wells s _
  have hthreads := foldl_only _ (fun s w => barRelease_only s w b) (s.pipeWells p) (barTurned s p b)
  refine ((hturn.trans hthreads).mono (by simp)).trans (Only.mono ?_ (l := [.harts]) (by simp))
  exact foldl_only (fun (s : State) i => s.setHart i ((s.hart i).barFree b)) (fun s i => only_harts s _) _ _

/-- The threads held in a barrier of the pipeline are released as it completes (R281). -/
theorem barComplete_plain_slc {s : State} {p b : Nat} (h : bitAt ((s.well p).bar b).cfg 29 = false) {w j : Nat}
    (hw : w ∈ s.pipeWells p) (hj : j < 8) : (barComplete s p b).slc w j = (s.slc w j).barFreed b := by
  rw [barComplete_plain h, State.slc_of_wells (foldl_barFree_wells _ _ b), foldl_barRelease_slc _ _ b w j hw hj]
  exact congrArg (Slice.barFreed b) (State.piece_setWell (Well.slice · j) s p
    ((s.well p).setBar b ((s.well p).bar b).completed) rfl w)

/-- The barriers of the home well after a completion: the one that completes turns, the others stay. -/
theorem barComplete_plain_bar {s : State} {p b : Nat} (h : bitAt ((s.well p).bar b).cfg 29 = false) (c : Nat) :
    ((barComplete s p b).well p).bar c
      = if c = b then ((s.well p).bar b).completed else (s.well p).bar c := by
  have hthreads : (((s.pipeWells p).foldl (fun s w => barRelease s w b) (barTurned s p b)).well p).bars
      = ((barTurned s p b).well p).bars :=
    foldl_part (fun s : State => (s.well p).bars) _ (fun s w => barRelease_bars s w b p) _ _
  have hbars : ((barComplete s p b).well p).bars = ((s.well p).setBar b ((s.well p).bar b).completed).bars := by
    rw [barComplete_plain h, State.well_of_wells (foldl_barFree_wells _ _ b), hthreads, barTurned,
      State.well_setWell_same]
  refine (congrArg (SMap.get (fun _ => Barrier.reset) · c) hbars).trans ?_
  split
  · rename_i hc
    subst hc
    exact Well.bar_setBar ..
  · rename_i hc
    exact Well.bar_setBar_other _ _ hc

/-! ### Markers (R356) -/

theorem exec_markerReport {s : State} (hclk : s.clocksRun = true) (p : PumpIx) (c : StreamIx) (wd : Word) :
    exec (.markerReport p c wd) s = .next (if wd.sb.marker then dcMarker s (strIx p c) wd else s) := by
  show execMarkerReport p c wd s = _
  rw [execMarkerReport, clocked_run hclk]

/-- A marker that is no frame marker concerns no task. -/
theorem dcMarker_other {s : State} {i : Nat} {wd : Word} (h : markKind wd ≠ 1) : dcMarker s i wd = s := by
  unfold dcMarker
  split
  · rfl
  · split
    · rfl
    · simp [h]

/-- A frame marker of another task on the output stream of a task in flight. -/
theorem dcMarker_foreign {s : State} {i t q : Nat} {wd : Word} (htask : (s.str i).task = some t)
    (hpipe : s.taskPipe t = some q) (hkind : markKind wd = 1) (hout : i = outStream s q)
    (hother : markTask wd ≠ some t) :
    dcMarker s i wd = pipeFault s q (mkFault stAborted 0 q 0 (markDw0 wd)) (some t) := by
  simp [dcMarker, htask, hpipe, hkind, ← hout, hother]

/-- Settles O34: the completion writes one barrier and releases threads and harts; a marker is looked at for its
kind, its stream and its task. -/
theorem barriersAndMarkers : Obligations.BarriersAndMarkers := by
  intro s hclk
  refine ⟨?complete, ?foreign, ?other⟩
  case complete =>
    intro p b hhome hready hplain
    have hexec : exec (.barrierComplete p b) s = .next (barComplete s p.val b.val) := by
      show execBarrierComplete p b s = _
      rw [execBarrierComplete, clocked_run hclk, if_pos (by simp [hhome, hready])]
    have hbar := barComplete_plain_bar hplain
    refine ⟨_, hexec, ?_⟩
    dsimp only
    rw [hbar b.val, if_pos rfl]
    refine ⟨rfl, rfl, rfl, rfl, fun c hc => (hbar c).trans (if_neg hc), ?_, barComplete_plain_only hplain⟩
    intro w j hw hj hactive harrived hid
    rw [barComplete_plain_slc hplain hw hj]
    exact Slice.barFreed_released hactive harrived hid
  case foreign =>
    intro p c wd t q hmark htask hpipe hkind hout hother
    rw [exec_markerReport hclk, if_pos hmark, dcMarker_foreign htask hpipe hkind hout hother]
  case other =>
    intro p c wd h
    rw [exec_markerReport hclk]
    rcases h with hplain | hkind
    · rw [if_neg (by simp [hplain])]
    · rw [dcMarker_other hkind, ite_self]

end Sys2Proof.Machine
end

section
/-! Words of service-core SRAM as a core loads and stores them (R41, R422, R423). -/

namespace Sys2Proof.Machine

/-! ### Where service-core SRAM lies (R41) -/

/-- Within the 4 GiB of on-chip memory, cluster c has 16 MiB from offset 0x8000_0000 + c · 2²⁴: SRAM are the first
2 MiB and the second 4 MiB. -/
theorem sramRegion_scSram {s : State} {x c o : Nat} : sramRegion s x = .scSram c o ↔
    0x80000000 ≤ x ∧ c = (x - 0x80000000) / 0x1000000 ∧ o = x % 0x1000000 ∧ s.hasSc c = true
      ∧ (o < 0x200000 ∨ (0x400000 ≤ o ∧ o < 0x800000)) := by
  unfold sramRegion
  dsimp only
  by_cases hlow : x < 0x80000000
  · rw [if_pos hlow]
    refine iff_of_false (fun h => ?_) (by omega)
    split at h
    · exact Region.noConfusion h
    · split at h
      · split at h <;> exact Region.noConfusion h
      · split at h <;> exact Region.noConfusion h
  · rw [if_neg hlow]
    split
    case isTrue h =>
      simp only [Bool.and_eq_true, Bool.or_eq_true, decide_eq_true_eq] at h
      rw [Region.scSram.injEq]
      constructor
      · rintro ⟨rfl, rfl⟩
        exact ⟨by omega, rfl, rfl, h⟩
      · rintro ⟨-, rfl, rfl, -⟩
        exact ⟨rfl, rfl⟩
    case isFalse h =>
      simp only [Bool.and_eq_true, Bool.or_eq_true, decide_eq_true_eq] at h
      refine iff_of_false Region.noConfusion ?_
      rintro ⟨-, rfl, rfl, hin⟩
      exact h hin

theorem regionOf_scSram {s : State} {a c o : Nat} : regionOf s a = .scSram c o ↔
    0x100000000000 ≤ a ∧ a < 0x100100000000 ∧ sramRegion s (a - 0x100000000000) = .scSram c o := by
  unfold regionOf
  by_cases hin : 0x100000000000 ≤ a ∧ a < 0x100100000000
  · rw [if_neg (by omega), if_neg (by omega), if_pos hin.2]
    exact ⟨fun h => ⟨hin.1, hin.2, h⟩, fun h => h.2.2⟩
  · refine iff_of_false (fun h => ?_) (by tauto)
    split at h
    · exact Region.noConfusion h
    · split at h
      · exact Region.noConfusion h
      · rw [if_neg (by omega)] at h
        split at h
        · exact Region.noConfusion h
        · split at h
          · exact Region.noConfusion h
          · split at h <;> exact Region.noConfusion h

/-- The line of a place of service-core SRAM lies in that SRAM. -/
theorem sramRegion_scSram_line {s : State} {x c o : Nat} (h : sramRegion s x = .scSram c o) :
    sramRegion s (x / 64 * 64) = .scSram c (o / 64 * 64) := by
  rw [sramRegion_scSram] at h ⊢
  obtain ⟨hbase, hc, ho, hsc, hin⟩ := h
  have hcluster : x / 64 * 64 - 0x80000000 = (x - 0x80000000) / 64 * 64 := by omega
  have hnum : (x - 0x80000000) / 64 * 64 / 0x1000000 = (x - 0x80000000) / 0x1000000 := by omega
  have hslot : x / 64 * 64 % 0x1000000 = x % 0x1000000 / 64 * 64 := by omega
  rw [hslot, hcluster, hnum, ← ho]
  exact ⟨by omega, hc, rfl, hsc, by omega⟩

theorem regionOf_scSram_line {s : State} {a c o : Nat} (h : regionOf s a = .scSram c o) :
    regionOf s (a / 64 * 64) = .scSram c (o / 64 * 64) := by
  rw [regionOf_scSram] at h ⊢
  obtain ⟨hlo, hhi, hin⟩ := h
  have hchip : a / 64 * 64 - 0x100000000000 = (a - 0x100000000000) / 64 * 64 := by omega
  rw [hchip]
  exact ⟨by omega, by omega, sramRegion_scSram_line hin⟩

/-! ### Loads -/

theorem leNat_append (l r : List Byte) : leNat (l ++ r) = leNat l + 2 ^ (8 * l.length) * leNat r := by
  induction l with
  | nil => simp [leNat]
  | cons b l ih =>
    rw [List.cons_append, leNat, leNat, ih, List.length_cons, Nat.mul_succ, Nat.pow_add]
    ring

/-- Bytes taken out of a line that lies in memory are those of memory. -/
theorem lineFrom_line (m : Memory) {a n : Nat} (h : a % 64 + n ≤ 64) :
    lineFrom (m.line (a / 64 * 64)) a n = leNat (m.read a n) := by
  have hparts : m.read (a / 64 * 64) 64
      = m.read (a / 64 * 64) (a % 64) ++ (m.read a n ++ m.read (a + n) (64 - a % 64 - n)) := by
    have hplace : m.read a (n + (64 - a % 64 - n)) = m.read (a / 64 * 64 + a % 64) (n + (64 - a % 64 - n)) := by
      rw [Nat.div_add_mod' a 64]
    rw [← Memory.read_append, hplace, ← Memory.read_append, show a % 64 + (n + (64 - a % 64 - n)) = 64 by omega]
  have hlt := leNat_lt (m.read (a / 64 * 64) (a % 64))
  have hlt' := leNat_lt (m.read a n)
  rw [Memory.read_length] at hlt hlt'
  rw [lineFrom, Memory.line, lineOf, toNat_ofNat_leNat (by simp), hparts, leNat_append, leNat_append,
    Memory.read_length, Memory.read_length, Nat.shiftRight_eq_div_pow, Nat.add_mul_div_left _ _ (Nat.two_pow_pos _),
    Nat.div_eq_of_lt hlt, Nat.zero_add, Nat.add_mul_mod_self_left, Nat.mod_eq_of_lt hlt']

/-- An aligned word of up to eight bytes lies in one line. -/
theorem aligned_in_line {a k : Nat} (hk : k ≤ 3) (h : a % 2 ^ k = 0) : a % 64 + 2 ^ k ≤ 64 := by
  interval_cases k <;> omega

/-! ### Stores -/

/-- Bytes of a masked write. -/
theorem Memory.byte_writeMasked (m : Memory) (a : Nat) (mask : BitVec 64) (k : Nat) (l : List Byte) {i : Nat}
    (h : i < l.length) :
    (m.writeMasked a mask k l).byte (a + (k + i))
      = if bitAt mask (k + i) then l.getD i 0 else m.byte (a + (k + i)) := by
  induction l generalizing m k i with
  | nil => exact absurd h (Nat.not_lt_zero i)
  | cons b r ih =>
    rw [Memory.writeMasked]
    cases i with
    | zero =>
      rw [Memory.byte_writeMasked_other _ _ _ _ _ _ (.inl (by omega)), Nat.add_zero, bitAt]
      split
      · exact Memory.byte_setByte_same ..
      · rfl
    | succ i =>
      have hrest := ih (if mask.getLsbD k then m.setByte (a + k) b else m) (k + 1) (Nat.lt_of_succ_lt_succ h)
      rw [show k + 1 + i = k + (i + 1) by omega] at hrest
      rw [hrest, List.getD_cons_succ]
      have hkept : (if mask.getLsbD k then m.setByte (a + k) b else m).byte (a + (k + (i + 1)))
          = m.byte (a + (k + (i + 1))) := by
        split
        · exact Memory.byte_setByte_other _ _ (by omega)
        · rfl
      rw [hkept]

/-- The mask of a word in its line. -/
theorem bitAt_storeLine (a n : Nat) (v : W64) {i : Nat} (h : i < 64) :
    bitAt (storeLine a n v).2 i = decide (a % 64 ≤ i ∧ i < a % 64 + n) := by
  simp only [storeLine, bitAt, BitVec.getLsbD_ofNat, Nat.testBit_shiftLeft, Nat.testBit_two_pow_sub_one, h]
  rw [Bool.eq_iff_iff]
  simp
  omega

/-- A byte of the word in its line. -/
theorem laneOf_storeLine (a : Nat) {n i : Nat} (v : W64) (h : a % 64 ≤ i) (h' : i < a % 64 + n) (hi : i < 64) :
    BitVec.ofNat 8 (laneOf (storeLine a n v).1.toNat 8 i) = (v >>> (8 * (i - a % 64))).setWidth 8 := by
  refine BitVec.eq_of_getLsbD_eq fun j hj => ?_
  have hbit : 8 * i + j - 8 * (a % 64) = 8 * (i - a % 64) + j := by omega
  have hin : 8 * (i - a % 64) + j < 8 * n := by omega
  have hup : 8 * (a % 64) ≤ 8 * i + j := by omega
  have hfits : 8 * i + j < 512 := by omega
  rw [ofNat_laneOf, BitVec.getLsbD_ofNat, BitVec.getLsbD_setWidth, BitVec.getLsbD_ushiftRight, Nat.testBit_shiftRight,
    BitVec.testBit_toNat, storeLine, BitVec.getLsbD_ofNat, Nat.testBit_shiftLeft, hbit, Nat.testBit_mod_two_pow]
  simp [hj, hin, hup, hfits, BitVec.getLsbD]

/-- A word stored within one line of memory by its masked line. -/
theorem byte_writeMasked_storeLine (m : Memory) {a n : Nat} (v : W64) (hn : a % 64 + n ≤ 64) (b : Nat) :
    (m.writeMasked (a / 64 * 64) (storeLine a n v).2 0 (lineBytes (storeLine a n v).1)).byte b
      = if a ≤ b ∧ b < a + n then (v >>> (8 * (b - a))).setWidth 8 else m.byte b := by
  have hlen : (lineBytes (storeLine a n v).1).length = 64 := leBytes_length ..
  by_cases hline : a / 64 * 64 ≤ b ∧ b < a / 64 * 64 + 64
  · obtain ⟨i, rfl⟩ := Nat.exists_eq_add_of_le hline.1
    have hi : i < 64 := by omega
    have hbyte := Memory.byte_writeMasked m (a / 64 * 64) (storeLine a n v).2 0 (lineBytes (storeLine a n v).1)
      (hlen.symm ▸ hi)
    rw [Nat.zero_add, bitAt_storeLine _ _ _ hi, lineBytes, leBytes_getD _ hi] at hbyte
    rw [lineBytes, hbyte]
    by_cases hin : a % 64 ≤ i ∧ i < a % 64 + n
    · rw [if_pos (decide_eq_true hin), if_pos (by omega), laneOf_storeLine _ _ hin.1 hin.2 hi,
        show a / 64 * 64 + i - a = i - a % 64 by omega]
    · rw [if_neg (by simpa using hin), if_neg (by omega)]
  · rw [Memory.byte_writeMasked_other _ _ _ _ _ _ (by omega), if_neg (by omega)]

end Sys2Proof.Machine
end

section
/-! The queue instructions, runs, halts and memory accesses of the service cores (R279, R422 to R428). -/

namespace Sys2Proof.Machine

/-! ### Registers of a hart -/

@[simp] theorem Hart.getCsr_setCsr (h : Hart) (n : Nat) (v : W64) : (h.setCsr n v).getCsr n = v :=
  SMap.get_set_same h.csr n v
theorem Hart.getCsr_setCsr_other (h : Hart) {n k : Nat} (v : W64) (hne : k ≠ n) :
    (h.setCsr n v).getCsr k = h.getCsr k := SMap.get_set_other h.csr v hne
@[simp] theorem Hart.getV_setV (h : Hart) (r : Nat) (l : Line) : (h.setV r l).getV r = l :=
  SMap.get_set_same h.v r l

/-- A trap saves the program counter in `mepc` and the value in `mtval` (R422). -/
theorem Hart.trap_saves (h : Hart) (cause tval : W64) :
    (h.trap cause tval).getCsr 0x341 = h.pc ∧ (h.trap cause tval).getCsr 0x343 = tval := by
  refine ⟨?_, Hart.getCsr_setCsr _ 0x343 tval⟩
  exact (Hart.getCsr_setCsr_other _ tval (by decide)).trans
    ((Hart.getCsr_setCsr_other _ cause (by decide)).trans (Hart.getCsr_setCsr _ 0x341 h.pc))

/-! ### One hart written -/

theorem State.hart_of_harts {s t : State} (h : t.harts = s.harts) (i : Nat) : t.hart i = s.hart i :=
  congrArg (SMap.get (fun _ => Hart.reset) · i) h

/-- A hart written after an update that leaves the harts. -/
theorem setHart_after {s t : State} (h : t.harts = s.harts) (i : Nat) (x : Hart) :
    (t.setHart i x).hart i = x ∧ ∀ j, j ≠ i → (t.setHart i x).hart j = s.hart j :=
  ⟨State.hart_setHart_same t i x, fun j hj => (State.hart_setHart_other t x hj).trans (State.hart_of_harts h j)⟩

theorem setHart_frame (s : State) (i : Nat) (x : Hart) : (s.setHart i x).hart i = x
    ∧ (∀ j, j ≠ i → (s.setHart i x).hart j = s.hart j) ∧ Only [.harts] s (s.setHart i x) :=
  ⟨State.hart_setHart_same s i x, fun _ hj => State.hart_setHart_other s x hj, only_harts s _⟩

/-- A queue instruction completes after an update that leaves the harts. -/
theorem xcsqDone_after {s t : State} (h : t.harts = s.harts) (i : Nat) (try_ : Bool) (rd : Nat) :
    (xcsqDone t i try_ rd).hart i = (if try_ then (s.hart i).done.setX rd 1 else (s.hart i).done)
      ∧ ∀ j, j ≠ i → (xcsqDone t i try_ rd).hart j = s.hart j := by
  rw [← State.hart_of_harts h i]
  exact setHart_after h i _

/-- A queue instruction that holds, and what its form with TRY does instead (R428). -/
theorem xcsqHold_frame (s : State) (i rd : Nat) (try_ : Bool) :
    (xcsqHold s i try_ rd).hart i = (if try_ then (s.hart i).done.setX rd 0 else (s.hart i).hold)
      ∧ (∀ j, j ≠ i → (xcsqHold s i try_ rd).hart j = s.hart j) ∧ Only [.harts] s (xcsqHold s i try_ rd) :=
  setHart_frame s i _

theorem only_drawn {l : List Part} (s : State) (h : .freeCtr ∈ l) : Only l s s.drawn := by
  intro q hq
  cases q <;> simp_all [Part.same]

/-! ### What the queue instructions do (R425, R426, R428) -/

/-- An entry that a reference names is enabled. -/
theorem queueRef_enabled {s : State} {c w e : Nat} {r : W64} (h : queueRef s c r = some (w, e)) :
    (s.sq w e).enabled = true := by
  unfold queueRef at h
  dsimp only at h
  split at h
  · exact nomatch h
  · generalize (if bitAt (s.rd (rScClMap c)) 7 = true then _ else _ : Nat) = v at h
    generalize (if bitAt (s.rd (rScClMap c)) 7 = true then _ else _ : Nat) = g at h
    split at h
    case isTrue hon =>
      obtain ⟨rfl, rfl⟩ := Prod.mk.inj (Option.some.inj h)
      exact hon
    case isFalse => exact nomatch h

section
variable {s : State} {c : Fin 4} {n : Fin 8} {rs1 : W64} {w e : Nat}

theorem hartLive_of (hsc : s.hasSc c.val = true) (hlive : (s.hart (hartIx c n)).live = true) :
    s.hartLive c n = true := by rw [State.hartLive, hsc, hlive, Bool.and_self]

variable (hclk : s.clocksRun = true) (hlive : s.hartLive c n = true) (href : queueRef s c.val rs1 = some (w, e))
include hclk hlive href

theorem exec_csqWait (hsem : (s.sq w e).isSem = true) {rs2 : W64} (hcount : countOk rs2 = true) (try_ : Bool)
    (rd : Fin 32) : exec (.csqWait c n try_ rd rs1 rs2) s = .next
      (if rs2.toNat ≤ (s.sq w e).semCount (refSel rs1) then
        xcsqDone (sqPut s w e ((s.sq w e).semSub (refSel rs1) rs2.toNat)) (hartIx c n) try_ rd.val
      else xcsqHold s (hartIx c n) try_ rd.val) := by
  show execCsqWait c n try_ rd rs1 rs2 s = _
  simp [execCsqWait, hclk, hlive, href, hsem, hcount]

theorem exec_csqSig (hsem : (s.sq w e).isSem = true) {rs2 : W64} (hcount : countOk rs2 = true) :
    exec (.csqSig c n rs1 rs2) s = .next (xcsqDone (semPort s w e (refSel rs1) rs2.toNat) (hartIx c n) false 0) := by
  show execCsqSig c n rs1 rs2 s = _
  simp [execCsqSig, hclk, hlive, href, hsem, hcount]

theorem exec_csqPeek (rd : Fin 32) : exec (.csqPeek c n rd rs1) s = .next (s.setHart (hartIx c n)
    ((s.hart (hartIx c n)).done.setX rd.val (BitVec.ofNat 64 ((s.sq w e).semCount (refSel rs1))))) := by
  show execCsqPeek c n rd rs1 s = _
  simp [execCsqPeek, hclk, hlive, href]

theorem exec_csqPush (hdata : (s.sq w e).isSem = false) (try_ : Bool) (rd vs2 : Fin 32) :
    exec (.csqPush c n try_ rd rs1 vs2) s = .next
      (if (s.sq w e).canPush (retriesOf (s.well w) e + slotsComing (s.well w) e) = true then
        xcsqDone (sidePush s w e ⟨(s.hart (hartIx c n)).getV vs2.val, refSb rs1⟩) (hartIx c n) try_ rd.val
      else xcsqHold s (hartIx c n) try_ rd.val) := by
  show execCsqPush c n try_ rd rs1 vs2 s = _
  simp [execCsqPush, hclk, hlive, href, hdata]

/-- The hart once a pop has put the word and its sideband in its registers. -/
def Hart.popped (h : Hart) (vd : Nat) (wd : Word) : Hart :=
  (h.done.setV vd wd.data).setCsr csrXcsqsb (putBits (h.done.getCsr csrXcsqsb) 0 10 (sbBits wd.sb))

theorem exec_csqPop_word (hdata : (s.sq w e).isSem = false) (hword : (s.sq w e).canPop = true)
    (hfree : sideReadFree s w e = true) (vd : Fin 32) :
    exec (.csqPop c n false vd rs1) s = .next ((sqSidePop s w e).2.setHart (hartIx c n)
      (((sqSidePop s w e).2.hart (hartIx c n)).popped vd.val (sqSidePop s w e).1)) := by
  show execCsqPop c n false vd rs1 s = _
  simp [execCsqPop, hclk, hlive, href, hdata, hword, hfree, Hart.popped]

theorem exec_csqPop_holds (hdata : (s.sq w e).isSem = false)
    (hwait : (s.sq w e).canPop = false ∨ sideReadFree s w e = false) (vd : Fin 32) :
    exec (.csqPop c n false vd rs1) s = .next (s.setHart (hartIx c n) (s.hart (hartIx c n)).hold) := by
  show execCsqPop c n false vd rs1 s = _
  cases hword : (s.sq w e).canPop with
  | false => simp [execCsqPop, hclk, hlive, href, hdata, hword]
  | true =>
    have hbusy := hwait.resolve_left (by simp [hword])
    simp [execCsqPop, hclk, hlive, href, hdata, hword, hbusy]

theorem exec_csqPop_reports (hdata : (s.sq w e).isSem = false) (hword : (s.sq w e).canPop = false) (vd : Fin 32) :
    exec (.csqPop c n true vd rs1) s = .next (s.setHart (hartIx c n)
      ((s.hart (hartIx c n)).done.setCsr csrXcsqsb
        (putBits ((s.hart (hartIx c n)).getCsr csrXcsqsb) 31 1 0))) := by
  show execCsqPop c n true vd rs1 s = _
  simp [execCsqPop, hclk, hlive, href, hdata, hword]

end

section
variable {s : State} {c : Fin 4} {n : Fin 8} {rs1 : W64}
variable (hclk : s.clocksRun = true) (hlive : s.hartLive c n = true)
include hclk hlive

/-- A reference that names no entry is an access fault (R426). -/
theorem exec_csqPeek_unnamed (href : queueRef s c.val rs1 = none) (rd : Fin 32) :
    exec (.csqPeek c n rd rs1) s = .next (xcsqFault s (hartIx c n) rs1) := by
  show execCsqPeek c n rd rs1 s = _
  simp [execCsqPeek, hclk, hlive, href]

variable {p : Nat} (hpipe : clusterPipe s c.val = some p)
include hpipe

/-- The arrival of a hart is counted once (R279). -/
theorem exec_csqBar_arrives (hreleased : (s.hart (hartIx c n)).released = false)
    (harrived : (s.hart (hartIx c n)).arrived = false) :
    exec (.csqBar c n rs1) s = .next (barArrive (s.setHart (hartIx c n)
      { s.hart (hartIx c n) with run := .held, arrived := true, barId := bits rs1 0 4 }) p (bits rs1 0 4)) := by
  show execCsqBar c n rs1 s = _
  simp [execCsqBar, hclk, hlive, hpipe, hreleased, harrived, Hart.hold]

theorem exec_csqBar_released (hreleased : (s.hart (hartIx c n)).released = true) :
    exec (.csqBar c n rs1) s = .next (s.setHart (hartIx c n)
      { (s.hart (hartIx c n)).done with released := false, arrived := false }) := by
  show execCsqBar c n rs1 s = _
  simp [execCsqBar, hclk, hlive, hpipe, hreleased]

end

/-! ### Counts and words of the entry -/

/-- A count taken from a semaphore entry. -/
theorem semCount_semSub {x : SqEntry} (h : x.isSem = true) (sel : Bool) (n : Nat) :
    (x.semSub sel n).semCount sel = x.semCount sel - n := by
  have hsem : (x.semSub sel n).isSem = true := by cases sel <;> exact h
  rw [semCount_sem hsem, semCount_sem h]
  cases sel <;> rfl

theorem semSignal_harts (s : State) (w e : Nat) (sel : Bool) (n : Nat) :
    (semSignal s w e sel n).harts = s.harts := by
  unfold semSignal
  dsimp only
  split
  · exact sqPut_harts ..
  · rfl

theorem semPort_harts (s : State) (w e : Nat) (sel : Bool) (n : Nat) : (semPort s w e sel n).harts = s.harts := by
  unfold semPort
  dsimp only
  split
  · rfl
  · exact semSignal_harts s w e sel n

theorem State.sq_setMu (s : State) (w k : Nat) (m : MuErr) (v e : Nat) :
    (s.setWell w ((s.well w).setMu k m)).sq v e = s.sq v e :=
  State.piece_setWell (Well.sq · e) s w ((s.well w).setMu k m) rfl v

/-- A cistern word that is read moves no pointer and no hart. -/
theorem cisternRead_frame (s : State) (w k a : Nat) :
    (∀ v e, (cisternRead s w k a).2.2.sq v e = s.sq v e) ∧ (cisternRead s w k a).2.2.harts = s.harts := by
  unfold cisternRead
  dsimp only
  split
  · exact ⟨fun _ _ => rfl, rfl⟩
  · exact ⟨fun v e => State.sq_setMu s w k _ v e, rfl⟩
  · exact ⟨fun v e => (State.sq_of_wells (wellFault_wells ..) v e).trans (State.sq_setMu s w k _ v e),
      wellFault_harts ..⟩

/-- Nor does the sideband of a ring word that is read. -/
theorem ringSbRead_frame (s : State) (w k a : Nat) :
    (∀ v e, (ringSbRead s w k a).2.2.sq v e = s.sq v e) ∧ (ringSbRead s w k a).2.2.harts = s.harts := by
  unfold ringSbRead
  dsimp only
  split
  · exact ⟨fun _ _ => rfl, rfl⟩
  · obtain ⟨-, -, hsq, honly⟩ := setRingSb_frame (s.setWell w ((s.well w).setMu k
      { (s.well w).mu k with
        ce := true, count := Nat.min (((s.well w).mu k).count + 1) 0xFFFF, word := a })) w k a (ringSb s w k a)
    exact ⟨fun v e => (hsq v e).trans (State.sq_setMu s w k _ v e), honly .harts rfl⟩
  · exact ⟨fun v e => (State.sq_of_wells (wellFault_wells ..) v e).trans (State.sq_setMu s w k _ v e),
      wellFault_harts ..⟩

/-- The place that the next word read from an entry's ring stands in. -/
def SqEntry.headPlace (x : SqEntry) : Nat := x.base + x.r % Nat.max 1 x.size

theorem sqHead_state (s : State) (w e : Nat) : (sqHead s w e).2.2 = (ringSbRead
    (cisternRead s w (e / 16) (s.sq w e).headPlace).2.2 w (e / 16) (s.sq w e).headPlace).2.2 := rfl

theorem sqHead_frame (s : State) (w e : Nat) :
    (∀ v g, (sqHead s w e).2.2.sq v g = s.sq v g) ∧ (sqHead s w e).2.2.harts = s.harts := by
  obtain ⟨hsq, hharts⟩ := cisternRead_frame s w (e / 16) (s.sq w e).headPlace
  obtain ⟨hsq', hharts'⟩ := ringSbRead_frame (cisternRead s w (e / 16) (s.sq w e).headPlace).2.2 w (e / 16)
    (s.sq w e).headPlace
  rw [sqHead_state]
  exact ⟨fun v g => (hsq' v g).trans (hsq v g), hharts'.trans hharts⟩

/-- A read of an entry moves R on, and its release at a side port moves F with it (R227). -/
theorem sqSidePop_moves (s : State) (w e : Nat) :
    ((sqSidePop s w e).2.sq w e).r = (s.sq w e).r + 1 ∧ ((sqSidePop s w e).2.sq w e).f = (s.sq w e).r + 1
      ∧ (sqSidePop s w e).2.harts = s.harts := by
  obtain ⟨hsq, hharts⟩ := sqHead_frame s w e
  have hevent : (event (sqHead s w e).2.2 4 (queueNo w e) 2).sq w e = s.sq w e :=
    (State.sq_of_wells (event_wells ..) w e).trans (hsq w e)
  have hpop : (sqPop s w e).2 = sqPut (event (sqHead s w e).2.2 4 (queueNo w e) 2) w e
      { s.sq w e with r := (s.sq w e).r + 1 } := by
    rw [← hevent]
    rfl
  have hr : ((sqPop s w e).2.sq w e).r = (s.sq w e).r + 1 := by rw [hpop, sqPut_sq]
  have hput : (sqSidePop s w e).2.sq w e = { (sqPop s w e).2.sq w e with
      f := ((sqPop s w e).2.sq w e).r, m := ((sqPop s w e).2.sq w e).r, armed := false } := State.sq_setSq ..
  rw [hput]
  exact ⟨hr, hr, (congrArg State.harts hpop).trans ((sqPut_harts ..).trans ((event_harts ..).trans hharts))⟩

/-! ### Accesses (R422, R423) -/

section
variable {s : State} {c : Fin 4} {n : Fin 8} (a : ScAccess)

theorem exec_scAccess (hclk : s.clocksRun = true) (hsc : s.hasSc c.val = true)
    (hrun : (s.hart (hartIx c n)).run = .running) (rd : Fin 32) :
    exec (.scAccess c n rd a) s = .next (coreAccess s c (hartIx c n) rd.val a) := by
  show execScAccess c n rd a s = _
  simp [execScAccess, hclk, hsc, hrun]

theorem coreAccess_misaligned (i rd : Nat) (h : a.addr.toNat % 2 ^ a.size.toNat ≠ 0) :
    coreAccess s c i rd a = misaligned s i a.store a.addr.toNat := if_pos h

/-- An aligned access to the own SRAM that is allowed and meets no error. -/
theorem coreAccess_sram {i rd o : Nat} (halign : a.addr.toNat % 2 ^ a.size.toNat = 0)
    (hpmp : (s.hart i).pmpAllows a.addr.toNat (2 ^ a.size.toNat) a.store = true) (hplain : a.atomic = false)
    (hclean : a.ecc = .clean) (hregion : regionOf s a.addr.toNat = .scSram c.val o) :
    coreAccess s c i rd a = if a.store then
        coreStored s i a.addr.toNat (coreStore s (.sc c) a.addr.toNat (2 ^ a.size.toNat) a.value)
      else
        coreLoaded (coreLoad s (.sc c) a.addr.toNat (2 ^ a.size.toNat)).2 i rd a.addr.toNat (2 ^ a.size.toNat)
          a.unsigned (coreLoad s (.sc c) a.addr.toNat (2 ^ a.size.toNat)).1 := by
  simp [coreAccess, halign, hpmp, hplain, hclean, sramCluster, hregion, sramSeen, coreTarget]

/-- A load of SRAM returns its bytes and changes nothing. -/
theorem coreLoad_sram {a n c o : Nat} {p : Path} (hregion : regionOf s a = .scSram c o) (hin : a % 64 + n ≤ 64) :
    coreLoad s p a n = (some (leNat (s.mem.read a n)), s) := by
  simp [coreLoad, lineRead, hregion, lineFrom_line s.mem hin]

/-- The state with a word of n bytes at address a. -/
def wordStored (s : State) (a n : Nat) (v : W64) : State :=
  { s with mem := s.mem.writeMasked (a / 64 * 64) (storeLine a n v).2 0 (lineBytes (storeLine a n v).1) }

theorem wordStored_only (s : State) (a n : Nat) (v : W64) : Only [.mem] s (wordStored s a n v) := by
  intro q hq
  cases q <;> simp_all [Part.same, wordStored]

/-- A store to SRAM writes its bytes in their line. -/
theorem coreStore_sram {a n c o : Nat} {p : Path} (hregion : regionOf s a = .scSram c o) (v : W64) :
    coreStore s p a n v = some (wordStored s a n v) := by
  simp [coreStore, bucketWrite, hregion, regionOf_scSram_line hregion, wordStored]

/-- A store ends reservations of other harts, and nothing else (R422). -/
theorem loseResv_frame (s : State) (i a : Nat) :
    (loseResv s i a).hart i = s.hart i ∧ Only [.harts] s (loseResv s i a) := by
  constructor
  · refine foldl_part (fun s : State => s.hart i) _ (fun s j => ?_) _ s
    dsimp only
    split
    · split
      case isTrue h => exact State.hart_setHart_other s _ (Ne.symm h.1)
      case isFalse => rfl
    · rfl
  · refine foldl_only _ (fun s j => ?_) _ s
    dsimp only
    split
    · split
      · exact only_harts s _
      · exact Only.refl _ s
    · exact Only.refl _ s

/-- The hart whose store has taken effect goes on, and only harts change. -/
theorem coreStored_frame (t : State) (i a : Nat) : (coreStored s i a (some t)).hart i = (t.hart i).done
    ∧ Only [.harts] t (coreStored s i a (some t)) := by
  obtain ⟨hkept, honly⟩ := loseResv_frame t i a
  exact ⟨(State.hart_setHart_same _ _ _).trans (congrArg Hart.done hkept), honly.trans (only_harts _ _)⟩

end

/-- Settles O51: each instruction is one update of its entry, by the laws of the entry, and one new value of its hart;
an access of the SRAM is its bytes and one new value of the hart. -/
theorem serviceCoreInstructionsComplete : Obligations.ServiceCoreInstructionsComplete := by
  intro s c n hclk hsc
  refine ⟨?run, ?halt, fun hlive => ?_, fun rd a hrun => ?_⟩
  case run =>
    obtain ⟨hhart, hothers, honly⟩ := setHart_frame s (hartIx c n) { s.hart (hartIx c n) with
      run := .running, pc := s.rd (rScCorePc c.val n.val), m := true, x := [], v := [], arrived := false
      released := false, resv := none }
    refine ⟨_, clocked_if hclk hsc, congrArg Hart.run hhart, congrArg Hart.pc hhart, fun r => ?_,
      congrArg Hart.m hhart, hothers, honly⟩
    refine (congrArg (Hart.getX · r) hhart).trans ?_
    exact ite_self _
  case halt => exact ⟨_, clocked_if hclk hsc, setHart_frame ..⟩
  · have hlive' := hartLive_of hsc hlive
    refine ⟨fun rs1 w e href => ⟨?wait, ?waitHolds, ?sig, ?peek, ?push, ?pushHolds, ?pop, ?popHolds, ?popReports⟩,
      ?unnamed, fun rs1 p hpipe => ⟨?arrives, ?released⟩⟩
    case wait =>
      intro try_ rd rs2 hsem hcount hthere
      obtain ⟨hhart, hothers⟩ := xcsqDone_after
        (sqPut_harts s w e ((s.sq w e).semSub (refSel rs1) rs2.toNat)) (hartIx c n) try_ rd.val
      refine ⟨_, (exec_csqWait hclk hlive' href hsem hcount try_ rd).trans (congrArg _ (if_pos hthere)), hhart, ?_,
        hothers⟩
      exact (congrArg (SqEntry.semCount · (refSel rs1)) (sqPut_sq ..)).trans
        (semCount_semSub hsem (refSel rs1) rs2.toNat)
    case waitHolds =>
      intro rd rs2 hsem hcount hless
      have hexec (try_ : Bool) := (exec_csqWait hclk hlive' href hsem hcount try_ rd).trans
        (congrArg _ (if_neg (Nat.not_le.2 hless)))
      exact ⟨⟨_, hexec false, xcsqHold_frame ..⟩, ⟨_, hexec true, xcsqHold_frame ..⟩⟩
    case sig =>
      intro rs2 hsem hcount
      obtain ⟨hhart, hothers⟩ := xcsqDone_after (semPort_harts s w e (refSel rs1) rs2.toNat) (hartIx c n) false 0
      refine ⟨_, exec_csqSig hclk hlive' href hsem hcount, hhart, hothers, rfl, fun hstopped => ?_⟩
      obtain ⟨hadded, -⟩ := semSignal_counts (queueRef_enabled href) hsem (refSel rs1) rs2.toNat
      rw [semPort_stopped hstopped]
      exact hadded.trans (Nat.min_comm _ _)
    case peek => exact fun rd => ⟨_, exec_csqPeek hclk hlive' href rd, setHart_frame ..⟩
    case push =>
      intro try_ rd vs2 hdata hplace
      have hpush := sidePush_place (wd := ⟨(s.hart (hartIx c n)).getV vs2.val, refSb rs1⟩) hplace
      obtain ⟨hhart, hothers⟩ := xcsqDone_after
        (sideEnter_only s w e ⟨(s.hart (hartIx c n)).getV vs2.val, refSb rs1⟩ .harts rfl) (hartIx c n) try_ rd.val
      have hexec := exec_csqPush hclk hlive' href hdata try_ rd vs2
      rw [if_pos hplace, hpush] at hexec
      exact ⟨_, hexec, hhart, hothers, rfl⟩
    case pushHolds =>
      intro rd vs2 hdata hplace
      have hexec (try_ : Bool) := (exec_csqPush hclk hlive' href hdata try_ rd vs2).trans
        (congrArg _ (if_neg (by rw [hplace]; decide)))
      exact ⟨⟨_, hexec false, xcsqHold_frame ..⟩, ⟨_, hexec true, xcsqHold_frame ..⟩⟩
    case pop =>
      intro vd hdata hword hfree
      obtain ⟨hr, hf, hharts⟩ := sqSidePop_moves s w e
      have hexec := exec_csqPop_word hclk hlive' href hdata hword hfree vd
      rw [State.hart_of_harts hharts] at hexec
      obtain ⟨hhart, hothers⟩ := setHart_after hharts (hartIx c n)
        ((s.hart (hartIx c n)).popped vd.val (sqSidePop s w e).1)
      refine ⟨_, hexec, ?_, congrArg Hart.pc hhart, hr, hf, hothers⟩
      exact (congrArg (Hart.getV · vd.val) hhart).trans (Hart.getV_setV ..)
    case popHolds => exact fun vd hdata hwait =>
      ⟨_, exec_csqPop_holds hclk hlive' href hdata hwait vd, setHart_frame ..⟩
    case popReports => exact fun vd hdata hword =>
      ⟨_, exec_csqPop_reports hclk hlive' href hdata hword vd, setHart_frame ..⟩
    case unnamed =>
      intro rs1 rd href
      obtain ⟨hhart, hothers, honly⟩ := setHart_frame s (hartIx c n) ((s.hart (hartIx c n)).trap (xcsqCause s) rs1)
      obtain ⟨hpc, hval⟩ := Hart.trap_saves (s.hart (hartIx c n)) (xcsqCause s) rs1
      exact ⟨_, exec_csqPeek_unnamed hclk hlive' href rd, hhart, (congrArg (Hart.getCsr · 0x341) hhart).trans hpc,
        (congrArg (Hart.getCsr · 0x343) hhart).trans hval, hothers,
        (honly.mono (by simp)).trans (only_drawn _ (by simp))⟩
    case arrives =>
      intro hreleased harrived
      obtain ⟨hhart, hothers, honly⟩ := setHart_frame s (hartIx c n)
        { s.hart (hartIx c n) with run := .held, arrived := true, barId := bits rs1 0 4 }
      exact ⟨_, exec_csqBar_arrives hclk hlive' hpipe hreleased harrived, hhart, hothers,
        (honly.mono (by simp)).trans ((only_wells _ _).mono (by simp))⟩
    case released => exact fun hreleased =>
      ⟨_, exec_csqBar_released hclk hlive' hpipe hreleased, setHart_frame ..⟩
  · have hexec := exec_scAccess a hclk hsc hrun rd
    refine ⟨fun hmis => ?misaligned, fun o halign hpmp hplain hclean hregion => ?_⟩
    case misaligned =>
      exact ⟨_, hexec.trans (congrArg _ (coreAccess_misaligned a _ _ hmis)), setHart_frame ..⟩
    · have hin := aligned_in_line (k := a.size.toNat) (Nat.le_of_lt_succ a.size.isLt) halign
      rw [coreAccess_sram a halign hpmp hplain hclean hregion, coreLoad_sram hregion hin,
        coreStore_sram hregion a.value] at hexec
      refine ⟨fun hload => ?load, fun hstore => ?store⟩
      case load =>
        rw [hload] at hexec
        exact ⟨_, hexec, setHart_frame ..⟩
      case store =>
        rw [hstore] at hexec
        have hwritten := wordStored_only s a.addr.toNat (2 ^ a.size.toNat) a.value
        obtain ⟨hhart, honly⟩ := coreStored_frame (s := s)
          (wordStored s a.addr.toNat (2 ^ a.size.toNat) a.value) (hartIx c n) a.addr.toNat
        exact ⟨_, hexec, hhart, fun b => (honly .mem rfl b).trans (byte_writeMasked_storeLine s.mem a.value hin b),
          (hwritten.mono (by simp)).trans (honly.mono (by simp))⟩

end Sys2Proof.Machine
end

section
/-! What stopping the wells of a pipeline changes: the units that are present stay, and with no word waiting at a side
port memory does (R29, R154, R182, R186). -/

namespace Sys2Proof.Machine

/-! ### The units present (R9) -/

theorem hasWell_of_rd {s t : State} (h : t.rd rCapUnits = s.rd rCapUnits) (w : Nat) : t.hasWell w = s.hasWell w :=
  congrArg (fun v : W64 => decide (w < 8) && bitAt v (24 + w)) h

theorem rCapUnits_ne_rPmuCnt (n : Nat) : rCapUnits ≠ rPmuCnt n := by
  unfold rCapUnits rPmuCnt
  omega

theorem event_caps (s : State) (c u e : Nat) : (event s c u e).rd rCapUnits = s.rd rCapUnits :=
  event_rd rCapUnits_ne_rPmuCnt (by decide) (by decide) s c u e

theorem resetDue_rd (s : State) (p : Nat) (f : FaultInfo) (o : Nat) : (s.resetDue p f).rd o = s.rd o := rfl

theorem wellFault_caps (s : State) (w : Nat) (f : FaultInfo) : (wellFault s w f).rd rCapUnits = s.rd rCapUnits := by
  have hlog (scope : Nat) (task pipe : Option Nat) :
      (logEntry s f scope task pipe).rd rCapUnits = s.rd rCapUnits :=
    logEntry_rd s f scope task pipe (by decide) (by decide)
  unfold wellFault
  split
  next p h =>
    rw [pipeFault_eq]
    dsimp only
    split
    · exact hlog ..
    · exact (resetDue_rd ..).trans (hlog ..)
  · exact hlog ..

theorem sqPut_caps (s : State) (w e : Nat) (x : SqEntry) : (sqPut s w e x).rd rCapUnits = s.rd rCapUnits := by
  unfold sqPut
  dsimp only
  split
  · rfl
  · refine (foldl_part (State.rd · rCapUnits) _ (fun u k => ?_) _ _).trans ?_
    · split
      · exact event_caps ..
      · rfl
    · split
      · exact event_caps ..
      · rfl

theorem sqPush_caps (s : State) (w e : Nat) (wd : Word) : (sqPush s w e wd).rd rCapUnits = s.rd rCapUnits := by
  unfold sqPush sqPushAt
  dsimp only
  split
  · obtain ⟨-, -, -, honly⟩ := ringEnter_frame (event s 4 (queueNo w e) 1) w e wd
    exact (sqPut_caps ..).trans ((State.rd_of_regs (honly .regs rfl) _).trans (event_caps ..))
  · split
    · exact (wellFault_caps ..).trans ((sqPut_caps ..).trans (event_caps ..))
    · exact (sqPut_caps ..).trans (event_caps ..)

theorem sideEnter_caps (s : State) (w e : Nat) (wd : Word) : (sideEnter s w e wd).rd rCapUnits = s.rd rCapUnits := by
  unfold sideEnter
  dsimp only
  split
  · rfl
  · exact sqPush_caps ..

/-! ### Wells and threads that stop (R29, R154, R186) -/

theorem retryAll_only (s : State) (w : Nat) : Only queueParts s (retryAll s w) :=
  ((only_wells s _).mono (by simp [queueParts])).trans 
    (foldl_only (fun u (p : Nat × Word) => sideEnter u w p.1 p.2) (fun u p => sideEnter_only u w p.1 p.2) _ _)

theorem retryAll_caps (s : State) (w : Nat) : (retryAll s w).rd rCapUnits = s.rd rCapUnits :=
  foldl_part (State.rd · rCapUnits) (fun u (p : Nat × Word) => sideEnter u w p.1 p.2)
    (fun u p => sideEnter_caps u w p.1 p.2) _ _

/-- A stop of a running well. -/
theorem wellStop_eq (s : State) (w : Nat) : wellStop s w =
    if (s.well w).run == .running then retryAll (s.setWell w (waitsEnded (s.well w)).stopped) w else s := rfl

theorem wellStop_only (s : State) (w : Nat) : Only queueParts s (wellStop s w) := by
  rw [wellStop_eq]
  split
  · exact ((only_wells s _).mono (by simp [queueParts])).trans (retryAll_only _ w)
  · exact Only.refl _ s

theorem wellStop_caps (s : State) (w : Nat) : (wellStop s w).rd rCapUnits = s.rd rCapUnits := by
  rw [wellStop_eq]
  split
  · exact retryAll_caps ..
  · rfl

/-- No word waits at a side port of the wells of a list, and memory holds these bytes. -/
def SidePortsClear (l : List Nat) (m : Memory) (s : State) : Prop :=
  (∀ w, w ∈ l → (s.well w).retry = []) ∧ s.mem = m

/-- A new value of one well whose side ports stay as they are. -/
theorem SidePortsClear.setWell {l : List Nat} {m : Memory} {s : State} (h : SidePortsClear l m s) (w : Nat) {y : Well}
    (hy : y.retry = (s.well w).retry) : SidePortsClear l m (s.setWell w y) :=
  ⟨fun v hv => (State.piece_setWell Well.retry s w y hy v).trans (h.1 v hv), h.2⟩

theorem SidePortsClear.wellStop {l : List Nat} {m : Memory} {s : State} (h : SidePortsClear l m s) {w : Nat}
    (hw : w ∈ l) : SidePortsClear l m (wellStop s w) := by
  by_cases hrun : (s.well w).run = .running
  · have hretry : (waitsEnded (s.well w)).stopped.retry = (s.well w).retry :=
      (stopped_retry _).trans (waitsEnded_part Well.retry (fun _ _ _ => rfl) (s.well w))
    rw [wellStop_running hrun (h.1 w hw)]
    exact h.setWell w hretry
  · rw [wellStop_eq, if_neg (by simpa using hrun)]
    exact h

/-- The active threads of well w stop. -/
def threadsStopped (s : State) (w : Nat) : State :=
  (List.range 8).foldl (fun s i => if (s.slc w i).active then threadStop s w i else s) s

theorem threadsStopped_only (s : State) (w : Nat) : Only [.wells] s (threadsStopped s w) :=
  foldl_only _ (fun u i => by
    split
    · exact only_wells u _
    · exact Only.refl _ u) _ s

theorem SidePortsClear.threadsStopped {l : List Nat} {m : Memory} {s : State} (h : SidePortsClear l m s) (w : Nat) :
    SidePortsClear l m (threadsStopped s w) :=
  List.foldlRecOn (motive := SidePortsClear l m) _ _ h fun u hu i _ => by
    split
    · exact hu.setWell w rfl
    · exact hu

theorem pipeStop_eq (s : State) (l : List Nat) :
    pipeStop s l = l.foldl (fun s w => wellStop (threadsStopped s w) w) s := rfl

theorem pipeStop_only (s : State) (l : List Nat) : Only queueParts s (pipeStop s l) :=
  foldl_only _ (fun u w => ((threadsStopped_only u w).mono (by simp [queueParts])).trans (wellStop_only _ w)) l s

theorem pipeStop_caps (s : State) (l : List Nat) : (pipeStop s l).rd rCapUnits = s.rd rCapUnits :=
  foldl_part (State.rd · rCapUnits) (fun s w => wellStop (threadsStopped s w) w)
    (fun u w => (wellStop_caps ..).trans (State.rd_of_regs (threadsStopped_only u w .regs rfl) _)) l s

/-- With no word waiting at a side port a stop of the wells stores nothing. -/
theorem pipeStop_mem {s : State} {l : List Nat} (h : ∀ w, w ∈ l → (s.well w).retry = []) :
    (pipeStop s l).mem = s.mem := by
  have hclear : SidePortsClear l s.mem (pipeStop s l) :=
    List.foldlRecOn (motive := SidePortsClear l s.mem) _ _ ⟨h, rfl⟩ fun u hu w hw =>
      (hu.threadsStopped w).wellStop hw
  exact hclear.2

end Sys2Proof.Machine
end

section
/-! The mailbox commands on images, and the rotation of later segments (R289, R321, R322, R332, R333, R342). -/

namespace Sys2Proof.Machine

/-! ### The answer of a command (R342) -/

theorem only_mp (s : State) (m : Mp) : Only [.mp] s { s with mp := m } := by
  intro q hq
  cases q <;> simp_all [Part.same]

/-- The answer of a command: nothing but the MP's answer changes, and no image. -/
theorem mpDone_frame (s : State) (cmd st : Nat) (pl : List W64) :
    (∀ h, (mpDone s cmd st pl).mp.image h = s.mp.image h) ∧ Only [.mp] s (mpDone s cmd st pl) := by
  unfold mpDone
  split
  · split
    · exact ⟨fun _ => rfl, only_mp s _⟩
    · exact ⟨fun _ => rfl, Only.refl _ s⟩
  · exact ⟨fun _ => rfl, Only.refl _ s⟩

/-- A head request that asks for the command takes its answer. -/
theorem mpDone_answer {s : State} {cmd : Nat} (h : mpAsked s cmd = true) (st : Nat) (pl : List W64) :
    (mpDone s cmd st pl).mp.answer = some (st, pl) := by
  simp only [mpAsked, Bool.and_eq_true, Option.isNone_iff_eq_none] at h
  obtain ⟨hnone, hhead⟩ := h
  cases hqueue : s.mp.queue with
  | nil => simp [hqueue] at hhead
  | cons q r =>
    have hcmd : bits (q.words.getD 0 0) 0 16 = cmd := by simpa [hqueue] using hhead
    unfold mpDone
    rw [hqueue, hnone]
    exact (congrArg (fun t : State => t.mp.answer) (if_pos hcmd))

/-! ### LOAD (R321, R322) -/

/-- A load without a place of failure has made a pipeline resident with the values of the command. -/
theorem imageLoad_resident {s u : State} {base task : W64} {p0 st : Nat} {reversed : Bool}
    (h : imageLoad s base p0 reversed task = some (st, [], u)) :
    ∃ k, let i := u.mp.image k
      i.resident = true ∧ i.base = base ∧ i.p0 = p0 ∧ i.reversed = reversed ∧ i.task = task := by
  unfold imageLoad at h
  dsimp only at h
  split at h
  · exact nomatch h
  · split at h
    · injection h with h
      injection h with _ h
      injection h with h _
      exact nomatch h
    · split at h
      · injection h with h
        injection h with _ h
        injection h with h _
        exact nomatch h
      · injection h with h
        injection h with _ h
        injection h with _ h
        subst h
        refine ⟨((planAt (correctedMem s) base.toNat).run (correctedMem s) p0 reversed).wells.headD p0, ?_⟩
        dsimp only
        rw [Mp.image_setImage]
        exact ⟨rfl, rfl, rfl, rfl, rfl⟩

theorem exec_load {s u : State} {base task : W64} {p0 : WellIx} {reversed : Bool} {st : Nat} {pl : List W64}
    (hclk : s.clocksRun = true) (hmp : s.mp.restarting = false)
    (h : imageLoad s base p0.val reversed task = some (st, pl, u)) :
    exec (.load base p0 reversed task) s = .next (mpDone u 1 st pl) := by
  show execLoad base p0 reversed task s = _
  rw [execLoad, clocked_run hclk, mpLoad, hmp, h]
  rfl

/-! ### Parts that the steps of a command leave -/

theorem unloadAll_only (s : State) (l : List (Nat × Nat)) : Only [.wells] s (unloadAll s l) :=
  foldl_only _ (fun u _ => only_wells u _) l s

theorem only_wr (s : State) (o : Nat) (v : W64) : Only [.regs] s (s.wr o v) := only_regs s _

theorem only_setBit (s : State) (o n : Nat) (b : Bool) : Only [.regs] s (s.setBit o n b) := only_wr s o _

theorem only_setFld (s : State) (o l n x : Nat) : Only [.regs] s (s.setFld o l n x) := only_wr s o _

theorem detach_only (s : State) (l : List Nat) : Only [.regs] s (detach s l) :=
  foldl_only (fun s c => (s.setBit (rScClCtrl c) 31 false).setFld (rScClMap c) 0 8 0)
    (fun u _ => (only_setBit u _ _ _).trans (only_setFld _ _ _ _ _)) l s

/-- The MP's reads of an image are accesses of DRAM. -/
theorem mpReads_hideDram (s : State) (base size : Nat) : (mpReads s base size).hideDram = s.hideDram := by
  unfold mpReads
  split
  · refine foldl_part State.hideDram _ (fun u e => ?_) _ s
    dsimp only
    split
    · rfl
    · exact hideDram_noteCorrected ..
    · exact hideDram_noteUncorrectable ..
  · rfl

theorem mpReads_mp (s : State) (base size : Nat) : (mpReads s base size).mp = s.mp :=
  (congrArg State.mp (mpReads_hideDram s base size) :)

theorem commitGo_mp (s : State) (w x : Nat) : (commitGo s w x).mp = s.mp := by
  unfold commitGo
  dsimp only
  split
  · rfl
  · split <;> rfl

theorem commitEnd_mp (s : State) (w x : Nat) : (commitEnd s w x).mp = s.mp := State.setWell_mp ..

theorem ctxCommit_mp (s : State) (w x : Nat) (crc : W32) : (ctxCommit s w x crc).2.mp = s.mp := by
  unfold ctxCommit
  dsimp only
  have hgo := commitGo_mp (s.setWell w { s.well w with commitCrc := crc }) w x
  split
  · exact (commitEnd_mp ..).trans hgo
  · exact hgo

theorem segsCommit_mp (s : State) (crcs : SMap W32) (l : List (Nat × Nat)) : (segsCommit s crcs l).2.2.mp = s.mp := by
  induction l generalizing s with
  | nil => rfl
  | cons c r ih =>
    unfold segsCommit
    dsimp only
    split
    · exact (ih _).trans (ctxCommit_mp ..)
    · exact ctxCommit_mp ..

theorem segsInto_mp (s : State) (m : Memory) (p : Plan) (r : Run) (i : Image) (l : List (Nat × Nat)) :
    (segsInto s m p r i l).2.2.mp = s.mp := by
  have hwritten : (segsWritten s m p i.p0 i.reversed l).mp = s.mp := 
    foldl_part State.mp (fun (s : State) (c : Nat × Nat) =>
      s.setWell c.1 (ctxWritten m p (virtWell i.p0 i.reversed c.1) c.2 (s.well c.1))) (fun _ _ => rfl) l s
  unfold segsInto
  dsimp only
  split
  · exact hwritten
  · exact (segsCommit_mp ..).trans hwritten

/-! ### UNLOAD (R182, R333) -/

theorem wellReleased_pipe (y : Well) : (wellReleased y).pipe = y.pipe &&& 0x7FFFFFFF :=
  Well.foldl_setSlice_part Well.pipe { y with pipe := y.pipe &&& 0x7FFFFFFF } 8 (fun y => { y with declared := 64 })
    fun _ _ _ => rfl

/-- A well that is released belongs to no pipeline. -/
theorem pipeOf_setWell_released (s : State) (w : Nat) : (s.setWell w (wellReleased (s.well w))).pipeOf w = none := by
  have hbit (v : W32) : bitAt (v &&& 0x7FFFFFFF) 31 = false := by
    rw [bitAt, BitVec.getLsbD_and]
    exact Bool.and_false _
  rw [State.pipeOf, State.well_setWell_same, wellReleased_pipe, hbit]
  rfl

/-- A release gives no well to a pipeline. -/
theorem pipeOf_setWell_released_none {s : State} {v : Nat} (h : s.pipeOf v = none) (w : Nat) :
    (s.setWell w (wellReleased (s.well w))).pipeOf v = none := by
  by_cases hv : v = w
  · rw [hv]
    exact pipeOf_setWell_released s w
  · rw [State.pipeOf, State.well_setWell_other s _ hv]
    exact h

/-- The wells of the list that are present belong to no pipeline. -/
theorem wellsReleased_pipeOf (s : State) (l : List Nat) (w : Nat) (hwell : s.hasWell w = true)
    (h : w ∈ l ∨ s.pipeOf w = none) : (wellsReleased s l).pipeOf w = none := by
  unfold wellsReleased
  induction l generalizing s with
  | nil => exact h.resolve_left (List.not_mem_nil)
  | cons v r ih =>
    rw [List.foldl_cons]
    by_cases hv : s.hasWell v = true
    · rw [if_pos hv]
      refine ih _ hwell ?_
      rcases h with hmem | hnone
      · rcases List.mem_cons.1 hmem with rfl | hmem
        · exact .inr (pipeOf_setWell_released s w)
        · exact .inl hmem
      · exact .inr (pipeOf_setWell_released_none hnone v)
    · rw [if_neg hv]
      exact ih _ hwell (h.imp_left fun hmem => (List.mem_cons.1 hmem).resolve_left fun hw : w = v => hv (hw ▸ hwell))

theorem wellsReleased_only (s : State) (l : List Nat) : Only [.wells] s (wellsReleased s l) :=
  foldl_only _ (fun u w => by
    split
    · exact only_wells u _
    · exact Only.refl _ u) l s

/-- The wells of pipeline p stopped, their contexts cleared, and they and the clusters given up. -/
def wellsUnloaded (s : State) (i : Image) : State :=
  let u := unloadAll (pipeStop s i.wells) (committedIn (pipeStop s i.wells) i.wells)
  detach (wellsReleased u i.wells) i.clusters

theorem imageUnload_eq (s : State) (p : Nat) : imageUnload s p =
    let u := wellsUnloaded s (s.mp.image p)
    { u.setPipe p { u.dc.pipe p with en := false } with mp := u.mp.setImage p Image.none_ } := rfl

theorem wellsUnloaded_only (s : State) (i : Image) : Only queueParts s (wellsUnloaded s i) := by
  have hstop := pipeStop_only s i.wells
  have hclear := unloadAll_only (pipeStop s i.wells) (committedIn (pipeStop s i.wells) i.wells)
  refine (hstop.trans (hclear.mono (by simp [queueParts]))).trans ?_
  exact ((wellsReleased_only _ _).mono (by simp [queueParts])).trans ((detach_only _ _).mono (by simp [queueParts]))

theorem wellsUnloaded_pipeOf {s : State} {i : Image} {w : Nat} (hw : w ∈ i.wells) (hwell : s.hasWell w = true) :
    (wellsUnloaded s i).pipeOf w = none := by
  have hclear := unloadAll_only (pipeStop s i.wells) (committedIn (pipeStop s i.wells) i.wells)
  have hcaps := (State.rd_of_regs (hclear .regs rfl) rCapUnits).trans (pipeStop_caps s i.wells)
  refine (State.pipeOf_of_wells ((detach_only _ _) .wells rfl) w).trans ?_
  exact wellsReleased_pipeOf _ _ w ((hasWell_of_rd hcaps w).trans hwell) (.inl hw)

theorem wellsUnloaded_mem {s : State} {i : Image} (h : ∀ w, w ∈ i.wells → (s.well w).retry = []) (b : Nat) :
    (wellsUnloaded s i).mem.byte b = s.mem.byte b := by
  have hclear := unloadAll_only (pipeStop s i.wells) (committedIn (pipeStop s i.wells) i.wells)
  rw [← pipeStop_mem h]
  exact (detach_only _ _ .mem rfl b).trans ((wellsReleased_only _ _ .mem rfl b).trans (hclear .mem rfl b))

theorem exec_unload {s : State} {p : PipeIx} (hclk : s.clocksRun = true) (hmp : s.mp.restarting = false)
    (hidle : enginesBusy s p.val = false) : exec (.unload p) s = .next
      (if unloadable s p.val then mpDone (imageUnload s p.val) 2 0 [] else mpDone s 2 stCtxInvalid []) := by
  show execUnload p s = _
  rw [execUnload, clocked_run hclk, mpUnload, hmp, hidle]
  rfl

theorem only_pipeGone (s : State) (d : Dc) (m : Mp) : Only [.dc, .mp] s { s with dc := d, mp := m } := by
  intro q hq
  cases q <;> simp_all [Part.same]

/-- What the end of an unload leaves of the DC, of the images and of the state (R333). -/
theorem imageUnload_frame (s : State) (p : Nat) : let t := imageUnload s p
    (t.mp.image p).resident = false ∧ (t.dc.pipe p).en = false
      ∧ (∀ q, q ≠ p → t.mp.image q = s.mp.image q ∧ t.dc.pipe q = s.dc.pipe q)
      ∧ Only [.dc, .mp] (wellsUnloaded s (s.mp.image p)) t := by
  have honly := wellsUnloaded_only s (s.mp.image p)
  have hmp : (wellsUnloaded s (s.mp.image p)).mp = s.mp := honly .mp rfl
  have hdc : (wellsUnloaded s (s.mp.image p)).dc = s.dc := honly .dc rfl
  rw [imageUnload_eq]
  dsimp only [State.setPipe]
  rw [hmp, hdc, Mp.image_setImage, Dc.pipe_setPipe]
  exact ⟨rfl, rfl, fun q hq => ⟨Mp.image_setImage_other _ _ hq, Dc.pipe_setPipe_other _ _ hq⟩,
    only_pipeGone _ _ _⟩

/-! ### RELOAD (R332) -/

/-- A reload puts the first four segments into the contexts, and touches no other image. -/
theorem imageReload_mp (s : State) (p : Nat) :
    (imageReload s p).2.2.mp = s.mp.setImage p { s.mp.image p with held := [0, 1, 2, 3] } := by
  have hwells (u : State) (l : List Nat) (f : State → Nat → Well) :
      (l.foldl (fun s w => s.setWell w (f s w)) u).mp = u.mp :=
    foldl_part State.mp (fun s w => s.setWell w (f s w)) (fun _ _ => rfl) l u
  have hstop (u : State) (l : List Nat) (c : List (Nat × Nat)) : (unloadAll (pipeStop u l) c).mp = u.mp :=
    (unloadAll_only _ _ .mp rfl).trans (pipeStop_only u l .mp rfl)
  unfold imageReload
  dsimp only
  rw [hwells, hstop, mpReads_mp]
  split
  · exact segsInto_mp ..
  · exact (unloadAll_only _ _ .mp rfl).trans (segsInto_mp ..)

theorem exec_reload {s : State} {p : PipeIx} (hclk : s.clocksRun = true) (hmp : s.mp.restarting = false)
    (hidle : enginesBusy s p.val = false) (hresident : (s.mp.image p.val).resident = true)
    (hflight : (s.dc.pipe p.val).flight = []) : exec (.reload p) s = .next
      (mpDone (imageReload s p.val).2.2 3 (imageReload s p.val).1
        (if (imageReload s p.val).1 = 0 then [] else [placeWord (imageReload s p.val).2.1 0xFF 0xFF])) := by
  show execReload p s = _
  rw [execReload, clocked_run hclk, mpReload, hmp, hidle, hresident, hflight]
  rfl

/-! ### The rotation of later segments (R289) -/

/-- The context of segment seg is given up in every well of pipeline p, and the sections of the segment go into it. -/
def segmentInto (s : State) (p seg : Nat) : Nat × Nat × State :=
  let i := s.mp.image p
  let m := correctedMem s
  let q := planAt m i.base.toNat
  let x := seg % 4
  let gone := (i.wells.filter fun w => (s.well w).ctxState x == .committed).map fun w => (w, x)
  let u := unloadAll (mpReads s i.base.toNat q.bytes) gone
  segsInto { u with mp := s.mp.setImage p { i with held := i.held.set x seg } } m q
    (q.run m i.p0 i.reversed) i ((q.pieces i.p0 i.reversed).filter fun c => c.2 == seg)

theorem segmentInto_mp (s : State) (p seg : Nat) : (segmentInto s p seg).2.2.mp
    = s.mp.setImage p { s.mp.image p with held := (s.mp.image p).held.set (seg % 4) seg } := segsInto_mp ..

theorem exec_segmentContextLoad {s : State} {p : PipeIx} {seg : Fin 16} (hclk : s.clocksRun = true)
    (hmp : s.mp.restarting = false) (hidle : enginesBusy s p.val = false)
    (hresident : (s.mp.image p.val).resident = true)
    (hmany : 4 < (planAt (correctedMem s) (s.mp.image p.val).base.toNat).nsegs)
    (hseg : seg.val < (planAt (correctedMem s) (s.mp.image p.val).base.toNat).nsegs)
    (hdue : segDue (planAt (correctedMem s) (s.mp.image p.val).base.toNat).nsegs
      (s.well ((s.mp.image p.val).wells.headD 0)).seg
      ((s.mp.image p.val).held.getD (seg.val % 4) (seg.val % 4)) seg.val = true)
    (hfree : ctxFree s (s.mp.image p.val).wells (seg.val % 4) = true) :
    exec (.segmentContextLoad p seg) s = .next (if (segmentInto s p.val seg.val).1 = 0
      then (segmentInto s p.val seg.val).2.2
      else pipeFault (segmentInto s p.val seg.val).2.2 p.val
        (mkFault (segmentInto s p.val seg.val).1 0xA (segmentInto s p.val seg.val).2.1)) := by
  have hu (l : List (Nat × Nat)) : (unloadAll (mpReads s (s.mp.image p.val).base.toNat
      (planAt (correctedMem s) (s.mp.image p.val).base.toNat).bytes) l).mp = s.mp :=
    (unloadAll_only _ _ .mp rfl).trans (mpReads_mp ..)
  refine (clocked_run hclk _).trans ((if_pos ?_).trans ?_)
  · rw [hresident, hmp, hidle, hdue, hfree, decide_eq_true hmany, decide_eq_true hseg]
    rfl
  · unfold segmentInto
    dsimp only
    rw [hu]

/-- Settles O45: each command is one step of the MP, whose parts leave the images of other pipelines. -/
theorem imagesAreLoadedUnloadedAndReloaded : Obligations.ImagesAreLoadedUnloadedAndReloaded := by
  intro s hclk hmp
  refine ⟨?load, ?unload, ?refused, ?reload, ?segment⟩
  case load =>
    intro base p0 reversed task st pl u hload
    obtain ⟨himages, -⟩ := mpDone_frame u 1 st pl
    refine ⟨_, exec_load hclk hmp hload, rfl, fun hasked => mpDone_answer hasked st pl, ?_⟩
    rintro rfl
    obtain ⟨k, hk⟩ := imageLoad_resident hload
    exact ⟨k, (himages k).symm ▸ hk⟩
  case unload =>
    intro p hidle hready
    have hexec := exec_unload hclk hmp hidle
    rw [if_pos hready] at hexec
    obtain ⟨himages, hdone⟩ := mpDone_frame (imageUnload s p.val) 2 0 []
    obtain ⟨hgone, hoff, hothers, hgiven⟩ := imageUnload_frame s p.val
    have hdc : (mpDone (imageUnload s p.val) 2 0 []).dc = (imageUnload s p.val).dc := hdone .dc rfl
    have hend := (hgiven.mono (l' := [.dc, .mp]) (by simp)).trans (hdone.mono (by simp))
    refine ⟨_, hexec, (congrArg Image.resident (himages p.val)).trans hgone, ?_, fun w hw hwell => ?_, fun q hq => ?_,
      ?_, fun hretry b => ?_⟩
    · rw [hdc]
      exact hoff
    · rw [State.pipeOf_of_wells (hend .wells rfl)]
      exact wellsUnloaded_pipeOf hw hwell
    · obtain ⟨himage, hpipe⟩ := hothers q hq
      rw [hdc]
      exact ⟨(himages q).trans himage, hpipe⟩
    · exact ((wellsUnloaded_only s (s.mp.image p.val)).mono (by simp [queueParts])).trans (hend.mono (by simp))
    · exact (hend .mem rfl b).trans (wellsUnloaded_mem hretry b)
  case refused =>
    intro p hidle hnot
    rw [exec_unload hclk hmp hidle, if_neg (by simp [hnot])]
  case reload =>
    intro p hidle hresident hflight
    obtain ⟨himage, -⟩ := mpDone_frame (imageReload s p.val).2.2 3 (imageReload s p.val).1
      (if (imageReload s p.val).1 = 0 then [] else [placeWord (imageReload s p.val).2.1 0xFF 0xFF])
    simp only [imageReload_mp] at himage
    exact ⟨_, exec_reload hclk hmp hidle hresident hflight, rfl, (himage p.val).trans (Mp.image_setImage ..),
      fun q hq => (himage q).trans (Mp.image_setImage_other _ _ hq)⟩
  case segment =>
    intro p seg i m q x gone u z hresident hmany hseg hidle hdue hfree
    have hinto := segmentInto_mp s p.val seg.val
    have hnew : (if z.1 = 0 then z.2.2 else pipeFault z.2.2 p.val (mkFault z.1 0xA z.2.1)).mp
        = s.mp.setImage p.val { i with held := i.held.set x seg.val } := by
      split
      · exact hinto
      · exact (pipeFault_mp ..).trans hinto
    refine ⟨_, exec_segmentContextLoad hclk hmp hidle hresident hmany hseg hdue hfree, rfl, ?_, fun h hh => ?_⟩
    · exact (congrArg (Mp.image · p.val) hnew).trans (Mp.image_setImage ..)
    · exact (congrArg (Mp.image · h) hnew).trans (Mp.image_setImage_other _ _ hh)

end Sys2Proof.Machine
end

section
/-! Rings, sources and the admission control of the dispatch controller (R346, R349, R353, R358, R363). -/

namespace Sys2Proof.Machine

/-! ### One ring or one pipeline written -/

theorem setRing_frame (s : State) (n : Nat) (g : Ring) :
    (s.setRing n g).dc.ring n = g ∧ (∀ m, m ≠ n → (s.setRing n g).dc.ring m = s.dc.ring m)
      ∧ Only [.dc] s (s.setRing n g) :=
  ⟨Dc.ring_setRing .., fun _ hm => Dc.ring_setRing_other _ _ hm, only_dc s _⟩

theorem State.setRing_setRing (s : State) (n : Nat) (g h : Ring) : (s.setRing n g).setRing n h = s.setRing n h := by
  simp [State.setRing, Dc.setRing, SMap.set_set]

theorem setPipe_frame (s : State) (p : Nat) (x : DcPipe) :
    (s.setPipe p x).dc.pipe p = x ∧ (∀ q, q ≠ p → (s.setPipe p x).dc.pipe q = s.dc.pipe q)
      ∧ (∀ m, (s.setPipe p x).dc.ring m = s.dc.ring m) ∧ Only [.dc] s (s.setPipe p x) :=
  ⟨Dc.pipe_setPipe .., fun _ hq => Dc.pipe_setPipe_other _ _ hq, fun _ => rfl, only_dc s _⟩

/-- What settling makes of a ring: completed descriptors whose turn has come leave the window for the records. -/
def Ring.settled (g : Ring) (now : Nat) : Ring :=
  { g with window := (settleWindow g.open_ now g.window).1, due := g.due ++ (settleWindow g.open_ now g.window).2 }

theorem ringSettle_eq (s : State) (n : Nat) : ringSettle s n = s.setRing n ((s.dc.ring n).settled s.dt) := rfl

theorem ringSettle_setRing (s : State) (n : Nat) (g : Ring) :
    ringSettle (s.setRing n g) n = s.setRing n (g.settled s.dt) := by
  rw [ringSettle_eq, State.setRing_setRing, (setRing_frame s n g).1]
  rfl

/-! ### Tails and configuration of a ring (R346, R349) -/

section Ring

variable {s : State} {n : Nat}

theorem ringTail_taken {v : Nat} (hfwd : (v + 2 ^ 32 - (s.dc.ring n).tail) % 2 ^ 32 < 2 ^ 31)
    (hsize : (v + 2 ^ 32 - (s.dc.ring n).head) % 2 ^ 32 ≤ (s.dc.ring n).size) :
    ringTail s n v = s.setRing n { s.dc.ring n with tail := v } :=
  if_neg (by simp only [Bool.or_eq_true, decide_eq_true_eq]; omega)

theorem ringTail_refused {v : Nat} (h : 2 ^ 31 ≤ (v + 2 ^ 32 - (s.dc.ring n).tail) % 2 ^ 32
      ∨ (s.dc.ring n).size < (v + 2 ^ 32 - (s.dc.ring n).head) % 2 ^ 32) :
    ringTail s n v = s.setRing n { s.dc.ring n with ovr := true } :=
  if_pos (by simpa only [Bool.or_eq_true, decide_eq_true_eq] using h)

theorem ringCfgWrite_enable (hoff : (s.dc.ring n).enabled = false) (cfg : W32) :
    ringCfgWrite s n (cfg ||| 0x80000000) = s.setRing n { s.dc.ring n with
      cfg := (cfg ||| 0x80000000) &&& 0x9F3F7FFF, stop := false } := by
  have hen : bitAt ((cfg ||| 0x80000000) &&& 0x9F3F7FFF) 31 = true := by simp [bitAt]
  simp only [ringCfgWrite, hoff, hen, Bool.false_eq_true, if_false, Bool.not_true, Bool.and_false]

/-- Clearing EN of a ring completes each descriptor of its window as cancelled. -/
def Ring.disabled (g : Ring) (now : Nat) : Ring :=
  { g with cfg := g.cfg &&& 0x7FFFFFFF
           window := g.window.map fun d => if d.done.isSome then d else { d with done := some (stCancelled, now) } }

theorem ringCfgWrite_disable (hon : (s.dc.ring n).enabled = true) (cfg : W32) :
    ringCfgWrite s n (cfg &&& 0x7FFFFFFF) = s.setRing n (((s.dc.ring n).disabled s.dt).settled s.dt) := by
  have hen : bitAt ((cfg &&& 0x7FFFFFFF) &&& 0x9F3F7FFF) 31 = false := by simp [bitAt]
  rw [← ringSettle_setRing]
  simp only [ringCfgWrite, hon, hen, Bool.false_eq_true, if_true, if_false]
  rfl

theorem Ring.disabled_settled_reads (g : Ring) (now : Nat) :
    let h := (g.disabled now).settled now
    h.enabled = false ∧ h.tail = g.tail ∧ h.head = g.head := by
  refine ⟨?_, rfl, rfl⟩
  show bitAt (g.cfg &&& 0x7FFFFFFF) 31 = false
  simp [bitAt]

end Ring

/-! ### Admission of a pipeline (R274, R284, R286, R358) -/

theorem closeBatch_open {s : State} {p : Nat}
    (h : segsOf s p = 0 ∨ (s.dc.pipe p).flight.length < depthOf s p) : closeBatch s p = s :=
  if_neg (by simp; omega)

/-- Among its pipelines and rings the DC differs at EOS of pipeline p alone. -/
def EosOnly (p : Nat) (s t : State) : Prop :=
  (∃ e, t.dc.pipe p = { s.dc.pipe p with eos := e }) ∧ (∀ q, q ≠ p → t.dc.pipe q = s.dc.pipe q)
    ∧ ∀ m, t.dc.ring m = s.dc.ring m

theorem EosOnly.of_dc {p : Nat} {s t : State} (h : t.dc = s.dc) : EosOnly p s t :=
  ⟨⟨_, by rw [h]⟩, fun _ _ => by rw [h], fun _ => by rw [h]⟩

theorem EosOnly.of_setPipe {p : Nat} {s t : State} (e : Option Nat)
    (h : t.dc = (s.setPipe p { s.dc.pipe p with eos := e }).dc) : EosOnly p s t := by
  obtain ⟨hp, hq, hm, -⟩ := setPipe_frame s p { s.dc.pipe p with eos := e }
  exact ⟨⟨e, by rw [h, hp]⟩, fun q hne => by rw [h, hq q hne], fun m => by rw [h, hm]⟩

/-- The end of a micro-batch is noted at its own pipeline; its marker enters a queue, which is no part of the DC. -/
theorem closeBatch_eosOnly (s : State) (p : Nat) : EosOnly p s (closeBatch s p) := by
  unfold closeBatch
  dsimp only
  split
  · split
    · exact .of_dc rfl
    · rename_i t _
      split
      · exact .of_setPipe (some t) rfl
      · split
        · exact .of_setPipe (some t) (sideEnter_only _ _ _ _ .dc rfl)
        · exact .of_setPipe (some t) rfl
  · exact .of_dc rfl

/-- Settles O35: each write is one ring or one pipeline set; a closed micro-batch touches the DC only at EOS of its
own pipeline. -/
theorem ringRegistersComplete : Obligations.RingRegistersComplete := by
  intro s n hclk
  refine ⟨?tail, ?ovr, ?chead, ?enable, ?disable, ?control, ?controlOpen⟩
  case tail =>
    intro v ha hfwd hsize
    refine ⟨_, clocked_run hclk _, ?_⟩
    rw [roused_awake ha, ringTail_taken hfwd hsize]
    exact setRing_frame s n.val _
  case ovr =>
    intro v ha hbad
    refine ⟨_, clocked_run hclk _, ?_⟩
    rw [roused_awake ha, ringTail_refused hbad]
    exact setRing_frame s n.val _
  case chead =>
    intro v
    exact ⟨_, clocked_run hclk _, setRing_frame s n.val _⟩
  case enable =>
    intro cfg hoff
    refine ⟨_, clocked_run hclk _, ?_⟩
    rw [ringCfgWrite_enable hoff]
    obtain ⟨hring, hothers⟩ := setRing_frame s n.val { s.dc.ring n.val with
      cfg := (cfg ||| 0x80000000) &&& 0x9F3F7FFF, stop := false }
    rw [hring]
    exact ⟨by simp [Ring.enabled, bitAt], rfl, rfl, hothers⟩
  case disable =>
    intro cfg hon
    refine ⟨_, clocked_run hclk _, ?_⟩
    rw [ringCfgWrite_disable hon]
    obtain ⟨hring, hothers⟩ := setRing_frame s n.val (((s.dc.ring n.val).disabled s.dt).settled s.dt)
    obtain ⟨hen, htail, hhead⟩ := Ring.disabled_settled_reads (s.dc.ring n.val) s.dt
    rw [hring]
    exact ⟨hen, htail, hhead, hothers⟩
  case control =>
    intro p adm thr
    let x : DcPipe := { s.dc.pipe p.val with admitting := adm, throughput := thr }
    obtain ⟨hp, hq, hm, -⟩ := setPipe_frame s p.val x
    obtain ⟨⟨e, hpipe⟩, hpipes, hrings⟩ := closeBatch_eosOnly (s.setPipe p.val x) p.val
    rw [hp] at hpipe
    exact ⟨_, clocked_run hclk _, congrArg DcPipe.admitting hpipe, congrArg DcPipe.throughput hpipe,
      fun q h => (hpipes q h).trans (hq q h), fun m => (hrings m).trans (hm m)⟩
  case controlOpen =>
    intro p adm thr hopen
    let x : DcPipe := { s.dc.pipe p.val with admitting := adm, throughput := thr }
    have hframe := setPipe_frame s p.val x
    have hdepth : depthOf (s.setPipe p.val x) p.val = if thr then bits (s.well p.val).pipe 0 4 else 1 := by
      rw [depthOf, hframe.1]
      rfl
    have hkeep : closeBatch (s.setPipe p.val x) p.val = s.setPipe p.val x :=
      closeBatch_open (by rw [hdepth, hframe.1]; exact hopen)
    refine ⟨_, clocked_run hclk _, ?_⟩
    rw [pipeControl, hkeep]
    exact hframe

/-! ### Sources (R353) -/

theorem setSrc_frame (s : State) (i : Nat) (v : W64) :
    let t : State := { s with dc := s.dc.setSrc i v }
    t.dc.src i = v ∧ (∀ m, m ≠ i → t.dc.src m = s.dc.src m) ∧ Only [.dc] s t :=
  ⟨Dc.src_setSrc .., fun _ hm => Dc.src_setSrc_other _ _ hm, only_dc s _⟩

/-- The window of a ring after its check is all that an update of the ring changes, but for its settling. -/
theorem ringUpdate_eq (s : State) (n : Nat) :
    ringUpdate s n = s.setRing n (({ s.dc.ring n with
      window := checkWindow s n (s.dc.ring n).open_ [] false (s.dc.ring n).window } : Ring).settled s.dt) :=
  ringSettle_setRing ..

theorem ringUpdate_src (s : State) (n m : Nat) : (ringUpdate s n).dc.src m = s.dc.src m := by
  rw [ringUpdate_eq]
  rfl

theorem ringUpdate_only (s : State) (n : Nat) : Only [.dc] s (ringUpdate s n) := by
  rw [ringUpdate_eq]
  exact (setRing_frame s n _).2.2

section Source

variable {s : State} {i : Nat} {v : W64}

theorem srcWrite_map (hfree : srcState s i = 0) (hactive : bits v 62 2 = 1) :
    srcWrite s i v = { s with dc := s.dc.setSrc i (v &&& srcMask) } := by
  simp only [srcWrite, hfree, hactive]

theorem srcWrite_update (hon : srcState s i = 1) (hactive : bits v 62 2 = 1) :
    srcWrite s i v = { s with dc := { s.dc with srcNext := SMap.set (fun _ => 0) s.dc.srcNext i v } } := by
  simp only [srcWrite, hon, hactive]

theorem srcWrite_drain (hon : srcState s i = 1) (hdrain : bits v 62 2 = 2) :
    srcWrite s i v = ringUpdate { s with dc := s.dc.setSrc i (putBits (s.dc.src i) 62 2 2) }
      (srcRing { s with dc := s.dc.setSrc i (putBits (s.dc.src i) 62 2 2) } i) := by
  simp only [srcWrite, hon, hdrain]

end Source

/-- Settles O36: each move writes the register of its own source. -/
theorem sourcesMapUpdateDrainAndFree : Obligations.SourcesMapUpdateDrainAndFree := by
  intro s n hclk
  refine ⟨?map, ?update, ?drain, ?freed⟩
  case map =>
    intro v hfree hactive
    refine ⟨_, clocked_run hclk _, ?_⟩
    rw [srcWrite_map hfree hactive]
    exact setSrc_frame s n.val _
  case update =>
    intro v hon hactive
    refine ⟨_, clocked_run hclk _, ?_⟩
    rw [srcWrite_update hon hactive]
    exact ⟨SMap.get_set_same .., rfl, fun _ _ => rfl, only_dc s _⟩
  case drain =>
    intro hon
    refine ⟨_, clocked_run hclk _, ?_⟩
    rw [srcWrite_drain hon (by decide)]
    let v := putBits (s.dc.src n.val) 62 2 2
    let u : State := { s with dc := s.dc.setSrc n.val v }
    obtain ⟨hsrc, hothers, honly⟩ := setSrc_frame s n.val v
    have hreg : (ringUpdate u (srcRing u n.val)).dc.src n.val = v := (ringUpdate_src ..).trans hsrc
    refine ⟨?_, ?_, ?_, fun m hm => (ringUpdate_src ..).trans (hothers m hm),
      honly.trans (ringUpdate_only _ _)⟩
    · exact (congrArg (bits · 62 2) hreg).trans (bits_putBits_same _ _ _ _ (by decide))
    · exact (congrArg (bits · 51 8) hreg).trans (bits_putBits_other _ _ _ _ _ _ (by decide) (by decide))
    · exact (congrArg (bits · 59 3) hreg).trans (bits_putBits_other _ _ _ _ _ _ (by decide) (by decide))
  case freed =>
    intro hdrain hflight hreissue hwindow
    obtain ⟨hsrc, hothers, -⟩ := setSrc_frame s n.val (putBits (s.dc.src n.val) 62 2 0)
    refine ⟨_, (clocked_run hclk _).trans (if_pos ?_), ?_, hothers, only_dc s _⟩
    · simp [hdrain, hflight, hreissue, hwindow]
    · exact (congrArg (bits · 62 2) hsrc).trans (bits_putBits_same _ _ _ _ (by decide))

end Sys2Proof.Machine
end

section
/-! Completion records and the messages of the rings (R350 to R352). -/

namespace Sys2Proof.Machine

/-! ### Interrupt messages (R352) -/

theorem hideHi_only {s t : State} (h : t.hideHi = s.hideHi) : Only [.hi] s t := by
  intro q hq
  simp only [State.hideHi, State.mk.injEq] at h
  cases q <;> simp_all [Part.same]

theorem signalVec_only (s : State) (v : Nat) : Only [.hi] s (signalVec s v) := hideHi_only (signalVec_hides s v)

theorem sendAllPending_only (s : State) : Only [.hi] s (sendAllPending s) :=
  foldl_only _ (fun s v => hideHi_only (sendPending_hides s v)) _ _

/-- What decides whether the message of vector k goes: pending, masked, and a mainband. -/
def State.message (s : State) (k : Nat) : Bool × Bool × Bool :=
  (bitAt s.hi.pend k, s.bit rHiIntMask k, s.mainbandUp)

/-- A message that can go is sent. -/
def messageSent (m : Bool × Bool × Bool) : Bool × Bool × Bool := (m.1 && (m.2.1 || !m.2.2), m.2)

theorem bitAt_clear (v : W64) (n k : Nat) : bitAt (putBits v n 1 0) k = (bitAt v k && k != n) := by
  by_cases hk : k < 64
  · rw [bitAt_putBits _ _ _ _ _ hk]
    by_cases hkn : k = n
    · simp [hkn]
    · rw [if_neg (by omega)]
      simp [hkn]
  · simp [bitAt, BitVec.getLsbD_of_ge _ _ (Nat.le_of_not_lt hk)]

theorem sendPending_message (s : State) (n k : Nat) :
    (sendPending s n).message k = if k = n then messageSent (s.message k) else s.message k := by
  unfold sendPending
  split
  · rename_i hgo
    simp only [Bool.and_eq_true, Bool.not_eq_true'] at hgo
    obtain ⟨⟨hpend, hmask⟩, hup⟩ := hgo
    show (bitAt (putBits s.hi.pend n 1 0) k, s.message k |>.2) = _
    rw [bitAt_clear]
    split
    · subst k
      simp [State.message, messageSent, hmask, hup]
    · rename_i hkn
      simp [State.message, hkn]
  · rename_i hgo
    split
    · subst k
      simp only [State.message, messageSent, Prod.mk.injEq, and_true]
      cases hp : bitAt s.hi.pend n <;> cases hm : s.bit rHiIntMask n <;> simp_all
    · rfl

/-- After every message that can go has gone, only masked vectors are pending, unless no mainband is up. -/
theorem sendAllPending_pend (s : State) {k : Nat} (hk : k < 64) :
    bitAt (sendAllPending s).hi.pend k = (bitAt s.hi.pend k && (s.bit rHiIntMask k || !s.mainbandUp)) := by
  have hidem : ∀ m, messageSent (messageSent m) = messageSent m := by
    rintro ⟨p, m, u⟩
    simp [messageSent]
  have h := foldl_read_update (get := State.message) hidem sendPending_message (List.range 64) s k
  rw [if_pos (List.mem_range.2 hk)] at h
  exact congrArg Prod.fst h

/-! ### The bytes of a record (R350) -/

theorem leNat_leBytes (v n : Nat) : leNat (leBytes v n) = v % 2 ^ (8 * n) := by
  induction n generalizing v with
  | zero => simp [leBytes, leNat, Nat.mod_one]
  | succ n ih =>
    rw [leBytes, leNat, ih, BitVec.toNat_ofNat, Nat.mul_succ, Nat.add_comm (8 * n) 8, Nat.pow_add]
    exact (Nat.mod_mul).symm

theorem recordBits_lt (r : DoneRec) (c size dt : Nat) : recordBits r c size dt < 2 ^ 256 := by
  unfold recordBits
  generalize c / size + 1 = q
  dsimp only
  omega

/-- Lane i of a number that stands k bytes up in a line. -/
theorem laneOf_shiftLeft_line (v k : Nat) {i : Nat} (h : k + i < 64) :
    laneOf (BitVec.ofNat 512 (v <<< (8 * k))).toNat 8 (k + i) = laneOf v 8 i := by
  apply Nat.eq_of_testBit_eq
  intro j
  simp only [laneOf, BitVec.toNat_ofNat, Nat.testBit_mod_two_pow, Nat.testBit_shiftRight, Nat.testBit_shiftLeft]
  by_cases hj : j < 8
  · have hlow : 8 * (k + i) + j < 512 := by omega
    have hup : 8 * k ≤ 8 * (k + i) + j := by omega
    have hoff : 8 * (k + i) + j - 8 * k = 8 * i + j := by omega
    simp [hj, hlow, hup, hoff]
  · simp [hj]

theorem bitAt_recordMask {k i : Nat} (hk : k = 0 ∨ k = 32) (hi : i < 32) :
    bitAt (BitVec.ofNat 64 (0xFFFFFFFF <<< k)) (k + i) = true := by
  have hones : (0xFFFFFFFF : Nat) = 2 ^ 32 - 1 := rfl
  rw [bitAt, BitVec.getLsbD_ofNat, Nat.testBit_shiftLeft, hones, Nat.testBit_two_pow_sub_one]
  simp
  omega

/-- A record in a slot of DRAM: the line and mask of `COMPLETION_RECORD_WRITE`. -/
def recordStored (s : State) (a v : Nat) : State :=
  dramWrite s (a / 64 * 64) (BitVec.ofNat 512 (v <<< (8 * (a % 64)))) (BitVec.ofNat 64 (0xFFFFFFFF <<< (a % 64)))

theorem recordStored_read (s : State) {a v : Nat} (ha : a % 32 = 0) (hv : v < 2 ^ 256) :
    leNat ((recordStored s a v).mem.read a 32) = v := by
  have hslot : a % 64 = 0 ∨ a % 64 = 32 := by omega
  have hread : (recordStored s a v).mem.read a 32 = leBytes v 32 := by
    refine List.ext_getElem (by simp) fun i hi _ => ?_
    rw [Memory.read_length] at hi
    have hplace : a + i = a / 64 * 64 / 64 * 64 + (a % 64 + i) := by omega
    have hbyte := dramWrite_byte_masked s (BitVec.ofNat 512 (v <<< (8 * (a % 64)))) _ (a / 64 * 64)
      (by omega) (bitAt_recordMask hslot hi)
    rw [← hplace, laneOf_shiftLeft_line v (a % 64) (by omega)] at hbyte
    have hget := leBytes_getD v hi
    simp only [Memory.read_eq_map, List.getElem_map, List.getElem_range]
    rw [List.getD_eq_getElem _ _ (by simpa using hi)] at hget
    exact hbyte.trans hget.symm
  rw [hread, leNat_leBytes]
  exact Nat.mod_eq_of_lt hv

theorem recordStored_frame (s : State) (a v : Nat) :
    (recordStored s a v).dc = s.dc
      ∧ ∀ b, b < a / 64 * 64 ∨ a / 64 * 64 + 64 ≤ b → (recordStored s a v).mem.byte b = s.mem.byte b :=
  ⟨hideDram_only (hideDram_dramWrite ..) .dc rfl, fun _ hb => dramWrite_byte_other _ _ _ (by omega)⟩

/-! ### A record goes out (R350, R351) -/

/-- The oldest due record of a ring is on its way to its slot. -/
def Ring.recordIssued (g : Ring) (r : DoneRec) (rest : List DoneRec) : Ring :=
  { g with due := rest, writing := g.writing ++ [r], ctail := (g.ctail + 1) % 2 ^ 32 }

theorem exec_completionRecordWrite_dram {s : State} {n : Fin 256} {r : DoneRec} {rest : List DoneRec}
    (hclk : s.clocksRun = true) (hdue : (s.dc.ring n.val).due = r :: rest) (hruns : dcRuns s = true)
    (hroom : ringFull (s.dc.ring n.val) = false) (horder : recordInOrder s r = true)
    (hbefore : heldBefore s n.val r = false)
    (hdram : regionOf s ((s.dc.ring n.val).caddr + (s.dc.ring n.val).ctail % (s.dc.ring n.val).size * 32) = .dram) :
    let g := s.dc.ring n.val
    exec (.completionRecordWrite n) s = .next (recordStored
      (event (s.setRing n.val (g.recordIssued r rest)) 0 (srcPipe s r.source) 2)
      (g.caddr + g.ctail % g.size * 32) (recordBits r g.ctail g.size s.dt)) := by
  have hafter := event_dram (s.setRing n.val ((s.dc.ring n.val).recordIssued r rest)) 0 (srcPipe s r.source) 2
    ((regionOf_dram_iff ..).2 ((regionOf_dram_iff ..).1 hdram))
  refine (clocked_run hclk _).trans ?_
  simp only [Ring.recordIssued] at hafter
  simp only [hdue, hruns, hroom, horder, hbefore, Bool.not_false, Bool.and_self, if_true, hafter]
  rfl

theorem ctail_slot_aligned (g : Ring) : (g.caddr + g.ctail % g.size * 32) % 32 = 0 := by
  unfold Ring.caddr
  omega

/-! ### A record has been written (R274, R351, R352) -/

/-- A ring beside its window and the records due. -/
def Ring.besideRecords (g : Ring) : Ring := { g with window := [], due := [] }

theorem Ring.besideRecords_reads {g h : Ring} (e : g.besideRecords = h.besideRecords) :
    g.writing = h.writing ∧ g.unsig = h.unsig := by
  simp only [Ring.besideRecords, Ring.mk.injEq] at e
  tauto

theorem pushRecord_ring (s : State) (n : Nat) (r : DoneRec) (m : Nat) :
    ((pushRecord s n r).dc.ring m).besideRecords = (s.dc.ring m).besideRecords := by
  unfold pushRecord
  dsimp only
  by_cases hm : m = n
  · subst m
    rw [Dc.ring_setRing]
    rfl
  · rw [Dc.ring_setRing_other _ _ hm]

theorem heldMap_ring (s : State) (p : Nat) (f : Held → Held) (m : Nat) :
    ((heldMap s p f).dc.ring m).besideRecords = (s.dc.ring m).besideRecords :=
  foldl_part (fun u : State => (u.dc.ring m).besideRecords) _ (fun _ _ => pushRecord_ring ..) _ _

theorem heldRelease_ring (s : State) (n seq m : Nat) :
    ((heldRelease s n seq).dc.ring m).besideRecords = (s.dc.ring m).besideRecords :=
  foldl_part (fun u : State => (u.dc.ring m).besideRecords) _ (fun _ _ => heldMap_ring ..) _ _

theorem heldMap_only (s : State) (p : Nat) (f : Held → Held) : Only [.dc] s (heldMap s p f) :=
  (only_dc s _).trans (foldl_only _ (fun u _ => only_dc u _) _ _)

theorem heldRelease_only (s : State) (n seq : Nat) : Only [.dc] s (heldRelease s n seq) :=
  foldl_only _ (fun u p => heldMap_only u p _) _ _

theorem taskGone_frame (s : State) (r : DoneRec) :
    (∀ m, (taskGone s r).dc.ring m = s.dc.ring m) ∧ Only [.dc] s (taskGone s r) := by
  unfold taskGone
  split
  · exact ⟨fun _ => rfl, Only.refl _ s⟩
  · exact ⟨fun _ => rfl, only_dc s _⟩

theorem ringUpdate_ring (s : State) (n : Nat) :
    ((ringUpdate s n).dc.ring n).besideRecords = (s.dc.ring n).besideRecords := by
  rw [ringUpdate_eq, (setRing_frame ..).1]
  rfl

theorem ringSignal_frame (s : State) (n : Nat) :
    (ringSignal s n).dc.ring n = { s.dc.ring n with unsig := 0 } ∧ Only [.dc, .hi] s (ringSignal s n) := by
  obtain ⟨hring, -, honly⟩ := setRing_frame s n { s.dc.ring n with unsig := 0 }
  refine ⟨?_, (honly.mono (by simp)).trans ((signalVec_only _ _).mono (by simp))⟩
  exact (congrArg (Dc.ring · n) (signalVec_dc ..)).trans hring

/-- A record of ring n is written: counted as unsignalled, its task gone, and what waited for it due. -/
def recordCounted (s : State) (n : Nat) (r : DoneRec) (rest : List DoneRec) : State :=
  let g := s.dc.ring n
  heldRelease (taskGone (s.setRing n { g with
    writing := rest
    open_ := g.open_.filter fun o => o.1 != r.seq
    unsig := g.unsig + 1
    oldest := if g.unsig = 0 then s.clk else g.oldest }) r) n r.seq

theorem recordCounted_frame (s : State) (n : Nat) (r : DoneRec) (rest : List DoneRec) :
    ((recordCounted s n r rest).dc.ring n).writing = rest
      ∧ ((recordCounted s n r rest).dc.ring n).unsig = (s.dc.ring n).unsig + 1
      ∧ Only [.dc] s (recordCounted s n r rest) := by
  let g := s.dc.ring n
  let h : Ring := { g with
    writing := rest
    open_ := g.open_.filter fun o => o.1 != r.seq
    unsig := g.unsig + 1
    oldest := if g.unsig = 0 then s.clk else g.oldest }
  obtain ⟨hring, -, honly⟩ := setRing_frame s n h
  obtain ⟨hgone, hgoneOnly⟩ := taskGone_frame (s.setRing n h) r
  have hview : ((recordCounted s n r rest).dc.ring n).besideRecords = h.besideRecords := by
    refine (heldRelease_ring ..).trans ?_
    rw [hgone, hring]
  obtain ⟨hwriting, hunsig⟩ := Ring.besideRecords_reads hview
  exact ⟨hwriting, hunsig, (honly.trans hgoneOnly).trans (heldRelease_only _ _ _)⟩

/-- A written record signals at once: it asks to, it failed, or as many as the ring counts wait (R352). -/
def signalsNow (g : Ring) (r : DoneRec) : Bool :=
  r.irq || r.status != 0 || (bits g.cfg 8 7 != 0 && decide (bits g.cfg 8 7 ≤ g.unsig + 1))

theorem exec_completionRecordWritten {s : State} {n : Fin 256} {r : DoneRec} {rest : List DoneRec}
    (hclk : s.clocksRun = true) (hwriting : (s.dc.ring n.val).writing = r :: rest)
    (hacc : (s.hi.accs.any fun a => a.owner == .ring n.val) = false) :
    exec (.completionRecordWritten n) s = .next (ringUpdate
      (if signalsNow (s.dc.ring n.val) r then ringSignal (recordCounted s n.val r rest) n.val
        else recordCounted s n.val r rest) n.val) := by
  refine (clocked_run hclk _).trans ?_
  simp only [hwriting, hacc, Bool.false_eq_true, if_false]
  rfl

/-- What the signalling of a written record leaves: the records being written, and the count it sets to zero. -/
theorem recordSignalled_frame (s : State) (n : Nat) (signals : Bool) :
    let t := ringUpdate (if signals then ringSignal s n else s) n
    (t.dc.ring n).writing = (s.dc.ring n).writing
      ∧ (t.dc.ring n).unsig = (if signals then 0 else (s.dc.ring n).unsig) ∧ Only [.dc, .hi] s t := by
  cases signals with
  | true =>
    obtain ⟨hring, honly⟩ := ringSignal_frame s n
    have hview := (ringUpdate_ring (ringSignal s n) n).trans (congrArg Ring.besideRecords hring)
    obtain ⟨hwriting, hunsig⟩ := Ring.besideRecords_reads hview
    exact ⟨hwriting, hunsig, honly.trans ((ringUpdate_only _ _).mono (by simp))⟩
  | false =>
    obtain ⟨hwriting, hunsig⟩ := Ring.besideRecords_reads (ringUpdate_ring s n)
    exact ⟨hwriting, hunsig, (ringUpdate_only _ _).mono (by simp)⟩

/-- Settles O38: a record is stored byte by byte under its mask, and what follows its write leaves the records of
the ring that are being written. -/
theorem completionRecordsAndInterrupts : Obligations.CompletionRecordsAndInterrupts := by
  intro s n hclk
  refine ⟨?write, ?written, ?timeout, ?mask⟩
  case write =>
    intro r rest a hdue hruns hroom horder hbefore hdram
    have hexec := exec_completionRecordWrite_dram hclk hdue hruns hroom horder hbefore hdram
    obtain ⟨hring, -, honly⟩ := setRing_frame s n.val ((s.dc.ring n.val).recordIssued r rest)
    let u := event (s.setRing n.val ((s.dc.ring n.val).recordIssued r rest)) 0 (srcPipe s r.source) 2
    let v := recordBits r (s.dc.ring n.val).ctail (s.dc.ring n.val).size s.dt
    obtain ⟨hdc, hmem⟩ := recordStored_frame u a v
    have hissued : (recordStored u a v).dc.ring n.val = (s.dc.ring n.val).recordIssued r rest := by
      rw [hdc, event_dc]
      exact hring
    refine ⟨_, hexec, congrArg Ring.due hissued, congrArg Ring.writing hissued, congrArg Ring.ctail hissued,
      fun _ => recordStored_read u (ctail_slot_aligned _) (recordBits_lt ..), fun b hb => (hmem b hb).trans ?_⟩
    exact congrArg (Memory.byte · b) (event_mem ..)
  case written =>
    intro r rest hwriting hacc
    obtain ⟨hwritten, hunsig, honly⟩ := recordCounted_frame s n.val r rest
    obtain ⟨hkept, hcount, honly'⟩ :=
      recordSignalled_frame (recordCounted s n.val r rest) n.val (signalsNow (s.dc.ring n.val) r)
    refine ⟨_, exec_completionRecordWritten hclk hwriting hacc, hkept.trans hwritten, ?_, ?_,
      (honly.mono (by simp)).trans honly'⟩
    · intro hirq hstatus hcnt
      have hquiet : signalsNow (s.dc.ring n.val) r = false := by simp [signalsNow, hirq, hstatus, hcnt]
      simpa [hquiet, hunsig] using hcount
    · intro hirq
      have hsignal : signalsNow (s.dc.ring n.val) r = true := by simp [signalsNow, hirq]
      simpa [hsignal] using hcount
  case timeout =>
    intro htime hcount hdue
    refine (clocked_run hclk _).trans ?_
    rw [if_pos (by simp [htime, hcount, hdue])]
    rfl
  case mask =>
    intro v
    obtain ⟨hval, hregs, honly⟩ := wr_frame s rHiIntMask v
    have hsent := sendAllPending_only (s.wr rHiIntMask v)
    have hrd := State.rd_of_regs (hsent .regs rfl)
    refine ⟨_, clocked_run hclk _, (hrd _).trans hval, fun hup k hk => ?_, fun o ho => (hrd o).trans (hregs o ho),
      (honly.mono (by simp)).trans (hsent.mono (by simp))⟩
    rw [sendAllPending_pend _ hk, State.bit_wr, if_pos rfl]
    have hup' : (s.wr rHiIntMask v).mainbandUp = true := hup
    simp [hup']

end Sys2Proof.Machine
end

section
/-! The data ports of an awake device (R339, R343 to R345). -/

namespace Sys2Proof.Machine

/-! ### One data port written -/

theorem only_dps (s : State) (m : SMap Dp) : Only [.dps] s { s with dps := m } := by
  intro q hq
  cases q <;> simp_all [Part.same]

theorem State.dp_of_dps {s t : State} (h : t.dps = s.dps) (n : Nat) : t.dp n = s.dp n :=
  congrArg (fun m => SMap.get (fun _ => Dp.reset) m n) h

theorem setDp_frame (s : State) (n : Nat) (d : Dp) :
    (s.setDp n d).dp n = d ∧ (∀ m, m ≠ n → (s.setDp n d).dp m = s.dp m) ∧ Only [.dps] s (s.setDp n d) :=
  ⟨State.dp_setDp_same .., fun _ hm => State.dp_setDp_other s d hm, only_dps s _⟩

/-- An answered read leaves the ports as the read left them. -/
theorem respond_setDp_frame (s : State) (n : Nat) (d : Dp) (p : Path) (ok : Bool) (data : List Byte) :
    let t := respond (s.setDp n d) p ok data
    t.hi.resp = some ⟨p, ok, data⟩ ∧ t.dp n = d ∧ (∀ m, m ≠ n → t.dp m = s.dp m)
      ∧ Only [.dps, .hi] s t := by
  obtain ⟨hn, hothers, honly⟩ := setDp_frame s n d
  exact ⟨rfl, hn, hothers, (honly.mono (by simp)).trans ((only_hi (s.setDp n d) _).mono (by simp))⟩

/-- Windows that hold no write leave nothing to drain before an access of another window. -/
theorem dpDrainBut_empty {s : State} {n : Nat} (h : ∀ m, m < 4 → m ≠ n → (s.dp m).wbuf = []) :
    dpDrainBut s n = s := by
  have hstep (m : Nat) (hm : m < 4) : (if m = n then s else dpDrain s m (s.dp m).wbuf.length) = s := by
    split
    · rfl
    · rw [h m hm ‹_›]
      rfl
  simp only [dpDrainBut, List.range_succ, List.range_zero, List.nil_append, List.cons_append, List.foldl_cons,
    List.foldl_nil]
  rw [hstep 0 (by decide), hstep 1 (by decide), hstep 2 (by decide), hstep 3 (by decide)]

theorem dpDrainAll_idle {s : State} {n : Nat} (h : ∀ m, m < 4 → m ≠ n → (s.dp m).wbuf = [])
    (hidle : (s.dp n).wbuf = []) : dpDrainAll s = s :=
  dpDrainAll_empty fun m hm => by
    by_cases hmn : m = n
    · exact hmn ▸ hidle
    · exact h m hm hmn

/-! ### What one port does -/

section Port

variable {s : State} {n : Nat} {p : Path}

theorem dpLock_free {owner : Nat} (hfree : (s.dp n).owner = 0) (howner : owner ≠ 0) :
    dpLock s n p owner false = s.setDp n { s.dp n with owner := owner, path := some p } := by
  simp [dpLock, hfree, howner]

theorem dpLock_release {owner : Nat} (howner : (s.dp n).owner = owner) (hpath : (s.dp n).path = some p) :
    dpLock s n p owner true = s.setDp n { s.dp n with owner := 0, path := none } := by
  simp [dpLock, howner, hpath]

theorem dpAddrWrite_open (h : (s.dp n).shut p = false) (a : BitVec 48) :
    dpAddrWrite s n p a.toNat = s.setDp n { s.dp n with addr := a.toNat / 8 * 8, pref := [] } := by
  simp [dpAddrWrite, h, Nat.mod_eq_of_lt a.isLt]

theorem dpAddrWrite_shut (h : (s.dp n).shut p = true) (a : Nat) : dpAddrWrite s n p a = dpIntrude s n := if_pos h

theorem dpWrite_shut (h : (s.dp n).shut p = true) (bs : List Byte) : dpWrite s n p bs = dpIntrude s n := if_pos h

theorem dpRead_shut (h : (s.dp n).shut p = true) (len : Nat) :
    dpRead s n p len = (List.replicate len 0, true, dpIntrude s n) := if_pos h

theorem dpTake_nil (k : Nat) : dpTake s n [] k = s := by
  cases k <;> rfl

/-- Bytes that end within the bucket of the current address enter the buffer as one bucket. -/
theorem dpTake_bucket {bs : List Byte} (hne : bs ≠ []) (hin : (s.dp n).addr % 64 + bs.length ≤ 64)
    (hplace : dpPlace s (s.dp n).addr ≠ .unmapped) (k : Nat) :
    dpTake s n bs (k + 1) = s.setDp n { s.dp n with
      addr := ((s.dp n).addr + bs.length) % 2 ^ 48, wbuf := (s.dp n).wbuf ++ [((s.dp n).addr, bs)] } := by
  have htake : bs.take (64 - (s.dp n).addr % 64) = bs := List.take_of_length_le (by omega)
  have hdrop : bs.drop (64 - (s.dp n).addr % 64) = [] := List.drop_of_length_le (by omega)
  unfold dpTake
  simp only [List.isEmpty_iff, hne, if_false, htake, hdrop, dpTake_nil]
  split
  · exact absurd ‹_› hplace
  · rfl
  · rfl

theorem dpWrite_bucket {bs : List Byte} (hopen : (s.dp n).shut p = false) (hdir : (s.dp n).dir = false)
    (herr : (s.dp n).err = false) (hne : bs ≠ []) (hin : (s.dp n).addr % 64 + bs.length ≤ 64)
    (hplace : dpPlace s (s.dp n).addr ≠ .unmapped) :
    dpWrite s n p bs = s.setDp n { s.dp n with
      addr := ((s.dp n).addr + bs.length) % 2 ^ 48, wbuf := (s.dp n).wbuf ++ [((s.dp n).addr, bs)] } := by
  rw [← dpTake_bucket hne hin hplace bs.length]
  simp [dpWrite, hopen, hdir, herr]

theorem dpRead_prefetched {len : Nat} (hopen : (s.dp n).shut p = false) (hdir : (s.dp n).dir = true)
    (herr : (s.dp n).err = false) (hplace : dpPlace s (s.dp n).addr = .memory)
    (hlen : len ≤ (s.dp n).pref.length) :
    dpRead s n p len = ((s.dp n).pref.take len, true, s.setDp n { s.dp n with
      addr := ((s.dp n).addr + len) % 2 ^ 48, pref := (s.dp n).pref.drop len }) := by
  simp [dpRead, hopen, hdir, herr, dpFetch, hplace, hlen]

theorem dpPrefetch_dram (hdir : (s.dp n).dir = true) (herr : (s.dp n).err = false)
    (hroom : (s.dp n).pref.length + 64 ≤ 4096)
    (hdram : regionOf s ((s.dp n).addr + (s.dp n).pref.length) = .dram)
    (hplace : dpPlace s ((s.dp n).addr + (s.dp n).pref.length) = .memory)
    (hclean : (dramRead s ((s.dp n).addr + (s.dp n).pref.length)).2.1 = false) :
    let a := (s.dp n).addr + (s.dp n).pref.length
    dpPrefetch s n = (dramRead s a).2.2.setDp n { s.dp n with
      pref := (s.dp n).pref ++ (lineBytes (dramRead s a).1).drop (a % 64) } := by
  have hdp := State.dp_of_dps (dramRead_only s ((s.dp n).addr + (s.dp n).pref.length) true .dps rfl) n
  simp [dpPrefetch, hdir, herr, hroom, hplace, lineRead, hdram, hclean, hdp]

end Port

/-! ### Accesses of a path that the data ports serve -/

section Access

variable {s : State} {path : Path} {n : Fin 4} (hclk : s.clocksRun = true) (ha : Awake s)
  (hs : dpServed s path = true) (hb : ∀ m, m < 4 → m ≠ n.val → (s.dp m).wbuf = [])
include hclk ha hs hb

theorem exec_dpLockWrite (hidle : (s.dp n.val).wbuf = []) (owner : BitVec 16) :
    exec (.dpLockWrite path n owner) s = .next (dpLock s n.val path owner.toNat false) := by
  refine (clocked_run hclk _).trans ?_
  rw [hostCall_awake ha, if_pos hs, dpDrainAll_idle hb hidle]

theorem exec_dpLockRelease (hidle : (s.dp n.val).wbuf = []) (owner : BitVec 16) :
    exec (.dpLockRelease path n owner) s = .next (dpLock s n.val path owner.toNat true) := by
  refine (clocked_run hclk _).trans ?_
  rw [hostCall_awake ha, if_pos hs, dpDrainAll_idle hb hidle]

theorem exec_dpAddrWrite (hidle : (s.dp n.val).wbuf = []) (a : BitVec 48) :
    exec (.dpAddrWrite path n a) s = .next (dpAddrWrite s n.val path a.toNat) := by
  refine (clocked_run hclk _).trans ?_
  rw [hostCall_awake ha, if_pos hs, dpDrainAll_idle hb hidle]

theorem exec_dpDataWrite {data : List Byte} (hlen : data.length % 8 = 0) :
    exec (.dpDataWrite path n data) s = .next (dpWrite s n.val path data) := by
  refine (clocked_run hclk _).trans ?_
  rw [hostCall_awake ha, if_pos (by simp [hs, hlen]), dpDrainBut_empty hb]

theorem exec_dpDataRead (hidle : (s.dp n.val).wbuf = []) {len : Nat} (hlen : len % 8 = 0) :
    let r := dpRead s n.val path len
    exec (.dpDataRead path n len) s = .next (respond r.2.2 path r.2.1 r.1) := by
  refine (clocked_run hclk _).trans ?_
  rw [hostCall_awake ha, if_pos (by simp [hs, hlen]), dpDrainAll_idle hb hidle]

end Access

theorem exec_dataPortBucketComplete_idle {s : State} {n : Fin 4} (hclk : s.clocksRun = true)
    (hidle : (s.dp n.val).wbuf = []) : exec (.dataPortBucketComplete n) s = .next (dpPrefetch s n.val) := by
  refine (clocked_run hclk _).trans ?_
  rw [if_pos (by simp [hidle])]

/-- Settles O41: each access is the one operation of its port, with nothing to drain before it. -/
theorem dataPortsComplete : Obligations.DataPortsComplete := by
  intro s path n hclk ha hs hb
  refine ⟨?lock, ?release, ?addr, ?write, ?read, ?locked, ?nothing, ?prefetch, ?bucket⟩
  case lock =>
    intro owner hidle hfree howner
    refine ⟨_, exec_dpLockWrite hclk ha hs hb hidle owner, ?_⟩
    rw [dpLock_free hfree (by simpa [BitVec.toNat_eq] using howner)]
    exact setDp_frame s n.val _
  case release =>
    intro owner hidle howner hpath
    refine ⟨_, exec_dpLockRelease hclk ha hs hb hidle owner, ?_⟩
    rw [dpLock_release howner hpath]
    exact setDp_frame s n.val _
  case addr =>
    intro a hidle hopen
    refine ⟨_, exec_dpAddrWrite hclk ha hs hb hidle a, ?_⟩
    rw [dpAddrWrite_open hopen]
    exact setDp_frame s n.val _
  case write =>
    intro data hne hlen hopen hdir herr hin _ hplace
    refine ⟨_, exec_dpDataWrite hclk ha hs hb hlen, ?_⟩
    rw [dpWrite_bucket hopen hdir herr hne hin hplace]
    exact setDp_frame s n.val _
  case read =>
    intro len hlen hopen hdir herr hplace hpref hidle
    refine ⟨_, exec_dpDataRead hclk ha hs hb hidle hlen, ?_⟩
    rw [dpRead_prefetched hopen hdir herr hplace hpref]
    exact respond_setDp_frame s n.val _ path true _
  case locked =>
    intro hshut hidle
    refine ⟨fun a => ?_, fun data hlen => ?_, fun len hlen => ?_⟩
    · refine ⟨_, exec_dpAddrWrite hclk ha hs hb hidle a, ?_⟩
      rw [dpAddrWrite_shut hshut]
      exact setDp_frame s n.val _
    · refine ⟨_, exec_dpDataWrite hclk ha hs hb hlen, ?_⟩
      rw [dpWrite_shut hshut]
      exact setDp_frame s n.val _
    · refine ⟨_, exec_dpDataRead hclk ha hs hb hidle hlen, ?_⟩
      rw [dpRead_shut hshut]
      obtain ⟨hresp, hn, -, honly⟩ :=
        respond_setDp_frame s n.val { s.dp n.val with intrude := true } path true (List.replicate len 0)
      exact ⟨hn, hresp, honly⟩
  case nothing =>
    intro hidle hdir
    rw [exec_dataPortBucketComplete_idle hclk hidle]
    simp [dpPrefetch, hdir]
  case prefetch =>
    intro hidle hdir herr hroom hdram hplace hclean
    have hread := dramRead_only s ((s.dp n.val).addr + (s.dp n.val).pref.length) true
    refine ⟨_, exec_dataPortBucketComplete_idle hclk hidle, ?_⟩
    rw [dpPrefetch_dram hdir herr hroom hdram hplace hclean]
    obtain ⟨hn, hothers, -⟩ := setDp_frame
      (dramRead s ((s.dp n.val).addr + (s.dp n.val).pref.length)).2.2 n.val _
    exact ⟨hn, fun m hm => (hothers m hm).trans (State.dp_of_dps (hread .dps rfl) m), hread .mem rfl⟩
  case bucket =>
    intro a bs r hwbuf
    refine (clocked_run hclk _).trans ?_
    rw [if_neg (by simp [hwbuf]), dpBucketOut]
    simp only [hwbuf]

end Sys2Proof.Machine
end

section
/-! The accesses that the host interface holds, through everything that the answer of one sets going (R336 to
R338). -/

namespace Sys2Proof.Machine

/-- What an answer leaves of the host interface: the accesses it holds, that one has timed out, and `HI_ERR`. -/
def State.hostView (s : State) : List HostAcc × Bool × W64 := (s.hi.accs, s.hi.timedOut, s.rd rHiErr)

theorem hostView_of {s t : State} (ha : t.hi.accs = s.hi.accs) (ht : t.hi.timedOut = s.hi.timedOut)
    (hr : t.rd rHiErr = s.rd rHiErr) : t.hostView = s.hostView := by
  rw [State.hostView, ha, ht, hr, State.hostView]

theorem hostView_ext {s t : State} (hh : t.hi = s.hi) (hr : t.rd rHiErr = s.rd rHiErr) :
    t.hostView = s.hostView := hostView_of (by rw [hh]) (by rw [hh]) hr

theorem hostView_of_parts {s t : State} (hh : t.hi = s.hi) (hr : t.regs = s.regs) : t.hostView = s.hostView :=
  hostView_ext hh (State.rd_of_regs hr _)

theorem hostView_of_only {s t : State} {l : List Part} (h : Only l s t) (hh : l.contains .hi = false)
    (hr : l.contains .regs = false) : t.hostView = s.hostView := hostView_of_parts (h .hi hh) (h .regs hr)

@[simp] theorem hostView_ite (c : Prop) [Decidable c] (a b : State) :
    (if c then a else b).hostView = if c then a.hostView else b.hostView := apply_ite _ c a b

@[simp] theorem hostView_foldl {α : Type} (g : State → α → State) (h : ∀ s x, (g s x).hostView = s.hostView)
    (l : List α) (s : State) : (l.foldl g s).hostView = s.hostView := foldl_part _ g h l s

/-! ### Registers, events and the error log -/

@[simp] theorem rPmuCnt_ne_rHiErr (n : Nat) : rPmuCnt n ≠ rHiErr := by unfold rPmuCnt rHiErr; omega

theorem hostView_wr (s : State) {o : Nat} (v : W64) (h : o ≠ rHiErr) : (s.wr o v).hostView = s.hostView :=
  hostView_ext rfl (State.rd_wr_other s v h.symm)
@[simp] theorem hostView_setFld (s : State) {o : Nat} (l n x : Nat) (h : o ≠ rHiErr) :
    (s.setFld o l n x).hostView = s.hostView := hostView_wr s _ h
@[simp] theorem hostView_setBit (s : State) {o : Nat} (l : Nat) (b : Bool) (h : o ≠ rHiErr) :
    (s.setBit o l b).hostView = s.hostView := hostView_wr s _ h
theorem hostView_err (s : State) (e : Err) : ({ s with err := e } : State).hostView = s.hostView := rfl
theorem hostView_dc (s : State) (d : Dc) : ({ s with dc := d } : State).hostView = s.hostView := rfl
@[simp] theorem hostView_setStr (s : State) (i : Nat) (x : Stream) : (s.setStr i x).hostView = s.hostView := rfl
@[simp] theorem hostView_setHart (s : State) (i : Nat) (x : Hart) : (s.setHart i x).hostView = s.hostView := rfl
@[simp] theorem hostView_setWell (s : State) (w : Nat) (x : Well) : (s.setWell w x).hostView = s.hostView := rfl
@[simp] theorem hostView_setSq (s : State) (w e : Nat) (x : SqEntry) : (s.setSq w e x).hostView = s.hostView := rfl
@[simp] theorem hostView_setPort (s : State) (n : Nat) (x : LinkPort) : (s.setPort n x).hostView = s.hostView := rfl

@[simp] theorem hostView_signalVec (s : State) (v : Nat) : (signalVec s v).hostView = s.hostView := by
  have hacc : (signalVec s v).hi.accs = s.hi.accs ∧ (signalVec s v).hi.timedOut = s.hi.timedOut := by
    unfold signalVec sendPending
    split <;> exact ⟨rfl, rfl⟩
  exact hostView_of hacc.1 hacc.2 (State.rd_of_regs (signalVec_regs s v) _)
@[simp] theorem hostView_countUp (s : State) (n : Nat) : (countUp s n).hostView = s.hostView := by
  simp [countUp]
@[simp] theorem hostView_event (s : State) (c u e : Nat) : (event s c u e).hostView = s.hostView := by
  simp [event]
@[simp] theorem hostView_bwCount (s : State) (i d : Nat) : (bwCount s i d).hostView = s.hostView :=
  hostView_of_only (bwCount_only s i d) rfl rfl

@[simp] theorem hostView_logEntry (s : State) (f : FaultInfo) (c : Nat) (t p : Option Nat) :
    (logEntry s f c t p).hostView = s.hostView := by
  unfold logEntry
  dsimp only
  rw [hostView_signalVec]
  split
  · refine hostView_of rfl rfl ?_
    rw [State.rd_addSat_other _ _ _ _ (by decide), State.rd_setBit_other _ _ _ (by decide),
      State.rd_addWrap_other _ _ _ (by decide)]
    exact State.rd_of_regs rfl _
  · refine hostView_of rfl rfl ?_
    rw [State.rd_addWrap_other _ _ _ (by decide)]
    exact State.rd_of_regs rfl _
@[simp] theorem hostView_reportTask (s : State) (t n : Nat) : (reportTask s t n).hostView = s.hostView := by
  unfold reportTask
  dsimp only
  split <;> rfl
@[simp] theorem hostView_taskFault (s : State) (t : Nat) (f : FaultInfo) : (taskFault s t f).hostView = s.hostView := by
  simp [taskFault]
@[simp] theorem hostView_pipeFault (s : State) (p : Nat) (f : FaultInfo) (task : Option Nat) :
    (pipeFault s p f task).hostView = s.hostView := by
  unfold pipeFault
  dsimp only
  split
  · exact hostView_logEntry ..
  · exact (hostView_err _ _).trans (hostView_logEntry ..)

/-! ### Packets and semaphores -/

@[simp] theorem hostView_formFlits (s : State) (n k : Nat) : (formFlits s n k).hostView = s.hostView := by
  induction k generalizing s with
  | zero => rfl
  | succ k ih => simp [formFlits, ih, putIdle, putFlit]
@[simp] theorem hostView_sendTo (s : State) (i : Nat) (p : Packet) : (sendTo s i p).hostView = s.hostView := by
  simp [sendTo, sendPacket, runPort]
@[simp] theorem hostView_sqPut (s : State) (w e : Nat) (x : SqEntry) : (sqPut s w e x).hostView = s.hostView := by
  simp [sqPut]
@[simp] theorem hostView_semPort (s : State) (w e : Nat) (sel : Bool) (n : Nat) :
    (semPort s w e sel n).hostView = s.hostView := by
  simp [semPort, semSignal]

/-! ### Tasks of the dispatch controller -/

@[simp] theorem hostView_dcSettle (s : State) (p : Nat) : (dcSettle s p).hostView = s.hostView := rfl
@[simp] theorem hostView_heldMap (s : State) (p : Nat) (f : Held → Held) : (heldMap s p f).hostView = s.hostView :=
  hostView_of_only (heldMap_only s p f) rfl rfl
@[simp] theorem hostView_heldStream (s : State) (i bytes : Nat) : (heldStream s i bytes).hostView = s.hostView := by
  simp [heldStream]
@[simp] theorem hostView_taskJoin (s : State) (t : Option Nat) (i : Nat) : (taskJoin s t i).hostView = s.hostView :=
  hostView_of_only (taskJoin_only s t i) rfl rfl
@[simp] theorem hostView_taskSettle (s : State) (t : Option Nat) : (taskSettle s t).hostView = s.hostView := by
  unfold taskSettle
  split <;> rfl
@[simp] theorem hostView_taskDrop (s : State) (t i : Nat) : (taskDrop s t i).hostView = s.hostView := by
  unfold taskDrop
  dsimp only
  split <;> rfl
@[simp] theorem hostView_taskStreamEnd (s : State) (t i code bytes : Nat) :
    (taskStreamEnd s t i code bytes).hostView = s.hostView := by
  simp [taskStreamEnd, hostView_dc]

/-! ### Streams -/

@[simp] theorem hostView_strReport (s : State) (i status addr off : Nat) (task pipe : Option Nat) :
    (strReport s i status addr off task pipe).hostView = s.hostView := by
  unfold strReport
  dsimp only
  (repeat' split) <;> simp [logOnly]
@[simp] theorem hostView_strArm (s : State) (i : Nat) (a : StrSlot) : (strArm s i a).2.hostView = s.hostView := by
  unfold strArm
  dsimp only
  (repeat' split) <;> simp
@[simp] theorem hostView_dcArmNext (s : State) (i : Nat) : (dcArmNext s i).hostView = s.hostView := by
  unfold dcArmNext
  dsimp only
  (repeat' split) <;> simp [hostView_dc]
@[simp] theorem hostView_strRelease (s : State) (i : Nat) : (strRelease s i).hostView = s.hostView := by
  unfold strRelease
  exact (hostView_foldl _ (fun _ _ => hostView_setSq ..) _ _).trans (hostView_setStr ..)
@[simp] theorem hostView_strFree (s : State) (i : Nat) : (strFree s i).hostView = s.hostView := rfl
@[simp] theorem hostView_strEnd (s : State) (i code : Nat) : (strEnd s i code).hostView = s.hostView := by
  unfold strEnd
  dsimp only
  (repeat' split) <;> simp
@[simp] theorem hostView_strSignal (s : State) (c : W32) : (strSignal s c).hostView = s.hostView := by
  unfold strSignal
  split <;> simp
@[simp] theorem hostView_strComplete (s : State) (i n : Nat) : (strComplete s i n).hostView = s.hostView := by
  induction n generalizing s with
  | zero => rfl
  | succ n ih =>
    unfold strComplete
    dsimp only
    (repeat' split) <;> simp [ih]
@[simp] theorem hostView_popHeads (s : State) (i n : Nat) : (popHeads s i n).hostView = s.hostView := by
  induction n generalizing s with
  | zero => rfl
  | succ n ih =>
    unfold popHeads
    dsimp only
    (repeat' split) <;> simp [ih]
@[simp] theorem hostView_strSettle (s : State) (i : Nat) : (strSettle s i).hostView = s.hostView := by
  simp [strSettle, strVisible]
@[simp] theorem hostView_boundaryLost (s : State) (i : Nat) : (boundaryLost s i).hostView = s.hostView := rfl
@[simp] theorem hostView_sendSterr (s : State) (i status : Nat) : (sendSterr s i status).hostView = s.hostView := by
  unfold sendSterr
  dsimp only
  (repeat' split) <;> simp
@[simp] theorem hostView_strFaultOf (s : State) (i status addr off : Nat) (at_ : List (Nat × Nat)) :
    (strFaultOf s i status addr off at_).hostView = s.hostView := by
  simp [strFaultOf]
@[simp] theorem hostView_descArrive (s : State) (i a : Nat) (dw : List W64) :
    (descArrive s i a dw).hostView = s.hostView := by
  simp [descArrive]
@[simp] theorem hostView_descFail (s : State) (i status a : Nat) : (descFail s i status a).hostView = s.hostView := by
  simp [descFail, strFault]

/-! ### The answers of the owners -/

@[simp] theorem hostView_writeGone (s : State) (i j n : Nat) : (writeGone s i j n).hostView = s.hostView := by
  simp [writeGone]
@[simp] theorem hostView_writeFail (s : State) (i j status : Nat) (w : WrOut) :
    (writeFail s i j status w).hostView = s.hostView := by
  refine (hostView_writeGone ..).trans ?_
  split <;> exact hostView_strFaultOf ..
@[simp] theorem hostView_hostWriteAnswer (s : State) (i id : Nat) (failed : Bool) :
    (hostWriteAnswer s i id failed).hostView = s.hostView := by
  unfold hostWriteAnswer
  dsimp only
  (repeat' split) <;> simp
@[simp] theorem hostView_hostReadAnswer (s : State) (i id : Nat) (data : Option Line) (err : Nat) :
    (hostReadAnswer s i id data err).hostView = s.hostView := rfl
@[simp] theorem hostView_hartAnswer (s : State) (i rd size : Nat) (uns wr : Bool) (addr : Nat) (data : Line)
    (failed : Bool) : (hartAnswer s i rd size uns wr addr data failed).hostView = s.hostView := by
  simp [hartAnswer, accessFault, hartStored, hartLoaded]

/-- An access that ends leaves the list; what its owner does with the answer issues none. -/
theorem accEnd_hostView (s : State) (a : HostAcc) (data : Line) (failed : Bool) :
    (accEnd s a data failed).hostView
      = (s.hi.accs.filter fun b => b.id != a.id, s.hi.timedOut, s.rd rHiErr) := by
  have hset : (setAccs s (s.hi.accs.filter fun b => b.id != a.id)).hostView
      = (s.hi.accs.filter fun b => b.id != a.id, s.hi.timedOut, s.rd rHiErr) := rfl
  unfold accEnd
  dsimp only
  rw [← hset]
  (repeat' split) <;> simp

/-! ### Answers and timeouts of the host (R336 to R338) -/

theorem hiError_reads (s : State) {kind : Nat} (hk : kind < 8) (addr : Nat) :
    (hiError s kind addr).hi = s.hi ∧ (hiError s kind addr).bit rHiErr 31 = true
      ∧ (hiError s kind addr).fld rHiErr 28 3 = kind := by
  refine ⟨rfl, ?_, ?_⟩
  · unfold hiError
    rw [State.bit_setFld_other _ _ _ _ _ _ _ (by decide) (.inl (by decide)),
      State.bit_setFld_other _ _ _ _ _ _ _ (by decide) (.inr (.inr (by decide))),
      State.bit_setBit_same _ _ _ _ (by decide)]
  · unfold hiError
    rw [State.fld_setFld_other _ _ _ _ _ _ _ _ (.inl (by decide)), State.fld_setFld_same _ _ _ _ _ (by decide)]
    exact Nat.mod_eq_of_lt hk

theorem accOf_id {s : State} {id : Nat} {a : HostAcc} (h : accOf s id = some a) : a.id = id := by
  simpa using List.find?_some h

section Answer

variable {s : State} {id : Nat} {a : HostAcc} (hclk : s.clocksRun = true) (hacc : accOf s id = some a)
include hclk hacc

theorem exec_hrdCompletion (hmod : a.module.isSome = true) (hrd : a.wr = false) (data : Line) (err : Bool) :
    exec (.hrdCompletion id data err) s
      = .next (accEnd (if err then hiError s 1 a.addr else s) a data err) := by
  refine (clocked_run hclk _).trans ?_
  simp [hacc, hrd, Option.isSome_iff_ne_none.1 hmod]

theorem exec_hwrCompletion (hmod : a.module.isSome = true) (hwr : a.wr = true) (err : Bool) :
    exec (.hwrCompletion id err) s = .next (accEnd s a 0 err) := by
  refine (clocked_run hclk _).trans ?_
  simp [hacc, hwr, Option.isSome_iff_ne_none.1 hmod]

theorem exec_hostAccessTimeout_held (hmod : a.module = none) (hlate : a.since + 10000000 ≤ s.clk)
    (hdown : s.mainbandUp = false) (howner : ∀ n, a.owner ≠ .ring n) :
    exec (.hostAccessTimeout id) s = .next (accEnd
      (if a.wr then { s with hi := { s.hi with timedOut := true } }
        else hiError { s with hi := { s.hi with timedOut := true } } 1 a.addr) a 0 true) := by
  refine (clocked_run hclk _).trans ?_
  simp only [hacc]
  cases hown : a.owner
  case ring n => exact absurd hown (howner n)
  all_goals exact if_pos (by simp [hmod, hlate, hdown])

theorem exec_hostAccessTimeout_ring {n : Nat} (howner : a.owner = .ring n) :
    exec (.hostAccessTimeout id) s = .next s := by
  refine (clocked_run hclk _).trans ?_
  simp [hacc, howner]

end Answer

/-! ### The modules of the host link (R335, R337) -/

/-- The host interface with the mainband of module m down. -/
def HostIf.moduleDown (h : HostIf) (m : Nat) : HostIf :=
  if m = 0 then { h with up0 := false, rate0 := 0 } else { h with up1 := false, rate1 := 0 }

/-- The host interface with module m trained at a rate. -/
def HostIf.moduleTrained (h : HostIf) (m r : Nat) : HostIf :=
  if m = 0 then { h with up0 := true, rate0 := r, timedOut := false }
  else { h with up1 := true, rate1 := r, timedOut := false }

/-- The rate at which module m trained. -/
def State.moduleRate (s : State) (m : Nat) : Nat := if m = 0 then s.hi.rate0 else s.hi.rate1

theorem moduleUp_of_hi {s t : State} (h : t.hi = s.hi) (m : Nat) : moduleUp t m = moduleUp s m := by
  rw [moduleUp, h, moduleUp]

theorem mainbandUp_eq (s : State) (m : Fin 2) :
    s.mainbandUp = (moduleUp s m.val || moduleUp s (1 - m.val)) :=
  match m with
  | 0 => rfl
  | 1 => Bool.or_comm _ _

theorem moduleDown_up (s : State) (m : Fin 2) (l : List HostAcc) :
    let t := setAccs { s with hi := s.hi.moduleDown m.val } l
    moduleUp t m.val = false ∧ moduleUp t (1 - m.val) = moduleUp s (1 - m.val) :=
  match m with
  | 0 => ⟨rfl, rfl⟩
  | 1 => ⟨rfl, rfl⟩

theorem moduleTrained_reads (s : State) (m : Fin 2) (r : Nat) (l : List HostAcc) :
    let t := setAccs { s with hi := s.hi.moduleTrained m.val r } l
    moduleUp t m.val = true ∧ t.moduleRate m.val = r ∧ t.hi.pend = s.hi.pend :=
  match m with
  | 0 => ⟨rfl, rfl, rfl⟩
  | 1 => ⟨rfl, rfl, rfl⟩

theorem countAccs_only (s : State) (m : Nat) (l : List HostAcc) : Only [.pmu] s (countAccs s m l) :=
  foldl_only _ (fun u _ => bwCount_only u _ _) _ _

/-- What messages leave of the host interface: the modules and the accesses. -/
def State.linkView (s : State) : Bool × Bool × Nat × Nat × List HostAcc :=
  (s.hi.up0, s.hi.up1, s.hi.rate0, s.hi.rate1, s.hi.accs)

theorem sendAllPending_linkView (s : State) : (sendAllPending s).linkView = s.linkView :=
  foldl_part State.linkView _ (fun u v => by unfold sendPending; split <;> rfl) _ _

theorem sendAllPending_link (s : State) (m : Nat) :
    moduleUp (sendAllPending s) m = moduleUp s m ∧ (sendAllPending s).moduleRate m = s.moduleRate m
      ∧ (sendAllPending s).hi.accs = s.hi.accs := by
  have hview := sendAllPending_linkView s
  simp only [State.linkView, Prod.mk.injEq] at hview
  obtain ⟨hup0, hup1, hrate0, hrate1, haccs⟩ := hview
  exact ⟨by rw [moduleUp, hup0, hup1, moduleUp], by rw [State.moduleRate, hrate0, hrate1, State.moduleRate], haccs⟩

/-- An access of module m moves to the other module. -/
def HostAcc.moved (m : Nat) (a : HostAcc) : HostAcc :=
  if a.module = some m then { a with module := some (1 - m) } else a

/-- An access of module m is held from now on. -/
def HostAcc.heldFrom (m now : Nat) (a : HostAcc) : HostAcc :=
  if a.module = some m then { a with module := none, since := now } else a

/-- A held access is issued on module m. -/
def HostAcc.issued (m : Nat) (a : HostAcc) : HostAcc :=
  if a.module = none then { a with module := some m } else a

section Module

variable {s : State} {m : Fin 2} (hclk : s.clocksRun = true)
include hclk

theorem exec_ucieModuleDown_moves (hup : moduleUp s m.val = true) (hother : moduleUp s (1 - m.val) = true) :
    exec (.ucieModuleDown m) s = .next (countAccs
      (setAccs { s with hi := s.hi.moduleDown m.val } (s.hi.accs.map (HostAcc.moved m.val))) (1 - m.val)
      (s.hi.accs.filter fun a => a.module == some m.val)) := by
  obtain rfl | rfl : m = 0 ∨ m = 1 := by omega
  · refine (clocked_run hclk _).trans ((if_pos hup).trans (if_pos hother))
  · refine (clocked_run hclk _).trans ((if_pos hup).trans (if_pos hother))

theorem exec_ucieModuleDown_holds (hup : moduleUp s m.val = true) (hother : moduleUp s (1 - m.val) = false) :
    exec (.ucieModuleDown m) s = .next
      (setAccs { s with hi := s.hi.moduleDown m.val } (s.hi.accs.map (HostAcc.heldFrom m.val s.clk))) := by
  have hoff : ¬moduleUp s (1 - m.val) = true := by simp [hother]
  obtain rfl | rfl : m = 0 ∨ m = 1 := by omega
  · refine (clocked_run hclk _).trans ((if_pos hup).trans (if_neg hoff))
  · refine (clocked_run hclk _).trans ((if_pos hup).trans (if_neg hoff))

theorem exec_ucieModuleTrained_fitted {rate : BitVec 3} (hfit : s.hasUcie m.val = true) (hrate : rate.toNat ≤ 5) :
    exec (.ucieModuleTrained m rate) s = .next (sendAllPending (countAccs
      (setAccs { s with hi := s.hi.moduleTrained m.val rate.toNat } (s.hi.accs.map (HostAcc.issued m.val))) m.val
      (s.hi.accs.filter fun a => a.module.isNone))) := by
  have hgo : (s.hasUcie m.val && decide (rate.toNat ≤ 5)) = true := by simp [hfit, hrate]
  obtain rfl | rfl : m = 0 ∨ m = 1 := by omega
  · exact (clocked_run hclk _).trans (if_pos hgo)
  · exact (clocked_run hclk _).trans (if_pos hgo)

end Module

/-- Settles O42: an answered access is taken off the list and its owner issues none; the modules only rewrite the
list in place. -/
theorem hostAccessesComplete : Obligations.HostAccessesComplete := by
  intro s hclk
  refine ⟨?read, ?write, ?moves, ?holds, ?trained, ?timeout⟩
  case read =>
    intro id a data err hacc hmod hrd
    have hview := accEnd_hostView (if err then hiError s 1 a.addr else s) a data err
    simp only [State.hostView, Prod.mk.injEq] at hview
    obtain ⟨haccs, -, hreg⟩ := hview
    refine ⟨_, exec_hrdCompletion hclk hacc hmod hrd data err, haccs.trans ?_, ?_⟩
    · rw [accOf_id hacc]
      cases err <;> rfl
    · rintro rfl
      obtain ⟨-, hbit, hkind⟩ := hiError_reads s (kind := 1) (by decide) a.addr
      exact ⟨(congrArg (bitAt · 31) hreg).trans hbit, (congrArg (bits · 28 3) hreg).trans hkind⟩
  case write =>
    intro id a err hacc hmod hwr _
    have haccs := congrArg Prod.fst (accEnd_hostView s a 0 err)
    rw [accOf_id hacc] at haccs
    exact ⟨_, exec_hwrCompletion hclk hacc hmod hwr err, haccs⟩
  case moves =>
    intro m hup hother
    have hcount := countAccs_only
      (setAccs { s with hi := s.hi.moduleDown m.val } (s.hi.accs.map (HostAcc.moved m.val))) (1 - m.val)
      (s.hi.accs.filter fun a => a.module == some m.val)
    have hhi := hcount .hi rfl
    obtain ⟨hdown, hkept⟩ := moduleDown_up s m (s.hi.accs.map (HostAcc.moved m.val))
    exact ⟨_, exec_ucieModuleDown_moves hclk hup hother, (moduleUp_of_hi hhi _).trans hdown,
      (moduleUp_of_hi hhi _).trans (hkept.trans hother), congrArg HostIf.accs hhi,
      ((only_hi s _).mono (by simp)).trans (hcount.mono (by simp))⟩
  case holds =>
    intro m hup hother
    obtain ⟨hdown, hkept⟩ := moduleDown_up s m (s.hi.accs.map (HostAcc.heldFrom m.val s.clk))
    refine ⟨_, exec_ucieModuleDown_holds hclk hup hother, ?_, rfl, only_hi s _⟩
    rw [mainbandUp_eq _ m, hdown, hkept, hother]
    rfl
  case trained =>
    intro m rate hfit hrate
    let u := setAccs { s with hi := s.hi.moduleTrained m.val rate.toNat } (s.hi.accs.map (HostAcc.issued m.val))
    let v := countAccs u m.val (s.hi.accs.filter fun a => a.module.isNone)
    have hcount : Only [.pmu] u v := countAccs_only u _ _
    have hhi : v.hi = u.hi := hcount .hi rfl
    obtain ⟨hup, hat, hpend⟩ := moduleTrained_reads s m rate.toNat (s.hi.accs.map (HostAcc.issued m.val))
    obtain ⟨hlinkUp, hlinkRate, hlinkAccs⟩ := sendAllPending_link v m.val
    have hupv : moduleUp v m.val = true := (moduleUp_of_hi hhi _).trans hup
    refine ⟨_, exec_ucieModuleTrained_fitted hclk hfit hrate, hlinkUp.trans hupv, ?_, ?_, fun k hk => ?_,
      (((only_hi s _).mono (by simp)).trans (hcount.mono (by simp))).trans ((sendAllPending_only v).mono (by simp))⟩
    · refine hlinkRate.trans (Eq.trans ?_ hat)
      rw [State.moduleRate, hhi, State.moduleRate]
    · exact hlinkAccs.trans (congrArg HostIf.accs hhi)
    · rw [sendAllPending_pend v hk, mainbandUp_eq v m, hupv, hhi, hpend]
      have hmask : v.bit rHiIntMask k = s.bit rHiIntMask k :=
        congrArg (bitAt · k) (State.rd_of_regs (hcount .regs rfl) _)
      simp [hmask]
  case timeout =>
    intro id a hacc hmod hlate hdown
    refine ⟨fun howner => ?_, fun ⟨n, howner⟩ => exec_hostAccessTimeout_ring hclk hacc howner⟩
    let u : State := { s with hi := { s.hi with timedOut := true } }
    have hview := accEnd_hostView (if a.wr then u else hiError u 1 a.addr) a 0 true
    simp only [State.hostView, Prod.mk.injEq] at hview
    obtain ⟨haccs, htimed, -⟩ := hview
    refine ⟨_, exec_hostAccessTimeout_held hclk hacc hmod hlate hdown howner, htimed.trans ?_, fun hrd => ?_⟩
    · cases a.wr <;> rfl
    · refine haccs.trans ?_
      rw [accOf_id hacc, hrd]
      rfl

end Sys2Proof.Machine
end

section
/-! The mailbox channels: requests queued, states read, responses written (R341, R342, R363, R432, R433, R436). -/

namespace Sys2Proof.Machine

/-! ### Channels -/

theorem State.mbox_of_mboxes {s t : State} (h : t.hi.mboxes = s.hi.mboxes) (k : Nat) : t.mbox k = s.mbox k :=
  congrArg (fun m => SMap.get (fun _ => Mbox.reset) m k) h

theorem setMbox_frame (s : State) (k : Nat) (b : Mbox) :
    (s.setMbox k b).mbox k = b ∧ (∀ j, j ≠ k → (s.setMbox k b).mbox j = s.mbox j)
      ∧ Only [.hi] s (s.setMbox k b) :=
  ⟨State.mbox_setMbox .., fun _ hj => State.mbox_setMbox_other s b hj, only_hi s _⟩

theorem signalVec_mboxes (s : State) (v : Nat) : (signalVec s v).hi.mboxes = s.hi.mboxes := by
  unfold signalVec sendPending
  split <;> rfl

theorem setMbQueue_only (s : State) (q : List MbReq) : Only [.mp, .regs] s (setMbQueue s q) :=
  ((only_setFld s rHiMpStatus 15 5 q.length).mono (by simp)).trans
    ((only_mp (s.setFld rHiMpStatus 15 5 q.length) _).mono (by simp))

theorem setMbQueue_frame (s : State) {q : List MbReq} (hq : q.length < 32) :
    (setMbQueue s q).mp.queue = q ∧ (setMbQueue s q).fld rHiMpStatus 15 5 = q.length
      ∧ Only [.mp, .regs] s (setMbQueue s q) := by
  refine ⟨rfl, ?_, setMbQueue_only s q⟩
  exact (State.fld_setFld_same s rHiMpStatus 15 5 q.length (by decide)).trans (Nat.mod_eq_of_lt hq)

/-! ### The doorbell and the state of a channel (R341, R433) -/

section Doorbell

variable {s : State} {k : Nat}

theorem mbDoor_taken (hready : s.ready = true) (hst : (s.mbox k).st ≠ .queued) (hroom : s.mp.queue.length < 16) :
    mbDoor s k = setMbQueue (s.setMbox k { s.mbox k with st := .queued })
      (s.mp.queue ++ [⟨k, (s.mbox k).words⟩]) := by
  have hfew : ¬16 ≤ s.mp.queue.length := by omega
  simp only [mbDoor, hready, Bool.not_true, Bool.false_eq_true, if_false]
  split
  · exact absurd ‹_› hst
  all_goals exact if_neg hfew

theorem mbDoor_busy (h : s.ready = false ∨ ((s.mbox k).st ≠ .queued ∧ 16 ≤ s.mp.queue.length)) :
    mbDoor s k = s.setMbox k { s.mbox k with st := .busy } := by
  unfold mbDoor
  dsimp only
  split
  · rfl
  · rename_i hready
    rcases h with hoff | ⟨hst, hfull⟩
    · exact absurd hoff (by simpa using hready)
    · split
      · exact absurd ‹_› hst
      all_goals exact if_pos hfull

theorem mbDoor_queued (hready : s.ready = true) (hst : (s.mbox k).st = .queued) : mbDoor s k = s := by
  simp [mbDoor, hready, hst]

theorem mbRstat_reads (s : State) (k : Nat) :
    (mbRstat s k).1 = (s.mbox k).st.code
      ∧ ((mbRstat s k).2.mbox k).st = (if (s.mbox k).st = .queued then .queued else .idle)
      ∧ (∀ j, j ≠ k → (mbRstat s k).2.mbox j = s.mbox j) ∧ Only [.hi] s (mbRstat s k).2 := by
  obtain ⟨hk, hothers, honly⟩ := setMbox_frame s k { s.mbox k with st := .idle }
  unfold mbRstat
  dsimp only
  split
  · rename_i hst
    exact ⟨by rw [hst], by rw [hk, hst]; rfl, hothers, honly⟩
  · rename_i hst
    exact ⟨by rw [hst], by rw [hk, hst]; rfl, hothers, honly⟩
  · rename_i hst
    exact ⟨by rw [hst], by rw [hst]; rfl, fun _ _ => rfl, Only.refl _ s⟩
  · rename_i hst
    exact ⟨by rw [hst], by rw [hst]; rfl, fun _ _ => rfl, Only.refl _ s⟩

theorem exec_mailboxDoorbell {ch : MbChan} (hpow : s.powerUp = true) (ha : Awake s) (hch : s.hasChan ch = true) :
    exec (.mailboxDoorbell ch) s = .next (mbDoor s (mbKey ch)) := by
  refine (powered_run hpow _).trans ?_
  rw [if_pos hch, roused_awake ha]

theorem exec_mbRstatRead {ch : MbChan} (hpow : s.powerUp = true) (hch : s.hasChan ch = true) :
    let r := mbRstat s (mbKey ch)
    exec (.mbRstatRead ch) s = .next (respond r.2 (chanPath ch) true (leBytes r.1 4)) :=
  (powered_run hpow _).trans (if_pos hch)

end Doorbell

/-! ### The response (R341, R342) -/

theorem SMap.get_foldl_set {α : Type} [DecidableEq α] {d : Nat → α} (f : Nat → α) (m : SMap α) (n i : Nat) :
    SMap.get d ((List.range n).foldl (fun m j => SMap.set d m j (f j)) m) i
      = if i < n then f i else SMap.get d m i := by
  induction n with
  | zero => simp
  | succ n ih =>
    rw [List.range_succ, List.foldl_append, List.foldl_cons, List.foldl_nil, SMap.get_set, ih]
    by_cases hi : i = n
    · simp [hi]
    · have hlt : i < n + 1 ↔ i < n := by omega
      simp [hi, hlt]

/-- Word 0 of the response to a request. -/
def responseHead (q : MbReq) (status len : Nat) : W64 :=
  BitVec.ofNat 64 (status + bits (q.words.getD 0 0) 16 16 <<< 16 + len <<< 32)

/-- Word i of the response to a request. -/
def responseWord (q : MbReq) (status : Nat) (payload : List W64) (i : Nat) : W64 :=
  if i = 0 then responseHead q status (Nat.min 7 payload.length) else payload.getD (i - 1) 0

/-- The channel of a request with its response. -/
def Mbox.answered (b : Mbox) (q : MbReq) (status : Nat) (payload : List W64) : Mbox :=
  { b with
    rsp := (List.range 8).foldl (fun (m : SMap W64) i =>
      SMap.set (fun _ => 0) m i (responseWord q status payload i)) []
    st := .done }

theorem Mbox.answered_rspWord (b : Mbox) (q : MbReq) (status : Nat) (payload : List W64) {i : Nat} (hi : i < 8) :
    (b.answered q status payload).rspWord i = responseWord q status payload i :=
  (SMap.get_foldl_set (responseWord q status payload) [] 8 i).trans (if_pos hi)

theorem mbAnswer_frame (s : State) (q : MbReq) (status : Nat) (payload : List W64) :
    (mbAnswer s q status payload).mbox q.chan = (s.mbox q.chan).answered q status payload
      ∧ (∀ k, k ≠ q.chan → (mbAnswer s q status payload).mbox k = s.mbox k)
      ∧ Only [.hi] s (mbAnswer s q status payload) := by
  let u := s.setMbox q.chan ((s.mbox q.chan).answered q status payload)
  obtain ⟨hchan, hothers, honly⟩ := setMbox_frame s q.chan ((s.mbox q.chan).answered q status payload)
  have heq : mbAnswer s q status payload = if q.chan = 0 then signalVec u (u.fld rHiCtrl 8 6) else u := rfl
  rw [heq]
  split
  · have hsame := State.mbox_of_mboxes (signalVec_mboxes u (u.fld rHiCtrl 8 6))
    exact ⟨(hsame _).trans hchan, fun k hk => (hsame k).trans (hothers k hk), honly.trans (signalVec_only _ _)⟩
  · exact ⟨hchan, hothers, honly⟩

/-- The head request of the MP leaves the queue with its response. -/
def responded (s : State) (q : MbReq) (status : Nat) (payload : List W64) : State :=
  let u := setMbQueue s (s.mp.queue.drop 1)
  mbAnswer { u with mp := { u.mp with answer := none } } q status payload

theorem responded_frame {s : State} {q : MbReq} {rest : List MbReq} (hqueue : s.mp.queue = q :: rest) (status : Nat)
    (payload : List W64) :
    let t := responded s q status payload
    t.mp.queue = rest ∧ t.mp.answer = none ∧ t.mbox q.chan = (s.mbox q.chan).answered q status payload
      ∧ (∀ k, k ≠ q.chan → t.mbox k = s.mbox k) ∧ Only [.hi, .mp, .regs] s t := by
  let v := setMbQueue s (s.mp.queue.drop 1)
  let u : State := { v with mp := { v.mp with answer := none } }
  have honly : Only [.mp, .regs] s u := (setMbQueue_only s _).trans ((only_mp v _).mono (by simp))
  obtain ⟨hchan, hothers, hanswer⟩ := mbAnswer_frame u q status payload
  have hmp : (responded s q status payload).mp = u.mp := hanswer .mp rfl
  have hrest : u.mp.queue = rest := by
    show s.mp.queue.drop 1 = rest
    rw [hqueue]
    rfl
  exact ⟨(congrArg Mp.queue hmp).trans hrest, congrArg Mp.answer hmp, hchan, hothers,
    (honly.mono (by simp)).trans (hanswer.mono (by simp))⟩

theorem exec_mailboxResponse {s u : State} {q : MbReq} {rest : List MbReq} {st : Nat} {pl : List W64}
    (hpow : s.powerUp = true) (hqueue : s.mp.queue = q :: rest) (hturn : s.mpTurn 2 = true)
    (hserve : (if s.mp.answer.isNone && mpCan s q then mpServe s q else s) = u)
    (hanswer : u.mp.answer = some (st, pl)) : exec .mailboxResponse s = .next (responded u q st pl) := by
  refine (powered_run hpow _).trans ?_
  simp only [hqueue, hturn, hserve, hanswer, Bool.not_true, Bool.false_eq_true, if_false]
  rfl

/-- A command that R342 does not list is answered at once (R342). -/
theorem mpServe_unknown (s : State) {q : MbReq}
    (h : [0x01, 0x02, 0x03, 0x10, 0x11, 0x12, 0x20, 0x30, 0x40].contains (bits (q.words.getD 0 0) 0 16) = false) :
    mpServe s q = mpDone s (bits (q.words.getD 0 0) 0 16) stDescInvalid [] := by
  unfold mpServe
  dsimp only
  split
  case h_10 => rfl
  all_goals
    rename_i hcmd
    rw [hcmd] at h
    exact absurd h (by decide)

theorem mpDone_queue (s : State) (cmd st : Nat) (pl : List W64) : (mpDone s cmd st pl).mp.queue = s.mp.queue := by
  unfold mpDone
  split
  · split <;> rfl
  · rfl

/-- Settles O43: the doorbell by the state of its channel, the response by the answer of the head request. -/
theorem mailboxRequestsAreQueuedAndAnswered : Obligations.MailboxRequestsAreQueuedAndAnswered := by
  intro s hpow ha
  refine ⟨?channel, ?response⟩
  case channel =>
    intro ch hch
    have hexec := exec_mailboxDoorbell hpow ha hch
    refine ⟨?taken, ?busy, ?queued, ?state⟩
    case taken =>
      intro hready hst hroom
      let u := s.setMbox (mbKey ch) { s.mbox (mbKey ch) with st := .queued }
      obtain ⟨hchan, hothers, honly⟩ := setMbox_frame s (mbKey ch) { s.mbox (mbKey ch) with st := .queued }
      have hlen : (s.mp.queue ++ [(⟨mbKey ch, (s.mbox (mbKey ch)).words⟩ : MbReq)]).length
          = s.mp.queue.length + 1 := List.length_append
      obtain ⟨hqueue, hcount, hset⟩ := setMbQueue_frame u
        (hlen.trans_lt (by omega))
      rw [mbDoor_taken hready hst hroom] at hexec
      exact ⟨_, hexec, hchan, hqueue, hcount.trans hlen, hothers,
        (honly.mono (by simp)).trans (hset.mono (by simp))⟩
    case busy =>
      intro hbusy
      rw [mbDoor_busy hbusy] at hexec
      exact ⟨_, hexec, setMbox_frame s (mbKey ch) _⟩
    case queued =>
      intro hready hst
      rw [hexec, mbDoor_queued hready hst]
    case state =>
      obtain ⟨hcode, hst, hothers, honly⟩ := mbRstat_reads s (mbKey ch)
      refine ⟨_, exec_mbRstatRead hpow hch, ?_, hst, hothers, honly.trans (only_hi _ _)⟩
      rw [← hcode]
      rfl
  case response =>
    intro q rest hqueue
    refine ⟨fun st pl hturn hanswer => ?_, fun hnone hturn hclk hunknown => ?_⟩
    · obtain ⟨hrest, hgone, hchan, hothers, honly⟩ := responded_frame hqueue st pl
      refine ⟨_, exec_mailboxResponse hpow hqueue hturn (if_neg (by simp [hanswer])) hanswer, hrest, hgone,
        congrArg Mbox.st hchan, ?_, fun i hlo hi => ?_, hothers, honly⟩
      · rw [hchan]
        exact Mbox.answered_rspWord _ _ _ _ (by decide)
      · rw [hchan, Mbox.answered_rspWord _ _ _ _ hi, responseWord, if_neg (by omega)]
    · have hasked : mpAsked s (bits (q.words.getD 0 0) 0 16) = true := by simp [mpAsked, hnone, hqueue]
      have hcan : (s.mp.answer.isNone && mpCan s q) = true := by simp [hnone, mpCan, hclk]
      have hanswer := mpDone_answer hasked stDescInvalid []
      obtain ⟨hrest, -, hchan, -⟩ :=
        responded_frame ((mpDone_queue s _ stDescInvalid []).trans hqueue) stDescInvalid []
      refine ⟨_, exec_mailboxResponse hpow hqueue hturn ((if_pos hcan).trans (mpServe_unknown s hunknown)) hanswer,
        hrest, congrArg Mbox.st hchan, ?_⟩
      rw [hchan]
      exact Mbox.answered_rspWord _ _ _ _ (by decide)

end Sys2Proof.Machine
end

section
/-! The MP's power, telemetry, log and membership commands (R342, R391, R392, R456, R464, R473). -/

namespace Sys2Proof.Machine

/-! ### What a device on the links keeps: its id, its topology, its membership state and its state number -/

/-- The id, the topology and the membership state of the device. -/
def State.memberView (s : State) : W64 × Option Topology × Nat := (s.rd rLkId, s.lk.topo, dstate s)

/-- The same with the number of its last link state. -/
def State.seqView (s : State) : (W64 × Option Topology × Nat) × Nat := (s.memberView, s.lk.ownSeq)

theorem memberView_of_seqView {s t : State} (h : t.seqView = s.seqView) : t.memberView = s.memberView :=
  (Prod.mk.inj h).1

theorem seqView_of {s t : State} (hid : t.rd rLkId = s.rd rLkId) (hst : dstate t = dstate s)
    (htopo : t.lk.topo = s.lk.topo) (hseq : t.lk.ownSeq = s.lk.ownSeq) : t.seqView = s.seqView := by
  rw [State.seqView, State.memberView, hid, hst, htopo, hseq, State.seqView, State.memberView]

theorem seqView_of_regs {s t : State} (hregs : t.regs = s.regs) (htopo : t.lk.topo = s.lk.topo)
    (hseq : t.lk.ownSeq = s.lk.ownSeq) : t.seqView = s.seqView :=
  seqView_of (State.rd_of_regs hregs _) (congrArg (bits · 29 3) (State.rd_of_regs hregs rLkEpoch)) htopo hseq

/-- A register of the links beside `LK_ID` and `LK_EPOCH`. -/
theorem seqView_wr (s : State) {o : Nat} (v : W64) (hid : rLkId ≠ o) (hep : rLkEpoch ≠ o) :
    (s.wr o v).seqView = s.seqView :=
  seqView_of (State.rd_wr_other s v hid) (congrArg (bits · 29 3) (State.rd_wr_other s v hep)) rfl rfl
theorem seqView_setFld (s : State) {o : Nat} (l n x : Nat) (hid : rLkId ≠ o) (hep : rLkEpoch ≠ o) :
    (s.setFld o l n x).seqView = s.seqView := seqView_wr s _ hid hep

theorem seqView_noRoute (s : State) (m : SMap Nat) :
    ({ s with lk := { s.lk with noRoute := m } } : State).seqView = s.seqView := rfl
theorem seqView_tb (s : State) (x : Tb) : ({ s with tb := x } : State).seqView = s.seqView := rfl

theorem seqView_foldl {α : Type} (g : State → α → State) (h : ∀ s x, (g s x).seqView = s.seqView)
    (l : List α) (s : State) : (l.foldl g s).seqView = s.seqView := foldl_part _ g h l s

/-- One of the 32 counters takes a count: a register that is none of them keeps its value. -/
theorem countUp_rd_of_lt {o n : Nat} (hn : n < 32) (hcnt : ∀ k, k ≤ 32 → o ≠ rPmuCnt k) (hovf : o ≠ rPmuOvf)
    (hctrl : o ≠ rPmuCtrl) (s : State) : (countUp s n).rd o = s.rd o := by
  have hsignal (u : State) (v : Nat) : (signalVec u v).rd o = u.rd o := State.rd_of_regs (signalVec_regs u v) o
  have hown := hcnt n (by omega)
  have hnext := hcnt (n + 1) (by omega)
  simp [countUp, apply_ite (State.rd · o), hsignal, State.rd_setFld, State.rd_setBit, hown, hnext, hovf, hctrl]

theorem event_rd_of_lt {o : Nat} (hcnt : ∀ k, k ≤ 32 → o ≠ rPmuCnt k) (hovf : o ≠ rPmuOvf)
    (hctrl : o ≠ rPmuCtrl) (s : State) (c u e : Nat) : (event s c u e).rd o = s.rd o := by
  unfold event
  split
  · refine List.foldlRecOn (List.range 32) _ (motive := fun t : State => t.rd o = s.rd o) rfl fun t ht n hn => ?_
    split
    · exact (countUp_rd_of_lt (List.mem_range.1 hn) hcnt hovf hctrl t).trans ht
    · exact ht
  · rfl

theorem seqView_event (s : State) (c u e : Nat) : (event s c u e).seqView = s.seqView := by
  have hlk : (event s c u e).lk = s.lk := (congrArg State.lk (event_hides s c u e) :)
  have hid : ∀ k, k ≤ 32 → rLkId ≠ rPmuCnt k := by unfold rLkId rPmuCnt; omega
  have hepoch : ∀ k, k ≤ 32 → rLkEpoch ≠ rPmuCnt k := by unfold rLkEpoch rPmuCnt; omega
  exact seqView_of (event_rd_of_lt hid (by decide) (by decide) s c u e)
    (congrArg (bits · 29 3) (event_rd_of_lt hepoch (by decide) (by decide) s c u e))
    (congrArg LinkDev.topo hlk) (congrArg LinkDev.ownSeq hlk)
theorem seqView_bwCount (s : State) (i d : Nat) : (bwCount s i d).seqView = s.seqView := by
  unfold bwCount
  split <;> rfl

/-! Sending a packet -/

theorem seqView_putFlit (s : State) (n k q : Nat) (l : List Line) :
    (putFlit s n k q l).seqView = s.seqView := rfl
theorem seqView_setPort (s : State) (n : Nat) (x : LinkPort) : (s.setPort n x).seqView = s.seqView := rfl
theorem seqView_formFlits (s : State) (n k : Nat) : (formFlits s n k).seqView = s.seqView := by
  induction k generalizing s with
  | zero => rfl
  | succ k ih =>
    simp only [formFlits, apply_ite State.seqView, ih, seqView_event,
      foldl_part State.seqView _ (fun _ _ => seqView_bwCount ..), putIdle, seqView_putFlit, seqView_setPort,
      ite_self]
theorem seqView_sendPacket (s : State) (n : Nat) (p : Packet) : (sendPacket s n p).seqView = s.seqView := by
  simp only [sendPacket, runPort, apply_ite State.seqView, seqView_formFlits, seqView_setPort, ite_self]
theorem seqView_floodState (s : State) (u : LinkState) (o : Option Nat) :
    (floodState s u o).seqView = s.seqView :=
  seqView_foldl _ (fun u n => by split; exacts [seqView_sendPacket .., rfl]) _ s

/-! Routes and updates -/

theorem rLkRt_ne (i : Nat) : rLkId ≠ rLkRt i ∧ rLkEpoch ≠ rLkRt i := by unfold rLkId rLkEpoch rLkRt; omega

theorem seqView_countEpoch (s : State) : (s.addWrap rLkEpoch 0 16).seqView = s.seqView :=
  seqView_of (State.rd_wr_other s _ (by decide)) (State.fld_addWrap_other _ _ _ _ _ _ _ (by decide)) rfl rfl

theorem seqView_enterHoldover (s : State) : (enterHoldover s).seqView = s.seqView := by
  unfold enterHoldover setTrim
  exact (seqView_tb _ _).trans <| (seqView_setFld _ _ _ _ (by decide) (by decide)).trans
    (seqView_setFld s _ _ _ (by decide) (by decide))

theorem seqView_installRoutes (s : State) : (installRoutes s).seqView = s.seqView := by
  simp only [installRoutes, apply_ite State.seqView, seqView_enterHoldover, seqView_noRoute, seqView_countEpoch,
    ite_self]
  exact seqView_foldl _ (fun u i => seqView_setFld u _ _ _ (rLkRt_ne i).1 (rLkRt_ne i).2) _ s

/-- An update of the device's own link state counts its number on. -/
theorem seqView_ownUpdate (s : State) (leave : Bool) :
    (ownUpdate s leave).seqView = (s.memberView, s.lk.ownSeq + 1) := by
  simp only [ownUpdate, apply_ite State.seqView, seqView_installRoutes, seqView_floodState, ite_self]
  rfl

/-! Ports -/

theorem rLkStatus_ne (n : Nat) : rLkId ≠ rLkStatus n ∧ rLkEpoch ≠ rLkStatus n := by
  unfold rLkId rLkEpoch rLkStatus; omega
theorem rLkCfg_ne (n : Nat) : rLkId ≠ rLkCfg n ∧ rLkEpoch ≠ rLkCfg n := by
  unfold rLkId rLkEpoch rLkCfg; omega

theorem memberView_setPortState (s : State) (n x : Nat) : (setPortState s n x).memberView = s.memberView :=
  memberView_of_seqView (seqView_setFld s _ _ _ (rLkStatus_ne n).1 (rLkStatus_ne n).2)

theorem memberView_portClose (s : State) (n : Nat) : (portClose s n).memberView = s.memberView := by
  simp only [portClose, apply_ite State.memberView, memberView_setPortState,
    memberView_of_seqView (seqView_setPort ..), (Prod.mk.inj (seqView_ownUpdate ..)).1, ite_self]

theorem memberView_plainWrite_cfg (s : State) (n : Nat) (v : W64) :
    (s.plainWrite (rLkCfg n) v).memberView = s.memberView := by
  unfold State.plainWrite
  split
  · exact memberView_of_seqView (seqView_wr s _ (rLkCfg_ne n).1 (rLkCfg_ne n).2)
  · rfl

theorem memberView_portEnable (s : State) (n : Nat) : (portEnable s n).memberView = s.memberView := by
  simp only [portEnable, linkCfgWrite, apply_ite State.memberView, memberView_of_seqView (seqView_sendPacket ..),
    memberView_portClose, memberView_setPortState, memberView_plainWrite_cfg, ite_self]

/-! ### What a command of the MP leaves -/

theorem OnlyRegs.trans {l : List Nat} {s t u : State} (h : OnlyRegs l s t) (h' : OnlyRegs l t u) : OnlyRegs l s u :=
  fun off hoff => (h' off hoff).trans (h off hoff)

theorem OnlyRegs.of_regs (l : List Nat) {s t : State} (h : t.regs = s.regs) : OnlyRegs l s t :=
  fun off _ => State.rd_of_regs h off

theorem onlyRegs_wr {l : List Nat} (s : State) {o : Nat} (v : W64) (h : o ∈ l) : OnlyRegs l s (s.wr o v) :=
  fun off hoff => State.rd_wr_other s v fun he => by simp [he, h] at hoff

theorem onlyRegs_setFld {l : List Nat} (s : State) {o : Nat} (lo n x : Nat) (h : o ∈ l) :
    OnlyRegs l s (s.setFld o lo n x) := onlyRegs_wr s _ h

theorem only_pwr (s : State) (p : Pwr) : Only [.pwr] s { s with pwr := p } := by
  intro q hq
  cases q <;> simp_all [Part.same]

theorem Only.fld_of_mp {s t : State} (h : Only [.mp] s t) (o lo n : Nat) : t.fld o lo n = s.fld o lo n :=
  congrArg (bits · lo n) (State.rd_of_regs (h .regs rfl) o)

/-! ### SET_CAP (R464) -/

/-- A bit that software may write takes the written value. -/
theorem RegDef.getLsbD_apply {d : RegDef} {i : Nat} (old v : W64) (hrw : d.rw.getLsbD i = true)
    (hw1c : d.w1c.getLsbD i = false) : (d.apply old v).getLsbD i = v.getLsbD i := by
  simp [RegDef.apply, hrw, hw1c]

/-- `PWR_CAP` takes the cap and the enable that software writes. -/
theorem getLsbD_plainWrite_cap (s : State) (v : W64) {i : Nat} (hi : i < 16 ∨ i = 31) :
    ((s.plainWrite rPwrCap v).rd rPwrCap).getLsbD i = v.getLsbD i := by
  have hdef : regDef rPwrCap = some ⟨0x40008, 0, 1, false, 0x292C, 0x8000FFFF, 0⟩ := by decide
  have hbits : ∀ j : Fin 32, j.val < 16 ∨ j.val = 31 →
      (0x8000FFFF : W64).getLsbD j = true ∧ (0xFFFFFFFF : W64).getLsbD j = true := by decide
  obtain ⟨hrw, hlow⟩ := hbits ⟨i, by omega⟩ hi
  simp only [State.plainWrite, hdef]
  rw [State.rd_wr_same, RegDef.getLsbD_apply _ _ hrw BitVec.getLsbD_zero]
  rw [if_neg Bool.false_ne_true, BitVec.getLsbD_and, hlow, Bool.and_true]

theorem pwrCapWrite_frame (s : State) (v : W64) :
    (pwrCapWrite s v).fld rPwrCap 0 9 = min 300 (max 40 (bits v 0 9))
      ∧ (pwrCapWrite s v).bit rPwrCap 31 = bitAt v 31
      ∧ OnlyRegs [rPwrCap, rPwrStatus] s (pwrCapWrite s v) ∧ Only [.regs, .pwr] s (pwrCapWrite s v) := by
  let v' := putBits v 0 9 (Nat.min 300 (Nat.max 40 (bits v 0 9)))
  let u := s.plainWrite rPwrCap v'
  have hfld : u.fld rPwrCap 0 9 = min 300 (max 40 (bits v 0 9)) := by
    have hlow : bits (u.rd rPwrCap) 0 9 = bits v' 0 9 := by
      refine Nat.eq_of_testBit_eq fun i => ?_
      rw [testBit_bits, testBit_bits]
      by_cases hi : i < 9
      · rw [getLsbD_plainWrite_cap s v' (by omega)]
      · simp [hi]
    exact hlow.trans ((bits_putBits_same _ _ _ _ (by decide)).trans
      (Nat.mod_eq_of_lt (Nat.lt_of_le_of_lt (Nat.min_le_left ..) (by decide))))
  have hbit : u.bit rPwrCap 31 = bitAt v 31 :=
    (getLsbD_plainWrite_cap s v' (.inr rfl)).trans (bitAt_putBits _ _ _ _ _ (by decide))
  obtain ⟨w, hw⟩ : ∃ w, u = s.wr rPwrCap w := ⟨_, rfl⟩
  have hregs : OnlyRegs [rPwrCap, rPwrStatus] s u := hw ▸ onlyRegs_wr s w (by simp)
  have honly : Only [.regs, .pwr] s u := hw ▸ Only.mono (only_wr s _ w) (by simp)
  unfold pwrCapWrite
  dsimp only
  split
  · refine ⟨?_, ?_, ?_, ?_⟩
    · exact (State.fld_setBit_other u _ _ _ _ _ _ (.inl (by decide))).trans hfld
    · exact (State.bit_setBit_other u _ _ _ _ _ (by decide) (.inl (by decide))).trans hbit
    · exact hregs.trans (onlyRegs_setFld u _ _ _ (by simp))
    · exact honly.trans ((Only.mono (only_setBit u _ _ _) (by simp)).trans (Only.mono (only_pwr _ _) (by simp)))
  · exact ⟨hfld, hbit, hregs, honly⟩

theorem execSetCap_frame {s : State} (hclk : s.clocksRun = true) (hmp : s.mp.restarting = false) (w : BitVec 9) :
    Completes (.setCap w) s fun t =>
      t.fld rPwrCap 0 9 = min 300 (max 40 w.toNat) ∧ t.bit rPwrCap 31 = true ∧ OnlyRegs [rPwrCap, rPwrStatus] s t
        ∧ Only [.regs, .pwr, .mp] s t := by
  let v := putBits (putBits (s.rd rPwrCap) 0 9 w.toNat) 31 1 1
  have hexec : exec (.setCap w) s = .next (mpDone (pwrCapWrite s v) 0x11 0 []) :=
    (clocked_run hclk _).trans (congrArg _ (by simp [mpSetCap, hmp, v]))
  have hcap : bits v 0 9 = w.toNat := by
    rw [bits_putBits_other _ _ _ _ _ _ (by decide) (by decide), bits_putBits_same _ _ _ _ (by decide)]
    exact Nat.mod_eq_of_lt w.isLt
  have hen : bitAt v 31 = true := by simp [v, bitAt_putBits]
  obtain ⟨hfld, hbit, hregs, honly⟩ := pwrCapWrite_frame s v
  obtain ⟨-, hdone⟩ := mpDone_frame (pwrCapWrite s v) 0x11 0 []
  have hrd := State.rd_of_regs (hdone .regs rfl)
  refine ⟨_, hexec, (hdone.fld_of_mp ..).trans (hcap ▸ hfld), ?_, hregs.trans (.of_regs _ (hdone .regs rfl)),
    (honly.mono (by simp)).trans (hdone.mono (by simp))⟩
  exact (congrArg (bitAt · 31) (hrd rPwrCap)).trans (hbit.trans hen)

/-! ### SET_MODE (R456, R458) -/

/-- A step of the operating point: no register but `PWR_MODE` changes, and the requested mode stands. -/
structure PointMoves (s t : State) : Prop where
  request : t.fld rPwrMode 30 2 = s.fld rPwrMode 30 2
  regs : OnlyRegs [rPwrMode] s t
  parts : Only [.regs, .pwr] s t

namespace PointMoves

theorem refl (s : State) : PointMoves s s := ⟨rfl, fun _ _ => rfl, Only.refl _ s⟩

theorem trans {s t u : State} (h : PointMoves s t) (h' : PointMoves t u) : PointMoves s u :=
  ⟨h'.request.trans h.request, h.regs.trans h'.regs, h.parts.trans h'.parts⟩

theorem setFld (s : State) {lo n : Nat} (x : Nat) (h : lo + n ≤ 30) : PointMoves s (s.setFld rPwrMode lo n x) :=
  ⟨State.fld_setFld_other _ _ _ _ _ _ _ _ (.inr ⟨.inr h, by decide⟩), onlyRegs_setFld s _ _ _ (by simp),
    Only.mono (only_setFld _ _ _ _ _) (by simp)⟩

theorem setBit (s : State) {lo : Nat} (b : Bool) (h : lo < 30) : PointMoves s (s.setBit rPwrMode lo b) :=
  setFld s _ h

theorem pwr (s : State) (p : Pwr) : PointMoves s { s with pwr := p } :=
  ⟨rfl, fun _ _ => rfl, (only_pwr s p).mono (by simp)⟩

end PointMoves

theorem changeDone_moves (s : State) : PointMoves s (changeDone s) :=
  ((PointMoves.setFld s _ (by decide)).trans (.setBit _ _ (by decide))).trans (.setFld _ _ (by decide))

theorem startChange_moves (s : State) (mhz : Nat) : PointMoves s (startChange s mhz) := by
  unfold startChange
  dsimp only
  refine (PointMoves.pwr s { s.pwr with tgtMhz := mhz, tgtMv := voltOf s mhz, margin := 0 }).trans ?_
  split
  · exact changeDone_moves _
  · split
    · exact ((PointMoves.setBit _ _ (by decide)).trans (.setFld _ _ (by decide))).trans (.pwr _ _)
    · exact .setBit _ _ (by decide)

theorem modeRequest_frame (s : State) (m : BitVec 2) :
    (modeRequest s m.toNat).fld rPwrMode 30 2 = m.toNat ∧ OnlyRegs [rPwrMode] s (modeRequest s m.toNat)
      ∧ Only [.regs, .pwr] s (modeRequest s m.toNat) := by
  obtain ⟨hreq, hregs, hparts⟩ := startChange_moves (s.setFld rPwrMode 30 2 m.toNat) (modeRate m.toNat)
  refine ⟨hreq.trans ((State.fld_setFld_same _ _ _ _ _ (by decide)).trans (Nat.mod_eq_of_lt m.isLt)),
    (onlyRegs_setFld s _ _ _ (by simp)).trans hregs, (Only.mono (only_setFld _ _ _ _ _) (by simp)).trans hparts⟩

theorem execSetMode_frame {s : State} (hclk : s.clocksRun = true) (hmp : s.mp.restarting = false) (m : BitVec 2)
    (hnew : (mpAsked s 0x10 && s.mp.begun) = false) : Completes (.setMode m) s fun t =>
      t.fld rPwrMode 30 2 = m.toNat ∧ OnlyRegs [rPwrMode] s t ∧ Only [.regs, .pwr, .mp] s t := by
  let r := modeRequest s m.toNat
  let b : State := if mpAsked r 0x10 then { r with mp := { r.mp with begun := true } } else r
  let t := if modeCur b = m.toNat && !b.bit rPwrMode 27 then mpDone b 0x10 0 [] else b
  have hexec : exec (.setMode m) s = .next t :=
    (clocked_run hclk _).trans (congrArg _ (by simp only [mpSetMode, hmp, hnew, Bool.false_eq_true, if_false]; rfl))
  have hbegun : Only [.mp] r b := by
    unfold b
    split
    exacts [only_mp r _, Only.refl _ r]
  have hmpOnly : Only [.mp] r t := by
    refine hbegun.trans ?_
    unfold t
    split
    exacts [(mpDone_frame b 0x10 0 []).2, Only.refl _ b]
  obtain ⟨hfld, hregs, honly⟩ := modeRequest_frame s m
  exact ⟨t, hexec, (hmpOnly.fld_of_mp _ _ _).trans hfld, hregs.trans (.of_regs _ (hmpOnly .regs rfl)),
    (honly.mono (by simp)).trans (hmpOnly.mono (by simp))⟩

/-! ### SET_LATTOL, TELEMETRY and LOG_READ (R342, R473, R492) -/

theorem execSetLattol_frame {s : State} (hclk : s.clocksRun = true) (hmp : s.mp.restarting = false) (us : W32)
    (hawake : Awake s) : Completes (.setLattol us) s fun t =>
      t.fld rPwrLattol 0 32 = us.toNat ∧ OnlyRegs [rPwrLattol] s t ∧ Only [.regs, .mp] s t := by
  let u := s.setFld rPwrLattol 0 32 us.toNat
  have hexec : exec (.setLattol us) s = .next (mpDone u 0x12 0 []) :=
    (clocked_run hclk _).trans (congrArg _ (by simp [mpSetLattol, hmp, lattolSet_awake hawake, u]))
  obtain ⟨-, hdone⟩ := mpDone_frame u 0x12 0 []
  refine ⟨_, hexec, (hdone.fld_of_mp _ _ _).trans ?_,
    (onlyRegs_setFld s _ _ _ (by simp)).trans (.of_regs _ (hdone .regs rfl)),
    (Only.mono (only_setFld _ _ _ _ _) (by simp)).trans (hdone.mono (by simp))⟩
  exact (State.fld_setFld_same _ _ _ _ _ (by decide)).trans (Nat.mod_eq_of_lt us.isLt)

theorem State.powerUp_of_clocksRun {s : State} (h : s.clocksRun = true) : s.powerUp = true := by
  simp only [State.clocksRun, Bool.and_eq_true] at h
  exact h.1.1

theorem execTelemetry_frame {s : State} (hclk : s.clocksRun = true) (hmp : s.mp.restarting = false) (sel : W64)
    (hasked : mpAsked s 0x20 = true) : Completes (.telemetry sel) s fun t =>
      (∃ l, t.mp.answer = some (0, l) ∧ l.length = 7) ∧ Only [.mp] s t := by
  let l := (List.range 7).map fun i => Config.telemetry sel.toNat s.mp.samples i
  have hexec : exec (.telemetry sel) s = .next (mpDone s 0x20 0 l) :=
    (powered_run (State.powerUp_of_clocksRun hclk) _).trans (congrArg _ (by simp [mpTelemetry, hmp, l]))
  exact ⟨_, hexec, ⟨l, mpDone_answer hasked 0 l, by simp [l]⟩, (mpDone_frame s 0x20 0 l).2⟩

theorem execLogRead_frame {s : State} (hclk : s.clocksRun = true) (hmp : s.mp.restarting = false) (n : W32)
    (hasked : mpAsked s 0x30 = true) : Completes (.logRead n) s fun t =>
      t.mp.answer = some (0, (List.range 4).map fun j =>
        SMap.get (fun _ => 0) s.err.log (4 * (n.toNat % 1024) + j)) ∧ Only [.mp] s t := by
  have hexec : exec (.logRead n) s = .next (mpDone s 0x30 0 _) :=
    (powered_run (State.powerUp_of_clocksRun hclk) _).trans
      (congrArg _ (if_neg (ne_true_of_eq_false hmp)))
  exact ⟨_, hexec, mpDone_answer hasked 0 _, (mpDone_frame s 0x30 0 _).2⟩

/-! ### Membership (R391, R392) -/

theorem memberView_mpDone (s : State) (cmd st : Nat) (pl : List W64) :
    (mpDone s cmd st pl).memberView = s.memberView := by
  obtain ⟨-, honly⟩ := mpDone_frame s cmd st pl
  exact memberView_of_seqView (seqView_of_regs (honly .regs rfl) (congrArg LinkDev.topo (honly .lk rfl))
    (congrArg LinkDev.ownSeq (honly .lk rfl)))

/-- A lone device that takes an id and a topology and is JOINING. -/
def State.joining (s : State) (id : BitVec 10) (topo : Topology) : State :=
  let u := s.setFld rLkId 0 10 id.toNat
  ({ u with lk := { u.lk with topo := some topo } } : State).setFld rLkEpoch 29 3 1

theorem joining_memberView (s : State) (id : BitVec 10) (topo : Topology) :
    (s.joining id topo).memberView = (putBits (s.rd rLkId) 0 10 id.toNat, some topo, 1) := by
  have hst : dstate (s.joining id topo) = 1 := State.fld_setFld_same _ _ _ _ _ (by decide)
  have hid : (s.joining id topo).rd rLkId = putBits (s.rd rLkId) 0 10 id.toNat :=
    (State.rd_setFld_other _ _ _ _ (by decide)).trans (State.rd_wr_same s _ _)
  rw [State.memberView, hid, hst]
  rfl

theorem execMembershipJoin_alone {s : State} (hclk : s.clocksRun = true) (hmp : s.mp.restarting = false)
    (id : BitVec 10) (topo : Topology) (halone : dstate s = 0) (hlinks : s.fld rCapUnits 16 6 ≠ 0) :
    Completes (.membershipJoin id topo) s fun t =>
      t.fld rLkId 0 10 = id.toNat ∧ t.lk.topo = some topo ∧ dstate t = 1 := by
  let u := (List.range 6).foldl portEnable (s.joining id topo)
  have hexec : exec (.membershipJoin id topo) s = .next (mpDone u 0x40 0 []) :=
    (clocked_run hclk _).trans (congrArg _ (by
      simp only [hmp, halone, bne_iff_ne.2 hlinks, Bool.false_eq_true, decide_true, Bool.and_self, if_false, if_true]
      rfl))
  have hview : (mpDone u 0x40 0 []).memberView = (putBits (s.rd rLkId) 0 10 id.toNat, some topo, 1) :=
    (memberView_mpDone ..).trans ((foldl_part State.memberView _ memberView_portEnable _ _).trans
      (joining_memberView s id topo))
  simp only [State.memberView, Prod.mk.injEq] at hview
  obtain ⟨hid, htopo, hst⟩ := hview
  refine ⟨_, hexec, ?_, htopo, hst⟩
  exact (congrArg (bits · 0 10) hid).trans ((bits_putBits_same _ _ _ _ (by decide)).trans (Nat.mod_eq_of_lt id.isLt))

theorem execMembershipJoin_member {s : State} (hclk : s.clocksRun = true) (hmp : s.mp.restarting = false)
    (id : BitVec 10) (topo : Topology) (hmember : dstate s ≠ 0) :
    Completes (.membershipJoin id topo) s fun t => Only [.mp] s t :=
  ⟨mpDone s 0x40 stDescInvalid [], (clocked_run hclk _).trans (congrArg _ (by simp [hmp, hmember])),
    (mpDone_frame ..).2⟩

theorem execMembershipLeave_member {s : State} (hclk : s.clocksRun = true) (hmp : s.mp.restarting = false)
    (hmember : dstate s = 2) : Completes .membershipLeave s fun t =>
      dstate t = 3 ∧ t.lk.ownSeq = s.lk.ownSeq + 1 ∧ ∀ a, t.mem.byte a = s.mem.byte a := by
  let u := ownUpdate s true
  let v := u.setFld rLkEpoch 29 3 3
  have hexec : exec .membershipLeave s = .next (mpDone v 0x40 0 []) :=
    (clocked_run hclk _).trans (congrArg _ (by simp [hmp, hmember, u, v]))
  obtain ⟨-, hdone⟩ := mpDone_frame v 0x40 0 []
  have hkeep := exec_keeps (c := .membershipLeave) rfl s
  have hseq : u.lk.ownSeq = s.lk.ownSeq + 1 := congrArg Prod.snd (seqView_ownUpdate s true)
  rw [hexec] at hkeep
  refine ⟨_, hexec, ?_, (congrArg LinkDev.ownSeq (hdone .lk rfl)).trans hseq,
    fun a => congrArg (Memory.byte · a) hkeep.2⟩
  exact (hdone.fld_of_mp _ _ _).trans (State.fld_setFld_same u _ _ _ _ (by decide))

theorem execMembershipLeave_other {s : State} (hclk : s.clocksRun = true) (hmp : s.mp.restarting = false)
    (hother : dstate s ≠ 2) : Completes .membershipLeave s fun t => Only [.mp] s t :=
  ⟨mpDone s 0x40 stDescInvalid [], (clocked_run hclk _).trans (congrArg _ (by simp [hmp, hother])),
    (mpDone_frame ..).2⟩

/-- Settles O44, command by command; the id, the topology and the membership state outlast every port that a join
enables. -/
theorem managementCommandsComplete : Obligations.ManagementCommandsComplete := by
  unfold Obligations.ManagementCommandsComplete
  intro s hclk hmp
  exact ⟨execSetCap_frame hclk hmp, execSetMode_frame hclk hmp, execSetLattol_frame hclk hmp,
    execTelemetry_frame hclk hmp, execLogRead_frame hclk hmp, execMembershipJoin_alone hclk hmp,
    execMembershipJoin_member hclk hmp, execMembershipLeave_member hclk hmp, execMembershipLeave_other hclk hmp⟩

end Sys2Proof.Machine
end

section
/-! The DC takes descriptors, tasks and frames in (R347, R349, R354, R355, R359). -/

namespace Sys2Proof.Machine

/-! ### A descriptor is fetched (R346, R347) -/

theorem lineRead_dram {s : State} {a : Nat} (h : regionOf s a = .dram) : lineRead s a = some (dramRead s a) := by
  unfold lineRead
  rw [h]

theorem exec_intakeDescriptorFetch_dram {s : State} {n : Nat} (hclk : s.clocksRun = true) (host : Line) (e : Bool)
    (hen : s.dc.en = true) (hruns : dcRuns s = true) (hturn : nextRing s = some n)
    (hdram : regionOf s ((s.dc.ring n).addr + (s.dc.ring n).head % (s.dc.ring n).size * 64) = .dram)
    (hclean : (dramRead s ((s.dc.ring n).addr + (s.dc.ring n).head % (s.dc.ring n).size * 64)).2.1 = false) :
    let q := dramRead s ((s.dc.ring n).addr + (s.dc.ring n).head % (s.dc.ring n).size * 64)
    exec (.intakeDescriptorFetch host e) s = .next (intakeArrive q.2.2 n (lineWords q.1)) := by
  refine (clocked_run hclk _).trans ?_
  rw [if_pos (Bool.and_eq_true_iff.2 ⟨hen, hruns⟩), hturn]
  dsimp only
  rw [hdram, lineRead_dram hdram]
  dsimp only
  rw [hclean]
  rfl

/-- A descriptor that arrives moves HEAD on by one and stands open until its record. -/
theorem intakeArrive_ring (s : State) (n : Nat) (dw : List W64) :
    ((intakeArrive s n dw).dc.ring n).head = ((s.dc.ring n).head + 1) % 2 ^ 32
      ∧ ((intakeArrive s n dw).dc.ring n).open_.length = (s.dc.ring n).open_.length + 1 := by
  let d : WinDesc := ⟨dw, (s.dc.ring n).head, none⟩
  let g : Ring := { s.dc.ring n with
    window := (s.dc.ring n).window ++ [d], head := ((s.dc.ring n).head + 1) % 2 ^ 32
    open_ := (s.dc.ring n).open_ ++ [((s.dc.ring n).head, d.orderKey)] }
  let u := s.setRing n g
  let v : State := { u with dc := { u.dc with rr := n } }
  have hring : v.dc.ring n = g := (setRing_frame s n g).1
  have harrive : intakeArrive s n dw = ringUpdate v n := rfl
  rw [harrive, ringUpdate_eq, (setRing_frame ..).1, hring]
  exact ⟨rfl, List.length_append⟩

/-! ### A task is taken in (R349, R354, R355) -/

section Task

variable {s : State} {p : PipeIx} {c : Nat × Nat × WinDesc} {rs rl : Nat}

/-- No task is reissued, and the round comes to a descriptor. -/
structure TaskTurn (s : State) (p : PipeIx) (c : Nat × Nat × WinDesc) (rs rl : Nat) : Prop where
  clocks : s.clocksRun = true
  room : canAdmit (admitNoted s p.val) p.val = true
  first : ((takeUpdates (admitNoted s p.val)).dc.pipe p.val).reissue = []
  turn : roundRobin (takeUpdates (admitNoted s p.val)) p.val = some (c, rs, rl)

theorem exec_taskAdmit_failing (h : TaskTurn s p c rs rl) :
    let u := takeUpdates (admitNoted s p.val)
    intakeStatus u c.2.1 c.2.2 ≠ 0 →
      exec (.taskAdmit p) s = .next (windowDone u c.2.1 c.2.2.count (intakeStatus u c.2.1 c.2.2)) := by
  intro u hbad
  refine (clocked_run h.clocks _).trans ?_
  dsimp only
  rw [if_pos h.room, h.first, h.turn]
  exact if_pos hbad

theorem exec_taskAdmit_taken (h : TaskTurn s p c rs rl) {v : State} :
    let u := takeUpdates (admitNoted s p.val)
    intakeStatus u c.2.1 c.2.2 = 0 → admitTask u p.val c.2.1 c.2.2 0 = .admitted v →
      exec (.taskAdmit p) s = .next (event (ringUpdate (windowDrop
        (v.setPipe p.val { v.dc.pipe p.val with rrSource := rs, rrLeft := rl }) c.2.1 c.2.2.count) c.2.1)
        0 p.val 1) := by
  intro u hgood hadmitted
  refine (clocked_run h.clocks _).trans ?_
  dsimp only
  rw [if_pos h.room, h.first, h.turn]
  dsimp only
  rw [if_neg (not_not.2 hgood), hadmitted]

end Task

/-! ### A frame is taken in (R359, R360) -/

section Frame

variable {s : State} {u : Fin 2} {i : Nat} {r : List Nat}

theorem exec_frameIntake_stopped (hclk : s.clocksRun = true) (hq : SMap.get (fun _ => []) s.fiq u.val = i :: r)
    (hst : (s.str i).st ≠ .running) (hbound : (s.str i).boundary = none) :
    exec (.frameIntake u) s = .next (fiNext s u.val i) := by
  refine (clocked_run hclk _).trans ?_
  rw [hq]
  exact if_neg (by simp [hst, hbound])

/-- A plane of a frame that has been taken in holds no raw bytes; the luma plane holds the words. -/
def FDesc.converting (d : FDesc) (ws : List OWord) : FDesc :=
  { d with raw := 0, rawLen := 0, taken := d.walkBytes, words := ws, converted := true }

theorem exec_frameIntake_whole (hclk : s.clocksRun = true) (hq : SMap.get (fun _ => []) s.fiq u.val = i :: r)
    (hst : (s.str i).st = .running) {l c : FDesc}
    (hwhole : (fiLuma (s.str i)).bind (fun j => frameWhole (s.str i) j) = some (l, c)) :
    let q := fiListRead s l.fiu l.fiprof (s.str i).task
    let bps := fiBps q.2 l.fiu l.fiprof
    let o := fiFrameOut q.2 l.fiu l.fiprof ⟨l.count 0 / bps, l.count 1, bps, l.raw, c.raw⟩ (s.str i).task
    q.1 = none → o.2 = 0 → exec (.frameIntake u) s = .next (strSettle (fiNext
      (q.2.setStr i (((s.str i).updDesc l.k (FDesc.converting · o.1)).updDesc c.k (FDesc.converting · []))) u.val i)
      i) := by
  intro q bps o hlist hsat
  refine (clocked_run hclk _).trans ?_
  rw [hq]
  dsimp only
  rw [if_pos (by simp [hst]), hwhole]
  dsimp only
  rw [hlist]
  dsimp only
  rw [if_pos hsat]
  rfl

end Frame

/-- Settles O37: each command at the one branch its conditions name; a frame that is taken in stores no byte. -/
theorem intakeAndAdmission : Obligations.IntakeAndAdmission := by
  intro s hclk
  refine ⟨?fetch, ?task, ?stopped, ?whole⟩
  case fetch =>
    intro host e n g a hen hruns hturn hdram hclean
    exact ⟨exec_intakeDescriptorFetch_dram hclk host e hen hruns hturn hdram hclean, intakeArrive_ring s n _⟩
  case task =>
    intro p c rs rl s' u hroom hfirst hturn
    have h : TaskTurn s p c rs rl := ⟨hclk, hroom, hfirst, hturn⟩
    exact ⟨exec_taskAdmit_failing h, fun v => exec_taskAdmit_taken h⟩
  case stopped =>
    exact fun u i r hq hst hbound => exec_frameIntake_stopped hclk hq hst hbound
  case whole =>
    intro u i r l c hq hst hwhole x q bps o taken hlist hsat
    have hexec := exec_frameIntake_whole hclk hq hst hwhole hlist hsat
    have hkeep := exec_keeps (c := .frameIntake u) rfl s
    rw [hexec] at hkeep
    exact ⟨hexec, _, hexec, fun b => congrArg (Memory.byte · b) hkeep.2⟩

end Sys2Proof.Machine
end


section
/-! A step with a command at the front of the queue, and the state after reset (R50, R407, R495, R496). -/

namespace Sys2Proof.Machine

/-- Settles O1: by the second branch of a step. -/
theorem everyStepRunsTheFrontCommand : Obligations.EveryStepRunsTheFrontCommand := fun _ _ => rfl

/-- The registers after reset hold what their tables give. -/
theorem State.rd_reset (o : Nat) : State.reset.rd o = regReset o := rfl

/-- Settles O60: the state lists nothing, and each register reads the reset value of its table. -/
theorem resetHoldsInvariantAndSpecValues : Obligations.ResetHoldsInvariantAndSpecValues := by
  refine ⟨rfl, rfl, rfl, rfl, ?phase, rfl, rfl, rfl, ?lkCfg, ?stroke, ?errCtrl, ?errHead⟩
  case phase => decide
  case lkCfg =>
    simp only [State.rd_reset]
    decide
  all_goals
    rw [State.rd_reset]
    decide

end Sys2Proof.Machine
end

section
/-! The code over GF(16): its products, the syndrome of a codeword, and the correction of an error in one symbol
(R370 to R372). -/

namespace Sys2Proof.Machine

/-! ### Products in GF(16) (R370) -/

/-- One step of the reduction: a number whose bit k is set takes the multiple m of the polynomial. -/
def gfReduce (k m p : Nat) : Nat := if p / 2 ^ k % 2 = 1 then p ^^^ m else p

/-- The product before its reduction. -/
def gfRaw (a b : Nat) : Nat :=
  (if b % 2 = 1 then a else 0) ^^^ (if b / 2 % 2 = 1 then 2 * a else 0)
    ^^^ (if b / 4 % 2 = 1 then 4 * a else 0) ^^^ (if b / 8 % 2 = 1 then 8 * a else 0)

theorem gfMul_eq (a b : Nat) :
    gfMul a b = gfReduce 4 0x13 (gfReduce 5 0x26 (gfReduce 6 0x4C (gfRaw a b))) := rfl

theorem gfReduce_xor (k m p q : Nat) : gfReduce k m (p ^^^ q) = gfReduce k m p ^^^ gfReduce k m q := by
  have hodd (x : Nat) : (x / 2 ^ k % 2 = 1) ↔ x.testBit k = true := by simp [Nat.testBit_eq_decide_div_mod_eq]
  simp only [gfReduce, hodd, Nat.testBit_xor]
  cases p.testBit k <;> cases q.testBit k <;> simp [Nat.xor_assoc, Nat.xor_comm m]

theorem two_pow_mul_xor (k a b : Nat) : 2 ^ k * (a ^^^ b) = 2 ^ k * a ^^^ 2 ^ k * b := by
  simpa [Nat.shiftLeft_eq, Nat.mul_comm] using Nat.shiftLeft_xor_distrib (a := a) (b := b) (i := k)

theorem ite_xor (c : Prop) [Decidable c] (a b : Nat) :
    (if c then a ^^^ b else 0) = (if c then a else 0) ^^^ (if c then b else 0) := by
  split <;> simp

theorem gfRaw_xor (a b c : Nat) : gfRaw (a ^^^ b) c = gfRaw a c ^^^ gfRaw b c := by
  have h2 : 2 * (a ^^^ b) = 2 * a ^^^ 2 * b := two_pow_mul_xor 1 a b
  have h4 : 4 * (a ^^^ b) = 4 * a ^^^ 4 * b := two_pow_mul_xor 2 a b
  have h8 : 8 * (a ^^^ b) = 8 * a ^^^ 8 * b := two_pow_mul_xor 3 a b
  simp only [gfRaw, h2, h4, h8, ite_xor]
  ac_rfl

theorem gfMul_xor (a b c : Nat) : gfMul (a ^^^ b) c = gfMul a c ^^^ gfMul b c := by
  simp only [gfMul_eq, gfRaw_xor, gfReduce_xor]

@[simp] theorem gfMul_zero_left (b : Nat) : gfMul 0 b = 0 := by simp [gfMul]

theorem gfMul_lt {a b : Nat} (ha : a < 16) (hb : b < 16) : gfMul a b < 16 :=
  (by decide +kernel : ∀ a < 16, ∀ b < 16, gfMul a b < 16) a ha b hb

theorem gfMul_one {a : Nat} (ha : a < 16) : gfMul a 1 = a :=
  (by decide : ∀ a < 16, gfMul a 1 = a) a ha

/-- A product by e, divided by e. -/
theorem gfMul_gfInv {e a : Nat} (he : e < 16) (ha : a < 16) (h0 : e ≠ 0) : gfMul (gfMul e a) (gfInv e) = a :=
  (by decide +kernel : ∀ e < 16, ∀ a < 16, e ≠ 0 → gfMul (gfMul e a) (gfInv e) = a) e he a ha h0

theorem gfQuad_lt {a b : Nat} (ha : a < 16) (hb : b < 16) : gfQuad a b < 16 :=
  Nat.xor_lt_two_pow (n := 4) (Nat.xor_lt_two_pow (n := 4) (gfMul_lt ha ha) (gfMul_lt ha hb))
    (gfMul_lt (by decide) (gfMul_lt hb hb))

/-! ### Sums over the data symbols (R371) -/

/-- The sum over the data symbols of a line of each symbol times its factor. -/
@[irreducible] def dataSum (l : Line) (h : Nat → Nat) : Nat :=
  (List.range 128).foldl (fun t j => t ^^^ gfMul (laneOf l.toNat 4 j) (h j)) 0

theorem dataSum_eq (l : Line) (h : Nat → Nat) : dataSum l h
    = (List.range 128).foldl (fun t j => t ^^^ gfMul (laneOf l.toNat 4 j) (h j)) 0 := by rw [dataSum]

theorem foldl_xor_xor (f g : Nat → Nat) (l : List Nat) (a b : Nat) :
    l.foldl (fun t j => t ^^^ (f j ^^^ g j)) (a ^^^ b)
      = l.foldl (fun t j => t ^^^ f j) a ^^^ l.foldl (fun t j => t ^^^ g j) b := by
  induction l generalizing a b with
  | nil => rfl
  | cons j r ih =>
    rw [List.foldl_cons, List.foldl_cons, List.foldl_cons, ← ih]
    congr 1
    ac_rfl

theorem foldl_xor_lt {f : Nat → Nat} {n : Nat} {l : List Nat} (h : ∀ j ∈ l, f j < 2 ^ n) {a : Nat} (ha : a < 2 ^ n) :
    l.foldl (fun t j => t ^^^ f j) a < 2 ^ n := by
  induction l generalizing a with
  | nil => exact ha
  | cons j r ih => exact ih (fun k hk => h k (by simp [hk])) (Nat.xor_lt_two_pow ha (h j (by simp)))

theorem foldl_xor_zero {f : Nat → Nat} {l : List Nat} (h : ∀ k ∈ l, f k = 0) (a : Nat) :
    l.foldl (fun t k => t ^^^ f k) a = a := by
  induction l generalizing a with
  | nil => rfl
  | cons k r ih =>
    rw [List.foldl_cons, h k (by simp), Nat.xor_zero]
    exact ih (fun m hm => h m (by simp [hm])) a

/-- A sum with one term that is not zero. -/
theorem foldl_xor_single {f : Nat → Nat} {l : List Nat} {j : Nat} (hl : l.Nodup) (hj : j ∈ l)
    (h : ∀ k, k ≠ j → f k = 0) (a : Nat) : l.foldl (fun t k => t ^^^ f k) a = a ^^^ f j := by
  induction l generalizing a with
  | nil => simp at hj
  | cons k r ih =>
    obtain ⟨hk, hr⟩ := List.nodup_cons.1 hl
    rw [List.foldl_cons]
    rcases List.mem_cons.1 hj with rfl | hjr
    · exact foldl_xor_zero (fun m hm => h m fun hmj => hk (hmj ▸ hm)) _
    · rw [h k fun hkj => hk (hkj ▸ hjr), Nat.xor_zero]
      exact ih hr hjr a

theorem dataSum_xor (l m : Line) (h : Nat → Nat) : dataSum (l ^^^ m) h = dataSum l h ^^^ dataSum m h := by
  simp only [dataSum_eq, laneOf_xor, gfMul_xor]
  exact foldl_xor_xor _ _ _ 0 0

theorem dataSum_lt (l : Line) {h : Nat → Nat} (hh : ∀ j < 128, h j < 16) : dataSum l h < 16 := by
  rw [dataSum_eq]
  exact foldl_xor_lt (n := 4) (fun j hj => gfMul_lt (laneOf_lt _ 4 j) (hh j (List.mem_range.1 hj))) (by decide)

/-- The line whose data symbol j is e and whose others are zero. -/
def symbolLine (j e : Nat) : Line := BitVec.ofNat 512 (e <<< (4 * j))

theorem laneOf_symbolLine {j e : Nat} (hj : j < 128) (he : e < 16) (k : Nat) :
    laneOf (symbolLine j e).toNat 4 k = if k = j then e else 0 := by
  have hbit {i : Nat} (hi : 4 ≤ i) : e.testBit i = false :=
    Nat.testBit_lt_two_pow (he.trans_le (Nat.pow_le_pow_right (n := 2) (by decide) hi))
  refine Nat.eq_of_testBit_eq fun i => ?_
  simp only [laneOf, symbolLine, BitVec.toNat_ofNat, Nat.testBit_mod_two_pow, Nat.testBit_shiftRight,
    Nat.testBit_shiftLeft]
  by_cases hi : i < 4
  · split
    · subst k
      have hlt : 4 * j + i < 512 := by omega
      simp [hi, hlt]
    · rcases Nat.lt_or_gt_of_ne ‹k ≠ j› with hlt | hgt
      · have hge : ¬ 4 * j ≤ 4 * k + i := by omega
        simp [hge]
      · rw [hbit (by omega)]
        simp
  · split <;> simp [hi, hbit (Nat.le_of_not_lt hi)]

theorem dataSum_symbolLine {j e : Nat} (hj : j < 128) (he : e < 16) (h : Nat → Nat) :
    dataSum (symbolLine j e) h = gfMul e (h j) := by
  have hsum := foldl_xor_single (f := fun k => gfMul (laneOf (symbolLine j e).toNat 4 k) (h k)) (l := List.range 128)
    (j := j) List.nodup_range (by simpa) (fun k hk => by simp [laneOf_symbolLine hj he, hk]) 0
  rw [dataSum_eq, hsum, laneOf_symbolLine hj he, if_pos rfl, Nat.zero_xor]

/-! ### The codeword of a line (R370, R371) -/

/-- The sums of a line over the four coordinates of the columns of its data symbols. -/
def dataSyndrome (l : Line) : Nat × Nat × Nat × Nat :=
  (dataSum l fun _ => 1, dataSum l fun j => (symbolPair j).1, dataSum l fun j => (symbolPair j).2,
    dataSum l fun j => gfQuad (symbolPair j).1 (symbolPair j).2)

theorem symbolPair_lt {j : Nat} (hj : j < 128) : (symbolPair j).1 < 16 ∧ (symbolPair j).2 < 16 := by
  unfold symbolPair
  dsimp only
  split <;> omega

/-- Four sums made in one pass. -/
theorem foldl_xor_four (f g h k : Nat → Nat) (l : List Nat) (a b c d : Nat) :
    l.foldl (fun (t : Nat × Nat × Nat × Nat) j =>
        (t.1 ^^^ f j, t.2.1 ^^^ g j, t.2.2.1 ^^^ h j, t.2.2.2 ^^^ k j)) (a, b, c, d)
      = (l.foldl (fun t j => t ^^^ f j) a, l.foldl (fun t j => t ^^^ g j) b,
        l.foldl (fun t j => t ^^^ h j) c, l.foldl (fun t j => t ^^^ k j) d) := by
  induction l generalizing a b c d with
  | nil => rfl
  | cons j r ih => exact ih ..

/-- The check symbols, c0 lowest, that a data syndrome asks for (R371). -/
def checkWord (z : Nat × Nat × Nat × Nat) : List Nat :=
  [z.2.2.2 ^^^ z.2.1 ^^^ gfMul 8 z.2.2.1, z.1 ^^^ z.2.1 ^^^ z.2.2.1, z.2.1, z.2.2.1]

theorem dataSyndrome_lt (l : Line) : let z := dataSyndrome l
    z.1 < 16 ∧ z.2.1 < 16 ∧ z.2.2.1 < 16 ∧ z.2.2.2 < 16 :=
  ⟨dataSum_lt l fun _ _ => (by decide : 1 < 16), dataSum_lt l fun _ hj => (symbolPair_lt hj).1,
    dataSum_lt l fun _ hj => (symbolPair_lt hj).2,
    dataSum_lt l fun _ hj => gfQuad_lt (symbolPair_lt hj).1 (symbolPair_lt hj).2⟩

theorem checkWord_lt (l : Line) : ∀ c ∈ checkWord (dataSyndrome l), c < 16 := by
  obtain ⟨h0, h1, h2, h3⟩ := dataSyndrome_lt l
  simp only [checkWord, List.forall_mem_cons]
  exact ⟨Nat.xor_lt_two_pow (n := 4) (Nat.xor_lt_two_pow (n := 4) h3 h1) (gfMul_lt (by decide) h2),
    Nat.xor_lt_two_pow (n := 4) (Nat.xor_lt_two_pow (n := 4) h0 h1) h2, h1, h2, by simp⟩

theorem encodeLine_eq (l : Line) : encodeLine l = BitVec.ofNat 16 (ofLanes 4 (checkWord (dataSyndrome l))) := by
  have hlane (j : Nat) : gfMul (laneOf l.toNat 4 j) 1 = laneOf l.toNat 4 j := gfMul_one (laneOf_lt _ 4 j)
  have hz : (List.range 128).foldl (fun (t : Nat × Nat × Nat × Nat) j =>
      (t.1 ^^^ laneOf l.toNat 4 j, t.2.1 ^^^ gfMul (laneOf l.toNat 4 j) (symbolPair j).1,
        t.2.2.1 ^^^ gfMul (laneOf l.toNat 4 j) (symbolPair j).2,
        t.2.2.2 ^^^ gfMul (laneOf l.toNat 4 j) (gfQuad (symbolPair j).1 (symbolPair j).2))) (0, 0, 0, 0)
      = dataSyndrome l := by
    rw [foldl_xor_four]
    simp only [dataSyndrome, dataSum_eq, hlane]
  have hlt := checkWord_lt l
  simp only [checkWord, List.forall_mem_cons] at hlt
  obtain ⟨h0, h1, h2, h3, -⟩ := hlt
  unfold encodeLine
  dsimp only
  rw [hz]
  congr 1
  simp only [checkWord, ofLanes, Nat.shiftLeft_eq]
  omega

/-- Check symbol i of the encoder. -/
theorem laneOf_encodeLine (l : Line) (i : Nat) :
    laneOf (encodeLine l).toNat 4 i = (checkWord (dataSyndrome l)).getD i 0 := by
  rw [encodeLine_eq, toNat_ofNat_ofLanes (by simp [checkWord]), laneOf_ofLanes, Nat.mod_eq_of_lt]
  by_cases hi : i < (checkWord (dataSyndrome l)).length
  · rw [List.getD_eq_getElem _ _ hi]
    exact checkWord_lt l _ (List.getElem_mem hi)
  · rw [List.getD_eq_default _ _ (Nat.le_of_not_lt hi)]
    decide

theorem xor_cancel (a b c : Nat) : a ^^^ (a ^^^ b ^^^ c) ^^^ b ^^^ c = 0 :=
  calc a ^^^ (a ^^^ b ^^^ c) ^^^ b ^^^ c
    _ = (a ^^^ b ^^^ c) ^^^ (a ^^^ b ^^^ c) := by ac_rfl
    _ = 0 := Nat.xor_self _

/-- Settles O28: the check symbols are those that the data syndrome asks for, and each sum cancels. -/
theorem encoderMakesTheSyndromeOfTheCodewordZero : Obligations.EncoderMakesTheSyndromeOfTheCodewordZero := by
  intro l
  dsimp only
  simp only [laneOf_encodeLine, ← dataSum_eq]
  exact ⟨rfl, rfl, rfl, rfl, xor_cancel _ _ _, Nat.xor_self _, Nat.xor_self _, xor_cancel _ _ _⟩

/-! ### The syndrome (R370, R371) -/

theorem laneOf_nat_xor (a b w i : Nat) : laneOf (a ^^^ b) w i = laneOf a w i ^^^ laneOf b w i := by
  simp only [laneOf, Nat.shiftRight_xor_distrib, Nat.xor_mod_two_pow]

theorem gfMul_comm {a b : Nat} (ha : a < 16) (hb : b < 16) : gfMul a b = gfMul b a :=
  (by decide +kernel : ∀ a < 16, ∀ b < 16, gfMul a b = gfMul b a) a ha b hb

/-- The syndrome of a codeword's check symbols alone is that of its data symbols. -/
theorem syndromeOf_encodeLine (l : Line) : syndromeOf (encodeLine l) = dataSyndrome l := by
  simp only [syndromeOf, laneOf_encodeLine]
  refine Prod.ext ?_ (Prod.ext rfl (Prod.ext rfl ?_))
  all_goals simp [checkWord, Nat.xor_assoc, Nat.xor_comm, Nat.xor_left_comm]

theorem syndromeOf_xor (d d' : BitVec 16) : syndromeOf (d ^^^ d') =
    ((syndromeOf d).1 ^^^ (syndromeOf d').1, (syndromeOf d).2.1 ^^^ (syndromeOf d').2.1,
      (syndromeOf d).2.2.1 ^^^ (syndromeOf d').2.2.1, (syndromeOf d).2.2.2 ^^^ (syndromeOf d').2.2.2) := by
  have h3 : gfMul 8 (laneOf d.toNat 4 3 ^^^ laneOf d'.toNat 4 3)
      = gfMul 8 (laneOf d.toNat 4 3) ^^^ gfMul 8 (laneOf d'.toNat 4 3) := by
    have hlane (x : BitVec 16) : laneOf x.toNat 4 3 < 16 := laneOf_lt _ 4 3
    rw [gfMul_comm (by decide) (Nat.xor_lt_two_pow (n := 4) (hlane d) (hlane d')), gfMul_xor,
      gfMul_comm (hlane d) (by decide), gfMul_comm (hlane d') (by decide)]
  simp only [syndromeOf, BitVec.toNat_xor, laneOf_nat_xor, h3]
  refine Prod.ext ?_ (Prod.ext rfl (Prod.ext rfl ?_))
  all_goals dsimp only; ac_rfl

/-- The syndrome of a line with one wrong data symbol is that error times the column of the symbol. -/
theorem syndromeOf_symbolError (l : Line) {j e : Nat} (hj : j < 128) (he : e < 16) :
    syndromeOf (encodeLine l ^^^ encodeLine (l ^^^ symbolLine j e)) =
      (e, gfMul e (symbolPair j).1, gfMul e (symbolPair j).2, gfMul e (gfQuad (symbolPair j).1 (symbolPair j).2)) := by
  have hcancel (a b : Nat) : a ^^^ (a ^^^ b) = b := by rw [← Nat.xor_assoc, Nat.xor_self, Nat.zero_xor]
  simp only [syndromeOf_xor, syndromeOf_encodeLine, dataSyndrome, dataSum_xor, hcancel, dataSum_symbolLine hj he,
    gfMul_one he]

/-! ### Decoding (R372) -/

/-- A syndrome that is e times a point of the quadric. -/
theorem decodeLine_point (l : Line) {d : BitVec 16} {e a b : Nat} (he : e < 16) (h0 : e ≠ 0) (ha : a < 16)
    (hb : b < 16) (hd : syndromeOf d = (e, gfMul e a, gfMul e b, gfMul e (gfQuad a b))) :
    decodeLine l d = if 16 * b + a = 0 ∨ 16 * b + a = 1 ∨ 16 * b + a = 16 then .corrected l
      else if 16 * b + a ≤ 130 then
        .corrected (l ^^^ symbolLine (if 16 * b + a ≤ 15 then 16 * b + a - 2 else 16 * b + a - 3) e)
      else .uncorrectable := by
  have hne : d ≠ 0 := by
    rintro rfl
    exact h0 (congrArg Prod.fst hd).symm
  simp only [decodeLine, hd, if_neg hne, if_pos h0, gfMul_gfInv he ha h0, gfMul_gfInv he hb h0,
    gfMul_gfInv he (gfQuad_lt ha hb) h0, ne_eq, not_true_eq_false, if_false, symbolLine]

/-- The number of a data symbol's column leads back to the symbol, and is none of those of the check symbols. -/
theorem symbolPair_number {j : Nat} (hj : j < 128) : let n := 16 * (symbolPair j).2 + (symbolPair j).1
    ¬(n = 0 ∨ n = 1 ∨ n = 16) ∧ n ≤ 130 ∧ (if n ≤ 15 then n - 2 else n - 3) = j := by
  have hn : 16 * (symbolPair j).2 + (symbolPair j).1 = if j ≤ 13 then j + 2 else j + 3 := by
    simp only [symbolPair]
    omega
  dsimp only
  rw [hn]
  by_cases h13 : j ≤ 13
  · rw [if_pos h13, if_pos (by omega)]
    omega
  · rw [if_neg h13, if_neg (by omega)]
    omega

/-- A syndrome with only its last coordinate is an error of check symbol c0. -/
theorem decodeLine_checkZero (l : Line) {d : BitVec 16} {e : Nat} (h0 : e ≠ 0) (hd : syndromeOf d = (0, 0, 0, e)) :
    decodeLine l d = .corrected l := by
  have hne : d ≠ 0 := by
    rintro rfl
    exact h0 (congrArg (·.2.2.2) hd).symm
  simpa [decodeLine, hd] using hne

/-- The syndromes of errors in the four check symbols: c0 off the quadric, the others the points (0, 0), (1, 0)
and (0, 1) of it. -/
theorem syndromeOf_checkError : ∀ e < 16, syndromeOf (BitVec.ofNat 16 (e <<< (4 * 0))) = (0, 0, 0, e)
    ∧ syndromeOf (BitVec.ofNat 16 (e <<< (4 * 1))) = (e, gfMul e 0, gfMul e 0, gfMul e (gfQuad 0 0))
    ∧ syndromeOf (BitVec.ofNat 16 (e <<< (4 * 2))) = (e, gfMul e 1, gfMul e 0, gfMul e (gfQuad 1 0))
    ∧ syndromeOf (BitVec.ofNat 16 (e <<< (4 * 3))) = (e, gfMul e 0, gfMul e 1, gfMul e (gfQuad 0 1)) := by
  decide +kernel

/-- Settles O27: an error in a data symbol, or in check symbol c1, c2 or c3, makes the syndrome a point of the
quadric, and one in c0 the one column off it. -/
theorem singleSymbolErrorsAreCorrected : Obligations.SingleSymbolErrorsAreCorrected := by
  refine ⟨fun l j e hj h0 he => ?data, fun l i e hi h0 he => ?check⟩
  case data =>
    obtain ⟨ha, hb⟩ := symbolPair_lt hj
    obtain ⟨hcheck, hdata, hback⟩ := symbolPair_number hj
    change decodeLine (l ^^^ symbolLine j e) (encodeLine l ^^^ encodeLine (l ^^^ symbolLine j e)) = _
    rw [decodeLine_point _ he h0.ne' ha hb (syndromeOf_symbolError l hj he), if_neg hcheck, if_pos hdata, hback,
      BitVec.xor_assoc, BitVec.xor_self, BitVec.xor_zero]
  case check =>
    obtain ⟨hc0, hc1, hc2, hc3⟩ := syndromeOf_checkError e he
    obtain rfl | rfl | rfl | rfl : i = 0 ∨ i = 1 ∨ i = 2 ∨ i = 3 := by omega
    · exact decodeLine_checkZero l h0.ne' hc0
    · exact decodeLine_point l he h0.ne' (by decide) (by decide) hc1
    · exact decodeLine_point l he h0.ne' (by decide) (by decide) hc2
    · exact decodeLine_point l he h0.ne' (by decide) (by decide) hc3

end Sys2Proof.Machine
end

section
/-! Line reads, write-backs, scrub reads and refreshes of the memory controllers (R368, R372 to R379). -/

namespace Sys2Proof.Machine

/-! ### Registers that counting an event leaves (R542 to R545) -/

/-- The registers that are neither a counter nor the counters' controls. -/
theorem event_rd_outside {o : Nat} (ho : o < 0xA0000 ∨ 0xA0010 ≤ o ∧ o < 0xA0200 ∨ 0xB0000 ≤ o) (s : State) (cls unit ev : Nat) :
    (event s cls unit ev).rd o = s.rd o :=
  event_rd_of_lt (fun n hn => by unfold rPmuCnt; omega) (by unfold rPmuOvf; omega) (by unfold rPmuCtrl; omega) s cls
    unit ev

/-! ### A read of a line (R368, R372, R376, R377) -/

theorem event_eccOn (s : State) (c u e : Nat) : (event s c u e).eccOn = s.eccOn :=
  congrArg (bitAt · 31) (event_rd_outside (by decide) s c u e)

@[simp] theorem bwCount_rd (s : State) (i d o : Nat) : (bwCount s i d).rd o = s.rd o :=
  State.rd_of_regs (bwCount_only s i d .regs rfl) o

/-- The state once the read of a line has been counted. -/
def readCounted (s : State) (a : Nat) : State :=
  bwCount (event s 5 (chanOf s (a / 64 * 64)).1 1) (chanOf s (a / 64 * 64)).1 0

theorem readCounted_eccOn (s : State) (a : Nat) : (readCounted s a).eccOn = s.eccOn :=
  (congrArg (bitAt · 31) (bwCount_rd ..)).trans (event_eccOn ..)

theorem dramRead_off {s : State} (h : s.eccOn = false) (a : Nat) (count : Bool) :
    dramRead s a count = (s.mem.line (a / 64 * 64), false, readCounted s a) := by
  have hoff := (readCounted_eccOn s a).trans h
  unfold readCounted at hoff
  simp [dramRead, hoff, readCounted]

/-- The same state once the check line has been looked up as well. -/
def readChecked (s : State) (a : Nat) : State :=
  cacheTouch (readCounted s a) (chanOf s (a / 64 * 64)).1 (chanOf s (a / 64 * 64)).2

theorem readChecked_delta (s : State) (a : Nat) : (readChecked s a).delta a = s.delta a := by
  simp [State.delta, readChecked, readCounted]

section Checked

variable {s : State} {a : Nat} (h : s.eccOn = true) (count : Bool)
include h

theorem dramRead_ok (hd : decodeLine (s.mem.line (a / 64 * 64)) (s.delta a) = .ok) :
    dramRead s a count = (s.mem.line (a / 64 * 64), false, readChecked s a) := by
  have hon := (readCounted_eccOn s a).trans h
  rw [← readChecked_delta] at hd
  unfold readChecked readCounted at *
  simp [dramRead, hon, hd]

theorem dramRead_corrected {l : Line} (hd : decodeLine (s.mem.line (a / 64 * 64)) (s.delta a) = .corrected l) :
    dramRead s a count = (l, false, if count then noteCorrected (readChecked s a) (chanOf s (a / 64 * 64)).1 a
      (l == s.mem.line (a / 64 * 64)) else readChecked s a) := by
  have hon := (readCounted_eccOn s a).trans h
  rw [← readChecked_delta] at hd
  unfold readChecked readCounted at *
  simp [dramRead, hon, hd]

theorem dramRead_uncorrectable (hd : decodeLine (s.mem.line (a / 64 * 64)) (s.delta a) = .uncorrectable) :
    dramRead s a count = (s.mem.line (a / 64 * 64), true,
      noteUncorrectable (readChecked s a) (chanOf s (a / 64 * 64)).1 a 1) := by
  have hon := (readCounted_eccOn s a).trans h
  rw [← readChecked_delta] at hd
  unfold readChecked readCounted at *
  simp [dramRead, hon, hd]

end Checked

/-- The states that a read can leave. -/
theorem dramRead_state (s : State) (a : Nat) (count : Bool) :
    (dramRead s a count).2.2 = readCounted s a ∨ (dramRead s a count).2.2 = readChecked s a
      ∨ (count = true ∧ ∃ inCheck, (dramRead s a count).2.2
          = noteCorrected (readChecked s a) (chanOf s (a / 64 * 64)).1 a inCheck)
      ∨ (dramRead s a count).2.2 = noteUncorrectable (readChecked s a) (chanOf s (a / 64 * 64)).1 a 1 := by
  cases h : s.eccOn with
  | false => exact .inl (by rw [dramRead_off h])
  | true =>
    cases hd : decodeLine (s.mem.line (a / 64 * 64)) (s.delta a) with
    | ok => exact .inr (.inl (by rw [dramRead_ok h _ hd]))
    | corrected l =>
      rw [dramRead_corrected h _ hd]
      cases count with
      | false => exact .inr (.inl rfl)
      | true => exact .inr (.inr (.inl ⟨rfl, _, rfl⟩))
    | uncorrectable => exact .inr (.inr (.inr (by rw [dramRead_uncorrectable h _ hd])))

/-- Settles O26: the line by what it decodes to; a read only moves the controllers, and what counts and logs it. -/
theorem lineReadReturnsCorrectedData : Obligations.LineReadReturnsCorrectedData := by
  intro s a
  refine ⟨fun h => ?off, fun h hd => ?ok, fun l' h hd => ?corrected, fun h hd => ?uncorrectable,
    fun b => congrArg (Memory.byte · b) (dramRead_mem s a true), dramRead_ecc s a true⟩
  case off => exact dramRead_off h a true ▸ ⟨rfl, rfl⟩
  case ok => exact dramRead_ok h true hd ▸ ⟨rfl, rfl⟩
  case corrected => exact dramRead_corrected h true hd ▸ ⟨rfl, rfl⟩
  case uncorrectable => exact dramRead_uncorrectable h true hd ▸ ⟨rfl, rfl⟩

/-- Settles O29: without ECC a read is counted and nothing more, and no scrub read takes place. -/
theorem eccOffNeverReportsAnError : Obligations.EccOffNeverReportsAnError := by
  intro s h
  refine ⟨fun a => ?_, fun n => ?_⟩
  · rw [dramRead_off h]
    have hparts : Only [.regs, .hi, .pmu] s (readCounted s a) :=
      (Only.mono (event_only _ _ _ _) (by simp)).trans (Only.mono (bwCount_only _ _ _) (by simp))
    exact ⟨rfl, rfl, hparts .mcs rfl, hparts .err rfl, hparts .ecc rfl⟩
  · show clocked s _ = _
    simp [clocked, h]

/-! ### What a read leaves of the controllers (R373 to R376, R378) -/

/-- A controller without its check cache. -/
def Mc.besideCache (m : Mc) : Mc := { m with cache := [], dirty := [] }

/-- A piece of every controller that one controller's update leaves. -/
theorem State.piece_setMc {α : Type} (p : Mc → α) (s : State) (n : Nat) {m : Mc} (h : p m = p (s.mc n)) (k : Nat) :
    p ((s.setMc n m).mc k) = p (s.mc k) := by
  by_cases hk : k = n
  · rw [hk, State.mc_setMc_same, h]
  · rw [State.mc_setMc_other s m hk]

theorem State.mc_of_mcs {s t : State} (h : t.mcs = s.mcs) (k : Nat) : t.mc k = s.mc k :=
  congrArg (SMap.get (fun _ => Mc.reset) · k) h

@[simp] theorem State.mc_drawn (s : State) (k : Nat) : s.drawn.mc k = s.mc k := rfl
@[simp] theorem event_mc (s : State) (c u e k : Nat) : (event s c u e).mc k = s.mc k :=
  State.mc_of_mcs (event_mcs s c u e) k
@[simp] theorem bwCount_mc (s : State) (i d k : Nat) : (bwCount s i d).mc k = s.mc k :=
  State.mc_of_mcs (bwCount_only s i d .mcs rfl) k
@[simp] theorem logOnly_mc (s : State) (f : FaultInfo) (k : Nat) : (logOnly s f).mc k = s.mc k :=
  State.mc_of_mcs (logEntry_mcs s f 0 none none) k

theorem setMc_cache (s : State) (n k : Nat) (cache dirty : List Nat) :
    ((s.setMc n { s.mc n with cache := cache, dirty := dirty }).mc k).besideCache = (s.mc k).besideCache :=
  State.piece_setMc Mc.besideCache s n (m := { s.mc n with cache := cache, dirty := dirty }) rfl k

/-! Look-ups, write-backs and updates of check lines move the check caches only. -/

theorem checkOut_besideCache (s : State) (key k : Nat) :
    ((checkOut s key).mc k).besideCache = (s.mc k).besideCache := by
  unfold checkOut
  dsimp only
  split
  · rw [bwCount_mc, event_mc]
    exact setMc_cache ..
  · rfl

theorem cacheTouch_besideCache (s : State) (ch l k : Nat) :
    ((cacheTouch s ch l).mc k).besideCache = (s.mc k).besideCache := by
  unfold cacheTouch
  dsimp only
  split
  · rfl
  · refine (setMc_cache ..).trans ?_
    split
    · rw [bwCount_mc, event_mc, event_mc]
    · rw [checkOut_besideCache, bwCount_mc, event_mc, event_mc]

theorem cacheWrite_besideCache (s : State) (ch l k : Nat) :
    ((cacheWrite s ch l).mc k).besideCache = (s.mc k).besideCache := by
  unfold cacheWrite
  dsimp only
  split
  · exact cacheTouch_besideCache s ch l k
  · exact (setMc_cache ..).trans (cacheTouch_besideCache s ch l k)

theorem readChecked_besideCache (s : State) (a k : Nat) :
    ((readChecked s a).mc k).besideCache = (s.mc k).besideCache := by
  rw [readChecked, cacheTouch_besideCache, readCounted, bwCount_mc, event_mc]

theorem readCounted_mc (s : State) (a k : Nat) : (readCounted s a).mc k = s.mc k := by
  rw [readCounted, bwCount_mc, event_mc]

theorem noteUncorrectable_mc (s : State) (ch a kind k : Nat) : (noteUncorrectable s ch a kind).mc k = s.mc k :=
  logOnly_mc ..

/-- A read that does not count its correctable error leaves every controller but its check cache. -/
theorem dramRead_besideCache (s : State) (a k : Nat) :
    ((dramRead s a false).2.2.mc k).besideCache = (s.mc k).besideCache := by
  obtain h | h | ⟨hcount, -⟩ | h := dramRead_state s a false
  · rw [h, readCounted_mc]
  · rw [h, readChecked_besideCache]
  · exact absurd hcount Bool.false_ne_true
  · rw [h, noteUncorrectable_mc, readChecked_besideCache]

theorem noteCorrected_scrubPos (s : State) (ch a k : Nat) (inCheck : Bool) :
    ((noteCorrected s ch a inCheck).mc k).scrubPos = (s.mc k).scrubPos := by
  have hlog (c : Prop) [Decidable c] (u : State) (f : FaultInfo) : (if c then logOnly u f else u).mc k = u.mc k := by
    split
    · exact logOnly_mc u f k
    · rfl
  unfold noteCorrected
  dsimp only
  rw [hlog]
  refine (State.piece_setMc Mc.scrubPos _ _ ?_ k).trans ?_
  · rfl
  · rfl

/-- No read moves the counter of the patrol scrub. -/
theorem dramRead_scrubPos (s : State) (a k : Nat) (count : Bool) :
    ((dramRead s a count).2.2.mc k).scrubPos = (s.mc k).scrubPos := by
  have hchecked : ((readChecked s a).mc k).scrubPos = (s.mc k).scrubPos :=
    (congrArg Mc.scrubPos (readChecked_besideCache s a k) :)
  obtain h | h | ⟨-, _, h⟩ | h := dramRead_state s a count
  · rw [h, readCounted_mc]
  · rw [h, hchecked]
  · rw [h, noteCorrected_scrubPos, hchecked]
  · rw [h, noteUncorrectable_mc, hchecked]

theorem checkOut_rd {o : Nat} (ho : o < 0xA0000 ∨ 0xA0010 ≤ o ∧ o < 0xA0200 ∨ 0xB0000 ≤ o) (s : State) (key : Nat) :
    (checkOut s key).rd o = s.rd o := by
  unfold checkOut
  dsimp only
  split
  · rw [bwCount_rd, event_rd_outside ho, State.rd_setMc]
  · rfl

section Registers

variable {o : Nat} (ho : o < 0x60000 ∨ 0xA0010 ≤ o ∧ o < 0xA0200)
include ho

theorem cacheTouch_rd (s : State) (ch l : Nat) : (cacheTouch s ch l).rd o = s.rd o := by
  have hevent (u : State) (c n e : Nat) : (event u c n e).rd o = u.rd o := event_rd_outside (by omega) u c n e
  unfold cacheTouch
  dsimp only
  split
  · rfl
  · rw [State.rd_drawn, State.rd_setMc]
    split
    · rw [bwCount_rd, hevent, hevent]
    · rw [checkOut_rd (by omega), bwCount_rd, hevent, hevent]

theorem noteError_rd (s : State) (ch a kind : Nat) : (noteError s ch a kind).rd o = s.rd o :=
  State.rd_wr_other _ _ (by unfold rMcErrAddr; omega)

theorem logOnly_rd (s : State) (f : FaultInfo) : (logOnly s f).rd o = s.rd o :=
  logEntry_rd s f 0 none none (by unfold rErrHead; omega) (by unfold rErrStatus; omega)

theorem noteCorrected_rd (s : State) (ch a : Nat) (inCheck : Bool) :
    (noteCorrected s ch a inCheck).rd o = s.rd o := by
  have hlog (c : Prop) [Decidable c] (u : State) (f : FaultInfo) : (if c then logOnly u f else u).rd o = u.rd o := by
    split
    · exact logOnly_rd ho u f
    · rfl
  have hch (n c : Nat) : o ≠ rMcErrCh n c := by unfold rMcErrCh; omega
  unfold noteCorrected
  dsimp only
  rw [hlog, State.rd_setMc, State.rd_setBit_other _ _ _ (hch _ _), State.rd_addSat_other _ _ _ _ (hch _ _),
    noteError_rd ho]

theorem noteUncorrectable_rd (s : State) (ch a kind : Nat) : (noteUncorrectable s ch a kind).rd o = s.rd o := by
  have hch (n c : Nat) : o ≠ rMcErrCh n c := by unfold rMcErrCh; omega
  unfold noteUncorrectable
  dsimp only
  rw [logOnly_rd ho, State.rd_setBit_other _ _ _ (hch _ _), State.rd_addSat_other _ _ _ _ (hch _ _), noteError_rd ho]

/-- A read leaves the registers of the blocks below the error log, and those of the PMU that do not count. -/
theorem dramRead_rd (s : State) (a : Nat) (count : Bool) : (dramRead s a count).2.2.rd o = s.rd o := by
  have hcounted : (readCounted s a).rd o = s.rd o :=
    (bwCount_rd ..).trans (event_rd_outside (by omega) ..)
  have hchecked : (readChecked s a).rd o = s.rd o := (cacheTouch_rd ho ..).trans hcounted
  obtain h | h | ⟨-, _, h⟩ | h := dramRead_state s a count
  · rw [h, hcounted]
  · rw [h, hchecked]
  · rw [h, noteCorrected_rd ho, hchecked]
  · rw [h, noteUncorrectable_rd ho, hchecked]

end Registers

/-! ### Write-back of a corrected line (R374 to R376) -/

/-- What `CE_WRITEBACK` stores of a line that it has read. -/
def writtenBack (s : State) (ch a : Nat) (l : Line) (ue : Bool) : State :=
  if ue then noteError (s.putLine a l poison) ch a 2 else s.putLine a l 0

section WrittenBack

variable (s : State) (ch a : Nat) (l : Line) (ue : Bool)

theorem writtenBack_mem : (writtenBack s ch a l ue).mem = s.mem.setLine (a / 64 * 64) l := by
  cases ue <;> rfl
theorem writtenBack_delta : (writtenBack s ch a l ue).delta a = if ue then poison else 0 := by
  cases ue
  · exact delta_putLine s a l 0
  · exact delta_putLine s a l poison
@[simp] theorem writtenBack_mcs : (writtenBack s ch a l ue).mcs = s.mcs := by
  cases ue <;> rfl
@[simp] theorem hideDram_writtenBack : (writtenBack s ch a l ue).hideDram = s.hideDram := by
  cases ue <;> rfl

end WrittenBack

/-- The oldest line has left the queue of controller n. -/
def ceTaken (s : State) (n : Nat) (rest : List (Nat × Nat)) : State := s.setMc n { s.mc n with wbq := rest }

/-- The read of a write-back. -/
def ceRead (s : State) (n line : Nat) (rest : List (Nat × Nat)) : Line × Bool × State :=
  dramRead (ceTaken s n rest) (line * 64) false

theorem ceRead_decodes (s : State) (n line : Nat) (rest : List (Nat × Nat)) {r : EccResult} (hon : s.eccOn = true)
    (hd : decodeLine (s.mem.line (64 * line)) (s.delta (64 * line)) = r) :
    (∀ l, r = .corrected l → (ceRead s n line rest).1 = l ∧ (ceRead s n line rest).2.1 = false)
      ∧ (r = .uncorrectable → (ceRead s n line rest).2.1 = true) := by
  have hread : decodeLine ((ceTaken s n rest).mem.line (line * 64 / 64 * 64))
      ((ceTaken s n rest).delta (line * 64)) = r := by
    rw [Nat.mul_div_cancel _ (by decide), Nat.mul_comm line 64]
    exact hd
  refine ⟨fun l hl => ?_, fun hu => ?_⟩
  · rw [ceRead, dramRead_corrected (s := ceTaken s n rest) hon false (hread.trans hl)]
    exact ⟨rfl, rfl⟩
  · rw [ceRead, dramRead_uncorrectable (s := ceTaken s n rest) hon false (hread.trans hu)]

/-- The state in which the oldest line queued for write-back of controller n has left the queue, been read and
stored. -/
def ceDone (s : State) (n c line : Nat) (rest : List (Nat × Nat)) : State :=
  let r := ceRead s n line rest
  let ch := 4 * n + c
  let v := event (cacheWrite r.2.2 ch (chanOf (ceTaken s n rest) (line * 64)).2) 5 ch 4
  bwCount (event (writtenBack v ch (line * 64) r.1 r.2.1) 5 ch 2) ch 1

theorem exec_ceWriteback {s : State} {n : Fin 8} {c line : Nat} {rest : List (Nat × Nat)} (hclk : s.clocksRun = true)
    (hq : (s.mc n.val).wbq = (c, line) :: rest) : exec (.ceWriteback n) s = .next (ceDone s n.val c line rest) := by
  refine (clocked_run hclk _).trans ?_
  simp only [hq]
  rfl

section CeDone

variable (s : State) (n c line : Nat) (rest : List (Nat × Nat))

theorem ceDone_mem : (ceDone s n c line rest).mem
    = s.mem.setLine (line * 64) (ceRead s n line rest).1 := by
  have hread : (ceRead s n line rest).2.2.mem = _ := dramRead_mem _ _ _
  rw [ceDone, (bwCount_keep _ _ _).2, event_mem, writtenBack_mem, event_mem, (cacheWrite_keep _ _ _).2, hread,
    ceTaken, State.setMc_mem, Nat.mul_div_cancel _ (by decide)]

theorem ceDone_delta : (ceDone s n c line rest).delta (line * 64)
    = if (ceRead s n line rest).2.1 then poison else 0 := by
  rw [ceDone, State.delta, bwCount_ecc, event_ecc]
  exact writtenBack_delta ..

theorem ceDone_wbq : ((ceDone s n c line rest).mc n).wbq = rest := by
  have hread := dramRead_besideCache (ceTaken s n rest) (line * 64) n
  rw [ceTaken, State.mc_setMc_same] at hread
  rw [ceDone, bwCount_mc, event_mc, State.mc_of_mcs (writtenBack_mcs ..), event_mc]
  exact (congrArg Mc.wbq ((cacheWrite_besideCache ..).trans hread) :)

theorem ceDone_only : Only dramParts s (ceDone s n c line rest) := by
  have hread : (ceRead s n line rest).2.2.hideDram = _ := hideDram_dramRead _ _ _
  exact hideDram_only (by simp [ceDone, hread, ceTaken])

end CeDone

/-! ### Scrub and refresh (R378, R379) -/

theorem scrubAdvance_within {s : State} {n : Nat} (h : (s.mc n).scrubPos + 1 < channelBytes s / 64 * 4) :
    scrubAdvance s n = s.setMc n { s.mc n with scrubPos := (s.mc n).scrubPos + 1 } := if_pos h

/-- The state in which controller n has read the next line of its pass: a check line, or one of the lines that it
covers. -/
def scrubRead (s : State) (n : Nat) : State :=
  let per := Nat.max 1 (channelBytes s / 64)
  let ch := 4 * n + (s.mc n).scrubPos / per
  let pl := (s.mc n).scrubPos % per
  if pl % 32 = 31 then bwCount (event s 5 ch 1) ch 0
  else (dramRead s (addrOfLocal s ch ((pl / 32 * 31 + pl % 32) * 64))).2.2

theorem scrubRead_frame (s : State) (n : Nat) :
    ((scrubRead s n).mc n).scrubPos = (s.mc n).scrubPos ∧ (scrubRead s n).rd rCapMem = s.rd rCapMem
      ∧ Only [.mcs, .regs, .hi, .err, .pmu, .freeCtr] s (scrubRead s n) := by
  unfold scrubRead
  dsimp only
  split
  · refine ⟨by rw [bwCount_mc, event_mc], by rw [bwCount_rd, event_rd_outside (by decide)], ?_⟩
    exact (Only.mono (event_only _ _ _ _) (by simp)).trans (Only.mono (bwCount_only _ _ _) (by simp))
  · exact ⟨dramRead_scrubPos .., dramRead_rd (by decide) .., dramRead_only _ _ _⟩

theorem exec_patrolScrubRead {s : State} {n : Fin 8} (hclk : s.clocksRun = true) (hon : s.eccOn = true)
    (hen : s.bit (rMcScrub n.val) 31 = true) (htrained : s.bit (rMcStatus n.val) 31 = true)
    (hrefresh : s.bit (rMcStatus n.val) 30 = false) :
    exec (.patrolScrubRead n) s = .next (scrubAdvance (scrubRead s n.val) n.val) := by
  refine (clocked_run hclk _).trans ?_
  rw [if_pos (by simp [hon, hen, htrained, hrefresh])]
  rfl

/-- The rate bit of a channel as `REFRESH` sets it. -/
def rateBits (m : BitVec 4) (ch : Nat) (hot : Bool) : BitVec 4 :=
  if hot then m ||| (1 : BitVec 4) <<< ch else m &&& ~~~((1 : BitVec 4) <<< ch)

theorem bitAt_rateBits (m : BitVec 4) (ch : Fin 4) (hot : Bool) : bitAt (rateBits m ch.val hot) ch.val = hot := by
  have hch := ch.isLt
  cases hot <;> simp [bitAt, rateBits, hch]

theorem exec_refresh {s : State} {n : Fin 8} (hclk : s.clocksRun = true) (htrained : s.bit (rMcStatus n.val) 31 = true)
    (hrefresh : s.bit (rMcStatus n.val) 30 = false) (ch : Fin 4) (bank : Fin 16) (hot : Bool) :
    let h := rateBits (s.mc n.val).hot ch.val hot
    exec (.refresh n ch bank hot) s = .next (event ((s.setMc n.val { s.mc n.val with hot := h }).setBit
      (rMcStatus n.val) 28 (h != 0)) 5 (4 * n.val + ch.val) 5) := by
  refine (clocked_run hclk _).trans ?_
  rw [if_pos (by simp [htrained, hrefresh])]
  rfl

theorem only_mcs (s : State) (m : SMap Mc) : Only [.mcs] s { s with mcs := m } := by
  intro q hq
  cases q <;> simp_all [Part.same]

/-- Settles O25: the write-back by the line that its read returns, the scrub read by the frame of a read, the refresh
by the one bit that it writes. -/
theorem memoryControllerCommandsComplete : Obligations.MemoryControllerCommandsComplete := by
  intro s n hclk
  refine ⟨?writeback, ?scrub, ?refresh⟩
  case writeback =>
    intro c line rest hq hon
    refine ⟨_, exec_ceWriteback hclk hq, ceDone_wbq .., fun l hd => ?_, fun hd => ?_, fun b hb => ?_,
      ceDone_only s n.val c line rest⟩
    · obtain ⟨hline, hclean⟩ := (ceRead_decodes s n.val line rest hon hd).1 l rfl
      rw [Nat.mul_comm 64 line, ceDone_mem, ceDone_delta, Memory.line_setLine, hline, hclean]
      exact ⟨rfl, rfl⟩
    · rw [Nat.mul_comm 64 line, ceDone_delta, (ceRead_decodes s n.val line rest hon hd).2 rfl]
      rfl
    · rw [ceDone_mem]
      exact Memory.byte_setLine_other _ _ _ _ (by omega)
  case scrub =>
    intro hon hen htrained hrefresh hwithin
    obtain ⟨hpos, hcap, honly⟩ := scrubRead_frame s n.val
    have hadvance := scrubAdvance_within (s := scrubRead s n.val) (n := n.val) (by
      rw [hpos, channelBytes, State.fld, hcap]
      exact hwithin)
    refine ⟨_, (exec_patrolScrubRead hclk hon hen htrained hrefresh).trans (congrArg _ hadvance), ?_, honly .ecc rfl,
      honly.trans (Only.mono (only_mcs _ _) (by simp))⟩
    rw [State.mc_setMc_same, hpos]
  case refresh =>
    intro ch bank hot htrained hrefresh
    refine ⟨_, exec_refresh hclk htrained hrefresh ch bank hot, ?_, ?_, ?_⟩
    · rw [event_mc]
      change bitAt ((State.setMc s n.val _).mc n.val).hot ch.val = hot
      rw [State.mc_setMc_same]
      exact bitAt_rateBits ..
    · rw [event_mc]
      change ((State.setMc s n.val _).mc n.val).wbq = _
      rw [State.mc_setMc_same]
    · exact (Only.mono (only_mcs _ _) (by simp)).trans
        ((Only.mono (only_setBit _ _ _ _) (by simp)).trans (Only.mono (event_only _ _ _ _) (by simp)))

end Sys2Proof.Machine
end

section
/-! What a device-scoped fault leaves, and frames of updates of registers (R481, R492). -/

namespace Sys2Proof.Machine

/-! ### Frames of registers -/

theorem OnlyRegs.refl (l : List Nat) (s : State) : OnlyRegs l s s := fun _ _ => rfl

theorem OnlyRegs.mono {l l' : List Nat} {s t : State} (h : OnlyRegs l s t) (hl : l ⊆ l') : OnlyRegs l' s t := by
  intro o ho
  refine h o ?_
  simp only [List.contains_eq_mem, decide_eq_false_iff_not] at ho ⊢
  exact fun hm => ho (hl hm)

/-- A register outside the list reads as it did, and with it its fields and bits. -/
theorem OnlyRegs.rd {l : List Nat} {s t : State} (h : OnlyRegs l s t) {o : Nat} (ho : o ∉ l) : t.rd o = s.rd o :=
  h o (by simpa using ho)
theorem OnlyRegs.fld {l : List Nat} {s t : State} (h : OnlyRegs l s t) {o : Nat} (ho : o ∉ l) (lo n : Nat) :
    t.fld o lo n = s.fld o lo n := congrArg (bits · lo n) (h.rd ho)
theorem OnlyRegs.bit {l : List Nat} {s t : State} (h : OnlyRegs l s t) {o : Nat} (ho : o ∉ l) (i : Nat) :
    t.bit o i = s.bit o i := congrArg (bitAt · i) (h.rd ho)

theorem onlyRegs_setBit {l : List Nat} (s : State) {o : Nat} (i : Nat) (b : Bool) (h : o ∈ l) :
    OnlyRegs l s (s.setBit o i b) := onlyRegs_wr s _ h
theorem onlyRegs_addSat {l : List Nat} (s : State) {o : Nat} (lo n x : Nat) (h : o ∈ l) :
    OnlyRegs l s (s.addSat o lo n x) := onlyRegs_wr s _ h
theorem onlyRegs_addWrap {l : List Nat} (s : State) {o : Nat} (lo n : Nat) (h : o ∈ l) :
    OnlyRegs l s (s.addWrap o lo n) := onlyRegs_wr s _ h

theorem only_addSat (s : State) (o lo n x : Nat) : Only [.regs] s (s.addSat o lo n x) := only_wr s o _
theorem only_addWrap (s : State) (o lo n : Nat) : Only [.regs] s (s.addWrap o lo n) := only_wr s o _

/-- Registers and other parts change, one after the other, within the same parts. -/
theorem Only.then_wr {l : List Part} {s t : State} (h : Only l s t) (o : Nat) (v : W64) (hl : .regs ∈ l) :
    Only l s (t.wr o v) := h.trans ((only_wr t o v).mono (by simpa using hl))

/-! ### The log and a device-scoped fault (R481, R492) -/

/-- The log and its head decide what stands logged. -/
theorem Logged.congr {s t u : State} {f : FaultInfo} {c : Nat} {k p : Option Nat} (h : Logged s t f c k p)
    (herr : u.err = t.err) (hhead : u.fld rErrHead 0 32 = t.fld rErrHead 0 32) : Logged s u f c k p := by
  obtain ⟨h0, h1, h2, h3, h4⟩ := h
  exact ⟨herr ▸ h0, herr ▸ h1, herr ▸ h2, herr ▸ h3, hhead.trans h4⟩

theorem devFault_first {s : State} (h : s.bit rErrStatus 31 = false) (f : FaultInfo) : devFault s f
    = ((logEntry s f 3 none none).setBit rErrStatus 31 true).setFld rErrStatus 16 8 f.status.toNat := by
  have hbit : (logEntry s f 3 none none).bit rErrStatus 31 = false :=
    (logEntry_bit s f 3 none none rErrStatus 31 (by decide) (by decide)).trans h
  simp [devFault, hbit]

theorem devFault_later {s : State} (h : s.bit rErrStatus 31 = true) (f : FaultInfo) :
    devFault s f = logEntry s f 3 none none := by
  have hbit : (logEntry s f 3 none none).bit rErrStatus 31 = true :=
    (logEntry_bit s f 3 none none rErrStatus 31 (by decide) (by decide)).trans h
  simp [devFault, hbit]

/-- The entry of a device-scoped fault, seen from any state with the same head and time. -/
theorem devFault_logged (s u : State) (f : FaultInfo) (hd : u.fld rErrHead 0 32 = s.fld rErrHead 0 32)
    (ht : u.dt = s.dt) : Logged s (devFault u f) f 3 none none := by
  have hlog := logEntry_logged s u f 3 none none hd ht
  cases h : u.bit rErrStatus 31 with
  | true => rwa [devFault_later h]
  | false =>
    rw [devFault_first h]
    refine hlog.congr (by rw [State.setFld_err, State.setBit_err]) ?_
    rw [State.fld_setFld_other _ _ _ _ _ _ _ _ (.inl (by decide)), State.fld_setBit_other _ _ _ _ _ _ _ (.inl (by decide))]

theorem devFault_only (s : State) (f : FaultInfo) : Only logParts s (devFault s f) := by
  cases h : s.bit rErrStatus 31 with
  | true => exact devFault_later h f ▸ logEntry_only s f 3 none none
  | false =>
    rw [devFault_first h]
    exact ((logEntry_only s f 3 none none).then_wr _ _ (by simp [logParts])).then_wr _ _ (by simp [logParts])

/-- `DEVFAULT` stands after a device-scoped fault, with the code of the first (R481). -/
theorem devFault_status (s : State) (f : FaultInfo) : (devFault s f).bit rErrStatus 31 = true
    ∧ (s.bit rErrStatus 31 = false → (devFault s f).fld rErrStatus 16 8 = f.status.toNat)
    ∧ (s.bit rErrStatus 31 = true → (devFault s f).fld rErrStatus 16 8 = s.fld rErrStatus 16 8) := by
  cases h : s.bit rErrStatus 31 with
  | true =>
    rw [devFault_later h]
    exact ⟨(logEntry_bit _ _ _ _ _ _ _ (by decide) (by decide)).trans h, nofun,
      fun _ => logEntry_fld _ _ _ _ _ _ _ _ (by decide) (by decide)⟩
  | false =>
    rw [devFault_first h]
    refine ⟨?_, fun _ => ?_, nofun⟩
    · rw [State.bit_setFld_other _ _ _ _ _ _ _ (by decide) (by decide), State.bit_setBit_same _ _ _ _ (by decide)]
    · rw [State.fld_setFld_same _ _ _ _ _ (by decide)]
      exact Nat.mod_eq_of_lt f.status.isLt

/-- Every register but those of the log reads as it did. -/
theorem devFault_rd (s : State) (f : FaultInfo) {o : Nat} (h : o ≠ rErrHead) (h' : o ≠ rErrStatus) :
    (devFault s f).rd o = s.rd o := by
  have hlog := logEntry_rd s f 3 none none h h'
  cases hbit : s.bit rErrStatus 31 with
  | true => rwa [devFault_later hbit]
  | false => rwa [devFault_first hbit, State.rd_setFld_other _ _ _ _ h', State.rd_setBit_other _ _ _ h']

end Sys2Proof.Machine
end

section
/-! Attestation, the random source, OTP programming, debug levels and faults of the key engine (R531 to R540). -/

namespace Sys2Proof.Machine

/-! ### Registers written whole, and a field or a bit of one -/

theorem State.fld_wr_same (s : State) (o : Nat) (v : W64) (lo n : Nat) : (s.wr o v).fld o lo n = bits v lo n := by
  rw [State.fld_wr, if_pos rfl]
theorem State.bit_wr_same (s : State) (o : Nat) (v : W64) (i : Nat) : (s.wr o v).bit o i = bitAt v i := by
  rw [State.bit_wr, if_pos rfl]

theorem setBit_frame (s : State) (o : Nat) {i : Nat} (b : Bool) (hi : i < 64) : (s.setBit o i b).bit o i = b
    ∧ OnlyRegs [o] s (s.setBit o i b) ∧ Only [.regs] s (s.setBit o i b) :=
  ⟨State.bit_setBit_same s o i b hi, onlyRegs_setBit s i b (by simp), only_setBit s o i b⟩

theorem setFld_frame (s : State) (o : Nat) {lo n : Nat} (x : Nat) (h : lo + n ≤ 64) :
    (s.setFld o lo n x).fld o lo n = x % 2 ^ n ∧ OnlyRegs [o] s (s.setFld o lo n x)
      ∧ Only [.regs] s (s.setFld o lo n x) :=
  ⟨State.fld_setFld_same s o lo n x h, onlyRegs_setFld s lo n x (by simp), only_setFld s o lo n x⟩

/-! ### Attestation and the random source (R534, R535) -/

theorem only_sec (s : State) (x : Sec) : Only [.sec] s { s with sec := x } := by
  intro q hq
  cases q <;> simp_all [Part.same]

/-- An attestation that is refused or done shows its outcome in `SEC_ATTEST`. -/
theorem exec_attestDone_refused {s : State} (hclk : s.clocksRun = true) (hbusy : s.bit rSecAttest 30 = true)
    (hno : s.bit rSecStatus 27 = true ∨ s.bit rSecStatus 30 = true) :
    exec .attestDone s = .next (s.wr rSecAttest (BitVec.ofNat 64 (stSecViolation <<< 16))) := by
  refine (clocked_run hclk _).trans ?_
  rw [if_pos hbusy, if_pos (by simpa using hno)]

/-- The attestation window once a report has been signed. -/
def reportWindow (s : State) : SMap Byte :=
  let b := reportBody s
  attPut (attPut (attPut [] 0x8000 (otpBytes s 0x3000 7299)) 0xA000 s.sec.fakCert) 0xC000
    (b ++ Config.dsaSign s.freeCtr s.sec.fakSeed (Config.sha3 b))

theorem exec_attestDone_signed {s : State} (hclk : s.clocksRun = true) (hbusy : s.bit rSecAttest 30 = true)
    (hopen : s.bit rSecStatus 27 = false) (hrng : s.bit rSecStatus 30 = false) :
    exec .attestDone s = .next (({ s.drawn with sec := { s.sec with att := reportWindow s } } : State).wr rSecAttest
      (BitVec.ofNat 64 (1 <<< 29))) := by
  refine (clocked_run hclk _).trans ?_
  rw [if_pos hbusy, if_neg (by simp [hopen, hrng])]
  rfl

theorem exec_rngRead {s : State} (hclk : s.clocksRun = true) :
    exec .rngRead s = .next (respond (rngValue s).2 .u0 true (leBytes (rngValue s).1 8)) := clocked_run hclk _

/-! ### OTP programming (R529, R531) -/

/-- Programming bytes only adds bits to each (R529). -/
theorem otpByte_otpOr (s : State) (a : Nat) (bs : List Byte) (b : Nat) :
    ∃ y, otpByte (otpOr s a bs) b = otpByte s b ||| y := by
  refine List.foldlRecOn (motive := fun m => ∃ y, SMap.get (fun _ => (0 : Byte)) m b = otpByte s b ||| y)
    (List.range bs.length) _ ⟨0, (BitVec.or_zero).symm⟩ fun m ⟨y, hy⟩ i _ => ?_
  by_cases hb : b = a + i
  · subst hb
    exact ⟨y ||| bs.getD i 0, by rw [SMap.get_set_same, hy, BitVec.or_assoc]⟩
  · exact ⟨y, by rw [SMap.get_set_other _ _ hb, hy]⟩

theorem otpNat_byte (s : State) (a : Nat) : otpNat s a 1 = (otpByte s a).toNat := by
  simp [otpNat, otpBytes, leNat]

/-- Programmed bits stay (R529). -/
theorem otpNat_otpOr (s : State) (a : Nat) (bs : List Byte) (b : Nat) :
    otpNat s b 1 &&& otpNat (otpOr s a bs) b 1 = otpNat s b 1 := by
  obtain ⟨y, hy⟩ := otpByte_otpOr s a bs b
  have habsorb (x : Byte) : x &&& (x ||| y) = x := by
    refine BitVec.eq_of_getLsbD_eq fun i _ => ?_
    cases h : x.getLsbD i <;> simp [h]
  rw [otpNat_byte, otpNat_byte, hy, ← BitVec.toNat_and, habsorb]

/-- The OTP after an accepted write of `SEC_PROV_CTRL.GO`: programmed where power is good (R507, R531). -/
def otpWritten (s : State) : State :=
  if powerGood s then otpOr s (s.fld rSecProvAddr 3 13 * 8) (leBytes (s.rd rSecProvData).toNat 8) else s

theorem exec_otpProgram {s : State} (hclk : s.clocksRun = true) (path : Path) : exec (.otpProgram path) s = .next
    (if otpAllowed s path (s.fld rSecProvAddr 3 13 * 8) then
      ((otpWritten s).setFld rSecProvCtrl 16 8 0).setFld rDbgStatus 28 2 (debugCap (otpWritten s))
    else s.setFld rSecProvCtrl 16 8 stSecViolation) := clocked_run hclk _

theorem otpWritten_only (s : State) : Only [.regs, .sec] s (otpWritten s) := by
  unfold otpWritten
  split
  · exact (only_sec s _).mono (by simp)
  · exact Only.refl _ s

/-! ### Debug levels (R537 to R540) -/

/-- A fresh challenge of eight random words. -/
def challenged (s : State) : State :=
  ((List.range 8).foldl (fun (t : State) i => t.wr (rDbgChal i) (Config.random s.freeCtr (i + 1))) s).drawn.setBit
    rDbgStatus 27 true

theorem exec_debugChallenge {s : State} (hclk : s.clocksRun = true) : exec .debugChallenge s
    = .next (if 16 ≤ s.fld rDbgStatus 0 5 || s.bit rSecStatus 30 then s else challenged s) := clocked_run hclk _

theorem challenged_frame (s : State) : (challenged s).bit rDbgStatus 27 = true
    ∧ (challenged s).freeCtr = s.freeCtr + 1 ∧ Only [.regs, .freeCtr] s (challenged s) := by
  have hwords : Only [.regs] s ((List.range 8).foldl
      (fun (t : State) i => t.wr (rDbgChal i) (Config.random s.freeCtr (i + 1))) s) :=
    foldl_only _ (fun t i => only_wr t _ _) _ _
  refine ⟨State.bit_setBit_same _ _ _ _ (by decide), congrArg (· + 1) (hwords .freeCtr rfl), ?_⟩
  exact (hwords.mono (by simp)).trans ((only_drawn _ (by simp)).trans ((only_setBit _ _ _ _).mono (by simp)))

/-- A refused token: counted up to sixteen, and the challenge consumed (R537). -/
def tokenRefused (s : State) : State :=
  let u := (s.setBit rDbgStatus 27 false).setFld rDbgStatus 16 8 stSecViolation
  u.setFld rDbgStatus 0 5 (Nat.min 16 (u.fld rDbgStatus 0 5 + 1))

theorem exec_debugSubmit_unchallenged {s : State} (hclk : s.clocksRun = true) (level : BitVec 2)
    (h : s.bit rDbgStatus 27 = false) : exec (.debugSubmit level) s
      = .next (logOnly (tokenRefused (s.setFld rDbgCtrl 0 2 level.toNat)) (mkFault stSecViolation 0xE 0)) := by
  have hbit : (s.setFld rDbgCtrl 0 2 level.toNat).bit rDbgStatus 27 = false := by
    rw [State.bit_setFld_other _ _ _ _ _ _ _ (by decide) (.inl (by decide)), h]
  refine (clocked_run hclk _).trans ?_
  simp [debugSubmit, tokenOk, hbit, tokenRefused]

theorem tokenRefused_frame (s : State) : (tokenRefused s).fld rDbgStatus 30 2 = s.fld rDbgStatus 30 2
    ∧ (tokenRefused s).fld rDbgStatus 16 8 = stSecViolation
    ∧ (tokenRefused s).fld rDbgStatus 0 5 = Nat.min 16 (s.fld rDbgStatus 0 5 + 1)
    ∧ OnlyRegs [rDbgStatus] s (tokenRefused s) ∧ Only [.regs] s (tokenRefused s) := by
  have hcount : ((s.setBit rDbgStatus 27 false).setFld rDbgStatus 16 8 stSecViolation).fld rDbgStatus 0 5
      = s.fld rDbgStatus 0 5 := by
    rw [State.fld_setFld_other _ _ _ _ _ _ _ _ (by decide), State.fld_setBit_other _ _ _ _ _ _ _ (by decide)]
  unfold tokenRefused
  dsimp only
  refine ⟨?_, ?_, ?_, ?_, ?_⟩
  · rw [State.fld_setFld_other _ _ _ _ _ _ _ _ (by decide), State.fld_setFld_other _ _ _ _ _ _ _ _ (by decide),
      State.fld_setBit_other _ _ _ _ _ _ _ (by decide)]
  · rw [State.fld_setFld_other _ _ _ _ _ _ _ _ (by decide), State.fld_setFld_same _ _ _ _ _ (by decide)]
    rfl
  · rw [State.fld_setFld_same _ _ _ _ _ (by decide), hcount]
    exact Nat.mod_eq_of_lt (Nat.lt_of_le_of_lt (Nat.min_le_left ..) (by decide))
  · exact ((onlyRegs_setBit s _ _ (by simp)).trans (onlyRegs_setFld _ _ _ _ (by simp))).trans
      (onlyRegs_setFld _ _ _ _ (by simp))
  · exact ((only_setBit s _ _ _).trans (only_setFld _ _ _ _ _)).trans (only_setFld _ _ _ _ _)

theorem dt_of_tb {s t : State} (h : t.tb = s.tb) : t.dt = s.dt := by
  rw [State.dt, State.dt, h]

/-- Settles O56: each command is one write of its register, or one entry of the log after it. That a token is
refused without a challenge, and that a failed source refuses with SEC_VIOLATION, is the model's choice (log 143). -/
theorem securityCommandsComplete : Obligations.SecurityCommandsComplete := by
  intro s hclk
  refine ⟨?go, ?goBusy, ?done, ?rngFailed, ?rng, ?health, ?otp, ?challenge, ?noChallenge, ?submit, ?close, ?engine⟩
  case go =>
    intro h
    have hgo : attestGo s = s.wr rSecAttest (BitVec.ofNat 64 (1 <<< 30)) := if_neg (by simp [h])
    refine ⟨_, (clocked_run hclk _).trans (congrArg _ hgo), ?_, (wr_frame s _ _).2⟩
    rw [State.bit_wr_same]
    decide
  case goBusy => exact fun h => (clocked_run hclk _).trans (congrArg _ (if_pos h))
  case done =>
    refine fun h => ⟨fun hno => ?_, fun hopen hrng => ?_⟩
    · refine ⟨_, exec_attestDone_refused hclk h hno, ?_, ?_, ?_, (wr_frame s _ _).2⟩
      · rw [State.bit_wr_same]; decide
      · rw [State.bit_wr_same]; decide
      · rw [State.fld_wr_same]; decide
    · refine ⟨_, exec_attestDone_signed hclk h hopen hrng, ?_, ?_, ?_, ?_, ?_⟩
      · rw [State.bit_wr_same]; decide
      · rw [State.bit_wr_same]; decide
      · rw [State.fld_wr_same]; decide
      · exact fun o ho => (State.rd_wr_other _ _ (by simpa using ho)).trans rfl
      · exact ((only_drawn s (by simp)).trans ((only_sec s.drawn _).mono (by simp))).then_wr _ _ (by simp)
  case rngFailed =>
    intro h
    have hv : rngValue s = (0, s) := if_pos h
    exact ⟨_, exec_rngRead hclk, by rw [hv]; rfl, by rw [hv]; exact only_hi s _⟩
  case rng =>
    intro h
    have hv : rngValue s = ((Config.random s.freeCtr 0).toNat, s.drawn) := if_neg (by simp [h])
    exact ⟨_, exec_rngRead hclk, ⟨_, rfl⟩, by rw [hv]; rfl,
      by rw [hv]; exact (only_drawn s (by simp)).trans ((only_hi _ _).mono (by simp))⟩
  case health =>
    refine ⟨_, clocked_run hclk _, ?_, ?_, ?_⟩
    · rw [logOnly, logEntry_bit _ _ _ _ _ _ _ (by decide) (.inl (by decide)), State.bit_setBit_same _ _ _ _ (by decide)]
    · exact logEntry_logged s _ _ _ _ _ (State.fld_setBit_other _ _ _ _ _ _ _ (.inl (by decide))) rfl
    · exact ((only_setBit s _ _ _).mono (by simp [logParts])).trans (logEntry_only _ _ _ _ _)
  case otp =>
    refine fun path => ⟨fun h => ?_, fun h => ?_⟩
    · refine ⟨_, (exec_otpProgram hclk path).trans (congrArg _ (if_neg (by simp [h]))), ?_⟩
      exact setFld_frame s rSecProvCtrl stSecViolation (by decide)
    · refine ⟨_, (exec_otpProgram hclk path).trans (congrArg _ (if_pos h)), ?_, fun a => ?_, fun hgood => ?_, ?_⟩
      · rw [State.fld_setFld_other _ _ _ _ _ _ _ _ (.inl (by decide)), State.fld_setFld_same _ _ _ _ _ (by decide)]
        rfl
      · change otpNat s a 1 &&& otpNat (otpWritten s) a 1 = _
        unfold otpWritten
        split
        · exact otpNat_otpOr ..
        · exact Nat.and_self _
      · rw [State.setFld_sec, State.setFld_sec, otpWritten, if_pos hgood]
      · exact ((otpWritten_only s).then_wr _ _ (by simp)).then_wr _ _ (by simp)
  case challenge =>
    intro hfew hrng
    exact ⟨_, (exec_debugChallenge hclk).trans (congrArg _ (if_neg (by simp [hrng, hfew]))), challenged_frame s⟩
  case noChallenge =>
    exact fun h => (exec_debugChallenge hclk).trans (congrArg _ (if_pos (by simp [h])))
  case submit =>
    intro level h
    let u := s.setFld rDbgCtrl 0 2 level.toNat
    obtain ⟨hlevel, hstatus, hcount, hregs, hparts⟩ := tokenRefused_frame u
    have hfld (lo n : Nat) : u.fld rDbgStatus lo n = s.fld rDbgStatus lo n :=
      (onlyRegs_setFld s (l := [rDbgCtrl]) _ _ _ (by simp)).fld (by decide) lo n
    have hlog (lo n : Nat) : (logOnly (tokenRefused u) (mkFault stSecViolation 0xE 0)).fld rDbgStatus lo n
        = (tokenRefused u).fld rDbgStatus lo n := logEntry_fld _ _ _ _ _ _ _ _ (by decide) (.inl (by decide))
    have hhead : (tokenRefused u).fld rErrHead 0 32 = s.fld rErrHead 0 32 :=
      (hregs.fld (by decide) 0 32).trans (State.fld_setFld_other _ _ _ _ _ _ _ _ (.inl (by decide)))
    refine ⟨_, exec_debugSubmit_unchallenged hclk level h, ?_, ?_, ?_, ?_, ?_⟩
    · rw [hlog, hlevel, hfld]
    · rw [hlog, hstatus]
    · rw [hlog, hcount, hfld]
    · exact logEntry_logged s _ _ _ _ _ hhead (dt_of_tb (hparts .tb rfl))
    · exact (((only_setFld s _ _ _ _).trans hparts).mono (by simp [logParts])).trans (logEntry_only _ _ _ _ _)
  case close => exact ⟨_, clocked_run hclk _, setFld_frame s rDbgStatus 0 (by decide)⟩
  case engine =>
    intro complement
    have hi : (if complement then 29 else 28) < 64 := by split <;> decide
    refine ⟨_, clocked_run hclk _, ?_, (devFault_status _ _).1, ?_, ?_⟩
    · refine (congrArg (bitAt · _) (devFault_rd _ _ (by decide) (by decide))).trans ?_
      exact State.bit_setBit_same _ _ _ _ hi
    · exact devFault_logged s _ _ (State.fld_setBit_other _ _ _ _ _ _ _ (.inl (by decide))) rfl
    · exact ((only_setBit s _ _ _).mono (by simp [logParts])).trans (devFault_only _ _)

end Sys2Proof.Machine
end

section
/-! Slots, cells, captures, stamps and characters of the Rim (R437 to R451). -/

namespace Sys2Proof.Machine

theorem only_rim (s : State) (x : Rim) : Only [.rim] s { s with rim := x } := by
  intro q hq
  cases q <;> simp_all [Part.same]

/-! ### Slots (R446, R448) -/

section Slot

variable (s : State) (slot : Bool) (x : SlotState)

theorem slotState_setSlot : slotState (setSlot s slot x) slot = x := by cases slot <;> rfl
theorem slotState_setSlot_other : slotState (setSlot s slot x) (!slot) = slotState s (!slot) := by cases slot <;> rfl
theorem setSlot_image : (setSlot s slot x).rim.image = s.rim.image := by cases slot <;> rfl
theorem setSlot_only : Only [.rim, .regs] s (setSlot s slot x) :=
  ((only_rim s _).mono (by simp)).trans ((only_setFld _ _ _ _ _).mono (by simp))
/-- Bits and fields of `RIM_STATUS` above the slot states. -/
theorem setSlot_bit {i : Nat} (hi : i < 64) (h : 4 ≤ i) : (setSlot s slot x).bit rRimStatus i = s.bit rRimStatus i := by
  refine (State.bit_setFld_other _ _ _ _ _ _ _ hi (.inr (.inr ?_))).trans rfl
  cases slot
  · exact Nat.le_trans (by decide) h
  · exact h

end Slot

/-- The slot whose image window a write names becomes LOADING and takes the word (R446). -/
theorem rimWindow_takes {s : State} {off : Nat} (hoff : off < 19456) (v : W64)
    (h : slotState s (s.bit rRimCtrl 29) = .empty ∨ slotState s (s.bit rRimCtrl 29) = .loading) :
    let slot := s.bit rRimCtrl 29
    let u := setSlot s slot .loading
    rimWindow s off v = { u with rim := { u.rim with
      image := SMap.set (fun _ => 0) u.rim.image (b2n slot * 2432 + off / 8) v } } := by
  unfold rimWindow
  dsimp only
  rw [if_neg (by omega)]
  obtain h | h := h <;> rw [h]

theorem rimWindow_kept {s : State} {off : Nat} (v : W64) (h : slotState s (s.bit rRimCtrl 29) = .committing
    ∨ slotState s (s.bit rRimCtrl 29) = .committed) : rimWindow s off v = s := by
  unfold rimWindow
  dsimp only
  split
  · rfl
  · obtain h | h := h <;> rw [h]

theorem rimCommitGo_takes {s : State} {slot : Bool} (hidle : s.bit rRimStatus 29 = false)
    (h : slotState s slot = .empty ∨ slotState s slot = .loading) :
    rimCommitGo s slot = (setSlot s slot .committing).setBit rRimStatus 29 true := by
  unfold rimCommitGo
  rw [if_neg (by simp [hidle])]
  obtain h | h := h <;> rw [h]

/-- The state in which a commit of a slot has ended with a result (R446). -/
def commitEnded (s : State) (slot : Bool) (x : SlotState) (result : Nat) : State :=
  (setSlot (s.setBit rRimStatus 29 false) slot x).setFld rRimStatus 16 8 result

/-- A committed image is one whose CRC is the one written and that passes the checks. -/
def commitPasses (s : State) (slot : Bool) : Bool := rimCrc s slot == s.fld rRimCommitCrc 0 32 && rimChecks s slot

/-- The outcome of a commit of a slot. -/
def commitOutcome (s : State) (slot : Bool) : State :=
  if commitPasses s slot then commitEnded s slot .committed 0 else commitEnded s slot .loading stCtxInvalid

theorem commitPasses_setBit (s : State) (slot b : Bool) (i : Nat) :
    (rimCrc (s.setBit rRimStatus i b) slot == (s.setBit rRimStatus i b).fld rRimCommitCrc 0 32
      && rimChecks (s.setBit rRimStatus i b) slot) = commitPasses s slot := by
  have hfld : (s.setBit rRimStatus i b).fld rRimCommitCrc 0 32 = s.fld rRimCommitCrc 0 32 :=
    State.fld_setBit_other _ _ _ _ _ _ _ (.inl (by decide))
  rw [hfld]
  rfl

theorem exec_rimCommitComplete_A {s : State} (hclk : s.clocksRun = true) (hA : s.rim.slotA = .committing) :
    exec .rimCommitComplete s = .next (commitOutcome s false) := by
  refine (clocked_run hclk _).trans ?_
  dsimp only
  rw [hA]
  exact congrArg _ (if_congr (by rw [commitPasses_setBit]) rfl rfl)

theorem exec_rimCommitComplete_B {s : State} (hclk : s.clocksRun = true) (hA : s.rim.slotA ≠ .committing)
    (hB : s.rim.slotB = .committing) : exec .rimCommitComplete s = .next (commitOutcome s true) := by
  refine (clocked_run hclk _).trans ?_
  dsimp only
  rw [hB]
  cases h : s.rim.slotA
  case committing => exact absurd h hA
  all_goals exact congrArg _ (if_congr (by rw [commitPasses_setBit]) rfl rfl)

theorem commitEnded_frame (s : State) (slot : Bool) (x : SlotState) (result : Nat) :
    let t := commitEnded s slot x result
    slotState t slot = x ∧ slotState t (!slot) = slotState s (!slot) ∧ t.fld rRimStatus 16 8 = result % 2 ^ 8
      ∧ t.bit rRimStatus 29 = false ∧ Only [.rim, .regs] s t := by
  refine ⟨slotState_setSlot _ slot x, slotState_setSlot_other _ slot x, ?_, ?_, ?_⟩
  · exact State.fld_setFld_same _ _ _ _ _ (by decide)
  · rw [commitEnded, State.bit_setFld_other _ _ _ _ _ _ _ (by decide) (by decide),
      setSlot_bit _ _ _ (by decide) (by decide), State.bit_setBit_same _ _ _ _ (by decide)]
  · exact ((only_setBit s _ _ _).mono (by simp)).trans
      ((setSlot_only _ slot x).trans ((only_setFld _ _ _ _ _).mono (by simp)))

/-- What the end of a commit shows, by the outcome of its checks. -/
def CommitShown (s t : State) (slot : Bool) : Prop :=
  (if commitPasses s slot then slotState t slot = .committed ∧ t.fld rRimStatus 16 8 = 0
    else slotState t slot = .loading ∧ t.fld rRimStatus 16 8 = stCtxInvalid)
  ∧ t.bit rRimStatus 29 = false ∧ slotState t (!slot) = slotState s (!slot) ∧ Only [.rim, .regs] s t

theorem commitOutcome_frame (s : State) (slot : Bool) : CommitShown s (commitOutcome s slot) slot := by
  unfold commitOutcome CommitShown
  cases commitPasses s slot
  · obtain ⟨hslot, hother, hresult, hbusy, honly⟩ := commitEnded_frame s slot .loading stCtxInvalid
    exact ⟨⟨hslot, hresult⟩, hbusy, hother, honly⟩
  · obtain ⟨hslot, hother, hresult, hbusy, honly⟩ := commitEnded_frame s slot .committed 0
    exact ⟨⟨hslot, hresult⟩, hbusy, hother, honly⟩

theorem commitShown_A {s t : State} (h : CommitShown s t false) :
    (if rimCrc s false == s.fld rRimCommitCrc 0 32 && rimChecks s false then
      t.rim.slotA = .committed ∧ t.fld rRimStatus 16 8 = 0
    else t.rim.slotA = .loading ∧ t.fld rRimStatus 16 8 = stCtxInvalid)
    ∧ t.bit rRimStatus 29 = false ∧ t.rim.slotB = s.rim.slotB ∧ Only [.rim, .regs] s t := h

theorem commitShown_B {s t : State} (h : CommitShown s t true) :
    (if rimCrc s true == s.fld rRimCommitCrc 0 32 && rimChecks s true then
      t.rim.slotB = .committed ∧ t.fld rRimStatus 16 8 = 0
    else t.rim.slotB = .loading ∧ t.fld rRimStatus 16 8 = stCtxInvalid)
    ∧ t.bit rRimStatus 29 = false ∧ t.rim.slotA = s.rim.slotA ∧ Only [.rim, .regs] s t := h

/-- A slot that does not drive the pins. -/
theorem slot_idle {s : State} {slot : Bool} (h : rimActive s = false ∨ rimSel s ≠ slot) :
    (rimActive s && rimSel s == slot) = false := by
  obtain h | h := h <;> simp [h]

/-- A slot emptied: its words are taken from the image (R448). -/
def slotEmptied (s : State) (slot : Bool) : State :=
  (setSlot { s with rim := { s.rim with image := s.rim.image.filter fun e => (decide (e.1 < 2432)) == slot } } slot
    .empty).setFld rRimStatus 16 8 0

theorem rimUnload_empties {s : State} {slot : Bool} (h : rimActive s = false ∨ rimSel s ≠ slot)
    (hc : slotState s slot ≠ .committing) : rimUnload s slot = slotEmptied s slot := by
  unfold rimUnload
  rw [if_neg (by simp [slot_idle h])]
  cases hs : slotState s slot
  case committing => exact absurd hs hc
  all_goals rfl

/-- The pins connected to a slot, or released from it. -/
def pinsTo (s : State) (slot : Bool) : State := ((s.setBit rRimCtrl 31 true).setBit rRimCtrl 30 slot).setBit rRimStatus 31 true
def pinsReleased (s : State) : State := (s.setBit rRimCtrl 31 false).setBit rRimStatus 31 false

theorem pinsTo_frame (s : State) (slot : Bool) : (pinsTo s slot).bit rRimStatus 31 = true
    ∧ (pinsTo s slot).bit rRimCtrl 30 = slot ∧ OnlyRegs [rRimCtrl, rRimStatus] s (pinsTo s slot)
    ∧ Only [.regs] s (pinsTo s slot) := by
  refine ⟨State.bit_setBit_same _ _ _ _ (by decide), ?_, ?_, ?_⟩
  · rw [pinsTo, State.bit_setBit_other _ _ _ _ _ _ (by decide) (.inl (by decide)),
      State.bit_setBit_same _ _ _ _ (by decide)]
  · exact ((onlyRegs_setBit s _ _ (by simp)).trans (onlyRegs_setBit _ _ _ (by simp))).trans
      (onlyRegs_setBit _ _ _ (by simp))
  · exact ((only_setBit s _ _ _).trans (only_setBit _ _ _ _)).trans (only_setBit _ _ _ _)

theorem pinsReleased_frame (s : State) : (pinsReleased s).bit rRimStatus 31 = false
    ∧ (pinsReleased s).bit rRimCtrl 31 = false ∧ OnlyRegs [rRimCtrl, rRimStatus] s (pinsReleased s)
    ∧ Only [.regs] s (pinsReleased s) := by
  refine ⟨State.bit_setBit_same _ _ _ _ (by decide), ?_, ?_, ?_⟩
  · rw [pinsReleased, State.bit_setBit_other _ _ _ _ _ _ (by decide) (.inl (by decide)),
      State.bit_setBit_same _ _ _ _ (by decide)]
  · exact (onlyRegs_setBit s _ _ (by simp)).trans (onlyRegs_setBit _ _ _ (by simp))
  · exact (only_setBit s _ _ _).trans (only_setBit _ _ _ _)

theorem onlyRegs_setRim (rs : List Nat) (s : State) (x : Rim) : OnlyRegs rs s { s with rim := x } := .of_regs _ rfl

/-- A slot selected, with its cells at reset (R448). -/
def slotSelected (s : State) (slot : Bool) : State :=
  { pinsTo s slot with rim := { (pinsTo s slot).rim with cells := [], live := true } }

theorem rimSelect_committed {s : State} {slot : Bool} (h : rimActive s = false ∨ rimSel s ≠ slot)
    (hc : slotState s slot = .committed) : rimSelect s slot = slotSelected s slot := by
  unfold rimSelect
  rw [if_neg (by simp [slot_idle h]), hc]
  rfl

theorem rimSelect_other {s : State} {slot : Bool} (h : rimActive s = false ∨ rimSel s ≠ slot)
    (hc : slotState s slot ≠ .committed) : rimSelect s slot = logOnly s (mkFault stCtxInvalid 0xD 0) := by
  unfold rimSelect
  rw [if_neg (by simp [slot_idle h])]
  cases hs : slotState s slot
  case committed => exact absurd hs hc
  all_goals rfl

theorem slotSelected_frame (s : State) (slot : Bool) : let t := slotSelected s slot
    rimActive t = true ∧ rimSel t = slot ∧ t.rim.live = true ∧ t.rim.cells = []
      ∧ OnlyRegs [rRimCtrl, rRimStatus] s t ∧ Only [.rim, .regs] s t := by
  obtain ⟨hactive, hsel, hregs, honly⟩ := pinsTo_frame s slot
  exact ⟨hactive, hsel, rfl, rfl, hregs.trans (onlyRegs_setRim _ _ _),
    (honly.mono (by simp)).trans ((only_rim _ _).mono (by simp))⟩

theorem rimDeselect_frame (s : State) : let t := rimDeselect s
    rimActive t = false ∧ t.bit rRimCtrl 31 = false ∧ t.rim.cells = [] ∧ t.rim.live = false
      ∧ OnlyRegs [rRimCtrl, rRimStatus] s t ∧ Only [.rim, .regs] s t := by
  obtain ⟨hactive, hctrl, hregs, honly⟩ := pinsReleased_frame s
  exact ⟨hactive, hctrl, rfl, rfl, hregs.trans (onlyRegs_setRim _ _ _),
    (honly.mono (by simp)).trans ((only_rim _ _).mono (by simp))⟩

/-! ### Cells (R437, R438, R441) -/

/-- Cells written one after another, each with a value that was fixed before. -/
theorem rim_cell_foldl (f : Nat → RimCell) (l : List Nat) (s : State) (d : Nat) :
    (l.foldl (fun (t : State) d => { t with rim := t.rim.setCell d (f d) }) s).rim.cell d
      = if d ∈ l then f d else s.rim.cell d := by
  induction l generalizing s with
  | nil => simp
  | cons c r ih =>
    rw [List.foldl_cons, ih]
    by_cases hr : d ∈ r
    · simp [hr]
    · by_cases hd : d = c
      · subst hd
        simp [hr, Rim.cell, Rim.setCell]
      · simp [hr, hd, Rim.cell, Rim.setCell, SMap.get_set_other _ _ hd]

theorem mem_rimClocked (s : State) (c d : Nat) : d ∈ rimClocked s c ↔ d < 64 ∧
    (rimClock (rimCellSet s (rimSel s) d) == rimClock (rimCellSet s (rimSel s) c) && rimEnabled s d) = true := by
  simp [rimClocked]

/-- The levels at an edge stand on the pins and on the outputs of the hard blocks. -/
def rimEdgeSeen (s : State) (pins : BitVec 32) (hard : W64) : State :=
  { s with rim := { s.rim with pinsIn := pins, hardOut := hard } }

/-- The cells that are clocked take the edge. -/
def cellsStepped (s : State) (c : Nat) : State :=
  (rimClocked s c).foldl (fun (t : State) d => { t with rim := t.rim.setCell d (rimNext s d) }) s

/-- The cells of a running configuration whose clock runs take the edge. -/
def rimEdgeRuns (s : State) (c : Nat) : Bool :=
  rimActive s && s.rim.live && bits (rimCellSet s (rimSel s) c) 34 3 != 6

/-- The state after the edge. -/
def edgeTaken (s : State) (c : Nat) : State := if rimEdgeRuns s c then cellsStepped s c else s

theorem exec_rimCellCycle {s : State} (hclk : s.clocksRun = true) (c : Fin 64) (pins : BitVec 32) (hard : W64) :
    exec (.rimCellCycle c pins hard) s = .next (edgeTaken (rimEdgeSeen s pins hard) c.val) := by
  refine (clocked_run hclk _).trans ?_
  unfold edgeTaken
  change (if rimEdgeRuns (rimEdgeSeen s pins hard) c.val then _ else _) = _
  split <;> rfl

/-- A cell takes the edge where the configuration runs, its clock is the one named, and it is enabled. -/
theorem edgeTaken_cell (s : State) (c : Nat) {d : Nat} (hd : d < 64) : (edgeTaken s c).rim.cell d =
    if rimEdgeRuns s c && rimClock (rimCellSet s (rimSel s) d) == rimClock (rimCellSet s (rimSel s) c)
      && rimEnabled s d then rimNext s d else s.rim.cell d := by
  unfold edgeTaken
  cases rimEdgeRuns s c
  · rfl
  · rw [if_pos rfl, cellsStepped, rim_cell_foldl]
    exact if_congr (by simp [mem_rimClocked, hd]) rfl rfl

theorem cellsStepped_frame (s : State) (c : Nat) : (cellsStepped s c).rim.pinsIn = s.rim.pinsIn
    ∧ (cellsStepped s c).rim.hardOut = s.rim.hardOut ∧ Only [.rim] s (cellsStepped s c) := by
  refine ⟨?_, ?_, ?_⟩
  · exact foldl_part (fun t : State => t.rim.pinsIn) _ (fun t d => by rfl) _ _
  · exact foldl_part (fun t : State => t.rim.hardOut) _ (fun t d => by rfl) _ _
  · exact foldl_only _ (fun t _ => only_rim t _) _ _

theorem edgeTaken_frame (s : State) (c : Nat) : (edgeTaken s c).rim.pinsIn = s.rim.pinsIn
    ∧ (edgeTaken s c).rim.hardOut = s.rim.hardOut ∧ Only [.rim] s (edgeTaken s c) := by
  unfold edgeTaken
  cases rimEdgeRuns s c
  · exact ⟨rfl, rfl, Only.refl _ s⟩
  · exact cellsStepped_frame s c

/-! ### Capture, stamps and characters (R444, R450, R451) -/

theorem rimCapture_lost {s : State} (h : s.bit rRimCapStatus 31 = true) :
    rimCapture s = s.setBit rRimCapStatus 30 true := if_pos h

/-- The registers of a record of the cells lie below those of the pins. -/
theorem capCells_rd (s : State) (f : Nat → W64) {o : Nat} (ho : o < 0x90400 ∨ 0x90600 ≤ o) :
    ((List.range 64).foldl (fun (t : State) c => t.wr (rRimCapCell c) (f c)) s).rd o = s.rd o := by
  refine List.foldlRecOn (motive := fun t : State => t.rd o = s.rd o) (List.range 64) _ rfl fun t ht c hc => ?_
  have hlt := List.mem_range.1 hc
  rw [State.rd_wr_other _ _ (by unfold rRimCapCell; omega), ht]

/-- The record of the cells, of the pins with the time, and VALID. -/
def recordTaken (s : State) (f : Nat → W64) (ins outs time : W64) : State :=
  ((((((List.range 64).foldl (fun (t : State) c => t.wr (rRimCapCell c) (f c)) s).wr (rRimCapPin 0) ins).wr
    (rRimCapPin 1) outs).wr (rRimCapPin 2) time).setBit rRimCapStatus 31 true)

theorem rimCapture_takes {s : State} (h : s.bit rRimCapStatus 31 = false) :
    ∃ f ins outs, rimCapture s = recordTaken s f ins outs (BitVec.ofNat 64 s.dt) :=
  ⟨_, _, _, if_neg (by simp [h])⟩

theorem recordTaken_frame (s : State) (f : Nat → W64) (ins outs time : W64) :
    let t := recordTaken s f ins outs time
    t.bit rRimCapStatus 31 = true ∧ t.rd (rRimCapPin 2) = time ∧ t.rd rRimCap = s.rd rRimCap ∧ Only [.regs] s t := by
  refine ⟨State.bit_setBit_same _ _ _ _ (by decide), ?_, ?_, ?_⟩
  · rw [recordTaken, State.rd_setBit_other _ _ _ (by decide), State.rd_wr_same]
  · rw [recordTaken, State.rd_setBit_other _ _ _ (by decide), State.rd_wr_other _ _ (by decide),
      State.rd_wr_other _ _ (by decide), State.rd_wr_other _ _ (by decide), capCells_rd _ _ (.inl (by decide))]
  · have hcells := foldl_only (parts := [.regs]) (fun (t : State) c => t.wr (rRimCapCell c) (f c))
      (fun t c => only_wr t _ _) (List.range 64) s
    exact (((hcells.then_wr _ _ (by simp)).then_wr _ _ (by simp)).then_wr _ _ (by simp)).then_wr _ _ (by simp)

theorem exec_rimCaptureTaken {s : State} (hclk : s.clocksRun = true) (harm : s.bit rRimCap 31 = true)
    (hwire : s.bit rRimCap 25 = false ∨ rimWireNow s (s.fld rRimCap 0 11) = true) : exec .rimCaptureTaken s
      = .next (if s.bit rRimCapStatus 31 then rimCapture s else rimCapture (s.setBit rRimCap 31 false)) := by
  refine (clocked_run hclk _).trans (if_pos ?_)
  obtain h | h := hwire <;> simp [harm, h]

/-- A bit of `RIM_CAP` that software may write takes the written value. -/
theorem bit_rimCapWrite_arm (s : State) (v : W64) : (rimCapWrite s (putBits (putBits v 31 1 1) 30 1 0)).bit rRimCap 31
    = true := by
  have hdef : regDef rRimCap = some ⟨0x90020, 0x0, 1, true, 0x20000000, 0xFFFFBE0007FF, 0x0⟩ := by decide
  rw [rimCapWrite, State.plainWrite, hdef]
  dsimp only
  rw [State.bit_wr_same, bitAt, RegDef.getLsbD_apply _ _ (by decide) (by decide), if_pos rfl]
  exact (bitAt_putBits _ _ _ _ _ (by decide)).trans ((if_neg (by decide)).trans (bitAt_putBits _ _ _ _ _ (by decide)))

theorem plainWrite_frame (s : State) (o : Nat) (v : W64) :
    OnlyRegs [o] s (s.plainWrite o v) ∧ Only [.regs] s (s.plainWrite o v) := by
  unfold State.plainWrite
  split
  · exact (wr_frame s o _).2
  · exact ⟨.refl _ s, Only.refl _ s⟩

theorem Rim.stamp_setStamp (r : Rim) (k : Nat) (l : List Nat) : (r.setStamp k l).stamp k = l := by
  simp [Rim.stamp, Rim.setStamp]
theorem Rim.stamp_setStamp_other (r : Rim) {k j : Nat} (l : List Nat) (h : j ≠ k) :
    (r.setStamp k l).stamp j = r.stamp j := by simp [Rim.stamp, Rim.setStamp, SMap.get_set_other _ _ h]
theorem Rim.serial_setSerial (r : Rim) (k : Nat) (x : Serial) : (r.setSerial k x).serial k = x := by
  simp [Rim.serial, Rim.setSerial]
theorem Rim.serial_setSerial_other (r : Rim) {k j : Nat} (x : Serial) (h : j ≠ k) :
    (r.setSerial k x).serial j = r.serial j := by simp [Rim.serial, Rim.setSerial, SMap.get_set_other _ _ h]

theorem exec_rimStampRead {s : State} (hclk : s.clocksRun = true) (k : Fin 8) {d : Nat} {u : State}
    (hread : rimStampRead s k.val = (d, u)) : exec (.rimStampRead k) s = .next (respond u .u0 true (leBytes d 8)) := by
  refine (clocked_run hclk _).trans ?_
  rw [hread]

theorem leBytes_allOnes : leBytes (2 ^ 64 - 1) 8 = List.replicate 8 0xFF := by decide

/-- Settles O53: each command by its one branch. That one edge moves every enabled cell of its clock, and that a
stamp is dropped when sixteen stand, is the model's reading (log 124), as are the FIFOs of the blocks (log 127). -/
theorem rimCommandsComplete : Obligations.RimCommandsComplete := by
  intro s hclk
  refine ⟨?window, ?go, ?commitA, ?commitB, ?unload, ?select, ?deselect, ?cycle, ?arm, ?lost, ?now, ?taken, ?stamps,
    ?irq, ?serial, ?serialIdle⟩
  case window =>
    refine fun off v hoff => ⟨fun h => ?_, fun h => (clocked_run hclk _).trans (congrArg _ (rimWindow_kept v h.symm.symm))⟩
    refine ⟨_, (clocked_run hclk _).trans (congrArg _ (rimWindow_takes hoff v h)), ?_, ?_, ?_, ?_, ?_⟩
    · exact slotState_setSlot s _ .loading
    · exact slotState_setSlot_other s _ .loading
    · exact SMap.get_set_same ..
    · exact fun k hk => (SMap.get_set_other _ _ hk).trans (by rw [setSlot_image])
    · exact (setSlot_only s _ _).trans ((only_rim _ _).mono (by simp))
  case go =>
    intro slot hidle h
    refine ⟨_, (clocked_run hclk _).trans (congrArg _ (rimCommitGo_takes hidle h)), ?_, ?_, ?_, ?_⟩
    · exact slotState_setSlot s slot .committing
    · exact State.bit_setBit_same _ _ _ _ (by decide)
    · exact setSlot_image s slot _
    · exact (setSlot_only s _ _).trans ((only_setBit _ _ _ _).mono (by simp))
  case commitA =>
    exact fun h => ⟨_, exec_rimCommitComplete_A hclk h, commitShown_A (commitOutcome_frame s false)⟩
  case commitB =>
    exact fun hA hB => ⟨_, exec_rimCommitComplete_B hclk hA hB, commitShown_B (commitOutcome_frame s true)⟩
  case unload =>
    intro slot h hc
    refine ⟨_, (clocked_run hclk _).trans (congrArg _ (rimUnload_empties h hc)), ?_, ?_, ?_⟩
    · exact slotState_setSlot _ slot .empty
    · exact slotState_setSlot_other _ slot .empty
    · exact (((only_rim s _).mono (by simp)).trans (setSlot_only _ _ _)).trans ((only_setFld _ _ _ _ _).mono (by simp))
  case select =>
    refine fun slot h => ⟨fun hc => ?_, fun hc => ?_⟩
    · exact ⟨_, (clocked_run hclk _).trans (congrArg _ (rimSelect_committed h hc)), slotSelected_frame s slot⟩
    · exact ⟨_, (clocked_run hclk _).trans (congrArg _ (rimSelect_other h hc)),
        logEntry_logged s s _ _ _ _ rfl rfl, logEntry_only s _ _ _ _⟩
  case deselect => exact ⟨_, clocked_run hclk _, rimDeselect_frame s⟩
  case cycle =>
    intro c pins hard
    refine ⟨_, exec_rimCellCycle hclk c pins hard, fun d hd => ?_, ?_⟩
    · exact edgeTaken_cell (rimEdgeSeen s pins hard) c.val hd
    · obtain ⟨hpins, hhard, honly⟩ := edgeTaken_frame (rimEdgeSeen s pins hard) c.val
      exact ⟨hpins, hhard, (only_rim s _).trans honly⟩
  case arm =>
    exact fun v => ⟨_, clocked_run hclk _, bit_rimCapWrite_arm s v, plainWrite_frame s rRimCap _⟩
  case lost =>
    intro h
    exact ⟨_, (clocked_run hclk _).trans (congrArg _ (rimCapture_lost h)), setBit_frame s rRimCapStatus true (by decide)⟩
  case now =>
    intro h
    obtain ⟨f, ins, outs, htake⟩ := rimCapture_takes h
    obtain ⟨hvalid, htime, -, honly⟩ := recordTaken_frame s f ins outs (BitVec.ofNat 64 s.dt)
    exact ⟨_, (clocked_run hclk _).trans (congrArg _ htake), hvalid, htime, honly⟩
  case taken =>
    refine fun harm hwire => ⟨fun h => ?_, fun h => ?_⟩
    · have hstatus : (s.setBit rRimCap 31 false).bit rRimCapStatus 31 = false := by
        rw [State.bit_setBit_other _ _ _ _ _ _ (by decide) (.inl (by decide)), h]
      obtain ⟨f, ins, outs, htake⟩ := rimCapture_takes hstatus
      obtain ⟨hvalid, htime, hcap, honly⟩ := recordTaken_frame (s.setBit rRimCap 31 false) f ins outs
        (BitVec.ofNat 64 s.dt)
      refine ⟨_, (exec_rimCaptureTaken hclk harm hwire).trans
        (congrArg _ ((if_neg (by simp [h])).trans htake)), ?_, hvalid, htime, (only_setBit s _ _ _).trans honly⟩
      exact (congrArg (bitAt · 31) hcap).trans (State.bit_setBit_same _ _ _ _ (by decide))
    · exact ⟨_, (exec_rimCaptureTaken hclk harm hwire).trans (congrArg _ ((if_pos h).trans (rimCapture_lost h))),
        setBit_frame s rRimCapStatus true (by decide)⟩
  case stamps =>
    refine fun k => ⟨fun hen hroom => ?_, fun hen hfull => ?_, fun d r hq => ?_, fun hq => ?_⟩
    · refine ⟨_, (clocked_run hclk _).trans ((if_pos hen).trans (if_pos hroom)), Rim.stamp_setStamp ..,
        fun j hj => Rim.stamp_setStamp_other _ _ hj, only_rim s _⟩
    · refine ⟨_, (clocked_run hclk _).trans ((if_pos hen).trans (if_neg (by omega))), ?_, ?_, only_addSat s _ _ _ _⟩
      · exact State.fld_addSat_same _ _ _ _ _ (by decide)
      · exact onlyRegs_addSat s _ _ _ (by simp)
    · have hread : rimStampRead s k.val = (d, { s with rim := s.rim.setStamp k.val r }) := by
        rw [rimStampRead, hq]
      refine ⟨_, exec_rimStampRead hclk k hread,
        Rim.stamp_setStamp .., rfl, fun j hj => Rim.stamp_setStamp_other _ _ hj, ?_⟩
      exact ((only_rim s _).mono (by simp)).trans ((only_hi _ _).mono (by simp))
    · have hread : rimStampRead s k.val = (2 ^ 64 - 1, s) := by rw [rimStampRead, hq]
      rw [← leBytes_allOnes]
      exact ⟨_, exec_rimStampRead hclk k hread, rfl, only_hi s _⟩
  case irq =>
    intro hactive hwire hawake
    refine ⟨_, (clocked_run hclk _).trans ?_, rfl, signalVec_only s _⟩
    rw [roused_awake hawake, rimIrq, if_pos (by simp [hactive, hwire])]
  case serial =>
    intro b rx hactive
    exact ⟨_, (clocked_run hclk _).trans (if_pos hactive), by rw [Rim.serial_setSerial],
      by rw [Rim.serial_setSerial], fun j hj => Rim.serial_setSerial_other _ _ hj, only_rim s _⟩
  case serialIdle =>
    exact fun b rx hidle => (clocked_run hclk _).trans (if_neg (by simp [hidle]))

end Sys2Proof.Machine
end

section
/-! Counters, windows, probes and the tagger (R543 to R550). -/

namespace Sys2Proof.Machine

theorem only_pmu (s : State) (x : Pmu) : Only [.pmu] s { s with pmu := x } := by
  intro q hq
  cases q <;> simp_all [Part.same]

/-! ### What a stored record leaves of the tagger -/

theorem wellFault_rd (s : State) (w : Nat) (f : FaultInfo) {o : Nat} (h : o ≠ rErrHead) (h' : o ≠ rErrStatus) :
    (wellFault s w f).rd o = s.rd o := by
  have hlog (scope : Nat) (task pipe : Option Nat) : (logEntry s f scope task pipe).rd o = s.rd o :=
    logEntry_rd s f scope task pipe h h'
  unfold wellFault
  split
  · rw [pipeFault_eq]
    dsimp only
    split
    · exact hlog ..
    · exact (resetDue_rd ..).trans (hlog ..)
  · exact hlog ..

/-- What the writing of a record leaves: the instruction that is tagged, and the head of the ring. -/
def State.tagView (s : State) : Option TagRun × W64 := (s.pmu.run, s.rd rPmuTagHead)

theorem tagView_ext {s t : State} (hrun : t.pmu.run = s.pmu.run) (hhead : t.rd rPmuTagHead = s.rd rPmuTagHead) :
    t.tagView = s.tagView := Prod.ext hrun hhead

section TagView

variable (s : State)

@[simp] theorem tagView_event (c u e : Nat) : (event s c u e).tagView = s.tagView :=
  tagView_ext (congrArg Pmu.run (event_pmu s c u e)) (event_rd_outside (by decide) s c u e)
@[simp] theorem tagView_bwCount (i d : Nat) : (bwCount s i d).tagView = s.tagView := by
  unfold bwCount
  split <;> rfl
@[simp] theorem tagView_setMc (n : Nat) (m : Mc) : (s.setMc n m).tagView = s.tagView := (rfl)
@[simp] theorem tagView_drawn : s.drawn.tagView = s.tagView := (rfl)
@[simp] theorem tagView_putLine (a : Nat) (l : Line) (d : BitVec 16) : (s.putLine a l d).tagView = s.tagView := (rfl)
@[simp] theorem tagView_setWell (w : Nat) (x : Well) : (s.setWell w x).tagView = s.tagView := (rfl)
@[simp] theorem tagView_setSlc (w i : Nat) (y : Slice) : (s.setSlc w i y).tagView = s.tagView := (rfl)
@[simp] theorem tagView_wellFault (w : Nat) (f : FaultInfo) : (wellFault s w f).tagView = s.tagView :=
  tagView_ext (congrArg Pmu.run (wellFault_pmu s w f)) (wellFault_rd s w f (by decide) (by decide))
@[simp] theorem tagView_logOnly (f : FaultInfo) : (logOnly s f).tagView = s.tagView :=
  tagView_ext (congrArg Pmu.run (logEntry_pmu s f 0 none none)) (logOnly_rd (by decide) s f)

theorem tagView_wr {o : Nat} (v : W64) (h : rPmuTagHead ≠ o) : (s.wr o v).tagView = s.tagView :=
  tagView_ext rfl (State.rd_wr_other s v h)

theorem rPmuTagHead_ne_rMcErrCh (n c : Nat) : rPmuTagHead ≠ rMcErrCh n c := by unfold rPmuTagHead rMcErrCh; omega

@[simp] theorem tagView_noteError (ch a kind : Nat) : (noteError s ch a kind).tagView = s.tagView :=
  tagView_wr s _ (by unfold rPmuTagHead rMcErrAddr; omega)
@[simp] theorem tagView_errCount (n c l k x : Nat) : (s.addSat (rMcErrCh n c) l k x).tagView = s.tagView :=
  tagView_wr s _ (rPmuTagHead_ne_rMcErrCh n c)
@[simp] theorem tagView_errBit (n c i : Nat) (b : Bool) : (s.setBit (rMcErrCh n c) i b).tagView = s.tagView :=
  tagView_wr s _ (rPmuTagHead_ne_rMcErrCh n c)

@[simp] theorem tagView_checkOut (key : Nat) : (checkOut s key).tagView = s.tagView := by
  simp [checkOut, apply_ite State.tagView]
@[simp] theorem tagView_cacheTouch (ch l : Nat) : (cacheTouch s ch l).tagView = s.tagView := by
  simp [cacheTouch, apply_ite State.tagView]
@[simp] theorem tagView_cacheWrite (ch l : Nat) : (cacheWrite s ch l).tagView = s.tagView := by
  simp [cacheWrite, apply_ite State.tagView]
@[simp] theorem tagView_noteCorrected (ch a : Nat) (inCheck : Bool) :
    (noteCorrected s ch a inCheck).tagView = s.tagView := by
  simp [noteCorrected, apply_ite State.tagView]
@[simp] theorem tagView_noteUncorrectable (ch a kind : Nat) : (noteUncorrectable s ch a kind).tagView = s.tagView := by
  simp [noteUncorrectable]
@[simp] theorem tagView_dramRead (a : Nat) (count : Bool) : (dramRead s a count).2.2.tagView = s.tagView := by
  obtain h | h | ⟨-, _, h⟩ | h := dramRead_state s a count
  all_goals simp [h, readChecked, readCounted]
@[simp] theorem tagView_dramWrite (a : Nat) (new : Line) (mask : BitVec 64) :
    (dramWrite s a new mask).tagView = s.tagView := by
  simp [dramWrite, apply_ite State.tagView]
@[simp] theorem tagView_cisternRead (w k a : Nat) : (cisternRead s w k a).2.2.tagView = s.tagView := by
  unfold cisternRead
  dsimp only
  split <;> simp
@[simp] theorem tagView_cisternWrite (w k a : Nat) (l : Line) : (cisternWrite s w k a l).tagView = s.tagView := by
  simp [cisternWrite, apply_ite State.tagView]
@[simp] theorem tagView_weightLine (w i d line : Nat) : (weightLine s w i d line).2.2.tagView = s.tagView := by
  unfold weightLine
  dsimp only
  split <;> simp
@[simp] theorem tagView_weightWrite (w i d line : Nat) (l : Line) :
    (weightWrite s w i d line l).tagView = s.tagView := by simp [weightWrite]
@[simp] theorem tagView_hostTry (h : Nat) : (hostTry s true h).2.tagView = s.tagView := by
  unfold hostTry
  dsimp only
  split
  · rfl
  · split <;> simp

end TagView

/-! ### Where a record lies (R42, R45, R549) -/

/-- A line of a cistern or of a weight bank is stored at its own address. -/
theorem sramRegion_cistern {s : State} {x w k o : Nat} (h : sramRegion s x = .cistern w k o) :
    x = w * 0x10000000 + k * 0x80000 + o := by
  unfold sramRegion at h
  dsimp only at h
  split at h
  · split at h
    · exact Region.noConfusion h
    · split at h
      · split at h
        · obtain ⟨rfl, rfl, rfl⟩ := Region.cistern.inj h
          omega
        · exact Region.noConfusion h
      · split at h <;> exact Region.noConfusion h
  · split at h <;> exact Region.noConfusion h

theorem sramRegion_weight {s : State} {x w i d o : Nat} (h : sramRegion s x = .weight w i d o) :
    x + 0x100000000000 = weightAddr w i d o := by
  unfold sramRegion at h
  dsimp only at h
  split at h
  · split at h
    · exact Region.noConfusion h
    · split at h
      · split at h <;> exact Region.noConfusion h
      · split at h
        case isTrue hbank =>
          obtain ⟨rfl, rfl, rfl, rfl⟩ := Region.weight.inj h
          unfold weightAddr
          split <;> split <;> omega
        · exact Region.noConfusion h
  · split at h <;> exact Region.noConfusion h

theorem regionOf_sram {s : State} {a : Nat} {r : Region} (h : regionOf s a = r)
    (hr : (∃ w k o, r = .cistern w k o) ∨ ∃ w i d o, r = .weight w i d o) :
    0x100000000000 ≤ a ∧ sramRegion s (a - 0x100000000000) = r := by
  unfold regionOf at h
  split at h
  · subst h
    obtain ⟨_, _, _, h⟩ | ⟨_, _, _, _, h⟩ := hr <;> exact Region.noConfusion h
  · split at h
    · subst h
      obtain ⟨_, _, _, h⟩ | ⟨_, _, _, _, h⟩ := hr <;> exact Region.noConfusion h
    · split at h
      · exact ⟨by omega, h⟩
      · exfalso
        subst h
        obtain ⟨_, _, _, h⟩ | ⟨_, _, _, _, h⟩ := hr
        · split at h
          · exact Region.noConfusion h
          · split at h
            · exact Region.noConfusion h
            · split at h <;> exact Region.noConfusion h
        · split at h
          · exact Region.noConfusion h
          · split at h
            · exact Region.noConfusion h
            · split at h <;> exact Region.noConfusion h

theorem cisternAddr_of_region {s : State} {a w k o : Nat} (ha : a % 64 = 0) (h : regionOf s a = .cistern w k o) :
    cisternAddr w k (64 * (o / 64)) = a := by
  obtain ⟨hlo, hin⟩ := regionOf_sram h (.inl ⟨w, k, o, rfl⟩)
  have hx := sramRegion_cistern hin
  unfold cisternAddr
  omega

theorem weightAddr_of_region {s : State} {a w i d o : Nat} (ha : a % 64 = 0) (h : regionOf s a = .weight w i d o) :
    weightAddr w i d (64 * (o / 64)) = a := by
  obtain ⟨hlo, hin⟩ := regionOf_sram h (.inr ⟨w, i, d, o, rfl⟩)
  have hx := sramRegion_weight hin
  unfold weightAddr at hx ⊢
  by_cases hnorth : i < 4
  · rw [if_pos hnorth] at hx ⊢
    omega
  · rw [if_neg hnorth] at hx ⊢
    omega

theorem putLine_byte_other (s : State) {a b : Nat} (l : Line) (d : BitVec 16) (h : b / 64 ≠ a / 64) :
    (s.putLine a l d).mem.byte b = s.mem.byte b := Memory.byte_setLine_other _ _ _ _ (by omega)

theorem cisternRead_mem (s : State) (w k a : Nat) : (cisternRead s w k a).2.2.mem = s.mem := by
  unfold cisternRead
  dsimp only
  split
  · rfl
  · rfl
  · exact wellFault_mem ..

theorem weightLine_mem (s : State) (w i d n : Nat) : (weightLine s w i d n).2.2.mem = s.mem := by
  unfold weightLine
  dsimp only
  split
  · rfl
  · rfl
  · exact wellFault_mem ..

theorem cisternWrite_byte_other (s : State) {w k a b : Nat} (l : Line) (h : b / 64 ≠ cisternAddr w k (64 * a) / 64) :
    (cisternWrite s w k a l).mem.byte b = s.mem.byte b := by
  rw [cisternWrite_eq]
  dsimp only
  split <;> exact putLine_byte_other s l 0 h

theorem weightWrite_byte_other (s : State) {w i d n b : Nat} (l : Line)
    (h : b / 64 ≠ weightAddr w i d (64 * n) / 64) : (weightWrite s w i d n l).mem.byte b = s.mem.byte b := by
  simp only [weightWrite, event_mem]
  exact putLine_byte_other s l 0 h

/-- A bucket stores within its line, and moves neither the head of the tag ring nor the tagged instruction. -/
theorem bucketWrite_frame {s t : State} {a : Nat} {l : Line} {mask : BitVec 64} (h : bucketWrite s a l mask = some t)
    (ha : a % 64 = 0) : (∀ b, b / 64 ≠ a / 64 → t.mem.byte b = s.mem.byte b) ∧ t.tagView = s.tagView := by
  unfold bucketWrite at h
  split at h
  case h_1 =>
    obtain rfl := Option.some.inj h
    exact ⟨fun b hb => dramWrite_byte_other s l mask hb, tagView_dramWrite ..⟩
  case h_2 w k o hregion =>
    have hline := cisternAddr_of_region ha hregion
    split at h
    · obtain rfl := Option.some.inj h
      exact ⟨fun b hb => cisternWrite_byte_other s l (hline.symm ▸ hb), tagView_cisternWrite ..⟩
    · obtain rfl := Option.some.inj h
      refine ⟨fun b hb => ?_, by simp⟩
      rw [cisternWrite_byte_other _ _ (hline.symm ▸ hb), cisternRead_mem]
  case h_3 w i d o hregion =>
    have hline := weightAddr_of_region ha hregion
    split at h
    · split at h
      · obtain rfl := Option.some.inj h
        exact ⟨fun b hb => weightWrite_byte_other s l (hline.symm ▸ hb), tagView_weightWrite ..⟩
      · obtain rfl := Option.some.inj h
        refine ⟨fun b hb => ?_, by simp⟩
        rw [weightWrite_byte_other _ _ (hline.symm ▸ hb), weightLine_mem]
    · exact nomatch h
  case h_4 =>
    obtain rfl := Option.some.inj h
    have hlen : (lineBytes l).length = 64 := leBytes_length ..
    exact ⟨fun b hb => Memory.byte_writeMasked_other _ _ _ _ _ _ (by omega), rfl⟩
  all_goals exact nomatch h

theorem tagPut_frame (s : State) (a v : Nat) :
    (∀ b, b / 64 ≠ a / 64 → (tagPut s a v).mem.byte b = s.mem.byte b) ∧ (tagPut s a v).tagView = s.tagView := by
  unfold tagPut
  dsimp only
  split
  · exact ⟨fun b _ => congrArg (Memory.byte · b) ((hostTry_keep s true _).2), tagView_hostTry s _⟩
  · cases h : bucketWrite s (a / 64 * 64) (BitVec.ofNat 512 (v <<< (8 * (a % 64))))
      (BitVec.ofNat 64 (0xFFFFFFFF <<< (a % 64))) with
    | none => exact ⟨fun _ _ => rfl, rfl⟩
    | some t =>
      obtain ⟨hbyte, hview⟩ := bucketWrite_frame h (by omega)
      exact ⟨fun b hb => hbyte b (by omega), hview⟩

/-- The mask of a record in its line. -/
theorem bitAt_tagMask {sh i : Nat} (hi : i < 64) :
    bitAt (BitVec.ofNat 64 (0xFFFFFFFF <<< sh)) i = decide (sh ≤ i ∧ i < sh + 32) := by
  rw [show (0xFFFFFFFF : Nat) = 2 ^ 32 - 1 by decide]
  simp only [bitAt, BitVec.getLsbD_ofNat, Nat.testBit_shiftLeft, Nat.testBit_two_pow_sub_one, hi]
  rw [Bool.eq_iff_iff]
  simp
  omega

/-- A record of 32 bytes in a line of DRAM that reads valid, or with ECC off. -/
theorem tagPut_byte {s : State} {a v : Nat} (ha : a % 32 = 0) (hregion : regionOf s a = .dram)
    (hline : regionOf s (a / 64 * 64) = .dram)
    (hvalid : s.eccOn = false ∨ decodeLine (s.mem.line (a / 64 * 64)) (s.delta a) = .ok) (b : Nat) :
    (tagPut s a v).mem.byte b = if a ≤ b ∧ b < a + 32 then BitVec.ofNat 8 (v >>> (8 * (b - a))) else s.mem.byte b := by
  have hput : tagPut s a v = dramWrite s (a / 64 * 64) (BitVec.ofNat 512 (v <<< (8 * (a % 64))))
      (BitVec.ofNat 64 (0xFFFFFFFF <<< (a % 64))) := by
    simp [tagPut, bucketWrite, hregion, hline]
  have hdelta : s.delta (a / 64 * 64) = s.delta a := by
    unfold State.delta
    congr 1
    omega
  rw [hput, dramWrite_byte s (by omega) _ _ (by rwa [hdelta])]
  by_cases hin : a / 64 * 64 ≤ b ∧ b < a / 64 * 64 + 64
  · rw [bitAt_tagMask (by omega)]
    by_cases hrec : a ≤ b ∧ b < a + 32
    · rw [if_pos ⟨hin.1, hin.2, decide_eq_true (by omega)⟩, if_pos hrec,
        show b - a / 64 * 64 = a % 64 + (b - a) by omega, laneOf_shiftLeft_line v (a % 64) (by omega), ofNat_laneOf]
    · rw [if_neg (fun h => hrec (by have := of_decide_eq_true h.2.2; omega)), if_neg hrec]
  · rw [if_neg (fun h => hin ⟨h.1, h.2.1⟩), if_neg (by omega)]

/-! ### Counters (R543, R544, R550) -/

theorem fld_cleared (s : State) (n j : Nat) : (s.setFld (rPmuCnt n) 0 48 0).fld (rPmuCnt j) 0 48
    = if j = n then 0 else s.fld (rPmuCnt j) 0 48 := by
  by_cases h : j = n
  · subst h
    rw [if_pos rfl, State.fld_setFld_same _ _ _ _ _ (by decide), Nat.zero_mod]
  · have hne : rPmuCnt j ≠ rPmuCnt n := by unfold rPmuCnt; omega
    rw [if_neg h, State.fld, State.rd_setFld_other _ _ _ _ hne]
    rfl

theorem pmuClear_frame (s : State) : (∀ n, n < 32 → (pmuClear s).fld (rPmuCnt n) 0 48 = 0)
    ∧ (∀ o, (∀ n, n < 32 → o ≠ rPmuCnt n) → (pmuClear s).rd o = (s.wr rPmuOvf 0).rd o) ∧ Only [.regs] s (pmuClear s) := by
  refine ⟨fun n hn => ?_, fun o ho => ?_, ?_⟩
  · have hclear := foldl_read_update (get := fun (t : State) k => t.fld (rPmuCnt k) 0 48) (g := fun _ => 0)
      (step := fun (t : State) k => t.setFld (rPmuCnt k) 0 48 0) (fun _ => rfl) fld_cleared (List.range 32)
      (s.wr rPmuOvf 0) n
    exact hclear.trans (if_pos (List.mem_range.2 hn))
  · refine List.foldlRecOn (motive := fun t : State => t.rd o = (s.wr rPmuOvf 0).rd o) (List.range 32) _ rfl
      fun t ht n hn => ?_
    rw [State.rd_setFld_other _ _ _ _ (ho n (List.mem_range.1 hn)), ht]
  · exact (only_wr s _ _).trans (foldl_only _ (fun t n => only_setFld t _ _ _ _) _ _)

/-- A counter that has wrapped: its bit of `PMU_OVF` set, and under FREEZE the counters stopped (R544). -/
def counterWrapped (s : State) (n : Nat) : State :=
  let u := (s.setFld (rPmuCnt n) 0 48 0).setBit rPmuOvf n true
  if u.bit rPmuCtrl 30 then u.setBit rPmuCtrl 31 false else u

/-- The same with its interrupt where it is selected. -/
def wrapSignalled (s : State) (n : Nat) : State :=
  let u := counterWrapped s n
  if u.bit (rPmuSel n) 6 then signalVec u (u.fld rPmuCtrl 16 6) else u

theorem countUp_wraps {s : State} {n : Nat} (hmax : s.fld (rPmuCnt n) 0 48 = 2 ^ 48 - 1)
    (hchain : n % 2 = 1 ∨ s.bit (rPmuSel (n + 1)) 7 = false) : countUp s n = wrapSignalled s n := by
  have hno : (n % 2 = 0 && (s.setFld (rPmuCnt n) 0 48 0).bit (rPmuSel (n + 1)) 7) = false := by
    obtain h | h := hchain
    · simp [h]
    · by_cases heven : n % 2 = 0
      · have hne : rPmuSel (n + 1) ≠ rPmuCnt n := by unfold rPmuSel rPmuCnt; omega
        rw [State.bit, State.rd_setFld_other _ _ _ _ hne]
        exact (congrArg (decide _ && ·) h).trans (Bool.and_false _)
      · simp [heven]
  unfold countUp
  dsimp only
  rw [if_neg (by rw [hmax]; decide), if_neg (by simpa using hno)]
  rfl

section Wrapped

variable (s : State) (n : Nat)

/-- The registers of a wrapped counter. -/
theorem counterWrapped_rd : (counterWrapped s n).rd (rPmuCnt n) = putBits (s.rd (rPmuCnt n)) 0 48 0
    ∧ (counterWrapped s n).rd rPmuOvf = putBits (s.rd rPmuOvf) n 1 1
    ∧ (counterWrapped s n).rd rPmuCtrl
      = (if s.bit rPmuCtrl 30 then putBits (s.rd rPmuCtrl) 31 1 0 else s.rd rPmuCtrl) := by
  have hcnt : rPmuCnt n ≠ rPmuCtrl ∧ rPmuCnt n ≠ rPmuOvf := by unfold rPmuCnt rPmuCtrl rPmuOvf; omega
  obtain ⟨hctrl, hovf⟩ := hcnt
  have hbit : ((s.setFld (rPmuCnt n) 0 48 0).setBit rPmuOvf n true).bit rPmuCtrl 30 = s.bit rPmuCtrl 30 := by
    rw [State.bit, State.rd_setBit_other _ _ _ (by decide), State.rd_setFld_other _ _ _ _ hctrl.symm]
    rfl
  unfold counterWrapped
  dsimp only
  rw [hbit]
  split <;> simp [State.rd_setBit, State.rd_setFld, hctrl, hctrl.symm, hovf, hovf.symm, b2n]

theorem counterWrapped_only : OnlyRegs [rPmuCnt n, rPmuOvf, rPmuCtrl] s (counterWrapped s n)
    ∧ Only [.regs] s (counterWrapped s n) := by
  have hregs := (onlyRegs_setFld s 0 48 0 (l := [rPmuCnt n, rPmuOvf, rPmuCtrl]) (o := rPmuCnt n) (by simp)).trans
    (onlyRegs_setBit _ n true (o := rPmuOvf) (by simp))
  have honly := (only_setFld s (rPmuCnt n) 0 48 0).trans (only_setBit _ rPmuOvf n true)
  unfold counterWrapped
  dsimp only
  split
  · exact ⟨hregs.trans (onlyRegs_setBit _ _ _ (by simp)), honly.trans (only_setBit _ _ _ _)⟩
  · exact ⟨hregs, honly⟩

end Wrapped

/-- A masked vector that is signalled stays pending. -/
theorem signalVec_masked {s : State} {v : Nat} (hv : v < 64) (h : s.bit rHiIntMask v = true) :
    bitAt (signalVec s v).hi.pend v = true := by
  have hmask : ({ s with hi := { s.hi with pend := putBits s.hi.pend v 1 1 } } : State).bit rHiIntMask v = true := h
  rw [signalVec, sendPending, if_neg (by simp [hmask])]
  rw [bitAt_putBits _ _ _ _ _ hv]
  simp

/-- What a wrapped counter shows (R544). -/
theorem wrapSignalled_frame {s : State} {n : Nat} (hn : n < 32) (hen : s.bit rPmuCtrl 31 = true) :
    let t := wrapSignalled s n
    t.fld (rPmuCnt n) 0 48 = 0 ∧ t.bit rPmuOvf n = true ∧ t.bit rPmuCtrl 31 = !s.bit rPmuCtrl 30
      ∧ (s.bit (rPmuSel n) 6 = true → s.bit rHiIntMask (s.fld rPmuCtrl 16 6) = true →
          bitAt t.hi.pend (s.fld rPmuCtrl 16 6) = true)
      ∧ OnlyRegs [rPmuCnt n, rPmuOvf, rPmuCtrl] s t ∧ Only [.regs, .hi] s t := by
  obtain ⟨hcnt, hovf, hctrl⟩ := counterWrapped_rd s n
  obtain ⟨hregs, honly⟩ := counterWrapped_only s n
  have hsel : (counterWrapped s n).bit (rPmuSel n) 6 = s.bit (rPmuSel n) 6 :=
    hregs.bit (by unfold rPmuSel rPmuCnt rPmuOvf rPmuCtrl; simp; omega) 6
  have hmask (v : Nat) : (counterWrapped s n).bit rHiIntMask v = s.bit rHiIntMask v :=
    hregs.bit (by unfold rHiIntMask rPmuCnt rPmuOvf rPmuCtrl; simp; omega) v
  have hvec : (counterWrapped s n).fld rPmuCtrl 16 6 = s.fld rPmuCtrl 16 6 := by
    rw [State.fld, hctrl]
    split
    · exact bits_putBits_other _ _ _ _ _ _ (.inl (by decide)) (by decide)
    · rfl
  have hsame : (wrapSignalled s n).regs = (counterWrapped s n).regs := by
    unfold wrapSignalled
    dsimp only
    split
    · exact signalVec_regs ..
    · rfl
  have hrd (o : Nat) : (wrapSignalled s n).rd o = (counterWrapped s n).rd o := State.rd_of_regs hsame o
  refine ⟨?_, ?_, ?_, fun h6 hm => ?_, hregs.trans (.of_regs _ hsame), ?_⟩
  · rw [State.fld, hrd, hcnt, bits_putBits_same _ _ _ _ (by decide)]
    rfl
  · rw [State.bit, hrd, hovf, bitAt_putBits _ _ _ _ _ (by omega)]
    simp
  · rw [State.bit, hrd, hctrl]
    cases s.bit rPmuCtrl 30 with
    | false => exact hen
    | true => exact bitAt_putBits _ _ _ _ _ (by decide)
  · unfold wrapSignalled
    dsimp only
    rw [if_pos (hsel.trans h6), hvec]
    exact signalVec_masked (Nat.lt_of_lt_of_le (bits_lt _ _ _) (by decide)) ((hmask _).trans hm)
  · refine (honly.mono (by simp)).trans ?_
    unfold wrapSignalled
    dsimp only
    split
    · exact (signalVec_only _ _).mono (by simp)
    · exact Only.refl _ _

/-! ### Bandwidth windows and probes (R546, R547) -/

/-- The count of a port that a window shows, which saturates. -/
def windowCount (s : State) (i : Nat) : Nat := Nat.min (SMap.get (fun _ => 0) s.pmu.bw i) (2 ^ 32 - 1)

/-- The counts of the ports in their registers. -/
def windowShown (s : State) : State :=
  (List.range 56).foldl (fun (t : State) i => t.wr (rPmuBw i)
    (BitVec.ofNat 64 (windowCount s (2 * i) <<< 32 + windowCount s (2 * i + 1)))) s

/-- The live counts and probes cleared. -/
def windowCleared (u : State) : State := { u with pmu := { u.pmu with bw := [], probe := [] } }

theorem rd_windowCleared (u : State) (o : Nat) : (windowCleared u).rd o = u.rd o := rfl

/-- The counts and the probes shown, and cleared. -/
def windowEnded (s : State) : State := windowCleared ((List.range 16).foldl probeSnap (windowShown s))

theorem exec_bwWindowEnd {s : State} (hclk : s.clocksRun = true) (hen : s.bit rPmuBwCtrl 31 = true) :
    exec .bwWindowEnd s = .next ((windowEnded s).addWrap rPmuBwSeq 16 16) :=
  (clocked_run hclk _).trans (if_pos hen)

theorem rd_windowShown (s : State) (o : Nat) : (∀ i, i < 56 → o ≠ rPmuBw i) → (windowShown s).rd o = s.rd o := by
  intro ho
  refine List.foldlRecOn (motive := fun t : State => t.rd o = s.rd o) (List.range 56) _ rfl fun t ht i hi => ?_
  rw [State.rd_wr_other _ _ (ho i (List.mem_range.1 hi)), ht]

theorem rd_foldl_wr_bw (f : Nat → W64) (l : List Nat) (s : State) (j : Nat) :
    (l.foldl (fun (t : State) i => t.wr (rPmuBw i) (f i)) s).rd (rPmuBw j)
      = if j ∈ l then f j else s.rd (rPmuBw j) := by
  induction l generalizing s with
  | nil => rfl
  | cons a r ih =>
    rw [List.foldl_cons, ih]
    by_cases hr : j ∈ r
    · simp [hr]
    · by_cases ha : j = a
      · subst ha
        simp [hr]
      · have hne : rPmuBw j ≠ rPmuBw a := by unfold rPmuBw; omega
        simp [hr, ha, State.rd_wr_other _ _ hne]

/-- A probe shows its values in its own registers. -/
theorem probeSnap_frame (s : State) {k : Nat} (hk : k < 16) :
    (∀ o, (o < 0xA0800 ∨ 0xA0C00 ≤ o) → (probeSnap s k).rd o = s.rd o) ∧ Only [.regs] s (probeSnap s k) := by
  refine ⟨fun o ho => ?_, ?_⟩
  · unfold probeSnap
    dsimp only
    refine (List.foldlRecOn (motive := fun t : State => t.rd o = s.rd o) (List.range 4) _ ?_ fun t ht j hj => ?_)
    · rw [State.rd_wr_other _ _ (by unfold rPmuQpN; omega), State.rd_wr_other _ _ (by unfold rPmuQpMm; omega)]
    · have hlt := List.mem_range.1 hj
      rw [State.rd_wr_other _ _ (by unfold rPmuQpBin; omega), ht]
  · exact ((only_wr s _ _).trans (only_wr _ _ _)).trans (foldl_only _ (fun t j => only_wr t _ _) _ _)

theorem probesShown_frame (s : State) :
    (∀ o, (o < 0xA0800 ∨ 0xA0C00 ≤ o) → ((List.range 16).foldl probeSnap s).rd o = s.rd o)
      ∧ Only [.regs] s ((List.range 16).foldl probeSnap s) := by
  refine List.foldlRecOn (motive := fun t : State => (∀ o, (o < 0xA0800 ∨ 0xA0C00 ≤ o) → t.rd o = s.rd o)
    ∧ Only [.regs] s t) (List.range 16) _ ⟨fun _ _ => rfl, Only.refl _ s⟩ fun t ht k hk => ?_
  obtain ⟨hrd, honly⟩ := probeSnap_frame t (List.mem_range.1 hk)
  exact ⟨fun o ho => (hrd o ho).trans (ht.1 o ho), ht.2.trans honly⟩

theorem windowEnded_frame (s : State) :
    (∀ i, i < 56 → (windowEnded s).rd (rPmuBw i)
      = BitVec.ofNat 64 (windowCount s (2 * i) * 2 ^ 32 + windowCount s (2 * i + 1)))
    ∧ (windowEnded s).rd rPmuBwSeq = s.rd rPmuBwSeq ∧ Only [.regs, .pmu] s (windowEnded s) := by
  obtain ⟨hprobes, honly⟩ := probesShown_frame (windowShown s)
  have hrd (o : Nat) (ho : o < 0xA0800) : (windowEnded s).rd o = (windowShown s).rd o :=
    (rd_windowCleared _ o).trans (hprobes o (.inl ho))
  refine ⟨fun i hi => ?_, ?_, ?_⟩
  · rw [hrd _ (by unfold rPmuBw; omega), windowShown, rd_foldl_wr_bw, if_pos (List.mem_range.2 hi), Nat.shiftLeft_eq]
  · rw [hrd _ (by decide), rd_windowShown s _ fun i _ => by unfold rPmuBwSeq rPmuBw; omega]
  · have hshown : Only [.regs] s (windowShown s) := foldl_only _ (fun t i => only_wr t _ _) _ _
    exact ((hshown.trans honly).mono (by simp)).trans ((only_pmu _ _).mono (by simp))

/-! ### Probes (R547) -/

theorem probeVal_setProbe (s : State) (k f v j g : Nat) :
    probeVal (setProbe s k f v) j g = if 16 * j + g = 16 * k + f then v else probeVal s j g := by
  unfold probeVal setProbe
  split
  · rename_i h
    rw [h]
    exact SMap.get_set_same ..
  · rename_i h
    exact SMap.get_set_other _ _ h

/-- One sample of a probe. -/
def probeTaken (s : State) (k f : Nat) : State :=
  let a := setProbe s k 0 (Nat.max (probeVal s k 0) f)
  let b := setProbe a k 1 (Nat.min (probeVal a k 1) f)
  let c := setProbe b k 2 ((probeVal b k 2 + 1) % 2 ^ 32)
  setProbe c k (4 + probeBin f) (probeVal c k (4 + probeBin f) + 1)

theorem probeBin_le (f : Nat) : probeBin f ≤ 7 := by
  unfold probeBin
  repeat' split
  all_goals decide

theorem probeTaken_frame (s : State) (k f : Nat) : let t := probeTaken s k f
    probeVal t k 0 = Nat.max (probeVal s k 0) f ∧ probeVal t k 1 = Nat.min (probeVal s k 1) f
      ∧ probeVal t k 2 = (probeVal s k 2 + 1) % 2 ^ 32
      ∧ probeVal t k (4 + probeBin f) = probeVal s k (4 + probeBin f) + 1
      ∧ (∀ j g, j ≠ k → g < 16 → probeVal t j g = probeVal s j g) ∧ Only [.pmu] s t := by
  have hbin := probeBin_le f
  have honly (u : State) (g v : Nat) : Only [.pmu] u (setProbe u k g v) := only_pmu u _
  generalize hb : probeBin f = b at hbin
  have h1 : 1 ≠ 4 + b ∧ 2 ≠ 4 + b := by omega
  have h2 : 4 + b ≠ 1 ∧ 4 + b ≠ 2 := by omega
  refine ⟨?_, ?_, ?_, ?_, fun j g hj hg => ?_, ?_⟩
  · simp [probeTaken, hb, probeVal_setProbe]
  · simp [probeTaken, hb, probeVal_setProbe, h1]
  · simp [probeTaken, hb, probeVal_setProbe, h1]
  · simp [probeTaken, hb, probeVal_setProbe, h2]
  · have hne (x : Nat) (hx : x < 16) : 16 * j + g ≠ 16 * k + x := by omega
    simp only [probeTaken, hb, probeVal_setProbe, hne 0 (by omega), hne 1 (by omega), hne 2 (by omega),
      hne (4 + b) (by omega), if_false]
  · exact (((honly _ _ _).trans (honly _ _ _)).trans (honly _ _ _)).trans (honly _ _ _)

/-! ### The tagger (R548, R549) -/

/-- The tagger freed of an instruction, with its next interval drawn. -/
def tagFreed (s : State) : State := tagDraw { s with pmu := { s.pmu with run := none } }

theorem tagFreed_only (s : State) : Only [.pmu, .freeCtr] s (tagFreed s) := by
  intro q hq
  cases q <;> simp_all [Part.same, tagFreed, tagDraw, State.drawn]

/-- The word of a record, and where it goes. -/
def tagWord (r : TagRun) : Nat :=
  r.dw0.toNat + (r.dt % 2 ^ 64) <<< 64 + (Nat.min r.holdCnt 65535 <<< 48 + Nat.min r.waitCnt 65535 <<< 32
    + Nat.min r.frozenCnt 65535 <<< 16 + Nat.min r.run 65535) <<< 128 + (r.stroke % 2 ^ 64) <<< 192
def tagPlace (s : State) : Nat := (s.rd rPmuTagBase).toNat + s.fld rPmuTagHead 0 32 % tagRing s * 32
/-- Records in the ring that have not been read. -/
def tagUsed (s : State) : Nat := (s.fld rPmuTagHead 0 32 + 2 ^ 32 - s.fld rPmuTagTail 0 32) % 2 ^ 32

theorem exec_tagRecordWrite {s : State} (hclk : s.clocksRun = true) {r : TagRun} (hrun : s.pmu.run = some r)
    (hfin : r.finished = true) : exec .tagRecordWrite s = .next (if tagUsed s = tagRing s
      then (tagFreed s).addSat rPmuTagCtrl 0 16 1
      else (tagPut (tagFreed s) (tagPlace s) (tagWord r)).addWrap rPmuTagHead 0 32) := by
  refine (clocked_run hclk _).trans ?_
  dsimp only
  rw [hrun]
  dsimp only
  rw [if_pos hfin]
  exact (apply_ite Host.Outcome.next _ _ _).symm

/-- A record that is stored. -/
theorem tagStored_frame (s : State) (a v : Nat) :
    let t := (tagPut (tagFreed s) a v).addWrap rPmuTagHead 0 32
    t.pmu.run = none ∧ t.fld rPmuTagHead 0 32 = (s.fld rPmuTagHead 0 32 + 1) % 2 ^ 32
      ∧ ∀ b, b / 64 ≠ a / 64 → t.mem.byte b = s.mem.byte b := by
  obtain ⟨hbyte, hview⟩ := tagPut_frame (tagFreed s) a v
  obtain ⟨hrun, hhead⟩ := Prod.mk.inj hview
  refine ⟨hrun, ?_, hbyte⟩
  rw [State.fld_addWrap_same _ _ _ _ (by decide)]
  exact congrArg (fun w : W64 => (bits w 0 32 + 1) % 2 ^ 32) hhead

/-- Settles O57: the counter by its wrap, the window by what it shows, the record by the line it lies in. That a
record goes where its address maps, and is lost where nothing is mapped, is the model's reading of R42 and R549. -/
theorem performanceCountersComplete : Obligations.PerformanceCountersComplete := by
  intro s hclk
  refine ⟨fun en => ?_, ?_, fun n hen hmax hchain => ?_, fun hen => ?_, fun k => ?_, fun hen hleft hrun => ?_,
    fun r hrun hfin => ⟨fun hfull => ?_, fun hroom => ?_, fun hroom ha hregion hline hvalid => ?_⟩⟩
  · exact ⟨_, clocked_run hclk _, setBit_frame s rPmuCtrl en (by decide)⟩
  · obtain ⟨hcnt, hrd, honly⟩ := pmuClear_frame s
    refine ⟨_, clocked_run hclk _, hcnt, ?_, ?_, honly⟩
    · rw [hrd _ fun n _ => by unfold rPmuOvf rPmuCnt; omega, State.rd_wr_same]
    · rw [hrd _ fun n _ => by unfold rPmuCtrl rPmuCnt; omega, State.rd_wr_other _ _ (by decide)]
  · refine ⟨_, ?_, wrapSignalled_frame n.isLt hen⟩
    refine (clocked_run hclk _).trans ((if_pos (by simp [hen, hmax])).trans ?_)
    rw [countUp_wraps hmax hchain]
  · obtain ⟨hshown, hseq, honly⟩ := windowEnded_frame s
    refine ⟨_, exec_bwWindowEnd hclk hen, fun i hi => ?_, rfl, rfl, ?_, ?_⟩
    · rw [State.rd_addWrap_other _ _ _ (by unfold rPmuBw rPmuBwSeq; omega)]
      exact hshown i hi
    · rw [State.fld_addWrap_same _ _ _ _ (by decide)]
      exact congrArg (fun w : W64 => (bits w 16 16 + 1) % 65536) hseq
    · exact honly.trans ((only_addWrap _ _ _ _).mono (by simp))
  · intro q e hctrl hen hq he
    refine ⟨_, (clocked_run hclk _).trans (if_pos ?_), probeTaken_frame s k.val e.filledCount⟩
    simp [hctrl, q, e] at hen hq he ⊢
    exact ⟨⟨hen, hq⟩, he⟩
  · exact ⟨_, (clocked_run hclk _).trans (if_pos (by simp [hen, hleft, hrun])), rfl, only_pmu s _⟩
  · refine ⟨_, (exec_tagRecordWrite hclk hrun hfin).trans (congrArg _ (if_pos hfull)), rfl, ?_, ?_, ?_⟩
    · exact State.fld_addSat_same _ _ _ _ _ (by decide)
    · exact (OnlyRegs.of_regs _ rfl).trans (onlyRegs_addSat (tagFreed s) _ _ _ (by simp))
    · exact ((tagFreed_only s).mono (by simp)).trans ((only_addSat _ _ _ _ _).mono (by simp))
  · exact ⟨_, (exec_tagRecordWrite hclk hrun hfin).trans (congrArg _ (if_neg hroom)), tagStored_frame s _ _⟩
  · exact ⟨_, (exec_tagRecordWrite hclk hrun hfin).trans (congrArg _ (if_neg hroom)),
      fun b => tagPut_byte (s := tagFreed s) ha hregion hline hvalid b⟩

end Sys2Proof.Machine
end

section
/-! Operating points, droop, sensors, the cap and the limiter (R453 to R471). -/

namespace Sys2Proof.Machine

/-! ### Operating points (R456 to R459) -/

/-- A target set for the operating point, without margin. -/
def pointSet (s : State) (mhz : Nat) : State :=
  { s with pwr := { s.pwr with tgtMhz := mhz, tgtMv := voltOf s mhz, margin := 0 } }

theorem changeDone_shows (s : State) : let t := changeDone s
    t.fld rPwrMode 0 16 = (s.pwr.tgtMv + s.pwr.margin) % 65536 ∧ t.bit rPwrMode 27 = false
      ∧ t.fld rPwrMode 28 2 = s.fld rPwrMode 30 2 ∧ t.fld rPwrMode 16 11 = s.fld rPwrMode 16 11 ∧ t.pwr = s.pwr := by
  refine ⟨?_, ?_, ?_, ?_, rfl⟩
  · rw [changeDone, State.fld_setFld_other _ _ _ _ _ _ _ _ (.inr (by decide)),
      State.fld_setBit_other _ _ _ _ _ _ _ (.inr (by decide)), State.fld_setFld_same _ _ _ _ _ (by decide)]
    rfl
  · rw [changeDone, State.bit_setFld_other _ _ _ _ _ _ _ (by decide) (.inr (by decide)),
      State.bit_setBit_same _ _ _ _ (by decide)]
  · rw [changeDone, State.fld_setFld_same _ _ _ _ _ (by decide)]
    exact Nat.mod_eq_of_lt (State.fld_lt ..)
  · rw [changeDone, State.fld_setFld_other _ _ _ _ _ _ _ _ (.inr (by decide)),
      State.fld_setBit_other _ _ _ _ _ _ _ (.inr (by decide)), State.fld_setFld_other _ _ _ _ _ _ _ _ (.inr (by decide))]

/-- The target is the rate in force, and its voltage may be sent. -/
theorem startChange_done {s : State} {mhz : Nat} (hnow : mhz = s.fld rPwrMode 16 11)
    (hv : s.fld rPwrMode 0 16 ≤ voltOf s mhz ∨ droopCalm s = true) :
    startChange s mhz = changeDone (pointSet s mhz) := by
  unfold startChange
  dsimp only
  rw [if_pos]
  · rfl
  · rw [decide_eq_true hnow, Bool.true_and, Bool.or_eq_true, decide_eq_true_eq]
    exact hv

/-- The regulator has not settled at a voltage that was just sent. -/
def unsettled (u : State) : State := { u with pwr := { u.pwr with settled := false } }

theorem unsettled_bit (u : State) (o i : Nat) : (unsettled u).bit o i = u.bit o i := rfl
theorem unsettled_fld (u : State) (o l n : Nat) : (unsettled u).fld o l n = u.fld o l n := rfl

/-- The change that begins. -/
def changeBegun (s : State) (mhz : Nat) : State :=
  let u := (pointSet s mhz).setBit rPwrMode 27 true
  if s.fld rPwrMode 16 11 < mhz then
    unsettled (u.setFld rPwrMode 0 16 (Nat.max (voltOf s mhz) (u.fld rPwrMode 0 16)))
  else u

theorem startChange_begins {s : State} {mhz : Nat}
    (h : ¬ (mhz = s.fld rPwrMode 16 11 ∧ (s.fld rPwrMode 0 16 ≤ voltOf s mhz ∨ droopCalm s = true))) :
    startChange s mhz = changeBegun s mhz := by
  unfold startChange
  dsimp only
  rw [if_neg]
  · rfl
  · rw [Bool.and_eq_true, Bool.or_eq_true, decide_eq_true_eq, decide_eq_true_eq]
    exact h

theorem changeBegun_shows (s : State) (mhz : Nat) : let t := changeBegun s mhz
    t.bit rPwrMode 27 = true ∧ t.fld rPwrMode 16 11 = s.fld rPwrMode 16 11 ∧ t.pwr.tgtMhz = mhz
      ∧ t.pwr.tgtMv = voltOf s mhz ∧ t.pwr.margin = 0 := by
  have hbit : ((pointSet s mhz).setBit rPwrMode 27 true).bit rPwrMode 27 = true :=
    State.bit_setBit_same _ _ _ _ (by decide)
  have hfld : ((pointSet s mhz).setBit rPwrMode 27 true).fld rPwrMode 16 11 = s.fld rPwrMode 16 11 :=
    State.fld_setBit_other _ _ _ _ _ _ _ (.inr (by decide))
  unfold changeBegun
  dsimp only
  split
  · refine ⟨?_, ?_, rfl, rfl, rfl⟩
    · rw [unsettled_bit, State.bit_setFld_other _ _ _ _ _ _ _ (by decide) (.inr (by decide)), hbit]
    · rw [unsettled_fld, State.fld_setFld_other _ _ _ _ _ _ _ _ (.inr (by decide)), hfld]
  · exact ⟨hbit, hfld, rfl, rfl, rfl⟩

theorem modeRate_le (m : Nat) : modeRate m ≤ 1200 := by
  unfold modeRate
  split <;> decide

theorem voltOf_lt {s : State} {mhz : Nat} (h : mhz ≤ 1200) : voltOf s mhz < 65536 := by
  have hfuse : Nat.min 30 s.boot.fuseMv ≤ 30 := Nat.min_le_left ..
  unfold voltOf
  omega

/-- What a change shows once it has been asked for (R456, R458, R459). -/
theorem startChange_shows (s : State) {mhz : Nat} (h : mhz ≤ 1200) : let t := startChange s mhz
    t.pwr.tgtMhz = mhz ∧ t.pwr.tgtMv = voltOf s mhz ∧ t.pwr.margin = 0
      ∧ t.fld rPwrMode 16 11 = s.fld rPwrMode 16 11
      ∧ (s.fld rPwrMode 16 11 = mhz → (s.fld rPwrMode 0 16 ≤ voltOf s mhz ∨ droopCalm s = true) →
          t.bit rPwrMode 27 = false ∧ t.fld rPwrMode 28 2 = s.fld rPwrMode 30 2 ∧ t.fld rPwrMode 0 16 = voltOf s mhz)
      ∧ (s.fld rPwrMode 16 11 ≠ mhz → t.bit rPwrMode 27 = true) := by
  by_cases hdone : mhz = s.fld rPwrMode 16 11 ∧ (s.fld rPwrMode 0 16 ≤ voltOf s mhz ∨ droopCalm s = true)
  · obtain ⟨hnow, hv⟩ := hdone
    rw [startChange_done hnow hv]
    obtain ⟨hmv, hbusy, hmode, hrate, hpwr⟩ := changeDone_shows (pointSet s mhz)
    exact ⟨congrArg Pwr.tgtMhz hpwr, congrArg Pwr.tgtMv hpwr, congrArg Pwr.margin hpwr, hrate,
      fun _ _ => ⟨hbusy, hmode, hmv.trans (Nat.mod_eq_of_lt (voltOf_lt h))⟩, fun hne => absurd hnow.symm hne⟩
  · rw [startChange_begins hdone]
    obtain ⟨hbusy, hrate, hmhz, hmv, hmargin⟩ := changeBegun_shows s mhz
    exact ⟨hmhz, hmv, hmargin, hrate, fun hnow hv => absurd ⟨hnow.symm, hv⟩ hdone, fun _ => hbusy⟩

/-! ### The steps of a change (R458, R459) -/

/-- The rate after one step toward the target. -/
def rateStepped (s : State) : Nat :=
  if s.fld rPwrMode 16 11 < s.pwr.tgtMhz then Nat.min s.pwr.tgtMhz (s.fld rPwrMode 16 11 + 25)
  else Nat.max s.pwr.tgtMhz (s.fld rPwrMode 16 11 - 25)

def pointStepped (s : State) : State :=
  let u := s.setFld rPwrMode 16 11 (rateStepped s)
  if rateStepped s = s.pwr.tgtMhz then changeDone u else u

theorem exec_frequencyStep {s : State} (hclk : s.clocksRun = true) : exec .frequencyStep s = .next
    (if s.bit rPwrMode 27 && droopCalm s && (decide (s.pwr.tgtMhz ≤ s.fld rPwrMode 16 11) || s.pwr.settled)
      then pointStepped s else s) := by
  refine (clocked_run hclk _).trans ?_
  split <;> rfl

theorem frequencyStep_waits {s : State} (hclk : s.clocksRun = true) (h : droopCalm s = false
    ∨ (decide (s.pwr.tgtMhz ≤ s.fld rPwrMode 16 11) || s.pwr.settled) = false) : exec .frequencyStep s = .next s := by
  rw [exec_frequencyStep hclk, if_neg]
  obtain h | h := h <;> rw [h] <;> simp

theorem pointStepped_shows {s : State} (hbusy : s.bit rPwrMode 27 = true) (ht : s.pwr.tgtMhz < 2048) :
    let t := pointStepped s
    t.fld rPwrMode 16 11 = rateStepped s
      ∧ (rateStepped s = s.pwr.tgtMhz → t.bit rPwrMode 27 = false ∧ t.fld rPwrMode 28 2 = s.fld rPwrMode 30 2)
      ∧ (rateStepped s ≠ s.pwr.tgtMhz → t.bit rPwrMode 27 = true)
      ∧ OnlyRegs [rPwrMode] s t ∧ Only [.regs] s t := by
  have hlt : rateStepped s < 2 ^ 11 := by
    have hnow : s.fld rPwrMode 16 11 < 2 ^ 11 := State.fld_lt ..
    unfold rateStepped
    split
    · exact Nat.lt_of_le_of_lt (Nat.min_le_left ..) ht
    · exact Nat.max_lt.2 ⟨ht, by omega⟩
  have hrate : (s.setFld rPwrMode 16 11 (rateStepped s)).fld rPwrMode 16 11 = rateStepped s :=
    (State.fld_setFld_same _ _ _ _ _ (by decide)).trans (Nat.mod_eq_of_lt hlt)
  have hregs := onlyRegs_setFld s 16 11 (rateStepped s) (o := rPwrMode) (l := [rPwrMode]) (by simp)
  have honly := only_setFld s rPwrMode 16 11 (rateStepped s)
  unfold pointStepped
  dsimp only
  split
  case isTrue hdone =>
    obtain ⟨-, hbit, hmode, hkeep, -⟩ := changeDone_shows (s.setFld rPwrMode 16 11 (rateStepped s))
    refine ⟨hkeep.trans hrate, fun _ => ⟨hbit, hmode.trans ?_⟩, fun hne => absurd hdone hne,
      hregs.trans (changeDone_moves _).regs, honly.trans ?_⟩
    · exact State.fld_setFld_other _ _ _ _ _ _ _ _ (.inr (by decide))
    · exact ((only_setFld _ _ _ _ _).trans (only_setBit _ _ _ _)).trans (only_setFld _ _ _ _ _)
  case isFalse hmore =>
    refine ⟨hrate, fun hdone => absurd hdone hmore, fun _ => ?_, hregs, honly⟩
    exact (State.bit_setFld_other _ _ _ _ _ _ _ (by decide) (.inr (by decide))).trans hbusy

/-! ### Droop (R459, R468, R469) -/

/-- A well frozen by a detector. -/
def wellDrooped (x : Well) (d : Nat) : Well :=
  { x with
    droop := x.droop ||| (1 : BitVec 16) <<< d
    droopCycles := if x.droop = 0 then 0 else x.droopCycles
    trips := x.trips + 1, frozen := true, cause := 4 }

def droopTripped (s : State) (w d : Nat) : State :=
  ((s.setWell w (wellDrooped (s.well w) d)).addSat (rPwrDroopCnt w) 0 32 1).setBit rPwrStatus 28 true

theorem bitAt_droop (x : BitVec 16) {d : Nat} (h : d < 16) :
    bitAt ((x ||| (1 : BitVec 16) <<< d).setWidth 64) d = true := by
  have hd : d < 64 := by omega
  simp [bitAt, h, hd]

theorem droopTripped_shows (s : State) {w d : Nat} (hw : w < 8) : let t := droopTripped s w d
    t.well w = wellDrooped (s.well w) d
      ∧ t.fld (rPwrDroopCnt w) 0 32 = Nat.min (s.fld (rPwrDroopCnt w) 0 32 + 1) (2 ^ 32 - 1)
      ∧ (∀ v, v ≠ w → t.well v = s.well v) ∧ OnlyRegs [rPwrDroopCnt w, rPwrStatus] s t ∧ Only [.wells, .regs] s t := by
  have hne : rPwrDroopCnt w ≠ rPwrStatus := by unfold rPwrDroopCnt rPwrStatus; omega
  refine ⟨State.well_setWell_same .., ?_, fun v hv => State.well_setWell_other _ _ hv, ?_, ?_⟩
  · rw [droopTripped, State.fld_setBit_other _ _ _ _ _ _ _ (.inl hne), State.fld_addSat_same _ _ _ _ _ (by decide)]
    rfl
  · exact ((OnlyRegs.of_regs _ rfl).trans (onlyRegs_addSat (s.setWell w _) _ _ _ (by simp))).trans
      (onlyRegs_setBit _ _ _ (by simp))
  · exact (((only_wells s _).mono (by simp)).then_wr _ _ (by simp)).then_wr _ _ (by simp)

def droopCleared (s : State) (w : Nat) : State :=
  let u := s.setWell w { s.well w with droop := 0, droopCycles := 0 }
  let v := u.setBit rPwrStatus 28 (anyDroop u)
  { v with pwr := { v.pwr with droopHold := v.clk + 1000 } }

theorem droopCleared_shows (s : State) (w : Nat) : let t := droopCleared s w
    (t.well w).droop = 0 ∧ t.pwr.droopHold = s.clk + 1000 ∧ (∀ v, v ≠ w → t.well v = s.well v)
      ∧ OnlyRegs [rPwrStatus] s t ∧ Only [.wells, .regs, .pwr] s t := by
  refine ⟨?_, rfl, fun v hv => State.well_setWell_other s _ hv, ?_, ?_⟩
  · exact congrArg Well.droop (State.well_setWell_same s w _)
  · exact ((OnlyRegs.of_regs _ rfl).trans (onlyRegs_setBit (s.setWell w _) _ _ (by simp))).trans (.of_regs _ rfl)
  · exact (((only_wells s _).mono (by simp)).then_wr _ _ (by simp)).trans ((only_pwr _ _).mono (by simp))

/-- The last window that added margin is a millisecond past. -/
def marginFresh (s : State) : Prop := ∀ k, s.pwr.marginDt = some k → k + 1000000 ≤ s.clk

def marginAdded (s : State) (w : Nat) : State :=
  let u := (s.setWell w { s.well w with trips := 0 }).setFld rPwrMode 0 16 (s.fld rPwrMode 0 16 + 10)
  { u with pwr := { u.pwr with margin := s.pwr.margin + 10, marginDt := some s.clk } }

theorem exec_droopMarginWindow_adds {s : State} (hclk : s.clocksRun = true) {w : WellIx}
    (htrips : 1000 < (s.well w.val).trips) (hroom : s.pwr.margin < 30) (hfresh : marginFresh s) :
    exec (.droopMarginWindow w) s = .next (marginAdded s w.val) := by
  refine (clocked_run hclk _).trans (if_pos ?_)
  rw [decide_eq_true htrips, decide_eq_true hroom]
  cases hdt : s.pwr.marginDt with
  | none => rfl
  | some k => exact decide_eq_true (hfresh k hdt)

theorem exec_droopMarginWindow_ends {s : State} (hclk : s.clocksRun = true) {w : WellIx}
    (h : (s.well w.val).trips ≤ 1000 ∨ 30 ≤ s.pwr.margin) :
    exec (.droopMarginWindow w) s = .next (s.setWell w.val { s.well w.val with trips := 0 }) := by
  refine (clocked_run hclk _).trans (if_neg ?_)
  obtain h | h := h
  · rw [decide_eq_false (Nat.not_lt.2 h)]
    simp
  · rw [decide_eq_false (Nat.not_lt.2 h), Bool.and_false]
    simp

theorem marginAdded_shows {s : State} (w : Nat) (h : s.fld rPwrMode 0 16 < 65000) : let t := marginAdded s w
    (t.well w).trips = 0 ∧ t.pwr.margin = s.pwr.margin + 10 ∧ t.fld rPwrMode 0 16 = s.fld rPwrMode 0 16 + 10
      ∧ OnlyRegs [rPwrMode] s t ∧ Only [.wells, .regs, .pwr] s t := by
  refine ⟨congrArg Well.trips (State.well_setWell_same s w _), rfl, ?_, ?_, ?_⟩
  · exact (State.fld_setFld_same _ _ _ _ _ (by decide)).trans (Nat.mod_eq_of_lt (by omega))
  · exact ((OnlyRegs.of_regs _ rfl).trans (onlyRegs_setFld (s.setWell w _) _ _ _ (by simp))).trans (.of_regs _ rfl)
  · exact (((only_wells s _).mono (by simp)).then_wr _ _ (by simp)).trans ((only_pwr _ _).mono (by simp))

/-! ### Sensors (R454) -/

theorem sensorFitted_of_rd {s t : State} (h : t.rd rCapUnits = s.rd rCapUnits) (n : Nat) :
    sensorFitted t n = sensorFitted s n := by
  simp only [sensorFitted, State.hasWell, State.hasMc, State.hasSc, State.hasUcie, State.bit, State.fld, h]

section Reading

variable (s : State) {n : Nat} (r : Reading)

/-- A reading changes no register but its own, the status of the sensors and those of the log. -/
theorem takeReading_rd {o : Nat} (htemp : o ≠ rPwrTemp n) (hstatus : o ≠ rPwrStatus) (hhead : o ≠ rErrHead)
    (herr : o ≠ rErrStatus) : (takeReading s n r).rd o = s.rd o := by
  have hfailed : ((s.setBit (rPwrTemp n) 31 false).setBit rPwrStatus 27 true).rd o = s.rd o := by
    rw [State.rd_setBit_other _ _ _ hstatus, State.rd_setBit_other _ _ _ htemp]
  unfold takeReading
  dsimp only
  split
  · exact State.rd_wr_other _ _ htemp
  · split
    · exact State.rd_wr_other _ _ htemp
    · split
      · exact hfailed
      · exact (logEntry_rd _ _ _ _ _ hhead herr).trans hfailed

theorem takeReading_hotOnce {j : Nat} (hj : j < 64) (h : j ≠ n) :
    bitAt (takeReading s n r).pwr.hotOnce j = bitAt s.pwr.hotOnce j := by
  have hput (x : Nat) : bitAt (putBits s.pwr.hotOnce n 1 x) j = bitAt s.pwr.hotOnce j :=
    (bitAt_putBits _ _ _ _ _ hj).trans (if_neg (by omega))
  unfold takeReading
  dsimp only
  split
  · rfl
  · split
    · exact hput _
    · split
      · exact hput _
      · exact (congrArg (fun p : Pwr => bitAt p.hotOnce j) (logEntry_pwr ..)).trans (hput _)

theorem takeReading_only : Only (.pwr :: logParts) s (takeReading s n r) := by
  have hwr (o : Nat) (v : W64) : Only (.pwr :: logParts) s (s.wr o v) := (only_wr s o v).mono (by simp [logParts])
  unfold takeReading
  dsimp only
  split
  · exact hwr _ _
  · split
    · exact (hwr _ _).trans ((only_pwr _ _).mono (by simp))
    · have hfailed (x : Pwr) := ((hwr (rPwrTemp n) _).then_wr rPwrStatus _ (by simp [logParts])).trans
        ((only_pwr ((s.setBit (rPwrTemp n) 31 false).setBit rPwrStatus 27 true) x).mono (by simp))
      split
      · exact hfailed _
      · exact (hfailed _).trans ((logEntry_only _ _ _ _ _).mono (by simp [logParts]))

end Reading

/-- What a good reading of sensor n shows. -/
def readingShown (s : State) (n : Nat) (r : Reading) : Prop :=
  s.rd (rPwrTemp n) = BitVec.ofNat 64 (2 ^ 31 + r.t.toNat)
    ∧ bitAt s.pwr.hotOnce n = decide (2000 ≤ signedOf 16 r.t.toNat)

theorem takeReading_good {s : State} {n : Nat} {r : Reading} (hn : n < 64) (hfit : sensorFitted s n = true)
    (hok : r.ok = true) : readingShown (takeReading s n r) n r := by
  unfold takeReading
  dsimp only
  rw [if_neg (by simp [hfit]), if_pos hok]
  refine ⟨State.rd_wr_same .., (bitAt_putBits _ _ _ _ _ hn).trans ?_⟩
  cases decide (2000 ≤ signedOf 16 r.t.toNat) <;> simp [b2n]

/-- Sensors read one after another. -/
def readAll (f : Nat → Reading) (l : List Nat) (s : State) : State := l.foldl (fun u n => takeReading u n (f n)) s

theorem readAll_good (f : Nat → Reading) {l : List Nat} (hl : ∀ j ∈ l, j < 64) {s : State} {n : Nat} (hn : n < 64)
    (hfit : sensorFitted s n = true) (hok : (f n).ok = true) (h : n ∈ l ∨ readingShown s n (f n)) :
    readingShown (readAll f l s) n (f n) := by
  induction l generalizing s with
  | nil => exact h.resolve_left (by simp)
  | cons j r ih =>
    have hj := hl j (by simp)
    have hunits : (takeReading s j (f j)).rd rCapUnits = s.rd rCapUnits :=
      takeReading_rd s _ (by unfold rCapUnits rPwrTemp; omega) (by decide) (by decide) (by decide)
    refine ih (fun k hk => hl k (by simp [hk])) ((sensorFitted_of_rd hunits n).trans hfit) ?_
    by_cases hnj : n = j
    · subst hnj
      exact .inr (takeReading_good hn hfit hok)
    · obtain h | ⟨htemp, hhot⟩ := h
      · exact .inl ((List.mem_cons.1 h).resolve_left hnj)
      · refine .inr ⟨(takeReading_rd s _ ?_ ?_ ?_ ?_).trans htemp, (takeReading_hotOnce s _ hn hnj).trans hhot⟩
        · unfold rPwrTemp; omega
        · unfold rPwrTemp rPwrStatus; omega
        · unfold rPwrTemp rErrHead; omega
        · unfold rPwrTemp rErrStatus; omega

theorem readAll_only (f : Nat → Reading) (l : List Nat) (s : State) : Only (.pwr :: logParts) s (readAll f l s) :=
  foldl_only _ (fun u n => takeReading_only u (f n)) l s

/-- The state once `PWR_TMAX` names the hottest sensor. -/
def hottestShown (s : State) : State :=
  match hottest s with
  | some (n, t) => s.wr rPwrTmax (BitVec.ofNat 64 (n <<< 16 + codeOfInt 16 t))
  | none => s

theorem exec_sensorSample {s : State} (hpow : s.powerUp = true) (r : List Reading) : exec (.sensorSample r) s
    = .next (hottestShown (readAll (fun n => r.getD n ⟨false, 0⟩) (List.range 64) s)) := by
  refine (powered_run hpow _).trans ?_
  generalize hread : readAll (fun n => r.getD n ⟨false, 0⟩) (List.range 64) s = u
  unfold readAll at hread
  rw [hread, hottestShown]
  rcases hottest u with _ | ⟨n, t⟩ <;> rfl

theorem hottestShown_frame (s : State) : (∀ o, o ≠ rPwrTmax → (hottestShown s).rd o = s.rd o)
    ∧ Only [.regs] s (hottestShown s) ∧ (hottestShown s).pwr = s.pwr := by
  unfold hottestShown
  split
  · exact ⟨fun o ho => State.rd_wr_other _ _ ho, only_wr _ _ _, rfl⟩
  · exact ⟨fun _ _ => rfl, Only.refl _ s, rfl⟩

/-! ### The issue rate g (R461, R465 to R467, R470) -/

/-- The lesser of the two parts of g is written back; nothing else of `PWR_STATUS` changes. -/
theorem gUpdate_shows (s : State) : let t := gUpdate s
    t.fld rPwrStatus 16 7 = Nat.min (s.fld rPwrStatus 8 7) (s.fld rPwrStatus 0 7)
      ∧ t.fld rPwrStatus 8 7 = s.fld rPwrStatus 8 7 ∧ t.fld rPwrStatus 0 7 = s.fld rPwrStatus 0 7
      ∧ (∀ i, 23 ≤ i → i < 64 → t.bit rPwrStatus i = s.bit rPwrStatus i)
      ∧ OnlyRegs [rPwrStatus] s t ∧ Only [.regs, .pwr] s t ∧ t.pwr.samples = s.pwr.samples := by
  have hg : Nat.min (s.fld rPwrStatus 8 7) (s.fld rPwrStatus 0 7) < 2 ^ 7 :=
    Nat.lt_of_le_of_lt (Nat.min_le_left ..) (State.fld_lt ..)
  refine ⟨?_, ?_, ?_, fun i hi hi' => ?_, ?_, ?_, rfl⟩
  · exact (State.fld_setFld_same s _ _ _ _ (by decide)).trans (Nat.mod_eq_of_lt hg)
  · exact State.fld_setFld_other s _ _ _ _ _ _ _ (.inr (by decide))
  · exact State.fld_setFld_other s _ _ _ _ _ _ _ (.inr (by decide))
  · exact State.bit_setFld_other s _ _ _ _ _ _ hi' (.inr (.inr hi))
  · exact (onlyRegs_setFld s 16 7 _ (by simp)).trans (.of_regs _ rfl)
  · exact ((only_setFld s rPwrStatus 16 7 _).mono (by simp)).trans ((only_pwr _ _).mono (by simp))

/-- The power shown, with its average over the samples of 1 ms. -/
def powerShown (s : State) (p : Nat) : State :=
  let u := { s with pwr := { s.pwr with samples := (p :: s.pwr.samples).take 31 } }
  (u.setFld rPwrPower 0 16 p).setFld rPwrPower 16 16
    (((p :: s.pwr.samples).take 31).sum / ((p :: s.pwr.samples).take 31).length)

/-- The part of g that the cap sets. -/
def capPart (s : State) (p : Nat) : Nat :=
  if !s.bit rPwrCap 31 then 64
  else if capWatts s * 10 < p then Nat.max 1 (s.fld rPwrStatus 8 7 - 4)
  else if s.bit rPwrStatus 31 then s.fld rPwrStatus 8 7
  else if 100 * p < 97 * (capWatts s * 10) then Nat.min 64 (s.fld rPwrStatus 8 7 + 1) else s.fld rPwrStatus 8 7

/-- Since when the cap has been unmet at the floor, and since when it has been met. -/
def capTimed (s : State) (p c g : Nat) : State :=
  let floor := s.bit rPwrCap 31 && g == 1 && s.fld rPwrMode 16 11 == 400 && decide (c < p)
  { s with pwr := { s.pwr with
    unmetSince := if floor then some (s.pwr.unmetSince.getD s.clk) else none
    metSince := if p ≤ c then some (s.pwr.metSince.getD s.clk) else none } }

/-- An unmet cap that has been met for 10 ms clears. -/
def capMet (s : State) : State :=
  match s.pwr.metSince with
  | some t => if s.bit rPwrStatus 31 && decide (t + 10000000 ≤ s.clk) then s.setBit rPwrStatus 31 false else s
  | none => s

/-- The same as an outcome. -/
def capMetNext (s : State) : Out :=
  match s.pwr.metSince with
  | some t => .next (if s.bit rPwrStatus 31 && decide (t + 10000000 ≤ s.clk) then s.setBit rPwrStatus 31 false else s)
  | none => .next s

theorem capMetNext_eq (s : State) : capMetNext s = .next (capMet s) := by
  unfold capMetNext capMet
  cases s.pwr.metSince <;> rfl

def powerMeasured (s : State) (p : Nat) : State :=
  let u := powerShown s p
  capMet (capTimed (gUpdate (u.setFld rPwrStatus 8 7 (capPart u p))) p (capWatts u * 10) (capPart u p))

theorem exec_powerMeasure {s : State} (hclk : s.clocksRun = true) (mv ma : Nat) : exec (.powerMeasure mv ma) s
    = .next (powerMeasured s (Nat.min 65535 (mv * ma / 100000 + s.fld rPwrCap 9 7 * 10))) := by
  refine (clocked_run hclk _).trans ?_
  exact capMetNext_eq _

theorem powerShown_shows (s : State) {p : Nat} (hp : p ≤ 65535) : let t := powerShown s p
    t.fld rPwrPower 0 16 = p
      ∧ t.fld rPwrPower 16 16
        = ((p :: s.pwr.samples).take 31).sum / ((p :: s.pwr.samples).take 31).length % 65536
      ∧ t.pwr.samples = (p :: s.pwr.samples).take 31 ∧ OnlyRegs [rPwrPower] s t ∧ Only [.regs, .pwr] s t := by
  refine ⟨?_, State.fld_setFld_same _ _ _ _ _ (by decide), rfl, ?_, ?_⟩
  · rw [powerShown, State.fld_setFld_other _ _ _ _ _ _ _ _ (.inr (by decide)), State.fld_setFld_same _ _ _ _ _ (by decide)]
    exact Nat.mod_eq_of_lt (by omega)
  · exact ((OnlyRegs.of_regs _ rfl).trans (onlyRegs_setFld
      { s with pwr := { s.pwr with samples := (p :: s.pwr.samples).take 31 } } 0 16 p (by simp))).trans
      (onlyRegs_setFld _ _ _ _ (by simp))
  · exact (((only_pwr s _).mono (by simp)).then_wr _ _ (by simp)).then_wr _ _ (by simp)

theorem capTimed_shows (s : State) (p c g : Nat) :
    (capTimed s p c g).regs = s.regs ∧ (capTimed s p c g).pwr.samples = s.pwr.samples
      ∧ Only [.pwr] s (capTimed s p c g) := ⟨rfl, rfl, only_pwr s _⟩

theorem capMet_shows (s : State) : let t := capMet s
    (∀ lo n, lo + n ≤ 31 → t.fld rPwrStatus lo n = s.fld rPwrStatus lo n) ∧ OnlyRegs [rPwrStatus] s t
      ∧ Only [.regs] s t ∧ t.pwr = s.pwr := by
  have hkept : (∀ lo n, lo + n ≤ 31 → s.fld rPwrStatus lo n = s.fld rPwrStatus lo n) ∧ OnlyRegs [rPwrStatus] s s
      ∧ Only [.regs] s s ∧ s.pwr = s.pwr := ⟨fun _ _ _ => rfl, .refl _ s, Only.refl _ s, rfl⟩
  unfold capMet
  dsimp only
  split
  · split
    · exact ⟨fun lo n h => State.fld_setBit_other _ _ _ _ _ _ _ (.inr (by omega)), onlyRegs_setBit s _ _ (by simp),
        only_setBit s _ _ _, rfl⟩
    · exact hkept
  · exact hkept

/-- What a measurement of the power shows (R464, R465). -/
theorem powerMeasured_shows (s : State) {p : Nat} (hp : p ≤ 65535) : let t := powerMeasured s p
    t.fld rPwrPower 0 16 = p ∧ t.pwr.samples = (p :: s.pwr.samples).take 31
      ∧ t.fld rPwrPower 16 16 = ((p :: s.pwr.samples).take 31).sum / ((p :: s.pwr.samples).take 31).length % 65536
      ∧ t.fld rPwrStatus 8 7 = capPart (powerShown s p) p % 2 ^ 7
      ∧ t.fld rPwrStatus 16 7 = Nat.min (t.fld rPwrStatus 8 7) (s.fld rPwrStatus 0 7)
      ∧ OnlyRegs [rPwrPower, rPwrStatus] s t ∧ Only [.regs, .pwr] s t := by
  obtain ⟨hpow, havg, hsamples, hregs1, honly1⟩ := powerShown_shows s hp
  have hset := State.fld_setFld_same (powerShown s p) rPwrStatus 8 7 (capPart (powerShown s p) p) (by decide)
  have hregs2 := onlyRegs_setFld (powerShown s p) 8 7 (capPart (powerShown s p) p) (o := rPwrStatus)
    (l := [rPwrStatus]) (by simp)
  have honly2 := only_setFld (powerShown s p) rPwrStatus 8 7 (capPart (powerShown s p) p)
  have htherm : ((powerShown s p).setFld rPwrStatus 8 7 (capPart (powerShown s p) p)).fld rPwrStatus 0 7
      = s.fld rPwrStatus 0 7 :=
    (State.fld_setFld_other _ _ _ _ _ _ _ _ (.inr (by decide))).trans (hregs1.fld (by decide) 0 7)
  have hsamples2 : ((powerShown s p).setFld rPwrStatus 8 7 (capPart (powerShown s p) p)).pwr.samples
      = (p :: s.pwr.samples).take 31 := hsamples
  unfold powerMeasured
  dsimp only
  generalize (powerShown s p).setFld rPwrStatus 8 7 (capPart (powerShown s p) p) = u at *
  obtain ⟨hg, hcap, -, -, hregs3, honly3, hsamples3⟩ := gUpdate_shows u
  obtain ⟨hregs4, hsamples4, honly4⟩ := capTimed_shows (gUpdate u) p (capWatts (powerShown s p) * 10)
    (capPart (powerShown s p) p)
  generalize capTimed (gUpdate u) p (capWatts (powerShown s p) * 10) (capPart (powerShown s p) p) = v at *
  obtain ⟨hfld, hregs5, honly5, hpwr⟩ := capMet_shows v
  have hv (o lo n : Nat) : v.fld o lo n = (gUpdate u).fld o lo n :=
    congrArg (bits · lo n) (State.rd_of_regs hregs4 o)
  have hlate : OnlyRegs [rPwrStatus] (powerShown s p) (capMet v) :=
    ((hregs2.trans hregs3).trans (.of_regs _ hregs4)).trans hregs5
  have hcapT : (capMet v).fld rPwrStatus 8 7 = u.fld rPwrStatus 8 7 :=
    (hfld 8 7 (by decide)).trans ((hv ..).trans hcap)
  refine ⟨?_, ?_, ?_, hcapT.trans hset, ?_, ?_, ?_⟩
  · exact (hlate.fld (by decide) 0 16).trans hpow
  · exact (congrArg Pwr.samples hpwr).trans (hsamples4.trans (hsamples3.trans hsamples2))
  · exact (hlate.fld (by decide) 16 16).trans havg
  · rw [hcapT, ← htherm]
    exact (hfld 16 7 (by decide)).trans ((hv ..).trans hg)
  · exact (hregs1.mono (by simp)).trans (hlate.mono (by simp))
  · exact (((honly1.trans (honly2.mono (by simp))).trans honly3).trans (honly4.mono (by simp))).trans
      (honly5.mono (by simp))

/-- The part of g that the temperature sets (R470). -/
def thermPart (s : State) : Nat :=
  let tc := Nat.min 115 (Nat.max 60 (s.fld rPwrThrot 24 8))
  let t := signedOf 16 (s.fld rPwrTmax 0 16)
  let g := s.fld rPwrStatus 0 7
  if (tc : Int) * 16 ≤ t then Nat.max 1 (g - 2)
  else if t ≤ ((tc : Int) - s.fld rPwrThrot 0 4) * 16 then Nat.min 64 (g + 1) else g

def thermSet (s : State) : State :=
  (s.setFld rPwrStatus 0 7 (thermPart s)).setBit rPwrStatus 29 (decide (thermPart s < 64))

theorem thermPart_lt (s : State) : thermPart s < 2 ^ 7 := by
  have hg : s.fld rPwrStatus 0 7 < 2 ^ 7 := State.fld_lt ..
  unfold thermPart
  dsimp only
  split
  · exact Nat.max_lt.2 ⟨by decide, by omega⟩
  · split
    · exact Nat.lt_of_le_of_lt (Nat.min_le_left ..) (by decide)
    · exact hg

theorem exec_thermalUpdate {s : State} (hclk : s.clocksRun = true) :
    exec .thermalUpdate s = .next (gUpdate (thermSet s)) := clocked_run hclk _

theorem thermalUpdate_shows (s : State) : let t := gUpdate (thermSet s)
    t.fld rPwrStatus 0 7 = thermPart s
      ∧ t.fld rPwrStatus 16 7 = Nat.min (s.fld rPwrStatus 8 7) (thermPart s)
      ∧ t.bit rPwrStatus 29 = decide (thermPart s < 64) ∧ OnlyRegs [rPwrStatus] s t ∧ Only [.regs, .pwr] s t := by
  have hset : (thermSet s).fld rPwrStatus 0 7 = thermPart s := by
    rw [thermSet, State.fld_setBit_other _ _ _ _ _ _ _ (.inr (by decide)), State.fld_setFld_same _ _ _ _ _ (by decide)]
    exact Nat.mod_eq_of_lt (thermPart_lt s)
  have hcap : (thermSet s).fld rPwrStatus 8 7 = s.fld rPwrStatus 8 7 := by
    rw [thermSet, State.fld_setBit_other _ _ _ _ _ _ _ (.inr (by decide)),
      State.fld_setFld_other _ _ _ _ _ _ _ _ (.inr (by decide))]
  have hbit : (thermSet s).bit rPwrStatus 29 = decide (thermPart s < 64) := State.bit_setBit_same _ _ _ _ (by decide)
  have hregs : OnlyRegs [rPwrStatus] s (thermSet s) :=
    (onlyRegs_setFld s _ _ _ (by simp)).trans (onlyRegs_setBit _ _ _ (by simp))
  have honly : Only [.regs] s (thermSet s) := (only_setFld s _ _ _ _).trans (only_setBit _ _ _ _)
  obtain ⟨hg, -, htherm, hbits, hregs', honly', -⟩ := gUpdate_shows (thermSet s)
  exact ⟨htherm.trans hset, hg.trans (by rw [hcap, hset]), (hbits 29 (by decide) (by decide)).trans hbit,
    hregs.trans hregs', (honly.mono (by simp)).trans honly'⟩

/-! ### The rules of the management processor for the operating point (R466, R467) -/

theorem exec_operatingPointDecision_waits {s : State} (hclk : s.clocksRun = true) (h : s.mpTurn 4 = false) :
    exec .operatingPointDecision s = .next s := (clocked_run hclk _).trans (if_pos (by simp [h]))

theorem exec_operatingPointDecision_lowers {s : State} (hclk : s.clocksRun = true) {k : Nat} (hturn : s.mpTurn 4 = true)
    (hbusy : s.bit rPwrMode 27 = false) (hlow : s.pwr.gLowSince = some k) (hlong : k + 10000000 ≤ s.clk)
    (hrate : 400 < s.fld rPwrMode 16 11) : exec .operatingPointDecision s
      = .next (startChange s (Nat.max 400 (s.fld rPwrMode 16 11 - 50))) := by
  refine (clocked_run hclk _).trans ((if_neg (by simp [hturn, hbusy])).trans ?_)
  dsimp only
  rw [hlow]
  exact if_pos (by simp [hlong, hrate])

theorem exec_capUnmetDetect {s : State} (hclk : s.clocksRun = true) {k : Nat} (hunmet : s.pwr.unmetSince = some k)
    (hlong : k + 10000000 ≤ s.clk) (hnew : s.bit rPwrStatus 31 = false) : exec .capUnmetDetect s
      = .next (logOnly ((s.setBit rPwrStatus 31 true).setBit rPwrStatus 30 true)
          (mkFault stCapUnmet 0xB 0 0 (s.fld rPwrPower 0 16))) := by
  refine (clocked_run hclk _).trans ?_
  rw [hunmet]
  exact if_pos ⟨hlong, by simp [hnew]⟩

theorem capUnmet_shows (s : State) (f : FaultInfo) :
    let t := logOnly ((s.setBit rPwrStatus 31 true).setBit rPwrStatus 30 true) f
    t.bit rPwrStatus 31 = true ∧ t.bit rPwrStatus 30 = true ∧ Logged s t f 0 none none ∧ Only logParts s t := by
  have hkept (i : Nat) := logEntry_bit ((s.setBit rPwrStatus 31 true).setBit rPwrStatus 30 true) f 0 none none
    rPwrStatus i (by decide) (.inl (by decide))
  refine ⟨(hkept 31).trans ?_, (hkept 30).trans (State.bit_setBit_same _ _ _ _ (by decide)),
    logEntry_logged s _ f 0 none none ?_ rfl, ?_⟩
  · rw [State.bit_setBit_other _ _ _ _ _ _ (by decide) (.inr (by decide)), State.bit_setBit_same _ _ _ _ (by decide)]
  · rw [State.fld_setBit_other _ _ _ _ _ _ _ (.inl (by decide)), State.fld_setBit_other _ _ _ _ _ _ _ (.inl (by decide))]
  · exact (((only_setBit s _ _ _).trans (only_setBit _ _ _ _)).mono (by simp [logParts])).trans (logEntry_only _ f _ _ _)

/-! ### The thermal trip (R471, R481) -/

/-- The record of a trip: held, with the code, the sensor and its reading. -/
def tripWord (n : Nat) (v : BitVec 16) : W64 :=
  BitVec.ofNat 64 (1 <<< 31 + stThermalTrip <<< 16 + n <<< 10 + (v.toNat / 4) % 1024)

theorem tripWord_shows {n : Nat} (hn : n < 64) (v : BitVec 16) : bitAt (tripWord n v) 31 = true
    ∧ bits (tripWord n v) 10 6 = n ∧ bits (tripWord n v) 16 8 = stThermalTrip := by
  have hval : (tripWord n v).toNat = 2 ^ 31 + 0x39 * 2 ^ 16 + n * 2 ^ 10 + (v.toNat / 4) % 1024 := by
    rw [tripWord, BitVec.toNat_ofNat]
    simp only [Nat.shiftLeft_eq, stThermalTrip]
    omega
  refine ⟨?_, ?_, ?_⟩
  · rw [bitAt, ← BitVec.testBit_toNat, hval, Nat.testBit_eq_decide_div_mod_eq]
    exact decide_eq_true (by omega)
  · rw [bits, hval, Nat.shiftRight_eq_div_pow]
    omega
  · rw [bits, hval, Nat.shiftRight_eq_div_pow, stThermalTrip]
    omega

/-- The state of a trip that has been latched. -/
def tripLatched (s : State) (n : Nat) (v : BitVec 16) : State :=
  let u := s.wr rHiTrip (tripWord n v)
  { u with pwr := { u.pwr with tripPin := false } }

theorem State.tripped_of_clocksRun {s : State} (h : s.clocksRun = true) : s.tripped = false := by
  simp only [State.clocksRun, Bool.and_eq_true, Bool.not_eq_true'] at h
  exact h.1.2

theorem exec_thermalTrip {s : State} (hclk : s.clocksRun = true) {n : Fin 64} {v : BitVec 16}
    (hfit : sensorFitted s n.val = true) (hhot : bitAt s.pwr.hotOnce n.val = true) (hagain : 2000 ≤ signedOf 16 v.toNat) :
    exec (.thermalTrip n v) s = .next (devFault (tripLatched s n.val v) (mkFault stThermalTrip 0xB n.val)) := by
  refine (powered_run (State.powerUp_of_clocksRun hclk) _).trans (if_pos ?_)
  simp [State.tripped_of_clocksRun hclk, hfit, hhot, hagain]

theorem tripLatched_shows (s : State) {n : Nat} (hn : n < 64) (v : BitVec 16) (f : FaultInfo) :
    let t := devFault (tripLatched s n v) f
    t.tripped = true ∧ t.clocksRun = false ∧ t.pwr.tripPin = false ∧ t.bit rErrStatus 31 = true
      ∧ t.fld rHiTrip 10 6 = n ∧ t.fld rHiTrip 16 8 = stThermalTrip ∧ Logged s t f 3 none none
      ∧ Only (.pwr :: logParts) s t := by
  have hword : (devFault (tripLatched s n v) f).rd rHiTrip = tripWord n v :=
    (devFault_rd _ f (by decide) (by decide)).trans (State.rd_wr_same ..)
  obtain ⟨hheld, hsensor, hcode⟩ := tripWord_shows hn v
  have hheld' : (devFault (tripLatched s n v) f).tripped = true := (congrArg (bitAt · 31) hword).trans hheld
  refine ⟨hheld', ?_, ?_, (devFault_status _ f).1, ?_, ?_, devFault_logged s _ f ?_ rfl, ?_⟩
  · simp [State.clocksRun, hheld']
  · exact (congrArg Pwr.tripPin ((devFault_only (tripLatched s n v) f) .pwr rfl) :)
  · exact (congrArg (bits · 10 6) hword).trans hsensor
  · exact (congrArg (bits · 16 8) hword).trans hcode
  · exact congrArg (bits · 0 32) (State.rd_wr_other s _ (by decide))
  · exact (((only_wr s _ _).mono (by simp [logParts])).trans ((only_pwr _ _).mono (by simp))).trans
      ((devFault_only _ f).mono (by simp [logParts]))

/-! ### The issue-rate limiter (R463) -/

/-- A slice written through its well. -/
theorem slc_setSlice (s : State) (w i : Nat) (y : Slice) : (s.setWell w ((s.well w).setSlice i y)).slc w i = y := by
  rw [State.slc, State.well_setWell_same, Well.slice_setSlice]

theorem slc_setSlice_other (s : State) {w i v j : Nat} (y : Slice) (h : v ≠ w ∨ j ≠ i) :
    (s.setWell w ((s.well w).setSlice i y)).slc v j = s.slc v j := by
  by_cases hv : v = w
  · subst hv
    rw [State.slc, State.well_setWell_same, Well.slice_setSlice_other _ _ (h.resolve_left (by simp))]
    rfl
  · rw [State.slc, State.well_setWell_other _ _ hv]
    rfl

/-- Settles O54: each command by the one operation on the operating point, the well or the throttle that it is. That
the average is over 31 samples is log 130, that the decisions wait for the turn of the MP log 169. -/
theorem powerCommandsComplete : Obligations.PowerCommandsComplete := by
  intro s hclk
  refine ⟨?mode, ?step, ?settled, ?trip, ?clear, ?margin, ?sensors, ?measure, ?thermal, ?waits, ?lowers, ?unmet, ?hot,
    ?limiter⟩
  case mode =>
    intro m
    obtain ⟨hreq, hregs, honly⟩ := modeRequest_frame s m
    obtain ⟨hmhz, hmv, hmargin, hrate, hdone, hbusy⟩ :=
      startChange_shows (s.setFld rPwrMode 30 2 m.toNat) (modeRate_le m.toNat)
    have hnow : (s.setFld rPwrMode 30 2 m.toNat).fld rPwrMode 16 11 = s.fld rPwrMode 16 11 :=
      State.fld_setFld_other _ _ _ _ _ _ _ _ (.inr (by decide))
    have hvolt : (s.setFld rPwrMode 30 2 m.toNat).fld rPwrMode 0 16 = s.fld rPwrMode 0 16 :=
      State.fld_setFld_other _ _ _ _ _ _ _ _ (.inr (by decide))
    have hmode : (s.setFld rPwrMode 30 2 m.toNat).fld rPwrMode 30 2 = m.toNat :=
      (State.fld_setFld_same _ _ _ _ _ (by decide)).trans (Nat.mod_eq_of_lt m.isLt)
    rw [hnow, hvolt, hmode] at hdone
    rw [hnow] at hrate hbusy
    exact ⟨_, clocked_run hclk _, hreq, hmhz, hmv, hmargin, hdone, hbusy, hrate, hregs, honly⟩
  case step =>
    refine fun hbusy ht => ⟨fun hdroop => ?_, fun hhold => ?_, fun hraise hunsettled => ?_, fun hcalm hhold hready => ?_⟩
    · exact frequencyStep_waits hclk (.inl (by simp [droopCalm, hdroop]))
    · exact frequencyStep_waits hclk (.inl (by simp [droopCalm, hhold]))
    · exact frequencyStep_waits hclk (.inr (by simp [hunsettled, hraise]))
    · refine ⟨_, (exec_frequencyStep hclk).trans (congrArg _ (if_pos ?_)), pointStepped_shows hbusy ht⟩
      obtain h | h := hready <;> simp [hbusy, droopCalm, hcalm, hhold, h]
  case settled => exact ⟨_, clocked_run hclk _, rfl, only_pwr s _⟩
  case trip =>
    intro w d hw
    obtain ⟨hwell, hcnt, hother, hregs, honly⟩ := droopTripped_shows s (d := d.val) w.isLt
    refine ⟨_, (clocked_run hclk _).trans (if_pos hw), ?_, congrArg Well.frozen hwell, congrArg Well.cause hwell,
      congrArg Well.trips hwell, hcnt, hother, hregs, honly⟩
    exact (congrArg (fun x : Well => bitAt (x.droop.setWidth 64) d.val) hwell).trans (bitAt_droop _ d.isLt)
  case clear =>
    exact fun w hdroop hlong => ⟨_, (clocked_run hclk _).trans (if_pos ⟨hdroop, hlong⟩), droopCleared_shows s w.val⟩
  case margin =>
    refine fun w => ⟨fun htrips hroom hfresh hv => ?_, fun h => ?_⟩
    · exact ⟨_, exec_droopMarginWindow_adds hclk htrips hroom hfresh, marginAdded_shows w.val hv⟩
    · exact ⟨_, exec_droopMarginWindow_ends hclk h, State.well_setWell_same .., only_wells s _⟩
  case sensors =>
    intro r
    let f := fun n => r.getD n ⟨false, 0⟩
    obtain ⟨hrd, honly, hpwr⟩ := hottestShown_frame (readAll f (List.range 64) s)
    refine ⟨_, exec_sensorSample (State.powerUp_of_clocksRun hclk) r, fun n hn hfit hok => ?_,
      (readAll_only f _ s).trans (honly.mono (by simp [logParts]))⟩
    obtain ⟨htemp, hhot⟩ := readAll_good f (fun j hj => List.mem_range.1 hj) hn hfit hok (.inl (List.mem_range.2 hn))
    exact ⟨(hrd _ (by unfold rPwrTemp rPwrTmax; omega)).trans htemp,
      (congrArg (fun p : Pwr => bitAt p.hotOnce n) hpwr).trans hhot⟩
  case measure =>
    intro mv ma
    let p := Nat.min 65535 (mv * ma / 100000 + s.fld rPwrCap 9 7 * 10)
    obtain ⟨hpow, hsamples, havg, hcap, hg, hregs, honly⟩ := powerMeasured_shows s (p := p) (Nat.min_le_left ..)
    obtain ⟨-, -, -, hshown, -⟩ := powerShown_shows s (p := p) (Nat.min_le_left ..)
    have hen : (powerShown s p).bit rPwrCap 31 = s.bit rPwrCap 31 := hshown.bit (by decide) 31
    have hwatts : capWatts (powerShown s p) = capWatts s := by
      simp only [capWatts, variantIx, modeCur, hshown.fld (o := rPwrCap) (by decide),
        hshown.fld (o := rCapId) (by decide), hshown.fld (o := rPwrMode) (by decide)]
    have hpart : (powerShown s p).fld rPwrStatus 8 7 = s.fld rPwrStatus 8 7 := hshown.fld (by decide) 8 7
    refine ⟨_, exec_powerMeasure hclk mv ma, hpow, hsamples, havg, fun hoff => ?_, fun hon hover => ?_, hg, hregs, honly⟩
    · rw [hcap, capPart, hen, hoff]
      rfl
    · rw [hcap, capPart, hen, hon, hwatts, if_neg (by simp), if_pos hover, hpart]
      have hlt : s.fld rPwrStatus 8 7 < 2 ^ 7 := State.fld_lt ..
      exact Nat.mod_eq_of_lt (Nat.max_lt.2 ⟨by decide, by omega⟩)
  case thermal =>
    obtain ⟨htherm, hg, hhot, hregs, honly⟩ := thermalUpdate_shows s
    refine ⟨_, exec_thermalUpdate hclk, fun h => htherm.trans (if_pos h), fun h h' => ?_, fun h h' => ?_,
      hg.trans (by rw [htherm]), hhot.trans (by rw [htherm]), hregs, honly⟩
    · exact htherm.trans ((if_neg (by omega)).trans (if_pos h'))
    · exact htherm.trans ((if_neg (by omega)).trans (if_neg (by omega)))
  case waits => exact exec_operatingPointDecision_waits hclk
  case lowers =>
    intro k hturn hbusy hlow hlong hrate
    have hlt : s.fld rPwrMode 16 11 < 2 ^ 11 := State.fld_lt ..
    have hne : ¬ (Nat.max 400 (s.fld rPwrMode 16 11 - 50) = s.fld rPwrMode 16 11
        ∧ (s.fld rPwrMode 0 16 ≤ voltOf s (Nat.max 400 (s.fld rPwrMode 16 11 - 50)) ∨ droopCalm s = true)) :=
      fun h => Nat.ne_of_lt (Nat.max_lt.2 ⟨hrate, by omega⟩) h.1
    have hmoves := startChange_moves s (Nat.max 400 (s.fld rPwrMode 16 11 - 50))
    have hbegin := startChange_begins hne
    obtain ⟨hchange, -, hmhz, -⟩ := changeBegun_shows s (Nat.max 400 (s.fld rPwrMode 16 11 - 50))
    rw [hbegin] at hmoves
    exact ⟨_, (exec_operatingPointDecision_lowers hclk hturn hbusy hlow hlong hrate).trans (congrArg _ hbegin), hmhz,
      hchange, hmoves.regs, hmoves.parts⟩
  case unmet =>
    exact fun k hunmet hlong hnew => ⟨_, exec_capUnmetDetect hclk hunmet hlong hnew, capUnmet_shows s _⟩
  case hot =>
    exact fun n v hfit hhot hagain => ⟨_, exec_thermalTrip hclk hfit hhot hagain, tripLatched_shows s n.isLt v _⟩
  case limiter =>
    intro th
    exact ⟨_, clocked_run hclk _, congrArg Slice.limE (slc_setSlice s (thWell th) (thIx th) _),
      fun v j h => slc_setSlice_other s _ h, only_wells s _⟩

end Sys2Proof.Machine
end

section
/-! The end of a wake state, and an abandoned pass, leave device time alone (R406, R472, R474, R524). -/

namespace Sys2Proof.Machine

theorem SMap.get_filter {α : Type} (d : Nat → α) {p : Nat × α → Bool} (m : SMap α) {k : Nat}
    (h : ∀ v, p (k, v) = true) : SMap.get d (List.filter p m) k = SMap.get d m k := by
  induction m with
  | nil => rfl
  | cons e r ih =>
    obtain ⟨j, v⟩ := e
    by_cases hp : p (j, v) = true
    · rw [List.filter_cons_of_pos hp]
      simp only [SMap.get, ih]
    · rw [List.filter_cons_of_neg hp, ih, SMap.get, if_neg]
      rintro rfl
      exact hp (h v)

/-- Device time and what it is disciplined by. -/
def State.timeView (s : State) : Tb × W64 := (s.tb, s.rd rTbCtrl)

theorem timeView_ext {s t : State} (htb : t.tb = s.tb) (hctrl : t.rd rTbCtrl = s.rd rTbCtrl) :
    t.timeView = s.timeView := Prod.ext htb hctrl

/-- A step that keeps the time base and every register but some. -/
theorem timeView_of_wr {s : State} {o : Nat} (v : W64) (h : rTbCtrl ≠ o) : (s.wr o v).timeView = s.timeView :=
  timeView_ext rfl (State.rd_wr_other s v h)

theorem timeView_foldl {α : Type} (g : State → α → State) (h : ∀ s x, (g s x).timeView = s.timeView)
    (l : List α) (s : State) : (l.foldl g s).timeView = s.timeView := foldl_part _ g h l s

section TimeView

variable (s : State)

@[simp] theorem timeView_event (c u e : Nat) : (event s c u e).timeView = s.timeView :=
  timeView_ext (event_tb s c u e) (event_rd_outside (by decide) s c u e)
@[simp] theorem timeView_bwCount (i d : Nat) : (bwCount s i d).timeView = s.timeView := by
  unfold bwCount
  split <;> rfl
@[simp] theorem timeView_setMc (n : Nat) (m : Mc) : (s.setMc n m).timeView = s.timeView := (rfl)
@[simp] theorem timeView_setWell (w : Nat) (x : Well) : (s.setWell w x).timeView = s.timeView := (rfl)
@[simp] theorem timeView_setSlc (w i : Nat) (y : Slice) : (s.setSlc w i y).timeView = s.timeView := (rfl)
@[simp] theorem timeView_setSq (w e : Nat) (x : SqEntry) : (s.setSq w e x).timeView = s.timeView := (rfl)
@[simp] theorem timeView_setStr (i : Nat) (x : Stream) : (s.setStr i x).timeView = s.timeView := (rfl)
@[simp] theorem timeView_clearMem (lo hi : Nat) : (clearMem s lo hi).timeView = s.timeView :=
  timeView_ext rfl (State.rd_of_regs rfl _)
@[simp] theorem timeView_wellFault (w : Nat) (f : FaultInfo) : (wellFault s w f).timeView = s.timeView :=
  timeView_ext (wellFault_tb s w f) (wellFault_rd s w f (by decide) (by decide))
@[simp] theorem timeView_logOnly (f : FaultInfo) : (logOnly s f).timeView = s.timeView :=
  timeView_ext (logEntry_tb s f 0 none none) (logOnly_rd (by decide) s f)
@[simp] theorem timeView_noteCorrected (ch a : Nat) (c : Bool) : (noteCorrected s ch a c).timeView = s.timeView :=
  timeView_ext (hideDram_only (hideDram_noteCorrected s ch a c) .tb rfl) (noteCorrected_rd (by decide) s ch a c)
@[simp] theorem timeView_noteUncorrectable (ch a k : Nat) : (noteUncorrectable s ch a k).timeView = s.timeView :=
  timeView_ext (hideDram_only (hideDram_noteUncorrectable s ch a k) .tb rfl) (noteUncorrectable_rd (by decide) s ch a k)
@[simp] theorem timeView_checkOut (key : Nat) : (checkOut s key).timeView = s.timeView :=
  timeView_ext (hideDram_only (hideDram_checkOut s key) .tb rfl) (checkOut_rd (by decide) s key)

/-! ### Queues and wells -/

@[simp] theorem timeView_sqPut (w e : Nat) (x : SqEntry) : (sqPut s w e x).timeView = s.timeView := by
  unfold sqPut
  dsimp only
  split
  · rfl
  · refine (timeView_foldl _ (fun u k => ?_) _ _).trans ?_
    · split <;> simp
    · split <;> simp

@[simp] theorem timeView_sqPush (w e : Nat) (wd : Word) : (sqPush s w e wd).timeView = s.timeView := by
  unfold sqPush sqPushAt
  dsimp only
  split
  · obtain ⟨-, -, -, honly⟩ := ringEnter_frame (event s 4 (queueNo w e) 1) w e wd
    refine (timeView_sqPut ..).trans ((timeView_ext (honly .tb rfl) ?_).trans (timeView_event ..))
    exact State.rd_of_regs (honly .regs rfl) _
  · split
    · exact (timeView_wellFault ..).trans ((timeView_sqPut ..).trans (timeView_event ..))
    · exact (timeView_sqPut ..).trans (timeView_event ..)

@[simp] theorem timeView_sideEnter (w e : Nat) (wd : Word) : (sideEnter s w e wd).timeView = s.timeView := by
  unfold sideEnter
  dsimp only
  split
  · rfl
  · exact timeView_sqPush ..

@[simp] theorem timeView_retryAll (w : Nat) : (retryAll s w).timeView = s.timeView :=
  timeView_foldl (fun u (p : Nat × Word) => sideEnter u w p.1 p.2) (fun u p => timeView_sideEnter u w p.1 p.2) _ _

@[simp] theorem timeView_wellStop (w : Nat) : (wellStop s w).timeView = s.timeView := by
  rw [wellStop_eq]
  split
  · exact (timeView_retryAll ..).trans (timeView_setWell ..)
  · rfl

@[simp] theorem timeView_wellStart (w : Nat) : (wellStart s w).timeView = s.timeView := by
  unfold wellStart
  dsimp only
  split <;> simp

theorem timeView_pipeStop (l : List Nat) : (pipeStop s l).timeView = s.timeView := by
  refine timeView_foldl (fun s w => wellStop (threadsStopped s w) w) (fun u w => ?_) l s
  refine (timeView_wellStop ..).trans (timeView_ext (threadsStopped_only u w .tb rfl) ?_)
  exact State.rd_of_regs (threadsStopped_only u w .regs rfl) _

@[simp] theorem timeView_msqCtrlWrite (w i : Nat) (v : W32) : (msqCtrlWrite s w i v).timeView = s.timeView := by
  unfold msqCtrlWrite threadStop threadStart
  dsimp only
  split
  · rfl
  · split
    · split <;> rfl
    · rfl

@[simp] theorem timeView_sfCtrlWrite (w : Nat) (v : W32) : (sfCtrlWrite s w v).timeView = s.timeView := by
  unfold sfCtrlWrite
  dsimp only
  split
  · simp
  · split <;> simp

theorem timeView_queuesEmptied (w : Nat) : (queuesEmptied s w).timeView = s.timeView :=
  timeView_foldl _ (fun u _ => timeView_sqPut u ..) _ _

theorem timeView_barriersCleared (w : Nat) : (barriersCleared s w).timeView = s.timeView := (rfl)

/-! ### Images -/

theorem timeView_mpReads (base size : Nat) : (mpReads s base size).timeView = s.timeView := by
  unfold mpReads
  split
  · refine timeView_foldl _ (fun u e => ?_) _ s
    dsimp only
    split <;> simp
  · rfl

theorem timeView_unloadAll (l : List (Nat × Nat)) : (unloadAll s l).timeView = s.timeView :=
  timeView_foldl _ (fun u _ => timeView_setWell u ..) l s

theorem timeView_commitGo (w x : Nat) : (commitGo s w x).timeView = s.timeView := by
  unfold commitGo
  dsimp only
  split
  · rfl
  · split <;> rfl

theorem timeView_commitEnd (w x : Nat) : (commitEnd s w x).timeView = s.timeView := timeView_setWell ..

theorem timeView_ctxCommit (w x : Nat) (crc : W32) : (ctxCommit s w x crc).2.timeView = s.timeView := by
  unfold ctxCommit
  dsimp only
  have hgo := timeView_commitGo (s.setWell w { s.well w with commitCrc := crc }) w x
  split
  · exact (timeView_commitEnd ..).trans hgo
  · exact hgo

theorem timeView_segsCommit (crcs : SMap W32) (l : List (Nat × Nat)) :
    (segsCommit s crcs l).2.2.timeView = s.timeView := by
  induction l generalizing s with
  | nil => rfl
  | cons c r ih =>
    unfold segsCommit
    dsimp only
    split
    · exact (ih _).trans (timeView_ctxCommit ..)
    · exact timeView_ctxCommit ..

theorem timeView_segsInto (m : Memory) (p : Plan) (r : Run) (i : Image) (l : List (Nat × Nat)) :
    (segsInto s m p r i l).2.2.timeView = s.timeView := by
  have hwritten : (segsWritten s m p i.p0 i.reversed l).timeView = s.timeView :=
    timeView_foldl _ (fun u c => timeView_setWell u ..) l s
  unfold segsInto
  dsimp only
  split
  · exact hwritten
  · exact (timeView_segsCommit ..).trans hwritten

end TimeView

/-- The image of a pipeline loaded again. -/
theorem timeView_imageReload (s : State) (p : Nat) : (imageReload s p).2.2.timeView = s.timeView := by
  unfold imageReload
  dsimp only
  have hstop (u : State) (l : List Nat) : (unloadAll (pipeStop u l) (committedIn u l)).timeView = u.timeView :=
    (timeView_unloadAll ..).trans (timeView_pipeStop ..)
  split
  · refine (timeView_segsInto ..).trans ?_
    refine (timeView_foldl _ (fun u w => timeView_setWell u ..) _ _).trans ?_
    exact (timeView_unloadAll ..).trans ((timeView_pipeStop ..).trans (timeView_mpReads ..))
  · refine (timeView_unloadAll ..).trans ((timeView_segsInto ..).trans ?_)
    refine (timeView_foldl _ (fun u w => timeView_setWell u ..) _ _).trans ?_
    exact (timeView_unloadAll ..).trans ((timeView_pipeStop ..).trans (timeView_mpReads ..))

theorem timeView_pipeStart (s : State) (p : Nat) : (pipeStart s p).timeView = s.timeView := by
  refine timeView_foldl _ (fun u w => ?_) _ s
  split
  · rfl
  · refine (timeView_sfCtrlWrite ..).trans (timeView_foldl _ (fun v j => ?_) _ u)
    split
    · exact timeView_msqCtrlWrite ..
    · rfl

theorem timeView_pipeRevive (s : State) (p : Nat) : (pipeRevive s p).timeView = s.timeView := by
  have hempty : ((s.mp.image p).wells.foldl (fun s w => barriersCleared (queuesEmptied s w) w) s).timeView = s.timeView :=
    timeView_foldl _ (fun u w => (timeView_barriersCleared ..).trans (timeView_queuesEmptied ..)) _ s
  unfold pipeRevive
  dsimp only
  split
  · exact (timeView_pipeStart ..).trans ((timeView_imageReload ..).trans hempty)
  · exact (timeView_logOnly ..).trans ((timeView_imageReload ..).trans hempty)

theorem timeView_reviveAll (s : State) : (reviveAll s).timeView = s.timeView :=
  timeView_foldl pipeRevive timeView_pipeRevive _ s

/-! ### The end of a wake state (R474, R475, R524) -/

theorem timeView_cacheFlush (s : State) (n : Nat) : (cacheFlush s n).timeView = s.timeView :=
  (timeView_setMc ..).trans (timeView_foldl checkOut timeView_checkOut _ s)

theorem timeView_selfRefresh (s : State) (on : Bool) : (selfRefresh s on).timeView = s.timeView := by
  refine timeView_foldl _ (fun u n => ?_) _ s
  have hstatus (v : State) : (v.setBit (rMcStatus n) 30 on).timeView = v.timeView :=
    timeView_of_wr _ (by unfold rTbCtrl rMcStatus; omega)
  split
  · refine (hstatus _).trans ?_
    split
    · exact timeView_cacheFlush ..
    · rfl
  · rfl

theorem timeView_wellRepowered (s : State) (w : Nat) : (wellRepowered s w).timeView = s.timeView := (rfl)

theorem timeView_wakeUp (s : State) : (wakeUp s).timeView = s.timeView := by
  have hawake : ({ s.setFld rPwrWake 29 3 0 with pwr := { (s.setFld rPwrWake 29 3 0).pwr with idleSince := none } } :
      State).timeView = s.timeView := timeView_of_wr (s := s) _ (by decide)
  unfold wakeUp
  dsimp only
  split
  · refine (timeView_reviveAll _).trans ((timeView_foldl _ (fun u w => ?_) _ _).trans hawake)
    split
    · exact timeView_wellRepowered ..
    · rfl
  · split
    · exact (timeView_selfRefresh ..).trans hawake
    · exact hawake

theorem timeView_partReset (s : State) (p : Nat) : (partReset s p).timeView = s.timeView := by
  have hcolumn (w c : Nat) : (columnPart s w c).timeView = s.timeView := by
    unfold columnPart
    dsimp only
    refine (timeView_foldl _ (fun u f => ?_) _ _).trans rfl
    split <;> rfl
  have hif (c : Prop) [Decidable c] {u v : State} (hu : c → u.timeView = s.timeView)
      (hv : ¬ c → v.timeView = s.timeView) : (if c then u else v).timeView = s.timeView :=
    iteInduction (motive := fun t : State => t.timeView = s.timeView) hu hv
  unfold partReset
  refine hif _ (fun _ => rfl) fun _ => hif _ (fun _ => ?_) fun _ => hif _ (fun _ => rfl)
    fun _ => hif _ (fun _ => timeView_setMc ..) fun _ => hif _ (fun _ => ?_) fun _ => hif _ (fun _ => rfl)
    fun _ => hif _ (fun _ => timeView_clearMem ..) fun _ => hif _ (fun _ => rfl) fun _ => hif _ (fun _ => ?_) fun _ => rfl
  · split
    · exact hcolumn ..
    · rfl
  · exact timeView_foldl _ (fun u i => timeView_setStr u ..) _ s
  · refine timeView_ext rfl (SMap.get_filter _ _ fun v => ?_)
    unfold rTbCtrl rFiProfCtrl
    rw [Bool.or_eq_true, decide_eq_true_eq, decide_eq_true_eq]
    omega

theorem timeView_sstAbandon (s : State) : (sstAbandon s).timeView = s.timeView := by
  have hstatus (u : State) (st : Nat) : (sstStatus u st).timeView = u.timeView :=
    (timeView_of_wr _ (by decide)).trans ((timeView_of_wr _ (by decide)).trans (timeView_of_wr _ (by decide)))
  unfold sstAbandon
  exact (timeView_reviveAll _).trans ((timeView_selfRefresh ..).trans ((hstatus ..).trans
    (timeView_foldl partReset timeView_partReset _ s)))

/-- What ends a wake state leaves device time and its control. -/
theorem timeView_roused (s : State) (e : WakeEvent) : (roused s e).timeView = s.timeView := by
  unfold roused
  split
  · rfl
  · split
    · exact timeView_wakeUp s
    · split
      · exact timeView_sstAbandon s
      · rfl

end Sys2Proof.Machine
end

section
/-! Device time: its reference, steps and slews, triggers and TSYNC (R406 to R421). -/

namespace Sys2Proof.Machine

theorem only_tb (s : State) (x : Tb) : Only [.tb] s { s with tb := x } := by
  intro q hq
  cases q <;> simp_all [Part.same]

/-! ### TRIM (R406, R409) -/

theorem clampInt_range {lo hi : Int} (h : lo ≤ hi) (v : Int) : lo ≤ clampInt lo hi v ∧ clampInt lo hi v ≤ hi := by
  unfold clampInt
  split
  · omega
  · split <;> omega

/-- TRIM reads as it was set, within 200 ppm. -/
theorem trimOf_setTrim (s : State) (v : Int) : trimOf (setTrim s v) = clampInt (-trimMax) trimMax v := by
  obtain ⟨hlo, hhi⟩ := clampInt_range (lo := -trimMax) (hi := trimMax) (by decide) v
  rw [trimOf, setTrim, State.fld_setFld_same _ _ _ _ _ (by decide), Nat.mod_eq_of_lt (codeOfInt_lt 32 _)]
  unfold trimMax at hlo hhi ⊢
  exact signedOf_codeOfInt (by decide) (by omega) (by omega)

theorem enterHoldover_frame (s : State) : let t := enterHoldover s
    t.fld rTbStatus 29 3 = 3 ∧ t.tb = { s.tb with exch := none } ∧ OnlyRegs [rTbStatus, rTbTrim] s t
      ∧ Only [.regs, .tb] s t := by
  refine ⟨?_, rfl, ?_, ?_⟩
  · exact (State.fld_setFld_other (s.setFld rTbStatus 29 3 3) _ _ _ _ _ _ _ (.inl (by decide))).trans
      (State.fld_setFld_same _ _ _ _ _ (by decide))
  · exact ((onlyRegs_setFld s 29 3 3 (by simp)).trans (onlyRegs_setFld (s.setFld rTbStatus 29 3 3) 0 32 _ (by simp))).trans
      (.of_regs _ rfl)
  · exact (((only_setFld s rTbStatus 29 3 3).trans (only_setFld (s.setFld rTbStatus 29 3 3) rTbTrim 0 32 _)).mono
      (by simp)).trans ((only_tb _ _).mono (by simp))

/-! ### Steps and the servo (R409 to R411) -/

/-- Only what the triggers follow has moved. -/
structure TrigsMove (s t : State) : Prop where
  base : t.tb = { s.tb with trigs := t.tb.trigs }
  regs : ∀ o, o < 0x50100 → t.rd o = s.rd o
  parts : Only [.tb, .regs] s t

namespace TrigsMove

theorem refl (s : State) : TrigsMove s s := ⟨rfl, fun _ _ => rfl, Only.refl _ s⟩

theorem trans {s t u : State} (h : TrigsMove s t) (h' : TrigsMove t u) : TrigsMove s u :=
  ⟨h'.base.trans (by rw [h.base]), fun o ho => (h'.regs o ho).trans (h.regs o ho), h.parts.trans h'.parts⟩

theorem wr (s : State) {o : Nat} (v : W64) (h : 0x50100 ≤ o) : TrigsMove s (s.wr o v) :=
  ⟨rfl, fun p hp => State.rd_wr_other s v (by omega), (only_wr s o v).mono (by simp)⟩

theorem trig (s : State) (k : Nat) (x : Trig) : TrigsMove s { s with tb := s.tb.setTrig k x } :=
  ⟨rfl, fun _ _ => rfl, (only_tb s _).mono (by simp)⟩

end TrigsMove

theorem trigAdvance_moves (s : State) (k j : Nat) : TrigsMove s (trigAdvance s k j) := by
  unfold trigAdvance
  dsimp only
  split
  · exact (TrigsMove.trig s k _).trans (.wr _ _ (by unfold rTbTrgCtrl; omega))
  · exact .trig s k _

theorem trigSkip_moves (s : State) (k d : Nat) : TrigsMove s (trigSkip s k d) := by
  have hadd (x : Nat) : TrigsMove s (s.addSat (rTbTrgStatus k) 16 16 x) := .wr _ _ (by unfold rTbTrgStatus; omega)
  exact iteInduction (motive := TrigsMove s) (fun _ => (hadd _).trans (trigAdvance_moves _ _ _)) (fun _ => .refl s)

/-- Armed channels skip the edges that a forward step has passed. -/
def trigsSkipped (s : State) : State :=
  (List.range 8).foldl (fun (s : State) k => if s.bit (rTbTrgCtrl k) 31 then trigSkip s k s.dt else s) s

theorem trigsSkipped_moves (s : State) : TrigsMove s (trigsSkipped s) :=
  List.foldlRecOn (motive := TrigsMove s) _ _ (.refl s) fun t ht k _ => by
    split
    · exact ht.trans (trigSkip_moves t k _)
    · exact ht

/-- Device time moved by a whole number of ns, with nothing left to slew. -/
def dtMoved (s : State) (d : Int) : State :=
  { s with tb := { s.tb with dt := ((s.tb.dt : Int) + d * 2 ^ 32).toNat, slew := 0 } }

/-- The next due multiple of TSYNC set. -/
def tsyncSet (s : State) (n : Nat) : State := { s with tb := { s.tb with tsyncNext := n } }

/-- The due multiple of TSYNC after a forward step. -/
def tsyncDue (s : State) : State :=
  if s.tb.tsyncNext < s.dt then tsyncSet s (tsyncAfter s (s.dt - 1)) else s

theorem dtStep_forward (s : State) {d : Int} (h : 0 ≤ d) : dtStep s d = tsyncDue (trigsSkipped (dtMoved s d)) := by
  have hd : ¬ d < 0 := by omega
  unfold dtStep trigsSkipped dtMoved
  dsimp only
  rw [if_neg hd]
  generalize List.foldl _ _ (List.range 8) = u
  rfl

theorem dtStep_back (s : State) {d : Int} (h : d < 0) : dtStep s d = (dtMoved s d).setBit rTbStatus 27 true := if_pos h

/-- What the time base keeps when only the next due multiple of TSYNC is set. -/
structure TsyncMoves (s t : State) : Prop where
  base : t.tb = { s.tb with tsyncNext := t.tb.tsyncNext }
  regs : ∀ o, t.rd o = s.rd o
  parts : Only [.tb] s t

theorem TsyncMoves.set (s : State) (n : Nat) : TsyncMoves s (tsyncSet s n) := ⟨rfl, fun _ => rfl, only_tb s _⟩

theorem tsyncDue_moves (s : State) : TsyncMoves s (tsyncDue s) :=
  iteInduction (motive := TsyncMoves s) (fun _ => .set s _) (fun _ => ⟨rfl, fun _ => rfl, Only.refl _ s⟩)

theorem dtStep_forward_shows (s : State) {d : Int} (h : 0 ≤ d) : let t := dtStep s d
    t.tb.dt = ((s.tb.dt : Int) + d * 2 ^ 32).toNat ∧ t.tb.slew = 0 ∧ t.tb.ppsDt = s.tb.ppsDt
      ∧ t.tb.exch = s.tb.exch ∧ t.tb.corr = s.tb.corr ∧ (∀ o, o < 0x50100 → t.rd o = s.rd o)
      ∧ Only [.tb, .regs] s t := by
  rw [dtStep_forward s h]
  obtain ⟨hbase, hregs, honly⟩ := trigsSkipped_moves (dtMoved s d)
  obtain ⟨hbase', hrd, honly'⟩ := tsyncDue_moves (trigsSkipped (dtMoved s d))
  refine ⟨(congrArg Tb.dt hbase' :).trans (congrArg Tb.dt hbase :),
    (congrArg Tb.slew hbase' :).trans (congrArg Tb.slew hbase :),
    (congrArg Tb.ppsDt hbase' :).trans (congrArg Tb.ppsDt hbase :),
    (congrArg Tb.exch hbase' :).trans (congrArg Tb.exch hbase :),
    (congrArg Tb.corr hbase' :).trans (congrArg Tb.corr hbase :),
    fun o ho => (hrd o).trans (hregs o ho), ?_⟩
  exact (((only_tb s _).mono (by simp)).trans honly).trans (honly'.mono (by simp))

/-- What a correction leaves of an exchange and of the stamps. -/
structure Steered (s t : State) : Prop where
  parts : Only [.tb, .regs, .freeCtr] s t
  pps : t.tb.ppsDt = s.tb.ppsDt
  exch : t.tb.exch = s.tb.exch
  corr : t.tb.corr = s.tb.corr
  cap : t.rd rTbPpsCap = s.rd rTbPpsCap
  hops : t.fld rTbStatus 16 5 = s.fld rTbStatus 16 5

namespace Steered

theorem refl (s : State) : Steered s s := ⟨Only.refl _ s, rfl, rfl, rfl, rfl, rfl⟩

theorem trans {s t u : State} (h : Steered s t) (h' : Steered t u) : Steered s u :=
  ⟨h.parts.trans h'.parts, h'.pps.trans h.pps, h'.exch.trans h.exch, h'.corr.trans h.corr, h'.cap.trans h.cap,
    h'.hops.trans h.hops⟩

/-- A field of another register, or a field of `TB_STATUS` above the hops. -/
theorem setFld (s : State) {o lo n : Nat} (x : Nat) (hcap : rTbPpsCap ≠ o)
    (h : rTbStatus ≠ o ∨ (16 + 5 ≤ lo ∨ lo + n ≤ 16) ∧ 16 + 5 ≤ 64) : Steered s (s.setFld o lo n x) :=
  ⟨(only_setFld s o lo n x).mono (by simp), rfl, rfl, rfl, State.rd_setFld_other _ _ _ _ hcap,
    State.fld_setFld_other _ _ _ _ _ _ _ _ h⟩

theorem drawn (s : State) : Steered s s.drawn :=
  ⟨fun q hq => by cases q <;> simp_all [Part.same, State.drawn], rfl, rfl, rfl, rfl, rfl⟩

end Steered

theorem dtStep_steers (s : State) (d : Int) : Steered s (dtStep s d) := by
  by_cases h : 0 ≤ d
  · obtain ⟨-, -, hpps, hexch, hcorr, hrd, honly⟩ := dtStep_forward_shows s h
    exact ⟨honly.mono (by simp), hpps, hexch, hcorr, hrd _ (by decide), congrArg (bits · 16 5) (hrd _ (by decide))⟩
  · rw [dtStep_back s (by omega)]
    have hmoved : Steered s (dtMoved s d) := ⟨(only_tb s _).mono (by simp), rfl, rfl, rfl, rfl, rfl⟩
    exact hmoved.trans (.setFld _ _ (by decide) (.inr (by decide)))

theorem correct_steers (s : State) (off : Int) : Steered s (correct s off) := by
  unfold correct
  split
  · exact dtStep_steers s off
  · split
    · exact dtStep_steers s off
    · exact ⟨(only_tb s _).mono (by simp), rfl, rfl, rfl, rfl, rfl⟩

/-- TRIM and the counts of the servo after an offset (R409, R411). -/
def servoTrimmed (s : State) (off : Int) : State :=
  let t := clampInt (-trimMax) trimMax (Config.servoTrim s.freeCtr off (trimOf s))
  let u := setTrim s.drawn t
  let n := if decide (off.natAbs ≤ 100 * 256) then Nat.min 8 (u.tb.inRange + 1) else 0
  { u with tb := { u.tb with trims := (t :: u.tb.trims).take 16, inRange := n } }

/-- The state of the time base after an offset (R411). -/
def servoState (s : State) (off : Int) : Nat :=
  let st := s.fld rTbStatus 29 3
  if st = 2 then (if 1000 * 256 < off.natAbs then 1 else 2) else if st = 3 then 1 else if s.tb.inRange = 8 then 2 else 1

theorem servo_eq (s : State) (off : Int) : servo s off =
    let u := servoTrimmed (correct (s.setFld rTbOffset 0 32 (codeOfInt 32 (off / 256))) (off / 256)) off
    u.setFld rTbStatus 29 3 (servoState u off) := rfl

theorem servoTrimmed_steers (s : State) (off : Int) : Steered s (servoTrimmed s off)
    ∧ -trimMax ≤ trimOf (servoTrimmed s off) ∧ trimOf (servoTrimmed s off) ≤ trimMax := by
  have htrim (v : Int) : Steered s (setTrim s.drawn v) :=
    (Steered.drawn s).trans (.setFld _ _ (by decide) (.inl (by decide)))
  have hbase (u : State) (n : Nat) (l : List Int) :
      Steered u { u with tb := { u.tb with trims := l, inRange := n } } :=
    ⟨(only_tb u _).mono (by simp), rfl, rfl, rfl, rfl, rfl⟩
  refine ⟨(htrim _).trans (hbase _ _ _), ?_⟩
  have hval := trimOf_setTrim s.drawn (clampInt (-trimMax) trimMax (Config.servoTrim s.freeCtr off (trimOf s)))
  have hrange := clampInt_range (lo := -trimMax) (hi := trimMax) (by decide)
    (clampInt (-trimMax) trimMax (Config.servoTrim s.freeCtr off (trimOf s)))
  rw [← hval] at hrange
  exact hrange

/-- An offset given to the servo (R409). -/
theorem servo_steers (s : State) (off : Int) : Steered s (servo s off)
    ∧ -trimMax ≤ trimOf (servo s off) ∧ trimOf (servo s off) ≤ trimMax := by
  rw [servo_eq]
  dsimp only
  obtain ⟨hsteer, hlo, hhi⟩ := servoTrimmed_steers
    (correct (s.setFld rTbOffset 0 32 (codeOfInt 32 (off / 256))) (off / 256)) off
  have hkept (u : State) (x : Nat) : trimOf (u.setFld rTbStatus 29 3 x) = trimOf u :=
    congrArg (signedOf 32) (State.fld_setFld_other _ _ _ _ _ _ _ _ (.inl (by decide)))
  have hoffset : Steered s (s.setFld rTbOffset 0 32 (codeOfInt 32 (off / 256))) :=
    .setFld _ _ (by decide) (.inl (by decide))
  refine ⟨((hoffset.trans (correct_steers _ _)).trans hsteer).trans (.setFld _ _ (by decide) (.inr (by decide))), ?_⟩
  rw [hkept]
  exact ⟨hlo, hhi⟩

/-! ### `TB_SET` (R410) -/

/-- Device time of a state moved by the difference to a value is that value. -/
theorem dt_moved {s t : State} {v : W64} (hwide : s.tb.dt < 2 ^ 96)
    (h : t.tb.dt = ((s.tb.dt : Int) + ((v.toNat : Int) - s.dt) * 2 ^ 32).toNat) : t.dt = v.toNat := by
  have hv := v.isLt
  have hdt : s.dt = s.tb.dt / 2 ^ 32 := by
    unfold State.dt
    omega
  rw [hdt] at h
  unfold State.dt
  rw [h]
  omega

theorem correct_forward {s : State} {off : Int} (h : 1000000 < off) : correct s off = dtStep s off := if_pos h

theorem correct_back {s : State} {off : Int} (h : off < -1000000) (hallow : s.bit rTbCtrl 29 = true)
    (hidle : tasksInFlight s = 0) : correct s off = dtStep s off :=
  (if_neg (by omega)).trans (if_pos ⟨h, hallow, hidle⟩)

/-- The correction left to slew. -/
def slewSet (s : State) (x : Int) : State := { s with tb := { s.tb with slew := x } }

theorem correct_slews {s : State} {off : Int} (h : off ≤ 1000000)
    (h' : -1000000 ≤ off ∨ s.bit rTbCtrl 29 = false ∨ tasksInFlight s ≠ 0) :
    correct s off = slewSet s (off * 2 ^ 32) := by
  refine (if_neg (by omega)).trans (if_neg ?_)
  rintro ⟨hlead, hallow, hidle⟩
  obtain h' | h' | h' := h'
  · omega
  · simp [h'] at hallow
  · exact h' hidle

theorem exec_tbSet {s : State} (hclk : s.clocksRun = true) (v : W64) :
    exec (.tbSet v) s = .next (correct s ((v.toNat : Int) - s.dt)) := clocked_run hclk _

theorem dtStep_back_shows (s : State) {d : Int} (h : d < 0) : let t := dtStep s d
    t.tb.dt = ((s.tb.dt : Int) + d * 2 ^ 32).toNat ∧ t.tb.slew = 0 ∧ t.bit rTbStatus 27 = true
      ∧ t.tb.trigs = s.tb.trigs ∧ OnlyRegs [rTbStatus] s t ∧ Only [.tb, .regs] s t := by
  rw [dtStep_back s h]
  refine ⟨rfl, rfl, State.bit_setBit_same _ _ _ _ (by decide), rfl, ?_, ?_⟩
  · exact (OnlyRegs.of_regs _ rfl).trans (onlyRegs_setBit (dtMoved s d) 27 true (by simp))
  · exact ((only_tb s _).mono (by simp)).then_wr _ _ (by simp)

/-! ### `TB_DT` (R421) -/

theorem SMap.find?_erase {α : Type} (m : SMap α) (k : Nat) :
    (SMap.erase m k).find? (fun e => e.1 == k) = none := by
  induction m with
  | nil => rfl
  | cons e r ih =>
    obtain ⟨j, v⟩ := e
    unfold SMap.erase
    split
    · exact ih
    · rename_i hne
      rw [List.find?_cons_of_neg (by simp [hne]), ih]

theorem SMap.find?_insert {α : Type} (m : SMap α) (k : Nat) (x : α) (h : m.find? (fun e => e.1 == k) = none) :
    (SMap.insert m k x).find? (fun e => e.1 == k) = some (k, x) := by
  induction m with
  | nil => simp [SMap.insert]
  | cons e r ih =>
    obtain ⟨j, v⟩ := e
    have hne : j ≠ k := by
      rintro rfl
      simp at h
    have hrest : r.find? (fun e => e.1 == k) = none := by simpa [hne] using h
    unfold SMap.insert
    split
    · simp
    · simp [hne, ih hrest]

/-- A read of a half answers with what the half reads as. -/
theorem exec_tbDtRead_half {s : State} (hclk : s.clocksRun = true) (path : Path) (high : Bool) {d : Nat} {u : State}
    (h : tbDtHalf s path high = (d, u)) :
    exec (.tbDtRead path (some high)) s = .next (respond u path true (leBytes d 4)) := by
  refine (clocked_run hclk _).trans ?_
  rw [h]

/-- The high half of device time latched for a path. -/
def halfLatched (s : State) (path : Path) (x : W32) : State :=
  { s with tb := { s.tb with latch := SMap.insert (SMap.erase s.tb.latch (pathNum path)) (pathNum path) x } }

theorem tbDtHalf_low (s : State) (path : Path) : tbDtHalf s path false
    = (s.dt % 2 ^ 32, halfLatched s path (BitVec.ofNat 32 (s.dt / 2 ^ 32))) := rfl

theorem tbDtHalf_latched {s : State} {path : Path} {e : Nat × W32}
    (h : s.tb.latch.find? (fun e => e.1 == pathNum path) = some e) : tbDtHalf s path true
      = (e.2.toNat, { s with tb := { s.tb with latch := SMap.erase s.tb.latch (pathNum path) } }) := by
  unfold tbDtHalf
  dsimp only
  rw [if_pos rfl, h]

theorem tbDtHalf_present {s : State} {path : Path} (h : s.tb.latch.find? (fun e => e.1 == pathNum path) = none) :
    tbDtHalf s path true = (s.dt / 2 ^ 32, s) := by
  unfold tbDtHalf
  dsimp only
  rw [if_pos rfl, h]

/-! ### TSYNC (R416) -/

theorem tsyncAfter_due {s : State} (h : s.fld rTbTsync 0 16 ≠ 0) (d : Nat) :
    d < tsyncAfter s d ∧ tsyncAfter s d % (s.fld rTbTsync 0 16 * 1000000) = 0 := by
  unfold tsyncAfter
  generalize s.fld rTbTsync 0 16 = f at h
  have hp : 0 < f * 1000000 := by omega
  generalize f * 1000000 = p at hp
  dsimp only
  rw [if_neg hp.ne']
  refine ⟨?_, Nat.mul_mod_left ..⟩
  rw [Nat.add_one_mul]
  have hdiv := Nat.div_add_mod' d p
  have hmod := Nat.mod_lt d hp
  omega

/-- The output of TSYNC raised, and the next multiple set. -/
def tsyncRaised (s : State) (fall next : Nat) : State := { s with tb := { s.tb with tsyncFall := fall, tsyncNext := next } }

theorem tsyncRaised_shows (s : State) (fall next : Nat) : (tsyncRaised s fall next).tb.tsyncFall = fall
    ∧ (tsyncRaised s fall next).tb.tsyncNext = next ∧ Only [.tb] s (tsyncRaised s fall next) := ⟨rfl, rfl, only_tb s _⟩

theorem exec_tsyncEdge {s : State} (hclk : s.clocksRun = true) (hper : s.fld rTbTsync 0 16 ≠ 0)
    (hdue : s.tb.tsyncNext ≤ s.dt) (hstart : s.fld rHiStart 29 3 ≠ 0) :
    exec .tsyncEdge s = .next (tsyncRaised s (s.dt + 100000) (tsyncAfter s s.dt)) :=
  (clocked_run hclk _).trans (if_pos ⟨hper, hdue, hstart⟩)

/-! ### Triggers (R418, R419, R421) -/

section Trigger

variable (s : State) (k : Nat)

/-- The control word that a write leaves. -/
def trgWord (arm : Bool) (width count : Nat) : W64 := BitVec.ofNat 64 (b2n arm <<< 31 + width <<< 16 + count)

theorem trgWord_arm (arm : Bool) {width count : Nat} (hw : width < 2 ^ 15) (hc : count < 2 ^ 16) :
    bitAt (trgWord arm width count) 31 = arm := by
  have hone : b2n arm ≤ 1 := by cases arm <;> decide
  have hval : (trgWord arm width count).toNat = b2n arm * 2 ^ 31 + width * 2 ^ 16 + count := by
    rw [trgWord, BitVec.toNat_ofNat]
    simp only [Nat.shiftLeft_eq]
    exact Nat.mod_eq_of_lt (by omega)
  have hbit : (b2n arm * 2 ^ 31 + width * 2 ^ 16 + count) / 2 ^ 31 % 2 = b2n arm := by omega
  rw [bitAt, ← BitVec.testBit_toNat, hval, Nat.testBit_eq_decide_div_mod_eq, hbit]
  cases arm <;> rfl

/-- The WIDTH that a write of the control leaves: an armed channel keeps its own (R421). -/
def trgWidth (v : W64) : Nat := if s.bit (rTbTrgCtrl k) 31 then s.fld (rTbTrgCtrl k) 16 15 else bits v 16 15

theorem trgWidth_lt (v : W64) : trgWidth s k v < 2 ^ 15 :=
  iteInduction (motive := (· < 2 ^ 15)) (fun _ => State.fld_lt ..) (fun _ => bits_lt ..)

/-- The control written. -/
def trgWritten (v : W64) : State := s.wr (rTbTrgCtrl k) (trgWord (bitAt v 31) (trgWidth s k v) (bits v 0 16))

theorem trgWritten_arm (v : W64) : (trgWritten s k v).bit (rTbTrgCtrl k) 31 = bitAt v 31 := by
  rw [trgWritten, State.bit_wr, if_pos rfl, trgWord_arm _ (trgWidth_lt s k v) (bits_lt ..)]

/-- The sequence of a channel set to an edge. -/
def trgAt (j : Nat) : State := { s with tb := s.tb.setTrig k { s.tb.trig k with next := j } }

variable {s k}

theorem trgCtrlWrite_arms {v : W64} (harmed : s.bit (rTbTrgCtrl k) 31 = false) (hv : bitAt v 31 = true) :
    trgCtrlWrite s k v = trigSkip (trgAt (trgWritten s k v) k 0) k s.dt := by
  refine (if_pos ?_).trans rfl
  rw [harmed, hv]
  rfl

theorem trgCtrlWrite_disarms {v : W64} (hv : bitAt v 31 = false) : trgCtrlWrite s k v = trgWritten s k v := by
  refine (if_neg ?_).trans rfl
  rw [hv, Bool.and_false]
  exact Bool.false_ne_true

/-- Nothing is skipped before START. -/
theorem trigSkip_early {d : Nat} (h : d ≤ (s.rd (rTbTrgStart k)).toNat) : trigSkip s k d = s := by
  have hfirst : firstEdge s k d = 0 := if_pos h
  unfold trigSkip
  rw [hfirst]
  simp

/-- An edge passed: the sequence goes on, and after the last edge ARM clears (R418, R421). -/
theorem trigAdvance_shows (s : State) (k j : Nat) : let t := trigAdvance s k j
    t.tb.trig k = { s.tb.trig k with next := j }
      ∧ t.bit (rTbTrgCtrl k) 31
        = (s.bit (rTbTrgCtrl k) 31 && !(s.fld (rTbTrgCtrl k) 0 16 != 0 && decide (s.fld (rTbTrgCtrl k) 0 16 ≤ j)))
      ∧ OnlyRegs [rTbTrgCtrl k] s t ∧ Only [.tb, .regs] s t := by
  have hat : (trgAt s k j).tb.trig k = { s.tb.trig k with next := j } := Tb.trig_setTrig ..
  have honly : Only [.tb, .regs] s (trgAt s k j) := (only_tb s _).mono (by simp)
  have hregs : OnlyRegs [rTbTrgCtrl k] s (trgAt s k j) := .of_regs _ rfl
  have hadv : trigAdvance s k j = if s.fld (rTbTrgCtrl k) 0 16 ≠ 0 ∧ s.fld (rTbTrgCtrl k) 0 16 ≤ j then
      (trgAt s k j).setBit (rTbTrgCtrl k) 31 false else trgAt s k j := rfl
  rw [hadv]
  dsimp only
  split
  case isTrue h =>
    refine ⟨hat, ?_, hregs.trans (onlyRegs_setBit _ _ _ (by simp)), honly.then_wr _ _ (by simp)⟩
    rw [State.bit_setBit_same _ _ _ _ (by decide), decide_eq_true h.2, bne_iff_ne.2 h.1]
    simp
  case isFalse h =>
    refine ⟨hat, ?_, hregs, honly⟩
    have hmore : (s.fld (rTbTrgCtrl k) 0 16 != 0 && decide (s.fld (rTbTrgCtrl k) 0 16 ≤ j)) = false := by
      rw [Bool.eq_false_iff]
      simpa using h
    rw [hmore, Bool.not_false, Bool.and_true]
    rfl

/-- The output raised for WIDTH, and the edge counted. -/
def edgeRaised (s : State) (k fall : Nat) : State :=
  { s with tb := s.tb.setTrig k { s.tb.trig k with fall := fall } }

theorem exec_triggerEdge {s : State} (hclk : s.clocksRun = true) {k : Fin 8} (harmed : s.bit (rTbTrgCtrl k.val) 31 = true)
    (hdue : edgeDt s k.val (s.tb.trig k.val).next ≤ s.dt) : exec (.triggerEdge k) s
      = .next (trigAdvance ((edgeRaised s k.val (s.dt + s.fld (rTbTrgCtrl k.val) 16 15)).addWrap
          (rTbTrgStatus k.val) 0 16) k.val ((s.tb.trig k.val).next + 1)) :=
  (clocked_run hclk _).trans (if_pos (by simp [harmed, hdue]))

end Trigger

/-! ### Exchanges over links (R411, R413, R414) -/

theorem sendPacket_only (s : State) (n : Nat) (p : Packet) : Only sendParts s (sendPacket s n p) :=
  hideSend_only ((hideSend_runPort _ n).trans (hideSend_setPort s n _))

/-- An exchange in progress. -/
def exchangeBegun (s : State) (x : Nat × Nat) : State := { s with tb := { s.tb with exch := some x } }

theorem exchangeBegun_shows (s : State) (x : Nat × Nat) : (exchangeBegun s x).tb.exch = some x
    ∧ (exchangeBegun s x).lk = s.lk := ⟨rfl, rfl⟩

theorem exec_timeExchange {s : State} (hclk : s.clocksRun = true) (hsrc : s.fld rTbCtrl 30 2 = 2) (hmem : dstate s = 2)
    (hown : ownId s ≠ s.fld rTbCtrl 16 10) : exec .timeExchange s = .next
      (let r := routeTo s (s.fld rTbCtrl 16 10)
      let u := sendPacket s r (timePacket s 0 0 0 0)
      if r < 6 then exchangeBegun u (u.dt, r) else enterHoldover s) := by
  refine (clocked_run hclk _).trans ((if_pos ⟨hsrc, hmem, hown⟩).trans ?_)
  dsimp only
  split <;> rfl

/-- The answer of an exchange taken (R414). -/
def answerTaken (s : State) (off : Int) (hops : Nat) : State :=
  let u : State := { s with tb := { s.tb with exch := none, corr := off } }
  u.setFld rTbStatus 16 5 hops

theorem exec_timePacketArrival_answer {s : State} (hclk : s.clocksRun = true) {n : Fin 6} {pk : Packet} {t1 : Nat}
    (hport : portState s n.val = lkAttached) (hkind : pk.kind = 9) (hmsg : bits pk.dw1 0 2 = 1)
    (hexch : s.tb.exch = some (t1, n.val)) (hsrc : s.fld rTbCtrl 30 2 = 2) :
    let off := exchangeOffset s n.val t1 pk.dw2.toNat pk.dw3.toNat s.dt (signedOf 32 (bits pk.dw4 0 32))
    exec (.timePacketArrival n pk) s = .next (servo (answerTaken s off ((bits pk.dw1 12 5 + 1) % 32)) off) := by
  refine (clocked_run hclk _).trans ((if_pos (by simp [hport, hkind])).trans ?_)
  rw [hmsg]
  dsimp only
  rw [hexch]
  exact if_pos ⟨rfl, hsrc⟩

theorem answerTaken_shows (s : State) (off : Int) {hops : Nat} (h : hops < 32) :
    (answerTaken s off hops).tb.exch = none ∧ (answerTaken s off hops).tb.corr = off
      ∧ (answerTaken s off hops).fld rTbStatus 16 5 = hops :=
  ⟨rfl, rfl, (State.fld_setFld_same _ _ _ _ _ (by decide)).trans (Nat.mod_eq_of_lt h)⟩

theorem exec_timePacketArrival_request {s : State} (hclk : s.clocksRun = true) {n : Fin 6} {pk : Packet}
    (hport : portState s n.val = lkAttached) (hkind : pk.kind = 9) (hmsg : bits pk.dw1 0 2 = 0) :
    exec (.timePacketArrival n pk) s = .next (sendPacket s n.val (timePacket s 1 s.dt s.dt
      (if ownId s = s.fld rTbCtrl 16 10 then 0 else codeOfInt 32 s.tb.corr))) := by
  refine (clocked_run hclk _).trans ((if_pos (by simp [hport, hkind])).trans ?_)
  rw [hmsg]
  rfl

/-! ### PPS (R409, R411, R416) -/

/-- An edge stamped. -/
def ppsStamped (s : State) (time : W64) (clk : Nat) : State :=
  let u := s.wr rTbPpsCap time
  { u with tb := { u.tb with ppsDt := clk } }

theorem ppsStamped_shows (s : State) (time : W64) (clk : Nat) : (ppsStamped s time clk).rd rTbPpsCap = time
    ∧ (ppsStamped s time clk).tb.ppsDt = clk ∧ OnlyRegs [rTbPpsCap] s (ppsStamped s time clk)
    ∧ Only [.tb, .regs] s (ppsStamped s time clk) :=
  ⟨State.rd_wr_same .., rfl, (onlyRegs_wr s time (by simp)).trans (.of_regs _ rfl),
    ((only_wr s _ _).mono (by simp)).trans ((only_tb _ _).mono (by simp))⟩

theorem ppsEdge_eq (s : State) (off : Int) : ppsEdge s off =
    let u := ppsStamped s (BitVec.ofNat 64 s.dt) s.clk
    if u.fld rTbCtrl 30 2 = 1 then servo u (off * 256) else u := rfl

/-- An edge is stamped and steers nothing but the time base. -/
theorem ppsEdge_shows (s : State) (off : Int) : let t := ppsEdge s off
    t.rd rTbPpsCap = BitVec.ofNat 64 s.dt ∧ t.tb.ppsDt = s.clk
      ∧ (s.fld rTbCtrl 30 2 = 1 → -trimMax ≤ trimOf t ∧ trimOf t ≤ trimMax)
      ∧ (s.fld rTbCtrl 30 2 ≠ 1 → OnlyRegs [rTbPpsCap] s t) ∧ Only [.tb, .regs, .freeCtr] s t := by
  obtain ⟨hcap, hpps, hregs, honly⟩ := ppsStamped_shows s (BitVec.ofNat 64 s.dt) s.clk
  rw [ppsEdge_eq]
  dsimp only
  generalize ppsStamped s (BitVec.ofNat 64 s.dt) s.clk = u at *
  have hsrc : u.fld rTbCtrl 30 2 = s.fld rTbCtrl 30 2 := hregs.fld (by decide) 30 2
  obtain ⟨hsteer, htrim⟩ := servo_steers u (off * 256)
  rw [hsrc]
  split
  case isTrue h =>
    exact ⟨hsteer.cap.trans hcap, hsteer.pps.trans hpps, fun _ => htrim, fun hne => absurd h hne,
      (honly.mono (by simp)).trans hsteer.parts⟩
  case isFalse h => exact ⟨hcap, hpps, fun heq => absurd heq h, fun _ => hregs, honly.mono (by simp)⟩

/-- Settles O50: each command by what it does to the time base; a PPS edge that ends a wake state finds device time
and its control as they were. That clk counts apart from device time is log 179. -/
theorem deviceTimeIsSetSteppedAndSlewed : Obligations.DeviceTimeIsSetSteppedAndSlewed := by
  intro s hclk
  have hpow := State.powerUp_of_clocksRun hclk
  refine ⟨?loss, ?back, ?pps, ?holdover, ?exchange, ?answer, ?request, ?set, ?trim, ?read, ?tsync, ?triggers⟩
  case loss =>
    intro hext
    let u : State := { s with tb := { s.tb with internal := true } }
    have hkept (i : Nat) := logEntry_bit (u.setBit rTbStatus 28 true) (mkFault stRefLost 0xC 0) 0 none none rTbStatus i
      (by decide) (.inl (by decide))
    refine ⟨logOnly (u.setBit rTbStatus 28 true) (mkFault stRefLost 0xC 0),
      (powered_run hpow _).trans (if_neg (by simp [hext])), ?_, ?_, ?_, ?_, ?_⟩
    · exact (congrArg Tb.internal (logEntry_tb (u.setBit rTbStatus 28 true) _ 0 none none) :)
    · exact (hkept 28).trans (State.bit_setBit_same _ _ _ _ (by decide))
    · exact (congrArg Tb.dt (logEntry_tb (u.setBit rTbStatus 28 true) _ 0 none none) :)
    · exact logEntry_logged s _ _ 0 none none (State.fld_setBit_other u _ _ _ _ _ _ (.inl (by decide))) rfl
    · exact (((only_tb s _).mono (by simp)).then_wr _ _ (by simp [logParts])).trans
        ((logEntry_only _ _ _ _ _).mono (by simp [logParts]))
  case back => exact ⟨_, powered_run hpow _, rfl, only_tb s _⟩
  case pps =>
    intro off
    obtain ⟨htb, hctrl⟩ := Prod.mk.inj (timeView_roused s .pps)
    have hsrc : (roused s .pps).fld rTbCtrl 30 2 = s.fld rTbCtrl 30 2 := congrArg (bits · 30 2) hctrl
    obtain ⟨hcap, hpps, htrim, hregs, honly⟩ := ppsEdge_shows (roused s .pps) off
    rw [hsrc] at htrim hregs
    refine ⟨_, powered_run hpow _, hcap.trans ?_, hpps.trans (congrArg Tb.clk htb), htrim, fun hne => ?_, fun hawake => ?_⟩
    · exact congrArg (fun x : Tb => BitVec.ofNat 64 (x.dt / 2 ^ 32 % 2 ^ 64)) htb
    · have hstay : roused s .pps = s := if_pos (by simp [wakes, hne])
      exact (OnlyRegs.of_regs _ (congrArg State.regs hstay)).trans (hregs hne)
    · rw [roused_awake hawake] at honly ⊢
      exact honly
  case holdover =>
    exact fun hsrc hlate hnot => ⟨_, (powered_run hpow _).trans (if_pos ⟨hsrc, hlate, hnot⟩), enterHoldover_frame s⟩
  case exchange =>
    refine fun hsrc hmem hown => ⟨fun hroute => ?_, fun hnone => ?_⟩
    · have htb := sendPacket_only s (routeTo s (s.fld rTbCtrl 16 10)) (timePacket s 0 0 0 0) .tb rfl
      have hdt : (sendPacket s (routeTo s (s.fld rTbCtrl 16 10)) (timePacket s 0 0 0 0)).dt = s.dt :=
        congrArg (fun x : Tb => x.dt / 2 ^ 32 % 2 ^ 64) htb
      refine ⟨_, (exec_timeExchange hclk hsrc hmem hown).trans (congrArg _ (if_pos hroute)), ?_⟩
      rw [hdt]
      exact exchangeBegun_shows ..
    · obtain ⟨hstatus, htb, -, -⟩ := enterHoldover_frame s
      exact ⟨_, (exec_timeExchange hclk hsrc hmem hown).trans (congrArg _ (if_neg (by omega))),
        congrArg Tb.exch htb, hstatus⟩
  case answer =>
    intro n pk t1 hport hkind hmsg hexch hsrc
    refine ⟨_, exec_timePacketArrival_answer hclk hport hkind hmsg hexch hsrc, ?_⟩
    generalize exchangeOffset s n.val t1 pk.dw2.toNat pk.dw3.toNat s.dt (signedOf 32 (bits pk.dw4 0 32)) = off
    obtain ⟨hsteer, -⟩ := servo_steers (answerTaken s off ((bits pk.dw1 12 5 + 1) % 32)) off
    obtain ⟨hnone, hcorr, hhops⟩ := answerTaken_shows s off (Nat.mod_lt (bits pk.dw1 12 5 + 1) (by decide))
    exact ⟨hsteer.exch.trans hnone, hsteer.hops.trans hhops, hsteer.corr.trans hcorr⟩
  case request => exact fun n pk hport hkind hmsg => exec_timePacketArrival_request hclk hport hkind hmsg
  case set =>
    refine fun v hwide => ⟨fun h => ?_, fun h h' => ?_, fun h hallow hidle => ?_, fun h hnot => ?_⟩
    · obtain ⟨hdt, hslew, -, -, -, hrd, -⟩ := dtStep_forward_shows s (d := (v.toNat : Int) - s.dt) (by omega)
      exact ⟨_, (exec_tbSet hclk v).trans (congrArg _ (correct_forward (by omega))), dt_moved hwide hdt, hslew,
        congrArg (bitAt · 27) (hrd _ (by decide))⟩
    · exact ⟨_, (exec_tbSet hclk v).trans (congrArg _ (correct_slews (by omega) (.inl (by omega)))), rfl, only_tb s _⟩
    · obtain ⟨hdt, hslew, hback, htrigs, hregs, honly⟩ := dtStep_back_shows s (d := (v.toNat : Int) - s.dt) (by omega)
      exact ⟨_, (exec_tbSet hclk v).trans (congrArg _ (correct_back (by omega) hallow hidle)), dt_moved hwide hdt, hslew,
        hback, htrigs, hregs, honly⟩
    · exact ⟨_, (exec_tbSet hclk v).trans (congrArg _ (correct_slews (by omega) (.inr hnot))), rfl, only_tb s _⟩
  case trim =>
    refine fun v => ⟨fun hfree => ?_, fun hsrc => (clocked_run hclk _).trans (congrArg _ (if_neg hsrc))⟩
    have hval : bits (v.setWidth 64) 0 32 = v.toNat := by
      have hlt := v.isLt
      simp [bits, BitVec.toNat_setWidth]
      omega
    refine ⟨_, (clocked_run hclk _).trans (congrArg _ (if_pos hfree)), ?_, onlyRegs_setFld s _ _ _ (by simp),
      only_setFld s _ _ _ _⟩
    rw [trimOf_setTrim, hval]
  case read =>
    refine fun path => ⟨?_, ?_, fun e he => ?_, fun hnone => ?_⟩
    · exact ⟨_, clocked_run hclk _, rfl, only_hi s _⟩
    · refine ⟨_, exec_tbDtRead_half hclk path false (tbDtHalf_low s path), rfl, ?_, ?_⟩
      · exact SMap.find?_insert _ _ _ (SMap.find?_erase _ _)
      · exact ((only_tb s _).mono (by simp)).trans ((only_hi _ _).mono (by simp))
    · exact ⟨_, exec_tbDtRead_half hclk path true (tbDtHalf_latched he), rfl,
        ((only_tb s _).mono (by simp)).trans ((only_hi _ _).mono (by simp))⟩
    · exact ⟨_, exec_tbDtRead_half hclk path true (tbDtHalf_present hnone), rfl, only_hi s _⟩
  case tsync =>
    intro hper hdue hstart
    obtain ⟨hfall, hnext, honly⟩ := tsyncRaised_shows s (s.dt + 100000) (tsyncAfter s s.dt)
    obtain ⟨hafter, hmult⟩ := tsyncAfter_due hper s.dt
    exact ⟨_, exec_tsyncEdge hclk hper hdue hstart, hfall, hnext.symm ▸ hafter, hnext.symm ▸ hmult, honly⟩
  case triggers =>
    refine fun k => ⟨fun v hidle harm hstart => ?_, fun v hoff => ?_, fun harmed hdue => ?_⟩
    · have hne : rTbTrgStart k.val ≠ rTbTrgCtrl k.val := by unfold rTbTrgStart rTbTrgCtrl; omega
      have hearly : s.dt ≤ ((trgAt (trgWritten s k.val (v.setWidth 64)) k.val 0).rd (rTbTrgStart k.val)).toNat :=
        hstart.trans (congrArg BitVec.toNat (State.rd_wr_other s _ hne)).ge
      refine ⟨_, (clocked_run hclk _).trans
        (congrArg _ ((trgCtrlWrite_arms hidle harm).trans (trigSkip_early hearly))), ?_, Tb.trig_setTrig ..,
        fun j hj => Tb.trig_setTrig_other _ _ hj, ?_, ?_⟩
      · exact (trgWritten_arm s k.val (v.setWidth 64)).trans harm
      · exact (onlyRegs_wr s _ (by simp)).trans (.of_regs _ rfl)
      · exact ((only_wr s _ _).mono (by simp)).trans ((only_tb _ _).mono (by simp))
    · refine ⟨_, (clocked_run hclk _).trans (congrArg _ (trgCtrlWrite_disarms hoff)), ?_, onlyRegs_wr s _ (by simp),
        only_wr s _ _⟩
      exact (trgWritten_arm s k.val (v.setWidth 64)).trans hoff
    · let u := (edgeRaised s k.val (s.dt + s.fld (rTbTrgCtrl k.val) 16 15)).addWrap (rTbTrgStatus k.val) 0 16
      have hne : rTbTrgCtrl k.val ≠ rTbTrgStatus k.val := by unfold rTbTrgStatus rTbTrgCtrl; omega
      have hctrl : u.rd (rTbTrgCtrl k.val) = s.rd (rTbTrgCtrl k.val) := State.rd_addWrap_other _ _ _ hne
      have hraised : u.tb.trig k.val = { s.tb.trig k.val with fall := s.dt + s.fld (rTbTrgCtrl k.val) 16 15 } :=
        Tb.trig_setTrig ..
      obtain ⟨htrig, hbit, hregs, honly⟩ := trigAdvance_shows u k.val ((s.tb.trig k.val).next + 1)
      have hcount : u.fld (rTbTrgCtrl k.val) 0 16 = s.fld (rTbTrgCtrl k.val) 0 16 := congrArg (bits · 0 16) hctrl
      have harm : u.bit (rTbTrgCtrl k.val) 31 = true := (congrArg (bitAt · 31) hctrl).trans harmed
      rw [harm, hcount, Bool.true_and] at hbit
      rw [hraised] at htrig
      refine ⟨_, exec_triggerEdge hclk harmed hdue, congrArg Trig.fall htrig, congrArg Trig.next htrig, ?_, hbit, ?_, ?_⟩
      · refine (hregs.fld (by simp) 0 16).trans ?_
        exact State.fld_addWrap_same _ _ _ _ (by decide)
      · exact ((OnlyRegs.of_regs _ rfl).trans (onlyRegs_addWrap (edgeRaised s k.val _) _ _ (by simp))).trans
          (hregs.mono (by simp))
      · exact (((only_tb s _).mono (by simp)).then_wr _ _ (by simp)).trans honly

end Sys2Proof.Machine
end

section
/-! The MP's watchdog and measures, and the wake states (R434, R435, R473 to R475). -/

namespace Sys2Proof.Machine

theorem only_boot (s : State) (x : Boot) : Only [.boot] s { s with boot := x } := by
  intro q hq
  cases q <;> simp_all [Part.same]

theorem only_sst (s : State) (x : Sst) : Only [.sst] s { s with sst := x } := by
  intro q hq
  cases q <;> simp_all [Part.same]

/-! ### The phase of a start (R498, R505) -/

theorem startPhase_setPhase (s : State) {p : Nat} (h : p < 8) : startPhase (setPhase s p) = p :=
  (State.fld_setFld_same _ _ _ _ _ (by decide)).trans (Nat.mod_eq_of_lt h)

theorem startFail_frame (s : State) (status : Nat) : startPhase (startFail s status) = 6
    ∧ (startFail s status).boot.starting = false ∧ Only [.boot, .regs] s (startFail s status) := by
  refine ⟨?_, rfl, ?_⟩
  · exact (State.fld_setFld_other (setPhase s 6) _ _ _ _ _ _ _ (.inr (by decide))).trans
      (startPhase_setPhase s (by decide))
  · exact (((only_setFld s _ _ _ _).mono (by simp)).then_wr _ _ (by simp)).trans ((only_boot _ _).mono (by simp))

/-! ### The watchdog (R435, R505) -/

/-- A start begun again at phase 1 after an expiry. -/
def startAgain (s : State) : State :=
  let u := s.addWrap rHiMpStatus 0 15
  let v := setPhase { u with boot := { u.boot with expiries := s.boot.expiries + 1 } } 1
  { v with boot := { v.boot with fromOne := true } }

/-- A start stopped by its third expiry. -/
def startStopped (s : State) : State :=
  let u := s.addWrap rHiMpStatus 0 15
  startFail { u with boot := { u.boot with expiries := s.boot.expiries + 1 } } stWatchdog

theorem exec_mpWatchdogExpiry_start {s : State} (hpow : s.powerUp = true) (h : s.boot.starting = true) :
    exec .mpWatchdogExpiry s = .next (if 3 ≤ s.boot.expiries + 1 then startStopped s else startAgain s) := by
  refine (powered_run hpow _).trans ((if_pos h).trans ?_)
  exact (apply_ite Host.Outcome.next _ _ _).symm

/-- A request that is aborted leaves DONE in its channel. -/
theorem mbAnswer_done (s : State) (q : MbReq) (st : Nat) (pl : List W64) {k : Nat}
    (h : k = q.chan ∨ (s.mbox k).st = .done) : ((mbAnswer s q st pl).mbox k).st = .done := by
  obtain ⟨hown, hother, -⟩ := mbAnswer_frame s q st pl
  by_cases hk : k = q.chan
  · rw [hk, hown]
    rfl
  · rw [hother k hk]
    exact h.resolve_left hk

/-- Every request of a list aborted. -/
def allAborted (s : State) (l : List MbReq) : State := l.foldl (fun s q => mbAnswer s q stAborted []) s

theorem allAborted_done {l : List MbReq} {s : State} {k : Nat} (h : (∃ q ∈ l, q.chan = k) ∨ (s.mbox k).st = .done) :
    ((allAborted s l).mbox k).st = .done := by
  induction l generalizing s with
  | nil => exact h.resolve_left (by simp)
  | cons q r ih =>
    refine ih ?_
    obtain ⟨p, hp, hpk⟩ | hdone := h
    · obtain rfl | hp := List.mem_cons.1 hp
      · exact .inr (mbAnswer_done s p _ _ (.inl hpk.symm))
      · exact .inl ⟨p, hp, hpk⟩
    · exact .inr (mbAnswer_done s q _ _ (.inr hdone))

theorem allAborted_only (s : State) (l : List MbReq) : Only [.hi] s (allAborted s l) :=
  foldl_only _ (fun u q => (mbAnswer_frame u q stAborted []).2.2) l s

/-- The parts that a restart of the MP may touch of a pass and of an attestation. -/
def passParts : List Part := [.sst, .regs, .boot, .sec, .freeCtr]

theorem sstStatus_only (s : State) (st : Nat) : Only [.regs] s (sstStatus s st) :=
  ((only_setFld s _ _ _ _).trans (only_setFld _ _ _ _ _)).trans (only_setFld _ _ _ _ _)

theorem sstStatus_rd (s : State) (st : Nat) {o : Nat} (h : o ≠ rSstStatus) : (sstStatus s st).rd o = s.rd o := by
  rw [sstStatus, State.rd_setFld_other _ _ _ _ h, State.rd_setFld_other _ _ _ _ h, State.rd_setFld_other _ _ _ _ h]

/-- A record copy, and a row of the OTP, that a torn commit leaves unusable. -/
def recordTorn (s : State) (k : Nat) : State :=
  if k % 2 = 1 then
    { s with boot := if s.sst.src = 1 then { s.boot with recB := [] } else { s.boot with recA := [] } }
  else s
def rowTorn (s : State) (k : Nat) : State :=
  if k / 2 % 2 = 1 ∧ hardenList s ≠ [] then
    ((List.range 1024).find? (rowFree s)).elim s fun i => { s with sec := { s.sec with consumed := i :: s.sec.consumed } }
  else s

theorem tearCommit_eq (s : State) : ∃ k, tearCommit s
    = if s.sst.committing then (rowTorn (recordTorn s k) k).drawn else s := by
  refine ⟨Config.pick 2 s.freeCtr, ?_⟩
  unfold tearCommit rowTorn recordTorn
  generalize Config.pick 2 s.freeCtr = k
  dsimp only
  generalize List.find? _ (List.range 1024) = row
  cases row <;> rfl

theorem recordTorn_frame (s : State) (k : Nat) : (recordTorn s k).regs = s.regs ∧ Only [.boot] s (recordTorn s k) := by
  unfold recordTorn
  split
  · exact ⟨rfl, only_boot s _⟩
  · exact ⟨rfl, Only.refl _ s⟩

theorem rowTorn_frame (s : State) (k : Nat) : (rowTorn s k).regs = s.regs ∧ Only [.sec] s (rowTorn s k) := by
  unfold rowTorn
  split
  · cases (List.range 1024).find? (rowFree s) with
    | none => exact ⟨rfl, Only.refl _ s⟩
    | some i => exact ⟨rfl, only_sec s _⟩
  · exact ⟨rfl, Only.refl _ s⟩

theorem tearCommit_frame (s : State) : (tearCommit s).regs = s.regs ∧ Only [.boot, .sec, .freeCtr] s (tearCommit s) := by
  obtain ⟨k, htear⟩ := tearCommit_eq s
  rw [htear]
  split
  · obtain ⟨hregs, honly⟩ := recordTorn_frame s k
    obtain ⟨hregs', honly'⟩ := rowTorn_frame (recordTorn s k) k
    exact ⟨hregs'.trans hregs, ((honly.mono (by simp)).trans (honly'.mono (by simp))).trans
      (only_drawn _ (by simp))⟩
  · exact ⟨rfl, Only.refl _ s⟩

/-- A restart of the MP leaves every register but the status of a pass. -/
theorem sstMpReset_frame (s : State) : (∀ o, o ≠ rSstStatus → (sstMpReset s).rd o = s.rd o)
    ∧ Only passParts s (sstMpReset s) := by
  unfold sstMpReset
  split
  · refine ⟨fun o ho => ?_, ?_⟩
    · exact (sstStatus_rd _ _ ho).trans (State.rd_setBit_other _ _ _ ho)
    · exact (((only_sst s _).mono (by simp [passParts])).then_wr _ _ (by simp [passParts])).trans
        ((sstStatus_only _ _).mono (by simp [passParts]))
  · obtain ⟨hregs, honly⟩ := tearCommit_frame s
    refine ⟨fun o ho => ?_, ?_⟩
    · exact (sstStatus_rd _ _ ho).trans (State.rd_of_regs hregs o)
    · exact ((honly.mono (by simp [passParts])).trans ((only_sst _ _).mono (by simp [passParts]))).trans
        ((sstStatus_only _ _).mono (by simp [passParts]))
  · exact ⟨fun _ _ => rfl, Only.refl _ s⟩

theorem attestAbort_frame (s : State) : (∀ o, o ≠ rSecAttest → (attestAbort s).rd o = s.rd o)
    ∧ Only [.regs] s (attestAbort s) := by
  unfold attestAbort
  split
  · exact ⟨fun o ho => State.rd_wr_other _ _ ho, only_wr s _ _⟩
  · exact ⟨fun _ _ => rfl, Only.refl _ s⟩

/-- The MP restarting, once the pass and the attestation have been dealt with. -/
def mpRestarted (s : State) : State :=
  let u := s.addWrap rHiMpStatus 0 15
  { u with mp := { u.mp with answer := none, begun := false, restarting := true } }

theorem mpReset_eq (s : State) : mpReset s
    = mpRestarted (attestAbort (sstMpReset (setMbQueue (allAborted s s.mp.queue) []))) := rfl

theorem mpRestarted_shows (s : State) : let t := mpRestarted s
    t.mp.restarting = true ∧ t.mp.queue = s.mp.queue ∧ t.mp.answer = none
      ∧ t.fld rHiMpStatus 0 15 = (s.fld rHiMpStatus 0 15 + 1) % 2 ^ 15 ∧ Only [.mp, .regs] s t := by
  refine ⟨rfl, rfl, rfl, State.fld_addWrap_same s _ _ _ (by decide), ?_⟩
  exact ((only_addWrap s _ _ _).mono (by simp)).trans ((only_mp _ _).mono (by simp))

/-- The parts that a restart of the MP touches. -/
def mpResetParts : List Part := .mp :: .hi :: .err :: passParts

/-- An MP-only reset answers its queue and leaves wells, streams, tasks and memory (R435). -/
theorem mpReset_shows (s : State) : let t := mpReset s
    t.mp.restarting = true ∧ t.mp.queue = [] ∧ t.mp.answer = none
      ∧ t.fld rHiMpStatus 0 15 = (s.fld rHiMpStatus 0 15 + 1) % 2 ^ 15
      ∧ (∀ q, q ∈ s.mp.queue → (t.mbox q.chan).st = .done) ∧ Only mpResetParts s t := by
  rw [mpReset_eq]
  dsimp only
  have habort := allAborted_only s s.mp.queue
  have hqueue := setMbQueue_only (allAborted s s.mp.queue) []
  have hcount : (setMbQueue (allAborted s s.mp.queue) []).fld rHiMpStatus 0 15 = s.fld rHiMpStatus 0 15 :=
    (State.fld_setFld_other (allAborted s s.mp.queue) _ _ _ _ _ _ _ (.inr (by decide))).trans
      (congrArg (bits · 0 15) (State.rd_of_regs (habort .regs rfl) _))
  have hdone (q : MbReq) (hq : q ∈ s.mp.queue) : ((setMbQueue (allAborted s s.mp.queue) []).mbox q.chan).st = .done :=
    allAborted_done (.inl ⟨q, hq, rfl⟩)
  have hempty : (setMbQueue (allAborted s s.mp.queue) []).mp.queue = [] := rfl
  have honly : Only mpResetParts s (setMbQueue (allAborted s s.mp.queue) []) :=
    (habort.mono (by simp [mpResetParts])).trans (hqueue.mono (by simp [mpResetParts, passParts]))
  generalize setMbQueue (allAborted s s.mp.queue) [] = u at *
  obtain ⟨hrd, honly1⟩ := sstMpReset_frame u
  obtain ⟨hrd', honly2⟩ := attestAbort_frame (sstMpReset u)
  obtain ⟨hrestart, hq, hanswer, hstatus, honly3⟩ := mpRestarted_shows (attestAbort (sstMpReset u))
  have hmp : (attestAbort (sstMpReset u)).mp = u.mp := (honly2 .mp rfl).trans (honly1 .mp rfl)
  have hhi : (mpRestarted (attestAbort (sstMpReset u))).hi = u.hi :=
    (honly3 .hi rfl).trans ((honly2 .hi rfl).trans (honly1 .hi rfl))
  refine ⟨hrestart, ?_, hanswer, ?_, fun q hq => ?_, ?_⟩
  · exact hq.trans ((congrArg Mp.queue hmp).trans hempty)
  · rw [hstatus, State.fld, hrd' _ (by decide), hrd _ (by decide)]
    exact congrArg (fun n => (n + 1) % 2 ^ 15) hcount
  · exact (congrArg Mbox.st (State.mbox_of_mboxes (congrArg HostIf.mboxes hhi) q.chan)).trans (hdone q hq)
  · exact ((honly.trans (honly1.mono (by simp [mpResetParts, passParts]))).trans
      (honly2.mono (by simp [mpResetParts, passParts]))).trans (honly3.mono (by simp [mpResetParts, passParts]))

/-! ### Self-refresh (R373, R472) -/

/-- Check lines of a controller all written back and dropped. -/
def cacheEmpty (s : State) (n : Nat) : Prop := (s.mc n).cache = [] ∧ (s.mc n).dirty = []

theorem checkOut_empty {s : State} {k : Nat} (h : cacheEmpty s k) (key : Nat) : cacheEmpty (checkOut s key) k := by
  obtain ⟨hcache, hdirty⟩ := h
  unfold checkOut cacheEmpty
  dsimp only
  split
  · rw [bwCount_mc, event_mc]
    by_cases hk : k = key / 2 ^ 32 / 4
    · subst hk
      rw [State.mc_setMc_same]
      exact ⟨hcache, congrArg (List.erase · key) hdirty⟩
    · rw [State.mc_setMc_other _ _ hk]
      exact ⟨hcache, hdirty⟩
  · exact ⟨hcache, hdirty⟩

theorem cacheFlush_own (s : State) (n : Nat) : cacheEmpty (cacheFlush s n) n := by
  unfold cacheFlush cacheEmpty
  dsimp only
  rw [State.mc_setMc_same]
  exact ⟨rfl, rfl⟩

theorem cacheFlush_other {s : State} {k n : Nat} (hk : k ≠ n) (h : cacheEmpty s k) : cacheEmpty (cacheFlush s n) k := by
  have hout : cacheEmpty ((s.mc n).dirty.foldl checkOut s) k :=
    List.foldlRecOn (motive := fun t => cacheEmpty t k) _ _ h fun t ht key _ => checkOut_empty ht key
  unfold cacheFlush cacheEmpty
  dsimp only
  rw [State.mc_setMc_other _ _ hk]
  exact hout

theorem cacheFlush_rd (s : State) (n : Nat) {o : Nat} (ho : o < 0xA0000 ∨ 0xA0010 ≤ o ∧ o < 0xA0200 ∨ 0xB0000 ≤ o) :
    (cacheFlush s n).rd o = s.rd o :=
  foldl_part (State.rd · o) checkOut (fun u key => checkOut_rd ho u key) _ s

theorem cacheFlush_only (s : State) (n : Nat) : Only dramParts s (cacheFlush s n) :=
  (foldl_only _ (fun u key => hideDram_only (hideDram_checkOut u key)) _ s).trans
    (hideDram_only (hideDram_setMc _ _ _))

/-- A controller reports that it refreshes itself, or no longer does. -/
def refreshSet (s : State) (on : Bool) (n : Nat) : State :=
  if s.hasMc n then (if on then cacheFlush s n else s).setBit (rMcStatus n) 30 on else s

theorem selfRefresh_eq (s : State) (on : Bool) : selfRefresh s on
    = (List.range 8).foldl (fun s n => refreshSet s on n) s := rfl

theorem refreshSet_rd (s : State) (on : Bool) {n o : Nat} (hn : o ≠ rMcStatus n)
    (ho : o < 0xA0000 ∨ 0xA0010 ≤ o ∧ o < 0xA0200 ∨ 0xB0000 ≤ o) : (refreshSet s on n).rd o = s.rd o := by
  unfold refreshSet
  split
  · rw [State.rd_setBit_other _ _ _ hn]
    split
    · exact cacheFlush_rd s n ho
    · rfl
  · rfl

/-- A controller that refreshes itself, its check lines written back. -/
def refreshing (s : State) (n : Nat) : Prop := s.bit (rMcStatus n) 30 = true ∧ cacheEmpty s n

theorem refreshSet_own {s : State} {n : Nat} (h : s.hasMc n = true) : refreshing (refreshSet s true n) n := by
  unfold refreshSet
  rw [if_pos h]
  exact ⟨State.bit_setBit_same _ _ _ _ (by decide), cacheFlush_own s n⟩

theorem refreshSet_other {s : State} {k n : Nat} (hk : k ≠ n) (h : refreshing s k) : refreshing (refreshSet s true n) k := by
  obtain ⟨hbit, hempty⟩ := h
  have hne : rMcStatus k ≠ rMcStatus n := by unfold rMcStatus; omega
  refine ⟨(congrArg (bitAt · 30) (refreshSet_rd s true hne (by unfold rMcStatus; omega))).trans hbit, ?_⟩
  unfold refreshSet
  split
  · exact cacheFlush_other hk hempty
  · exact hempty

theorem refreshAll {l : List Nat} {s : State} {k : Nat} (hmc : s.hasMc k = true) (h : k ∈ l ∨ refreshing s k) :
    refreshing (l.foldl (fun s n => refreshSet s true n) s) k := by
  induction l generalizing s with
  | nil => exact h.resolve_left (by simp)
  | cons n r ih =>
    have hunits : (refreshSet s true n).rd rCapUnits = s.rd rCapUnits :=
      refreshSet_rd s true (by unfold rCapUnits rMcStatus; omega) (by decide)
    have hmc' : (refreshSet s true n).hasMc k = true := by
      rw [State.hasMc, State.bit, hunits]
      exact hmc
    refine ih hmc' ?_
    by_cases hk : k = n
    · subst hk
      exact .inr (refreshSet_own hmc)
    · obtain h | h := h
      · exact .inl ((List.mem_cons.1 h).resolve_left hk)
      · exact .inr (refreshSet_other hk h)

theorem selfRefresh_rd (s : State) (on : Bool) {o : Nat} (ho : o < 0xA0000) : (selfRefresh s on).rd o = s.rd o :=
  foldl_part (State.rd · o) (fun s n => refreshSet s on n)
    (fun u n => refreshSet_rd u on (by unfold rMcStatus; omega) (.inl ho)) _ s

theorem selfRefresh_only (s : State) (on : Bool) : Only dramParts s (selfRefresh s on) :=
  foldl_only (fun s n => refreshSet s on n) (fun u n => by
    unfold refreshSet
    split
    · refine Only.then_wr ?_ _ _ (by simp [dramParts])
      split
      · exact cacheFlush_only u n
      · exact Only.refl _ u
    · exact Only.refl _ u) _ s

theorem selfRefresh_off_only (s : State) : Only [.regs] s (selfRefresh s false) :=
  foldl_only (fun s n => refreshSet s false n) (fun u n => by
    unfold refreshSet
    split
    · exact only_setBit u _ _ _
    · exact Only.refl _ u) _ s

/-! ### Entering and leaving a wake state (R473 to R475, R511) -/

/-- W5 entered: the power is asked to be cut. -/
def offEntered (u : State) : State :=
  let v := u.setFld rPwrWake 29 3 5
  { v with pwr := { v.pwr with offPin := false } }

theorem offEntered_shows (u : State) : wakeState (offEntered u) = 5 ∧ (offEntered u).pwr.offPin = false
    ∧ OnlyRegs [rPwrWake] u (offEntered u) ∧ Only [.regs, .pwr] u (offEntered u) := by
  refine ⟨State.fld_setFld_same u _ _ _ _ (by decide), rfl, ?_, ?_⟩
  · exact (onlyRegs_setFld u _ _ _ (by simp)).trans (.of_regs _ rfl)
  · exact ((only_setFld u _ _ _ _).mono (by simp)).trans ((only_pwr _ _).mono (by simp))

theorem exec_wakeEntry {s : State} (hclk : s.clocksRun = true) (hw : wakeState s = 0) (hready : s.ready = true)
    (hmp : s.mp.restarting = false) (hsst : sstBusy s = false) (hidle : idleLong s = true) (hdeep : deepest s ≠ 0) :
    exec .wakeEntry s = .next
      (let u := s.setFld rPwrWake 26 3 (deepest s)
      if deepest s = 5 then
        if u.bit rPwrWake 25 then sstStart (selfRefresh u true) true
        else offEntered u
      else (if deepest s = 4 then selfRefresh u true else u).setFld rPwrWake 29 3 (deepest s)) := by
  refine (clocked_run hclk _).trans ((if_pos (by simp [hw, hready, hmp, hsst, hidle])).trans ?_)
  dsimp only
  rw [if_neg hdeep]
  by_cases h5 : deepest s = 5
  · rw [if_pos h5, if_pos h5]
    exact (apply_ite Host.Outcome.next _ _ _).symm
  · rw [if_neg h5, if_neg h5]

theorem exec_wakeEntry_stays {s : State} (hclk : s.clocksRun = true) (hdeep : deepest s = 0) :
    exec .wakeEntry s = .next s := by
  refine (clocked_run hclk _).trans ?_
  rw [hdeep]
  exact ite_self _

/-- The state entered, and the deepest one allowed, in `PWR_WAKE`. -/
theorem wakeSet_shows {s u : State} {d : Nat} (hd : d < 8) (hsame : u.rd rPwrWake = (s.setFld rPwrWake 26 3 d).rd rPwrWake) :
    wakeState (u.setFld rPwrWake 29 3 d) = d ∧ (u.setFld rPwrWake 29 3 d).fld rPwrWake 26 3 = d := by
  refine ⟨(State.fld_setFld_same _ _ _ _ _ (by decide)).trans (Nat.mod_eq_of_lt hd), ?_⟩
  refine (State.fld_setFld_other _ _ _ _ _ _ _ _ (.inr (by decide))).trans ?_
  rw [State.fld, hsame]
  exact (State.fld_setFld_same _ _ _ _ _ (by decide)).trans (Nat.mod_eq_of_lt hd)

theorem partOrder_of_boot {s t : State} (h : t.boot = s.boot) : partOrder t = partOrder s := by
  have hfit : partFitted t = partFitted s := by
    funext n
    simp only [partFitted, fusedUnits, h]
  rw [partOrder, partOrder, hfit]

theorem sstStart_shows (s : State) (shutdown : Bool) : let t := sstStart s shutdown
    t.fld rSstStatus 29 3 = 1 ∧ t.sst.shutdown = shutdown ∧ t.sst.testing = (partOrder s).take 4
      ∧ (∀ o, o ≠ rSstStatus → t.rd o = s.rd o) ∧ Only [.sst, .regs] s t := by
  refine ⟨?_, rfl, rfl, fun o ho => (sstStatus_rd _ _ ho).trans (State.rd_setBit_other _ _ _ ho), ?_⟩
  · exact (State.fld_setFld_other _ _ _ _ _ _ _ _ (.inr (by decide))).trans
      ((State.fld_setFld_other _ _ _ _ _ _ _ _ (.inr (by decide))).trans (State.fld_setFld_same _ _ _ _ _ (by decide)))
  · exact (((only_sst s _).mono (by simp)).then_wr _ _ (by simp)).trans ((sstStatus_only _ _).mono (by simp))

/-- The wake state left. -/
def wakeLeft (s : State) : State :=
  let u := s.setFld rPwrWake 29 3 0
  { u with pwr := { u.pwr with idleSince := none } }

theorem wakeLeft_shows (s : State) : wakeState (wakeLeft s) = 0 ∧ (wakeLeft s).pwr.idleSince = none
    ∧ Only [.regs, .pwr] s (wakeLeft s) := by
  refine ⟨State.fld_setFld_same s _ _ _ _ (by decide), rfl, ?_⟩
  exact ((only_setFld s _ _ _ _).mono (by simp)).trans ((only_pwr _ _).mono (by simp))

theorem wakeUp_shallow {s : State} (h : wakeState s ≠ 2) :
    wakeUp s = if wakeState s = 4 then selfRefresh (wakeLeft s) false else wakeLeft s := if_neg h

theorem exec_wakeExit_doorbell {s : State} (hclk : s.clocksRun = true) (h : 1 ≤ wakeState s ∧ wakeState s ≤ 4) :
    exec (.wakeExit .doorbell) s = .next (wakeUp s) := by
  refine (clocked_run hclk _).trans (congrArg _ ((if_neg (by simp [hclk, wakes])).trans (if_pos ?_)))
  simp [h.1, h.2]

theorem wakeUp_shows {s : State} (h : wakeState s ≠ 2) : wakeState (wakeUp s) = 0
    ∧ (wakeUp s).pwr.idleSince = none ∧ Only [.regs, .pwr] s (wakeUp s) := by
  obtain ⟨hstate, hsince, honly⟩ := wakeLeft_shows s
  rw [wakeUp_shallow h]
  split
  · have hoff := selfRefresh_off_only (wakeLeft s)
    refine ⟨?_, (congrArg Pwr.idleSince (hoff .pwr rfl)).trans hsince, honly.trans (hoff.mono (by simp))⟩
    exact (congrArg (bits · 29 3) (selfRefresh_rd _ _ (by decide))).trans hstate
  · exact ⟨hstate, hsince, honly⟩

/-- The state after entering a wake state that the self-test does not precede (R474). -/
theorem wakeEntry_shallow_shows {s : State} {d : Nat} (hd : d < 8) :
    let u := s.setFld rPwrWake 26 3 d
    let t := (if d = 4 then selfRefresh u true else u).setFld rPwrWake 29 3 d
    wakeState t = d ∧ t.fld rPwrWake 26 3 = d ∧ (d ≠ 4 → OnlyRegs [rPwrWake] s t ∧ Only [.regs] s t)
      ∧ (d = 4 → ∀ n, n < 8 → s.hasMc n = true →
        t.bit (rMcStatus n) 30 = true ∧ (t.mc n).cache = [] ∧ (t.mc n).dirty = []) := by
  dsimp only
  have hsame : (if d = 4 then selfRefresh (s.setFld rPwrWake 26 3 d) true else s.setFld rPwrWake 26 3 d).rd rPwrWake
      = (s.setFld rPwrWake 26 3 d).rd rPwrWake := by
    split
    · exact selfRefresh_rd _ _ (by decide)
    · rfl
  obtain ⟨hstate, hdeep⟩ := wakeSet_shows hd hsame
  refine ⟨hstate, hdeep, fun h4 => ?_, fun h4 n hn hmc => ?_⟩
  · rw [if_neg h4]
    exact ⟨(onlyRegs_setFld s _ _ _ (by simp)).trans (onlyRegs_setFld _ _ _ _ (by simp)),
      (only_setFld s _ _ _ _).trans (only_setFld _ _ _ _ _)⟩
  · rw [if_pos h4]
    have hunits : (s.setFld rPwrWake 26 3 d).hasMc n = s.hasMc n := by
      rw [State.hasMc, State.bit, State.rd_setFld_other _ _ _ _ (show rCapUnits ≠ rPwrWake by decide)]
      rfl
    have hne : rMcStatus n ≠ rPwrWake := by unfold rMcStatus rPwrWake; omega
    obtain ⟨hbit, hempty⟩ := refreshAll (l := List.range 8) (hunits.trans hmc) (.inl (List.mem_range.2 hn))
    exact ⟨(congrArg (bitAt · 30) (State.rd_setFld_other _ _ _ _ hne)).trans hbit, hempty⟩

/-- The last pass before W5, begun with the memory refreshing itself (R519, R524). -/
theorem wakeEntry_pass_shows {s : State} {d : Nat} (hw : wakeState s = 0) :
    let t := sstStart (selfRefresh (s.setFld rPwrWake 26 3 d) true) true
    t.fld rSstStatus 29 3 = 1 ∧ t.sst.shutdown = true ∧ t.sst.testing = (partOrder s).take 4 ∧ wakeState t = 0 := by
  obtain ⟨hstate, hshut, htest, hrd, -⟩ := sstStart_shows (selfRefresh (s.setFld rPwrWake 26 3 d) true) true
  refine ⟨hstate, hshut, htest.trans (congrArg _ (partOrder_of_boot ?_)), ?_⟩
  · exact (selfRefresh_only _ true .boot rfl).trans rfl
  · exact (congrArg (bits · 29 3) ((hrd _ (by decide)).trans (selfRefresh_rd _ _ (by decide)))).trans
      ((State.fld_setFld_other s _ _ _ _ _ _ _ (.inr (by decide))).trans hw)

/-! ### The busy fraction (R434) -/

theorem exec_mpBusyMeasure {s : State} (hpow : s.powerUp = true) (hmp : s.mp.restarting = false) (busy : BitVec 8) :
    exec (.mpBusyMeasure busy) s = .next ((s.setFld rHiMpStatus 20 8 busy.toNat).setFld rHiMpStatus 28 4
      (if 765 < 4 * busy.toNat then Nat.min 8 (2 * s.fld rHiMpStatus 28 4)
        else if 2 * busy.toNat < 255 then Nat.max 1 (s.fld rHiMpStatus 28 4 / 2) else s.fld rHiMpStatus 28 4)) :=
  (powered_run hpow _).trans (if_neg (by simp [hmp]))

/-- Settles O52: a restart of the MP, a start begun again, telemetry, and the wake states by their rules.
What the statement rests on beside its cites: phases and FAILED are R505, the firmware's checks R527 and
R528, the flush before self-refresh R373 and R472. The model's choices are the entry of a restart taken in
one step (log 122) and the waits for the MP's turn (log 169). -/
theorem mpDutiesAndWakeStates : Obligations.MpDutiesAndWakeStates := by
  unfold Obligations.MpDutiesAndWakeStates
  intro s hclk
  have hpow := State.powerUp_of_clocksRun hclk
  refine ⟨fun hstart hmp => ?reset, fun hstart hfew => ?again, fun hstart hmany => ?stopped, fun hmp => ?complete,
    fun hturn => ?sampled, fun hturn => ?unsampled, fun busy hmp => ?busy, fun hw hready hmp hsst hidle => ?entry,
    fun hw => ?exit, fun e haw => ?awake, fun v haw => ?lattol⟩
  case reset =>
    have hlog := logEntry_only s (mkFault stWatchdog 0xA 0) 0 none none
    obtain ⟨hrestart, hqueue, hanswer, hcount, hdone, honly⟩ := mpReset_shows (logOnly s (mkFault stWatchdog 0xA 0))
    have hq : (logOnly s (mkFault stWatchdog 0xA 0)).mp.queue = s.mp.queue := congrArg Mp.queue (hlog .mp rfl)
    have hstat : (logOnly s (mkFault stWatchdog 0xA 0)).fld rHiMpStatus 0 15 = s.fld rHiMpStatus 0 15 :=
      congrArg (bits · 0 15) (logOnly_rd (.inl (by decide)) s _)
    refine ⟨_, (powered_run hpow _).trans ((if_neg (by simp [hstart])).trans (if_neg (by simp [hmp]))), hrestart, hqueue,
      hanswer, hcount.trans (by rw [hstat]), fun q hmem => hdone q (hq.symm ▸ hmem), ?_, ?_, ?_, fun a => ?_⟩
    · exact (honly .wells rfl).trans (hlog .wells rfl)
    · exact (honly .strs rfl).trans (hlog .strs rfl)
    · exact (honly .dc rfl).trans (hlog .dc rfl)
    · exact (honly .mem rfl a).trans (hlog .mem rfl a)
  case again =>
    refine ⟨_, (exec_mpWatchdogExpiry_start hpow hstart).trans (congrArg _ (if_neg (by omega))), ?_, rfl, ?_⟩
    · exact startPhase_setPhase _ (by decide)
    · exact ((((only_addWrap s _ _ _).mono (by simp)).trans ((only_boot _ _).mono (by simp))).then_wr _ _ (by simp)).trans
        ((only_boot _ _).mono (by simp))
  case stopped =>
    obtain ⟨hphase, hend, honly⟩ := startFail_frame
      { s.addWrap rHiMpStatus 0 15 with boot := { s.boot with expiries := s.boot.expiries + 1 } } stWatchdog
    refine ⟨_, (exec_mpWatchdogExpiry_start hpow hstart).trans (congrArg _ (if_pos (by omega))), hphase, hend, ?_⟩
    exact (((only_addWrap s _ _ _).mono (by simp)).trans ((only_boot _ _).mono (by simp))).trans honly
  case complete =>
    by_cases hfw : fwVerify s = true
    · refine ⟨_, (powered_run hpow _).trans ((if_pos hmp).trans (if_pos hfw)), ?_⟩
      dsimp only
      rw [if_pos hfw]
    · obtain ⟨hphase, -, honly⟩ := startFail_frame (logOnly s (mkFault stSecViolation 0xE 0)) stSecViolation
      refine ⟨_, (powered_run hpow _).trans ((if_pos hmp).trans (if_neg hfw)), ?_⟩
      dsimp only
      rw [if_neg hfw]
      exact ⟨hphase, (congrArg Mp.restarting ((honly .mp rfl).trans (logEntry_mp s _ _ _ _))).trans hmp⟩
  case sampled => exact ⟨_, (powered_run hpow _).trans (congrArg _ (if_pos hturn)), rfl, only_mp s _⟩
  case unsampled => exact (powered_run hpow _).trans (congrArg _ (if_neg (by simp [hturn])))
  case busy =>
    have hf : s.fld rHiMpStatus 28 4 < 16 := Nat.mod_lt _ (by decide)
    have hslow (u : State) {x : Nat} (hx : x < 16) : (u.setFld rHiMpStatus 28 4 x).fld rHiMpStatus 28 4 = x :=
      (State.fld_setFld_same _ _ _ _ _ (by decide)).trans (Nat.mod_eq_of_lt hx)
    refine ⟨_, exec_mpBusyMeasure hpow hmp busy, ?_, fun hhigh => ?_, fun hlow => ?_, fun h1 h2 => ?_, ?_, ?_⟩
    · exact (State.fld_setFld_other _ _ _ _ _ _ _ _ (.inr (by decide))).trans
        ((State.fld_setFld_same s _ _ _ _ (by decide)).trans (Nat.mod_eq_of_lt busy.isLt))
    · rw [if_pos hhigh]
      exact hslow _ ((Nat.min_le_left _ _).trans_lt (by decide))
    · rw [if_neg (by omega), if_pos hlow]
      exact hslow _ (Nat.max_lt.2 ⟨by decide, by omega⟩)
    · rw [if_neg (by omega), if_neg (by omega)]
      exact hslow _ hf
    · exact (onlyRegs_setFld s _ _ _ (by simp)).trans (onlyRegs_setFld _ _ _ _ (by simp))
    · exact (only_setFld s _ _ _ _).trans (only_setFld _ _ _ _ _)
  case entry =>
    have hrun (hdeep : deepest s ≠ 0) := exec_wakeEntry hclk hw hready hmp hsst hidle hdeep
    refine ⟨exec_wakeEntry_stays hclk, fun h1 h4 => ?_, fun h5 hbit => ?_, fun h5 hbit => ?_⟩
    · exact ⟨_, (hrun (by omega)).trans (congrArg _ (if_neg (by omega))), wakeEntry_shallow_shows (by omega)⟩
    all_goals
      have hset : (s.setFld rPwrWake 26 3 (deepest s)).bit rPwrWake 25 = s.bit rPwrWake 25 :=
        State.bit_setFld_other _ _ _ _ _ _ _ (by decide) (.inr (by decide))
    · obtain ⟨hstate, hoff, hregs, honly⟩ := offEntered_shows (s.setFld rPwrWake 26 3 (deepest s))
      exact ⟨_, (hrun (by omega)).trans (congrArg _ ((if_pos h5).trans (if_neg (by simp [hset, hbit])))), hstate, hoff,
        (onlyRegs_setFld s _ _ _ (by simp)).trans hregs, ((only_setFld s _ _ _ _).mono (by simp)).trans honly⟩
    · exact ⟨_, (hrun (by omega)).trans (congrArg _ ((if_pos h5).trans (if_pos (hset.trans hbit)))),
        wakeEntry_pass_shows hw⟩
  case exit => exact ⟨_, exec_wakeExit_doorbell hclk (by omega), wakeUp_shows (by omega)⟩
  case awake => exact (clocked_run hclk _).trans (congrArg _ (roused_awake haw e))
  case lattol =>
    refine ⟨_, (clocked_run hclk _).trans (congrArg _ (lattolSet_awake haw v)), ?_, onlyRegs_setFld s _ _ _ (by simp),
      only_setFld s _ _ _ _⟩
    exact (State.fld_setFld_same _ _ _ _ _ (by decide)).trans (Nat.mod_eq_of_lt v.isLt)

end Sys2Proof.Machine
end

section
/-! What a fault of a task and the reset of a pipeline change (R480, R483, R488 to R490). -/

namespace Sys2Proof.Machine

/-! ### Task-scoped faults (R483, R487) -/

/-- A report marks the task in flight that it names, and no other. -/
theorem reportTask_shows (s : State) (n st : Nat) : let t := reportTask s n st
    ((s.dc.task n).desc.dw ≠ [] → (t.dc.task n).abort = true
        ∧ (t.dc.task n).status = some ((s.dc.task n).status.getD st))
      ∧ (∀ m, m ≠ n → t.dc.task m = s.dc.task m) ∧ t.err = s.err ∧ t.regs = s.regs ∧ Only [.dc] s t := by
  unfold reportTask
  dsimp only
  split
  · next h => exact ⟨fun hne => absurd (List.isEmpty_iff.1 h) hne, fun _ _ => rfl, rfl, rfl, Only.refl _ s⟩
  · refine ⟨fun _ => ?_, fun m hm => Dc.task_setTask_other _ _ hm, rfl, rfl, only_dc s _⟩
    exact ⟨congrArg Task.abort (Dc.task_setTask ..), congrArg Task.status (Dc.task_setTask ..)⟩

theorem taskFault_shows (s : State) (n : Nat) (f : FaultInfo) : let t := taskFault s n f
    Logged s t f 1 (some n) (s.taskPipe n)
      ∧ ((s.dc.task n).desc.dw ≠ [] → (t.dc.task n).abort = true
        ∧ (t.dc.task n).status = some ((s.dc.task n).status.getD f.status.toNat))
      ∧ (∀ m, m ≠ n → t.dc.task m = s.dc.task m) ∧ Only (.dc :: logParts) s t := by
  obtain ⟨hown, hother, herr, hregs, honly⟩ :=
    reportTask_shows (logEntry s f 1 (some n) (s.taskPipe n)) n f.status.toNat
  rw [logEntry_dc] at hown hother
  refine ⟨?_, hown, hother, ?_⟩
  · exact (logEntry_logged s s f 1 _ _ rfl rfl).congr herr (congrArg (bits · 0 32) (State.rd_of_regs hregs _))
  · exact ((logEntry_only s f 1 _ _).mono (by simp [logParts])).trans (honly.mono (by simp))

/-! ### Which pipelines are being reset (R489) -/

/-- The pipelines whose reset is in progress. -/
def State.beingReset (s : State) : List Nat := s.err.resetting

theorem beingReset_of_err {s t : State} (h : t.err = s.err) : t.beingReset = s.beingReset := congrArg Err.resetting h

theorem beingReset_of_resetting {s t : State} (h : t.err.resetting = s.err.resetting) :
    t.beingReset = s.beingReset := h

theorem logEntry_beingReset (s : State) (f : FaultInfo) (scope : Nat) (task pipe : Option Nat) :
    (logEntry s f scope task pipe).beingReset = s.beingReset :=
  beingReset_of_resetting (logEntry_resetting s f scope task pipe)

/-- A reset that becomes due is not under way yet. -/
theorem beingReset_of_due {s t u : State} {p : Nat} {f : FaultInfo} {b : Bool} (hu : u = if b then t else t.resetDue p f)
    (ht : t.beingReset = s.beingReset) : u.beingReset = s.beingReset := by
  subst hu
  cases b
  · exact ht
  · exact ht

theorem logOnly_beingReset (s : State) (f : FaultInfo) : (logOnly s f).beingReset = s.beingReset :=
  logEntry_beingReset s f 0 none none

section Resetting

variable (s : State)

theorem pipeFault_resetting (p : Nat) (f : FaultInfo) (k : Option Nat) :
    (pipeFault s p f k).beingReset = s.beingReset :=
  beingReset_of_due (pipeFault_eq s p f k) (logEntry_beingReset s f 2 k (some p))

theorem wellFault_resetting (w : Nat) (f : FaultInfo) : (wellFault s w f).beingReset = s.beingReset := by
  unfold wellFault
  split
  · exact pipeFault_resetting ..
  · exact logOnly_beingReset s f

theorem sqPush_resetting (w e : Nat) (wd : Word) : (sqPush s w e wd).beingReset = s.beingReset := by
  have hevent (u : State) : (event u 4 (queueNo w e) 1).err = u.err := event_err ..
  unfold sqPush sqPushAt
  dsimp only
  split
  · obtain ⟨-, -, -, honly⟩ := ringEnter_frame (event s 4 (queueNo w e) 1) w e wd
    exact beingReset_of_err ((sqPut_err ..).trans ((honly .err rfl).trans (hevent s)))
  · have hput (x : SqEntry) : (sqPut (event s 4 (queueNo w e) 1) w e x).err = s.err := (sqPut_err ..).trans (hevent s)
    split
    · exact (wellFault_resetting ..).trans (beingReset_of_err (hput _))
    · exact beingReset_of_err (hput _)

theorem sideEnter_resetting (w e : Nat) (wd : Word) : (sideEnter s w e wd).beingReset = s.beingReset := by
  unfold sideEnter
  dsimp only
  split
  · rfl
  · exact sqPush_resetting ..

theorem wellStop_resetting (w : Nat) : (wellStop s w).beingReset = s.beingReset := by
  rw [wellStop_eq]
  split
  · exact foldl_part State.beingReset (fun u (p : Nat × Word) => sideEnter u w p.1 p.2)
      (fun u p => sideEnter_resetting u w p.1 p.2) _ _
  · rfl

theorem pipeStop_resetting (l : List Nat) : (pipeStop s l).beingReset = s.beingReset :=
  foldl_part State.beingReset (fun s w => wellStop (threadsStopped s w) w)
    (fun u w => (wellStop_resetting ..).trans (beingReset_of_err (threadsStopped_only u w .err rfl))) l s

theorem sfCtrlWrite_resetting (w : Nat) (v : W32) : (sfCtrlWrite s w v).beingReset = s.beingReset := by
  have hstart (u : State) : (wellStart u w).beingReset = u.beingReset := by
    unfold wellStart
    dsimp only
    split
    · rfl
    · exact logOnly_beingReset u _
  unfold sfCtrlWrite
  dsimp only
  split
  · exact wellStop_resetting ..
  · split
    · exact hstart _
    · rfl

theorem msqCtrlWrite_err (w i : Nat) (v : W32) : (msqCtrlWrite s w i v).err = s.err := by
  unfold msqCtrlWrite threadStop threadStart
  dsimp only
  split
  · rfl
  · split
    · split <;> rfl
    · rfl

theorem pipeStart_resetting (p : Nat) : (pipeStart s p).beingReset = s.beingReset := by
  refine foldl_part State.beingReset _ (fun u w => ?_) _ s
  split
  · rfl
  · refine (sfCtrlWrite_resetting ..).trans (foldl_part State.beingReset _ (fun v j => ?_) _ u)
    split
    · exact beingReset_of_err (msqCtrlWrite_err ..)
    · rfl

end Resetting

/-! ### The steps of a reset (R488, R490) -/

/-- The tasks a reset takes: those in flight that have no record. -/
def takenTasks (s : State) (p : Nat) : List Nat := (s.dc.pipe p).flight.filter fun t => !(s.dc.task t).ended

/-- Records that fall due leave the pipelines. -/
theorem pushRecords_pipe (q : Nat) (l : List Held) (u : State) :
    (l.foldl (fun u h => pushRecord u h.ring h.record) u).dc.pipe q = u.dc.pipe q :=
  foldl_part (fun v : State => v.dc.pipe q) (fun v (h : Held) => pushRecord v h.ring h.record) (fun _ _ => rfl) l u

/-- Held records that fall due leave what is in flight. -/
theorem heldMap_pipe (s : State) (p : Nat) (f : Held → Held) :
    ((heldMap s p f).dc.pipe p).flight = (s.dc.pipe p).flight
      ∧ ∀ q, q ≠ p → (heldMap s p f).dc.pipe q = s.dc.pipe q := by
  constructor
  · refine (congrArg DcPipe.flight (pushRecords_pipe ..)).trans ?_
    exact (congrArg DcPipe.flight (Dc.pipe_setPipe ..) :)
  · exact fun q hq => (pushRecords_pipe ..).trans (Dc.pipe_setPipe_other _ _ hq)

/-- The tasks left in flight are not among those taken. -/
theorem tasksTaken_shows (s : State) (p : Nat) : let t := tasksTaken s p
    (t.dc.pipe p).flight = (s.dc.pipe p).flight.filter (fun k => !(takenTasks s p).contains k)
      ∧ (∀ q, q ≠ p → t.dc.pipe q = s.dc.pipe q) ∧ Only [.dc] s t := by
  unfold tasksTaken
  dsimp only
  obtain ⟨hflight, hother⟩ := heldMap_pipe _ p id
  refine ⟨hflight.trans ?_, fun q hq => (hother q hq).trans ?_, (only_dc s _).trans (heldMap_only _ p id)⟩
  · exact congrArg DcPipe.flight (Dc.pipe_setPipe ..)
  · exact Dc.pipe_setPipe_other _ _ hq

/-- A task in flight that is not taken has its record. -/
theorem ended_of_not_taken {s : State} {p k : Nat}
    (h : k ∈ (s.dc.pipe p).flight.filter fun t => !(takenTasks s p).contains t) : (s.dc.task k).ended = true := by
  obtain ⟨hin, hnot⟩ := List.mem_filter.1 h
  simp only [takenTasks, Bool.not_eq_true', List.contains_eq_mem, decide_eq_false_iff_not, List.mem_filter, hin,
    true_and, Bool.not_eq_false] at hnot
  exact hnot

theorem tagEnds_only (s : State) (l : List Nat) : Only [.pmu] s (tagEnds s l) := by
  unfold tagEnds
  split
  · split
    · exact only_pmu s _
    · exact Only.refl _ s
  · exact Only.refl _ s

theorem resetFlush_only (l : List Nat) (s : State) (i : Nat) : Only (.strs :: sendParts) s (resetFlush l s i) := by
  unfold resetFlush
  dsimp only
  split
  · exact (only_strs s _).mono (by simp)
  · exact ((hideSend_only (hideSend_sendSterr s i stAborted)).mono (by simp)).trans ((only_strs _ _).mono (by simp))

theorem queuesEmptied_only (s : State) (w : Nat) : Only [.wells, .regs, .hi] s (queuesEmptied s w) :=
  (foldl_only _ (fun u _ => sqPut_only u w _ _) _ s).trans ((only_wells _ _).mono (by simp))

theorem coresInterrupted_only (s : State) (p : Nat) : Only [.harts, .regs] s (coresInterrupted s p) := by
  refine foldl_only _ (fun u c => foldl_only _ (fun v n => ?_) _ u) _ s
  dsimp only
  split
  · exact Only.refl _ v
  · exact ((only_setBit v _ _ _).mono (by simp)).trans ((only_harts _ _).mono (by simp))

/-- The pipeline noted as being reset; the reset that was due is under way. -/
def resetNoted (s : State) (p : Nat) : State :=
  { s with err := { s.err with
    pending := SMap.set (fun _ => none) s.err.pending p none, resetting := s.err.resetting ++ [p] } }

/-- The wells stop, and the tagged instruction with them. -/
def resetStopped (s : State) (p : Nat) : State :=
  pipeStop (tagEnds (resetNoted s p) (s.pipeWells p)) (s.pipeWells p)

/-- The parts that flushing streams, emptying queues and interrupting cores touch. -/
def flushParts : List Part := [.strs, .lk, .regs, .hi, .pmu, .wells, .harts]

theorem resetSteps_flush (s : State) (p : Nat) :
    Only flushParts (tasksTaken (resetStopped s p) p) (resetSteps s p) := by
  have hstrs (l : List Nat) (u : State) (m : List Nat) : Only flushParts u (m.foldl (resetFlush l) u) :=
    foldl_only _ (fun v i => (resetFlush_only l v i).mono (by simp [flushParts, sendParts])) m u
  have hwells (u : State) (m : List Nat) :
      Only flushParts u (m.foldl (fun s w => barriersCleared (queuesEmptied s w) w) u) :=
    foldl_only _ (fun v w => ((queuesEmptied_only v w).mono (by simp [flushParts])).trans
      ((only_wells _ _).mono (by simp [flushParts]))) m u
  exact ((hstrs _ _ _).trans (hwells _ _)).trans ((coresInterrupted_only _ p).mono (by simp [flushParts]))

/-- A reset under way: every task in flight that has no record is taken, other pipelines keep theirs. -/
theorem resetSteps_shows (s : State) (p : Nat) : let t := resetSteps s p
    t.err.resetting = s.err.resetting ++ [p] ∧ (∀ k, k ∈ (t.dc.pipe p).flight → (s.dc.task k).ended = true)
      ∧ ∀ q, q ≠ p → t.dc.pipe q = s.dc.pipe q := by
  have hflush := resetSteps_flush s p
  have htag := tagEnds_only (resetNoted s p) (s.pipeWells p)
  have hdc : (resetStopped s p).dc = s.dc := (pipeStop_only _ _ .dc rfl).trans (htag .dc rfl)
  obtain ⟨hflight, hother, htaken⟩ := tasksTaken_shows (resetStopped s p) p
  refine ⟨?_, fun k hk => ?_, fun q hq => ?_⟩
  · calc (resetSteps s p).err.resetting
        = (tasksTaken (resetStopped s p) p).err.resetting := congrArg Err.resetting (hflush .err rfl)
      _ = (resetStopped s p).err.resetting := congrArg Err.resetting (htaken .err rfl)
      _ = (tagEnds (resetNoted s p) (s.pipeWells p)).err.resetting := pipeStop_resetting ..
      _ = s.err.resetting ++ [p] := congrArg Err.resetting (htag .err rfl)
  · rw [hflush .dc rfl, hflight] at hk
    exact (congrArg (fun d : Dc => (d.task k).ended) hdc).symm.trans (ended_of_not_taken hk)
  · exact (congrArg (Dc.pipe · q) (hflush .dc rfl)).trans ((hother q hq).trans (congrArg (Dc.pipe · q) hdc))

/-! ### The commands -/

theorem exec_pipelineReset_due {s : State} {p : PipeIx} (hclk : s.clocksRun = true) (hwells : s.pipeWells p.val ≠ [])
    (hreset : s.err.resetting.contains p.val = false) (hdc : dcRuns s = true) (f : FaultInfo) :
    exec (.pipelineReset p f) s = .next (resetSteps
      (if (SMap.get (fun _ => none) s.err.pending p.val).isSome then s else pipeFault s p.val f) p.val) :=
  (clocked_run hclk _).trans ((if_neg (by simpa using hwells)).trans (if_neg (by simp only [hreset, hdc, Bool.not_true, Bool.or_self, Bool.false_eq_true, not_false_eq_true])))

theorem exec_pipelineReload {s : State} {p : PipeIx} (hclk : s.clocksRun = true)
    (hreset : s.err.resetting.contains p.val = true) (hdc : dcRuns s = true) (hturn : s.mpTurn 2 = true)
    (hidle : (s.strs.all fun e => !(e.2.st == .cancelling && e.2.fill == some stAborted)) = true)
    (hengines : enginesBusy s p.val = false) : exec (.pipelineReload p) s =
      if (imageReload s p.val).1 = 0 then
        .next { pipeStart (imageReload s p.val).2.2 p.val with
          err := { (pipeStart (imageReload s p.val).2.2 p.val).err with
            resetting := (pipeStart (imageReload s p.val).2.2 p.val).err.resetting.erase p.val } }
      else .next (logOnly (imageReload s p.val).2.2 (mkFault (imageReload s p.val).1 0xA p.val)) :=
  (clocked_run hclk _).trans (if_pos (by simp only [hreset, hdc, hturn, hidle, hengines, Bool.not_false, Bool.and_self]))

/-- Settles O46: a fault is written with its scope and acts on its task, its pipeline or the device. The model's
choices it rests on: a reset is two rows, its steps 1 to 4 in one and the reload in the other, and a reload that
fails keeps the reset (log 136); the reload waits for the MP's turn (log 169). -/
theorem faultsAreReportedByScope : Obligations.FaultsAreReportedByScope := by
  unfold Obligations.FaultsAreReportedByScope
  intro s hclk
  refine ⟨fun n f => ⟨_, clocked_run hclk _, taskFault_shows s n.val f⟩, fun f => ?device,
    fun p f hwells hreset => ?again, fun p f hwells hreset hdc => ?reset,
    fun p hreset hdc hturn hidle hengines => ?reload⟩
  case device =>
    obtain ⟨hset, hfirst, hlater⟩ := devFault_status s f
    exact ⟨_, clocked_run hclk _, devFault_logged s s f rfl rfl, hset, hfirst, hlater, devFault_only s f⟩
  case again =>
    have hlog : pipeFault s p.val f = logEntry s f 2 none (some p.val) := by
      rw [pipeFault_eq]
      exact if_pos (by rw [logEntry_resetting, hreset, Bool.true_or])
    refine ⟨_, (clocked_run hclk _).trans ((if_neg (by simpa using hwells)).trans ((if_pos (by simp only [hreset, Bool.true_or])).trans
      (congrArg _ hlog))), logEntry_logged s s f 2 _ _ rfl rfl, logEntry_resetting .., logEntry_only s f 2 _ _⟩
  case reset =>
    have hkeep (c : Prop) [Decidable c] : (if c then s else pipeFault s p.val f).dc = s.dc := by
      split
      · rfl
      · exact pipeFault_dc ..
    obtain ⟨hin, hflight, hother⟩ := resetSteps_shows
      (if (SMap.get (fun _ => none) s.err.pending p.val).isSome then s else pipeFault s p.val f) p.val
    refine ⟨_, exec_pipelineReset_due hclk hwells hreset hdc f, ?_, fun k hk => ?_, fun q hq => ?_⟩
    · rw [hin]
      simp
    · exact (congrArg (fun d : Dc => (d.task k).ended) (hkeep _)).symm.trans (hflight k hk)
    · exact (hother q hq).trans (congrArg (Dc.pipe · q) (hkeep _))
  case reload =>
    have hrun := exec_pipelineReload hclk hreset hdc hturn hidle hengines
    refine ⟨fun hok => ⟨_, hrun.trans (if_pos hok), ?_, rfl⟩, fun hfail => hrun.trans (if_neg hfail)⟩
    exact congrArg (List.erase · p.val) (pipeStart_resetting ..)

end Sys2Proof.Machine
end

section
/-! What sending on a port, routes and the close of a port leave as they were (R383 to R388, R391). -/

namespace Sys2Proof.Machine

/-! ### What sending leaves -/

/-- A port without what forming flits touches. -/
def LinkPort.hideFlits (x : LinkPort) : LinkPort :=
  { x with txSeq := 0, ackDt := 0, retry := [], slots := [], cut := 0, wire := [] }

/-- A port without what sending touches: flits, hop credits and the packets that wait for them. -/
def LinkPort.hideOut (x : LinkPort) : LinkPort := { x.hideFlits with txq := [], credit0 := 0, credit1 := 0 }

/-- A register that does not count events. -/
abbrev NoCounter (o : Nat) : Prop := o < 0xA0000 ∨ 0xA0010 ≤ o ∧ o < 0xA0200 ∨ 0xB0000 ≤ o

/-- From s to t only port n has sent, and it shows the same to `hide`. -/
structure SendsOn (hide : LinkPort → LinkPort) (n : Nat) (s t : State) : Prop where
  own : hide (t.port n) = hide (s.port n)
  other : ∀ m, m ≠ n → t.port m = s.port m
  rd : ∀ o, NoCounter o → t.rd o = s.rd o
  hides : t.hideSend = s.hideSend

section SendsOn

variable {hide : LinkPort → LinkPort} {n : Nat} {s t u : State}

theorem SendsOn.refl (hide : LinkPort → LinkPort) (n : Nat) (s : State) : SendsOn hide n s s :=
  ⟨rfl, fun _ _ => rfl, fun _ _ => rfl, rfl⟩

theorem SendsOn.trans (h : SendsOn hide n s t) (h' : SendsOn hide n t u) : SendsOn hide n s u :=
  ⟨h'.own.trans h.own, fun m hm => (h'.other m hm).trans (h.other m hm), fun o ho => (h'.rd o ho).trans (h.rd o ho),
    h'.hides.trans h.hides⟩

theorem SendsOn.toOut (h : SendsOn LinkPort.hideFlits n s t) : SendsOn LinkPort.hideOut n s t :=
  ⟨(congrArg (fun x : LinkPort => { x with txq := [], credit0 := 0, credit1 := 0 }) h.own :), h.other, h.rd, h.hides⟩

theorem SendsOn.setPort {x : LinkPort} (h : hide x = hide (s.port n)) : SendsOn hide n s (s.setPort n x) :=
  ⟨(congrArg hide (State.port_setPort_same ..)).trans h, fun _ hm => State.port_setPort_other _ _ hm,
    fun _ _ => rfl, rfl⟩

theorem State.port_of_lk (h : t.lk = s.lk) (m : Nat) : t.port m = s.port m := congrArg (fun l : LinkDev => SMap.get (fun _ => LinkPort.reset) l.ports m) h

theorem sendsOn_event (hide : LinkPort → LinkPort) (n : Nat) (s : State) (c u e : Nat) :
    SendsOn hide n s (event s c u e) :=
  ⟨congrArg hide (State.port_of_lk (event_lk ..) n), fun m _ => State.port_of_lk (event_lk ..) m,
    fun _ ho => event_rd_outside ho s c u e, hideSend_event ..⟩

theorem sendsOn_bwCount (hide : LinkPort → LinkPort) (n : Nat) (s : State) (i d : Nat) :
    SendsOn hide n s (bwCount s i d) :=
  ⟨congrArg hide (State.port_of_lk (bwCount_lk ..) n), fun m _ => State.port_of_lk (bwCount_lk ..) m,
    fun o _ => bwCount_rd s i d o, hideSend_bwCount ..⟩

theorem sendsOn_foldl {α : Type} (g : State → α → State) (h : ∀ s a, SendsOn hide n s (g s a)) (l : List α) (s : State) :
    SendsOn hide n s (l.foldl g s) :=
  List.foldlRecOn (motive := SendsOn hide n s) l g (.refl hide n s) fun _ hu a _ => hu.trans (h _ a)

theorem sendsOn_putFlit (n : Nat) (s : State) (k q : Nat) (l : List Line) :
    SendsOn LinkPort.hideFlits n s (putFlit s n k q l) := .setPort rfl

theorem sendsOn_formFlits (n : Nat) (s : State) (k : Nat) : SendsOn LinkPort.hideFlits n s (formFlits s n k) := by
  induction k generalizing s with
  | zero => exact .refl _ n s
  | succ k ih =>
    rw [formFlits]
    dsimp only
    split
    · exact .refl _ n s
    · split
      · exact sendsOn_putFlit ..
      · refine SendsOn.trans ?_ ((sendsOn_event ..).trans (ih _))
        refine SendsOn.trans ?_ (sendsOn_foldl _ (fun v _ => sendsOn_bwCount _ n v _ _) _ _)
        refine SendsOn.trans (.setPort ?_) (sendsOn_putFlit ..)
        rfl

theorem takeCredit_hideOut (x : LinkPort) (k : Nat) : (takeCredit x k).hideOut = x.hideOut := by
  induction k generalizing x with
  | zero => rfl
  | succ k ih =>
    unfold takeCredit
    split
    · rfl
    · dsimp only
      split
      · split
        · exact ih _
        · rfl
      · split
        · exact ih _
        · rfl

theorem sendsOn_runPort (n : Nat) (s : State) : SendsOn LinkPort.hideOut n s (runPort s n) := by
  unfold runPort
  split
  · exact (SendsOn.setPort (takeCredit_hideOut ..)).trans (sendsOn_formFlits ..).toOut
  · exact .refl _ n s

/-- With no packet waiting no credit is used. -/
theorem sendsOn_runPort_idle {n : Nat} {s : State} (h : (s.port n).txq = []) :
    SendsOn LinkPort.hideFlits n s (runPort s n) := by
  unfold runPort
  split
  · refine (SendsOn.setPort ?_).trans (sendsOn_formFlits ..)
    rw [h]
    rfl
  · exact .refl _ n s

theorem sendsOn_sendPacket (n : Nat) (s : State) (p : Packet) : SendsOn LinkPort.hideOut n s (sendPacket s n p) := by
  unfold sendPacket
  refine SendsOn.trans (.setPort ?_) (sendsOn_runPort ..)
  rfl

end SendsOn

/-! ### Updates and routes (R391) -/

/-- A register that neither counts events nor follows from the routes: not `LK_RT`, nor `LK_EPOCH`, `TB_STATUS`
and `TB_TRIM`. -/
abbrev RouteFree (o : Nat) : Prop :=
  NoCounter o ∧ (o < 0x209000 ∨ 0x20B000 ≤ o) ∧ o ≠ 0x208008 ∧ o ≠ 0x50008 ∧ o ≠ 0x50018

/-- The parts that a change of the own link state touches. -/
def netParts : List Part := [.lk, .regs, .hi, .pmu, .tb]

/-- From s to t updates have gone out and routes have changed; port n has sent nothing. -/
structure Routed (n : Nat) (s t : State) : Prop where
  port : t.port n = s.port n
  rd : ∀ o, RouteFree o → t.rd o = s.rd o
  only : Only netParts s t

section Routed

variable {n : Nat} {s t u : State}

theorem Routed.refl (n : Nat) (s : State) : Routed n s s := ⟨rfl, fun _ _ => rfl, Only.refl _ s⟩

theorem Routed.trans (h : Routed n s t) (h' : Routed n t u) : Routed n s u :=
  ⟨h'.port.trans h.port, fun o ho => (h'.rd o ho).trans (h.rd o ho), h.only.trans h'.only⟩

theorem Routed.portState {m : Nat} (h : Routed n s t) (hm : m < 6) : portState t m = portState s m :=
  congrArg (bits · 29 3) (h.rd _ (by unfold rLkStatus RouteFree NoCounter; omega))

/-- Another port sends. -/
theorem SendsOn.routed {m : Nat} (h : SendsOn LinkPort.hideOut m s t) (hm : n ≠ m) : Routed n s t :=
  ⟨h.other n hm, fun o ho => h.rd o ho.1,
    (hideSend_only h.hides).mono (by simp [sendParts, netParts])⟩

theorem routed_wr {o : Nat} (h : ¬ RouteFree o) (n : Nat) (s : State) (v : W64) : Routed n s (s.wr o v) :=
  ⟨rfl, fun _ ho => State.rd_wr_other s v fun he => h (he ▸ ho), (only_wr s o v).mono (by simp [netParts])⟩

theorem routed_foldl {α : Type} (g : State → α → State) {l : List α} (h : ∀ u, Routed n s u → ∀ a ∈ l, Routed n u (g u a)) :
    Routed n s (l.foldl g s) :=
  List.foldlRecOn (motive := Routed n s) l g (.refl n s) fun u hu a ha => hu.trans (h u hu a ha)

/-- An update goes out on every attached port; port n is none of them. -/
theorem routed_floodState {x : LinkState} {e : Option Nat} (h : n < 6 → portState s n ≠ lkAttached) :
    Routed n s (floodState s x e) := by
  refine routed_foldl _ fun u hu m hm => ?_
  split
  next hsend =>
    refine (sendsOn_sendPacket m u _).routed ?_
    rintro rfl
    have hn := List.mem_range.1 hm
    simp only [Bool.and_eq_true, decide_eq_true_eq] at hsend
    exact h hn ((hu.portState hn).symm.trans hsend.1)
  next => exact .refl n u

theorem routed_enterHoldover (n : Nat) (s : State) : Routed n s (enterHoldover s) := by
  obtain ⟨-, -, hregs, honly⟩ := enterHoldover_frame s
  refine ⟨rfl, fun o ho => hregs.rd ?_, honly.mono (by simp [netParts])⟩
  obtain ⟨-, -, -, hstatus, htrim⟩ := ho
  simp [hstatus, htrim]

theorem Routed.noRoute (h : Routed n s t) (m : SMap Nat) : Routed n s { t with lk := { t.lk with noRoute := m } } :=
  h.trans ⟨rfl, fun _ _ => rfl, (only_lk t _).mono (by simp [netParts])⟩

theorem Routed.ite_same {c : Prop} [Decidable c] (h : Routed n s t) (h' : Routed n t u) :
    Routed n s (if c then t else u) := iteInduction (fun _ => h) fun _ => h.trans h'

theorem Routed.ite_more {c : Prop} [Decidable c] (h : Routed n s t) (h' : Routed n t u) :
    Routed n s (if c then u else t) := iteInduction (fun _ => h.trans h') fun _ => h

theorem routed_installRoutes (n : Nat) (s : State) : Routed n s (installRoutes s) := by
  have hwrite (f : Nat → Nat) (l : List Nat) (hl : ∀ i ∈ l, i < 1024) :
      Routed n s (l.foldl (fun v i => v.setFld (rLkRt i) 0 3 (f i)) s) :=
    routed_foldl _ fun v _ i hi => by
      have := hl i hi
      exact routed_wr (by unfold rLkRt RouteFree; omega) n v _
  have hrange : ∀ i ∈ List.range maxDevices, i < 1024 := fun i hi => List.mem_range.1 hi
  unfold installRoutes
  generalize List.range maxDevices = l at hrange
  refine Routed.ite_more (Routed.noRoute (Routed.ite_same ?_ ?_) _) (routed_enterHoldover ..)
  · exact hwrite _ _ fun i hi => hrange i (List.mem_filter.1 hi).1
  · exact routed_wr (by simp) n _ _

/-- A change of the own link state is told on the attached ports (R391, R392). -/
theorem routed_ownUpdate (leave : Bool) (h : n < 6 → portState s n ≠ lkAttached) :
    Routed n s (ownUpdate s leave) := by
  have hstore (x : LinkDev) (hx : x.ports = s.lk.ports) : Routed n s { s with lk := x } :=
    ⟨congrArg (fun m => SMap.get (fun _ => LinkPort.reset) m n) hx, fun _ _ => rfl,
      (only_lk s _).mono (by simp [netParts])⟩
  unfold ownUpdate
  dsimp only
  refine Routed.ite_more ?_ (routed_installRoutes ..)
  refine (hstore _ ?_).trans (routed_floodState ?_)
  · rfl
  · exact h

end Routed

/-! ### A port that goes DOWN (R385) -/

/-- What a port that goes down keeps: packets not begun wait for it again. -/
def LinkPort.shut (x : LinkPort) : LinkPort :=
  { x with
    retry := [], slots := [], cut := 0, rxSlots := []
    txq := (parsePackets x.slots.length (x.slots.drop x.cut)).1 ++ x.txq }

/-- The port shut and DOWN. -/
def portShut (s : State) (n : Nat) : State := setPortState (s.setPort n (s.port n).shut) n lkDown

theorem portClose_eq (s : State) (n : Nat) : portClose s n =
    if portState s n = lkAttached && dstate (portShut s n) != 0 then ownUpdate (portShut s n) false else portShut s n := rfl

theorem portState_setPortState (s : State) (n : Nat) {x : Nat} (h : x < 8) : portState (setPortState s n x) n = x :=
  (State.fld_setFld_same _ _ _ _ _ (by decide)).trans (Nat.mod_eq_of_lt h)

theorem portClose_routed (s : State) (n : Nat) : Routed n (portShut s n) (portClose s n) := by
  have hdown : portState (portShut s n) n = lkDown := portState_setPortState _ _ (by decide)
  rw [portClose_eq]
  exact Routed.ite_more (.refl ..) (routed_ownUpdate false fun _ => by rw [hdown]; decide)

/-- A port that is closed is DOWN, its retry buffer empty and the packets it has received kept. -/
theorem portClose_shows (s : State) {n : Nat} (hn : n < 6) : let t := portClose s n
    portState t n = lkDown ∧ t.port n = (s.port n).shut ∧ (∀ o, RouteFree o → o ≠ rLkStatus n → t.rd o = s.rd o)
      ∧ Only netParts s t := by
  have h := portClose_routed s n
  refine ⟨(h.portState hn).trans (portState_setPortState _ _ (by decide)), h.port.trans ?_, fun o ho hne => ?_, ?_⟩
  · exact State.port_setPort_same s n _
  · exact (h.rd o ho).trans (State.rd_setFld_other (s.setPort n _) _ _ _ hne)
  · exact (((only_lk s _).mono (by simp [netParts])).then_wr _ _ (by simp [netParts])).trans h.only

theorem logOnly_port (s : State) (f : FaultInfo) (n : Nat) : (logOnly s f).port n = s.port n :=
  State.port_of_lk (logEntry_lk s f 0 none none) n

/-- A register that the close of a port, and its entry, leave. -/
theorem portDown_rd (s : State) {n : Nat} (hn : n < 6) {o : Nat} (ho : RouteFree o) (hstatus : o ≠ rLkStatus n)
    (hhead : o ≠ rErrHead) (herr : o ≠ rErrStatus) : (portDown s n).rd o = s.rd o := by
  obtain ⟨-, -, hclose, -⟩ := portClose_shows (logOnly s (mkFault stLinkDown 6 n)) hn
  exact (hclose o ho hstatus).trans (logEntry_rd s _ 0 none none hhead herr)

/-- A port that goes down by itself is logged. -/
theorem portDown_shows (s u : State) {n : Nat} (hn : n < 6) (hhead : u.fld rErrHead 0 32 = s.fld rErrHead 0 32)
    (hdt : u.dt = s.dt) : let t := portDown u n
    portState t n = lkDown ∧ t.port n = (u.port n).shut ∧ Logged s t (mkFault stLinkDown 6 n) 0 none none := by
  have hlog := logEntry_logged s u (mkFault stLinkDown 6 n) 0 none none hhead hdt
  obtain ⟨hdown, hport, hrd, honly⟩ := portClose_shows (logOnly u (mkFault stLinkDown 6 n)) hn
  refine ⟨hdown, hport.trans (congrArg LinkPort.shut (logOnly_port ..)), hlog.congr (honly .err rfl) ?_⟩
  · exact congrArg (bits · 0 32) (hrd _ (by decide) (by unfold rErrHead rLkStatus; omega))

end Sys2Proof.Machine
end

section
/-! What the commands of a link port do (R381 to R388). -/

namespace Sys2Proof.Machine

/-! ### `LK_CFG` and training (R381, R382, R390) -/

/-- The enable bit takes the written value. -/
theorem bit_linkCfg_enable (s : State) (n : Fin 6) (v : W64) :
    (s.plainWrite (rLkCfg n.val) v).bit (rLkCfg n.val) 31 = bitAt v 31 := by
  have hdef : regDef (rLkCfg n.val) = some ⟨0x200008, 0x10000, 6, false, 0x38000000, 0xF8000000, 0x0⟩ := by
    revert n
    decide
  rw [State.plainWrite, hdef]
  dsimp only
  rw [State.bit_wr_same, bitAt, RegDef.getLsbD_apply _ _ (by decide) (by decide)]
  simp [bitAt]

theorem portState_linkCfg (s : State) (n : Nat) (v : W64) : portState (s.plainWrite (rLkCfg n) v) n = portState s n :=
  (plainWrite_frame s (rLkCfg n) v).1.fld (by simp) 29 3

theorem exec_linkEnable_on {s : State} {n : Fin 6} {v : W32} (hclk : s.clocksRun = true) (hlink : s.hasLink n.val = true)
    (hv : bitAt (v.setWidth 64) 31 = true) (hdown : portState s n.val = lkDown) : exec (.linkEnable n v) s
      = .next (setPortState (s.plainWrite (rLkCfg n.val) (v.setWidth 64)) n.val lkTraining) := by
  refine (clocked_run hclk _).trans (congrArg _ ((if_pos hlink).trans ((if_pos ?_).trans (if_pos ?_))))
  · exact (bit_linkCfg_enable ..).trans hv
  · exact (portState_linkCfg ..).trans hdown

theorem exec_linkEnable_off {s : State} {n : Fin 6} {v : W32} (hclk : s.clocksRun = true) (hlink : s.hasLink n.val = true)
    (hv : bitAt (v.setWidth 64) 31 = false) (hup : portState s n.val ≠ lkDown) : exec (.linkEnable n v) s
      = .next (portClose (s.plainWrite (rLkCfg n.val) (v.setWidth 64)) n.val) := by
  refine (clocked_run hclk _).trans (congrArg _ ((if_pos hlink).trans ((if_neg ?_).trans (if_neg ?_))))
  · rw [bit_linkCfg_enable, hv]
    decide
  · rwa [portState_linkCfg]

/-- A port as it reaches UP: sequence numbers and credits anew, what waits and what came kept. -/
def LinkPort.fresh (x : LinkPort) : LinkPort :=
  { LinkPort.reset with
    stat := x.stat, escLive := x.escLive, escSnap := x.escSnap, blocks := x.blocks, statSel := x.statSel
    txq := x.txq, rx := x.rx, wire := x.wire }

/-- The status of port i UP at a width. -/
def statusTrained (s : State) (i : Nat) (lanes : BitVec 8) (x4 : Bool) : State :=
  setPortState ((s.setFld (rLkStatus i) 20 8 lanes.toNat).setBit (rLkStatus i) 28 x4) i lkUp

/-- Port i UP at a width. -/
def portTrained (s : State) (i : Nat) (lanes : BitVec 8) (x4 : Bool) : State :=
  (statusTrained s i lanes x4).setPort i (s.port i).fresh

/-- The HELLO of a port that is UP, from a device in a membership or joining one. -/
def helloSent (s : State) (i : Nat) : State := if dstate s = 0 then s else sendPacket s i (helloPacket s i)

theorem statusTrained_shows (s : State) (i : Nat) (lanes : BitVec 8) (x4 : Bool) : let t := statusTrained s i lanes x4
    portState t i = lkUp ∧ t.fld (rLkStatus i) 20 8 = lanes.toNat ∧ t.bit (rLkStatus i) 28 = x4
      ∧ dstate t = dstate s := by
  have hne : rLkEpoch ≠ rLkStatus i := by unfold rLkEpoch rLkStatus; omega
  refine ⟨portState_setPortState _ _ (by decide), ?_, ?_, ?_⟩
  · refine (State.fld_setFld_other _ _ _ _ _ _ _ _ (.inr (by decide))).trans ?_
    refine (State.fld_setBit_other _ _ _ _ _ _ _ (.inr (by decide))).trans ?_
    exact (State.fld_setFld_same _ _ _ _ _ (by decide)).trans (Nat.mod_eq_of_lt lanes.isLt)
  · refine (State.bit_setFld_other _ _ _ _ _ _ _ (by decide) (.inr (by decide))).trans ?_
    exact State.bit_setBit_same _ _ _ _ (by decide)
  · refine congrArg (bits · 29 3) ((State.rd_setFld_other _ _ _ _ hne).trans ?_)
    rw [State.rd_setBit_other _ _ _ hne, State.rd_setFld_other _ _ _ _ hne]

theorem helloSent_frame (s : State) (i : Nat) : SendsOn LinkPort.hideOut i s (helloSent s i) := by
  unfold helloSent
  split
  · exact .refl ..
  · exact sendsOn_sendPacket ..

theorem exec_linkTrained_up {s : State} {n : Fin 6} {lanes : BitVec 8} (hclk : s.clocksRun = true)
    (hlink : s.hasLink n.val = true) (hen : s.bit (rLkCfg n.val) 31 = true) (hst : portState s n.val = lkTraining)
    (hw : (lanes == 0xFF || ((lanes == 0x0F || lanes == 0xF0) && s.bit (rLkCfg n.val) 27)) = true) :
    exec (.linkTrained n lanes) s
      = .next (helloSent (portTrained s n.val lanes (lanes == 0x0F || lanes == 0xF0)) n.val) :=
  (clocked_run hclk _).trans ((if_pos (by simp [hlink, hen, hst])).trans (if_pos hw))

theorem exec_linkTrained_down {s : State} {n : Fin 6} {lanes : BitVec 8} (hclk : s.clocksRun = true)
    (hlink : s.hasLink n.val = true) (hen : s.bit (rLkCfg n.val) 31 = true) (hst : portState s n.val = lkTraining)
    (hw : (lanes == 0xFF || ((lanes == 0x0F || lanes == 0xF0) && s.bit (rLkCfg n.val) 27)) = false) :
    exec (.linkTrained n lanes) s = .next (setPortState s n.val lkDown) :=
  (clocked_run hclk _).trans ((if_pos (by simp [hlink, hen, hst])).trans (if_neg (by simp only [hw, Bool.false_eq_true, not_false_eq_true])))

/-- A port UP after training, at the width of its lanes. -/
theorem trained_shows (s : State) (i : Nat) (lanes : BitVec 8) (x4 : Bool) : let t := helloSent (portTrained s i lanes x4) i
    portState t i = lkUp ∧ t.fld (rLkStatus i) 20 8 = lanes.toNat ∧ t.bit (rLkStatus i) 28 = x4
      ∧ (dstate s = 0 → t.port i = (s.port i).fresh) := by
  obtain ⟨hup, hlanes, hx4, hmemb⟩ := statusTrained_shows s i lanes x4
  have hrd := (helloSent_frame (portTrained s i lanes x4) i).rd (rLkStatus i) (by unfold rLkStatus NoCounter; omega)
  refine ⟨(congrArg (bits · 29 3) hrd).trans hup, (congrArg (bits · 20 8) hrd).trans hlanes,
    (congrArg (bitAt · 28) hrd).trans hx4, fun h0 => ?_⟩
  exact (congrArg (State.port · i) (if_pos (hmemb.trans h0))).trans (State.port_setPort_same ..)

theorem setPortState_frame (s : State) (n : Nat) {x : Nat} (h : x < 8) : let t := setPortState s n x
    portState t n = x ∧ OnlyRegs [rLkStatus n] s t ∧ Only [.regs] s t :=
  ⟨portState_setPortState s n h, onlyRegs_setFld s _ _ _ (by simp), only_setFld s _ _ _ _⟩

/-! ### Acknowledgements and NAKs (R384, R385) -/

theorem sendsOn_ackTo (n : Nat) (s : State) (ack : Nat) : SendsOn LinkPort.hideOut n s (ackTo s n ack) := by
  unfold ackTo
  dsimp only
  split
  · exact .refl ..
  · refine SendsOn.trans (.setPort ?_) (sendsOn_runPort ..)
    rfl

theorem sendsOn_ackTo_idle {n : Nat} {s : State} (h : (s.port n).txq = []) (ack : Nat) :
    SendsOn LinkPort.hideFlits n s (ackTo s n ack) := by
  unfold ackTo
  dsimp only
  split
  · exact .refl ..
  · refine SendsOn.trans (.setPort ?_) (sendsOn_runPort_idle ?_)
    · rfl
    · rw [State.port_setPort_same]
      exact h

/-- NAKs in a row for one SEQ. -/
def nakRunAfter (x : LinkPort) (seq : Nat) : Nat := if x.nakSeq = seq ∧ x.nakRun ≠ 0 then x.nakRun + 1 else 1

/-- A port that notes a NAK. -/
def LinkPort.nakked (x : LinkPort) (seq : Nat) : LinkPort := { x with nakSeq := seq, nakRun := nakRunAfter x seq }

/-- NAKs counted, with the longest run. -/
def nakCounted (s : State) (n run : Nat) : State :=
  let u := s.addSat (rLkRetry n) 16 16 1
  if u.fld (rLkRetry n) 0 8 < run then u.setFld (rLkRetry n) 0 8 run else u

/-- A NAK noted and counted. -/
def nakNoted (s : State) (n seq : Nat) : State :=
  nakCounted (s.setPort n ((s.port n).nakked seq)) n (nakRunAfter (s.port n) seq)

/-- Data flits sent again. -/
def flitsResent (s : State) (n : Nat) (l : List (Nat × List Line)) : State :=
  l.foldl (fun s f => event (putFlit s n 0 f.1 f.2) 6 n 2) s

theorem nakAt_down {s : State} {n seq : Nat} (h : 16 ≤ nakRunAfter (s.port n) seq) :
    nakAt s n seq = portDown (nakNoted s n seq) n := if_pos h

theorem nakAt_resend {s : State} {n seq : Nat} (h : ¬ 16 ≤ nakRunAfter (s.port n) seq) : nakAt s n seq
    = (((s.port n).retry.findIdx? fun e => e.1 == seq).map fun i =>
      flitsResent (nakNoted s n seq) n ((s.port n).retry.drop i)).getD (nakNoted s n seq) := by
  refine (if_neg h).trans ?_
  cases (s.port n).retry.findIdx? fun e => e.1 == seq <;> rfl

theorem nakCounted_frame (s : State) (n run : Nat) :
    OnlyRegs [rLkRetry n] s (nakCounted s n run) ∧ Only [.regs] s (nakCounted s n run) := by
  have hregs : OnlyRegs [rLkRetry n] s (s.addSat (rLkRetry n) 16 16 1) := onlyRegs_addSat s _ _ _ (by simp)
  have honly := only_addSat s (rLkRetry n) 16 16 1
  unfold nakCounted
  dsimp only
  split
  · exact ⟨hregs.trans (onlyRegs_setFld _ _ _ _ (by simp)), honly.trans (only_setFld _ _ _ _ _)⟩
  · exact ⟨hregs, honly⟩

theorem nakNoted_shows (s : State) (n seq : Nat) : let t := nakNoted s n seq
    t.port n = (s.port n).nakked seq ∧ OnlyRegs [rLkRetry n] s t ∧ Only [.lk, .regs] s t := by
  obtain ⟨hregs, honly⟩ := nakCounted_frame (s.setPort n ((s.port n).nakked seq)) n (nakRunAfter (s.port n) seq)
  refine ⟨?_, (OnlyRegs.of_regs _ rfl).trans hregs, ((only_lk s _).mono (by simp)).trans (honly.mono (by simp))⟩
  exact (State.port_of_lk (honly .lk rfl) n).trans (State.port_setPort_same ..)

theorem sendsOn_flitsResent (n : Nat) (s : State) (l : List (Nat × List Line)) :
    SendsOn LinkPort.hideFlits n s (flitsResent s n l) :=
  sendsOn_foldl (fun u (f : Nat × List Line) => event (putFlit u n 0 f.1 f.2) 6 n 2)
    (fun u f => (sendsOn_putFlit n u 0 f.1 f.2).trans (sendsOn_event ..)) l s

/-- A port that has sent data flits again. -/
def LinkPort.resent (x : LinkPort) (l : List (Nat × List Line)) : LinkPort :=
  { x with wire := x.wire ++ l.map fun e => flitBits 0 e.1 x.rxAck e.2 }

theorem flitsResent_port (n : Nat) (s : State) (l : List (Nat × List Line)) :
    (flitsResent s n l).port n = (s.port n).resent l := by
  induction l generalizing s with
  | nil => simp [flitsResent, LinkPort.resent]
  | cons f r ih =>
    have hport : (event (putFlit s n 0 f.1 f.2) 6 n 2).port n = (s.port n).resent [f] :=
      (State.port_of_lk (event_lk ..) n).trans (State.port_setPort_same ..)
    refine (ih (event (putFlit s n 0 f.1 f.2) 6 n 2)).trans ?_
    rw [hport]
    simp [LinkPort.resent]

/-- A NAK leaves the packets received, and what a close leaves of the registers. -/
theorem nakAt_frame (s : State) {n : Nat} (hn : n < 6) (seq : Nat) : ((nakAt s n seq).port n).rx = (s.port n).rx
    ∧ ∀ o, RouteFree o → o ≠ rLkRetry n → o ≠ rLkStatus n → o ≠ rErrHead → o ≠ rErrStatus →
      (nakAt s n seq).rd o = s.rd o := by
  obtain ⟨hnoted, hregs, -⟩ := nakNoted_shows s n seq
  have hrd (o : Nat) (ho : o ≠ rLkRetry n) : (nakNoted s n seq).rd o = s.rd o := hregs.rd (by simpa using ho)
  by_cases h : 16 ≤ nakRunAfter (s.port n) seq
  · rw [nakAt_down h]
    obtain ⟨-, hport, -⟩ := portDown_shows (nakNoted s n seq) (nakNoted s n seq) hn rfl rfl
    refine ⟨?_, fun o ho hretry hstatus hhead herr => (portDown_rd _ hn ho hstatus hhead herr).trans (hrd o hretry)⟩
    refine (congrArg LinkPort.rx hport).trans ?_
    exact (congrArg LinkPort.rx hnoted :)
  · rw [nakAt_resend h]
    cases (s.port n).retry.findIdx? fun e => e.1 == seq with
    | none => exact ⟨(congrArg LinkPort.rx hnoted :), fun o _ hretry _ _ _ => hrd o hretry⟩
    | some i =>
      refine ⟨?_, fun o ho hretry _ _ _ => ?_⟩
      · refine (congrArg LinkPort.rx (flitsResent_port ..)).trans ?_
        exact (congrArg LinkPort.rx hnoted :)
      · exact ((sendsOn_flitsResent ..).rd o ho.1).trans (hrd o hretry)

end Sys2Proof.Machine
end

section
/-! Flits that arrive at a port, and packets that are forwarded (R383 to R388). -/

namespace Sys2Proof.Machine

section SendsOn

variable {hide : LinkPort → LinkPort} {n : Nat} {s t : State}

/-- What sends on a port stops no clock and keeps the port live. -/
theorem SendsOn.clocksRun (h : SendsOn hide n s t) : t.clocksRun = s.clocksRun := by
  have hboot : t.boot = s.boot := hideSend_only h.hides .boot rfl
  unfold State.clocksRun State.powerUp State.tripped State.bit
  rw [h.rd rHiTrip (by decide), hboot]

theorem SendsOn.portState (h : SendsOn hide n s t) (m : Nat) : portState t m = portState s m :=
  congrArg (bits · 29 3) (h.rd _ (by unfold rLkStatus NoCounter; omega))

theorem SendsOn.portLive (h : SendsOn hide n s t) (m : Nat) : portLive t m = portLive s m := by
  unfold Sys2Proof.Machine.portLive State.hasLink State.bit
  rw [h.rd rCapUnits (by decide), h.portState]

end SendsOn

/-! ### The next flit and any other (R384, R386) -/

/-- A port that has sent a NAK for the flit it waits for. -/
def LinkPort.nakOut (x : LinkPort) : LinkPort :=
  { x with nakSent := true, wire := x.wire ++ [flitBits 2 0 x.rxAck [BitVec.ofNat 512 x.rxExp]] }

theorem sendNak_again (s : State) (n : Nat) : (sendNak s n true).port n = (s.port n).nakOut
    ∧ OnlyRegs [] s (sendNak s n true) ∧ Only [.lk] s (sendNak s n true) := by
  have hport : (s.setPort n { s.port n with nakSent := true }).port n = { s.port n with nakSent := true } :=
    State.port_setPort_same ..
  have hnak : sendNak s n true = putFlit (s.setPort n { s.port n with nakSent := true }) n 2 0
      [BitVec.ofNat 512 (s.port n).rxExp] := if_neg (by simp)
  rw [hnak]
  refine ⟨(State.port_setPort_same ..).trans ?_, .of_regs _ rfl, (only_lk s _).trans (only_lk _ _)⟩
  rw [hport]
  rfl

/-- A NAK goes out once for a flit that does not come; what has been received stays. -/
theorem sendNak_once (s : State) (n : Nat) : let t := sendNak s n false
    (t.port n).rxExp = (s.port n).rxExp ∧ (t.port n).rx = (s.port n).rx ∧ (t.port n).nakSent = true
      ∧ ∀ o, t.rd o = s.rd o := by
  unfold sendNak
  dsimp only
  split
  next h => exact ⟨rfl, rfl, by simpa using h, fun _ => rfl⟩
  next =>
    have hport : (putFlit (s.setPort n { s.port n with nakSent := true }) n 2 0
        [BitVec.ofNat 512 (s.port n).rxExp]).port n = (s.port n).nakOut := by
      refine (State.port_setPort_same ..).trans ?_
      rw [State.port_setPort_same]
      rfl
    rw [hport]
    exact ⟨rfl, rfl, rfl, fun _ => rfl⟩

/-- A port that takes the expected data flit. -/
def LinkPort.took (x : LinkPort) (f : Flit) : LinkPort :=
  let p := parsePackets (x.rxSlots.length + f.slots.length) (x.rxSlots ++ f.slots)
  { x with rxExp := (x.rxExp + 1) % 512, rxAck := x.rxExp, nakSent := false, rx := x.rx ++ p.1, rxSlots := p.2 }

theorem flitData_expected {s : State} {i : Nat} {f : Flit} (h : f.seq.toNat = (s.port i).rxExp) :
    SendsOn LinkPort.hideFlits i (s.setPort i ((s.port i).took f)) (flitData s i f) := by
  have hdata : flitData s i f = (List.range f.slots.length).foldl (fun s _ => bwCount s (34 + i) 0)
      (putIdle (s.setPort i ((s.port i).took f)) i) := if_pos h
  rw [hdata]
  exact (sendsOn_putFlit ..).trans (sendsOn_foldl _ (fun u _ => sendsOn_bwCount _ i u _ _) _ _)

theorem flitData_other {s : State} {i : Nat} {f : Flit} (h : f.seq.toNat ≠ (s.port i).rxExp) :
    flitData s i f = sendNak s i false := if_neg h

theorem flitData_rd (s : State) (i : Nat) (f : Flit) {o : Nat} (ho : NoCounter o) : (flitData s i f).rd o = s.rd o := by
  by_cases h : f.seq.toNat = (s.port i).rxExp
  · exact (flitData_expected h).rd o ho
  · rw [flitData_other h]
    exact (sendNak_once s i).2.2.2 o

/-! ### A flit of each kind (R383) -/

/-- A corrected codeword counted, and what the flit acknowledges. -/
def flitCounted (s : State) (i : Nat) (f : Flit) : State := if f.corrected then s.addSat (rLkFec i) 32 32 1 else s
def flitHeard (s : State) (i : Nat) (f : Flit) : State := ackTo (flitCounted s i f) i f.ack.toNat

theorem flitCounted_port (s : State) (i : Nat) (f : Flit) (m : Nat) : (flitCounted s i f).port m = s.port m := by
  unfold flitCounted
  split <;> rfl

theorem flitHeard_uncorrected {s : State} {i : Nat} {f : Flit} (h : f.corrected = false) :
    flitHeard s i f = ackTo s i f.ack.toNat := by rw [flitHeard, flitCounted, if_neg (by simp [h])]

/-- What a flit acknowledges leaves what the port has received. -/
theorem flitHeard_port (s : State) (i : Nat) (f : Flit) :
    ((flitHeard s i f).port i).hideOut = (s.port i).hideOut :=
  (sendsOn_ackTo i (flitCounted s i f) f.ack.toNat).own.trans (congrArg LinkPort.hideOut (flitCounted_port s i f i))

theorem flitHeard_rd (s : State) (i : Nat) (f : Flit) {o : Nat} (ho : NoCounter o) :
    (flitHeard s i f).rd o = (flitCounted s i f).rd o := (sendsOn_ackTo i (flitCounted s i f) f.ack.toNat).rd o ho

theorem flitTaken_bad {f : Flit} (h : f.uncorrectable = true) (s : State) (i : Nat) :
    flitTaken s i f = sendNak (s.addSat (rLkFec i) 0 32 1) i true := if_pos h

section Kinds

variable {f : Flit} (hok : f.uncorrectable = false)
include hok

theorem flitTaken_data (hk : f.kind = 0) (s : State) (i : Nat) : flitTaken s i f = flitData (flitHeard s i f) i f := by
  rw [flitTaken, hk, hok]
  rfl

theorem flitTaken_idle (hk : f.kind = 1) (s : State) (i : Nat) : flitTaken s i f = flitHeard s i f := by
  rw [flitTaken, hk, hok]
  rfl

theorem flitTaken_nak (hk : f.kind = 2) (s : State) (i : Nat) :
    flitTaken s i f = nakAt (flitHeard s i f) i (bits (f.slots.headD 0) 0 9) := by
  rw [flitTaken, hk, hok]
  rfl

theorem flitTaken_credit (hk : f.kind = 3) (s : State) (i : Nat) : flitTaken s i f = flitCredit (flitHeard s i f) i f := by
  rw [flitTaken, hk, hok]
  rfl

/-- Registers beside those that count and a close are left, whatever the kind. -/
theorem flitTaken_rd (s : State) {i : Nat} (hi : i < 6) {o : Nat} (ho : RouteFree o) (hretry : o ≠ rLkRetry i)
    (hstatus : o ≠ rLkStatus i) (hhead : o ≠ rErrHead) (herr : o ≠ rErrStatus) :
    (flitTaken s i f).rd o = (flitCounted s i f).rd o := by
  have hheard := flitHeard_rd s i f ho.1
  have hkind : f.kind = 0 ∨ f.kind = 1 ∨ f.kind = 2 ∨ f.kind = 3 := by
    generalize f.kind = k
    revert k
    decide
  obtain hk | hk | hk | hk := hkind
  · rw [flitTaken_data hok hk]
    exact (flitData_rd _ i f ho.1).trans hheard
  · rw [flitTaken_idle hok hk]
    exact hheard
  · rw [flitTaken_nak hok hk]
    exact ((nakAt_frame _ hi _).2 o ho hretry hstatus hhead herr).trans hheard
  · rw [flitTaken_credit hok hk]
    exact ((sendsOn_runPort i _).rd o ho.1).trans hheard

end Kinds

/-- A credit flit where no packet waits: the hop credits come back, up to 64 slots a VC (R387). -/
theorem flitCredit_idle {s : State} {i : Nat} (h : (s.port i).txq = []) (f : Flit) : let t := flitCredit s i f
    (t.port i).credit0 = Nat.min 64 ((s.port i).credit0 + bits (f.slots.headD 0) 0 7)
      ∧ (t.port i).credit1 = Nat.min 64 ((s.port i).credit1 + bits (f.slots.headD 0) 8 7)
      ∧ (t.port i).rx = (s.port i).rx := by
  let y : LinkPort := { s.port i with
    credit0 := Nat.min 64 ((s.port i).credit0 + bits (f.slots.headD 0) 0 7)
    credit1 := Nat.min 64 ((s.port i).credit1 + bits (f.slots.headD 0) 8 7) }
  have hport : (s.setPort i y).port i = y := State.port_setPort_same ..
  have hrun := (sendsOn_runPort_idle (s := s.setPort i y) (n := i) (by rw [hport]; exact h)).own
  rw [hport] at hrun
  exact ⟨congrArg LinkPort.credit0 hrun, congrArg LinkPort.credit1 hrun, (congrArg LinkPort.rx hrun :)⟩

/-! ### `FLIT_RECEIVE` -/

/-- Nothing is roused by a flit that completes no packet, or while the device is awake. -/
theorem exec_flitReceive {s : State} {n : Fin 6} {f : Flit} (hclk : s.clocksRun = true) (hlive : portLive s n.val = true)
    (h : ((flitTaken s n.val f).port n.val).rx = (s.port n.val).rx ∨ Awake s) :
    exec (.flitReceive n f) s = .next (flitTaken s n.val f) := by
  refine (clocked_run hclk _).trans (congrArg _ ((if_pos hlive).trans ?_))
  obtain hrx | haw := h
  · refine if_neg ?_
    rw [hrx]
    exact Nat.lt_irrefl _
  · have haw' : Awake (flitTaken s n.val f) := haw.of_wakeView (wakeView_flitTaken s n.val f)
    dsimp only
    rw [roused_awake haw']
    exact ite_self _

theorem exec_nakReceive {s : State} {n : Fin 6} (hclk : s.clocksRun = true) (hlive : portLive s n.val = true)
    (seq : BitVec 9) : exec (.nakReceive n seq) s = .next (nakAt s n.val seq.toNat) :=
  (clocked_run hclk _).trans (if_pos hlive)

/-! ### `PACKET_FORWARD` (R386 to R388) -/

/-- A port whose oldest packet has left its input buffer, with its hop credit sent back. -/
def LinkPort.left (x : LinkPort) (pk : Packet) (rest : List Packet) : LinkPort :=
  let n := 1 + pk.data.length
  { x with rx := rest, wire := x.wire ++ [flitBits 3 0 x.rxAck [BitVec.ofNat 512 (if pk.vc then n <<< 8 else n)]] }

/-- A packet on its way: it is for this device, or goes out by its route, or is dropped. -/
def packetRouted (s : State) (i : Nat) (pk : Packet) : State :=
  let r := routeTo s pk.dst.toNat
  if r = 6 then s
  else if r < 6 then
    sendPacket s r { pk with
      vc := if s.bit (rLkCfg r) 30 then true else if s.fld (rLkCfg r) 28 2 ≠ s.fld (rLkCfg i) 28 2 then false else pk.vc }
  else dropPacket s i

theorem State.setPort_setPort (s : State) (n : Nat) (x y : LinkPort) : (s.setPort n x).setPort n y = s.setPort n y :=
  congrArg (fun m => ({ s with lk := { s.lk with ports := m } } : State)) (SMap.set_set s.lk.ports n x y)

theorem putCredit_left (s : State) (i : Nat) (pk : Packet) (rest : List Packet) :
    putCredit (s.setPort i { s.port i with rx := rest }) i pk.vc (1 + pk.data.length)
      = s.setPort i ((s.port i).left pk rest) := by
  unfold putCredit putFlit
  rw [State.port_setPort_same]
  exact State.setPort_setPort ..

theorem exec_packetForward {s : State} {n : Fin 6} {pk : Packet} {rest : List Packet} (hclk : s.clocksRun = true)
    (hlive : portLive s n.val = true) (hrx : (s.port n.val).rx = pk :: rest) (hk : 1 ≤ pk.kind.toNat)
    (hk' : pk.kind.toNat ≤ 7) (hiso : portState s n.val ≠ lkIsolated) : exec (.packetForward n pk) s
      = .next (packetRouted (s.setPort n.val ((s.port n.val).left pk rest)) n.val pk) := by
  have hstate (x : LinkPort) : portState (s.setPort n.val x) n.val = portState s n.val := rfl
  refine (clocked_run hclk _).trans ((if_pos hlive).trans ?_)
  simp only [hrx, if_true, putCredit_left]
  rw [if_neg (by omega), if_neg (by rw [hstate]; exact fun h => hiso h.1), if_neg (by omega)]
  unfold packetRouted
  dsimp only
  rw [apply_ite Host.Outcome.next, apply_ite Host.Outcome.next]

/-! ### What NAK_RECEIVE, LINK_ACK_TIMEOUT and LINK_LOCK_LOSS show -/

theorem nakAt_shows (s : State) {n : Nat} (hn : n < 6) (seq : Nat) : let t := nakAt s n seq
    (t.port n).nakSeq = seq ∧ (t.port n).nakRun = nakRunAfter (s.port n) seq
      ∧ (nakRunAfter (s.port n) seq < 16 → (t.port n).retry = (s.port n).retry ∧ portState t n = portState s n
        ∧ ∀ i, ((s.port n).retry.findIdx? fun e => e.1 == seq) = some i → (t.port n).wire
          = (s.port n).wire ++ ((s.port n).retry.drop i).map fun e => flitBits 0 e.1 (s.port n).rxAck e.2)
      ∧ (16 ≤ nakRunAfter (s.port n) seq → (t.port n).retry = [] ∧ portState t n = lkDown) := by
  obtain ⟨hnoted, hregs, -⟩ := nakNoted_shows s n seq
  have hstate : portState (nakNoted s n seq) n = portState s n := hregs.fld (by simp) 29 3
  dsimp only
  by_cases h : 16 ≤ nakRunAfter (s.port n) seq
  · obtain ⟨hdown, hport, -⟩ := portDown_shows (nakNoted s n seq) (nakNoted s n seq) hn rfl rfl
    rw [nakAt_down h, hport, hnoted]
    exact ⟨rfl, rfl, fun hlt => absurd h (Nat.not_le.2 hlt), fun _ => ⟨rfl, hdown⟩⟩
  · rw [nakAt_resend h]
    cases hfind : (s.port n).retry.findIdx? fun e => e.1 == seq with
    | none =>
      dsimp only [Option.map_none, Option.getD_none]
      rw [hnoted]
      exact ⟨rfl, rfl, fun _ => ⟨rfl, hstate, nofun⟩, fun hge => absurd hge h⟩
    | some i =>
      have hsent := (sendsOn_flitsResent n (nakNoted s n seq) ((s.port n).retry.drop i)).portState n
      dsimp only [Option.map_some, Option.getD_some]
      rw [flitsResent_port, hnoted, hsent]
      refine ⟨rfl, rfl, fun _ => ⟨rfl, hstate, fun j hj => ?_⟩, fun hge => absurd hge h⟩
      obtain rfl := Option.some.inj hj
      rfl

theorem portDown_kept (s : State) {n : Nat} (hn : n < 6) : let t := portDown s n
    portState t n = lkDown ∧ (t.port n).retry = [] ∧ (t.port n).rx = (s.port n).rx
      ∧ Logged s t (mkFault stLinkDown 6 n) 0 none none := by
  obtain ⟨hdown, hport, hlog⟩ := portDown_shows s s hn rfl rfl
  exact ⟨hdown, congrArg LinkPort.retry hport, (congrArg LinkPort.rx hport :), hlog⟩

/-! ### What FLIT_RECEIVE shows, by the flit -/

section Received

variable {s : State} {n : Fin 6} {f : Flit} (hclk : s.clocksRun = true) (hlive : portLive s n.val = true)
include hclk hlive

theorem flitReceive_bad (hbad : f.uncorrectable = true) : Completes (.flitReceive n f) s fun t =>
    t.fld (rLkFec n.val) 0 32 = Nat.min (s.fld (rLkFec n.val) 0 32 + 1) (2 ^ 32 - 1)
      ∧ t.port n.val = (s.port n.val).nakOut ∧ OnlyRegs [rLkFec n.val] s t ∧ Only [.regs, .lk] s t := by
  obtain ⟨hport, hregs, honly⟩ := sendNak_again (s.addSat (rLkFec n.val) 0 32 1) n.val
  have htaken := flitTaken_bad hbad s n.val
  have hrx : ((flitTaken s n.val f).port n.val).rx = (s.port n.val).rx := by
    rw [htaken, hport]
    rfl
  refine ⟨_, (exec_flitReceive hclk hlive (.inl hrx)).trans (congrArg _ htaken), ?_, hport, ?_, ?_⟩
  · exact (hregs.fld (by simp) 0 32).trans (State.fld_addSat_same s _ _ _ _ (by decide))
  · exact (onlyRegs_addSat s _ _ _ (by simp)).trans (hregs.mono (by simp))
  · exact ((only_addSat s _ _ _ _).mono (by simp)).trans (honly.mono (by simp))

theorem flitReceive_corrected (hok : f.uncorrectable = false) (hcor : f.corrected = true) (haw : Awake s) :
    Completes (.flitReceive n f) s fun t =>
      t.fld (rLkFec n.val) 32 32 = Nat.min (s.fld (rLkFec n.val) 32 32 + 1) (2 ^ 32 - 1) := by
  refine ⟨_, exec_flitReceive hclk hlive (.inr haw), ?_⟩
  have hfec : (flitTaken s n.val f).rd (rLkFec n.val) = (flitCounted s n.val f).rd (rLkFec n.val) := by
    have hn := n.isLt
    refine flitTaken_rd hok s hn ?_ (by simp) (by simp) ?_ ?_
    · unfold rLkFec RouteFree NoCounter
      omega
    · unfold rLkFec rErrHead
      omega
    · unfold rLkFec rErrStatus
      omega
  refine (congrArg (bits · 32 32) hfec).trans ?_
  rw [flitCounted, if_pos hcor]
  exact State.fld_addSat_same s _ _ _ _ (by decide)

theorem flitReceive_expected (hok : f.uncorrectable = false) (hk : f.kind = 0)
    (hseq : f.seq.toNat = (s.port n.val).rxExp) (haw : Awake s) : Completes (.flitReceive n f) s fun t =>
      (t.port n.val).rxExp = ((s.port n.val).rxExp + 1) % 512 ∧ (t.port n.val).rxAck = (s.port n.val).rxExp
        ∧ (t.port n.val).nakSent = false
        ∧ (t.port n.val).rx = (s.port n.val).rx
          ++ (parsePackets ((s.port n.val).rxSlots.length + f.slots.length) ((s.port n.val).rxSlots ++ f.slots)).1 := by
  have hheard := flitHeard_port s n.val f
  have hexp : ((flitHeard s n.val f).port n.val).rxExp = (s.port n.val).rxExp := (congrArg LinkPort.rxExp hheard :)
  have hrx : ((flitHeard s n.val f).port n.val).rx = (s.port n.val).rx := (congrArg LinkPort.rx hheard :)
  have hslots : ((flitHeard s n.val f).port n.val).rxSlots = (s.port n.val).rxSlots := (congrArg LinkPort.rxSlots hheard :)
  have hdata := (flitData_expected (hseq.trans hexp.symm)).own
  rw [State.port_setPort_same] at hdata
  refine ⟨_, (exec_flitReceive hclk hlive (.inr haw)).trans (congrArg _ (flitTaken_data hok hk s n.val)), ?_, ?_, ?_, ?_⟩
  · exact (congrArg LinkPort.rxExp hdata).trans (congrArg (fun k => (k + 1) % 512) hexp)
  · exact (congrArg LinkPort.rxAck hdata).trans hexp
  · exact congrArg LinkPort.nakSent hdata
  · refine (congrArg LinkPort.rx hdata).trans ?_
    dsimp only [LinkPort.hideFlits, LinkPort.took]
    rw [hrx, hslots]

theorem flitReceive_other (hok : f.uncorrectable = false) (hk : f.kind = 0) (hseq : f.seq.toNat ≠ (s.port n.val).rxExp) :
    Completes (.flitReceive n f) s fun t => (t.port n.val).rxExp = (s.port n.val).rxExp
      ∧ (t.port n.val).rx = (s.port n.val).rx ∧ (t.port n.val).nakSent = true := by
  have hheard := flitHeard_port s n.val f
  have hexp : ((flitHeard s n.val f).port n.val).rxExp = (s.port n.val).rxExp := (congrArg LinkPort.rxExp hheard :)
  have hrx : ((flitHeard s n.val f).port n.val).rx = (s.port n.val).rx := (congrArg LinkPort.rx hheard :)
  have htaken : flitTaken s n.val f = sendNak (flitHeard s n.val f) n.val false :=
    (flitTaken_data hok hk s n.val).trans (flitData_other (hexp ▸ hseq))
  obtain ⟨hexp', hrx', hsent, -⟩ := sendNak_once (flitHeard s n.val f) n.val
  exact ⟨_, (exec_flitReceive hclk hlive (.inl (by rw [htaken]; exact hrx'.trans hrx))).trans (congrArg _ htaken),
    hexp'.trans hexp, hrx'.trans hrx, hsent⟩

theorem flitReceive_idle (hok : f.uncorrectable = false) (hcor : f.corrected = false) (hk : f.kind = 1) :
    exec (.flitReceive n f) s = .next (ackTo s n.val f.ack.toNat) := by
  have htaken : flitTaken s n.val f = ackTo s n.val f.ack.toNat :=
    (flitTaken_idle hok hk s n.val).trans (flitHeard_uncorrected hcor)
  refine (exec_flitReceive hclk hlive (.inl ?_)).trans (congrArg _ htaken)
  rw [htaken]
  exact (congrArg LinkPort.rx (sendsOn_ackTo n.val s f.ack.toNat).own :)

theorem flitReceive_nak (hok : f.uncorrectable = false) (hcor : f.corrected = false) (hk : f.kind = 2) :
    exec (.flitReceive n f) s
      = exec (.nakReceive n (BitVec.ofNat 9 (bits (f.slots.headD 0) 0 9))) (ackTo s n.val f.ack.toNat) := by
  have hack := sendsOn_ackTo n.val s f.ack.toNat
  have hseq : (BitVec.ofNat 9 (bits (f.slots.headD 0) 0 9)).toNat = bits (f.slots.headD 0) 0 9 :=
    (BitVec.toNat_ofNat ..).trans (Nat.mod_eq_of_lt (Nat.mod_lt _ (by decide)))
  have htaken : flitTaken s n.val f = nakAt (ackTo s n.val f.ack.toNat) n.val (bits (f.slots.headD 0) 0 9) :=
    (flitTaken_nak hok hk s n.val).trans (congrArg (nakAt · _ _) (flitHeard_uncorrected hcor))
  have hrx : ((flitTaken s n.val f).port n.val).rx = (s.port n.val).rx := by
    rw [htaken, (nakAt_frame _ n.isLt _).1]
    exact (congrArg LinkPort.rx hack.own :)
  refine (exec_flitReceive hclk hlive (.inl hrx)).trans ((congrArg _ htaken).trans (Eq.symm ?_))
  rw [exec_nakReceive (hack.clocksRun.trans hclk) ((hack.portLive _).trans hlive), hseq]

theorem flitReceive_credit (hok : f.uncorrectable = false) (hk : f.kind = 3) (htxq : (s.port n.val).txq = []) :
    Completes (.flitReceive n f) s fun t =>
      (t.port n.val).credit0 = Nat.min 64 ((s.port n.val).credit0 + bits (f.slots.headD 0) 0 7)
        ∧ (t.port n.val).credit1 = Nat.min 64 ((s.port n.val).credit1 + bits (f.slots.headD 0) 8 7)
        ∧ (t.port n.val).rx = (s.port n.val).rx := by
  have hcounted := flitCounted_port s n.val f n.val
  have hheard : ((flitHeard s n.val f).port n.val).hideFlits = (s.port n.val).hideFlits :=
    (sendsOn_ackTo_idle (by rw [hcounted]; exact htxq) f.ack.toNat).own.trans (congrArg LinkPort.hideFlits hcounted)
  have hrx : ((flitHeard s n.val f).port n.val).rx = (s.port n.val).rx := (congrArg LinkPort.rx hheard :)
  have hempty : ((flitHeard s n.val f).port n.val).txq = [] := (congrArg LinkPort.txq hheard).trans htxq
  have hc0 : ((flitHeard s n.val f).port n.val).credit0 = (s.port n.val).credit0 := (congrArg LinkPort.credit0 hheard :)
  have hc1 : ((flitHeard s n.val f).port n.val).credit1 = (s.port n.val).credit1 := (congrArg LinkPort.credit1 hheard :)
  obtain ⟨h0, h1, hrx'⟩ := flitCredit_idle hempty f
  have htaken := flitTaken_credit hok hk s n.val
  rw [hc0] at h0
  rw [hc1] at h1
  exact ⟨_, (exec_flitReceive hclk hlive (.inl (by rw [htaken]; exact hrx'.trans hrx))).trans (congrArg _ htaken), h0, h1,
    hrx'.trans hrx⟩

end Received

/-- Settles O47: a port trains, takes and answers its flits, and goes down, by R381 to R388. The model's choices it
rests on: the hop credits of a packet go back in one credit flit when it leaves the input buffer (log 97), a
cleared EN closes the port without an entry (log 99), and an uncorrectable codeword is answered with another NAK
while one is outstanding (log 168). -/
theorem linkPortsTrainReceiveAndGoDown : Obligations.LinkPortsTrainReceiveAndGoDown := by
  unfold Obligations.LinkPortsTrainReceiveAndGoDown
  intro s n hclk hlink
  refine ⟨fun v hv hdown => ?on, fun v hv hup => ?off, fun hen hst => ?trained, fun hen hst => ?again,
    fun hlive => ⟨fun f => flitReceive_bad hclk hlive, fun f => flitReceive_corrected hclk hlive,
      fun f => flitReceive_expected hclk hlive, fun f => flitReceive_other hclk hlive,
      fun f => flitReceive_idle hclk hlive, fun f => flitReceive_nak hclk hlive,
      fun f => flitReceive_credit hclk hlive,
      fun seq => ⟨_, exec_nakReceive hclk hlive seq, nakAt_shows s n.isLt seq.toNat⟩, fun hretry hlate => ?late,
      ⟨_, (clocked_run hclk _).trans (if_pos hlive), portDown_kept s n.isLt⟩,
      fun pk rest hrx hk hk' hiso => ?forward⟩⟩
  case on =>
    obtain ⟨hstate, hregs, honly⟩ :=
      setPortState_frame (s.plainWrite (rLkCfg n.val) (v.setWidth 64)) n.val (x := lkTraining) (by decide)
    obtain ⟨hregs', honly'⟩ := plainWrite_frame s (rLkCfg n.val) (v.setWidth 64)
    refine ⟨_, exec_linkEnable_on hclk hlink hv hdown, hstate, ?_, (hregs'.mono (by simp)).trans (hregs.mono (by simp)),
      honly'.trans honly⟩
    exact (hregs.bit (by simp) 31).trans ((bit_linkCfg_enable ..).trans hv)
  case off =>
    have hn := n.isLt
    obtain ⟨hdown, hport, hrd, -⟩ := portClose_shows (s.plainWrite (rLkCfg n.val) (v.setWidth 64)) hn
    have hcfg := hrd (rLkCfg n.val) (by unfold rLkCfg RouteFree NoCounter; omega) (by simp)
    exact ⟨_, exec_linkEnable_off hclk hlink hv hup, hdown,
      (congrArg (bitAt · 31) hcfg).trans ((bit_linkCfg_enable ..).trans hv), congrArg LinkPort.retry hport⟩
  case trained =>
    have hdown := setPortState_frame s n.val (x := lkDown) (by decide)
    refine ⟨?_, fun lanes hlanes => ⟨fun hx4 => ?_, fun hx4 => ?_⟩, fun lanes hff h0f hf0 => ?_⟩
    · obtain ⟨hup, hlanes, hx4, hport⟩ := trained_shows s n.val 0xFF false
      refine ⟨_, exec_linkTrained_up hclk hlink hen hst (by simp), hup, hlanes, hx4, fun h0 => ?_⟩
      exact ⟨congrArg LinkPort.txSeq (hport h0), congrArg LinkPort.rxExp (hport h0), congrArg LinkPort.retry (hport h0),
        congrArg LinkPort.credit0 (hport h0), congrArg LinkPort.credit1 (hport h0)⟩
    · obtain ⟨hup, hwidth, hbit, -⟩ := trained_shows s n.val lanes true
      have hhalf : (lanes == 0x0F || lanes == 0xF0) = true := by simpa using hlanes
      have hrun := exec_linkTrained_up (lanes := lanes) hclk hlink hen hst (by rw [hhalf, hx4]; simp)
      rw [hhalf] at hrun
      exact ⟨_, hrun, hup, hwidth, hbit⟩
    · refine ⟨_, exec_linkTrained_down hclk hlink hen hst ?_, hdown⟩
      rw [hx4]
      obtain rfl | rfl := hlanes <;> rfl
    · exact ⟨_, exec_linkTrained_down hclk hlink hen hst (by
        rw [beq_false_of_ne hff, beq_false_of_ne h0f, beq_false_of_ne hf0]
        rfl), hdown⟩
  case again =>
    exact ⟨_, (clocked_run hclk _).trans (if_pos (by simp [hlink, hen, hst])),
      setPortState_frame s n.val (x := lkTraining) (by decide)⟩
  case late =>
    refine ⟨_, (clocked_run hclk _).trans (if_pos ?_), portDown_kept s n.isLt⟩
    simp [hlive, hretry, hlate]
  case forward =>
    have hrun := exec_packetForward hclk hlive hrx hk hk' hiso
    have hport : (s.setPort n.val ((s.port n.val).left pk rest)).port n.val = (s.port n.val).left pk rest :=
      State.port_setPort_same ..
    have hroute : routeTo (s.setPort n.val ((s.port n.val).left pk rest)) pk.dst.toNat = routeTo s pk.dst.toNat := rfl
    refine ⟨fun h6 => ?_, fun hlt => ?_, fun h7 => ?_⟩
    · refine ⟨_, hrun.trans (congrArg _ (if_pos (hroute.trans h6))), hport, fun m hm => State.port_setPort_other _ _ hm,
        only_lk s _⟩
    · exact hrun.trans (congrArg _ ((if_neg (by rw [hroute]; omega)).trans (if_pos (by rw [hroute]; exact hlt))))
    · refine ⟨_, hrun.trans (congrArg _ ((if_neg (by rw [hroute]; omega)).trans (if_neg (by rw [hroute]; omega)))), hport,
        State.fld_addSat_same _ _ _ _ _ (by decide), ?_, ?_⟩
      · exact (OnlyRegs.of_regs _ rfl).trans (onlyRegs_addSat (s.setPort n.val _) _ _ _ (by simp))
      · exact ((only_lk s _).mono (by simp)).then_wr _ _ (by simp)

end Sys2Proof.Machine
end

section
/-! Membership: HELLO, updates, the join, the leave and a lost peer (R390 to R393). -/

namespace Sys2Proof.Machine

/-! ### Registers and notes that the membership keeps -/

theorem routeFree_member {k : Nat} (h : k < 16) : RouteFree (rLkMember k) := by
  unfold rLkMember RouteFree NoCounter
  omega
theorem routeFree_port {n : Nat} (h : n < 6) : RouteFree (rLkStatus n) ∧ RouteFree (rLkCfg n) ∧ RouteFree (rLkPeer n)
    ∧ RouteFree (rLkPeerSerial n) := by
  unfold rLkStatus rLkCfg rLkPeer rLkPeerSerial RouteFree NoCounter
  omega

theorem isMember_of_rd {s t : State} (h : ∀ o, RouteFree o → t.rd o = s.rd o) {i : Nat} (hi : i < 1024) :
    isMember t i = isMember s i := congrArg (bitAt · (i % 64)) (h _ (routeFree_member (by omega)))

theorem isMember_setMember (s : State) (i : Nat) (b : Bool) : isMember (setMember s i b) i = b :=
  State.bit_setBit_same _ _ _ _ (Nat.mod_lt _ (by decide))

theorem isMember_setMember_other (s : State) {i j : Nat} (b : Bool) (h : j ≠ i) :
    isMember (setMember s i b) j = isMember s j := by
  refine State.bit_setBit_other _ _ _ _ _ _ (Nat.mod_lt _ (by decide)) ?_
  unfold rLkMember
  omega

/-- The updates heard and the members that are leaving. -/
def State.lkNotes (s : State) : SMap LinkState × List Nat := (s.lk.states, s.lk.left)

theorem lkNotes_of_hides {s t : State} (h : t.hideSend = s.hideSend) : t.lkNotes = s.lkNotes :=
  (congrArg (fun u : State => (u.lk.states, u.lk.left)) h :)

theorem lkNotes_foldl {α : Type} (g : State → α → State) (h : ∀ s a, (g s a).lkNotes = s.lkNotes) (l : List α) (s : State) :
    (l.foldl g s).lkNotes = s.lkNotes := foldl_part _ g h l s

theorem lkNotes_floodState (s : State) (u : LinkState) (e : Option Nat) : (floodState s u e).lkNotes = s.lkNotes :=
  lkNotes_foldl _ (fun v n => by
    split
    · exact lkNotes_of_hides (sendsOn_sendPacket n v _).hides
    · rfl) _ s

theorem lkNotes_noRoute (s : State) (m : SMap Nat) : ({ s with lk := { s.lk with noRoute := m } } : State).lkNotes
    = s.lkNotes := rfl

theorem lkNotes_installRoutes (s : State) : (installRoutes s).lkNotes = s.lkNotes := by
  have hhold (u : State) : (enterHoldover u).lkNotes = u.lkNotes := rfl
  have hepoch (u : State) : (u.addWrap rLkEpoch 0 16).lkNotes = u.lkNotes := rfl
  have hset (u : State) (o l n x : Nat) : (u.setFld o l n x).lkNotes = u.lkNotes := rfl
  simp only [installRoutes, apply_ite State.lkNotes, hhold, lkNotes_noRoute, hepoch, ite_self]
  exact lkNotes_foldl _ (fun u _ => hset u _ _ _ _) _ s

/-! ### HELLO (R390) -/

/-- Port i attached, its peer noted. -/
def peerNoted (s : State) (i : Nat) (h : Hello) : State :=
  ((setPortState s i lkAttached).wr (rLkPeer i) (BitVec.ofNat 64 (h.id.toNat <<< 6 + h.port.toNat))).wr
    (rLkPeerSerial i) h.serial

/-- The clash of ids that isolates a port. -/
def helloClash (s : State) (h : Hello) : Prop :=
  (s.bit rLkId 31 = true ∧ h.id.toNat = ownId s)
    ∨ (isMember s h.id.toNat = true ∧ ∃ e, (s.lk.serials.find? fun e => e.1 == h.id.toNat) = some e ∧ e.2 ≠ h.serial)

section Hello

variable {s : State} {n : Fin 6} {h : Hello} (hclk : s.clocksRun = true) (hlink : s.hasLink n.val = true)
  (hst : portState s n.val = lkUp ∨ portState s n.val = lkAttached)
include hclk hlink hst

theorem exec_membHello_clash (hc : helloClash s h) : exec (.membHello n h) s
    = .next (logOnly (setPortState s n.val lkIsolated) (mkFault stLinkDown 6 n.val)) := by
  refine (clocked_run hclk _).trans ((if_pos (by simpa [hlink] using hst)).trans (if_pos ?_))
  obtain ⟨hid, hown⟩ | ⟨hmem, e, hfind, hne⟩ := hc
  · simp [hid, hown]
  · simp [hmem, hfind, hne]

theorem exec_membHello_attach (hc : ¬ helloClash s h) : exec (.membHello n h) s
    = .next (if dstate (peerNoted s n.val h) = 0 then peerNoted s n.val h
      else ownUpdate (peerNoted s n.val h) false) := by
  refine (clocked_run hclk _).trans ((if_pos (by simpa [hlink] using hst)).trans (if_neg fun hclash => hc ?_))
  cases hfind : s.lk.serials.find? fun e => e.1 == h.id.toNat with
  | none =>
    simp only [hfind, Bool.and_false, Bool.or_false, Bool.and_eq_true, beq_iff_eq] at hclash
    exact .inl hclash
  | some e =>
    simp only [hfind, Bool.or_eq_true, Bool.and_eq_true, beq_iff_eq, bne_iff_ne] at hclash
    exact hclash.imp_right fun ⟨hmem, hne⟩ => ⟨hmem, e, hfind, hne⟩

end Hello

theorem peerNoted_shows (s : State) (i : Nat) (h : Hello) : let t := peerNoted s i h
    portState t i = lkAttached ∧ t.rd (rLkPeerSerial i) = h.serial
      ∧ t.rd (rLkPeer i) = BitVec.ofNat 64 (h.id.toNat * 64 + h.port.toNat)
      ∧ OnlyRegs [rLkStatus i, rLkPeer i, rLkPeerSerial i] s t ∧ Only [.regs] s t ∧ dstate t = dstate s := by
  have honly : OnlyRegs [rLkStatus i, rLkPeer i, rLkPeerSerial i] s (peerNoted s i h) :=
    ((onlyRegs_setFld s _ _ _ (by simp)).trans (onlyRegs_wr _ _ (by simp))).trans (onlyRegs_wr _ _ (by simp))
  refine ⟨?_, State.rd_wr_same .., ?_, honly, ?_, ?_⟩
  · refine (congrArg (bits · 29 3) ((State.rd_wr_other _ _ (by simp)).trans (State.rd_wr_other _ _ (by simp)))).trans ?_
    exact portState_setPortState s i (by decide)
  · refine (State.rd_wr_other _ _ (by simp)).trans ((State.rd_wr_same ..).trans ?_)
    rw [Nat.shiftLeft_eq]
  · exact ((only_setFld s _ _ _ _).trans (only_wr _ _ _)).trans (only_wr _ _ _)
  · exact honly.fld (by unfold rLkEpoch rLkStatus rLkPeer rLkPeerSerial; simp; omega) 29 3

/-! ### Updates (R391 to R393) -/

/-- An update stored and sent on. -/
def updateHeard (s : State) (u : LinkState) (n : Nat) : State := floodState (storeState s u) u (some n)

/-- Its origin is a member, or leaves. -/
def originNoted (s : State) (u : LinkState) : State :=
  let o := u.origin.toNat
  if u.leave then { s with lk := { s.lk with left := s.lk.left ++ [o] } }
  else setMember { s with lk := { s.lk with left := s.lk.left.filter (· != o) } } o true

section Update

variable {s : State} {n : Fin 6} {u : LinkState} (hclk : s.clocksRun = true)
include hclk

theorem exec_membUpdate_fresh (hst : portState s n.val = lkAttached) (hown : u.origin.toNat ≠ ownId s)
    (hnew : ∀ e, (s.lk.states.find? fun e => e.1 == u.origin.toNat) = some e → e.2.seq.toNat < u.seq.toNat) :
    exec (.membUpdate n u) s = .next (let t := originNoted (updateHeard s u n.val) u
      if dstate t = 2 then installRoutes t else t) := by
  refine (clocked_run hclk _).trans (if_pos ?_)
  cases hfind : s.lk.states.find? fun e => e.1 == u.origin.toNat with
  | none => simp [hst, hown]
  | some e => simp [hst, hown, hnew e hfind]

theorem exec_membUpdate_seen {e : Nat × LinkState}
    (hfind : (s.lk.states.find? fun e => e.1 == u.origin.toNat) = some e) (hold : u.seq.toNat ≤ e.2.seq.toNat) :
    exec (.membUpdate n u) s = .next s := by
  refine (clocked_run hclk _).trans (if_neg ?_)
  simp [hfind, Nat.not_lt.2 hold]

end Update

theorem updateHeard_shows (s : State) (u : LinkState) (n : Nat) : let t := updateHeard s u n
    t.lkNotes = (SMap.set (fun _ => ⟨0, 0, 0, [], false⟩) s.lk.states u.origin.toNat u, s.lk.left)
      ∧ ∀ o, RouteFree o → t.rd o = s.rd o :=
  ⟨lkNotes_floodState .., (routed_floodState (n := 6) (s := storeState s u) (by simp)).rd⟩

theorem originNoted_shows (s : State) (u : LinkState) : let t := originNoted s u
    t.lk.states = s.lk.states
      ∧ (u.leave = false → isMember t u.origin.toNat = true ∧ t.lk.left.contains u.origin.toNat = false)
      ∧ (u.leave = true → isMember t u.origin.toNat = isMember s u.origin.toNat
        ∧ t.lk.left.contains u.origin.toNat = true)
      ∧ ∀ i, i ≠ u.origin.toNat → isMember t i = isMember s i := by
  unfold originNoted
  dsimp only
  split
  next h => exact ⟨rfl, by simp [h], fun _ => ⟨rfl, by simp⟩, fun _ _ => rfl⟩
  next h =>
    refine ⟨rfl, fun _ => ⟨isMember_setMember .., ?_⟩, fun hl => absurd hl h, fun i hi => isMember_setMember_other _ _ hi⟩
    have hleft : (setMember { s with lk := { s.lk with left := s.lk.left.filter (· != u.origin.toNat) } }
        u.origin.toNat true).lk.left = s.lk.left.filter (· != u.origin.toNat) := rfl
    rw [hleft]
    simp

/-- Routes that follow leave what has been noted and the members. -/
theorem routesFollow_shows (s : State) : let t := if dstate s = 2 then installRoutes s else s
    t.lkNotes = s.lkNotes ∧ ∀ i, i < 1024 → isMember t i = isMember s i := by
  dsimp only
  split
  · exact ⟨lkNotes_installRoutes s, fun i hi => isMember_of_rd (routed_installRoutes 6 s).rd hi⟩
  · exact ⟨rfl, fun _ _ => rfl⟩

/-! ### The join and the leave (R392) -/

theorem memberView_setMember (s : State) (i : Nat) (b : Bool) :
    (setMember s i b).memberView = s.memberView :=
  memberView_of_seqView (seqView_wr s _ (by unfold rLkId rLkMember; omega) (by unfold rLkEpoch rLkMember; omega))

/-- The ids on the links. -/
theorem ownId_lt (s : State) : ownId s < 1024 := Nat.mod_lt _ (by decide)

theorem ownId_of_rd {s t : State} (h : t.rd rLkId = s.rd rLkId) : ownId t = ownId s := congrArg (bits · 0 10) h

/-- The device a member, its routes installed. -/
theorem joined_shows (s : State) : let t := installRoutes ((setMember s (ownId s) true).setFld rLkEpoch 29 3 2)
    dstate t = 2 ∧ isMember t (ownId s) = true ∧ ownId t = ownId s := by
  have hview := memberView_of_seqView (seqView_installRoutes ((setMember s (ownId s) true).setFld rLkEpoch 29 3 2))
  have hown := ownId_lt s
  refine ⟨?_, ?_, ?_⟩
  · refine (congrArg (fun v => v.2.2) hview :).trans ?_
    exact State.fld_setFld_same _ _ _ _ _ (by decide)
  · refine (isMember_of_rd (routed_installRoutes 6 _).rd hown).trans ?_
    refine (congrArg (bitAt · _) (State.rd_setFld_other _ _ _ _ ?_)).trans (isMember_setMember s _ true)
    unfold rLkEpoch rLkMember
    omega
  · refine (ownId_of_rd (congrArg Prod.fst hview)).trans (ownId_of_rd ?_)
    refine (State.rd_setFld_other _ _ _ _ (by decide)).trans ?_
    exact congrArg Prod.fst (memberView_setMember s _ true)

/-- A port disabled and DOWN. -/
def portOff (s : State) (n : Nat) : Prop := portState s n = lkDown ∧ s.bit (rLkCfg n) 31 = false

theorem portDisable_off (s : State) {n : Nat} (hn : n < 6) : portOff (portDisable s n) n := by
  have hcfg : (s.setBit (rLkCfg n) 31 false).bit (rLkCfg n) 31 = false := State.bit_setBit_same _ _ _ _ (by decide)
  unfold portDisable
  dsimp only
  split
  next h => exact ⟨h, hcfg⟩
  next =>
    obtain ⟨hdown, -, hrd, -⟩ := portClose_shows (s.setBit (rLkCfg n) 31 false) hn
    exact ⟨hdown, (congrArg (bitAt · 31) (hrd _ (routeFree_port hn).2.1 (by simp))).trans hcfg⟩

theorem portDisable_rd (s : State) {n o : Nat} (hn : n < 6) (ho : RouteFree o) (hs : o ≠ rLkStatus n)
    (hc : o ≠ rLkCfg n) : (portDisable s n).rd o = s.rd o := by
  unfold portDisable
  dsimp only
  split
  · exact State.rd_setBit_other _ _ _ hc
  · exact ((portClose_shows _ hn).2.2.1 o ho hs).trans (State.rd_setBit_other _ _ _ hc)

theorem portOff_portDisable {s : State} {n m : Nat} (hn : n < 6) (hm : m < 6) (hne : m ≠ n) (h : portOff s m) :
    portOff (portDisable s n) m := by
  have hstatus := portDisable_rd s hn (routeFree_port hm).1 (by unfold rLkStatus; omega) (by unfold rLkStatus rLkCfg; omega)
  have hcfg := portDisable_rd s hn (routeFree_port hm).2.1 (by unfold rLkStatus rLkCfg; omega) (by unfold rLkCfg; omega)
  exact ⟨(congrArg (bits · 29 3) hstatus).trans h.1, (congrArg (bitAt · 31) hcfg).trans h.2⟩

theorem portsDisabled_off {l : List Nat} (hl : ∀ n ∈ l, n < 6) {s : State} {m : Nat} (hm : m < 6)
    (h : m ∈ l ∨ portOff s m) : portOff (l.foldl portDisable s) m := by
  induction l generalizing s with
  | nil => exact h.resolve_left (by simp)
  | cons n r ih =>
    have hn := hl n (by simp)
    refine ih (fun k hk => hl k (List.mem_cons_of_mem _ hk)) ?_
    by_cases hmn : m = n
    · subst hmn
      exact .inr (portDisable_off s hm)
    · exact h.imp (fun hin => (List.mem_cons.1 hin).resolve_left hmn) (portOff_portDisable hn hm hmn)

/-- The device ALONE, every port disabled. -/
def leaveDone (s : State) : State :=
  let u := (List.range 6).foldl portDisable s
  (setMember u (ownId u) false).setFld rLkEpoch 29 3 0

theorem leaveDone_shows (s : State) : let t := leaveDone s
    dstate t = 0 ∧ isMember t (ownId s) = false ∧ ∀ n, n < 6 → portOff t n := by
  have hid : ((List.range 6).foldl portDisable s).rd rLkId = s.rd rLkId :=
    List.foldlRecOn (motive := fun u : State => u.rd rLkId = s.rd rLkId) _ portDisable rfl fun u hu n hn =>
      (portDisable_rd u (List.mem_range.1 hn) (by decide) (by unfold rLkId rLkStatus; omega)
        (by unfold rLkId rLkCfg; omega)).trans hu
  have hoff (n : Nat) (hn : n < 6) : portOff ((List.range 6).foldl portDisable s) n :=
    portsDisabled_off (fun k hk => List.mem_range.1 hk) hn (.inl (List.mem_range.2 hn))
  unfold leaveDone
  dsimp only
  rw [ownId_of_rd hid]
  have hown := ownId_lt s
  generalize (List.range 6).foldl portDisable s = u at hoff
  have hrd (o : Nat) (hm : ∀ k, k < 16 → o ≠ rLkMember k) (he : o ≠ rLkEpoch) :
      ((setMember u (ownId s) false).setFld rLkEpoch 29 3 0).rd o = u.rd o :=
    (State.rd_setFld_other _ _ _ _ he).trans (State.rd_setBit_other _ _ _ (hm _ (by omega)))
  refine ⟨State.fld_setFld_same _ _ _ _ _ (by decide), ?_, fun n hn => ?_⟩
  · refine (congrArg (bitAt · _) (State.rd_setFld_other _ _ _ _ ?_)).trans (isMember_setMember u _ false)
    unfold rLkEpoch rLkMember
    omega
  · have hstatus := hrd (rLkStatus n) (by unfold rLkStatus rLkMember; omega) (by unfold rLkStatus rLkEpoch; omega)
    have hcfg := hrd (rLkCfg n) (by unfold rLkCfg rLkMember; omega) (by unfold rLkCfg rLkEpoch; omega)
    exact ⟨(congrArg (bits · 29 3) hstatus).trans (hoff n hn).1, (congrArg (bitAt · 31) hcfg).trans (hoff n hn).2⟩

/-! ### A lost peer (R393, R401, R402) -/

/-- The members that are leaving, and one register. -/
def State.lossView (s : State) (o : Nat) : List Nat × W64 := (s.lk.left, s.rd o)

theorem lossView_ext {s t : State} {o : Nat} (hlk : t.lk = s.lk) (hrd : t.rd o = s.rd o) : t.lossView o = s.lossView o :=
  Prod.ext (congrArg LinkDev.left hlk) hrd

section LossViewLog

variable {o : Nat} (hhead : o ≠ rErrHead) (herr : o ≠ rErrStatus) (s : State)
include hhead herr

theorem lossView_wellFault (w : Nat) (f : FaultInfo) : (wellFault s w f).lossView o = s.lossView o :=
  lossView_ext (wellFault_lk ..) (wellFault_rd s w f hhead herr)

theorem lossView_strReport (i status addr off : Nat) (task pipe : Option Nat) :
    (strReport s i status addr off task pipe).lossView o = s.lossView o := by
  have hlog (f : FaultInfo) (sc : Nat) (k p : Option Nat) : (logEntry s f sc k p).lossView o = s.lossView o :=
    lossView_ext (logEntry_lk ..) (logEntry_rd s f sc k p hhead herr)
  refine Prod.ext (congrArg LinkDev.left (strReport_strs_lk s i status addr off task pipe).2) ?_
  unfold strReport
  dsimp only
  split
  · next t =>
    split
    · exact congrArg Prod.snd (hlog ..)
    · obtain ⟨-, -, -, hregs, -⟩ := reportTask_shows (logEntry s (mkFault status 1 i addr off) 1 (some t) (s.taskPipe t)) t
        (mkFault status 1 i addr off).status.toNat
      exact (State.rd_of_regs hregs o).trans (congrArg Prod.snd (hlog ..))
  · split
    · next p =>
      rw [pipeFault_eq]
      dsimp only
      split
      · exact congrArg Prod.snd (hlog ..)
      · exact (resetDue_rd ..).trans (congrArg Prod.snd (hlog ..))
    · exact congrArg Prod.snd (hlog ..)

end LossViewLog

section LossView

variable {o : Nat} (ho : NoCounter o) (hhead : o ≠ rErrHead) (herr : o ≠ rErrStatus) (s : State)
include ho

theorem lossView_event (c u e : Nat) : (event s c u e).lossView o = s.lossView o :=
  lossView_ext (event_lk ..) (event_rd_outside ho s c u e)

theorem lossView_sqPut (w e : Nat) (x : SqEntry) : (sqPut s w e x).lossView o = s.lossView o := by
  unfold sqPut
  dsimp only
  split
  · rfl
  · refine (foldl_part (State.lossView · o) _ (fun u k => ?_) _ _).trans ?_
    · split
      · exact lossView_event ho ..
      · rfl
    · split
      · exact lossView_event ho ..
      · rfl

theorem lossView_sendSterr (i status : Nat) : (sendSterr s i status).lossView o = s.lossView o := by
  have hsend (r : Nat) (p : Packet) : (sendPacket s r p).lossView o = s.lossView o :=
    Prod.ext (congrArg Prod.snd (lkNotes_of_hides (sendsOn_sendPacket r s p).hides)) ((sendsOn_sendPacket r s p).rd o ho)
  unfold sendSterr sendTo
  dsimp only
  split
  · split
    · split
      · exact hsend ..
      · rfl
    · rfl
  · rfl

include hhead herr

theorem lossView_sideEnter (w e : Nat) (wd : Word) : (sideEnter s w e wd).lossView o = s.lossView o := by
  unfold sideEnter sqPush sqPushAt
  dsimp only
  split
  · rfl
  · split
    · obtain ⟨-, -, -, honly⟩ := ringEnter_frame (event s 4 (queueNo w e) 1) w e wd
      refine (lossView_sqPut ho ..).trans (Eq.trans ?_ (lossView_event ho s 4 (queueNo w e) 1))
      exact lossView_ext (honly .lk rfl) (State.rd_of_regs (honly .regs rfl) o)
    · have hput (x : SqEntry) : (sqPut (event s 4 (queueNo w e) 1) w e x).lossView o = s.lossView o :=
        (lossView_sqPut ho ..).trans (lossView_event ho ..)
      split
      · exact (lossView_wellFault hhead herr ..).trans (hput _)
      · exact hput _

/-- The loss reaches a stream; members and registers stay. -/
theorem lossView_strPeerLost (id i : Nat) : (strPeerLost s id i).lossView o = s.lossView o := by
  have hset (u : State) (x : Stream) : (u.setStr i x).lossView o = u.lossView o := rfl
  have hfault (addr : Nat) : (strFault s i stPeerLost addr 0).lossView o = s.lossView o := by
    unfold strFault strFaultOf
    dsimp only
    split
    · rfl
    · exact (lossView_strReport hhead herr ..).trans ((hset ..).trans (lossView_sendSterr ho ..))
  unfold strPeerLost
  dsimp only
  split
  · exact (hset ..).trans (hfault _)
  · rfl

theorem lossView_ingressAbort (k status : Nat) : (ingressAbort s k status).lossView o = s.lossView o := by
  unfold ingressAbort
  dsimp only
  split
  · exact (lossView_sideEnter ho hhead herr ..).trans rfl
  · rfl

end LossView

/-- The member's bit, and what was noted of its leave and its route, gone. -/
def memberGone (s : State) (d : Nat) : State :=
  let u := setMember s d false
  { u with lk := { u.lk with left := u.lk.left.filter (· != d), noRoute := SMap.erase u.lk.noRoute d } }

/-- Streams and entries of the lost peer end. -/
def peerGone (s : State) (d : Nat) : State :=
  let u := (s.strs.map (·.1)).foldl (fun s i => strPeerLost s d i) s
  ((u.lk.ingress.filter fun e => e.1 / 2048 == d).map (·.1)).foldl (fun s k => ingressAbort s k stPeerLost) u

theorem exec_peerLoss {s : State} {id : BitVec 10} (hclk : s.clocksRun = true) (hlost : peerLost s id.toNat = true)
    (hturn : s.mpTurn 3 = true) : exec (.peerLoss id) s = .next (peerGone (memberGone s id.toNat) id.toNat) :=
  (clocked_run hclk _).trans (if_pos (by simp [hlost, hturn]))

theorem lossView_peerGone {o : Nat} (ho : NoCounter o) (hhead : o ≠ rErrHead) (herr : o ≠ rErrStatus) (s : State) (d : Nat) :
    (peerGone s d).lossView o = s.lossView o :=
  (foldl_part (State.lossView · o) (fun s k => ingressAbort s k stPeerLost)
    (fun u k => lossView_ingressAbort ho hhead herr u k stPeerLost) _ _).trans
      (foldl_part (State.lossView · o) (fun s i => strPeerLost s d i) (fun u i => lossView_strPeerLost ho hhead herr u d i) _ s)

theorem peerGone_shows (s : State) {d : Nat} (hd : d < 1024) : let t := peerGone (memberGone s d) d
    isMember t d = false ∧ t.lk.left.contains d = false := by
  have hview := lossView_peerGone (routeFree_member (k := d / 64) (by omega)).1 (by unfold rLkMember rErrHead; omega)
    (by unfold rLkMember rErrStatus; omega) (memberGone s d) d
  have hmember : isMember (memberGone s d) d = false := isMember_setMember s d false
  refine ⟨(congrArg (fun v : List Nat × W64 => bitAt v.2 (d % 64)) hview).trans hmember, ?_⟩
  refine (congrArg (fun v : List Nat × W64 => v.1.contains d) hview).trans ?_
  simp [State.lossView, memberGone]

/-- Settles O48: membership is agreed hop by hop by R390 to R393. The model's choices it rests on: the end of a leave
disables every port and clears the own bit only, a JOIN_ACK needs an attached port (log 101), and the end of a
leave and a loss wait for the MP's turn (log 169). -/
theorem membershipIsAgreedHopByHop : Obligations.MembershipIsAgreedHopByHop := by
  unfold Obligations.MembershipIsAgreedHopByHop
  intro s hclk
  refine ⟨fun n h hlink hst => ⟨fun hid hser => ?attach, fun hc => ?isolate⟩,
    fun n u hst hown => ⟨fun hnew => ?update, fun e hfind hold => exec_membUpdate_seen hclk hfind hold⟩,
    fun hst hport => ?join, fun hst hquiet hturn => ?leave,
    fun id hlost hturn => ⟨_, exec_peerLoss hclk hlost hturn, peerGone_shows s id.isLt⟩⟩
  case attach =>
    have hclear : ¬ helloClash s h := by
      rintro (⟨hid', hown⟩ | ⟨hmem, e, hfind, hne⟩)
      · exact hid.elim (by simp [hid']) (· hown)
      · exact hser.elim (by simp [hmem]) fun hall => hne (hall e hfind)
    have hn := routeFree_port n.isLt
    obtain ⟨hattached, hserial, hpeer, hregs, honly, hmemb⟩ := peerNoted_shows s n.val h
    have hrd (o : Nat) (ho : RouteFree o) : (if dstate (peerNoted s n.val h) = 0 then peerNoted s n.val h
        else ownUpdate (peerNoted s n.val h) false).rd o = (peerNoted s n.val h).rd o := by
      split
      · rfl
      · exact (routed_ownUpdate (n := 6) false (by simp)).rd o ho
    refine ⟨_, exec_membHello_attach hclk hlink hst hclear, (congrArg (bits · 29 3) (hrd _ hn.1)).trans hattached,
      (hrd _ hn.2.2.2).trans hserial, (hrd _ hn.2.2.1).trans hpeer, fun h0 => ?_⟩
    rw [if_pos (hmemb.trans h0)]
    exact ⟨hregs, honly⟩
  case isolate =>
    have hne : rErrHead ≠ rLkStatus n.val := by unfold rErrHead rLkStatus; omega
    have hstatus : (logOnly (setPortState s n.val lkIsolated) (mkFault stLinkDown 6 n.val)).rd (rLkStatus n.val)
        = (setPortState s n.val lkIsolated).rd (rLkStatus n.val) :=
      logEntry_rd _ _ 0 none none hne.symm (by unfold rErrStatus rLkStatus; omega)
    refine ⟨_, exec_membHello_clash hclk hlink hst hc,
      (congrArg (bits · 29 3) hstatus).trans (portState_setPortState s _ (by decide)),
      logEntry_logged s _ _ 0 none none (congrArg (bits · 0 32) (State.rd_setFld_other s _ _ _ hne)) rfl, ?_⟩
    exact ((only_setFld s _ _ _ _).mono (by simp [logParts])).trans (logEntry_only _ _ 0 none none)
  case update =>
    obtain ⟨hnotes, hrd⟩ := updateHeard_shows s u n.val
    obtain ⟨hstates, hstay, hleave, hothers⟩ := originNoted_shows (updateHeard s u n.val) u
    obtain ⟨hkept, hmembers⟩ := routesFollow_shows (originNoted (updateHeard s u n.val) u)
    have hleft := congrArg Prod.snd hkept
    have ho := u.origin.isLt
    have hheard {i : Nat} (hi : i < 1024) : isMember (updateHeard s u n.val) i = isMember s i := isMember_of_rd hrd hi
    refine ⟨_, exec_membUpdate_fresh hclk hst hown hnew, ?_, fun hl => ?_, fun hl => ?_, fun i hne hi => ?_⟩
    · have hstored := (congrArg Prod.fst hkept).trans (hstates.trans (congrArg Prod.fst hnotes))
      exact (congrArg (SMap.get _ · _) hstored).trans (SMap.get_set_same ..)
    · exact ⟨(hmembers _ ho).trans (hstay hl).1, (congrArg (List.contains · _) hleft).trans (hstay hl).2⟩
    · exact ⟨(hmembers _ ho).trans ((hleave hl).1.trans (hheard ho)),
        (congrArg (List.contains · _) hleft).trans (hleave hl).2⟩
    · exact (hmembers i hi).trans ((hothers i hne).trans (hheard hi))
  case join =>
    refine ⟨_, (clocked_run hclk _).trans (if_pos ?_), joined_shows s⟩
    obtain ⟨n, hn, hattached⟩ := hport
    have hany : ((List.range 6).any fun n => portState s n == lkAttached) = true :=
      List.any_eq_true.2 ⟨n, List.mem_range.2 hn, by simp [hattached]⟩
    rw [hst, hany]
    rfl
  case leave =>
    exact ⟨_, (clocked_run hclk _).trans (if_pos (by simp [hst, hquiet, hturn])), leaveDone_shows s⟩

end Sys2Proof.Machine
end

section
/-! What a reset leaves: power-on, the warm reset and the restart of the MP (R496 to R499, R553). -/

namespace Sys2Proof.Machine

/-! ### What a reset tears (R366, R507) -/

/-- A record copy and a training copy that were being written may be torn. -/
def resetTorn (s : State) : State := tearTraining (tearCommit s)

theorem tearTraining_frame (s : State) : Only [.boot, .freeCtr] s (tearTraining s) := by
  unfold tearTraining
  split
  · exact Only.refl _ s
  · exact (only_drawn s (by simp)).trans ((only_boot _ _).mono (by simp))

theorem tearCommit_otp (s : State) : (tearCommit s).sec.otp = s.sec.otp := by
  obtain ⟨k, htear⟩ := tearCommit_eq s
  have hrecord : (recordTorn s k).sec = s.sec := (recordTorn_frame s k).2 .sec rfl
  have hrow (u : State) : (rowTorn u k).sec.otp = u.sec.otp := by
    unfold rowTorn
    split
    · cases (List.range 1024).find? (rowFree u) <;> rfl
    · rfl
  rw [htear]
  split
  · exact (hrow _).trans (congrArg Sec.otp hrecord)
  · rfl

theorem resetTorn_frame (s : State) : Only [.boot, .sec, .freeCtr] s (resetTorn s)
    ∧ (resetTorn s).sec.otp = s.sec.otp := by
  have htraining := tearTraining_frame (tearCommit s)
  refine ⟨(tearCommit_frame s).2.trans (htraining.mono (by simp)), ?_⟩
  exact (congrArg Sec.otp (htraining .sec rfl)).trans (tearCommit_otp s)

/-! ### The power-on level (R496, R497) -/

/-- Every block at its reset value but the queue, the OTP, the boot NOR and the pin of a trip. -/
def powerBase (s : State) : State :=
  { State.reset with
    pending := s.pending, freeCtr := s.freeCtr
    sec := { Sec.reset with otp := s.sec.otp, consumed := s.sec.consumed }
    boot := bootKept s.boot
    pwr := { Pwr.reset with tripPin := s.pwr.tripPin } }

/-- The registers that a power-on level loads. -/
def powerRegs (r : State) (trip : W64) (woke : Nat) (ref : Bool) : State :=
  ((fuseRegs (r.wr rHiTrip trip)).setFld rHiStart 26 3 woke).setBit rTbCtrl 28 ref

theorem powerOn_eq (s : State) : powerOn s = powerRegs (powerBase (resetTorn s)) ((resetTorn s).rd rHiTrip)
    (b2n ((resetTorn s).fld rPwrWake 29 3 == 5)) (resetTorn s).boot.ref25 := rfl

theorem fuseRegs_rd (s : State) {o : Nat} (hid : o ≠ rCapId) (hunits : o ≠ rCapUnits) : (fuseRegs s).rd o = s.rd o :=
  (State.rd_wr_other _ _ hunits).trans (State.rd_wr_other s _ hid)

theorem powerRegs_frame (r : State) (trip : W64) (woke : Nat) (ref : Bool) : let t := powerRegs r trip woke ref
    startPhase t = startPhase r ∧ t.rd rHiTrip = trip ∧ t = { r with regs := t.regs } := by
  refine ⟨?_, ?_, rfl⟩
  · refine (State.fld_setBit_other _ _ _ _ _ _ _ (.inl (by decide))).trans ?_
    refine (State.fld_setFld_other _ _ _ _ _ _ _ _ (.inr (by decide))).trans ?_
    exact congrArg (bits · 29 3) ((fuseRegs_rd _ (by decide) (by decide)).trans (State.rd_wr_other r _ (by decide)))
  · refine (State.rd_setBit_other _ _ _ (by decide)).trans ?_
    exact (State.rd_setFld_other _ _ _ _ (by decide)).trans
      ((fuseRegs_rd _ (by decide) (by decide)).trans (State.rd_wr_same ..))

theorem powerBase_phase (s : State) : startPhase (powerBase s) = 0 :=
  (congrArg (bits · 29 3) (State.rd_of_regs (s := State.reset) rfl rHiStart)).trans (by decide)

/-- After the power-on level every block stands at reset, but what survives it. -/
theorem powerOn_shows (s : State) : let t := powerOn s
    t.mem = [] ∧ t.tb = Tb.reset ∧ t.wells = [] ∧ t.strs = [] ∧ startPhase t = 0 ∧ t.sec.otp = s.sec.otp
      ∧ t.pending = s.pending ∧ t.tripped = s.tripped := by
  obtain ⟨honly, hotp⟩ := resetTorn_frame s
  have hregs : (resetTorn s).regs = s.regs := honly .regs rfl
  obtain ⟨hphase, htrip, hrest⟩ := powerRegs_frame (powerBase (resetTorn s)) ((resetTorn s).rd rHiTrip)
    (b2n ((resetTorn s).fld rPwrWake 29 3 == 5)) (resetTorn s).boot.ref25
  rw [powerOn_eq]
  refine ⟨congrArg State.mem hrest, congrArg State.tb hrest, congrArg State.wells hrest, congrArg State.strs hrest,
    hphase.trans (powerBase_phase _), (congrArg (fun t : State => t.sec.otp) hrest).trans hotp,
    (congrArg State.pending hrest).trans (honly .pending rfl), ?_⟩
  exact congrArg (bitAt · 31) (htrip.trans (State.rd_of_regs hregs _))

/-! ### The warm reset (R498 to R500, R510) -/

theorem warmRequest_first {s : State} (htrip : s.tripped = false) (hpow : s.powerUp = true) (hnone : s.boot.warm = none)
    (c : WarmCause) (cold : Bool) : warmRequest s c cold
      = { s with boot := { s.boot with warm := some (c, cold), devReady := false } } := by
  obtain ⟨hporst, hsupply⟩ := Bool.and_eq_true_iff.1 hpow
  refine (if_neg (by simp [htrip, hporst, hsupply])).trans ?_
  rw [hnone]

theorem keepRegs_shows (s r : State) : let t := keepRegs s r
    t.fld rErrHead 0 32 = s.fld rErrHead 0 32 ∧ Only [.regs] r t := by
  have htemps (u : State) : ((List.range 64).foldl (fun (t : State) n => t.wr (rPwrTemp n) (s.rd (rPwrTemp n))) u).rd rErrHead
      = u.rd rErrHead :=
    List.foldlRecOn (motive := fun t : State => t.rd rErrHead = u.rd rErrHead) _ _ rfl fun t ht n hn => by
      have hlt := List.mem_range.1 hn
      exact (State.rd_wr_other t _ (by unfold rErrHead rPwrTemp; omega)).trans ht
  refine ⟨congrArg (bits · 0 32) ?_, ?_⟩
  · refine (State.rd_setBit_other _ _ _ (by decide)).trans ((State.rd_setFld_other _ _ _ _ (by decide)).trans ?_)
    refine (State.rd_setFld_other _ _ _ _ (by decide)).trans ((State.rd_setFld_other _ _ _ _ (by decide)).trans ?_)
    refine (htemps _).trans ?_
    refine (State.rd_wr_other _ _ (by decide)).trans ((State.rd_wr_other _ _ (by decide)).trans ?_)
    exact State.rd_wr_same ..
  · have hfold : Only [.regs] r ((List.range 64).foldl (fun (t : State) n => t.wr (rPwrTemp n) (s.rd (rPwrTemp n)))
        ([rErrHead, rHiTrip, rPwrTmax].foldl (fun (t : State) o => t.wr o (s.rd o)) r)) :=
      (foldl_only _ (fun u o => only_wr u o _) _ r).trans (foldl_only _ (fun u n => only_wr u _ _) _ _)
    exact (((hfold.then_wr _ _ (by simp)).then_wr _ _ (by simp)).then_wr _ _ (by simp)).then_wr _ _ (by simp)

/-- The cause and the kept memory marked, and the phase of a start that was interrupted. -/
def causeMarked (r : State) (c : WarmCause) (kept inStart : Bool) : State :=
  let u := ((r.setFld rHiStart 26 3 (causeCode c)).setBit rHiStart 24 kept).setBit rTbCtrl 28 r.boot.ref25
  if inStart then setPhase u 1 else u

theorem warmMark_eq (r : State) (c : WarmCause) (kept inStart : Bool) :
    warmMark r c kept inStart = causeMarked (tsyncSet r (tsyncAfter r r.dt)) c kept inStart := rfl

theorem causeMarked_shows (r : State) (c : WarmCause) (kept inStart : Bool) : let t := causeMarked r c kept inStart
    t.fld rHiStart 26 3 = causeCode c ∧ t.fld rErrHead 0 32 = r.fld rErrHead 0 32 ∧ Only [.regs] r t := by
  have hcode : causeCode c % 2 ^ 3 = causeCode c := by cases c <;> rfl
  let u := ((r.setFld rHiStart 26 3 (causeCode c)).setBit rHiStart 24 kept).setBit rTbCtrl 28 r.boot.ref25
  have hcause : u.fld rHiStart 26 3 = causeCode c := by
    refine (State.fld_setBit_other _ _ _ _ _ _ _ (.inl (by decide))).trans ?_
    refine (State.fld_setBit_other _ _ _ _ _ _ _ (.inr (by decide))).trans ?_
    exact (State.fld_setFld_same r _ _ _ _ (by decide)).trans hcode
  have hhead : u.fld rErrHead 0 32 = r.fld rErrHead 0 32 := by
    refine (State.fld_setBit_other _ _ _ _ _ _ _ (.inl (by decide))).trans ?_
    refine (State.fld_setBit_other _ _ _ _ _ _ _ (.inl (by decide))).trans ?_
    exact State.fld_setFld_other r _ _ _ _ _ _ _ (.inl (by decide))
  have honly : Only [.regs] r u := ((only_setFld r _ _ _ _).then_wr _ _ (by simp)).then_wr _ _ (by simp)
  unfold causeMarked
  dsimp only
  split
  · refine ⟨(State.fld_setFld_other u _ _ _ _ _ _ _ (.inr (by decide))).trans hcause,
      (State.fld_setFld_other u _ _ _ _ _ _ _ (.inl (by decide))).trans hhead, honly.then_wr _ _ (by simp)⟩
  · exact ⟨hcause, hhead, honly⟩

/-- The same with the next TSYNC multiple set. -/
theorem syncMarked_shows (r : State) (k : Nat) (c : WarmCause) (kept inStart : Bool) :
    let t := causeMarked (tsyncSet r k) c kept inStart
    t.fld rHiStart 26 3 = causeCode c ∧ t.fld rErrHead 0 32 = r.fld rErrHead 0 32 ∧ t.tb.dt = r.tb.dt
      ∧ Only [.tb, .regs] r t := by
  obtain ⟨hcause, hhead, honly⟩ := causeMarked_shows (tsyncSet r k) c kept inStart
  exact ⟨hcause, hhead, (congrArg Tb.dt (honly .tb rfl) :), ((only_tb r _).mono (by simp)).trans (honly.mono (by simp))⟩

theorem warmMark_shows (r : State) (c : WarmCause) (kept inStart : Bool) : let t := warmMark r c kept inStart
    t.fld rHiStart 26 3 = causeCode c ∧ t.fld rErrHead 0 32 = r.fld rErrHead 0 32 ∧ t.tb.dt = r.tb.dt
      ∧ Only [.tb, .regs] r t := by
  rw [warmMark_eq]
  exact syncMarked_shows r _ c kept inStart

theorem keepDram_byte (s r : State) {a : Nat} (ha : a < 0x100000000000) : (keepDram s r).mem.byte a = s.mem.byte a :=
  SMap.get_filter _ _ fun _ => decide_eq_true ha

/-- The state before it is marked: reset but for what the warm reset keeps. -/
def warmKept (s : State) (cold kept inStart : Bool) : State :=
  let r := keepRegs s (fuseRegs (warmBase s cold inStart))
  if kept then keepDram s r else r

theorem warmKept_shows (s : State) (cold kept inStart : Bool) : let t := warmKept s cold kept inStart
    t.fld rErrHead 0 32 = s.fld rErrHead 0 32 ∧ t.tb.dt = s.tb.dt ∧ t.err.log = s.err.log ∧ t.wells = [] ∧ t.strs = []
      ∧ t.boot.warm = none ∧ t.boot.starting = true ∧ t.sec.otp = s.sec.otp
      ∧ (kept = true → ∀ a, a < 0x100000000000 → t.mem.byte a = s.mem.byte a) := by
  obtain ⟨hhead, honly⟩ := keepRegs_shows s (fuseRegs (warmBase s cold inStart))
  unfold warmKept
  dsimp only
  generalize keepRegs s (fuseRegs (warmBase s cold inStart)) = r at hhead honly
  have hdt : r.tb.dt = s.tb.dt := (congrArg Tb.dt (honly .tb rfl) :)
  have hlog : r.err.log = s.err.log := (congrArg Err.log (honly .err rfl) :)
  have hotp : r.sec.otp = s.sec.otp := (congrArg Sec.otp (honly .sec rfl) :)
  have hparts (t : State) (ht : t.fld rErrHead 0 32 = r.fld rErrHead 0 32) (h : Only [.mem, .ecc] r t) :
      t.fld rErrHead 0 32 = s.fld rErrHead 0 32 ∧ t.tb.dt = s.tb.dt ∧ t.err.log = s.err.log ∧ t.wells = []
        ∧ t.strs = [] ∧ t.boot.warm = none ∧ t.boot.starting = true ∧ t.sec.otp = s.sec.otp :=
    ⟨ht.trans hhead, (congrArg Tb.dt (h .tb rfl)).trans hdt, (congrArg Err.log (h .err rfl)).trans hlog,
      (h .wells rfl).trans (honly .wells rfl), (h .strs rfl).trans (honly .strs rfl),
      congrArg Boot.warm ((h .boot rfl).trans (honly .boot rfl)),
      congrArg Boot.starting ((h .boot rfl).trans (honly .boot rfl)),
      (congrArg Sec.otp (h .sec rfl)).trans hotp⟩
  have hmem : Only [.mem, .ecc] r (keepDram s r) := by
    intro q hq
    cases q <;> simp_all [Part.same, keepDram]
  cases kept with
  | true =>
    obtain ⟨h1, h2, h3, h4, h5, h6, h7, h8⟩ := hparts (keepDram s r) rfl hmem
    exact ⟨h1, h2, h3, h4, h5, h6, h7, h8, fun _ _ ha => keepDram_byte s r ha⟩
  | false =>
    obtain ⟨h1, h2, h3, h4, h5, h6, h7, h8⟩ := hparts r rfl (Only.refl _ r)
    exact ⟨h1, h2, h3, h4, h5, h6, h7, h8, nofun⟩

/-- A start is interrupted past phase 0. -/
def interrupted (s : State) : Bool := (resetTorn s).boot.starting && startPhase (resetTorn s) != 0

theorem warmEffect_eq (s : State) (c : WarmCause) (cold kept : Bool) : warmEffect s c cold kept
    = warmMark (warmKept (resetTorn s) cold kept (interrupted s)) c kept (interrupted s) := rfl

/-- A warm reset keeps device time and the error log, and DRAM where it may (R496, R499). -/
theorem warmEffect_shows (s : State) (c : WarmCause) (cold kept : Bool) : let t := warmEffect s c cold kept
    t.tb.dt = s.tb.dt ∧ t.err.log = s.err.log ∧ t.fld rErrHead 0 32 = s.fld rErrHead 0 32 ∧ t.wells = [] ∧ t.strs = []
      ∧ t.boot.warm = none ∧ t.boot.starting = true ∧ t.fld rHiStart 26 3 = causeCode c ∧ t.sec.otp = s.sec.otp
      ∧ (kept = true → ∀ a, a < 0x100000000000 → t.mem.byte a = s.mem.byte a) := by
  obtain ⟨htorn, hotp⟩ := resetTorn_frame s
  have hmark := warmMark_shows (warmKept (resetTorn s) cold kept (interrupted s)) c kept (interrupted s)
  have hkept := warmKept_shows (resetTorn s) cold kept (interrupted s)
  rw [warmEffect_eq]
  generalize warmKept (resetTorn s) cold kept (interrupted s) = r at *
  obtain ⟨hcause, hhead', hdt', honly⟩ := hmark
  obtain ⟨hhead, hdt, hlog, hwells, hstrs, hwarm, hstart, hotp', hmem⟩ := hkept
  refine ⟨hdt'.trans (hdt.trans (congrArg Tb.dt (htorn .tb rfl))), ?_, ?_, (honly .wells rfl).trans hwells,
    (honly .strs rfl).trans hstrs, (congrArg Boot.warm (honly .boot rfl)).trans hwarm,
    (congrArg Boot.starting (honly .boot rfl)).trans hstart, hcause, ?_, fun hk a ha => ?_⟩
  · exact (congrArg Err.log (honly .err rfl)).trans (hlog.trans (congrArg Err.log (htorn .err rfl)))
  · exact hhead'.trans (hhead.trans (congrArg (bits · 0 32) (State.rd_of_regs (htorn .regs rfl) _)))
  · exact (congrArg Sec.otp (honly .sec rfl)).trans (hotp'.trans hotp)
  · exact (honly .mem rfl a).trans ((hmem hk a ha).trans (htorn .mem rfl a))

theorem exec_warmResetEffect {s : State} {c : WarmCause} {cold : Bool} (hclk : s.clocksRun = true)
    (hwarm : s.boot.warm = some (c, cold)) (confirmed : Bool) : exec (.warmResetEffect confirmed) s
      = .next (warmEffect s c cold (confirmed && decide (c ≠ .security) && s.bit rCapMem 31)) := by
  refine (clocked_run hclk _).trans ?_
  rw [hwarm]

/-! ### The key of `HI_RESET` (R435, R498) -/

theorem hiReset_key {v : W32} (hkey : bits v 0 16 = resetKey) (hwarm : bitAt v 31 = false) (hmp : bitAt v 30 = true)
    (s : State) : hiReset s v = mpReset s :=
  (if_neg (by simp [hkey])).trans ((if_neg (by simp [hwarm])).trans (if_pos hmp))

theorem hiReset_no_key {v : W32} (hkey : bits v 0 16 ≠ resetKey) (s : State) : hiReset s v = s := if_pos hkey

/-- The key stands in the low half of the word that asks for a restart of the MP. -/
theorem mpResetWord_key (key : BitVec 16) : bits (BitVec.ofNat 32 (1 <<< 30 + key.toNat)) 0 16 = key.toNat := by
  have hlt := key.isLt
  rw [bits, BitVec.toNat_ofNat]
  omega

end Sys2Proof.Machine
end

section
/-! The phases of a start (R501 to R506). -/

namespace Sys2Proof.Machine

/-! ### The firmware (R527, R528) -/

/-- The firmware is checked against the boot NOR and the OTP. -/
theorem fwVerify_of {s t : State} (hfw : t.boot.fw = s.boot.fw) (hotp : t.sec.otp = s.sec.otp) :
    fwVerify t = fwVerify s := by
  have hbytes : fwBytes t = fwBytes s := by
    funext a n
    simp only [fwBytes, fwByte, hfw]
  have hotpBytes : otpBytes t = otpBytes s := by
    funext a n
    simp only [otpBytes, otpByte, hotp]
  simp only [fwVerify, fwNat, fwDigest, otpSvn, otpFuses, otpNat, hbytes, hotpBytes]
  rfl

theorem fwFlags_regs (s : State) : (fwFlags s).regs = s.regs := by
  have hif (c : Prop) [Decidable c] (u : State) (a : Nat) (l : List Byte) : (if c then otpOr u a l else u).regs = u.regs := by
    split <;> rfl
  unfold fwFlags
  exact (hif ..).trans (hif ..)

/-- A verified image is reported in the registers of security only. -/
theorem fwAccept_rd (s : State) {o : Nat} (ho : o < 0x80000) : (fwAccept s).rd o = s.rd o := by
  have hsvn : o ≠ rSecSvn := by unfold rSecSvn; omega
  have hstatus : o ≠ rSecStatus := by unfold rSecStatus; omega
  have hdigest (f : Nat → W64) (l : List Nat) (u : State) :
      (l.foldl (fun (t : State) i => t.wr (rSecFwDigest i) (f i)) u).rd o = u.rd o :=
    foldl_part (State.rd · o) (fun (t : State) i => t.wr (rSecFwDigest i) (f i))
      (fun v i => State.rd_wr_other v _ (by unfold rSecFwDigest; omega)) l u
  unfold fwAccept
  refine (State.rd_setFld_other _ _ _ _ hsvn).trans ((State.rd_of_regs (fwFlags_regs _) o).trans ?_)
  refine (State.rd_setFld_other _ _ _ _ hsvn).trans ((State.rd_setFld_other _ _ _ _ hstatus).trans ?_)
  exact (State.rd_setBit_other _ _ _ hstatus).trans ((hdigest ..).trans rfl)

theorem startPhase_of_rd {s t : State} (h : t.rd rHiStart = s.rd rHiStart) : startPhase t = startPhase s :=
  congrArg (bits · 29 3) h

/-- The identity of the OTP shown in the registers at phase 1. -/
def identityShown (s : State) : State :=
  let s := { setPhase s 1 with boot := { s.boot with fromOne := false } }
  let s := s.wr rSecSerial (BitVec.ofNat 64 (otpNat s 0x2080 8))
  (s.setFld rSecSvn 0 7 (otpSvn s)).setFld rDbgStatus 28 2 (debugCap s)

theorem phaseFirmware_eq (s : State) : phaseFirmware s = if fwVerify (identityShown s) then fwAccept (identityShown s)
    else startFail (logOnly (identityShown s) (mkFault stSecViolation 0xE 0)) stSecViolation := rfl

theorem identityShown_phase (s : State) : startPhase (identityShown s) = 1 := by
  refine Eq.trans (startPhase_of_rd ?_) (startPhase_setPhase s (p := 1) (by decide))
  refine (State.rd_setFld_other _ _ _ _ (by decide)).trans ((State.rd_setFld_other _ _ _ _ (by decide)).trans ?_)
  exact (State.rd_wr_other _ _ (by decide)).trans rfl

theorem phaseFirmware_phase (s : State) : startPhase (phaseFirmware s) = if fwVerify s then 1 else 6 := by
  have hverify : fwVerify (identityShown s) = fwVerify s := fwVerify_of rfl rfl
  rw [phaseFirmware_eq, hverify, apply_ite startPhase, (startFail_frame _ _).1]
  rw [startPhase_of_rd (fwAccept_rd _ (by decide)), identityShown_phase]

/-! ### Repair and the cold self-test (R501, R502, R511) -/

/-- Pump clusters are fitted on every die, so a pass has enough to begin with (R512). -/
theorem partOrder_length (s : State) : 4 ≤ (partOrder s).length := by
  have hpumps : (numbers 120 8).filter (partFitted s) = numbers 120 8 := by
    refine List.filter_eq_self.2 fun n hn => ?_
    obtain ⟨k, hk, rfl⟩ := List.mem_map.1 hn
    have hlt := List.mem_range.1 hk
    unfold partFitted
    dsimp only
    rw [if_neg (by omega), if_neg (by omega), if_neg (by omega), if_neg (by omega), if_pos (by omega)]
  have hlen : (numbers 120 8).length = 8 := rfl
  simp only [partOrder, List.filter_append, List.length_append, hpumps, hlen]
  omega

theorem repairSelect_none {s : State} (h : selectCopy s = 0) : repairSelect s
    = { s with sst := { s.sst with seq := 0, src := 0, entries := [], lastFails := [] } } := if_pos h

/-- The start with no record of a repair: the full self-test is asked for. -/
def coldMarked (s : State) : State := (repairSelect (setPhase s 2)).setBit rHiStart 25 true

theorem phaseRepair_cold {s : State} (h : selectCopy s = 0) : phaseRepair s = sstStart (coldMarked s) false := by
  have hcold : ((repairSelect (setPhase s 2)).sst.src == 0 || (repairSelect (setPhase s 2)).boot.fullStart
      || (repairSelect (setPhase s 2)).boot.coldAsked) = true := by
    rw [repairSelect_none (s := setPhase s 2) h]
    rfl
  unfold phaseRepair coldMarked
  dsimp only
  rw [hcold]
  rfl

theorem coldMarked_shows {s : State} (h : selectCopy s = 0) :
    startPhase (coldMarked s) = 2 ∧ (coldMarked s).bit rHiStart 25 = true := by
  refine ⟨?_, State.bit_setBit_same _ _ _ _ (by decide)⟩
  refine (State.fld_setBit_other _ _ _ _ _ _ _ (.inr (by decide))).trans ?_
  rw [repairSelect_none (s := setPhase s 2) h]
  exact startPhase_setPhase s (by decide)

theorem phaseRepair_cold_shows {s : State} (h : selectCopy s = 0) : let t := phaseRepair s
    startPhase t = 2 ∧ t.fld rSstStatus 29 3 = 1 ∧ t.sst.testing.length = 4 ∧ t.bit rHiStart 25 = true := by
  obtain ⟨hphase, hcold⟩ := coldMarked_shows h
  obtain ⟨hpass, -, htest, hrd, -⟩ := sstStart_shows (coldMarked s) false
  have hlen := partOrder_length (coldMarked s)
  rw [phaseRepair_cold h]
  refine ⟨(startPhase_of_rd (hrd _ (by decide))).trans hphase, hpass, ?_,
    (congrArg (bitAt · 25) (hrd _ (by decide))).trans hcold⟩
  rw [htest, List.length_take]
  omega

/-! ### The first operating point, DRAM and READY (R364 to R369, R502) -/

/-- A failed pump cluster or core-elastic partition stops the start; else the check changes nothing. -/
theorem repairCheck_cases (s : State) : repairCheck s = s ∨ startPhase (repairCheck s) = 6 := by
  unfold repairCheck
  dsimp only
  split
  · exact .inr (startFail_frame s _).1
  · exact .inl rfl

/-- `PWR_MODE` at 1000 MHz and v millivolts, at phase 3. -/
def balancedShown (s : State) (v : Nat) : State := (setPhase s 3).setFld rPwrMode 0 27 (1000 <<< 16 + v)

/-- The BALANCED point taken as the target (R456, R457). -/
def balancedPoint (s : State) (v : Nat) : State :=
  let u := balancedShown s v
  { u with pwr := { u.pwr with tgtMhz := 1000, tgtMv := v } }

theorem phaseInit_eq (s : State) : phaseInit s [] = balancedPoint s (voltOf s 1000) := rfl

theorem voltOf_balanced (s : State) : voltOf s 1000 < 2 ^ 16 := by
  have hfuse : Nat.min 30 s.boot.fuseMv ≤ 30 := Nat.min_le_left ..
  have hbase : 550 + (3125 * (1000 - 400) + 49999) / 50000 * 5 = 740 := by decide
  rw [voltOf, hbase]
  generalize Nat.min 30 s.boot.fuseMv = k at hfuse ⊢
  omega

theorem balancedShown_shows (s : State) {v : Nat} (hv : v < 2 ^ 16) : let t := balancedShown s v
    startPhase t = 3 ∧ t.fld rPwrMode 16 11 = 1000 ∧ OnlyRegs [rHiStart, rPwrMode] s t ∧ Only [.regs] s t := by
  have hmhz : 1000 <<< 16 = 65536000 := by decide
  refine ⟨?_, ?_, ?_, ?_⟩
  · exact (startPhase_of_rd (State.rd_setFld_other (setPhase s 3) _ _ _ (by decide))).trans
      (startPhase_setPhase s (by decide))
  · have hlow : (balancedShown s v).fld rPwrMode 0 27 = 65536000 + v := by
      unfold balancedShown
      rw [hmhz]
      exact (State.fld_setFld_same _ _ _ _ _ (by decide)).trans (Nat.mod_eq_of_lt (by omega))
    unfold State.fld bits at hlow ⊢
    generalize ((balancedShown s v).rd rPwrMode).toNat = x at hlow ⊢
    omega
  · exact (onlyRegs_setFld s _ _ _ (by simp)).trans (onlyRegs_setFld _ _ _ _ (by simp))
  · exact (only_setFld s _ _ _ _).then_wr _ _ (by simp)

theorem balancedPoint_shows (s : State) {v : Nat} (hv : v < 2 ^ 16) : let t := balancedPoint s v
    startPhase t = 3 ∧ t.fld rPwrMode 16 11 = 1000 ∧ OnlyRegs [rHiStart, rPwrMode] s t ∧ Only [.regs, .pwr] s t := by
  obtain ⟨hphase, hmhz, hregs, honly⟩ := balancedShown_shows s hv
  refine ⟨(startPhase_of_rd rfl).trans hphase, (congrArg (bits · 16 11) (State.rd_of_regs rfl _)).trans hmhz,
    hregs.trans (.of_regs _ rfl), ?_⟩
  exact (honly.mono (by simp)).trans ((only_pwr _ _).mono (by simp))

theorem trained_rd (s : State) (rate : Nat) (saved : Bool) : (trained s rate saved).rd rHiStart = s.rd rHiStart := by
  have hset (f : W64) (l : List Nat) (u : State) :
      (l.foldl (fun (t : State) n => if t.hasMc n then t.wr (rMcStatus n) f else t) u).rd rHiStart = u.rd rHiStart :=
    foldl_part (State.rd · rHiStart) _ (fun v n => by
      split
      · exact State.rd_wr_other v _ (by unfold rHiStart rMcStatus; omega)
      · rfl) l u
  unfold trained
  refine (hset ..).trans ((State.rd_wr_other _ _ (by decide)).trans ?_)
  exact (State.rd_wr_other _ _ (by decide)).trans (State.rd_wr_other _ _ (by decide))

/-- Phase 4 is reached whether DRAM trains or not. -/
theorem phaseDram_phase (s : State) (env : StartEnv) : startPhase (phaseDram s env) = 4 := by
  refine Eq.trans (startPhase_of_rd ?_) (startPhase_setPhase s (p := 4) (by decide))
  have hsaved (c : Bool) (u : State) (rate : Nat) : (if c then u else writeTraining u rate).rd rHiStart = u.rd rHiStart := by
    cases c <;> rfl
  have hfill (c : Bool) (u : State) : (if c then u else { u with mem := [], ecc := [] }).rd rHiStart = u.rd rHiStart := by
    cases c <;> rfl
  unfold phaseDram
  dsimp only
  split
  · exact (hfill ..).trans ((hsaved ..).trans (trained_rd ..))
  · exact logEntry_rd _ _ 0 none none (by decide) (by decide)

theorem phaseReady_shows (s : State) (env : StartEnv) : let t := phaseReady s env
    startPhase t = 5 ∧ t.dc.en = true ∧ t.boot.devReady = true ∧ t.boot.starting = false := by
  have hopen (c : Bool) (u : State) : (if c then u.setFld rDbgStatus 30 2 2 else u).rd rHiStart = u.rd rHiStart := by
    cases c
    · rfl
    · exact State.rd_setFld_other u _ _ _ (by decide)
  refine ⟨?_, rfl, rfl, rfl⟩
  refine (startPhase_of_rd (hopen ..)).trans ?_
  exact (State.fld_setFld_other (setPhase s 5) _ _ _ _ _ _ _ (.inr (by decide))).trans (startPhase_setPhase s (by decide))

/-! ### START_PHASE -/

section Start

variable {s : State} (hgo : startGoes s = true) (env : StartEnv)
include hgo

theorem exec_startPhase_firmware (h : startPhase s = 0) : exec (.startPhase env) s = .next (phaseFirmware s) := by
  refine (if_pos hgo).trans ?_
  rw [h]
  rfl

theorem exec_startPhase_repair (h : startPhase s = 1) (hone : s.boot.fromOne = false) :
    exec (.startPhase env) s = .next (phaseRepair s) := by
  refine (if_pos hgo).trans ?_
  rw [h]
  exact congrArg _ (if_neg (by simp [hone]))

theorem exec_startPhase_waits (h : startPhase s = 2) (hbusy : sstBusy s = true) :
    exec (.startPhase env) s = .next s := by
  refine (if_pos hgo).trans ?_
  rw [h]
  exact if_pos hbusy

theorem exec_startPhase_init (h : startPhase s = 2) (hbusy : sstBusy s = false) (hcheck : repairCheck s = s)
    (hfail : env.calFail = []) : exec (.startPhase env) s = .next (phaseInit s []) := by
  refine (if_pos hgo).trans ?_
  have hgoes : startPhase (repairCheck s) ≠ 6 := by
    rw [hcheck, h]
    decide
  have hinit : (if startPhase (repairCheck s) = 6 then repairCheck s else phaseInit (repairCheck s) env.calFail)
      = phaseInit s [] := by
    rw [if_neg hgoes, hcheck, hfail]
  rw [h]
  exact (if_neg (by simp [hbusy])).trans (congrArg _ hinit)

theorem exec_startPhase_dram (h : startPhase s = 3) : exec (.startPhase env) s = .next (phaseDram s env) := by
  refine (if_pos hgo).trans ?_
  rw [h]
  rfl

theorem exec_startPhase_ready (h : startPhase s = 4) : exec (.startPhase env) s = .next (phaseReady s env) := by
  refine (if_pos hgo).trans ?_
  rw [h]
  rfl

end Start

end Sys2Proof.Machine
end

section
/-! The self-test: its partitions and the commit of its record (R506, R511 to R523). -/

namespace Sys2Proof.Machine

/-! ### A partition reports (R513 to R517) -/

/-- The partitions under test, still to test and tested. -/
def State.passLists (s : State) : List Nat × List Nat × List Nat := (s.sst.testing, s.sst.todo, s.sst.done)

theorem takeFailure_passLists (s : State) (part mem addr bit : Nat) (logic : Bool) :
    (takeFailure s part mem addr bit logic).passLists = s.passLists := by
  have hcut (u : State) (h : u.passLists = s.passLists) : (if 64 < u.sst.fails.length then
      { u with sst := { u.sst with fails := u.sst.fails.take 64, exhausted := true } } else u).passLists = s.passLists := by
    split
    · exact h
    · exact h
  unfold takeFailure
  refine hcut _ ?_
  cases covered (allEntries s ++ s.sst.repairs) part mem addr <;> rfl

/-- The failures of a report are taken, the logic first. -/
def failuresTaken (s : State) (p : Nat) (r : BistResult) : State :=
  r.words.foldl (fun s e => takeFailure s p e.mem.toNat e.addr.toNat e.bit.toNat false)
    (if r.logicFail then takeFailure s p 0 0 0 true else s)

theorem failuresTaken_passLists (s : State) (p : Nat) (r : BistResult) : (failuresTaken s p r).passLists = s.passLists := by
  refine (foldl_part State.passLists _ (fun u e => takeFailure_passLists u ..) _ _).trans ?_
  split
  · exact takeFailure_passLists ..
  · rfl

theorem partReset_sst (s : State) (p : Nat) : (partReset s p).sst = s.sst := by
  have hcolumn (w c : Nat) : (columnPart s w c).sst = s.sst := by
    unfold columnPart
    dsimp only
    refine (foldl_part State.sst _ (fun u f => ?_) _ _).trans rfl
    split <;> rfl
  have hif (c : Prop) [Decidable c] {u v : State} (hu : c → u.sst = s.sst) (hv : ¬ c → v.sst = s.sst) :
      (if c then u else v).sst = s.sst := iteInduction (motive := fun t : State => t.sst = s.sst) hu hv
  unfold partReset
  refine hif _ (fun _ => rfl) fun _ => hif _ (fun _ => ?_) fun _ => hif _ (fun _ => rfl)
    fun _ => hif _ (fun _ => rfl) fun _ => hif _ (fun _ => ?_) fun _ => hif _ (fun _ => rfl)
    fun _ => hif _ (fun _ => rfl) fun _ => hif _ (fun _ => rfl) fun _ => hif _ (fun _ => rfl) fun _ => rfl
  · split
    · exact hcolumn ..
    · rfl
  · generalize List.range 256 = l
    exact foldl_part State.sst (fun (u : State) i => u.setStr (256 * (p - 120) + i) Stream.reset) (fun _ _ => rfl) l s

theorem sstStatus_state (s : State) {st : Nat} (h : st < 8) : (sstStatus s st).fld rSstStatus 29 3 = st :=
  (State.fld_setFld_other _ _ _ _ _ _ _ _ (.inr (by decide))).trans
    ((State.fld_setFld_other _ _ _ _ _ _ _ _ (.inr (by decide))).trans
      ((State.fld_setFld_same _ _ _ _ _ (by decide)).trans (Nat.mod_eq_of_lt h)))

/-- The next partition begins where the tested one stood. -/
def nextPart (s u : State) (p ms : Nat) : State :=
  { u with sst := { u.sst with
      testing := s.sst.testing.filter (· != p) ++ u.sst.todo.take 1, todo := u.sst.todo.drop 1,
      done := u.sst.done ++ [p], ms := u.sst.ms + ms } }

/-- The pass goes on, or after its last partition to the commit of its record. -/
def passOn (u : State) : State :=
  if u.sst.testing.isEmpty then sstStatus { u with sst := { u.sst with committing := true } } 2 else sstStatus u 1

theorem exec_partitionTestDone {s : State} (hclk : s.clocksRun = true) (hpass : s.fld rSstStatus 29 3 = 1) {p : Fin 143}
    (htest : s.sst.testing.contains p.val = true) (r : BistResult) : exec (.partitionTestDone p r) s
      = .next (passOn (nextPart (failuresTaken s p.val r) (partReset (failuresTaken s p.val r) p.val) p.val r.ms.toNat)) := by
  refine (clocked_run hclk _).trans ((if_pos ?_).trans (apply_ite Host.Outcome.next _ _ _).symm)
  rw [hpass, htest]
  rfl

theorem passOn_shows (u : State) : let t := passOn u
    t.sst.testing = u.sst.testing ∧ t.sst.todo = u.sst.todo ∧ t.sst.done = u.sst.done
      ∧ t.fld rSstStatus 29 3 = (if u.sst.testing = [] then 2 else 1)
      ∧ (u.sst.testing = [] → t.sst.committing = true) := by
  unfold passOn
  cases htest : u.sst.testing with
  | nil => exact ⟨htest, rfl, rfl, sstStatus_state _ (by decide), fun _ => rfl⟩
  | cons p l => exact ⟨htest, rfl, rfl, sstStatus_state _ (by decide), nofun⟩

theorem partitionTestDone_shows (s : State) (p : Nat) (r : BistResult) :
    let t := passOn (nextPart (failuresTaken s p r) (partReset (failuresTaken s p r) p) p r.ms.toNat)
    let left := s.sst.testing.filter (· != p) ++ s.sst.todo.take 1
    t.sst.testing = left ∧ t.sst.todo = s.sst.todo.drop 1 ∧ t.sst.done = s.sst.done ++ [p]
      ∧ t.fld rSstStatus 29 3 = (if left = [] then 2 else 1) ∧ (left = [] → t.sst.committing = true) := by
  have hsst := partReset_sst (failuresTaken s p r) p
  have hlists := failuresTaken_passLists s p r
  generalize partReset (failuresTaken s p r) p = u at hsst
  generalize failuresTaken s p r = v at hsst hlists
  obtain ⟨htesting, hrest⟩ := Prod.mk.inj hlists
  obtain ⟨htodo, hdone⟩ := Prod.mk.inj hrest
  obtain ⟨ht, htd, hd, hpass, hcommit⟩ := passOn_shows (nextPart v u p r.ms.toNat)
  have hleft : (nextPart v u p r.ms.toNat).sst.testing = s.sst.testing.filter (· != p) ++ s.sst.todo.take 1 := by
    unfold nextPart
    rw [hsst, htesting, htodo]
  rw [hleft] at ht hpass hcommit
  refine ⟨ht, htd.trans ?_, hd.trans ?_, hpass, hcommit⟩
  · exact (congrArg (fun x : Sst => x.todo.drop 1) hsst).trans (congrArg (List.drop 1) htodo)
  · exact (congrArg (fun x : Sst => x.done ++ [p]) hsst).trans (congrArg (· ++ [p]) hdone)

/-! ### The record is committed (R507, R520, R521) -/

/-- Entries found again are made hard in the OTP only. -/
theorem hardenAll_only (s : State) (l : List W64) : Only [.sec] s (hardenAll s l).2 := by
  induction l generalizing s with
  | nil => exact Only.refl _ s
  | cons e r ih =>
    unfold hardenAll
    cases firstFree s with
    | none => exact Only.refl _ s
    | some i => exact (only_sec s _).trans (ih _)

/-- The sequence number stands after the magic. -/
theorem recordBytes_seq (seq : Nat) (cold : Bool) (reps fails : List W64) :
    recNat (recordBytes seq cold reps fails) 4 4 = seq % 2 ^ 32 := by
  have hsplit : ∃ rest, recordBytes seq cold reps fails = leBytes 0x53545351 4 ++ (leBytes seq 4 ++ rest) :=
    ⟨_, by simp only [recordBytes, recordBody, List.append_assoc]; rfl⟩
  obtain ⟨rest, hrest⟩ := hsplit
  rw [recNat, hrest, List.drop_left' (leBytes_length ..), List.take_left' (leBytes_length ..), leNat_leBytes]

/-- The record written by a commit. -/
def newRecord (s : State) (reps : List W64) : List Byte :=
  recordBytes ((s.sst.seq + 1) % 2 ^ 32) (!s.sst.shutdown) (reps.take 4096) (s.sst.fails.take 64)

theorem newRecord_seq (s : State) (reps : List W64) : recNat (newRecord s reps) 4 4 = (s.sst.seq + 1) % 2 ^ 32 :=
  (recordBytes_seq ..).trans (Nat.mod_mod _ _)

theorem writeRecord_boot (s : State) (reps : List W64) : (writeRecord s reps).boot
    = if s.sst.src = 1 then { s.boot with recB := newRecord s reps } else { s.boot with recA := newRecord s reps } := rfl

theorem writeRecord_shows (s : State) (reps : List W64) : let b := (writeRecord s reps).boot
    if s.sst.src = 1 then b.recA = s.boot.recA ∧ recNat b.recB 4 4 = (s.sst.seq + 1) % 2 ^ 32
    else b.recB = s.boot.recB ∧ recNat b.recA 4 4 = (s.sst.seq + 1) % 2 ^ 32 := by
  dsimp only
  by_cases h : s.sst.src = 1
  · rw [if_pos h, writeRecord_boot, if_pos h]
    exact ⟨rfl, newRecord_seq ..⟩
  · rw [if_neg h, writeRecord_boot, if_neg h]
    exact ⟨rfl, newRecord_seq ..⟩

/-! ### A repair is applied (R518, R522, R523) -/

theorem applySlice_only (l : List W64) (s : State) (p : Nat) : Only [.wells] s (applySlice l s p) := by
  unfold applySlice
  dsimp only
  split
  · exact Only.refl _ s
  · exact only_wells s _

theorem applyWell_only (l : List W64) (s : State) (w : Nat) : Only [.wells] s (applyWell l s w) := by
  unfold applyWell
  dsimp only
  split
  · exact Only.refl _ s
  · split
    · exact (only_wells s _).trans (only_wells _ _)
    · exact only_wells s _

theorem repairApply_shows (s : State) : (repairApply s).rd rSstStatus = s.rd rSstStatus
    ∧ Only [.wells, .regs] s (repairApply s) := by
  have hunits (l : List W64) : Only [.wells] s ((List.range 8).foldl (applyWell l) ((List.range 64).foldl (applySlice l) s)) :=
    (foldl_only _ (applySlice_only l) _ s).trans (foldl_only _ (applyWell_only l) _ _)
  have hfails (f : Nat → W64) (l : List Nat) (u : State) :
      (l.foldl (fun (t : State) i => t.wr (rSstFail i) (f i)) u).rd rSstStatus = u.rd rSstStatus
        ∧ Only [.regs] u (l.foldl (fun (t : State) i => t.wr (rSstFail i) (f i)) u) :=
    ⟨foldl_part (State.rd · rSstStatus) _ (fun v i => State.rd_wr_other v _ (by unfold rSstStatus rSstFail; omega)) l u,
      foldl_only _ (fun v i => only_wr v _ _) l u⟩
  unfold repairApply
  refine ⟨?_, ?_⟩
  · refine (State.rd_setFld_other _ _ _ _ (by decide)).trans ((State.rd_setFld_other _ _ _ _ (by decide)).trans ?_)
    refine (hfails _ _ _).1.trans ?_
    refine (State.rd_wr_other _ _ (by decide)).trans ((State.rd_wr_other _ _ (by decide)).trans ?_)
    refine (State.rd_wr_other _ _ (by decide)).trans ((State.rd_wr_other _ _ (by decide)).trans ?_)
    exact (State.rd_wr_other _ _ (by decide)).trans (State.rd_of_regs ((hunits _) .regs rfl) _)
  · refine Only.then_wr ?_ _ _ (by simp)
    refine Only.then_wr ?_ _ _ (by simp)
    refine Only.trans ?_ ((hfails _ _ _).2.mono (by simp))
    refine Only.then_wr ?_ _ _ (by simp)
    refine Only.then_wr ?_ _ _ (by simp)
    refine Only.then_wr ?_ _ _ (by simp)
    refine Only.then_wr ?_ _ _ (by simp)
    refine Only.then_wr ?_ _ _ (by simp)
    exact (hunits _).mono (by simp)

theorem repairSelect_shows (s : State) : let t := repairSelect s
    t.fld rSstStatus 29 3 = s.fld rSstStatus 29 3 ∧ t.sst.committing = s.sst.committing ∧ t.boot = s.boot := by
  unfold repairSelect
  dsimp only
  split
  · exact ⟨rfl, rfl, rfl⟩
  · exact ⟨State.fld_setBit_other s _ _ _ _ _ _ (.inr (by decide)), rfl, rfl⟩

/-! ### SST_COMMIT_COMPLETE -/

/-- The record stands and the pass is done. -/
def passDone (u : State) (reps : List W64) (hard fresh : Nat) : State :=
  let t := writeRecord u reps
  let t := (t.setFld rSstSummary 21 4 hard).setFld rSstSummary 0 10 fresh
  let t := t.setFld rSstSummary 10 11 (rowsFree t)
  sstStatus { t with sst := { t.sst with committing := false, testing := [] } } 3

theorem passDone_shows (u : State) (reps : List W64) (hard fresh : Nat) : let t := passDone u reps hard fresh
    t.fld rSstStatus 29 3 = 3 ∧ t.sst.committing = false ∧ t.sst.shutdown = u.sst.shutdown
      ∧ t.boot = (writeRecord u reps).boot :=
  ⟨sstStatus_state _ (by decide), rfl, rfl, rfl⟩

/-- What follows the commit: W5, or at a cold start the repair is applied. -/
def passEnded (t : State) : State :=
  if t.sst.shutdown then offEntered t else repairApply (repairSelect t)

theorem passEnded_shows (t : State) : let u := passEnded t
    u.fld rSstStatus 29 3 = t.fld rSstStatus 29 3 ∧ u.sst.committing = t.sst.committing ∧ u.boot = t.boot
      ∧ (t.sst.shutdown = true → wakeState u = 5 ∧ u.pwr.offPin = false) := by
  unfold passEnded
  cases hshut : t.sst.shutdown with
  | true =>
    obtain ⟨hwake, hpin, hregs, honly⟩ := offEntered_shows t
    exact ⟨hregs.fld (o := rSstStatus) (by decide) _ _, congrArg Sst.committing (honly .sst rfl), honly .boot rfl, fun _ => ⟨hwake, hpin⟩⟩
  | false =>
    obtain ⟨hpass, hcommit, hboot⟩ := repairSelect_shows t
    obtain ⟨hrd, honly⟩ := repairApply_shows (repairSelect t)
    rw [if_neg nofun]
    generalize repairApply (repairSelect t) = u at hrd honly ⊢
    exact ⟨(congrArg (bits · 29 3) hrd).trans hpass, (congrArg Sst.committing (honly .sst rfl)).trans hcommit,
      (honly .boot rfl).trans hboot, nofun⟩

/-- The entries made hard with a good supply, and the state that stands then. -/
def hardened (s : State) (good : Bool) : List W64 × State := if good then hardenAll s (hardenList s) else ([], s)

theorem hardened_only (s : State) (good : Bool) : Only [.sec] s (hardened s good).2 := by
  cases good with
  | false => exact Only.refl _ s
  | true => exact hardenAll_only s _

/-- The repair entries of the new record. -/
def committedEntries (s : State) (good : Bool) : List W64 :=
  (s.sst.entries.filter fun e => !(hardened s good).1.contains e) ++ s.sst.repairs

/-- The sites that failed for the first time. -/
def freshFails (s : State) : Nat := (s.sst.fails.filter fun e => !(allEntries s).any (sameSite e)).length

/-- The pass of s done, with its record in force. -/
def passCommitted (s : State) (good : Bool) : State :=
  passDone (hardened s good).2 (committedEntries s good) (hardened s good).1.length (Nat.min 1023 (freshFails s))

theorem exec_sstCommitComplete {s t : State} (hclk : s.clocksRun = true) (hpass : s.fld rSstStatus 29 3 = 2) (good : Bool)
    (ht : passCommitted s good = t) : exec (.sstCommitComplete good) s = .next (passEnded t) := by
  refine (clocked_run hclk _).trans ((if_pos (by rw [hpass]; rfl)).trans ?_)
  simp only [passCommitted, passDone, committedEntries, freshFails, hardened] at ht
  simp only [ht]
  exact (apply_ite Host.Outcome.next _ _ _).symm

theorem sstCommitComplete_shows (s : State) (hclk : s.clocksRun = true) (hpass : s.fld rSstStatus 29 3 = 2) (good : Bool) :
    Completes (.sstCommitComplete good) s fun t =>
      t.fld rSstStatus 29 3 = 3 ∧ t.sst.committing = false
      ∧ (if s.sst.src = 1 then t.boot.recA = s.boot.recA ∧ recNat t.boot.recB 4 4 = (s.sst.seq + 1) % 2 ^ 32
        else t.boot.recB = s.boot.recB ∧ recNat t.boot.recA 4 4 = (s.sst.seq + 1) % 2 ^ 32)
      ∧ (s.sst.shutdown = true → wakeState t = 5 ∧ t.pwr.offPin = false) := by
  have honly := hardened_only s good
  have hwritten := writeRecord_shows (hardened s good).2 (committedEntries s good)
  obtain ⟨hdone, hcommit, hshut, hrec⟩ := passDone_shows (hardened s good).2 (committedEntries s good)
    (hardened s good).1.length (Nat.min 1023 (freshFails s))
  obtain ⟨hdone', hcommit', hrec', hoff⟩ := passEnded_shows (passCommitted s good)
  have hsst : (hardened s good).2.sst = s.sst := honly .sst rfl
  have hboot : (hardened s good).2.boot = s.boot := honly .boot rfl
  rw [hsst, hboot] at hwritten
  refine ⟨_, exec_sstCommitComplete hclk hpass good rfl, hdone'.trans hdone, hcommit'.trans hcommit, ?_, fun h => hoff ?_⟩
  · rw [hrec'.trans hrec]
    exact hwritten
  · exact hshut.trans ((congrArg Sst.shutdown hsst).trans h)

end Sys2Proof.Machine
end

section
/-! Resets, starts and the self-test as one statement (O55). -/

namespace Sys2Proof.Machine

theorem powerOnReset_shows (s : State) : Completes .powerOnReset s fun t =>
    t.mem = [] ∧ t.tb = Tb.reset ∧ t.wells = [] ∧ t.strs = [] ∧ t.boot.porst = false
      ∧ startPhase t = 0 ∧ t.sec.otp = s.sec.otp ∧ t.pending = s.pending ∧ t.tripped = s.tripped := by
  obtain ⟨hmem, htb, hwells, hstrs, hphase, hotp, hpend, htrip⟩ := powerOn_shows s
  refine ⟨_, rfl, ?_⟩
  generalize powerOn s = u at *
  exact ⟨hmem, htb, hwells, hstrs, rfl, hphase, hotp, hpend, htrip⟩

theorem supplyOutOfRange_shows (s : State) : Completes .supplyOutOfRange s fun t =>
    t.mem = [] ∧ t.tb = Tb.reset ∧ t.boot.supply = false ∧ t.tripped = false ∧ t.sec.otp = s.sec.otp := by
  obtain ⟨hmem, htb, -, -, -, hotp, -, -⟩ := powerOn_shows s
  refine ⟨_, rfl, ?_⟩
  generalize powerOn s = u at *
  exact ⟨hmem, htb, rfl, congrArg (bitAt · 31) (State.rd_wr_same u rHiTrip 0), hotp⟩

theorem resetRisingEdge_porst_shows {s : State} (h : s.boot.porst = false ∨ s.boot.supply = false) :
    Completes (.resetRisingEdge .porst) s fun t => t.powerUp = true ∧ t.boot.starting = true ∧ Only [.boot] s t := by
  have hlow : ¬ (s.boot.porst && s.boot.supply) = true := by
    rw [Bool.and_eq_true, not_and_or, Bool.not_eq_true, Bool.not_eq_true]
    exact h
  exact ⟨_, if_neg hlow, rfl, rfl, only_boot s _⟩

theorem resetRisingEdge_wrst_shows (s : State) : Completes (.resetRisingEdge .wrst) s fun t =>
    t.boot = { s.boot with wrst := true } ∧ Only [.boot] s t := ⟨_, rfl, rfl, only_boot s _⟩

theorem warmReset_shows {s : State} (htrip : s.tripped = false) (hpow : s.powerUp = true) (hnone : s.boot.warm = none) :
    Completes .warmReset s fun t => t.boot.warm = some (.pin, false) ∧ t.boot.wrst = false ∧ Only [.boot] s t :=
  ⟨_, congrArg Host.Outcome.next (warmRequest_first (s := { s with boot := { s.boot with wrst := false } })
    htrip hpow hnone .pin false), rfl, rfl, only_boot s _⟩

theorem hiResetWarm_shows {s : State} (htrip : s.tripped = false) (hpow : s.powerUp = true) (hnone : s.boot.warm = none)
    (cold : Bool) : Completes (.hiResetWarm 0xA5C3 cold) s fun t =>
      t.boot.warm = some (.register, cold) ∧ Only [.boot] s t :=
  ⟨_, congrArg Host.Outcome.next (warmRequest_first htrip hpow hnone .register cold), rfl, only_boot s _⟩

/-- Without the key a write of `HI_RESET` does nothing (R498). -/
theorem hiReset_refuses {key : BitVec 16} (h : key ≠ 0xA5C3) (s : State) (cold : Bool) :
    exec (.hiResetWarm key cold) s = .next s ∧ exec (.hiResetMp key) s = .next s := by
  have hkey : key.toNat ≠ resetKey := fun heq => h (BitVec.eq_of_toNat_eq heq)
  refine ⟨congrArg Host.Outcome.next (if_neg hkey), congrArg Host.Outcome.next ?_⟩
  rw [hiReset_no_key (by rw [mpResetWord_key]; exact hkey)]
  exact ite_self _

theorem hiResetMp_shows {s : State} (hpow : s.powerUp = true) (hwrst : s.boot.wrst = true) :
    Completes (.hiResetMp 0xA5C3) s fun t => t.mp.restarting = true ∧ t.mp.queue = [] ∧ t.wells = s.wells
      ∧ t.dc = s.dc ∧ ∀ a, t.mem.byte a = s.mem.byte a := by
  have hup : (s.boot.porst && s.boot.supply && s.boot.wrst) = true := by
    rw [hwrst, Bool.and_true]
    exact hpow
  obtain ⟨hrestart, hqueue, -, -, -, honly⟩ := mpReset_shows s
  refine ⟨_, congrArg Host.Outcome.next ((if_pos hup).trans (hiReset_key (by decide) (by decide) (by decide) s)), ?_⟩
  exact ⟨hrestart, hqueue, honly .wells rfl, honly .dc rfl, honly .mem rfl⟩

theorem warmResetEffect_shows {s : State} {c : WarmCause} {cold : Bool} (hclk : s.clocksRun = true)
    (hwarm : s.boot.warm = some (c, cold)) (confirmed : Bool) : Completes (.warmResetEffect confirmed) s fun t =>
      t.tb.dt = s.tb.dt ∧ t.err.log = s.err.log ∧ t.fld rErrHead 0 32 = s.fld rErrHead 0 32 ∧ t.wells = [] ∧ t.strs = []
      ∧ t.boot.warm = none ∧ t.boot.starting = true ∧ t.fld rHiStart 26 3 = causeCode c ∧ t.sec.otp = s.sec.otp
      ∧ (confirmed = true → c ≠ .security → s.bit rCapMem 31 = true →
          ∀ a, a < 0x100000000000 → t.mem.byte a = s.mem.byte a) := by
  obtain ⟨hdt, hlog, hhead, hwells, hstrs, hnone, hstart, hcause, hotp, hmem⟩ :=
    warmEffect_shows s c cold (confirmed && decide (c ≠ .security) && s.bit rCapMem 31)
  refine ⟨_, exec_warmResetEffect hclk hwarm confirmed, hdt, hlog, hhead, hwells, hstrs, hnone, hstart, hcause, hotp,
    fun hconf hsec htrained => hmem ?_⟩
  rw [hconf, htrained, decide_eq_true hsec]
  rfl

section Start

variable {s : State} (hgo : startGoes s = true) (env : StartEnv)
include hgo

theorem startPhase_firmware_shows (h : startPhase s = 0) :
    Completes (.startPhase env) s fun t => startPhase t = if fwVerify s then 1 else 6 :=
  ⟨_, exec_startPhase_firmware hgo env h, phaseFirmware_phase s⟩

theorem startPhase_repair_shows (h : startPhase s = 1) (hone : s.boot.fromOne = false) (hnone : selectCopy s = 0) :
    Completes (.startPhase env) s fun t =>
      startPhase t = 2 ∧ t.fld rSstStatus 29 3 = 1 ∧ t.sst.testing.length = 4 ∧ t.bit rHiStart 25 = true :=
  ⟨_, exec_startPhase_repair hgo env h hone, phaseRepair_cold_shows hnone⟩

theorem startPhase_init_shows (h : startPhase s = 2) (hbusy : sstBusy s = false) (hcheck : startPhase (repairCheck s) = 2)
    (hfail : env.calFail = []) : Completes (.startPhase env) s fun t => startPhase t = 3 ∧ t.fld rPwrMode 16 11 = 1000
      ∧ OnlyRegs [rHiStart, rPwrMode] s t ∧ Only [.regs, .pwr] s t := by
  have hsame : repairCheck s = s := (repairCheck_cases s).resolve_right (by rw [hcheck]; decide)
  refine ⟨_, exec_startPhase_init hgo env h hbusy hsame hfail, ?_⟩
  rw [phaseInit_eq]
  exact balancedPoint_shows s (voltOf_balanced s)

theorem startPhase_dram_shows (h : startPhase s = 3) : Completes (.startPhase env) s fun t => startPhase t = 4 :=
  ⟨_, exec_startPhase_dram hgo env h, phaseDram_phase s env⟩

theorem startPhase_ready_shows (h : startPhase s = 4) : Completes (.startPhase env) s fun t =>
    startPhase t = 5 ∧ t.dc.en = true ∧ t.boot.devReady = true ∧ t.boot.starting = false :=
  ⟨_, exec_startPhase_ready hgo env h, phaseReady_shows s env⟩

end Start

theorem startPhase_stays {s : State} (h : startGoes s = false) (env : StartEnv) : exec (.startPhase env) s = .next s :=
  if_neg (by simp [h])

/-- Settles O55, a lemma for each reset, each phase of a start and each step of the self-test. Three readings
are the model's own: memory is zero after a power-on reset (log 6), a held trip ends with the loss of the
supply and not at a power-on reset (log 138, where R471 holds it until power is removed), and copy A is
written where no copy is valid (log 139). R501 makes a start with no valid record a cold one, R507 gives the
copy that a commit writes, and R475 the request to cut the power after a shutdown pass. -/
theorem resetsStartsAndSelfTest : Obligations.ResetsStartsAndSelfTest := by
  intro s
  refine ⟨powerOnReset_shows s, supplyOutOfRange_shows s, resetRisingEdge_porst_shows, resetRisingEdge_wrst_shows s,
    fun htrip hpow hnone => ⟨warmReset_shows htrip hpow hnone, hiResetWarm_shows htrip hpow hnone⟩,
    fun key cold hkey => hiReset_refuses hkey s cold, hiResetMp_shows,
    fun c cold confirmed hclk hwarm => warmResetEffect_shows hclk hwarm confirmed, fun env hgo => ?_,
    fun env hstay => startPhase_stays hstay env, fun p r hclk hpass htest => ?_,
    fun good hclk hpass => sstCommitComplete_shows s hclk hpass good⟩
  · exact ⟨startPhase_firmware_shows hgo env, startPhase_repair_shows hgo env, exec_startPhase_waits hgo env,
      startPhase_init_shows hgo env, startPhase_dram_shows hgo env, startPhase_ready_shows hgo env⟩
  · exact ⟨_, exec_partitionTestDone hclk hpass htest r, partitionTestDone_shows s p.val r⟩

end Sys2Proof.Machine
end
